-- ==== Sys2Proof/Word.lean ====
section
/-! DEFINITION. The word types of the GK9 (R42, R54) and the shape of sparse data. -/

namespace Sys2Proof

/-- One byte of a row, scratchpad or host page. -/
abbrev Byte := BitVec 8

/-- A lane-register value, one base or extension word (R42, R54). -/
abbrev W32 := BitVec 32

/-- A uniform-register value, a handle, a doubleword (R26, R54). -/
abbrev W64 := BitVec 64

/-- A set of the 96 lanes of a group; bit `l` is lane `l` (R56, R278). -/
abbrev LaneSet := BitVec 96

/-- The number of a lane or uniform register, 0 to 127 (R44). -/
abbrev Reg := Fin 128

/-- One lane register across the lanes of a group: entry `l` is lane `l` (R54); a lane
beyond the list holds zero. -/
abbrev LaneVec := List W32

/-- Sparse data by number: pairs of a key and its value, keys rising. -/
abbrev Assoc (α : Type) := List (Nat × α)

end Sys2Proof
end

