-- ==== Sys2Proof/Config.lean ====
section
/-! DEFINITION. What an implementation fixes and the spec does not, and the free values: constants with
no body, so that no proof can lean on a value of theirs. -/

namespace Sys2Proof.Config

/-- BUSY of %bwm at one reading (R59): a free value, one per reading [A3]. -/
opaque busy : Nat → BitVec 13

/-- The node hint a `tstp` leaves in a cursor (R32): any value gives the same results [A3]. -/
opaque nodeHint : Nat → BitVec 32

/-- The hash of (table id, home unit) into a home map of 4,096 entries (R38) [A6]. -/
opaque homeHash : Nat → Nat → BitVec 12

/-- The stack that an entry of the module's home map names at start, 0 to 11 (R38) [A6]. -/
opaque homeStack : BitVec 12 → Fin 12

/-- The stack of its die, 0 to 2, that an entry of a die's home map names at start (R38) [A6]. -/
opaque dieHomeStack : Nat → BitVec 12 → Fin 3

/-- The pseudo-channel of its stack that a home-map entry names at start (R38) [A6]. -/
opaque homeChannel : Nat → BitVec 12 → Fin 64

/-- The index stack of an interleaved table, 0 to 11 (R182) [A6]. -/
opaque indexStack : Nat → Fin 12

/-- The index stack of a table pinned to a die, 0 to 2 of that die (R182) [A6]. -/
opaque dieIndexStack : Nat → Fin 3

/-- The stack that takes over when firmware rewrites the map entries of a stack with no channel
left (R38) [A6]. -/
opaque spareStack : Nat → Fin 12

/-- The live pseudo-channel chosen by firmware when it rewrites a map entry (R38) [A6]. -/
opaque spareChannel : Nat → Nat → Fin 64

/-- The entry that a full handle TLB gives up for a new page (R8) [A64]. -/
opaque tlbVictim : Nat → Nat

/-- The line that a full L1, or a full L2's visitor lines, give up for a new one, among those that may be
replaced first (R8, R41) [A64]. -/
opaque lineVictim : Nat → Nat

/-- The path that a packet takes where its flow has more than one (R170, R171) [A66]. -/
opaque pathChoice : Nat → Nat

/-- The mode key of a pseudo-channel after its nth exit from broadcast mode (R253, R371) [A3]. -/
opaque modeKey : Nat → Nat → BitVec 64

/-- The identity secret of the physically unclonable function (R319) [A7]. -/
opaque pufSecret : BitVec 384

/-- The private seeds of the identity key pairs derived from the identity secret: bits 255:0 of Ed25519, bits
511:256 of ML-DSA-65 (R319) [A7]. -/
opaque identityKeys : BitVec 384 → BitVec 512

/-- The private seeds of the alias key pairs derived from the identity secret and mreg0, laid out the same way
(R319) [A7]. -/
opaque aliasKeys : BitVec 384 → BitVec 384 → BitVec 512

/-- The random bytes that the signing of a message with ML-DSA-65 draws (R319) [A7]. -/
opaque signRandom : List Byte → BitVec 256

/-- Caeryel's certificate of the identity public keys (R319) [A7]. -/
opaque makerCertificate : List Byte → List Byte

/-- The private number of an ECDHE exchange on secp384r1, one per exchange (R321) [A7]. -/
opaque ecdheKey : Nat → BitVec 384

end Sys2Proof.Config
end

