-- ==== Sys2Proof/Syntax.lean ====
section
/-! DEFINITION. The instruction and event rows of the opcode table as one inductive type
(R42 to R53, R67, R68 for the words; the rule of each row for the events). -/

namespace Sys2Proof

/-- The COND codes of the compare instructions (R53). -/
inductive Cond where
  | eq | ne | lt | le | gt | ge | un | ord
  deriving DecidableEq, Repr

/-- The type codes 0 to 15 (R52). -/
inductive Ty where
  | i8 | i16 | i32 | i64 | n8 | n16 | n32 | n64
  | f32 | f16 | bf16 | e4 | e5 | x8 | x4 | k128
  deriving DecidableEq, Repr

/-- Access widths of 1, 2, 4, 8 and 16 bytes (R50 WID). -/
inductive Width where
  | w1 | w2 | w4 | w8 | w16
  deriving DecidableEq, Repr

/-- Orders of a memory instruction (R50 ORD). -/
inductive Order where
  | relaxed | acquire | release | acqRel
  deriving DecidableEq, Repr

/-- Cache hints (R50 HINT, R18 RETC). -/
inductive Hint where
  | normal | evictFirst | noAllocate | keep
  deriving DecidableEq, Repr

/-- The observer bits OC, OX, OM, OP_ and OH of EXT-M (R50). -/
structure Obs where
  c : Bool
  x : Bool
  m : Bool
  p : Bool
  h : Bool
  deriving DecidableEq, Repr

/-- The fields of EXT-M that every memory instruction has (R50), SPEC apart. -/
structure MemExt where
  off  : BitVec 16
  obs  : Obs
  ord  : Order
  wid  : Width
  hint : Hint
  deriving DecidableEq, Repr

/-- The atomic operations, SPEC 0 to 10 (R192). -/
inductive AtomOp where
  | add | and | or | xor | minI | minN | maxI | maxN | exch | cas | fadd
  deriving DecidableEq, Repr

/-- The operations of `vred` and `vscn`, COND 0 to 5 (R107). -/
inductive RedOp where
  | add | min | max | and | or | xor
  deriving DecidableEq, Repr

/-- The source-lane rules of `shfl`, COND 0 to 3 (R105). -/
inductive ShflMode where
  | idx | up | dn | xor
  deriving DecidableEq, Repr

/-- The results of `vote`, COND 0 to 4 (R109). -/
inductive VoteMode where
  | any | all | cnt | lo | hi
  deriving DecidableEq, Repr

/-- The handle-forming modes of `thdl`, MODE 0 to 2 (R196). -/
inductive ThdlMode where
  | tab | self | peer
  deriving DecidableEq, Repr

/-- The modes of `chmode`, EXT-I 0 to 2 (R253). -/
inductive ChMode where
  | arm | go | off
  deriving DecidableEq, Repr

/-- A unit that can fail or be retired (R15, R336). -/
inductive UnitKind where
  | die | stack | link | core
  deriving DecidableEq, Repr

/-- What an uncorrectable error hits (R333, R334). -/
inductive EccTarget where
  /-- A 32-byte unit of table or private memory, by the memory key of its first byte. -/
  | memUnit (key : Nat)
  /-- A 32-byte unit of a team's scratchpad. -/
  | spadUnit (team off : Nat)
  /-- A lane register of a group. -/
  | laneReg (gid : Nat) (r : Reg)
  /-- A uniform register of a group. -/
  | uniReg (gid : Nat) (r : Reg)
  /-- An accumulator tile of a team. -/
  | tile (team t : Nat)
  /-- State of a group or team that is not data. -/
  | control (launch : Nat)
  /-- A table descriptor. -/
  | descriptor (tid : Nat)
  /-- An index node of a table. -/
  | indexNode (tid : Nat)
  /-- A launch record, by the handle of its row. -/
  | launchRecord (handle : Nat)
  /-- Stag SRAM or the arbiter's journal beyond its own ECC. -/
  | stag
  deriving DecidableEq, Repr

/-- An image of the boot chain (R318 to R320) as it is loaded: its bytes, its version, the Ed25519 and the
ML-DSA-65 public key under which it is signed, and its signature in the composite form. -/
structure BootImage where
  bytes : List Byte
  version : List Byte
  edKey : List Byte
  mlKey : List Byte
  sig : List Byte
  deriving DecidableEq, Repr

/-- What the boot chain of R320 and the start steps of R339 meet at one start: the images of mreg0 to mreg4, the
units whose step fails at this start, as (STEP, UNIT), the cores that fail the cluster self-test, the
pseudo-channels that HBM training leaves with half of their lanes (R258), and the power limit of the
configuration image (R373). -/
structure BootInput where
  images : List BootImage
  failed : List (Nat × Nat)
  cores  : List Nat
  narrow : List Nat
  limit : Nat
  deriving DecidableEq, Repr

/-- What happens to the Stag at a MODULE_RESET event: the reset, the next part of the start that it began
(R320, R375), or a digest that the physical function supplies for mreg8 to mreg23 (R318). -/
inductive StartMsg where
  | reset (boot : BootInput)
  | go
  | supply (i : Nat) (digest : BitVec 384)
  deriving DecidableEq, Repr

/-- A numbered object with a part of it: what the parts are, the event says that names them; 0 is the first or
the whole. -/
structure Piece where
  id : Nat
  part : Nat
  deriving DecidableEq, Repr

/-- A wrap key as it comes within an SPDM session (R303). -/
structure WrapMsg where
  session : Nat
  key : BitVec 256
  deriving DecidableEq, Repr

/-- A TDISP message other than STOP_INTERFACE (R316). -/
inductive TdispMsg where
  | assign | unassign
  /-- LOCK_INTERFACE, within an SPDM session, which is bound to the TDI (R303). -/
  | lockInterface (session : Nat)
  | startInterface | interfaceReport | interfaceState | getVersion | getCapabilities
  deriving DecidableEq, Repr

/-- The rows of spec/opcode_table.json. The first 166 are the words of R67 and R68; the rest are the
steps of the other agents, which no word encodes; the events without data stand last. -/
inductive Instr where
  /-- NOP, 0x00 (R285). -/
  | nop
  /-- EXIT, 0x01 (R286). -/
  | exit
  /-- BR, 0x02 (R282). -/
  | br (toff : BitVec 16)
  /-- BRC, 0x03 (R283). -/
  | brc (a : Reg) (wa n : Bool) (toff joff : BitVec 16)
  /-- CALL, 0x04 (R282). -/
  | call (d : Reg) (toff : BitVec 16)
  /-- RET, 0x05 (R282). -/
  | ret (a : Reg) (wa : Bool)
  /-- JMP, 0x06 (R282). -/
  | jmp (a : Reg) (wa : Bool)
  /-- TRAP, 0x07 (R287). -/
  | trap (imm : W32)
  /-- PDP, 0x08 (R284). -/
  | pdp (a : Reg) (wa n : Bool)
  /-- PDI, 0x09 (R284). -/
  | pdi
  /-- PDO, 0x0A (R284). -/
  | pdo
  /-- FMTS, 0x0B (R85). -/
  | fmts (img : BitVec 14)
  /-- GSR, 0x0C (R288). -/
  | gsr (d sp : Reg)
  /-- GSSR, 0x0D (R288). -/
  | gssr (sp a : Reg) (wa : Bool)
  /-- WFULL, 0x0E (R289). -/
  | wfull (lane : Bool) (a : Reg) (wa : Bool)
  /-- GADD, 0x10 (R116). -/
  | gadd (d a b : Reg) (wa wb : Bool)
  /-- GSUB, 0x11 (R116). -/
  | gsub (d a b : Reg) (wa wb : Bool)
  /-- GMUL, 0x12 (R116). -/
  | gmul (d a b : Reg) (wa wb : Bool)
  /-- GMAD, 0x13 (R116). -/
  | gmad (d a b c : Reg) (wa wb wc : Bool)
  /-- GMULH, 0x14 (R116). -/
  | gmulh (d a b : Reg) (wa wb signed : Bool)
  /-- GAND, 0x15 (R116). -/
  | gand (d a b : Reg) (wa wb : Bool)
  /-- GOR, 0x16 (R116). -/
  | gor (d a b : Reg) (wa wb : Bool)
  /-- GXOR, 0x17 (R116). -/
  | gxor (d a b : Reg) (wa wb : Bool)
  /-- GSHL, 0x18 (R116). -/
  | gshl (d a b : Reg) (wa wb : Bool)
  /-- GSHR, 0x19 (R116). -/
  | gshr (d a b : Reg) (wa wb : Bool)
  /-- GSAR, 0x1A (R116). -/
  | gsar (d a b : Reg) (wa wb : Bool)
  /-- GMIN, 0x1B (R116). -/
  | gmin (d a b : Reg) (wa wb : Bool)
  /-- GMINN, 0x1C (R116). -/
  | gminn (d a b : Reg) (wa wb : Bool)
  /-- GMAX, 0x1D (R116). -/
  | gmax (d a b : Reg) (wa wb : Bool)
  /-- GMAXN, 0x1E (R116). -/
  | gmaxn (d a b : Reg) (wa wb : Bool)
  /-- GCMP, 0x1F (R116). -/
  | gcmp (d a b : Reg) (wa wb : Bool) (cond : Cond) (ty : Ty)
  /-- GSEL, 0x20 (R116). -/
  | gsel (d a b c : Reg) (wa wb wc : Bool)
  /-- GMOV, 0x21 (R116). -/
  | gmov (d a : Reg) (wa : Bool)
  /-- GLI, 0x22 (R116). -/
  | gli (d : Reg) (imm : W32)
  /-- GLIH, 0x23 (R116). -/
  | glih (d : Reg) (imm : W32)
  /-- GCNT, 0x24 (R116). -/
  | gcnt (d a : Reg) (wa : Bool)
  /-- GCLZ, 0x25 (R116). -/
  | gclz (d a : Reg) (wa : Bool)
  /-- GFADD, 0x26 (R117). -/
  | gfadd (d a b : Reg) (wa wb : Bool)
  /-- GFMUL, 0x27 (R117). -/
  | gfmul (d a b : Reg) (wa wb : Bool)
  /-- GFMA, 0x28 (R117). -/
  | gfma (d a b c : Reg) (wa wb wc : Bool)
  /-- GFCMP, 0x29 (R117). -/
  | gfcmp (d a b : Reg) (wa wb : Bool) (cond : Cond)
  /-- GCVT, 0x2A (R117). -/
  | gcvt (d a : Reg) (wa : Bool) (dst src : Ty)
  /-- BAR_A, 0x30 (R291). -/
  | barA (bar b : Reg) (wb : Bool)
  /-- BAR_W, 0x31 (R291). -/
  | barW (bar : Reg)
  /-- BAR_S, 0x32 (R291). -/
  | barS (bar b : Reg) (wb : Bool)
  /-- QDEF, 0x33 (R293). -/
  | qdef (a q : Reg) (wa : Bool) (wm1 : Fin 8) (depth : Nat)
  /-- QPSH, 0x34 (R294). -/
  | qpsh (a q : Reg) (wa : Bool)
  /-- QPOP, 0x35 (R294). -/
  | qpop (d q : Reg)
  /-- FNC, 0x36 (R194). -/
  | fnc (obs : Obs) (ord : Order)
  /-- SDEF, 0x37 (R214). -/
  | sdef (a b : Reg) (wa wb : Bool)
  /-- SACQ, 0x38 (R215). -/
  | sacq (a : Reg) (wa : Bool)
  /-- SREL, 0x39 (R215). -/
  | srel (a : Reg) (wa : Bool)
  /-- YIELDP, 0x3A (R330). -/
  | yieldp
  /-- HRET, 0x3B (R327). -/
  | hret
  /-- LNCH, 0x3C (R295). -/
  | lnch (d a : Reg) (wa : Bool)
  /-- LWT, 0x3D (R296). -/
  | lwt (a : Reg) (wa : Bool)
  /-- XRING, 0x40 (R208). -/
  | xring (a b : Reg) (wa wb : Bool) (count : Nat)
  /-- XSEAL, 0x41 (R213). -/
  | xseal (d : Reg)
  /-- XWAIT, 0x42 (R213). -/
  | xwait (cnt : Reg)
  /-- MSEAL, 0x43 (R131). -/
  | mseal (d : Reg)
  /-- MWAIT, 0x44 (R132). -/
  | mwait (cnt : Reg)
  /-- MZERO, 0x45 (R129). -/
  | mzero (t : Reg)
  /-- MLD, 0x46 (R130). -/
  | mld (t a : Reg) (wa : Bool)
  /-- MST, 0x47 (R130). -/
  | mst (t a : Reg) (wa : Bool)
  /-- MMA, 0x48 (R126). -/
  | mma (t a b : Reg) (wa wb : Bool)
  /-- MMAC, 0x49 (R134). -/
  | mmac (t a b : Reg) (wa wb : Bool) (num : BitVec 16)
  /-- TGATH, 0x4A (R207); cnt is n minus 1. -/
  | tgath (a b c : Reg) (wa wb : Bool) (ty : Ty) (cnt : Fin 512) (dft : Bool)
  /-- RCALL, 0x4B (R240). -/
  | rcall (d a b c : Reg) (wa wb wc may trp : Bool) (nr np : Nat)
  /-- FBEG, 0x4C (R234). -/
  | fbeg
  /-- FEND, 0x4D (R235). -/
  | fend
  /-- FABT, 0x4E (R235). -/
  | fabt
  /-- FSTA, 0x4F (R236). -/
  | fsta (d : Reg)
  /-- GLD, 0x50 (R190). -/
  | gld (d a : Reg) (wa sx : Bool) (m : MemExt)
  /-- GST, 0x51 (R190). -/
  | gst (a b : Reg) (wa wb : Bool) (m : MemExt)
  /-- GATM, 0x52 (R191). -/
  | gatm (d a b : Reg) (wa wb : Bool) (op : AtomOp) (m : MemExt)
  /-- GRED, 0x53 (R191). -/
  | gred (a b : Reg) (wa wb : Bool) (op : AtomOp) (m : MemExt)
  /-- THDL, 0x54 (R196). -/
  | thdl (d a : Reg) (wa : Bool) (mode : ThdlMode) (core : Fin 16)
  /-- TGET_UNIFORM, 0x55 (R199). -/
  | tgetU (d a b c : Reg) (wa wb : Bool) (ty : Ty) (dft acq : Bool)
  /-- TINS_UNIFORM, 0x56 (R200). -/
  | tinsU (d a b : Reg) (wa wb : Bool) (tag : BitVec 12) (prov : Bool)
  /-- TDEL_UNIFORM, 0x57 (R201). -/
  | tdelU (d a b : Reg) (wa wb : Bool) (ty : Ty)
  /-- TREP, 0x58 (R202). -/
  | trep (d a b : Reg) (wa wb : Bool)
  /-- TCOM, 0x59 (R203). -/
  | tcom (d a b : Reg) (wa wb : Bool) (ty : Ty) (tag : BitVec 12)
  /-- TRBK, 0x5A (R203). -/
  | trbk (d a b : Reg) (wa wb : Bool) (ty : Ty) (tag : BitVec 12)
  /-- TINFO, 0x5B (R204). -/
  | tinfo (d a : Reg) (wa : Bool) (sel : Fin 11)
  /-- CWB, 0x5C (R216). -/
  | cwb (a b : Reg) (wa wb : Bool)
  /-- CINV, 0x5D (R216). -/
  | cinv (a b : Reg) (wa wb : Bool)
  /-- CRET, 0x5E (R217). -/
  | cret (d a b : Reg) (wa wb : Bool) (ways : Nat)
  /-- CUNP, 0x5F (R217). -/
  | cunp (a : Reg) (wa : Bool)
  /-- CHMODE, 0x60 (R253). -/
  | chmode (a b : Reg) (wa wb : Bool) (mode : ChMode)
  /-- APHL, 0x61 (R254). -/
  | aphl (a b : Reg) (wa wb : Bool)
  /-- IADD_I32, 0x80 (R94). -/
  | iaddI32 (d a b : Reg) (wa wb n : Bool)
  /-- ISUB_I32, 0x81 (R94). -/
  | isubI32 (d a b : Reg) (wa wb n : Bool)
  /-- IMUL_I32, 0x82 (R94). -/
  | imulI32 (d a b : Reg) (wa wb n : Bool)
  /-- IMULH_I32, 0x83 (R94). -/
  | imulhI32 (d a b : Reg) (wa wb n : Bool)
  /-- IMULH_N32, 0x84 (R94). -/
  | imulhN32 (d a b : Reg) (wa wb n : Bool)
  /-- IMAD_I32, 0x85 (R94). -/
  | imadI32 (d a b c : Reg) (wa wb wc n : Bool)
  /-- IADD_I64, 0x86 (R94). -/
  | iaddI64 (d a b : Reg) (wa wb n : Bool)
  /-- ISUB_I64, 0x87 (R94). -/
  | isubI64 (d a b : Reg) (wa wb n : Bool)
  /-- IMIN_I32, 0x88 (R94). -/
  | iminI32 (d a b : Reg) (wa wb n : Bool)
  /-- IMIN_N32, 0x89 (R94). -/
  | iminN32 (d a b : Reg) (wa wb n : Bool)
  /-- IMAX_I32, 0x8A (R94). -/
  | imaxI32 (d a b : Reg) (wa wb n : Bool)
  /-- IMAX_N32, 0x8B (R94). -/
  | imaxN32 (d a b : Reg) (wa wb n : Bool)
  /-- IABS, 0x8C (R94). -/
  | iabs (d a : Reg) (wa n : Bool)
  /-- INEG, 0x8D (R94). -/
  | ineg (d a : Reg) (wa n : Bool)
  /-- IDIV_I32, 0x8E (R95). -/
  | idivI32 (d a b : Reg) (wa wb n : Bool)
  /-- IDIV_N32, 0x8F (R95). -/
  | idivN32 (d a b : Reg) (wa wb n : Bool)
  /-- IAND, 0x90 (R96). -/
  | iand (d a b : Reg) (wa wb n : Bool)
  /-- IOR, 0x91 (R96). -/
  | ior (d a b : Reg) (wa wb n : Bool)
  /-- IXOR, 0x92 (R96). -/
  | ixor (d a b : Reg) (wa wb n : Bool)
  /-- INOT, 0x93 (R96). -/
  | inot (d a : Reg) (wa n : Bool)
  /-- ISHL, 0x94 (R96). -/
  | ishl (d a b : Reg) (wa wb n : Bool)
  /-- ISHR, 0x95 (R96). -/
  | ishr (d a b : Reg) (wa wb n : Bool)
  /-- ISAR, 0x96 (R96). -/
  | isar (d a b : Reg) (wa wb n : Bool)
  /-- IBFE, 0x97 (R97); lm1 is len minus 1. -/
  | ibfe (d a : Reg) (wa n signed : Bool) (pos lm1 : Fin 32)
  /-- IBFI, 0x98 (R97). -/
  | ibfi (d a : Reg) (wa n : Bool) (pos lm1 : Fin 32)
  /-- ICNT, 0x99 (R96). -/
  | icnt (d a : Reg) (wa n : Bool)
  /-- ICLZ, 0x9A (R96). -/
  | iclz (d a : Reg) (wa n : Bool)
  /-- ICMP, 0x9B (R96). -/
  | icmp (d a b : Reg) (wa wb n : Bool) (cond : Cond) (signed : Bool)
  /-- ISEL, 0x9C (R96). -/
  | isel (d a b c : Reg) (wa wb wc n : Bool)
  /-- IPK, 0x9D (R96). -/
  | ipk (d a b : Reg) (wa wb n : Bool)
  /-- IMOV, 0x9E (R96). -/
  | imov (d a : Reg) (wa n : Bool)
  /-- ILI, 0x9F (R96). -/
  | ili (d : Reg) (n : Bool) (imm : W32)
  /-- FADD_F32, 0xA0 (R98). -/
  | faddF32 (d a b : Reg) (wa wb n : Bool)
  /-- FSUB_F32, 0xA1 (R98). -/
  | fsubF32 (d a b : Reg) (wa wb n : Bool)
  /-- FMUL_F32, 0xA2 (R98). -/
  | fmulF32 (d a b : Reg) (wa wb n : Bool)
  /-- FMA_F32, 0xA3 (R98). -/
  | fmaF32 (d a b c : Reg) (wa wb wc n : Bool)
  /-- FMIN_F32, 0xA4 (R98). -/
  | fminF32 (d a b : Reg) (wa wb n : Bool)
  /-- FMAX_F32, 0xA5 (R98). -/
  | fmaxF32 (d a b : Reg) (wa wb n : Bool)
  /-- FCMP_F32, 0xA6 (R98). -/
  | fcmpF32 (d a b : Reg) (wa wb n : Bool) (cond : Cond)
  /-- FABS, 0xA7 (R98). -/
  | fabs (d a : Reg) (wa n : Bool)
  /-- FADD_H2, 0xA8 (R99); bf selects TYPE 10. -/
  | faddH2 (d a b : Reg) (wa wb n bf : Bool)
  /-- FMUL_H2, 0xA9 (R99). -/
  | fmulH2 (d a b : Reg) (wa wb n bf : Bool)
  /-- FMA_H2, 0xAA (R99). -/
  | fmaH2 (d a b c : Reg) (wa wb wc n bf : Bool)
  /-- FDP2, 0xAB (R100). -/
  | fdp2 (d a b c : Reg) (wa wb wc n bf : Bool)
  /-- FRCP, 0xAC (R101). -/
  | frcp (d a : Reg) (wa n : Bool)
  /-- FRSQ, 0xAD (R101). -/
  | frsq (d a : Reg) (wa n : Bool)
  /-- FSQRT, 0xAE (R101). -/
  | fsqrt (d a : Reg) (wa n : Bool)
  /-- FDIV_F32, 0xAF (R101). -/
  | fdivF32 (d a b : Reg) (wa wb n : Bool)
  /-- FEX2, 0xB0 (R101). -/
  | fex2 (d a : Reg) (wa n : Bool)
  /-- FLG2, 0xB1 (R101). -/
  | flg2 (d a : Reg) (wa n : Bool)
  /-- FSNP, 0xB2 (R101). -/
  | fsnp (d a : Reg) (wa n : Bool)
  /-- FCSP, 0xB3 (R101). -/
  | fcsp (d a : Reg) (wa n : Bool)
  /-- FTNH, 0xB4 (R101). -/
  | ftnh (d a : Reg) (wa n : Bool)
  /-- CVT, 0xB5 (R102). -/
  | cvt (d a : Reg) (wa n : Bool) (dst src : Ty)
  /-- XPK, 0xB6 (R103); x4 selects TYPE 14. -/
  | xpk (d a c : Reg) (wa n x4 : Bool)
  /-- XUPK, 0xB7 (R104). -/
  | xupk (d a c : Reg) (wa wc n x4 : Bool)
  /-- SHFL, 0xB8 (R105). -/
  | shfl (d a b : Reg) (wa wb n : Bool) (mode : ShflMode)
  /-- GTOV, 0xB9 (R106). -/
  | gtov (d a : Reg) (wa n : Bool)
  /-- VTOG, 0xBA (R106). -/
  | vtog (d a b : Reg) (wa wb : Bool)
  /-- VRED, 0xBB (R107). -/
  | vred (d a : Reg) (wa n : Bool) (op : RedOp) (ty : Ty)
  /-- VSCN, 0xBC (R108). -/
  | vscn (d a : Reg) (wa n : Bool) (op : RedOp) (ty : Ty)
  /-- VOTE, 0xBD (R109). -/
  | vote (d a : Reg) (wa n : Bool) (mode : VoteMode)
  /-- IPFX, 0xBE (R108). -/
  | ipfx (d a : Reg) (wa n : Bool)
  /-- RND, 0xBF (R111). -/
  | rnd (d a : Reg) (wa n : Bool)
  /-- SAMP, 0xC0 (R113). -/
  | samp (d a b c : Reg) (wa wb wc n : Bool)
  /-- LD, 0xC1 (R190). -/
  | ld (d a : Reg) (wa n sx : Bool) (m : MemExt)
  /-- ST, 0xC2 (R190). -/
  | st (a b : Reg) (wa wb n : Bool) (m : MemExt)
  /-- ATM, 0xC3 (R191). -/
  | atm (d a b : Reg) (wa wb n : Bool) (op : AtomOp) (m : MemExt)
  /-- RED, 0xC4 (R191). -/
  | red (a b : Reg) (wa wb n : Bool) (op : AtomOp) (m : MemExt)
  /-- TRD, 0xC5 (R195). -/
  | trd (d a : Reg) (wa n acq : Bool) (len : Nat)
  /-- TGET_LANE, 0xC6 (R199). -/
  | tgetV (d a b c : Reg) (wa wb n : Bool) (ty : Ty) (dft acq : Bool)
  /-- TINS_LANE, 0xC7 (R200). -/
  | tinsV (d a b : Reg) (wa wb n : Bool) (tag : BitVec 12) (prov : Bool)
  /-- TDEL_LANE, 0xC8 (R201). -/
  | tdelV (d a b : Reg) (wa wb n : Bool) (ty : Ty)
  /-- TSCN, 0xC9 (R205). -/
  | tscn (d a b c : Reg) (wa wb wc n : Bool) (ty : Ty) (dsc : Bool)
  /-- TSTP, 0xCA (R206). -/
  | tstp (d a c : Reg) (wa n : Bool) (ty : Ty) (acq : Bool)
  /-- RCALLV, 0xCB (R240). -/
  | rcallv (d a b c : Reg) (wa wb wc n may trp : Bool) (nr np : Nat)
  /-- PATH_ARRIVE, event (R280). -/
  | pathArrive (gid slot : Nat)
  /-- REGISTER_FILL, event (R60). -/
  | registerFill (x : Piece)
  /-- HANDLE_WALK_COMPLETE, event (R12). -/
  | handleWalkComplete (die page : Nat)
  /-- WRITE_ACK, event (R147). -/
  | writeAck (x : Piece)
  /-- L1_EVICTION, event (R160). -/
  | l1Eviction (cluster line : Nat)
  /-- HOME_WRITE_APPLY, event (R162). -/
  | homeWriteApply (x : Piece)
  /-- HOME_ATOMIC_APPLY, event (R167). -/
  | homeAtomicApply (id : Nat)
  /-- PACKET_ARRIVAL, event (R170). -/
  | packetArrival (src dst seq : Nat)
  /-- FLUSH_MARKER_ARRIVAL, event (R171). -/
  | flushMarkerArrival (src dst seq path : Nat)
  /-- LINK_RETRANSMIT, event (R170). -/
  | linkRetransmit (src dst seq : Nat)
  /-- SCOREBOARD_ENTRY_RETIRE, event (R173). -/
  | scoreboardEntryRetire (core op : Nat) (w : Bool)
  /-- ENGINE_LINE_APPLY, event (R179). -/
  | engineLineApply (x : Piece)
  /-- SPAD_DELIVERY_ARRIVAL, event (R180). -/
  | spadDeliveryArrival (id target : Nat)
  /-- COPY_ENTRY_COMPLETE, event (R212). -/
  | copyEntryComplete (id : Nat)
  /-- ATS_INVALIDATION, event (R314). -/
  | atsInvalidation (fn lo hi : Nat)
  /-- ATS_TRANSLATION_RESPONSE, event (R314). -/
  | atsTranslationResponse (id : Nat) (granted : Option Nat)
  /-- GATHER_COMPLETE, event (R207). -/
  | gatherComplete (id : Nat)
  /-- MATRIX_OP_START, event (R128). -/
  | matrixOpStart (id : Nat)
  /-- MATRIX_OP_COMPLETE, event (R131). -/
  | matrixOpComplete (id : Nat)
  /-- MMAC_RENDEZVOUS, event (R136). -/
  | mmacRendezvous (launch gang num : Nat)
  /-- MATRIX_NARROW, event (R138). -/
  | matrixNarrow (core : Nat)
  /-- REGION_COMMIT, event (R227). -/
  | regionCommit (gid : Nat)
  /-- REGION_ABORT_SOURCE, event (R228). -/
  | regionAbortSource (gid : Nat)
  /-- RELOCATION_START, event (R37). -/
  | relocationStart (tid slot stack : Nat)
  /-- RELOCATION_FLIP, event (R37). -/
  | relocationFlip (tid slot : Nat)
  /-- RCALL_EXECUTE, event (R242). -/
  | rcallExecute (id : Nat)
  /-- RCALL_REPLY, event (R243). -/
  | rcallReply (id : Nat)
  /-- RCALL_TIMEOUT, event (R248). -/
  | rcallTimeout (id : Nat)
  /-- APHID_SWEEP_STEP, event (R255). -/
  | aphidSweepStep (ch : Nat)
  /-- ACTIVATION_ALERT, event (R256). -/
  | activationAlert (ch : Nat)
  /-- LAUNCH_REFERENCE_TAKE, event (R262). -/
  | launchReferenceTake (q : Nat)
  /-- KEY_UNSEAL, event (R304). -/
  | keyUnseal (launch : Nat)
  /-- ROUTE_LOAD, event (R266). -/
  | routeLoad (launch : Nat) (crcOk : Bool)
  /-- ROUTE_PROBE_TIMEOUT, event (R266). -/
  | routeProbeTimeout (launch : Nat)
  /-- RAILS_STABLE, event (R267). -/
  | railsStable (launch : Nat)
  /-- PRIORITY_AGING, event (R263). -/
  | priorityAging (launch : Nat)
  /-- PREEMPT_SIGNAL, event (R328). -/
  | preemptSignal (launch team : Nat)
  /-- PREEMPT_ENTRY, event (R328). -/
  | preemptEntry (gid : Nat)
  /-- PREEMPT_DEADLINE_MISS, event (R329). -/
  | preemptDeadlineMiss (team : Nat)
  /-- TEAM_RESUME, event (R331). -/
  | teamResume (team : Nat)
  /-- TRAP_ENTRY, event (R323). -/
  | trapEntry (gid slot code detail : Nat)
  /-- LAUNCH_RETIRE, event (R16). -/
  | launchRetire (launch : Nat)
  /-- COMPLETION_RECORD_WRITE, event (R368). -/
  | completionRecordWrite (q : Nat)
  /-- UNIT_FAILURE, event (R336). -/
  | unitFailure (kind : UnitKind) (n : Nat)
  /-- PSEUDO_CHANNEL_RETIRE, event (R38). -/
  | pseudoChannelRetire (ch : Nat)
  /-- CHANNEL_NARROW, event (R258). -/
  | channelNarrow (ch : Nat)
  /-- ECC_UNCORRECTABLE, event (R333). -/
  | eccUncorrectable (tgt : EccTarget)
  /-- DIE_OVERTEMP, event (R373). -/
  | dieOvertemp (die : Nat)
  /-- MODULE_RESET, event (R320). -/
  | moduleReset (msg : StartMsg)
  /-- FUNCTION_LEVEL_RESET, event (R317). -/
  | functionLevelReset (tenant : Nat)
  /-- IDE_CHECK_FAILURE, event (R315). -/
  | ideCheckFailure (stream : Nat)
  /-- STOP_INTERFACE, event (R316). -/
  | stopInterface (tenant : Nat)
  /-- TDISP_REQUEST, event (R316). -/
  | tdispRequest (tenant : Nat) (msg : TdispMsg)
  /-- SET_WRAP_KEY, event (R303). -/
  | setWrapKey (tenant : Nat) (msg : WrapMsg)
  /-- CHALLENGE, event (R321). -/
  | challenge (nonce : BitVec 256)
  /-- GET_MEASUREMENTS, event (R321). -/
  | getMeasurements (index : Nat) (nonce : BitVec 256)
  /-- KEY_EXCHANGE, event (R321). -/
  | keyExchange (peer : BitVec 768)
  /-- TBL_CREATE, event (R369). -/
  | tblCreate (fn : Nat)
  /-- TBL_MODIFY, event (R369). -/
  | tblModify (fn : Nat)
  /-- TBL_DESTROY, event (R369). -/
  | tblDestroy (fn : Nat)
  /-- TBL_LOAD, event (R369). -/
  | tblLoad (fn : Nat)
  /-- TBL_READ, event (R369). -/
  | tblRead (fn : Nat)
  /-- TBL_REBUILD, event (R369). -/
  | tblRebuild (fn : Nat)
  /-- STOP, event (R369). -/
  | stop (fn : Nat)
  /-- CHMAP, event (R369). -/
  | chmap (fn : Nat)
  /-- QASSIGN, event (R369). -/
  | qassign (fn : Nat)
  /-- MASKS, event (R369). -/
  | masks (fn : Nat)
  /-- RESERVE, event (R369). -/
  | reserve (fn : Nat)
  /-- CLEAR_START, event (R369). -/
  | clearStart (fn : Nat)
  /-- SQTAIL_DOORBELL, event (R367). -/
  | sqtailDoorbell (fn q val : Nat)
  /-- CQHEAD_WRITE, event (R367). -/
  | cqheadWrite (fn q val : Nat)
  /-- REGISTER_WRITE, event (R366). -/
  | registerWrite (fn off : Nat) (val : W64)
  /-- HOST_LINK_TRAINING, event (R365). -/
  | hostLinkTraining (rate width : Nat) (cxl : Bool)
  /-- VF_ENABLE, event (R374). -/
  | vfEnable (tenant : Nat) (on : Bool)
  /-- LAUNCH_DISPATCH, event (R264). -/
  | launchDispatch
  /-- TEAM_PLACE, event (R268). -/
  | teamPlace
  /-- GANG_START, event (R269). -/
  | gangStart
  /-- CANDIDATE_TAKEOVER, event (R270). -/
  | candidateTakeover
  /-- VICTIM_SELECT, event (R271). -/
  | victimSelect
  /-- POWER_ALARM_RAISE, event (R373). -/
  | powerAlarmRaise
  /-- POWER_ALARM_CLEAR, event (R373). -/
  | powerAlarmClear
  /-- GET_VERSION, event (R321). -/
  | getVersion
  /-- GET_CAPABILITIES, event (R321). -/
  | getCapabilities
  /-- NEGOTIATE_ALGORITHMS, event (R321). -/
  | negotiateAlgorithms
  /-- GET_DIGESTS, event (R321). -/
  | getDigests
  /-- GET_CERTIFICATE, event (R321). -/
  | getCertificate
  /-- FINISH, event (R321). -/
  | finish
  /-- CORRECTED_ERROR, event (R333). -/
  | correctedError
  deriving DecidableEq, Repr

end Sys2Proof
end

