-- ==== Sys2Proof/WellFormed.lean ====
section
/-! DEFINITION. Which instructions a word can hold: the checks of R70 steps 4 and 5 (alignment and
extent of register groups, ranges of literals, legal TYPE, COND, WID and ORD codes), stated on the
decoded form. -/

namespace Sys2Proof

/-- The number of a type code (R52). -/
def Ty.code : Ty → Nat
  | .i8 => 0 | .i16 => 1 | .i32 => 2 | .i64 => 3 | .n8 => 4 | .n16 => 5 | .n32 => 6 | .n64 => 7
  | .f32 => 8 | .f16 => 9 | .bf16 => 10 | .e4 => 11 | .e5 => 12 | .x8 => 13 | .x4 => 14 | .k128 => 15

/-- The number of a WID code (R50). -/
def Width.code : Width → Nat
  | .w1 => 0 | .w2 => 1 | .w4 => 2 | .w8 => 3 | .w16 => 4

/-- The bytes of an access width (R50). -/
def Width.bytes : Width → Nat
  | .w1 => 1 | .w2 => 2 | .w4 => 4 | .w8 => 8 | .w16 => 16

/-- A type that may stand as a key TYPE (R52): 2, 3, 6, 7 or 15. -/
def Ty.isKey : Ty → Bool
  | .i32 | .i64 | .n32 | .n64 | .k128 => true
  | _ => false

/-- Lane registers in one key of a key type (R54, R67: vk). -/
def Ty.keyRegs : Ty → Nat
  | .k128 => 4
  | .i64 | .n64 => 2
  | _ => 1

/-- Uniform registers in one key of a key type (R67: g or g2). -/
def Ty.keyUni : Ty → Nat
  | .k128 => 2
  | _ => 1

/-- A type a conversion may name: codes 0 to 12 (R102). -/
def Ty.isCvt : Ty → Bool
  | .x8 | .x4 | .k128 => false
  | _ => true

/-- Lane registers that hold one value of a conversion type (R102). -/
def Ty.regs : Ty → Nat
  | .i64 | .n64 => 2
  | _ => 1

/-- Lane registers of an access width (R67: v, v2 or v4). -/
def Width.laneRegs : Width → Nat
  | .w16 => 4
  | .w8 => 2
  | _ => 1

/-- Uniform registers of an access width (R67: g or g2). -/
def Width.uniRegs : Width → Nat
  | .w16 => 2
  | _ => 1

/-- A register number that is a multiple of `k` (R44). -/
def Reg.aligned (r : Reg) (k : Nat) : Bool := r.val % k == 0

/-- Two register groups with no register in common. -/
def disjoint (a na b nb : Nat) : Bool := a + na ≤ b || b + nb ≤ a

/-- A condition an integer comparison may use: COND 0 to 5 (R53). -/
def Cond.isInt : Cond → Bool
  | .un | .ord => false
  | _ => true

/-- A matrix format code that FMT accepts (R85). -/
def fmtCodeOk (c : Nat) : Bool :=
  c == 0 || c == 9 || c == 10 || c == 11 || c == 12 || c == 13 || c == 14

/-- An FMT image of bits [13:0] that `fmts` and `gssr` accept (R85). -/
def fmtOk (x : BitVec 14) : Bool :=
  fmtCodeOk (x.toNat % 16) && fmtCodeOk (x.toNat / 16 % 16) && x.toNat / 512 % 2 == 0

/-- A barrier literal, 0 to 47 (R67). -/
def barOk (r : Reg) : Bool := r.val < 48
/-- A queue literal, 0 to 15 (R67). -/
def queueOk (r : Reg) : Bool := r.val < 16
/-- A tile literal, 0 to 27 (R67). -/
def tileOk (r : Reg) : Bool := r.val < 28

/-- An order that a load accepts (R190). -/
def Order.loadOk : Order → Bool
  | .relaxed | .acquire => true
  | _ => false
/-- An order that a store or a reduction accepts (R190, R191). -/
def Order.storeOk : Order → Bool
  | .relaxed | .release => true
  | _ => false

/-- The width and operation of an atomic that returns a value (R191, R192); `lane` for `atm`. -/
def atmOk (lane : Bool) (op : AtomOp) (w : Width) : Bool :=
  match w with
  | .w4 => true
  | .w8 =>
    match op with
    | .fadd => false
    | .cas => !lane
    | _ => true
  | _ => false
/-- The width and operation of a reduction (R191, R192). -/
def redOk (op : AtomOp) (w : Width) : Bool :=
  match op with
  | .exch | .cas => false
  | .fadd => w == .w4
  | _ => w == .w4 || w == .w8

/-- The TYPE codes that `vred` and `vscn` allow for an operation (R107). -/
def redTyOk (op : RedOp) (ty : Ty) : Bool :=
  match op with
  | .add | .min | .max => ty == .i32 || ty == .n32 || ty == .f32
  | _ => ty == .i32 || ty == .n32

/-- Sign extension is legal for these loads (R190). -/
def sxOk (lane sx : Bool) (w : Width) : Bool :=
  !sx || w == .w1 || w == .w2 || (!lane && w == .w4)

/-- The checks that depend on the word alone (R70 steps 4 and 5). Events hold no encoding. -/
def Instr.wf : Instr → Bool
  | .fmts img => fmtOk img
  | .gsr _ sp => sp.val < 13
  | .gmulh _ _ _ _ _ _ => true
  | .gcmp _ _ _ _ _ cond ty => cond.isInt && (ty == .i32 || ty == .i64 || ty == .n32 || ty == .n64)
  | .gcvt _ _ _ dst src => dst.isCvt && src.isCvt
  | .barA bar _ _ => barOk bar
  | .barW bar => barOk bar
  | .barS bar _ _ => barOk bar
  | .qdef _ q _ _ depth => queueOk q && depth ≤ 4096
  | .qpsh _ q _ => queueOk q
  | .qpop _ q => queueOk q
  | .fnc _ ord => ord != .relaxed
  | .xring _ _ _ _ count => count ≤ 16384
  | .mzero t => tileOk t
  | .mld t _ _ => tileOk t
  | .mst t _ _ => tileOk t
  | .mma t a b _ _ => tileOk t && a.aligned 2 && b.aligned 2
  | .mmac t a b _ _ _ => t.val + 8 < 28 && a.aligned 2 && b.aligned 2
  | .tgath _ _ _ _ _ ty _ _ => ty.isKey
  | .rcall d _ b _ _ wb _ _ _ nr np =>
    nr ≤ 4 && np ≤ 8 && (np != 0 || (b.val == 0 && !wb)) && d.val + nr < 128 && b.val + np ≤ 128
  | .gld d _ _ sx m => m.ord.loadOk && sxOk false sx m.wid && d.aligned m.wid.uniRegs
  | .gst _ b _ _ m => m.ord.storeOk && b.aligned m.wid.uniRegs
  | .gatm _ _ b _ _ op m => atmOk false op m.wid && (op != .cas || b.aligned 2)
  | .gred _ _ _ _ op m => redOk op m.wid && m.ord.storeOk
  | .thdl _ _ _ mode core => mode == .peer || core.val == 0
  | .tgetU _ _ b _ _ _ ty _ _ => ty.isKey && b.aligned ty.keyUni
  | .tinsU _ _ _ _ _ tag prov => prov || tag.toNat == 0
  | .tdelU _ _ b _ _ ty => ty.isKey && b.aligned ty.keyUni
  | .tcom _ _ b _ _ ty _ => ty.isKey && b.aligned ty.keyUni
  | .trbk _ _ b _ _ ty _ => ty.isKey && b.aligned ty.keyUni
  | .cret _ _ _ _ _ ways => 1 ≤ ways && ways ≤ 8
  | .chmode _ b _ wb mode => mode == .arm || (b.val == 0 && !wb)
  | .iaddI64 d a b _ _ _ => d.aligned 2 && a.aligned 2 && b.aligned 2
  | .isubI64 d a b _ _ _ => d.aligned 2 && a.aligned 2 && b.aligned 2
  | .ibfe _ _ _ _ _ pos lm1 => pos.val + lm1.val + 1 ≤ 32
  | .ibfi _ _ _ _ pos lm1 => pos.val + lm1.val + 1 ≤ 32
  | .icmp _ _ _ _ _ _ cond _ => cond.isInt
  | .cvt d a _ _ dst src => dst.isCvt && src.isCvt && d.aligned dst.regs && a.aligned src.regs
  | .xpk d _ c _ _ _ => c.val != d.val
  | .vred _ _ _ _ op ty => redTyOk op ty
  | .vscn _ _ _ _ op ty => redTyOk op ty
  | .rnd _ a _ _ => a.aligned 2
  | .samp d _ _ c _ _ _ _ => d.aligned 2 && c.aligned 2 && c.val != d.val
  | .ld d a _ _ sx m => m.ord.loadOk && sxOk true sx m.wid && d.aligned m.wid.laneRegs && a.aligned 2
  | .st a b _ _ _ m => m.ord.storeOk && b.aligned m.wid.laneRegs && a.aligned 2
  | .atm d a b _ _ _ op m =>
    atmOk true op m.wid && a.aligned 2 && (m.wid != .w8 || d.aligned 2) &&
      ((m.wid != .w8 && op != .cas) || b.aligned 2)
  | .red a b _ _ _ op m =>
    redOk op m.wid && m.ord.storeOk && a.aligned 2 && (m.wid != .w8 || b.aligned 2)
  | .trd d a _ _ _ len =>
    len % 4 == 0 && 4 ≤ len && len ≤ 256 && d.aligned 4 && d.val + len / 4 ≤ 128 && a.aligned 2
  | .tgetV d _ b c _ _ _ ty _ _ =>
    ty.isKey && d.aligned 2 && b.aligned ty.keyRegs && disjoint c.val 1 d.val 2 &&
      disjoint c.val 1 b.val ty.keyRegs
  | .tinsV _ _ b _ _ _ tag prov => b.aligned 2 && (prov || tag.toNat == 0)
  | .tdelV _ _ b _ _ _ ty => ty.isKey && b.aligned ty.keyRegs
  | .tscn d _ b c _ _ _ _ ty _ =>
    ty.isKey && d.aligned (4 * ty.keyRegs) && b.aligned ty.keyRegs && c.aligned ty.keyRegs &&
      disjoint d.val (4 * ty.keyRegs) b.val ty.keyRegs &&
      disjoint d.val (4 * ty.keyRegs) c.val ty.keyRegs &&
      disjoint b.val ty.keyRegs c.val ty.keyRegs
  | .tstp d a c _ _ ty _ =>
    ty.isKey && d.aligned 2 && a.aligned (4 * ty.keyRegs) &&
      disjoint d.val 2 a.val (4 * ty.keyRegs) && disjoint d.val 2 c.val 1 &&
      disjoint a.val (4 * ty.keyRegs) c.val 1
  | .rcallv d a b _ _ wb _ _ _ _ nr np =>
    nr ≤ 2 && np ≤ 4 && (np != 0 || (b.val == 0 && !wb)) && d.aligned 2 && a.aligned 2 &&
      d.val + nr < 128 && b.val + np ≤ 128
  | _ => true

end Sys2Proof
end

