-- ==== Sys2Proof/Decode.lean ====
section
/-! DEFINITION. Decoding of instruction words (R42 to R53, R67 to R70 steps 2 to 5), and the encoder
written from the same tables. Every failure of these steps traps ILLEGAL_OPCODE; the decoder names
which step failed. -/

namespace Sys2Proof

/-- Why a word is no instruction: the failing step of R70. -/
inductive DecodeErr where
  /-- Step 2: the opcode is reserved (R69). -/
  | reserved
  /-- Step 3: a must-be-zero base field, W or N bit is set. -/
  | mustBeZero
  /-- Step 4: a register group, tile, literal or special-register number is out of place. -/
  | operand
  /-- Step 5: an extension field is not legal for the opcode. -/
  | extension
  /-- Fewer bytes than the base word, or than the base and extension words. -/
  | truncated
  deriving DecidableEq, Repr

/-- The fields of a base word (R42). -/
structure Base where
  op : Nat
  d  : Reg
  a  : Reg
  b  : Reg
  wa : Bool
  wb : Bool
  n  : Bool
  deriving DecidableEq, Repr

/-- Bit `i` of a word. -/
def bit (w i : Nat) : Bool := w / 2 ^ i % 2 == 1

/-- A 7-bit register field at bit `i`. -/
def regAt (w i : Nat) : Reg := Fin.ofNat 128 (w / 2 ^ i)

/-- The base word cut into its fields (R42). -/
def splitBase (w : Nat) : Base where
  op := w / 2 ^ 24 % 256
  d  := regAt w 17
  a  := regAt w 10
  b  := regAt w 3
  wa := bit w 2
  wb := bit w 1
  n  := bit w 0

/-- The base word made of its fields (R42). -/
def joinBase (f : Base) : Nat :=
  f.op * 2 ^ 24 + f.d.val * 2 ^ 17 + f.a.val * 2 ^ 10 + f.b.val * 2 ^ 3 +
    f.wa.toNat * 4 + f.wb.toNat * 2 + f.n.toNat

/-- The fields of EXT-C (R49). -/
structure ExtC where
  c    : Reg
  wc   : Bool
  cond : Nat
  ty   : Nat
  spec : Nat
  deriving DecidableEq, Repr

/-- EXT-C cut into its fields (R49). -/
def splitC (e : Nat) : ExtC where
  c := regAt e 25
  wc := bit e 24
  cond := e / 2 ^ 20 % 16
  ty := e / 2 ^ 16 % 16
  spec := e % 2 ^ 16

/-- EXT-C made of its fields (R49). -/
def joinC (x : ExtC) : Nat :=
  x.c.val * 2 ^ 25 + x.wc.toNat * 2 ^ 24 + x.cond * 2 ^ 20 + x.ty * 2 ^ 16 + x.spec

/-- The order that an ORD code names (R50). -/
def Order.ofCode (k : Nat) : Order :=
  if k = 0 then .relaxed else if k = 1 then .acquire else if k = 2 then .release else .acqRel
/-- The ORD code of an order (R50). -/
def Order.code : Order → Nat
  | .relaxed => 0 | .acquire => 1 | .release => 2 | .acqRel => 3
/-- The hint that a HINT code names (R50). -/
def Hint.ofCode (k : Nat) : Hint :=
  if k = 0 then .normal else if k = 1 then .evictFirst else if k = 2 then .noAllocate else .keep
/-- The HINT code of a hint (R50). -/
def Hint.code : Hint → Nat
  | .normal => 0 | .evictFirst => 1 | .noAllocate => 2 | .keep => 3
/-- The width that a WID code names; 101 to 111 name none (R50). -/
def Width.ofCode? (k : Nat) : Option Width :=
  if k = 0 then some .w1 else if k = 1 then some .w2 else if k = 2 then some .w4
  else if k = 3 then some .w8 else if k = 4 then some .w16 else none

/-- The fields of EXT-M: the shared ones and SPEC (R50); none for an illegal WID. -/
def splitM (e : Nat) : Option (MemExt × Nat) :=
  match Width.ofCode? (e / 2 ^ 6 % 8) with
  | none => none
  | some w =>
    some (⟨BitVec.ofNat 16 (e / 2 ^ 16), ⟨bit e 15, bit e 14, bit e 13, bit e 12, bit e 11⟩,
      Order.ofCode (e / 2 ^ 9 % 4), w, Hint.ofCode (e / 2 ^ 4 % 4)⟩, e % 16)

/-- EXT-M made of its fields (R50). -/
def joinM (m : MemExt) (spec : Nat) : Nat :=
  m.off.toNat * 2 ^ 16 + m.obs.c.toNat * 2 ^ 15 + m.obs.x.toNat * 2 ^ 14 + m.obs.m.toNat * 2 ^ 13 +
    m.obs.p.toNat * 2 ^ 12 + m.obs.h.toNat * 2 ^ 11 + m.ord.code * 2 ^ 9 + m.wid.code * 2 ^ 6 +
    m.hint.code * 2 ^ 4 + spec

/-- The type of a type code (R52). -/
def Ty.ofCode (k : Nat) : Ty :=
  match k with
  | 0 => .i8 | 1 => .i16 | 2 => .i32 | 3 => .i64 | 4 => .n8 | 5 => .n16 | 6 => .n32 | 7 => .n64
  | 8 => .f32 | 9 => .f16 | 10 => .bf16 | 11 => .e4 | 12 => .e5 | 13 => .x8 | 14 => .x4 | _ => .k128

/-- The condition of a COND code; 8 to 15 name none (R53). -/
def Cond.ofCode? (k : Nat) : Option Cond :=
  match k with
  | 0 => some .eq | 1 => some .ne | 2 => some .lt | 3 => some .le
  | 4 => some .gt | 5 => some .ge | 6 => some .un | 7 => some .ord | _ => none
/-- The COND code of a condition (R53). -/
def Cond.code : Cond → Nat
  | .eq => 0 | .ne => 1 | .lt => 2 | .le => 3 | .gt => 4 | .ge => 5 | .un => 6 | .ord => 7

/-- The atomic operation of a SPEC code (R192). -/
def AtomOp.ofCode? (k : Nat) : Option AtomOp :=
  match k with
  | 0 => some .add | 1 => some .and | 2 => some .or | 3 => some .xor | 4 => some .minI
  | 5 => some .minN | 6 => some .maxI | 7 => some .maxN | 8 => some .exch | 9 => some .cas
  | 10 => some .fadd | _ => none
/-- The SPEC code of an atomic operation (R192). -/
def AtomOp.code : AtomOp → Nat
  | .add => 0 | .and => 1 | .or => 2 | .xor => 3 | .minI => 4 | .minN => 5 | .maxI => 6
  | .maxN => 7 | .exch => 8 | .cas => 9 | .fadd => 10

/-- The operation of a `vred` COND code (R107). -/
def RedOp.ofCode? (k : Nat) : Option RedOp :=
  match k with
  | 0 => some .add | 1 => some .min | 2 => some .max | 3 => some .and | 4 => some .or
  | 5 => some .xor | _ => none
/-- The COND code of a `vred` operation (R107). -/
def RedOp.code : RedOp → Nat
  | .add => 0 | .min => 1 | .max => 2 | .and => 3 | .or => 4 | .xor => 5

/-- The mode of a `shfl` COND code (R105). -/
def ShflMode.ofCode? (k : Nat) : Option ShflMode :=
  match k with
  | 0 => some .idx | 1 => some .up | 2 => some .dn | 3 => some .xor | _ => none
/-- The COND code of a `shfl` mode (R105). -/
def ShflMode.code : ShflMode → Nat
  | .idx => 0 | .up => 1 | .dn => 2 | .xor => 3

/-- The mode of a `vote` COND code (R109). -/
def VoteMode.ofCode? (k : Nat) : Option VoteMode :=
  match k with
  | 0 => some .any | 1 => some .all | 2 => some .cnt | 3 => some .lo | 4 => some .hi | _ => none
/-- The COND code of a `vote` mode (R109). -/
def VoteMode.code : VoteMode → Nat
  | .any => 0 | .all => 1 | .cnt => 2 | .lo => 3 | .hi => 4

/-- The mode of a `thdl` MODE code (R196). -/
def ThdlMode.ofCode? (k : Nat) : Option ThdlMode :=
  match k with
  | 0 => some .tab | 1 => some .self | 2 => some .peer | _ => none
/-- The MODE code of a `thdl` mode (R196). -/
def ThdlMode.code : ThdlMode → Nat
  | .tab => 0 | .self => 1 | .peer => 2

/-- The mode of a `chmode` EXT-I code (R253). -/
def ChMode.ofCode? (k : Nat) : Option ChMode :=
  match k with
  | 0 => some .arm | 1 => some .go | 2 => some .off | _ => none
/-- The EXT-I code of a `chmode` mode (R253). -/
def ChMode.code : ChMode → Nat
  | .arm => 0 | .go => 1 | .off => 2

/-- The result of decoding. -/
abbrev Dec := Except DecodeErr Instr

/-- Steps 4 and 5 of R70, stated once on the decoded form. -/
def checked (i : Instr) : Dec := if i.wf then .ok i else .error .operand

/-- Step 3 of R70: the named must-be-zero parts are zero. -/
def zeroes (c : Bool) (k : Dec) : Dec := if c then k else .error .mustBeZero

/-- Step 5 of R70: the named extension fields are legal. -/
def legal (c : Bool) (k : Dec) : Dec := if c then k else .error .extension

/-- Base word with D, A and B, no N (uniform three-operand form). -/
def uDAB (f : Base) (k : Dec) : Dec := zeroes (!f.n) k
/-- Base word with D and A only; N as `nOk` allows. -/
def fDA (nOk : Bool) (f : Base) (k : Dec) : Dec :=
  zeroes (f.b.val == 0 && !f.wb && (nOk || !f.n)) k
/-- Base word with D only. -/
def fD (nOk : Bool) (f : Base) (k : Dec) : Dec :=
  zeroes (f.a.val == 0 && f.b.val == 0 && !f.wa && !f.wb && (nOk || !f.n)) k
/-- Base word with A only. -/
def fA (nOk : Bool) (f : Base) (k : Dec) : Dec :=
  zeroes (f.d.val == 0 && f.b.val == 0 && !f.wb && (nOk || !f.n)) k
/-- Base word with a literal or special-register number in A, and nothing else. -/
def fLit (f : Base) (k : Dec) : Dec :=
  zeroes (f.d.val == 0 && f.b.val == 0 && !f.wa && !f.wb && !f.n) k
/-- Base word with A and B only. -/
def fAB (nOk : Bool) (f : Base) (k : Dec) : Dec := zeroes (f.d.val == 0 && (nOk || !f.n)) k
/-- Base word with every field zero. -/
def f0 (f : Base) (k : Dec) : Dec :=
  zeroes (f.d.val == 0 && f.a.val == 0 && f.b.val == 0 && !f.wa && !f.wb && !f.n) k

/-- EXT-C with C and WC unused. -/
def noC (x : ExtC) : Bool := x.c.val == 0 && !x.wc
/-- EXT-C with COND, TYPE and SPEC unused. -/
def noCTS (x : ExtC) : Bool := x.cond == 0 && x.ty == 0 && x.spec == 0

/-- Memory instructions: an illegal WID fails step 5. -/
def withM (e : Nat) (k : MemExt → Nat → Dec) : Dec :=
  match splitM e with
  | none => .error .extension
  | some (m, spec) => k m spec

/-- A code that names something, or a failure of step 5. -/
def named {α : Type} (o : Option α) (k : α → Dec) : Dec :=
  match o with
  | none => .error .extension
  | some x => k x

/-- Opcodes 0x00 to 0x0E: control flow and special registers. -/
def decode0 (f : Base) (e : Nat) : Dec :=
  match f.op with
  | 0x00 => f0 f (checked .nop)
  | 0x01 => f0 f (checked .exit)
  | 0x02 => f0 f (legal (e % 2 ^ 16 == 0) (checked (.br (BitVec.ofNat 16 (e / 2 ^ 16)))))
  | 0x03 => fA true f
      (checked (.brc f.a f.wa f.n (BitVec.ofNat 16 (e / 2 ^ 16)) (BitVec.ofNat 16 e)))
  | 0x04 => fD false f
      (legal (e % 2 ^ 16 == 0) (checked (.call f.d (BitVec.ofNat 16 (e / 2 ^ 16)))))
  | 0x05 => fA false f (checked (.ret f.a f.wa))
  | 0x06 => fA false f (checked (.jmp f.a f.wa))
  | 0x07 => f0 f (checked (.trap (BitVec.ofNat 32 e)))
  | 0x08 => fA true f (checked (.pdp f.a f.wa f.n))
  | 0x09 => f0 f (checked .pdi)
  | 0x0A => f0 f (checked .pdo)
  | 0x0B => f0 f (legal (e / 2 ^ 14 == 0) (checked (.fmts (BitVec.ofNat 14 e))))
  | 0x0C => zeroes (f.b.val == 0 && !f.wa && !f.wb && !f.n) (checked (.gsr f.d f.a))
  | 0x0D => fDA false f (checked (.gssr f.d f.a f.wa))
  | 0x0E => fDA false f
      (if f.d.val < 2 then checked (.wfull (f.d.val == 1) f.a f.wa) else .error .operand)
  | _ => .error .reserved

/-- Opcodes 0x10 to 0x1F: uniform integer arithmetic (R116). -/
def decode1 (f : Base) (e : Nat) : Dec :=
  let x := splitC e
  match f.op with
  | 0x10 => uDAB f (checked (.gadd f.d f.a f.b f.wa f.wb))
  | 0x11 => uDAB f (checked (.gsub f.d f.a f.b f.wa f.wb))
  | 0x12 => uDAB f (checked (.gmul f.d f.a f.b f.wa f.wb))
  | 0x13 => uDAB f (legal (noCTS x) (checked (.gmad f.d f.a f.b x.c f.wa f.wb x.wc)))
  | 0x14 => uDAB f
      (legal (noC x && x.cond == 0 && x.spec == 0 && (x.ty == 3 || x.ty == 7))
        (checked (.gmulh f.d f.a f.b f.wa f.wb (x.ty == 3))))
  | 0x15 => uDAB f (checked (.gand f.d f.a f.b f.wa f.wb))
  | 0x16 => uDAB f (checked (.gor f.d f.a f.b f.wa f.wb))
  | 0x17 => uDAB f (checked (.gxor f.d f.a f.b f.wa f.wb))
  | 0x18 => uDAB f (checked (.gshl f.d f.a f.b f.wa f.wb))
  | 0x19 => uDAB f (checked (.gshr f.d f.a f.b f.wa f.wb))
  | 0x1A => uDAB f (checked (.gsar f.d f.a f.b f.wa f.wb))
  | 0x1B => uDAB f (checked (.gmin f.d f.a f.b f.wa f.wb))
  | 0x1C => uDAB f (checked (.gminn f.d f.a f.b f.wa f.wb))
  | 0x1D => uDAB f (checked (.gmax f.d f.a f.b f.wa f.wb))
  | 0x1E => uDAB f (checked (.gmaxn f.d f.a f.b f.wa f.wb))
  | 0x1F => uDAB f
      (legal (noC x && x.spec == 0) (named (Cond.ofCode? x.cond) fun cond =>
        checked (.gcmp f.d f.a f.b f.wa f.wb cond (Ty.ofCode x.ty))))
  | _ => .error .reserved

/-- Opcodes 0x20 to 0x2A: uniform moves, counts and FP32 (R116, R117). -/
def decode2 (f : Base) (e : Nat) : Dec :=
  let x := splitC e
  match f.op with
  | 0x20 => uDAB f (legal (noCTS x) (checked (.gsel f.d f.a f.b x.c f.wa f.wb x.wc)))
  | 0x21 => fDA false f (checked (.gmov f.d f.a f.wa))
  | 0x22 => fD false f (checked (.gli f.d (BitVec.ofNat 32 e)))
  | 0x23 => fD false f (checked (.glih f.d (BitVec.ofNat 32 e)))
  | 0x24 => fDA false f (checked (.gcnt f.d f.a f.wa))
  | 0x25 => fDA false f (checked (.gclz f.d f.a f.wa))
  | 0x26 => uDAB f (checked (.gfadd f.d f.a f.b f.wa f.wb))
  | 0x27 => uDAB f (checked (.gfmul f.d f.a f.b f.wa f.wb))
  | 0x28 => uDAB f (legal (noCTS x) (checked (.gfma f.d f.a f.b x.c f.wa f.wb x.wc)))
  | 0x29 => uDAB f
      (legal (noC x && x.ty == 0 && x.spec == 0) (named (Cond.ofCode? x.cond) fun cond =>
        checked (.gfcmp f.d f.a f.b f.wa f.wb cond)))
  | 0x2A => fDA false f
      (legal (noC x && x.cond == 0 && x.spec / 16 == 0)
        (checked (.gcvt f.d f.a f.wa (Ty.ofCode x.ty) (Ty.ofCode x.spec))))
  | _ => .error .reserved

/-- Opcodes 0x30 to 0x3D: barriers, queues, fences, sync objects, frames and launches. -/
def decode3 (f : Base) (e : Nat) : Dec :=
  match f.op with
  | 0x30 => zeroes (f.d.val == 0 && !f.wa && !f.n) (checked (.barA f.a f.b f.wb))
  | 0x31 => fLit f (checked (.barW f.a))
  | 0x32 => zeroes (f.d.val == 0 && !f.wa && !f.n) (checked (.barS f.a f.b f.wb))
  | 0x33 => zeroes (f.d.val == 0 && !f.wb && !f.n)
      (legal (e / 2 ^ 19 == 0)
        (checked (.qdef f.a f.b f.wa (Fin.ofNat 8 (e / 2 ^ 16)) (e % 2 ^ 16))))
  | 0x34 => zeroes (f.d.val == 0 && !f.wb && !f.n) (checked (.qpsh f.a f.b f.wa))
  | 0x35 => zeroes (f.a.val == 0 && !f.wa && !f.wb && !f.n) (checked (.qpop f.d f.b))
  | 0x36 => f0 f (withM e fun m spec =>
      legal (m.off == 0 && m.wid == .w1 && m.hint == .normal && spec == 0)
        (checked (.fnc m.obs m.ord)))
  | 0x37 => fAB false f (checked (.sdef f.a f.b f.wa f.wb))
  | 0x38 => fA false f (checked (.sacq f.a f.wa))
  | 0x39 => fA false f (checked (.srel f.a f.wa))
  | 0x3A => f0 f (checked .yieldp)
  | 0x3B => f0 f (checked .hret)
  | 0x3C => fDA false f (checked (.lnch f.d f.a f.wa))
  | 0x3D => fA false f (checked (.lwt f.a f.wa))
  | _ => .error .reserved

/-- Opcodes 0x40 to 0x4F: copies, matrix operations, remote calls and regions. -/
def decode4 (f : Base) (e : Nat) : Dec :=
  let x := splitC e
  match f.op with
  | 0x40 => fAB false f (checked (.xring f.a f.b f.wa f.wb e))
  | 0x41 => fD false f (checked (.xseal f.d))
  | 0x42 => fLit f (checked (.xwait f.a))
  | 0x43 => fD false f (checked (.mseal f.d))
  | 0x44 => fLit f (checked (.mwait f.a))
  | 0x45 => fD false f (checked (.mzero f.d))
  | 0x46 => fDA false f (checked (.mld f.d f.a f.wa))
  | 0x47 => fDA false f (checked (.mst f.d f.a f.wa))
  | 0x48 => uDAB f (checked (.mma f.d f.a f.b f.wa f.wb))
  | 0x49 => uDAB f
      (legal (e / 2 ^ 16 == 0) (checked (.mmac f.d f.a f.b f.wa f.wb (BitVec.ofNat 16 e))))
  | 0x4A => zeroes (f.d.val == 0 && !f.n)
      (legal (!x.wc && x.cond == 0 && x.spec / 2 ^ 10 == 0)
        (checked (.tgath f.a f.b x.c f.wa f.wb (Ty.ofCode x.ty) (Fin.ofNat 512 x.spec)
          (bit x.spec 9))))
  | 0x4B => uDAB f
      (legal (x.cond == 0 && x.ty == 0 && x.spec / 2 ^ 10 == 0 && !bit x.spec 7)
        (checked (.rcall f.d f.a f.b x.c f.wa f.wb x.wc (bit x.spec 9) (bit x.spec 8)
          (x.spec / 16 % 8) (x.spec % 16))))
  | 0x4C => f0 f (checked .fbeg)
  | 0x4D => f0 f (checked .fend)
  | 0x4E => f0 f (checked .fabt)
  | 0x4F => fD false f (checked (.fsta f.d))
  | _ => .error .reserved

/-- Opcodes 0x50 to 0x5F: uniform memory and table instructions. Every HINT is accepted in `gatm` and `gred`,
whose entries do not name the field. DESIGN CHOICE. [A69] -/
def decode5 (f : Base) (e : Nat) : Dec :=
  let x := splitC e
  match f.op with
  | 0x50 => fDA false f (withM e fun m spec =>
      legal (spec / 2 == 0) (checked (.gld f.d f.a f.wa (spec == 1) m)))
  | 0x51 => fAB false f (withM e fun m spec =>
      legal (spec == 0) (checked (.gst f.a f.b f.wa f.wb m)))
  | 0x52 => uDAB f (withM e fun m spec => named (AtomOp.ofCode? spec) fun op =>
      checked (.gatm f.d f.a f.b f.wa f.wb op m))
  | 0x53 => fAB false f (withM e fun m spec => named (AtomOp.ofCode? spec) fun op =>
      checked (.gred f.a f.b f.wa f.wb op m))
  | 0x54 => fDA false f
      (legal (e / 16 % 16 == 0 && e / 2 ^ 12 == 0) (named (ThdlMode.ofCode? (e % 16)) fun mode =>
        checked (.thdl f.d f.a f.wa mode (Fin.ofNat 16 (e / 2 ^ 8)))))
  | 0x55 => uDAB f
      (legal (!x.wc && x.cond == 0 && x.spec / 4 == 0)
        (checked (.tgetU f.d f.a f.b x.c f.wa f.wb (Ty.ofCode x.ty) (bit x.spec 0)
          (bit x.spec 1))))
  | 0x56 => uDAB f
      (legal (noC x && x.cond == 0 && x.ty == 0 && x.spec / 2 ^ 13 == 0)
        (checked (.tinsU f.d f.a f.b f.wa f.wb (BitVec.ofNat 12 x.spec) (bit x.spec 12))))
  | 0x57 => uDAB f
      (legal (noC x && x.cond == 0 && x.spec == 0)
        (checked (.tdelU f.d f.a f.b f.wa f.wb (Ty.ofCode x.ty))))
  | 0x58 => uDAB f (checked (.trep f.d f.a f.b f.wa f.wb))
  | 0x59 => uDAB f
      (legal (noC x && x.cond == 0 && x.spec / 2 ^ 12 == 0)
        (checked (.tcom f.d f.a f.b f.wa f.wb (Ty.ofCode x.ty) (BitVec.ofNat 12 x.spec))))
  | 0x5A => uDAB f
      (legal (noC x && x.cond == 0 && x.spec / 2 ^ 12 == 0)
        (checked (.trbk f.d f.a f.b f.wa f.wb (Ty.ofCode x.ty) (BitVec.ofNat 12 x.spec))))
  | 0x5B => fDA false f
      (if e < 11 then checked (.tinfo f.d f.a f.wa (Fin.ofNat 11 e)) else .error .extension)
  | 0x5C => fAB false f (checked (.cwb f.a f.b f.wa f.wb))
  | 0x5D => fAB false f (checked (.cinv f.a f.b f.wa f.wb))
  | 0x5E => uDAB f (checked (.cret f.d f.a f.b f.wa f.wb e))
  | 0x5F => fA false f (checked (.cunp f.a f.wa))
  | _ => .error .reserved

/-- Opcodes 0x60 and 0x61: the privileged pseudo-channel instructions. -/
def decode6 (f : Base) (e : Nat) : Dec :=
  match f.op with
  | 0x60 => fAB false f (named (ChMode.ofCode? e) fun mode =>
      checked (.chmode f.a f.b f.wa f.wb mode))
  | 0x61 => fAB false f (checked (.aphl f.a f.b f.wa f.wb))
  | _ => .error .reserved

/-- Opcodes 0x80 to 0x8F: lane integer arithmetic (R94, R95). -/
def decode8 (f : Base) (e : Nat) : Dec :=
  let x := splitC e
  match f.op with
  | 0x80 => checked (.iaddI32 f.d f.a f.b f.wa f.wb f.n)
  | 0x81 => checked (.isubI32 f.d f.a f.b f.wa f.wb f.n)
  | 0x82 => checked (.imulI32 f.d f.a f.b f.wa f.wb f.n)
  | 0x83 => checked (.imulhI32 f.d f.a f.b f.wa f.wb f.n)
  | 0x84 => checked (.imulhN32 f.d f.a f.b f.wa f.wb f.n)
  | 0x85 => legal (noCTS x) (checked (.imadI32 f.d f.a f.b x.c f.wa f.wb x.wc f.n))
  | 0x86 => checked (.iaddI64 f.d f.a f.b f.wa f.wb f.n)
  | 0x87 => checked (.isubI64 f.d f.a f.b f.wa f.wb f.n)
  | 0x88 => checked (.iminI32 f.d f.a f.b f.wa f.wb f.n)
  | 0x89 => checked (.iminN32 f.d f.a f.b f.wa f.wb f.n)
  | 0x8A => checked (.imaxI32 f.d f.a f.b f.wa f.wb f.n)
  | 0x8B => checked (.imaxN32 f.d f.a f.b f.wa f.wb f.n)
  | 0x8C => fDA true f (checked (.iabs f.d f.a f.wa f.n))
  | 0x8D => fDA true f (checked (.ineg f.d f.a f.wa f.n))
  | 0x8E => checked (.idivI32 f.d f.a f.b f.wa f.wb f.n)
  | 0x8F => checked (.idivN32 f.d f.a f.b f.wa f.wb f.n)
  | _ => .error .reserved

/-- Opcodes 0x90 to 0x9F: lane logic, fields, compares and moves (R96, R97). -/
def decode9 (f : Base) (e : Nat) : Dec :=
  let x := splitC e
  match f.op with
  | 0x90 => checked (.iand f.d f.a f.b f.wa f.wb f.n)
  | 0x91 => checked (.ior f.d f.a f.b f.wa f.wb f.n)
  | 0x92 => checked (.ixor f.d f.a f.b f.wa f.wb f.n)
  | 0x93 => fDA true f (checked (.inot f.d f.a f.wa f.n))
  | 0x94 => checked (.ishl f.d f.a f.b f.wa f.wb f.n)
  | 0x95 => checked (.ishr f.d f.a f.b f.wa f.wb f.n)
  | 0x96 => checked (.isar f.d f.a f.b f.wa f.wb f.n)
  | 0x97 => fDA true f
      (legal (noC x && x.cond == 0 && (x.ty == 2 || x.ty == 6) && x.spec / 2 ^ 13 == 0 &&
          x.spec / 32 % 8 == 0)
        (checked (.ibfe f.d f.a f.wa f.n (x.ty == 2) (Fin.ofNat 32 x.spec)
          (Fin.ofNat 32 (x.spec / 2 ^ 8)))))
  | 0x98 => fDA true f
      (legal (noC x && x.cond == 0 && x.ty == 0 && x.spec / 2 ^ 13 == 0 && x.spec / 32 % 8 == 0)
        (checked (.ibfi f.d f.a f.wa f.n (Fin.ofNat 32 x.spec) (Fin.ofNat 32 (x.spec / 2 ^ 8)))))
  | 0x99 => fDA true f (checked (.icnt f.d f.a f.wa f.n))
  | 0x9A => fDA true f (checked (.iclz f.d f.a f.wa f.n))
  | 0x9B => legal (noC x && x.spec == 0 && (x.ty == 2 || x.ty == 6))
      (named (Cond.ofCode? x.cond) fun cond =>
        checked (.icmp f.d f.a f.b f.wa f.wb f.n cond (x.ty == 2)))
  | 0x9C => legal (noCTS x) (checked (.isel f.d f.a f.b x.c f.wa f.wb x.wc f.n))
  | 0x9D => checked (.ipk f.d f.a f.b f.wa f.wb f.n)
  | 0x9E => fDA true f (checked (.imov f.d f.a f.wa f.n))
  | 0x9F => fD true f (checked (.ili f.d f.n (BitVec.ofNat 32 e)))
  | _ => .error .reserved

/-- Opcodes 0xA0 to 0xAF: lane floating point (R98 to R101). -/
def decodeA (f : Base) (e : Nat) : Dec :=
  let x := splitC e
  match f.op with
  | 0xA0 => checked (.faddF32 f.d f.a f.b f.wa f.wb f.n)
  | 0xA1 => checked (.fsubF32 f.d f.a f.b f.wa f.wb f.n)
  | 0xA2 => checked (.fmulF32 f.d f.a f.b f.wa f.wb f.n)
  | 0xA3 => legal (noCTS x) (checked (.fmaF32 f.d f.a f.b x.c f.wa f.wb x.wc f.n))
  | 0xA4 => checked (.fminF32 f.d f.a f.b f.wa f.wb f.n)
  | 0xA5 => checked (.fmaxF32 f.d f.a f.b f.wa f.wb f.n)
  | 0xA6 => legal (noC x && x.ty == 0 && x.spec == 0) (named (Cond.ofCode? x.cond) fun cond =>
      checked (.fcmpF32 f.d f.a f.b f.wa f.wb f.n cond))
  | 0xA7 => fDA true f (checked (.fabs f.d f.a f.wa f.n))
  | 0xA8 => legal (noC x && x.cond == 0 && x.spec == 0 && (x.ty == 9 || x.ty == 10))
      (checked (.faddH2 f.d f.a f.b f.wa f.wb f.n (x.ty == 10)))
  | 0xA9 => legal (noC x && x.cond == 0 && x.spec == 0 && (x.ty == 9 || x.ty == 10))
      (checked (.fmulH2 f.d f.a f.b f.wa f.wb f.n (x.ty == 10)))
  | 0xAA => legal (x.cond == 0 && x.spec == 0 && (x.ty == 9 || x.ty == 10))
      (checked (.fmaH2 f.d f.a f.b x.c f.wa f.wb x.wc f.n (x.ty == 10)))
  | 0xAB => legal (x.cond == 0 && x.spec == 0 && (x.ty == 9 || x.ty == 10))
      (checked (.fdp2 f.d f.a f.b x.c f.wa f.wb x.wc f.n (x.ty == 10)))
  | 0xAC => fDA true f (checked (.frcp f.d f.a f.wa f.n))
  | 0xAD => fDA true f (checked (.frsq f.d f.a f.wa f.n))
  | 0xAE => fDA true f (checked (.fsqrt f.d f.a f.wa f.n))
  | 0xAF => checked (.fdivF32 f.d f.a f.b f.wa f.wb f.n)
  | _ => .error .reserved

/-- Opcodes 0xB0 to 0xBF: elementary functions, conversions and cross-lane operations. -/
def decodeB (f : Base) (e : Nat) : Dec :=
  let x := splitC e
  match f.op with
  | 0xB0 => fDA true f (checked (.fex2 f.d f.a f.wa f.n))
  | 0xB1 => fDA true f (checked (.flg2 f.d f.a f.wa f.n))
  | 0xB2 => fDA true f (checked (.fsnp f.d f.a f.wa f.n))
  | 0xB3 => fDA true f (checked (.fcsp f.d f.a f.wa f.n))
  | 0xB4 => fDA true f (checked (.ftnh f.d f.a f.wa f.n))
  | 0xB5 => fDA true f
      (legal (noC x && x.cond == 0 && x.spec / 16 == 0)
        (checked (.cvt f.d f.a f.wa f.n (Ty.ofCode x.ty) (Ty.ofCode x.spec))))
  | 0xB6 => fDA true f
      (legal (!x.wc && x.cond == 0 && x.spec == 0 && (x.ty == 13 || x.ty == 14))
        (checked (.xpk f.d f.a x.c f.wa f.n (x.ty == 14))))
  | 0xB7 => fDA true f
      (legal (x.cond == 0 && x.spec == 0 && (x.ty == 13 || x.ty == 14))
        (checked (.xupk f.d f.a x.c f.wa x.wc f.n (x.ty == 14))))
  | 0xB8 => legal (noC x && x.ty == 0 && x.spec == 0) (named (ShflMode.ofCode? x.cond) fun mode =>
      checked (.shfl f.d f.a f.b f.wa f.wb f.n mode))
  | 0xB9 => fDA true f (checked (.gtov f.d f.a f.wa f.n))
  | 0xBA => uDAB f (checked (.vtog f.d f.a f.b f.wa f.wb))
  | 0xBB => fDA true f
      (legal (noC x && x.spec == 0) (named (RedOp.ofCode? x.cond) fun op =>
        checked (.vred f.d f.a f.wa f.n op (Ty.ofCode x.ty))))
  | 0xBC => fDA true f
      (legal (noC x && x.spec == 0) (named (RedOp.ofCode? x.cond) fun op =>
        checked (.vscn f.d f.a f.wa f.n op (Ty.ofCode x.ty))))
  | 0xBD => fDA true f
      (legal (noC x && x.ty == 0 && x.spec == 0) (named (VoteMode.ofCode? x.cond) fun mode =>
        checked (.vote f.d f.a f.wa f.n mode)))
  | 0xBE => fDA true f (checked (.ipfx f.d f.a f.wa f.n))
  | 0xBF => fDA true f (checked (.rnd f.d f.a f.wa f.n))
  | _ => .error .reserved

/-- Opcodes 0xC0 to 0xCB: sampling, lane memory, tables and remote calls. Every HINT is accepted in `atm` and
`red`, whose entries do not name the field. DESIGN CHOICE. [A69] -/
def decodeC (f : Base) (e : Nat) : Dec :=
  let x := splitC e
  match f.op with
  | 0xC0 => legal (noCTS x) (checked (.samp f.d f.a f.b x.c f.wa f.wb x.wc f.n))
  | 0xC1 => fDA true f (withM e fun m spec =>
      legal (spec / 2 == 0) (checked (.ld f.d f.a f.wa f.n (spec == 1) m)))
  | 0xC2 => fAB true f (withM e fun m spec =>
      legal (spec == 0) (checked (.st f.a f.b f.wa f.wb f.n m)))
  | 0xC3 => withM e fun m spec => named (AtomOp.ofCode? spec) fun op =>
      checked (.atm f.d f.a f.b f.wa f.wb f.n op m)
  | 0xC4 => fAB true f (withM e fun m spec => named (AtomOp.ofCode? spec) fun op =>
      checked (.red f.a f.b f.wa f.wb f.n op m))
  | 0xC5 => fDA true f
      (legal (e / 2 ^ 10 == 0) (checked (.trd f.d f.a f.wa f.n (bit e 9) (e % 512))))
  | 0xC6 => legal (!x.wc && x.cond == 0 && x.spec / 4 == 0)
      (checked (.tgetV f.d f.a f.b x.c f.wa f.wb f.n (Ty.ofCode x.ty) (bit x.spec 0)
        (bit x.spec 1)))
  | 0xC7 => legal (noC x && x.cond == 0 && x.ty == 0 && x.spec / 2 ^ 13 == 0)
      (checked (.tinsV f.d f.a f.b f.wa f.wb f.n (BitVec.ofNat 12 x.spec) (bit x.spec 12)))
  | 0xC8 => legal (noC x && x.cond == 0 && x.spec == 0)
      (checked (.tdelV f.d f.a f.b f.wa f.wb f.n (Ty.ofCode x.ty)))
  | 0xC9 => legal (x.cond == 0 && x.spec / 2 == 0)
      (checked (.tscn f.d f.a f.b x.c f.wa f.wb x.wc f.n (Ty.ofCode x.ty) (x.spec == 1)))
  | 0xCA => fDA true f
      (legal (!x.wc && x.cond == 0 && x.spec / 2 == 0)
        (checked (.tstp f.d f.a x.c f.wa f.n (Ty.ofCode x.ty) (x.spec == 1))))
  | 0xCB => legal (x.cond == 0 && x.ty == 0 && x.spec / 2 ^ 10 == 0 && !bit x.spec 7)
      (checked (.rcallv f.d f.a f.b x.c f.wa f.wb x.wc f.n (bit x.spec 9) (bit x.spec 8)
        (x.spec / 16 % 8) (x.spec % 16)))
  | _ => .error .reserved

/-- The decoder on the fields of a base word and its extension word (R67 to R70 steps 2 to 5). -/
def decodeFields (f : Base) (e : Nat) : Dec :=
  match f.op / 16 with
  | 0 => decode0 f e
  | 1 => decode1 f e
  | 2 => decode2 f e
  | 3 => decode3 f e
  | 4 => decode4 f e
  | 5 => decode5 f e
  | 6 => decode6 f e
  | 8 => decode8 f e
  | 9 => decode9 f e
  | 10 => decodeA f e
  | 11 => decodeB f e
  | 12 => decodeC f e
  | _ => .error .reserved

/-- The decoder on two words; the second is not looked at where the opcode has no extension. -/
def decodeWords (base ext : Nat) : Dec := decodeFields (splitBase base) (ext % 2 ^ 32)

/-- The opcodes with an extension word (column E of R67 and R68). -/
def extOps : List Nat :=
  [0x02, 0x03, 0x04, 0x07, 0x0B, 0x13, 0x14, 0x1F, 0x20, 0x22, 0x23, 0x28, 0x29, 0x2A, 0x33, 0x36,
   0x40, 0x49, 0x4A, 0x4B, 0x50, 0x51, 0x52, 0x53, 0x54, 0x55, 0x56, 0x57, 0x59, 0x5A, 0x5B, 0x5E,
   0x60, 0x85, 0x97, 0x98, 0x9B, 0x9C, 0x9F, 0xA3, 0xA6, 0xA8, 0xA9, 0xAA, 0xAB, 0xB5, 0xB6, 0xB7,
   0xB8, 0xBB, 0xBC, 0xBD, 0xC0, 0xC1, 0xC2, 0xC3, 0xC4, 0xC5, 0xC6, 0xC7, 0xC8, 0xC9, 0xCA, 0xCB]

/-- Whether an extension word follows a base word (R43, R47). -/
def hasExt (op : Nat) : Bool := extOps.contains op

/-- The bytes of an instruction of this opcode: 4 or 8 (R42, R47). -/
def lengthOf (op : Nat) : Nat := if hasExt op then 8 else 4

/-- A word of the L-set (R43). -/
def isLaneOp (op : Nat) : Bool := 128 ≤ op

/-- The opcode is assigned, not reserved (R69). -/
def assigned (op : Nat) : Bool :=
  op ≤ 0x0E || (0x10 ≤ op && op ≤ 0x2A) || (0x30 ≤ op && op ≤ 0x3D) ||
    (0x40 ≤ op && op ≤ 0x61) || (0x80 ≤ op && op ≤ 0xCB)

/-- A little-endian number from its bytes (R42). -/
def leNat : List Byte → Nat
  | [] => 0
  | b :: bs => b.toNat + 256 * leNat bs

/-- The `n` low bytes of a number, little-endian (R42). -/
def leBytes : Nat → Nat → List Byte
  | 0, _ => []
  | n + 1, w => BitVec.ofNat 8 w :: leBytes n (w / 256)

/-- The decoder on bytes: the instruction and the bytes that follow it, or the reason why there is
none. A reserved opcode has no length (R69), so no byte after its base word is looked at. -/
def decode : List Byte → Except DecodeErr (Instr × List Byte)
  | b0 :: b1 :: b2 :: b3 :: rest =>
    let base := leNat [b0, b1, b2, b3]
    if hasExt (base / 2 ^ 24) then
      match rest with
      | e0 :: e1 :: e2 :: e3 :: rest' =>
        match decodeWords base (leNat [e0, e1, e2, e3]) with
        | .ok i => .ok (i, rest')
        | .error r => .error r
      | _ => .error .truncated
    else
      match decodeWords base 0 with
      | .ok i => .ok (i, rest)
      | .error r => .error r
  | _ => .error .truncated

/-- The instruction whose table bits are `w`: bits 31 to 0 are the base word, bits 63 to 32 the
extension word. -/
def decodeTableWord (nbits w : Nat) : Option Instr :=
  match decode (leBytes 8 (w % 2 ^ nbits)) with
  | .ok (i, _) => some i
  | .error _ => none

/-- The fields of an instruction's words: the base word's, and the extension word (0 where the opcode
has none), by the same layouts (R42, R48 to R51) and maps (R67, R68). Events are not encoded. -/
def encodeFields : Instr → Option (Base × Nat)
  | .nop => some (⟨0x00, 0, 0, 0, false, false, false⟩, 0)
  | .exit => some (⟨0x01, 0, 0, 0, false, false, false⟩, 0)
  | .br toff => some (⟨0x02, 0, 0, 0, false, false, false⟩, toff.toNat * 2 ^ 16)
  | .brc a wa n toff joff => some (⟨0x03, 0, a, 0, wa, false, n⟩, toff.toNat * 2 ^ 16 + joff.toNat)
  | .call d toff => some (⟨0x04, d, 0, 0, false, false, false⟩, toff.toNat * 2 ^ 16)
  | .ret a wa => some (⟨0x05, 0, a, 0, wa, false, false⟩, 0)
  | .jmp a wa => some (⟨0x06, 0, a, 0, wa, false, false⟩, 0)
  | .trap imm => some (⟨0x07, 0, 0, 0, false, false, false⟩, imm.toNat)
  | .pdp a wa n => some (⟨0x08, 0, a, 0, wa, false, n⟩, 0)
  | .pdi => some (⟨0x09, 0, 0, 0, false, false, false⟩, 0)
  | .pdo => some (⟨0x0A, 0, 0, 0, false, false, false⟩, 0)
  | .fmts img => some (⟨0x0B, 0, 0, 0, false, false, false⟩, img.toNat)
  | .gsr d sp => some (⟨0x0C, d, sp, 0, false, false, false⟩, 0)
  | .gssr sp a wa => some (⟨0x0D, sp, a, 0, wa, false, false⟩, 0)
  | .wfull lane a wa => some (⟨0x0E, (if lane then 1 else 0), a, 0, wa, false, false⟩, 0)
  | .gadd d a b wa wb => some (⟨0x10, d, a, b, wa, wb, false⟩, 0)
  | .gsub d a b wa wb => some (⟨0x11, d, a, b, wa, wb, false⟩, 0)
  | .gmul d a b wa wb => some (⟨0x12, d, a, b, wa, wb, false⟩, 0)
  | .gmad d a b c wa wb wc => some (⟨0x13, d, a, b, wa, wb, false⟩, joinC ⟨c, wc, 0, 0, 0⟩)
  | .gmulh d a b wa wb signed =>
    some (⟨0x14, d, a, b, wa, wb, false⟩, joinC ⟨0, false, 0, (if signed then 3 else 7), 0⟩)
  | .gand d a b wa wb => some (⟨0x15, d, a, b, wa, wb, false⟩, 0)
  | .gor d a b wa wb => some (⟨0x16, d, a, b, wa, wb, false⟩, 0)
  | .gxor d a b wa wb => some (⟨0x17, d, a, b, wa, wb, false⟩, 0)
  | .gshl d a b wa wb => some (⟨0x18, d, a, b, wa, wb, false⟩, 0)
  | .gshr d a b wa wb => some (⟨0x19, d, a, b, wa, wb, false⟩, 0)
  | .gsar d a b wa wb => some (⟨0x1A, d, a, b, wa, wb, false⟩, 0)
  | .gmin d a b wa wb => some (⟨0x1B, d, a, b, wa, wb, false⟩, 0)
  | .gminn d a b wa wb => some (⟨0x1C, d, a, b, wa, wb, false⟩, 0)
  | .gmax d a b wa wb => some (⟨0x1D, d, a, b, wa, wb, false⟩, 0)
  | .gmaxn d a b wa wb => some (⟨0x1E, d, a, b, wa, wb, false⟩, 0)
  | .gcmp d a b wa wb cond ty =>
    some (⟨0x1F, d, a, b, wa, wb, false⟩, joinC ⟨0, false, cond.code, ty.code, 0⟩)
  | .gsel d a b c wa wb wc => some (⟨0x20, d, a, b, wa, wb, false⟩, joinC ⟨c, wc, 0, 0, 0⟩)
  | .gmov d a wa => some (⟨0x21, d, a, 0, wa, false, false⟩, 0)
  | .gli d imm => some (⟨0x22, d, 0, 0, false, false, false⟩, imm.toNat)
  | .glih d imm => some (⟨0x23, d, 0, 0, false, false, false⟩, imm.toNat)
  | .gcnt d a wa => some (⟨0x24, d, a, 0, wa, false, false⟩, 0)
  | .gclz d a wa => some (⟨0x25, d, a, 0, wa, false, false⟩, 0)
  | .gfadd d a b wa wb => some (⟨0x26, d, a, b, wa, wb, false⟩, 0)
  | .gfmul d a b wa wb => some (⟨0x27, d, a, b, wa, wb, false⟩, 0)
  | .gfma d a b c wa wb wc => some (⟨0x28, d, a, b, wa, wb, false⟩, joinC ⟨c, wc, 0, 0, 0⟩)
  | .gfcmp d a b wa wb cond =>
    some (⟨0x29, d, a, b, wa, wb, false⟩, joinC ⟨0, false, cond.code, 0, 0⟩)
  | .gcvt d a wa dst src =>
    some (⟨0x2A, d, a, 0, wa, false, false⟩, joinC ⟨0, false, 0, dst.code, src.code⟩)
  | .barA bar b wb => some (⟨0x30, 0, bar, b, false, wb, false⟩, 0)
  | .barW bar => some (⟨0x31, 0, bar, 0, false, false, false⟩, 0)
  | .barS bar b wb => some (⟨0x32, 0, bar, b, false, wb, false⟩, 0)
  | .qdef a q wa wm1 depth => some (⟨0x33, 0, a, q, wa, false, false⟩, wm1.val * 2 ^ 16 + depth)
  | .qpsh a q wa => some (⟨0x34, 0, a, q, wa, false, false⟩, 0)
  | .qpop d q => some (⟨0x35, d, 0, q, false, false, false⟩, 0)
  | .fnc obs ord => some (⟨0x36, 0, 0, 0, false, false, false⟩, joinM ⟨0, obs, ord, .w1, .normal⟩ 0)
  | .sdef a b wa wb => some (⟨0x37, 0, a, b, wa, wb, false⟩, 0)
  | .sacq a wa => some (⟨0x38, 0, a, 0, wa, false, false⟩, 0)
  | .srel a wa => some (⟨0x39, 0, a, 0, wa, false, false⟩, 0)
  | .yieldp => some (⟨0x3A, 0, 0, 0, false, false, false⟩, 0)
  | .hret => some (⟨0x3B, 0, 0, 0, false, false, false⟩, 0)
  | .lnch d a wa => some (⟨0x3C, d, a, 0, wa, false, false⟩, 0)
  | .lwt a wa => some (⟨0x3D, 0, a, 0, wa, false, false⟩, 0)
  | .xring a b wa wb count => some (⟨0x40, 0, a, b, wa, wb, false⟩, count)
  | .xseal d => some (⟨0x41, d, 0, 0, false, false, false⟩, 0)
  | .xwait cnt => some (⟨0x42, 0, cnt, 0, false, false, false⟩, 0)
  | .mseal d => some (⟨0x43, d, 0, 0, false, false, false⟩, 0)
  | .mwait cnt => some (⟨0x44, 0, cnt, 0, false, false, false⟩, 0)
  | .mzero t => some (⟨0x45, t, 0, 0, false, false, false⟩, 0)
  | .mld t a wa => some (⟨0x46, t, a, 0, wa, false, false⟩, 0)
  | .mst t a wa => some (⟨0x47, t, a, 0, wa, false, false⟩, 0)
  | .mma t a b wa wb => some (⟨0x48, t, a, b, wa, wb, false⟩, 0)
  | .mmac t a b wa wb num => some (⟨0x49, t, a, b, wa, wb, false⟩, num.toNat)
  | .tgath a b c wa wb ty cnt dft =>
    some (⟨0x4A, 0, a, b, wa, wb, false⟩, joinC ⟨c, false, 0, ty.code, (dft.toNat * 2 ^ 9 + cnt.val)⟩)
  | .rcall d a b c wa wb wc may trp nr np =>
    some (⟨0x4B, d, a, b, wa, wb, false⟩, joinC ⟨c, wc, 0, 0, (may.toNat * 2 ^ 9 + trp.toNat * 2 ^ 8 + nr * 16 + np)⟩)
  | .fbeg => some (⟨0x4C, 0, 0, 0, false, false, false⟩, 0)
  | .fend => some (⟨0x4D, 0, 0, 0, false, false, false⟩, 0)
  | .fabt => some (⟨0x4E, 0, 0, 0, false, false, false⟩, 0)
  | .fsta d => some (⟨0x4F, d, 0, 0, false, false, false⟩, 0)
  | .gld d a wa sx m => some (⟨0x50, d, a, 0, wa, false, false⟩, joinM m sx.toNat)
  | .gst a b wa wb m => some (⟨0x51, 0, a, b, wa, wb, false⟩, joinM m 0)
  | .gatm d a b wa wb op m => some (⟨0x52, d, a, b, wa, wb, false⟩, joinM m op.code)
  | .gred a b wa wb op m => some (⟨0x53, 0, a, b, wa, wb, false⟩, joinM m op.code)
  | .thdl d a wa mode core => some (⟨0x54, d, a, 0, wa, false, false⟩, core.val * 2 ^ 8 + mode.code)
  | .tgetU d a b c wa wb ty dft acq =>
    some (⟨0x55, d, a, b, wa, wb, false⟩, joinC ⟨c, false, 0, ty.code, (acq.toNat * 2 + dft.toNat)⟩)
  | .tinsU d a b wa wb tag prov =>
    some (⟨0x56, d, a, b, wa, wb, false⟩, joinC ⟨0, false, 0, 0, (prov.toNat * 2 ^ 12 + tag.toNat)⟩)
  | .tdelU d a b wa wb ty => some (⟨0x57, d, a, b, wa, wb, false⟩, joinC ⟨0, false, 0, ty.code, 0⟩)
  | .trep d a b wa wb => some (⟨0x58, d, a, b, wa, wb, false⟩, 0)
  | .tcom d a b wa wb ty tag =>
    some (⟨0x59, d, a, b, wa, wb, false⟩, joinC ⟨0, false, 0, ty.code, tag.toNat⟩)
  | .trbk d a b wa wb ty tag =>
    some (⟨0x5A, d, a, b, wa, wb, false⟩, joinC ⟨0, false, 0, ty.code, tag.toNat⟩)
  | .tinfo d a wa sel => some (⟨0x5B, d, a, 0, wa, false, false⟩, sel.val)
  | .cwb a b wa wb => some (⟨0x5C, 0, a, b, wa, wb, false⟩, 0)
  | .cinv a b wa wb => some (⟨0x5D, 0, a, b, wa, wb, false⟩, 0)
  | .cret d a b wa wb ways => some (⟨0x5E, d, a, b, wa, wb, false⟩, ways)
  | .cunp a wa => some (⟨0x5F, 0, a, 0, wa, false, false⟩, 0)
  | .chmode a b wa wb mode => some (⟨0x60, 0, a, b, wa, wb, false⟩, mode.code)
  | .aphl a b wa wb => some (⟨0x61, 0, a, b, wa, wb, false⟩, 0)
  | .iaddI32 d a b wa wb n => some (⟨0x80, d, a, b, wa, wb, n⟩, 0)
  | .isubI32 d a b wa wb n => some (⟨0x81, d, a, b, wa, wb, n⟩, 0)
  | .imulI32 d a b wa wb n => some (⟨0x82, d, a, b, wa, wb, n⟩, 0)
  | .imulhI32 d a b wa wb n => some (⟨0x83, d, a, b, wa, wb, n⟩, 0)
  | .imulhN32 d a b wa wb n => some (⟨0x84, d, a, b, wa, wb, n⟩, 0)
  | .imadI32 d a b c wa wb wc n => some (⟨0x85, d, a, b, wa, wb, n⟩, joinC ⟨c, wc, 0, 0, 0⟩)
  | .iaddI64 d a b wa wb n => some (⟨0x86, d, a, b, wa, wb, n⟩, 0)
  | .isubI64 d a b wa wb n => some (⟨0x87, d, a, b, wa, wb, n⟩, 0)
  | .iminI32 d a b wa wb n => some (⟨0x88, d, a, b, wa, wb, n⟩, 0)
  | .iminN32 d a b wa wb n => some (⟨0x89, d, a, b, wa, wb, n⟩, 0)
  | .imaxI32 d a b wa wb n => some (⟨0x8A, d, a, b, wa, wb, n⟩, 0)
  | .imaxN32 d a b wa wb n => some (⟨0x8B, d, a, b, wa, wb, n⟩, 0)
  | .iabs d a wa n => some (⟨0x8C, d, a, 0, wa, false, n⟩, 0)
  | .ineg d a wa n => some (⟨0x8D, d, a, 0, wa, false, n⟩, 0)
  | .idivI32 d a b wa wb n => some (⟨0x8E, d, a, b, wa, wb, n⟩, 0)
  | .idivN32 d a b wa wb n => some (⟨0x8F, d, a, b, wa, wb, n⟩, 0)
  | .iand d a b wa wb n => some (⟨0x90, d, a, b, wa, wb, n⟩, 0)
  | .ior d a b wa wb n => some (⟨0x91, d, a, b, wa, wb, n⟩, 0)
  | .ixor d a b wa wb n => some (⟨0x92, d, a, b, wa, wb, n⟩, 0)
  | .inot d a wa n => some (⟨0x93, d, a, 0, wa, false, n⟩, 0)
  | .ishl d a b wa wb n => some (⟨0x94, d, a, b, wa, wb, n⟩, 0)
  | .ishr d a b wa wb n => some (⟨0x95, d, a, b, wa, wb, n⟩, 0)
  | .isar d a b wa wb n => some (⟨0x96, d, a, b, wa, wb, n⟩, 0)
  | .ibfe d a wa n signed pos lm1 =>
    some (⟨0x97, d, a, 0, wa, false, n⟩, joinC ⟨0, false, 0, (if signed then 2 else 6), (lm1.val * 2 ^ 8 + pos.val)⟩)
  | .ibfi d a wa n pos lm1 =>
    some (⟨0x98, d, a, 0, wa, false, n⟩, joinC ⟨0, false, 0, 0, (lm1.val * 2 ^ 8 + pos.val)⟩)
  | .icnt d a wa n => some (⟨0x99, d, a, 0, wa, false, n⟩, 0)
  | .iclz d a wa n => some (⟨0x9A, d, a, 0, wa, false, n⟩, 0)
  | .icmp d a b wa wb n cond signed =>
    some (⟨0x9B, d, a, b, wa, wb, n⟩, joinC ⟨0, false, cond.code, (if signed then 2 else 6), 0⟩)
  | .isel d a b c wa wb wc n => some (⟨0x9C, d, a, b, wa, wb, n⟩, joinC ⟨c, wc, 0, 0, 0⟩)
  | .ipk d a b wa wb n => some (⟨0x9D, d, a, b, wa, wb, n⟩, 0)
  | .imov d a wa n => some (⟨0x9E, d, a, 0, wa, false, n⟩, 0)
  | .ili d n imm => some (⟨0x9F, d, 0, 0, false, false, n⟩, imm.toNat)
  | .faddF32 d a b wa wb n => some (⟨0xA0, d, a, b, wa, wb, n⟩, 0)
  | .fsubF32 d a b wa wb n => some (⟨0xA1, d, a, b, wa, wb, n⟩, 0)
  | .fmulF32 d a b wa wb n => some (⟨0xA2, d, a, b, wa, wb, n⟩, 0)
  | .fmaF32 d a b c wa wb wc n => some (⟨0xA3, d, a, b, wa, wb, n⟩, joinC ⟨c, wc, 0, 0, 0⟩)
  | .fminF32 d a b wa wb n => some (⟨0xA4, d, a, b, wa, wb, n⟩, 0)
  | .fmaxF32 d a b wa wb n => some (⟨0xA5, d, a, b, wa, wb, n⟩, 0)
  | .fcmpF32 d a b wa wb n cond =>
    some (⟨0xA6, d, a, b, wa, wb, n⟩, joinC ⟨0, false, cond.code, 0, 0⟩)
  | .fabs d a wa n => some (⟨0xA7, d, a, 0, wa, false, n⟩, 0)
  | .faddH2 d a b wa wb n bf =>
    some (⟨0xA8, d, a, b, wa, wb, n⟩, joinC ⟨0, false, 0, (if bf then 10 else 9), 0⟩)
  | .fmulH2 d a b wa wb n bf =>
    some (⟨0xA9, d, a, b, wa, wb, n⟩, joinC ⟨0, false, 0, (if bf then 10 else 9), 0⟩)
  | .fmaH2 d a b c wa wb wc n bf =>
    some (⟨0xAA, d, a, b, wa, wb, n⟩, joinC ⟨c, wc, 0, (if bf then 10 else 9), 0⟩)
  | .fdp2 d a b c wa wb wc n bf =>
    some (⟨0xAB, d, a, b, wa, wb, n⟩, joinC ⟨c, wc, 0, (if bf then 10 else 9), 0⟩)
  | .frcp d a wa n => some (⟨0xAC, d, a, 0, wa, false, n⟩, 0)
  | .frsq d a wa n => some (⟨0xAD, d, a, 0, wa, false, n⟩, 0)
  | .fsqrt d a wa n => some (⟨0xAE, d, a, 0, wa, false, n⟩, 0)
  | .fdivF32 d a b wa wb n => some (⟨0xAF, d, a, b, wa, wb, n⟩, 0)
  | .fex2 d a wa n => some (⟨0xB0, d, a, 0, wa, false, n⟩, 0)
  | .flg2 d a wa n => some (⟨0xB1, d, a, 0, wa, false, n⟩, 0)
  | .fsnp d a wa n => some (⟨0xB2, d, a, 0, wa, false, n⟩, 0)
  | .fcsp d a wa n => some (⟨0xB3, d, a, 0, wa, false, n⟩, 0)
  | .ftnh d a wa n => some (⟨0xB4, d, a, 0, wa, false, n⟩, 0)
  | .cvt d a wa n dst src =>
    some (⟨0xB5, d, a, 0, wa, false, n⟩, joinC ⟨0, false, 0, dst.code, src.code⟩)
  | .xpk d a c wa n x4 =>
    some (⟨0xB6, d, a, 0, wa, false, n⟩, joinC ⟨c, false, 0, (if x4 then 14 else 13), 0⟩)
  | .xupk d a c wa wc n x4 =>
    some (⟨0xB7, d, a, 0, wa, false, n⟩, joinC ⟨c, wc, 0, (if x4 then 14 else 13), 0⟩)
  | .shfl d a b wa wb n mode => some (⟨0xB8, d, a, b, wa, wb, n⟩, joinC ⟨0, false, mode.code, 0, 0⟩)
  | .gtov d a wa n => some (⟨0xB9, d, a, 0, wa, false, n⟩, 0)
  | .vtog d a b wa wb => some (⟨0xBA, d, a, b, wa, wb, false⟩, 0)
  | .vred d a wa n op ty =>
    some (⟨0xBB, d, a, 0, wa, false, n⟩, joinC ⟨0, false, op.code, ty.code, 0⟩)
  | .vscn d a wa n op ty =>
    some (⟨0xBC, d, a, 0, wa, false, n⟩, joinC ⟨0, false, op.code, ty.code, 0⟩)
  | .vote d a wa n mode => some (⟨0xBD, d, a, 0, wa, false, n⟩, joinC ⟨0, false, mode.code, 0, 0⟩)
  | .ipfx d a wa n => some (⟨0xBE, d, a, 0, wa, false, n⟩, 0)
  | .rnd d a wa n => some (⟨0xBF, d, a, 0, wa, false, n⟩, 0)
  | .samp d a b c wa wb wc n => some (⟨0xC0, d, a, b, wa, wb, n⟩, joinC ⟨c, wc, 0, 0, 0⟩)
  | .ld d a wa n sx m => some (⟨0xC1, d, a, 0, wa, false, n⟩, joinM m sx.toNat)
  | .st a b wa wb n m => some (⟨0xC2, 0, a, b, wa, wb, n⟩, joinM m 0)
  | .atm d a b wa wb n op m => some (⟨0xC3, d, a, b, wa, wb, n⟩, joinM m op.code)
  | .red a b wa wb n op m => some (⟨0xC4, 0, a, b, wa, wb, n⟩, joinM m op.code)
  | .trd d a wa n acq len => some (⟨0xC5, d, a, 0, wa, false, n⟩, acq.toNat * 2 ^ 9 + len)
  | .tgetV d a b c wa wb n ty dft acq =>
    some (⟨0xC6, d, a, b, wa, wb, n⟩, joinC ⟨c, false, 0, ty.code, (acq.toNat * 2 + dft.toNat)⟩)
  | .tinsV d a b wa wb n tag prov =>
    some (⟨0xC7, d, a, b, wa, wb, n⟩, joinC ⟨0, false, 0, 0, (prov.toNat * 2 ^ 12 + tag.toNat)⟩)
  | .tdelV d a b wa wb n ty => some (⟨0xC8, d, a, b, wa, wb, n⟩, joinC ⟨0, false, 0, ty.code, 0⟩)
  | .tscn d a b c wa wb wc n ty dsc =>
    some (⟨0xC9, d, a, b, wa, wb, n⟩, joinC ⟨c, wc, 0, ty.code, dsc.toNat⟩)
  | .tstp d a c wa n ty acq =>
    some (⟨0xCA, d, a, 0, wa, false, n⟩, joinC ⟨c, false, 0, ty.code, acq.toNat⟩)
  | .rcallv d a b c wa wb wc n may trp nr np =>
    some (⟨0xCB, d, a, b, wa, wb, n⟩, joinC ⟨c, wc, 0, 0, (may.toNat * 2 ^ 9 + trp.toNat * 2 ^ 8 + nr * 16 + np)⟩)
  | .pathArrive _ _ => none
  | .registerFill _ => none
  | .handleWalkComplete _ _ => none
  | .writeAck _ => none
  | .l1Eviction _ _ => none
  | .homeWriteApply _ => none
  | .homeAtomicApply _ => none
  | .packetArrival _ _ _ => none
  | .flushMarkerArrival _ _ _ _ => none
  | .linkRetransmit _ _ _ => none
  | .scoreboardEntryRetire _ _ _ => none
  | .engineLineApply _ => none
  | .spadDeliveryArrival _ _ => none
  | .copyEntryComplete _ => none
  | .atsInvalidation _ _ _ => none
  | .atsTranslationResponse _ _ => none
  | .gatherComplete _ => none
  | .matrixOpStart _ => none
  | .matrixOpComplete _ => none
  | .mmacRendezvous _ _ _ => none
  | .matrixNarrow _ => none
  | .regionCommit _ => none
  | .regionAbortSource _ => none
  | .relocationStart _ _ _ => none
  | .relocationFlip _ _ => none
  | .rcallExecute _ => none
  | .rcallReply _ => none
  | .rcallTimeout _ => none
  | .aphidSweepStep _ => none
  | .activationAlert _ => none
  | .launchReferenceTake _ => none
  | .launchDispatch => none
  | .keyUnseal _ => none
  | .routeLoad _ _ => none
  | .routeProbeTimeout _ => none
  | .railsStable _ => none
  | .teamPlace => none
  | .gangStart => none
  | .candidateTakeover => none
  | .priorityAging _ => none
  | .victimSelect => none
  | .preemptSignal _ _ => none
  | .preemptEntry _ => none
  | .preemptDeadlineMiss _ => none
  | .teamResume _ => none
  | .trapEntry _ _ _ _ => none
  | .launchRetire _ => none
  | .completionRecordWrite _ => none
  | .unitFailure _ _ => none
  | .pseudoChannelRetire _ => none
  | .channelNarrow _ => none
  | .eccUncorrectable _ => none
  | .powerAlarmRaise => none
  | .powerAlarmClear => none
  | .dieOvertemp _ => none
  | .moduleReset _ => none
  | .functionLevelReset _ => none
  | .ideCheckFailure _ => none
  | .stopInterface _ => none
  | .tdispRequest _ _ => none
  | .setWrapKey _ _ => none
  | .getVersion => none
  | .getCapabilities => none
  | .negotiateAlgorithms => none
  | .getDigests => none
  | .getCertificate => none
  | .challenge _ => none
  | .getMeasurements _ _ => none
  | .keyExchange _ => none
  | .finish => none
  | .tblCreate _ => none
  | .tblModify _ => none
  | .tblDestroy _ => none
  | .tblLoad _ => none
  | .tblRead _ => none
  | .tblRebuild _ => none
  | .stop _ => none
  | .chmap _ => none
  | .qassign _ => none
  | .masks _ => none
  | .reserve _ => none
  | .clearStart _ => none
  | .sqtailDoorbell _ _ _ => none
  | .cqheadWrite _ _ _ => none
  | .registerWrite _ _ _ => none
  | .correctedError => none
  | .hostLinkTraining _ _ _ => none
  | .vfEnable _ _ => none

/-- The bytes of fields: the base word, and the extension word where the opcode has one. -/
def bytesOfFields (f : Base) (e : Nat) : List Byte :=
  leBytes 4 (joinBase f) ++ if hasExt f.op then leBytes 4 e else []

/-- The bytes of an instruction; none for an event. -/
def encode (i : Instr) : Option (List Byte) :=
  match encodeFields i with
  | some (f, e) => some (bytesOfFields f e)
  | none => none

end Sys2Proof
end

