-- ==== Sys2Proof/Machine/State.lean ====
section
/-! DEFINITION. The state of a GK9-4C-960 module as plain data, the reasons a step can stop, and the
state after reset. Sparse data are association lists with rising keys (`Assoc`); what an absent key
reads as is said at each field and is decided in Maps.lean. -/

namespace Sys2Proof.Machine

/-- The reasons a step of the machine stops with a fault. No instruction and no event of the spec stops
the module: a trap, a halt and a failed launch are next states (R322, R326, R336). -/
inductive Fault where
  /-- Raised by no instruction and no event of this model. Safe: it would only stop. -/
  | unreached
  deriving DecidableEq, Repr

/-- The reasons a step is refused. -/
inductive Refusal where
  /-- Raised by an arm of `exec` whose instruction has no meaning yet. Safe: it only stops. -/
  | notModelled (mnemonic : String)
  deriving DecidableEq, Repr

/-! ### Groups -/

/-- A path (R278). `rj` holds RJ and JN together: both are none or neither is. -/
structure Path where
  pc    : W64
  lanes : LaneSet
  mask  : LaneSet
  fmt   : BitVec 14
  rj    : Option (W64 × Nat)
  pd    : Nat
  deriving DecidableEq, Repr

/-- One of a group's two PC slots (R7, R278) with what it stands in. -/
structure Slot where
  /-- The live path; none when the slot is free. -/
  path : Option Path
  /-- The slot tried its next word and was held back; cleared when another agent has moved [A1]. -/
  waiting : Bool
  /-- The slot stands in steps 1 to 3 of a release (R148): the number of the first pending object that
  came after the release. -/
  releasing : Option Nat
  /-- The named queue that the slot waits on in `qpsh` or `qpop` (R293). -/
  inQueue : Option Nat
  /-- How far a word that acts in parts has come: 1 after its write-backs were sent (R147). -/
  stage : Nat
  /-- Producer indexes that a publication under way has still to publish (R176). -/
  pend : List W64
  /-- The cycle from which the slot has stayed ready (R277). -/
  since : Nat
  deriving DecidableEq, Repr

/-- An entry of the split stack (R279). A join entry's path holds the continuation. -/
inductive StackEntry where
  | park (p : Path)
  | join (num : Nat) (p : Path) (arr : LaneSet)
  deriving DecidableEq, Repr

/-- Where a group stands (R286, R326, R330). -/
inductive GStatus where
  | running | halted | draining | ended | yielded
  deriving DecidableEq, Repr

/-- The fault-pending mark of a reply group (R244): lane or uniform, the status register, the number
of reply values after it. -/
structure Mark where
  lane : Bool
  d    : Nat
  nr   : Nat
  deriving DecidableEq, Repr

/-- A handler entry that waits until the group's pending fills have completed (R323 step 3, R328). -/
structure Entering where
  /-- The trapping slot is S1. -/
  s1 : Bool
  /-- The entry is to the pre-emption handler. -/
  pre : Bool
  code : Nat
  detail : W32
  /-- FWORD (R325). -/
  fword : W64
  deriving DecidableEq, Repr

/-- One group. Registers are sparse: a register that is not listed holds zero in every lane (R57).
Entries 120 to 122 of `g` are unused: mk0 to mk2 are the masks of the paths (R56). -/
structure Group where
  v : Assoc LaneVec
  g : Assoc W64
  /-- Empty bits of v0 to v127 (R60). -/
  emptyV : BitVec 128
  /-- Empty bits of g0 to g127; bits 128 to 130 are slot 1's mk0 to mk2 (R56, R60). -/
  emptyG : BitVec 136
  /-- Poison bits of v0 to v127 (R64). -/
  poisonV : BitVec 128
  /-- Poison bits, numbered as `emptyG` (R64). -/
  poisonG : BitVec 136
  marks : List Mark
  s0 : Slot
  s1 : Slot
  /-- The slot that issued last (R277). -/
  last1 : Bool
  /-- The split stack, oldest entry first (R279). -/
  stack : List StackEntry
  /-- Predicate level i + 1 of every lane at entry i (R284). -/
  preds : List LaneSet
  fpst : BitVec 5
  rcto : W32
  /-- %bwm: the pseudo-channel and its busy figure (R59). -/
  pch  : Nat
  busy : Nat
  uwc  : Nat
  /-- Numbers of the open copy and matrix batches, and the sealed batches still listed (R131, R178). -/
  copyBatch : Nat
  copySealed : List Nat
  matBatch : Nat
  matSealed : List Nat
  /-- Region status (R236). -/
  regCode : Nat
  regAborts : Nat
  /-- Live frames, and which was written last (R326). -/
  trapLive : Bool
  preLive : Bool
  preLast : Bool
  window : Option Nat
  callSeq : BitVec 16
  status : GStatus
  /-- A pre-emption signal not yet taken (R328). -/
  signal : Bool
  /-- The resume handler's `hret` has not been executed yet (R328). -/
  resuming : Bool
  /-- Armed channels with the cycle of the arm (R253). -/
  arms : List (Nat × Nat)
  /-- Barrier words that wait (R291, R292): barrier, slot and the handler frames that stood below the word, as one
  number; PC of the word; phase. -/
  barWait : List (Nat × W64 × Nat)
  /-- A handler entry under way (R323). -/
  entering : Option Entering
  deriving DecidableEq, Repr

/-! ### Teams, cores and launches -/

/-- A named barrier (R290); `last` is each group's phase of last participation, and `owed` lists the
groups whose `bar.a` participation no `bar.w` has waited for yet (R291) [A16]. -/
structure Bar where
  expect  : Nat
  arrived : Nat
  ph      : Nat
  last    : Assoc Nat
  owed    : List Nat
  deriving DecidableEq, Repr

/-- A named queue (R293). -/
structure Queue where
  base  : Nat
  depth : Nat
  wm1   : Nat
  head  : Nat
  tail  : Nat
  count : Nat
  allow : Nat
  deriving DecidableEq, Repr

/-- A registered copy ring (R208). -/
structure Ring where
  base   : Nat
  count  : Nat
  notify : Nat
  cons   : W64
  deriving DecidableEq, Repr

/-- One team; its groups are the entries 16 t + g of the group map. -/
structure Team where
  launch : Nat
  idx    : Nat
  groups : Nat
  /-- The core, counted 160 per die and 16 per cluster; kept from the last placement. -/
  core   : Nat
  gen    : BitVec 16
  resident : Bool
  /-- Placement order, for the oldest-group rule of R277. -/
  order  : Nat
  spad   : Assoc Byte
  spadPoison : List Nat
  /-- Tile elements by 2304 t + 48 r + c (R126). -/
  tiles  : Assoc W32
  tilePoison : List Nat
  bars   : Assoc Bar
  queues : Assoc Queue
  ring   : Option Ring
  children : List Nat
  /-- The cycle at which a pre-emption signal reached the team (R329). -/
  signalAt : Option Nat
  /-- It has been pre-empted for a descendant while it waited in `lwt` (R276). -/
  displaced : Bool
  /-- The cluster the team last ran in, for R158. -/
  lastCluster : Nat
  retired : Bool
  deriving DecidableEq, Repr

/-- Core state beyond its teams (R15, R28, R59, R138). -/
structure CoreSt where
  gen     : BitVec 16
  narrow  : Bool
  alarm   : Bool
  retired : Bool
  deriving DecidableEq, Repr

/-- Die state (R15, R266, R267, R336). -/
structure Die where
  failed : Bool
  excluded : Bool
  oph : Nat
  /-- Launches whose route tables are loaded (R266). -/
  routes : List Nat
  deriving DecidableEq, Repr

/-- The steps of R16 that a launch stands in. -/
inductive LPhase where
  /-- Accepted, waiting for dispatch (R263). -/
  | accepted
  /-- Step 3: the key (R304). -/
  | key
  /-- Step 4: route tables not loaded, and loaded with probes out (R266). -/
  | route
  | probing
  /-- Step 6: waiting for the rails (R267). -/
  | rails
  /-- Step 7 on: its teams are placed and run. -/
  | placing
  /-- Its teams are gone, and provisional rows of it cannot be deleted yet (R230). -/
  | ending
  /-- Ended; its completion record waits in queue order. -/
  | ended
  deriving DecidableEq, Repr

/-- A launch (R260 to R276, R298 to R300, R368). -/
structure Launch where
  /-- The sixteen doublewords of its record (R260). -/
  record  : List W64
  ten     : Nat
  /-- Host queue and POS, or none for a child. -/
  queue   : Option (Nat × Nat)
  priv    : Bool
  grants  : List (Nat × Bool × Bool)
  root    : Nat
  /-- The parent team, for a child. -/
  parent  : Option Nat
  depth   : Nat
  phase   : LPhase
  eff     : Nat
  /-- The cycle from which aging counts; once every unit is placed, the cycles counted so far (R263). -/
  ageFrom : Nat
  accNo   : Nat
  dispNo  : Nat
  /-- The order in which it left dispatch (R269). -/
  leftNo : Nat
  /-- Origin of its rectangle in the module (R265). -/
  col0    : Nat
  row0    : Nat
  slot    : Option Nat
  /-- The next team never placed. -/
  nextTeam : Nat
  retiredTeams : Nat
  status  : Nat
  childStatus : Nat
  alerts  : Nat
  stopped : Bool
  unit    : Nat
  /-- The cycle at which the probes left (R266). -/
  probeAt : Nat
  /-- The broadcast layout as step 5 of R16 checked it: table, first channel, count. -/
  bcast : Option (Nat × Nat × Nat)
  deriving DecidableEq, Repr

/-! ### Tables and memory -/

/-- A row of a keyed table's index (R21, R35): its key as an integer in the table's order, its slot,
and the tag and launch of a provisional row. -/
structure Row where
  key  : Int
  slot : Nat
  prov : Option (Nat × Nat)
  deriving DecidableEq, Repr

/-- A `tcom` (`com`) or `trbk` that has placed some of its rows in a table's index order and not all (R182,
R230): its slot, 2 gid + S1, its tag and its limit. -/
structure Held where
  who : Nat
  com : Bool
  tag : Nat
  limit : Int
  deriving DecidableEq, Repr

/-- A directory entry with its index (R18, R25). -/
structure Table where
  /-- Doublewords 0 to 5. -/
  dw   : List W64
  rows : List Row
  /-- The free list, as ranges [lo, hi) from the head. -/
  free : List (Nat × Nat)
  /-- Page size 0 to 4 (R39, R369). -/
  page : Nat
  /-- Where the host maps later positions in another size: the first position and the size, rising
  (R39). -/
  sizes : List (Nat × Nat)
  poisonDesc  : Bool
  poisonIndex : Bool
  /-- The `tcom` or `trbk` under way (R182, R230). -/
  held : Option Held
  /-- The index stack chosen when the descriptor was made valid, of a table that is not pinned to one stack
  (R182). -/
  index : Nat
  deriving DecidableEq, Repr

/-- A byte of a cluster copy (R160): state 0 clean, 1 dirty, n + 2 sent to the home as write n. -/
structure L1Byte where
  val : Byte
  st  : Nat
  deriving DecidableEq, Repr

/-- A pinned range (R41, R217). -/
structure Pin where
  die : Nat
  launch : Nat
  lo : Nat
  len : Nat
  ways : Nat
  deriving DecidableEq, Repr

/-- A handle walk (R12): the die of the walker, the page, the cores whose misses it serves. -/
structure Walk where
  die : Nat
  page : Nat
  cores : List Nat
  deriving DecidableEq, Repr

/-- The memory system. Byte keys: a table handle below 2^62; 2^62 + launch * 2^42 + position for
private memory (R29); 2^110 + key for the ECC side bytes of an encrypted unit, which hold its tag
(R306). -/
structure Mem where
  /-- Bytes at their homes, the ECC side bytes of encrypted units among them (R306); an absent key
  reads 0. -/
  home : List Host.Cell
  /-- Cluster copies by cluster * 2^112 + key; an absent key is not valid (R160). -/
  l1 : Assoc L1Byte
  /-- Visitor bytes by die * 2^112 + key (R169). -/
  vis : Assoc Byte
  /-- Poisoned 32-byte units, by key / 32 (R333). -/
  poison : List Nat
  /-- Lines of cluster copies with the evict-first mark, by cluster * 2^112 + line (R41). -/
  early : List Nat
  /-- Row versions by table * 2^42 + slot (R30). -/
  versions : Assoc W32
  /-- Redirected rows: the stack that holds the row (R37). -/
  reloc : Assoc Nat
  /-- Rows in steps 1 and 2 of a move, with the target stack (R37). -/
  moving : Assoc Nat
  /-- Handle walks in flight, oldest first (R12). -/
  walks : List Walk
  /-- Pages held by the handle TLB of each core, latest first: core and page (R8, R12, R39). -/
  tlb : List (Nat × Nat)
  pins : List Pin
  /-- Home-map entries that firmware has rewritten (R38): module map at 0 to 4095, die maps at
  4096 (d + 1) and on. -/
  homeMap : Assoc Nat
  /-- Channel-map entries that firmware has rewritten, by 64 stack + u (R38). -/
  chanMap : Assoc Nat
  /-- Private pages allocated, by tenant, as page numbers of the key space (R29). -/
  privPages : List (Nat × Nat)
  /-- Private reserve of each tenant in 2 MiB pages (R29, R369). -/
  reserve : Assoc Nat
  deriving DecidableEq, Repr

/-- The atomic part of a write request (R167, R191). -/
structure Atom where
  op   : AtomOp
  wid  : Nat
  b0   : W64
  b1   : W64
  /-- The producer that waits for the old value, with its lane. -/
  fill : Option (Nat × Nat)
  deriving DecidableEq, Repr

/-- What a write request is (R147, R161). -/
inductive WKind where
  /-- A plain write on its way to the cluster copy. -/
  | l1
  /-- A strong write or a write-back on its way to the home. -/
  | home
  /-- A write on its way to another core's scratchpad, in the team named. -/
  | spad (team : Nat)
  /-- An atomic or reduction for the home write queue. -/
  | atom (a : Atom)
  /-- A reduction on its way to another core's scratchpad, in the team named (R193). -/
  | spadAtom (team : Nat) (a : Atom)
  deriving DecidableEq, Repr

/-- A packet between dies (R170): its flow, its number, the path that it takes and the point at which it
was sent on that path. -/
structure Packet where
  src : Nat
  dst : Nat
  seq : BitVec 32
  path : Nat
  sent : Nat
  deriving DecidableEq, Repr

/-- A write request of one 64-byte sector, or of one element for an atomic (R147). -/
structure PWrite where
  id : Nat
  gid : Nat
  cluster : Nat
  kind : WKind
  /-- Byte writes by memory key, or by scratchpad offset; once sent to the home, as stored there. -/
  data : List (Nat × Byte)
  /-- The bytes of one element, each a separate access (R142); 0 where the request is one. -/
  ew : Nat
  /-- 0 in flight between dies, 1 at the home, 2 performed and not acknowledged. -/
  stage : Nat
  /-- It has left its core: its handle is translated (R12). -/
  gone : Bool
  /-- The core that issued it and the page of its handle; none where no handle is translated. -/
  page : Option (Nat × Nat)
  /-- Its packet between dies (R170). -/
  flow : Option Packet
  /-- A release sent behind a flush marker (R171). -/
  rel : Bool
  /-- The number of the flush marker it follows, and the paths whose copies it awaits (R171). -/
  marker : Option (BitVec 32 × List Nat)
  /-- Counted in the group's %uwc (R147). -/
  counted : Bool
  /-- Not a thread store: it clears the poison of the units it covers whole (R190, `sdef`). -/
  clears : Bool
  /-- A write-back of dirty bytes of its cluster's copy (R160). -/
  back : Bool
  /-- The keys of the elements of a strong write that have entered the cluster copy ahead of the rest, before the
  request leaves its core (R142). -/
  into : List Nat
  deriving DecidableEq, Repr

/-- A location: what a checked handle names (R26). -/
inductive Loc where
  /-- Table memory, by the key of the first byte. -/
  | tab (key : Nat)
  /-- Private memory: the key of the window's first byte, the lane, the lane-private offset (R29). -/
  | priv (base lane off : Nat)
  /-- A team's scratchpad, by team and offset. -/
  | spad (team off : Nat)
  deriving DecidableEq, Repr

/-- What a producer fills its destinations with (R60). -/
inductive FillKind where
  /-- A load: destination, width, sign extension; `got` holds values captured earlier (R224). -/
  | load (d : Nat) (wid : Nat) (sx : Bool) (strong : Bool)
  | trd (d : Nat) (len : Nat)
  /-- A lookup under the descriptor as translated (R20). -/
  | tget (d c tid : Nat) (dft : Bool) (desc : List W64)
  | tstp (d a c k : Nat)
  /-- A returning atomic; `home` when it is performed at the home. -/
  | atm (d : Nat) (a : Atom) (home : Bool)
  | lnch (d : Nat) (val : W64)
  | call (d nr : Nat) (trp : Bool)
  deriving DecidableEq, Repr

/-- One access of a producer: the lane (0 for a uniform producer), the element it reads (R142), its
operands. -/
structure Item where
  lane : Nat
  loc  : Loc
  len  : Nat
  args : List W64
  /-- The bytes bound, and whether poisoned. -/
  got  : Option (List Byte × Bool)
  deriving DecidableEq, Repr

/-- A producer that has emptied its destinations (R60). -/
structure Fill where
  id : Nat
  gid : Nat
  slot1 : Bool
  /-- Lane form (true) or uniform form. -/
  lane : Bool
  kind : FillKind
  items : List Item
  /-- The registers it emptied. -/
  dstV : BitVec 128
  dstG : BitVec 136
  acq : Bool
  born : Nat
  deriving DecidableEq, Repr

/-- A copy of a flush marker (R171): its number, the path it was sent for, the path it takes and the point
at which it was sent on that path. -/
structure MarkerCopy where
  num : BitVec 32
  forPath : Nat
  path : Nat
  sent : Nat
  deriving DecidableEq, Repr

/-- A flow between two dies (R170, R171). -/
structure Flow where
  src : Nat
  dst : Nat
  next : BitVec 32
  /-- Flush markers that have arrived: number and the path they were sent for. -/
  markers : List (BitVec 32 × Nat)
  /-- Marker copies on their way. -/
  sent : List MarkerCopy
  /-- Retransmitted copies in flight (R170). -/
  copies : List (BitVec 32)
  deriving DecidableEq, Repr

/-! ### Engines -/

/-- A scoreboard entry (R173): a half-open interval of the core's scratchpad, kept with its team. -/
structure ScoreEntry where
  core : Nat
  team : Nat
  lo : Nat
  hi : Nat
  w : Bool
  op : Nat
  deriving DecidableEq, Repr

/-- The transfers between a copy entry and a host page, of at most 256 bytes each and in increasing address
order (R314). -/
structure HostXfer where
  fn : Nat
  /-- The host page is the destination. -/
  write : Bool
  /-- The untranslated address and the length. -/
  addr : Nat
  len : Nat
  /-- The translated addresses of the transfers issued. -/
  sent : List Nat
  /-- The transfers that are complete. -/
  back : Nat
  /-- The next transfer waits for a new translation. -/
  held : Bool
  deriving DecidableEq, Repr

/-- A copy entry in work (R209 to R212). -/
structure CopyOp where
  id : Nat
  gid : Nat
  batch : Nat
  /-- The four doublewords of the command entry. -/
  entry : List W64
  /-- The worst status so far (R212). -/
  status : Nat
  /-- Source bytes with their poison, once read. -/
  data : Option (List (Byte × Bool))
  /-- Destination lines or units still to write, as memory keys of lines. -/
  lines : List Nat
  /-- Target cores still to be delivered, with the generation taken at acceptance. -/
  targets : List (Nat × BitVec 16)
  /-- Every byte is written. -/
  done : Bool
  /-- Its transfers to or from a host page (R314). -/
  host : Option HostXfer
  /-- The bytes that its host transfers have read. -/
  got : List Byte
  deriving DecidableEq, Repr

/-- A gather in work (R207). -/
structure Gather where
  id : Nat
  gid : Nat
  batch : Nat
  tid : Nat
  /-- The descriptor under which it passed translation (R20). -/
  desc : List W64
  list : Loc
  off : Nat
  ty : Nat
  n : Nat
  dft : Bool
  /-- The keys of its list with their poison, once read. -/
  keys : Option (List (Nat × Bool))
  deriving DecidableEq, Repr

/-- What a matrix operation does, with its operands as read (R124, R126 to R137). -/
inductive MatKind where
  | zero
  | ld (off : Nat)
  | st (off : Nat)
  /-- Fragments as lists of lane registers. -/
  | mma (a b : List LaneVec)
  /-- The sixteen A and B quarters in core order. -/
  | mmac (a b : List (List LaneVec))
  deriving DecidableEq, Repr

/-- A queued matrix operation (R128). -/
structure MatOp where
  id : Nat
  gid : Nat
  core : Nat
  batch : Nat
  kind : MatKind
  tile : Nat
  ntiles : Nat
  fmt : BitVec 14
  /-- The lane registers it holds until the unit has read them (R63). -/
  held : BitVec 128
  started : Bool
  deriving DecidableEq, Repr

/-- A pending `mmac` arrival (R136): its key, its core, the slot that waits, the tile, the latched FMT and
the base registers of its quarters. -/
structure Arrival where
  launch : Nat
  gang : Nat
  num : Nat
  core : Nat
  gid : Nat
  slot1 : Bool
  tile : Nat
  fmt : BitVec 14
  ra : Nat
  rb : Nat
  deriving DecidableEq, Repr

/-! ### Regions -/

/-- A buffered sector of a region (R224), as it is stored with the side bytes of encrypted units (R308), the
bytes of it that the region has written, and the point of its last write. -/
structure Image where
  sector : Nat
  bytes : List Byte
  mask : BitVec 64
  stamp : Nat
  deriving DecidableEq, Repr

/-- An open region (R219, R222). -/
structure Region where
  gid : Nat
  die : Nat
  reads : List Nat
  /-- The point of the latest read of each sector, for the later-write row of R224. -/
  readAt : Assoc Nat
  writes : List Image
  /-- The group as it stood at `fbeg`, its slot's PC after the word (R229). -/
  snap : Group
  /-- The point at which `fend` asked to commit. -/
  fend : Option Nat
  /-- The point from which it has been ready to commit (R227). -/
  ready : Option Nat
  deriving DecidableEq, Repr

/-- The kinds of dependence edge (R224, R226). A wait edge belongs to one waiting access: of the word in
slot 0 or 1, or of producer `n` as `n + 2`. -/
inductive EdgeKind where
  | forward | order
  | wait (acc : Nat)
  deriving DecidableEq, Repr

/-- An edge between the regions of two groups (R224). -/
structure Edge where
  src : Nat
  dst : Nat
  kind : EdgeKind
  deriving DecidableEq, Repr

/-! ### Remote calls -/

/-- The executor of a call (R237). -/
inductive Exec where
  /-- The Aphid of a bank: pseudo-channel and bank. -/
  | bank (ch b : Nat)
  /-- A service context on a die. -/
  | service (die : Nat)
  deriving DecidableEq, Repr

/-- The registers of an Aphid or of a service context (R249). -/
structure Aphid where
  v : List (List W32)
  g : List W64
  /-- Poisoned lane registers, by lane. -/
  pois : List (BitVec 8)
  /-- Mask stack, top first. -/
  stack : List (BitVec 8)
  deriving DecidableEq, Repr

/-- A called function under way (R242, R246): the core whose service context runs it (none in an Aphid), the
word at which it stands, its registers, and its program store; a word of a poisoned unit is none. -/
structure CallRun where
  core : Option Nat
  pc : Nat
  unit : Aphid
  words : List (Option W32)
  deriving DecidableEq, Repr

/-- A remote call (R240 to R248). -/
structure Call where
  id : Nat
  gid : Nat
  launch : Nat
  ten : Nat
  fill : Nat
  lane : Nat
  seq : BitVec 16
  target : Nat
  entry : Nat
  words : List W32
  g : List W64
  exec : Exec
  inline : Bool
  nr : Nat
  uniform : Bool
  /-- Its run, from its start to its end. -/
  run : Option CallRun
  /-- The reply: the words of v15 and the status word's low half. -/
  reply : Option (List W32 × W32)
  /-- The words of the reply that are poisoned (R64, R333) [A80]. -/
  bad : BitVec 8
  /-- The cycle at which its reply registers fill LOST (R248); an inline run has none. -/
  limit : Option Nat
  /-- It holds one of its group's 256 places; otherwise its reply will be discarded (R248). -/
  live : Bool
  deriving DecidableEq, Repr

/-- A queued sweep (R254). -/
structure Sweep where
  ncol : Nat
  col : Nat
  g : List W64
  words : List W32
  w : Nat
  deriving DecidableEq, Repr

/-- A pseudo-channel (R253 to R258, R371). -/
structure Channel where
  retired : Bool
  narrowed : Bool
  key : W64
  holder : Option Nat
  sweeps : List Sweep
  /-- The step rate is halved (R256). -/
  half : Bool
  alertAt : Option Nat
  deriving DecidableEq, Repr

/-! ### Distributor, host and Stag -/

/-- The arbiter and distributor (R261 to R272). -/
structure Dist where
  nextLaunch : Nat
  accepted : Nat
  dispatched : Nat
  /-- Launches that have left dispatch (R264). -/
  left : Nat
  placed : Nat
  cand : Option Nat
  candAt : Nat
  /-- Places reserved for the candidate's gang: member and core (R269). -/
  reserved : List (Nat × Nat)
  /-- The team whose pre-emption the distributor waits for (R271). -/
  victim : Option Nat
  deriving DecidableEq, Repr

/-- A completion record (R368), as its four doublewords. -/
structure CompRec where
  pos : Nat
  dw : List W64
  deriving DecidableEq, Repr

/-- A host queue with its queue block (R367) and the arbiter's journal of it (R335). -/
structure HQueue where
  ten : Option Nat
  loc : Nat
  sqbase : W64
  en : Bool
  ien : Bool
  sqn : BitVec 16
  cqn : BitVec 16
  cqbase : W64
  sqtail : BitVec 16
  sqhead : BitVec 16
  cqhead : BitVec 16
  refused : W32
  refpos : BitVec 16
  refcode : BitVec 8
  /-- References taken so far. -/
  taken : Nat
  /-- The last accepted launch of the queue. -/
  prev : Option Nat
  /-- Accepted launches without a written record, in queue order (COMPLETION_WRITTEN 0). -/
  open_ : List Nat
  cqtail : BitVec 16
  /-- Records written and not consumed. -/
  unread : Nat
  phase : Bool
  /-- MSI-X messages sent (R367 IEN). -/
  msix : Nat
  deriving DecidableEq, Repr

/-- BAR0 of one function (R366). -/
structure Bar0 where
  area : List W64
  cmd : BitVec 16
  result : W32
  refuse : BitVec 8
  busy : Bool
  deriving DecidableEq, Repr

/-- An ATS translation cache entry (R314): the untranslated range and where it begins. -/
structure Ats where
  fn : Nat
  lo : Nat
  hi : Nat
  base : Nat
  deriving DecidableEq, Repr

/-- An ATS invalidation in hand (R314): its range, and the copies with the number of transfers of each that
have to be complete before its completion is sent. -/
structure Inval where
  fn : Nat
  lo : Nat
  hi : Nat
  waits : List (Nat × Nat)
  deriving DecidableEq, Repr

/-- The host attachment (R365 to R374). Function 0 is the PF, function t + 1 the VF of tenant t. -/
structure HostIf where
  boot : Nat
  bars : Assoc Bar0
  queues : Assoc HQueue
  mem : List Host.Cell
  ats : List Ats
  invals : List Inval
  /-- The ranges of the invalidation completions sent. -/
  invalDone : List (Nat × Nat × Nat)
  linkRate : Nat
  linkWidth : Nat
  cxl : Bool
  trained : Bool
  alarms : W32
  limit : Nat
  alarm : Bool
  privMask : W64
  coMask : W64
  enabled : List Nat
  corrected : Nat
  deriving DecidableEq, Repr

/-- TDISP states (R316). -/
inductive Tdi where
  | unassigned | unlocked | locked | run | error
  deriving DecidableEq, Repr

/-- An event-log entry (R318). -/
structure LogEntry where
  seq : Nat
  midx : Nat
  etype : Nat
  digest : BitVec 384
  data : List Byte
  deriving DecidableEq, Repr

/-- A start-record step entry (R338). -/
structure StartStep where
  gen : W32
  alt : Nat
  state : Nat
  unit : Nat
  step : Nat
  deriving DecidableEq, Repr

/-- A key slot (R304): the tenant and key identifier, the users, the key pair; zero when `count`
is 0. -/
structure KeySlot where
  ten : Nat
  kid : W64
  count : Nat
  pair : BitVec 512
  /-- The integrity key that the Stag derived when it loaded the slot (R306). -/
  ikey : BitVec 256
  deriving DecidableEq, Repr

/-- A tenant fault-log entry: a group that halted (R326), or a function-level reset (R317). -/
inductive FaultLog where
  | halted (ten launch team group cause : Nat) (fword : W64)
  | reset (ten : Nat)
  deriving DecidableEq, Repr

/-- Entries of the module error log (R306, R333, R337). -/
inductive ErrLog where
  | ecc (unit : Nat)
  | integrity (unit : Nat)
  | tableLost (tid : Nat)
  | stage (failed : Nat)
  deriving DecidableEq, Repr

/-- An answer the Stag has sent on SPDM (R321). -/
structure SpdmAnswer where
  code : Nat
  body : List Byte
  deriving DecidableEq, Repr

/-- An SPDM session (R321): its secret, and whether FINISH has secured it. -/
structure Session where
  secret : BitVec 384
  secured : Bool
  deriving DecidableEq, Repr

/-- A start under way (R320, R375): what it meets, the next image to verify, the steps with their units that are
still to be run, and whether the first of them has begun. -/
structure BootRun where
  input : BootInput
  image : Nat
  plan : List (Nat × Nat)
  begun : Bool
  deriving DecidableEq, Repr

/-- The Stag management core (R302 to R321, R338, R339). -/
structure Stag where
  mregs : List (BitVec 384)
  log : List LogEntry
  slots : Assoc KeySlot
  wrap : Assoc (BitVec 256)
  tdi : Assoc Tdi
  ideErr : List Nat
  /-- SPDM: version, capabilities and algorithms agreed. -/
  version : Bool
  caps : Bool
  algs : Bool
  sessions : List Session
  /-- The session bound to the TDI of a tenant (R303). -/
  bound : Assoc Nat
  /-- The SHA-384 digests of Caeryel's two public keys in the boot ROM (R319). -/
  rom : BitVec 384 × BitVec 384
  /-- The private seeds of the identity and of the alias key pairs of this start (R319). -/
  keys : Option (BitVec 512 × BitVec 512)
  boot : Option BootRun
  answers : List SpdmAnswer
  startGen : W64
  steps : List StartStep
  faults : List FaultLog
  errors : List ErrLog
  deriving DecidableEq, Repr

/-- The machine. -/
structure State where
  now : Nat
  /-- The environment's schedule: events with the cycle from which each may happen [A1]. -/
  inputs : List (Nat × Instr)
  /-- The group and slot whose word is being executed (the model's own). -/
  curG : Nat
  curS : Bool
  /-- The counter of free values (the model's own) [A3]. -/
  fresh : Nat
  /-- The next number of a pending object (the model's own). -/
  nextId : Nat
  /-- The pipes that have issued in this clock: the core, and whether it is the lane pipe (R277). -/
  spent : List (Nat × Bool)
  groups : Assoc Group
  teams : Assoc Team
  cores : Assoc CoreSt
  dies : Assoc Die
  /-- Failed links: 0 to 3 the die pairs of R13 in its order, 4 to 19 the Tvedrov ports (R15, R338). -/
  links : List Nat
  launches : Assoc Launch
  tables : Assoc Table
  mem : Mem
  writes : List PWrite
  fills : List Fill
  flows : List Flow
  score : List ScoreEntry
  copies : List CopyOp
  gathers : List Gather
  mats : List MatOp
  arrivals : List Arrival
  regions : List Region
  edges : List Edge
  /-- Snapshots of aborted regions whose groups still wait for their fills (R229), by group. -/
  restores : Assoc Group
  calls : List Call
  channels : Assoc Channel
  aphids : Assoc Aphid
  /-- The next service core of each die (R237). -/
  rotate : Assoc Nat
  dist : Dist
  host : HostIf
  stag : Stag
  deriving DecidableEq, Repr

/-- Memory after reset: nothing written (R18) [A4], no reserve (R29). -/
def Mem.reset : Mem where
  home := []
  l1 := []
  vis := []
  poison := []
  early := []
  versions := []
  reloc := []
  moving := []
  walks := []
  tlb := []
  pins := []
  homeMap := []
  chanMap := []
  privPages := []
  reserve := []

/-- The distributor after reset: %launch values start at 1 (R261). -/
def Dist.reset : Dist where
  nextLaunch := 1
  accepted := 0
  dispatched := 0
  left := 0
  placed := 0
  cand := none
  candAt := 0
  reserved := []
  victim := none

/-- The host attachment after reset (R300, R301, R366, R367, R373); the link is not trained [A5]. -/
def HostIf.reset : HostIf where
  boot := 0
  bars := []
  queues := []
  mem := []
  ats := []
  invals := []
  invalDone := []
  linkRate := 0
  linkWidth := 0
  cxl := false
  trained := false
  alarms := 0
  limit := 4400
  alarm := false
  privMask := 0
  coMask := 0
  enabled := []
  corrected := 0

/-- The Stag after reset: measurement registers zero, the log empty (R318); a start record that no
start has written [A5]. -/
def Stag.reset : Stag where
  mregs := List.replicate 24 0
  log := []
  slots := []
  wrap := []
  tdi := []
  ideErr := []
  version := false
  caps := false
  algs := false
  sessions := []
  bound := []
  rom := (0, 0)
  keys := none
  boot := none
  answers := []
  startGen := 0
  steps := List.replicate 64 ⟨0, 0, 0, 0, 0⟩
  faults := []
  errors := []

/-- The module right after reset. -/
def State.reset : State where
  now := 0
  inputs := []
  curG := 0
  curS := false
  fresh := 0
  nextId := 0
  spent := []
  groups := []
  teams := []
  cores := []
  dies := []
  links := []
  launches := []
  tables := []
  mem := Mem.reset
  writes := []
  fills := []
  flows := []
  score := []
  copies := []
  gathers := []
  mats := []
  arrivals := []
  regions := []
  edges := []
  restores := []
  calls := []
  channels := []
  aphids := []
  rotate := []
  dist := Dist.reset
  host := HostIf.reset
  stag := Stag.reset

end Sys2Proof.Machine
end

