-- ==== Sys2Proof/Machine/Maps.lean ====
section
/-! DEFINITION. Association lists with rising keys, the canonical byte memory, lane sets and bit fields. -/

namespace Sys2Proof.Machine

/-- The value at a key. -/
def aget {α : Type} : Assoc α → Nat → Option α
  | [], _ => none
  | (k, v) :: r, q => if k = q then some v else aget r q

/-- The list without a key. -/
def adel {α : Type} : Assoc α → Nat → Assoc α
  | [], _ => []
  | (k, v) :: r, q => if k = q then adel r q else (k, v) :: adel r q

/-- Insertion before the first greater key. -/
def ains {α : Type} : Assoc α → Nat → α → Assoc α
  | [], q, x => [(q, x)]
  | (k, v) :: r, q, x => if q < k then (q, x) :: (k, v) :: r else (k, v) :: ains r q x

/-- The list with a key set to a value. -/
def aput {α : Type} (m : Assoc α) (q : Nat) (x : α) : Assoc α := ains (adel m q) q x

/-- The list with a key's value changed; unchanged where the key is absent. -/
def aupd {α : Type} (m : Assoc α) (q : Nat) (f : α → α) : Assoc α :=
  match aget m q with
  | some x => aput m q (f x)
  | none => m

/-- The keys of a list. -/
def akeys {α : Type} (m : Assoc α) : List Nat := m.map (·.1)

/-- Keys strictly rising: the canonical form of an association list. -/
def rising {α : Type} : Assoc α → Bool
  | [] => true
  | [_] => true
  | (a, _) :: (b, y) :: r => decide (a < b) && rising ((b, y) :: r)

/-- What a byte that nothing has written reads as [A4]. -/
def blank : Byte := 0

/-- A byte of a memory. -/
def byteAt (m : List Host.Cell) (k : Nat) : Byte := (aget m k).getD blank

/-- A memory with one byte written; the value of an unlisted byte is not listed. -/
def setByte (m : List Host.Cell) (k : Nat) (b : Byte) : List Host.Cell :=
  if b = blank then adel m k else aput m k b

/-- The canonical form of a memory: keys rising and no entry equal to `blank`. -/
def Memory.wf (m : List Host.Cell) : Bool := rising m && m.all fun c => c.2 != blank

/-- `n` bytes from a key on. -/
def bytesAt (m : List Host.Cell) (k n : Nat) : List Byte := (List.range n).map fun i => byteAt m (k + i)

/-- Several byte writes, in order. -/
def setBytes (m : List Host.Cell) : List (Nat × Byte) → List Host.Cell
  | [] => m
  | (k, b) :: r => setBytes (setByte m k b) r

/-- Byte writes of a list of bytes from a key on. -/
def runOf (k : Nat) : List Byte → List (Nat × Byte)
  | [] => []
  | b :: r => (k, b) :: runOf (k + 1) r

/-- The `n`-bit field of a doubleword at bit `lo` (R2). -/
def field (x : W64) (lo n : Nat) : Nat := x.toNat / 2 ^ lo % 2 ^ n

/-- A doubleword with the `n`-bit field at bit `lo` replaced. -/
def withField (x : W64) (lo n v : Nat) : W64 :=
  BitVec.ofNat 64 (x.toNat - field x lo n * 2 ^ lo + v % 2 ^ n * 2 ^ lo)

/-- A bit of a doubleword. -/
def flag (x : W64) (i : Nat) : Bool := x.toNat / 2 ^ i % 2 == 1

/-- Entry `i` of a list of doublewords; 0 beyond it. -/
def dwAt (l : List W64) (i : Nat) : W64 := l.getD i 0

/-- The value of a truth value as a bit. -/
def bnat (b : Bool) : Nat := if b then 1 else 0

/-- A list without its repeats, first occurrences kept. -/
def dedup : List Nat → List Nat
  | [] => []
  | x :: r => x :: (dedup r).filter (· != x)

/-- A list with entry `i` replaced. -/
def setAt {α : Type} : List α → Nat → α → List α
  | [], _, _ => []
  | _ :: r, 0, x => x :: r
  | y :: r, i + 1, x => y :: setAt r i x

/-- A set of numbers, as a rising list without repeats, with one number added. -/
def insNum : List Nat → Nat → List Nat
  | [], x => [x]
  | y :: r, x => if x = y then y :: r else if x < y then x :: y :: r else y :: insNum r x

/-! ### Lanes -/

/-- The lanes of a group, 0 to 95 (R54). -/
def laneNums : List Nat := List.range 96

/-- All 96 lanes. -/
def allLanes : LaneSet := BitVec.allOnes 96

/-- The lanes of a set, rising (R5). -/
def lanesOf (m : LaneSet) : List Nat := laneNums.filter fun l => m.getLsbD l

/-- The set of the lanes for which a condition holds. -/
def laneSet (f : Nat → Bool) : LaneSet :=
  laneNums.foldl (fun m l => if f l then m ||| BitVec.twoPow 96 l else m) 0

/-- A lane register from its lanes. -/
def mkLanes (f : Nat → W32) : LaneVec := laneNums.map f

/-- One lane of a lane register; zero where nothing is listed (R57). -/
def laneAt (v : LaneVec) (l : Nat) : W32 := v.getD l 0

/-- A lane register that is zero everywhere is not listed. -/
def normVec (v : LaneVec) : LaneVec := if v.all (· == 0) then [] else v

/-- A bit of a register set. -/
def bitOn {n : Nat} (m : BitVec n) (i : Nat) : Bool := m.getLsbD i

/-- The set of one register, or of `k` registers from `r` on. -/
def regSet (n r k : Nat) : BitVec n := BitVec.ofNat n ((2 ^ k - 1) * 2 ^ r)

/-- A 64-bit value from two lane words (R54). -/
def join64 (lo hi : W32) : W64 := hi ++ lo

/-- The low word of a doubleword. -/
def lo32 (x : W64) : W32 := x.extractLsb' 0 32

/-- The high word of a doubleword. -/
def hi32 (x : W64) : W32 := x.extractLsb' 32 32

end Sys2Proof.Machine
end

