-- ==== Sys2Proof/Machine/Access.lean ====
section
/-! DEFINITION. Accessors: groups and their registers, teams, cores, launch records and descriptors. All
reads and writes of registers go through these definitions. -/

namespace Sys2Proof.Machine

/-! ### Empty records -/

/-- A free slot. -/
def Slot.free : Slot := ⟨none, false, none, none, 0, [], 0⟩

/-- The path of a group at its start (R278). -/
def Path.start (pc : W64) : Path := ⟨pc, allLanes, allLanes, 0, none, 0⟩

/-- A group at its start, in a team of a launch whose code begins at `pc` (R57, R278). -/
def Group.start (pc : W64) : Group where
  v := []
  g := []
  emptyV := 0
  emptyG := 0
  poisonV := 0
  poisonG := 0
  marks := []
  s0 := { Slot.free with path := some (Path.start pc) }
  s1 := Slot.free
  last1 := true
  stack := []
  preds := List.replicate 8 0
  fpst := 0
  rcto := 0x00100000
  pch := 0
  busy := 0
  uwc := 0
  copyBatch := 0
  copySealed := []
  matBatch := 0
  matSealed := []
  regCode := 0
  regAborts := 0
  trapLive := false
  preLive := false
  preLast := false
  window := none
  callSeq := 0
  status := .running
  signal := false
  resuming := false
  arms := []
  barWait := []
  entering := none

/-- What an absent group reads as: a group that has ended. -/
def Group.absent : Group := { Group.start 0 with s0 := Slot.free, status := .ended }

/-- What an absent team reads as. -/
def Team.absent : Team where
  launch := 0
  idx := 0
  groups := 0
  core := 0
  gen := 0
  resident := false
  order := 0
  spad := []
  spadPoison := []
  tiles := []
  tilePoison := []
  bars := []
  queues := []
  ring := none
  children := []
  signalAt := none
  displaced := false
  lastCluster := 0
  retired := true

/-- A core that nothing has changed since reset. -/
def CoreSt.fresh : CoreSt := ⟨0, false, false, false⟩
/-- A die that nothing has changed since reset. -/
def Die.fresh : Die := ⟨false, false, 0, []⟩

/-- What an absent launch reads as: an ended one with an empty record. -/
def Launch.absent : Launch where
  record := []
  ten := 0
  queue := none
  priv := false
  grants := []
  root := 0
  parent := none
  depth := 0
  phase := .ended
  eff := 0
  ageFrom := 0
  accNo := 0
  dispNo := 0
  leftNo := 0
  col0 := 0
  row0 := 0
  slot := none
  nextTeam := 0
  retiredTeams := 0
  status := 0
  childStatus := 0
  alerts := 0
  stopped := false
  unit := 0
  probeAt := 0
  bcast := none

/-- A directory entry that nothing has written: VALID is 0 [A5]. -/
def Table.absent : Table := ⟨[], [], [], 0, [], false, false, none, 0⟩

/-! ### Reading and changing the maps of the state -/

/-- The group `gid`, 16 team + index. -/
def State.group (s : State) (gid : Nat) : Group := (aget s.groups gid).getD Group.absent
/-- The state with group `gid` set. -/
def State.setGroup (s : State) (gid : Nat) (g : Group) : State :=
  { s with groups := aput s.groups gid g }
/-- The state with group `gid` changed. -/
def State.modGroup (s : State) (gid : Nat) (f : Group → Group) : State :=
  s.setGroup gid (f (s.group gid))
/-- A team by its key. -/
def State.team (s : State) (t : Nat) : Team := (aget s.teams t).getD Team.absent
/-- The state with a team set. -/
def State.setTeam (s : State) (t : Nat) (x : Team) : State := { s with teams := aput s.teams t x }
/-- The state with a team changed. -/
def State.modTeam (s : State) (t : Nat) (f : Team → Team) : State := s.setTeam t (f (s.team t))
/-- A core by its number. -/
def State.core (s : State) (c : Nat) : CoreSt := (aget s.cores c).getD CoreSt.fresh
/-- The state with a core changed. -/
def State.modCore (s : State) (c : Nat) (f : CoreSt → CoreSt) : State :=
  { s with cores := aput s.cores c (f (s.core c)) }
/-- A die by its number. -/
def State.die (s : State) (d : Nat) : Die := (aget s.dies d).getD Die.fresh
/-- The state with a die changed. -/
def State.modDie (s : State) (d : Nat) (f : Die → Die) : State :=
  { s with dies := aput s.dies d (f (s.die d)) }
/-- A launch by its %launch. -/
def State.launch (s : State) (l : Nat) : Launch := (aget s.launches l).getD Launch.absent
/-- The state with a launch changed. -/
def State.modLaunch (s : State) (l : Nat) (f : Launch → Launch) : State :=
  { s with launches := aput s.launches l (f (s.launch l)) }
/-- A directory entry. -/
def State.table (s : State) (t : Nat) : Table := (aget s.tables t).getD Table.absent
/-- The state with a directory entry set. -/
def State.setTable (s : State) (t : Nat) (x : Table) : State := { s with tables := aput s.tables t x }
/-- The state with its memory system changed. -/
def State.modMem (s : State) (f : Mem → Mem) : State := { s with mem := f s.mem }

/-! ### Where things are -/

/-- The team of a group. -/
def teamOf (gid : Nat) : Nat := gid / 16
/-- The index of a group in its team (%group). -/
def groupIdx (gid : Nat) : Nat := gid % 16
/-- The key of team `idx` of a launch. -/
def teamKey (launch idx : Nat) : Nat := launch * 2 ^ 32 + idx
/-- The launch of a team key. -/
def launchOfTeam (t : Nat) : Nat := t / 2 ^ 32
/-- The die of a core. -/
def dieOfCore (c : Nat) : Nat := c / 160
/-- The cluster of a core, counted over the module. -/
def clusterOfCore (c : Nat) : Nat := c / 16
/-- The die of a cluster. -/
def dieOfCluster (c : Nat) : Nat := c / 10
/-- The core a group runs on. -/
def State.coreOf (s : State) (gid : Nat) : Nat := (s.team (teamOf gid)).core
/-- The cluster a group runs in. -/
def State.clusterOf (s : State) (gid : Nat) : Nat := clusterOfCore (s.coreOf gid)
/-- The die a group runs on. -/
def State.dieOf (s : State) (gid : Nat) : Nat := dieOfCore (s.coreOf gid)
/-- The launch of a group. -/
def State.launchOf (s : State) (gid : Nat) : Launch := s.launch (launchOfTeam (teamOf gid))

/-! ### Slots and paths -/

/-- A slot of a group: S1 where `b` is set. -/
def Group.slot (g : Group) (b : Bool) : Slot := if b then g.s1 else g.s0
/-- The group with a slot set. -/
def Group.setSlot (g : Group) (b : Bool) (x : Slot) : Group :=
  if b then { g with s1 := x } else { g with s0 := x }
/-- The path in a slot; what a free slot reads as has no lanes. -/
def Group.path (g : Group) (b : Bool) : Path :=
  (g.slot b).path.getD ⟨0, 0, 0, 0, none, 0⟩
/-- The group with the path of a slot set. -/
def Group.setPath (g : Group) (b : Bool) (p : Path) : Group :=
  g.setSlot b { g.slot b with path := some p }
/-- The group with the path of a slot changed; a free slot stays free. -/
def Group.modPath (g : Group) (b : Bool) (f : Path → Path) : Group :=
  g.setSlot b { g.slot b with path := (g.slot b).path.map f }

/-! ### Registers -/

/-- Where the full/empty and poison bits of a uniform register stand: mk0 to mk2 are banked (R56). -/
def gBit (b : Bool) (r : Nat) : Nat := if b && (120 ≤ r && r ≤ 122) then r + 8 else r

/-- A mask register, mk0 to mk2: bit i is the activity of lane 32 j + i (R56). -/
def maskWord (m : LaneSet) (j : Nat) : W64 := (m.extractLsb' (32 * j) 32).setWidth 64

/-- A mask with one of its words replaced. -/
def setMaskWord (m : LaneSet) (j : Nat) (x : W64) : LaneSet :=
  laneSet fun l => if l / 32 = j then x.getLsbD (l % 32) else m.getLsbD l

/-- A uniform register as the issuing slot reads it (R56). -/
def Group.gval (g : Group) (b : Bool) (r : Nat) : W64 :=
  if 120 ≤ r ∧ r ≤ 122 then maskWord (g.path b).mask (r - 120) else (aget g.g r).getD 0

/-- A uniform register written, full and not poisoned (R60, R64). A write to mk0 to mk2 changes the
activity mask within LANES (R56, R281). -/
def Group.setG (g : Group) (b : Bool) (r : Nat) (x : W64) : Group :=
  let g1 := { g with
    emptyG := g.emptyG &&& ~~~regSet 136 (gBit b r) 1
    poisonG := g.poisonG &&& ~~~regSet 136 (gBit b r) 1
    marks := g.marks.filter fun m => m.lane || m.d != r }
  if 120 ≤ r ∧ r ≤ 122 then
    g1.modPath b fun p =>
      { p with mask := setMaskWord p.mask (r - 120) (x &&& maskWord p.lanes (r - 120)) }
  else { g1 with g := if x = 0 then adel g.g r else aput g.g r x }

/-- A lane register. -/
def Group.vreg (g : Group) (r : Nat) : LaneVec := (aget g.v r).getD []

/-- One lane of a lane register. -/
def Group.vval (g : Group) (r l : Nat) : W32 := laneAt (g.vreg r) l

/-- A lane register stored; all zeros is not listed (R57). -/
def putVec (m : Assoc LaneVec) (r : Nat) (v : LaneVec) : Assoc LaneVec :=
  if v.all (· == 0) then adel m r else aput m r v

/-- The lanes of a set written in a lane register. The register becomes full; writing all 96 lanes
clears its poison (R60, R64). The reply mark of its status register is cleared (R244). -/
def Group.setV (g : Group) (act : LaneSet) (r : Nat) (f : Nat → W32) : Group :=
  { g with
    v := putVec g.v r (mkLanes fun l => if act.getLsbD l then f l else g.vval r l)
    emptyV := g.emptyV &&& ~~~regSet 128 r 1
    poisonV := if act = allLanes then g.poisonV &&& ~~~regSet 128 r 1 else g.poisonV
    marks := g.marks.filter fun m => !m.lane || m.d != r }

/-- A 64-bit value in one lane of a register pair (R54). -/
def Group.vpair (g : Group) (r l : Nat) : W64 := join64 (g.vval r l) (g.vval (r + 1) l)

/-- The predicate top of every lane of a path (R284). -/
def Group.top (g : Group) (p : Path) : LaneSet :=
  if p.pd = 0 then allLanes else g.preds.getD (p.pd - 1) 0

/-- The active lanes of a lane instruction (R5): mask and predicate top, or the mask alone with N. -/
def Group.active (g : Group) (b n : Bool) : LaneSet :=
  let p := g.path b
  if n then p.mask else p.mask &&& g.top p

/-! ### Launch records (R260) -/

/-- Doubleword `i` of the launch record. -/
def Launch.dw (l : Launch) (i : Nat) : W64 := dwAt l.record i
/-- The table id that a handle's bits [61:42] name (R26). -/
def tidOf (h : W64) : Nat := field h 42 20
/-- The position or offset field of a table handle (R26). -/
def posOf (h : W64) : Nat := field h 0 42
/-- The space of a handle (R26): 0 table, 1 team scratchpad, 2 cluster scratchpad, 3 private. -/
def spaceOf (h : W64) : Nat := field h 62 2
/-- A table handle. -/
def handle (tid pos : Nat) : W64 := BitVec.ofNat 64 (tid * 2 ^ 42 + pos)
/-- CODE. -/
def Launch.code (l : Launch) : W64 := l.dw 0
/-- The launch's code table. -/
def Launch.codeTable (l : Launch) : Nat := tidOf l.code
/-- Registers per lane. -/
def Launch.rpl (l : Launch) : Nat := field (l.dw 1) 48 8
/-- Groups per team. -/
def Launch.groups (l : Launch) : Nat := field (l.dw 1) 44 4 + 1
/-- GSHAPE. -/
def Launch.gshape (l : Launch) : Nat := field (l.dw 1) 42 2
/-- Teams per gang; 0 for no gangs. -/
def Launch.gang (l : Launch) : Nat :=
  if field (l.dw 1) 32 10 = 0 then 0 else field (l.dw 1) 32 10 + 1
/-- Team count. -/
def Launch.teams (l : Launch) : Nat := field (l.dw 1) 0 32 + 1
/-- PRIO. -/
def Launch.prio (l : Launch) : Nat := field (l.dw 1) 56 3
/-- OPH. -/
def Launch.oph (l : Launch) : Nat := field (l.dw 1) 59 3
/-- SERIAL. -/
def Launch.serial (l : Launch) : Bool := flag (l.dw 1) 62
/-- The remote-call threshold: values above 4,096 act as 4,097 (R238). -/
def Launch.rct (l : Launch) : Nat := min (field (l.dw 2) 48 13) 4097
/-- FLOAT. -/
def Launch.float (l : Launch) : Bool := flag (l.dw 2) 36
/-- Rectangle height in dies. -/
def Launch.height (l : Launch) : Nat := field (l.dw 2) 31 5 + 1
/-- Rectangle width in dies. -/
def Launch.width (l : Launch) : Nat := field (l.dw 2) 26 5 + 1
/-- Scratchpad of a team in bytes. -/
def Launch.spad (l : Launch) : Nat := field (l.dw 2) 0 10 * 1024
/-- KEY. -/
def Launch.key (l : Launch) : W64 := l.dw 3
/-- TRAPH. -/
def Launch.traph (l : Launch) : W64 := l.dw 4
/-- PREH. -/
def Launch.preh (l : Launch) : W64 := l.dw 5
/-- RESH. -/
def Launch.resh (l : Launch) : W64 := l.dw 6
/-- SAVE. -/
def Launch.save (l : Launch) : Nat := field (l.dw 7) 32 20
/-- DEADL. -/
def Launch.deadl (l : Launch) : Nat := field (l.dw 7) 0 32
/-- LAYOUT. -/
def Launch.layout (l : Launch) : W64 := l.dw 10

/-- Whether the launch holds a right to a table: its grants, and its save table without one (R27,
R325). -/
def Launch.reads (l : Launch) (tid : Nat) : Bool :=
  (l.grants.any fun x => x.1 == tid && x.2.1) || ((l.preh != 0 || l.traph != 0) && tid == l.save)
/-- The write right. -/
def Launch.writesTo (l : Launch) (tid : Nat) : Bool :=
  (l.grants.any fun x => x.1 == tid && x.2.2) || ((l.preh != 0 || l.traph != 0) && tid == l.save)

/-! ### Descriptors (R18, R19) -/

/-- Doubleword `i` of a descriptor. -/
def Table.d (t : Table) (i : Nat) : W64 := dwAt t.dw i
/-- KIND: 0 DENSE, 1 ORD, 2 HASH, 3 ORDHASH. -/
def Table.kind (t : Table) : Nat := field (t.d 0) 60 4
/-- KEYT: 0 K32, 1 K64, 2 N32, 3 N64, 4 K128. -/
def Table.keyt (t : Table) : Nat := field (t.d 0) 56 4
/-- log2 of the row size. -/
def Table.k (t : Table) : Nat := field (t.d 0) 52 4 + 4
/-- The row size in bytes. -/
def Table.rowSize (t : Table) : Nat := 2 ^ t.k
/-- PROV. -/
def Table.provOk (t : Table) : Bool := flag (t.d 0) 51
/-- REPL. -/
def Table.replOk (t : Table) : Bool := flag (t.d 0) 50
/-- COH: true for MANAGED. -/
def Table.managed (t : Table) : Bool := flag (t.d 0) 49
/-- HOME. -/
def Table.home (t : Table) : Nat := field (t.d 0) 47 2
/-- HOMEID. -/
def Table.homeId (t : Table) : Nat := field (t.d 0) 43 4
/-- RETC. -/
def Table.retc (t : Table) : Nat := field (t.d 0) 41 2
/-- VALID. -/
def Table.valid (t : Table) : Bool := flag (t.d 0) 40
/-- TEN. -/
def Table.ten (t : Table) : Nat := field (t.d 1) 58 6
/-- OWNW. -/
def Table.ownw (t : Table) : Bool := flag (t.d 1) 57
/-- KSLOT. -/
def Table.kslot (t : Table) : Nat := field (t.d 1) 48 9
/-- CAP. -/
def Table.cap (t : Table) : Nat := field (t.d 2) 0 42
/-- COUNT. -/
def Table.count (t : Table) : Nat := field (t.d 3) 0 42
/-- DEFSLOT. -/
def Table.defSlot (t : Table) : Nat := field (t.d 4) 0 42
/-- GEN. -/
def Table.gen (t : Table) : Nat := field (t.d 5) 32 32
/-- A DENSE table. -/
def Table.dense (t : Table) : Bool := t.kind == 0
/-- The slots a handle may name: 0 to CAP for DENSE, 0 to CAP − 1 for keyed (R27 step 4). -/
def Table.slots (t : Table) : Nat := if t.dense then t.cap + 1 else t.cap
/-- The key width in bytes (R21). -/
def Table.keyBytes (t : Table) : Nat :=
  match t.keyt with
  | 0 | 2 => 4
  | 4 => 16
  | _ => 8

/-- The bytes of a page of a size code (R39). -/
def pageBytes (size : Nat) : Nat :=
  match size with
  | 0 => 2 ^ 16
  | 1 => 2 ^ 21
  | 2 => 2 ^ 25
  | 3 => 2 ^ 29
  | _ => 2 ^ 33

/-- The bytes of the page at a position of a table; one table may mix sizes (R39). -/
def Table.pageAt (t : Table) (pos : Nat) : Nat :=
  pageBytes (t.sizes.foldl (fun z x => if x.1 ≤ pos then x.2 else z) t.page)

/-- The fields that R18 names zero in some cases are zero: HOMEID of an interleaved table, KSLOT of a table
that no world owns. -/
def Table.zeroFields (t : Table) : Bool := (t.home != 0 || t.homeId == 0) && (t.ownw || t.kslot == 0)

/-- A descriptor is usable (R19). -/
def Table.usable (t : Table) (tid : Nat) : Bool :=
  t.valid && t.zeroFields && field (t.d 0) 20 20 == tid && t.kind ≤ 3 && t.keyt ≤ 4 && t.k ≤ 16 &&
    field (t.d 0) 0 20 == 0 && field (t.d 1) 0 48 == 0 && field (t.d 2) 42 22 == 0 &&
    field (t.d 5) 0 32 == 0 && (!t.dense || t.keyt == 2 || t.keyt == 3) &&
    t.slots * t.rowSize ≤ 2 ^ 42

/-- The bytes that hold a row's key in a keyed table (R21, R22); the default row has none. -/
def Table.hasKey (t : Table) (slot : Nat) : Bool := !t.dense && slot != 0

/-- The row of a slot, where it is live and not the default row. -/
def Table.rowAt (t : Table) (slot : Nat) : Option Row := t.rows.find? fun r => r.slot == slot

/-- A slot whose row is live: any row of a DENSE table, the default row, an indexed row (R202). -/
def Table.live (t : Table) (slot : Nat) : Bool :=
  if t.dense then slot ≤ t.cap else slot == 0 || (t.rowAt slot).isSome

end Sys2Proof.Machine
end

