-- ==== Sys2Proof/Machine/Flags.lean ====
section
/-! DEFINITION. The IEEE flags of %fpst (R59, R84) and the rounding fields of FMT (R85). -/

namespace Sys2Proof.Machine

/-- The sticky flags NX UF OF DZ NV, bits 4 to 0 (R59). -/
abbrev Flags := BitVec 5

/-- Invalid. -/
def flagNV : Flags := 1
/-- Divide by zero. -/
def flagDZ : Flags := 2
/-- Overflow. -/
def flagOF : Flags := 4
/-- Underflow. -/
def flagUF : Flags := 8
/-- Inexact. -/
def flagNX : Flags := 16

/-- The rounding mode, flush and saturate fields of FMT (R85): RM 0 RNE, 1 RZ, 2 RU, 3 RD. -/
structure Mode where
  rm  : Nat
  ftz : Bool
  sat : Bool
  deriving DecidableEq, Repr

/-- The fields of an FMT image (R85). -/
def Mode.of (f : BitVec 14) : Mode := ⟨f.toNat / 2 ^ 10 % 4, f.getLsbD 12, f.getLsbD 13⟩

/-- Round to nearest even, subnormals kept, no saturation: the fixed mode of memory reductions, atomics,
matrix accumulation and Aphid units (R88, R90, R192, R249). -/
def Mode.fixed : Mode := ⟨0, false, false⟩

/-- Flags of a group ORed into %fpst (R59). -/
def Group.raise (g : Group) (f : Flags) : Group := { g with fpst := g.fpst ||| f }

/-- Flags raised by several lanes. -/
def orFlags (fs : List Flags) : Flags := fs.foldl (· ||| ·) 0

end Sys2Proof.Machine
end

