-- ==== Sys2Proof/Machine/Float.lean ====
section
/-! DEFINITION. Number formats and rounding (R76, R77, R81 to R83), the arithmetic of floating-point
values formed exactly and rounded once, and the correctly rounded functions (R98 to R102). -/

namespace Sys2Proof.Machine

/-- A floating-point format (R76): exponent and fraction bits, bias, and whether its all-ones exponent
is ordinary (E4M3). -/
structure Fmt where
  ebits : Nat
  pbits : Nat
  bias  : Int
  e4    : Bool
  deriving DecidableEq, Repr

/-- binary32. -/
def fmt32 : Fmt := ⟨8, 23, 127, false⟩
/-- binary16. -/
def fmt16 : Fmt := ⟨5, 10, 15, false⟩
/-- BF16. -/
def fmtB16 : Fmt := ⟨8, 7, 127, false⟩
/-- E4M3. -/
def fmtE4 : Fmt := ⟨4, 3, 7, true⟩
/-- E5M2. -/
def fmtE5 : Fmt := ⟨5, 2, 15, false⟩

/-- A decoded value: NaN (signalling or not), an infinity, or sign, magnitude m and exponent e for
m × 2^e. -/
inductive FVal where
  | nan (signalling : Bool)
  | inf (neg : Bool)
  | fin (neg : Bool) (m : Nat) (e : Int)
  deriving DecidableEq, Repr

/-- The exponent of a unit of the subnormal range: 1 − bias − p. -/
def Fmt.qmin (f : Fmt) : Int := 1 - f.bias - f.pbits
/-- The all-ones exponent field. -/
def Fmt.emask (f : Fmt) : Nat := 2 ^ f.ebits - 1
/-- The encoding of the largest finite magnitude (R76). -/
def Fmt.maxEnc (f : Fmt) : Nat :=
  if f.e4 then f.emask * 2 ^ f.pbits + 2 ^ f.pbits - 2 else f.emask * 2 ^ f.pbits - 1
/-- The sign bit's weight. -/
def Fmt.signBit (f : Fmt) : Nat := 2 ^ (f.ebits + f.pbits)
/-- The canonical NaN (R77). -/
def Fmt.nanEnc (f : Fmt) : Nat :=
  if f.e4 then 0x7F else f.emask * 2 ^ f.pbits + 2 ^ (f.pbits - 1)
/-- An encoded sign and magnitude. -/
def Fmt.enc (f : Fmt) (neg : Bool) (mag : Nat) : Nat := (if neg then f.signBit else 0) + mag

/-- The value of an encoding (R76, R77). -/
def Fmt.decode (f : Fmt) (x : Nat) : FVal :=
  let frac := x % 2 ^ f.pbits
  let e := x / 2 ^ f.pbits % 2 ^ f.ebits
  let neg := x / f.signBit % 2 == 1
  if f.e4 && e == f.emask && frac == 2 ^ f.pbits - 1 then .nan false
  else if !f.e4 && e == f.emask then
    if frac = 0 then .inf neg else .nan (frac / 2 ^ (f.pbits - 1) == 0)
  else if e = 0 then .fin neg frac f.qmin
  else .fin neg (2 ^ f.pbits + frac) (f.qmin + (e : Int) - 1)

/-- The value is subnormal in a format. -/
def Fmt.subnormal (f : Fmt) : FVal → Bool
  | .fin _ m e => m != 0 && e == f.qmin && decide (m < 2 ^ f.pbits)
  | _ => false

/-- An operand as an operation takes it: under FTZ a subnormal is zero of its sign (R82). -/
def Fmt.operand (f : Fmt) (md : Mode) (x : Nat) : FVal :=
  match f.decode x with
  | .fin neg m e => if md.ftz && f.subnormal (.fin neg m e) then .fin neg 0 e else .fin neg m e
  | v => v

/-- m × 2^e rounded to a multiple of 2^q; `st` says that the true magnitude lies strictly between m
and m + 1 units of 2^e. The result in units of 2^q, and whether it is inexact (R81). -/
def roundAt (rm : Nat) (neg : Bool) (m : Nat) (e : Int) (st : Bool) (q : Int) : Nat × Bool :=
  if q ≤ e then (m * 2 ^ (e - q).toNat, st)
  else
    let d := (q - e).toNat
    let n := m / 2 ^ d
    let r := m % 2 ^ d
    let half := 2 ^ (d - 1)
    let inexact := r != 0 || st
    let up :=
      match rm with
      | 0 => decide (half < r) || (r == half && (st || n % 2 == 1))
      | 1 => false
      | 2 => inexact && !neg
      | _ => inexact && neg
    (if up then n + 1 else n, inexact)

/-- The result of an overflow (R83). -/
def overflow (f : Fmt) (md : Mode) (neg : Bool) : Nat :=
  let toMax := md.sat || md.rm == 1 || (md.rm == 2 && neg) || (md.rm == 3 && !neg)
  if toMax then f.enc neg f.maxEnc
  else if f.e4 then f.nanEnc
  else f.enc neg (f.emask * 2 ^ f.pbits)

/-- A magnitude rounded into a format, with its flags (R81 to R83). -/
def roundTo (f : Fmt) (md : Mode) (neg : Bool) (m : Nat) (e : Int) (st : Bool) : Nat × Flags :=
  if m = 0 ∧ st = false then (f.enc neg 0, 0)
  else
    let top : Int := e + Nat.log2 m
    let qn := top - f.pbits
    let free := roundAt md.rm neg m e st qn
    let emin : Int := 1 - f.bias
    let tiny := decide ((if free.1 = 2 ^ (f.pbits + 1) then top + 1 else top) < emin)
    if tiny && md.ftz then (f.enc neg 0, flagUF ||| flagNX)
    else
      let q := max qn f.qmin
      let r := roundAt md.rm neg m e st q
      let enc := (q - f.qmin).toNat * 2 ^ f.pbits + r.1
      if f.maxEnc < enc then (overflow f md neg, flagOF ||| flagNX)
      else
        (f.enc neg enc,
          if r.2 then (if tiny then flagUF ||| flagNX else flagNX) else 0)

/-- A NaN result with the flags of its cause (R77). -/
def nanResult (f : Fmt) (nv : Bool) : Nat × Flags := (f.nanEnc, if nv then flagNV else 0)

/-- A signalling NaN. -/
def FVal.isSnan : FVal → Bool
  | .nan s => s
  | _ => false
/-- A NaN. -/
def FVal.isNan : FVal → Bool
  | .nan _ => true
  | _ => false
/-- An infinity. -/
def FVal.isInf : FVal → Bool
  | .inf _ => true
  | _ => false
/-- A zero. -/
def FVal.isZero : FVal → Bool
  | .fin _ m _ => m == 0
  | _ => false
/-- The sign bit; NaN counts as positive. -/
def FVal.neg : FVal → Bool
  | .nan _ => false
  | .inf n => n
  | .fin n _ _ => n

/-- The opposite value. -/
def FVal.opp : FVal → FVal
  | .nan s => .nan s
  | .inf n => .inf !n
  | .fin n m e => .fin (!n) m e

/-- A signed magnitude as an integer. -/
def signed (neg : Bool) (m : Nat) : Int := if neg then -(m : Int) else m

/-- The exact product; an infinity times zero is a quiet NaN, told apart by `badMul` (R98). -/
def FVal.mul : FVal → FVal → FVal
  | .nan _, _ => .nan false
  | _, .nan _ => .nan false
  | .inf a, .inf b => .inf (a != b)
  | .inf a, .fin b m _ => if m = 0 then .nan false else .inf (a != b)
  | .fin a m _, .inf b => if m = 0 then .nan false else .inf (a != b)
  | .fin a m e, .fin b n f => .fin (a != b) (m * n) (e + f)

/-- An infinity against a zero. -/
def badMul (a b : FVal) : Bool := (a.isInf && b.isZero) || (a.isZero && b.isInf)

/-- The exact sum of finite values as an integer in units of 2^q. -/
def FVal.units (q : Int) : FVal → Int
  | .fin n m e => signed n m * 2 ^ (e - q).toNat
  | _ => 0

/-- The exponent of a finite value's unit. -/
def FVal.exp : FVal → Int
  | .fin _ _ e => e
  | _ => 0

/-- The sum of terms, exact and rounded once (R81): NaN and infinities first, then the exact sum; an
exact zero sum takes the common sign, or +0, or −0 under RD. `nv` is the invalid condition met before. -/
def sumTo (f : Fmt) (md : Mode) (nv : Bool) (xs : List FVal) : Nat × Flags :=
  let pinf := xs.any fun x => x.isInf && !x.neg
  let ninf := xs.any fun x => x.isInf && x.neg
  let clash := pinf && ninf
  if xs.any FVal.isNan || nv || clash then nanResult f (nv || clash)
  else if pinf || ninf then (f.enc ninf (f.emask * 2 ^ f.pbits), 0)
  else
    let q := xs.foldl (fun a x => min a x.exp) 0
    let t := xs.foldl (fun a x => a + x.units q) (0 : Int)
    if t = 0 then
      let neg := if xs.all FVal.neg then true else if xs.any FVal.neg then md.rm == 3 else false
      (f.enc neg 0, 0)
    else roundTo f md (decide (t < 0)) t.natAbs q false

/-- RN(a + b) (R98, R99). -/
def fAdd (f : Fmt) (md : Mode) (a b : Nat) : Nat × Flags :=
  let x := f.operand md a
  let y := f.operand md b
  sumTo f md (x.isSnan || y.isSnan) [x, y]

/-- RN(a − b). -/
def fSub (f : Fmt) (md : Mode) (a b : Nat) : Nat × Flags :=
  let x := f.operand md a
  let y := f.operand md b
  sumTo f md (x.isSnan || y.isSnan) [x, y.opp]

/-- RN(a × b). -/
def fMul (f : Fmt) (md : Mode) (a b : Nat) : Nat × Flags :=
  let x := f.operand md a
  let y := f.operand md b
  let nv := x.isSnan || y.isSnan || badMul x y
  match x.mul y with
  | .nan _ => nanResult f nv
  | .inf n => (f.enc n (f.emask * 2 ^ f.pbits), 0)
  | .fin n m e => roundTo f md n m e false

/-- RN(a × b + c), rounded once (R98). -/
def fFma (f : Fmt) (md : Mode) (a b c : Nat) : Nat × Flags :=
  let x := f.operand md a
  let y := f.operand md b
  let z := f.operand md c
  sumTo f md (x.isSnan || y.isSnan || z.isSnan || badMul x y) [x.mul y, z]

/-- RN(c + a0 × b0 + a1 × b1) into FP32 from elements of a 16-bit format (R100). -/
def fDot2 (f : Fmt) (md : Mode) (a0 b0 a1 b1 c : Nat) : Nat × Flags :=
  let x0 := f.operand md a0
  let y0 := f.operand md b0
  let x1 := f.operand md a1
  let y1 := f.operand md b1
  let z := fmt32.operand md c
  let nv := x0.isSnan || y0.isSnan || x1.isSnan || y1.isSnan || z.isSnan || badMul x0 y0 ||
    badMul x1 y1
  sumTo fmt32 md nv [z, x0.mul y0, x1.mul y1]

/-- Comparison of two values that are not NaN: numeric, zeros equal (R98, R113). -/
def FVal.lt (a b : FVal) : Bool :=
  match a, b with
  | .inf n, .inf m => n && !m
  | .inf n, .fin _ _ _ => n
  | .fin _ _ _, .inf m => !m
  | .fin n m e, .fin n' m' e' =>
    let q := min e e'
    decide ((FVal.fin n m e).units q < (FVal.fin n' m' e').units q)
  | _, _ => false

/-- Numeric equality of two values that are not NaN. -/
def FVal.eqv (a b : FVal) : Bool := !a.isNan && !b.isNan && !a.lt b && !b.lt a

/-- A comparison under R53 with its flags (R98). -/
def fCmp (md : Mode) (cond : Cond) (a b : Nat) : Bool × Flags :=
  let x := fmt32.operand md a
  let y := fmt32.operand md b
  let un := x.isNan || y.isNan
  let nv : Flags := if x.isSnan || y.isSnan then flagNV else 0
  let nvq : Flags := if un then flagNV else 0
  match cond with
  | .eq => (x.eqv y, nv)
  | .ne => (!x.eqv y, nv)
  | .lt => (!un && x.lt y, nvq)
  | .le => (!un && !y.lt x, nvq)
  | .gt => (!un && y.lt x, nvq)
  | .ge => (!un && !x.lt y, nvq)
  | .un => (un, nv)
  | .ord => (!un, nv)

/-- The encoding of an operand that is returned: subnormals flushed under FTZ. -/
def flushed (md : Mode) (x : Nat) : Nat :=
  if md.ftz && fmt32.subnormal (fmt32.decode x) then fmt32.enc (fmt32.decode x).neg 0 else x

/-- `fmin` and `fmax` (R77, R98): −0 is below +0, one NaN gives the other operand. -/
def fMinMax (mx : Bool) (md : Mode) (a b : Nat) : Nat × Flags :=
  let x := fmt32.operand md a
  let y := fmt32.operand md b
  let fl : Flags := if x.isSnan || y.isSnan then flagNV else 0
  if x.isNan && y.isNan then (fmt32.nanEnc, fl)
  else if x.isNan then (flushed md b, fl)
  else if y.isNan then (flushed md a, fl)
  else
    let less := x.lt y || (x.eqv y && x.neg && !y.neg)
    (if less != mx then flushed md a else flushed md b, fl)

/-- `fabs` (R98). -/
def fAbs (md : Mode) (a : Nat) : Nat × Flags :=
  match fmt32.operand md a with
  | .nan s => nanResult fmt32 s
  | _ => (flushed md a % 2 ^ 31, 0)

/-! ### Quotients and roots -/

/-- The quotient of two magnitudes with 64 bits to spare, and whether it is inexact. -/
def divMag (m : Nat) (e : Int) (n : Nat) (f : Int) : Nat × Int × Bool :=
  let k := 64 + Nat.log2 n
  (m * 2 ^ k / n, e - f - k, m * 2 ^ k % n != 0)

/-- RN(a / b) (R101). -/
def fDiv (md : Mode) (a b : Nat) : Nat × Flags :=
  let x := fmt32.operand md a
  let y := fmt32.operand md b
  let neg := x.neg != y.neg
  if x.isNan || y.isNan then nanResult fmt32 (x.isSnan || y.isSnan)
  else
    match x, y with
    | .inf _, .inf _ => nanResult fmt32 true
    | .inf _, _ => (fmt32.enc neg 0x7F800000, 0)
    | _, .inf _ => (fmt32.enc neg 0, 0)
    | .fin _ m e, .fin _ n f =>
      if n = 0 then
        if m = 0 then nanResult fmt32 true else (fmt32.enc neg 0x7F800000, flagDZ)
      else if m = 0 then (fmt32.enc neg 0, 0)
      else
        let q := divMag m e n f
        roundTo fmt32 md neg q.1 q.2.1 q.2.2
    | _, _ => nanResult fmt32 false

/-- 1/x (R101). -/
def fRcp (md : Mode) (a : Nat) : Nat × Flags := fDiv md 0x3F800000 a

/-- The integer square root, by its bits from bit k on. -/
def isqrtFrom : Nat → Nat → Nat → Nat
  | 0, n, r => if (r + 1) * (r + 1) ≤ n then r + 1 else r
  | k + 1, n, r =>
    let r' := r + 2 ^ (k + 1)
    isqrtFrom k n (if r' * r' ≤ n then r' else r)

/-- ⌊√n⌋. -/
def isqrt (n : Nat) : Nat := isqrtFrom (Nat.log2 n / 2 + 1) n 0

/-- √x (R101). -/
def fSqrt (md : Mode) (a : Nat) : Nat × Flags :=
  match fmt32.operand md a with
  | .nan s => nanResult fmt32 s
  | .inf n => if n then nanResult fmt32 true else (0x7F800000, 0)
  | .fin n m e =>
    if m = 0 then (fmt32.enc n 0, 0)
    else if n then nanResult fmt32 true
    else
      let odd := e % 2 == 1
      let m' := (if odd then 2 * m else m) * 2 ^ 128
      let e' := ((if odd then e - 1 else e) - 128) / 2
      let r := isqrt m'
      roundTo fmt32 md false r e' (r * r != m')

/-- 1/√x (R101). -/
def fRsq (md : Mode) (a : Nat) : Nat × Flags :=
  match fmt32.operand md a with
  | .nan s => nanResult fmt32 s
  | .inf n => if n then nanResult fmt32 true else (0, 0)
  | .fin n m e =>
    if m = 0 then (fmt32.enc n 0x7F800000, flagDZ)
    else if n then nanResult fmt32 true
    else
      let odd := e % 2 == 1
      let m' := if odd then 2 * m else m
      let e' := if odd then e - 1 else e
      let r := isqrt (2 ^ 256 / m')
      roundTo fmt32 md false r (-128 - e' / 2) (r * r * m' != 2 ^ 256)

/-! ### Correctly rounded elementary functions (R101)

The functions are formed in fixed point with 400 fraction bits, the series cut where their terms
vanish: an absolute error below 2^-390. Exact cases are taken apart, so every value that is rounded
here is irrational; that no FP32 operand brings one closer than 2^-390 to a rounding boundary is [A18]. -/

/-- Fraction bits of the fixed-point forms. -/
def fixP : Nat := 400
/-- One in fixed point. -/
def fixOne : Nat := 2 ^ fixP

/-- Σ z^(2k+1)/(2k+1), the inverse hyperbolic tangent: term, square of z, index. -/
def atanhSum : Nat → Nat → Nat → Nat → Nat
  | 0, _, _, _ => 0
  | n + 1, t, zz, k => t / (2 * k + 1) + atanhSum n (t * zz / fixOne) zz (k + 1)

/-- ln of a number in [1, 2), given as p/q: 2 atanh((p − q)/(p + q)). -/
def lnRatio (p q : Nat) : Nat :=
  let z := (p - q) * fixOne / (p + q)
  2 * atanhSum 140 z (z * z / fixOne) 0

/-- ln 2. -/
def fixLn2 : Nat := lnRatio 2 1

/-- Σ t^k/k!, from term k on. -/
def expSum : Nat → Nat → Nat → Nat → Nat
  | 0, _, _, _ => 0
  | n + 1, term, t, k => term + expSum n (term * t / fixOne / (k + 1)) t (k + 1)

/-- 2^f for a fixed-point f in [0, 1). -/
def fixExp2 (f : Nat) : Nat := expSum 100 fixOne (f * fixLn2 / fixOne) 0

/-- Alternating Σ (−1)^k t^(2k+1)/(2k+1)!: the terms of even and odd k apart. -/
def sinSum : Nat → Nat → Nat → Nat → Nat × Nat
  | 0, _, _, _ => (0, 0)
  | n + 1, term, tt, k =>
    let r := sinSum n (term * tt / fixOne / ((2 * k + 2) * (2 * k + 3))) tt (k + 1)
    (term + r.2, r.1)

/-- arctan(1/n) by its series: term, n², index; positive and negative terms apart. -/
def atanInv : Nat → Nat → Nat → Nat → Nat × Nat
  | 0, _, _, _ => (0, 0)
  | i + 1, t, nn, k =>
    let r := atanInv i (t / nn) nn (k + 1)
    (t / (2 * k + 1) + r.2, r.1)

/-- π, by Machin's formula 16 arctan(1/5) − 4 arctan(1/239). -/
def fixPi : Nat :=
  let a := atanInv 180 (fixOne / 5) 25 0
  let b := atanInv 60 (fixOne / 239) 57121 0
  16 * (a.1 - a.2) - 4 * (b.1 - b.2)

/-- sin(π r) for a fixed-point r in (0, 1/2). -/
def fixSinPi (r : Nat) : Nat :=
  let t := r * fixPi / fixOne
  let s := sinSum 60 t (t * t / fixOne) 0
  s.1 - s.2

/-- m × 2^e as an integer in units of 2^-400, for e ≥ −400. -/
def toFix (m : Nat) (e : Int) : Nat :=
  if 0 ≤ e + fixP then m * 2 ^ (e + fixP).toNat else m / 2 ^ (-(e + fixP)).toNat

/-- The finite value is an integer. -/
def isInteger (m : Nat) (e : Int) : Bool := decide (0 ≤ e) || m % 2 ^ (-e).toNat == 0

/-- 2^x. -/
def fExp2 (md : Mode) (a : Nat) : Nat × Flags :=
  match fmt32.operand md a with
  | .nan s => nanResult fmt32 s
  | .inf n => if n then (0, 0) else (0x7F800000, 0)
  | .fin n m e =>
    if m = 0 then (0x3F800000, 0)
    else if 9 ≤ e + Nat.log2 m then
      if n then roundTo fmt32 md false 1 (-600) true else roundTo fmt32 md false 1 600 false
    else
      let x : Int := signed n (toFix m e)
      let i := x / (fixOne : Int)
      let f := (x % (fixOne : Int)).toNat
      if f = 0 then roundTo fmt32 md false 1 i false
      else roundTo fmt32 md false (fixExp2 f) (i - fixP) true

/-- ln of m × 2^e in units of 2^-400, as an integer of either sign. -/
def fixLn (m : Nat) (e : Int) : Int :=
  let l := Nat.log2 m
  (e + l) * (fixLn2 : Int) + (lnRatio m (2 ^ l) : Int)

/-- log2 x. -/
def fLog2 (md : Mode) (a : Nat) : Nat × Flags :=
  match fmt32.operand md a with
  | .nan s => nanResult fmt32 s
  | .inf n => if n then nanResult fmt32 true else (0x7F800000, 0)
  | .fin n m e =>
    if m = 0 then (0xFF800000, flagDZ)
    else if n then nanResult fmt32 true
    else
      let l := Nat.log2 m
      if m = 2 ^ l then
        let i : Int := e + l
        if i = 0 then (0, 0) else roundTo fmt32 md (decide (i < 0)) i.natAbs 0 false
      else
        let y : Int := (e + l) * (fixOne : Int) + (lnRatio m (2 ^ l) * fixOne / fixLn2 : Nat)
        roundTo fmt32 md (decide (y < 0)) y.natAbs (-fixP) true

/-- sin(π x) for x given in fixed point, x not a multiple of 1/2: sign and magnitude. -/
def sinPiFix (x : Int) : Bool × Nat :=
  let r := (x % (2 * fixOne : Int)).toNat
  let neg := decide (fixOne ≤ r)
  let r1 := r % fixOne
  let r2 := if fixOne / 2 < r1 then fixOne - r1 else r1
  (neg, fixSinPi r2)

/-- sin(π x) (R101). -/
def fSinPi (md : Mode) (a : Nat) : Nat × Flags :=
  match fmt32.operand md a with
  | .nan s => nanResult fmt32 s
  | .inf _ => nanResult fmt32 true
  | .fin n m e =>
    if m = 0 ∨ isInteger m e then (fmt32.enc n 0, 0)
    else if isInteger m (e + 1) then
      let i := m * 2 ^ (e + 1).toNat / 2 ^ (-(e + 1)).toNat
      (fmt32.enc ((i / 2 % 2 == 1) != n) 0x3F800000, 0)
    else
      let r := sinPiFix (signed n (toFix m e))
      roundTo fmt32 md r.1 r.2 (-fixP) true

/-- cos(π x) (R101). -/
def fCosPi (md : Mode) (a : Nat) : Nat × Flags :=
  match fmt32.operand md a with
  | .nan s => nanResult fmt32 s
  | .inf _ => nanResult fmt32 true
  | .fin n m e =>
    if m = 0 then (0x3F800000, 0)
    else if isInteger m e then
      let odd := if 0 < e then false else m / 2 ^ (-e).toNat % 2 == 1
      (fmt32.enc odd 0x3F800000, 0)
    else if isInteger m (e + 1) then (0, 0)
    else
      let r := sinPiFix (signed n (toFix m e) + (fixOne / 2 : Nat))
      roundTo fmt32 md r.1 r.2 (-fixP) true

/-- tanh x (R101). -/
def fTanh (md : Mode) (a : Nat) : Nat × Flags :=
  match fmt32.operand md a with
  | .nan s => nanResult fmt32 s
  | .inf n => (fmt32.enc n 0x3F800000, 0)
  | .fin n m e =>
    if m = 0 then (fmt32.enc n 0, 0)
    else if e + Nat.log2 m < -50 then
      roundTo fmt32 md n (m * 2 ^ 64 - 1) (e - 64) true
    else if 8 ≤ e + Nat.log2 m then roundTo fmt32 md n (2 ^ 64 - 1) (-64) true
    else
      let y := 2 * toFix m e * fixOne / fixLn2
      let w := fixExp2 (y % fixOne) * 2 ^ (y / fixOne)
      roundTo fmt32 md n ((w - fixOne) * fixOne / (w + fixOne)) (-fixP) true

/-- RN(ln x) for a positive x = m × 2^e (R113). -/
def rnLn (md : Mode) (m : Nat) (e : Int) : Nat :=
  let y := fixLn m e
  if m = 2 ^ Nat.log2 m ∧ e + Nat.log2 m = 0 then 0
  else (roundTo fmt32 md (decide (y < 0)) y.natAbs (-fixP) true).1

/-! ### Conversions (R102) -/

/-- The format of a floating-point type code. -/
def tyFmt : Ty → Option Fmt
  | .f32 => some fmt32
  | .f16 => some fmt16
  | .bf16 => some fmtB16
  | .e4 => some fmtE4
  | .e5 => some fmtE5
  | _ => none

/-- Width and signedness of an integer type code. -/
def tyInt : Ty → Option (Nat × Bool)
  | .i8 => some (8, true)
  | .i16 => some (16, true)
  | .i32 => some (32, true)
  | .i64 => some (64, true)
  | .n8 => some (8, false)
  | .n16 => some (16, false)
  | .n32 => some (32, false)
  | .n64 => some (64, false)
  | _ => none

/-- An integer held to the range of a type: its value and whether it was out of range (R83). -/
def clampInt (w : Nat) (sg : Bool) (x : Int) : Int × Bool :=
  let lo : Int := if sg then -(2 ^ (w - 1) : Nat) else 0
  let hi : Int := if sg then (2 ^ (w - 1) : Nat) - 1 else (2 ^ w : Nat) - 1
  if x < lo then (lo, true) else if hi < x then (hi, true) else (x, false)

/-- The integer that the low bits of a type hold. -/
def readInt (w : Nat) (sg : Bool) (x : Nat) : Int :=
  let v := x % 2 ^ w
  if sg && v / 2 ^ (w - 1) == 1 then (v : Int) - (2 ^ w : Nat) else v

/-- A float converted to a float (R83, R102). R102 calls a conversion to the same type or to an equal width exact; here
R83 decides an infinity that goes to E5M2 with SAT, whatever its source, and between different formats of equal width
values round and overflow as R81 and R83 say, since no such conversion can be exact for all of them. DESIGN CHOICE.
[A76] -/
def cvtFF (df sf : Fmt) (md : Mode) (x : Nat) : Nat × Flags :=
  match sf.operand md (x % (2 * sf.signBit)) with
  | .nan s => nanResult df s
  | .inf n =>
    if df.e4 || (df.pbits == 2) then
      if md.sat then (df.enc n df.maxEnc, 0)
      else if df.e4 then nanResult df true
      else (df.enc n (df.emask * 2 ^ df.pbits), 0)
    else (df.enc n (df.emask * 2 ^ df.pbits), 0)
  | .fin n m e => roundTo df md n m e false

/-- A float converted to an integer (R83). -/
def cvtFI (w : Nat) (sg : Bool) (sf : Fmt) (md : Mode) (x : Nat) : Int × Flags :=
  match sf.operand md (x % (2 * sf.signBit)) with
  | .nan _ => (0, flagNV)
  | .inf n => ((clampInt w sg (if n then -(2 ^ 80 : Nat) else (2 ^ 80 : Nat))).1, flagNV)
  | .fin n m e =>
    let r := roundAt md.rm n m e false 0
    let c := clampInt w sg (signed n r.1)
    (c.1, if c.2 then flagNV else if r.2 then flagNX else 0)

/-- A conversion to `bits` destination bits (R102): the source's low bits are read, an integer result
is extended to the destination register by its signedness, a float result by zeros. -/
def convert (dst src : Ty) (md : Mode) (bits : Nat) (x : Nat) : Nat × Flags :=
  match tyFmt dst, tyFmt src with
  | some df, some sf => cvtFF df sf md x
  | some df, none =>
    match tyInt src with
    | some (w, sg) =>
      let v := readInt w sg x
      roundTo df md (decide (v < 0)) v.natAbs 0 false
    | none => (0, 0)
  | none, some sf =>
    match tyInt dst with
    | some (w, sg) =>
      let r := cvtFI w sg sf md x
      ((r.1 % (2 ^ bits : Nat)).toNat, r.2)
    | none => (0, 0)
  | none, none =>
    match tyInt dst, tyInt src with
    | some (w, sg), some (w', sg') =>
      (((clampInt w sg (readInt w' sg' x)).1 % (2 ^ bits : Nat)).toNat, 0)
    | _, _ => (0, 0)

/-! ### Paired-exponent blocks (R78, R80, R103, R104) -/

/-- The magnitude limit of a PXB element: 64 or 4. -/
def pxLimit (x4 : Bool) : Nat := if x4 then 4 else 64
/-- The exponent shift of a PXB element: 132 or 128. -/
def pxShift (x4 : Bool) : Int := if x4 then 128 else 132

/-- An element with its selector, sign and magnitude (R78). -/
def pxElem (x4 sel neg : Bool) (m : Nat) : Nat :=
  if x4 then bnat sel * 8 + bnat neg * 4 + m else bnat sel * 128 + bnat neg * 64 + m

/-- The value of an element under its block's exponents (R78). -/
def pxValue (x4 : Bool) (ea eb elem : Nat) : FVal :=
  let sel := elem / (if x4 then 8 else 128) % 2 == 1
  let neg := elem / (if x4 then 4 else 64) % 2 == 1
  let m := elem % pxLimit x4
  let ex := if sel then eb else ea
  if ex = 255 then .nan false else .fin neg m ((ex : Int) - pxShift x4)

/-- An element as an FP32 value, exactly (R104). -/
def pxUnpack (x4 : Bool) (ea eb elem : Nat) : Nat :=
  match pxValue x4 ea eb elem with
  | .fin n m e => (roundTo fmt32 ⟨0, false, false⟩ n m e false).1
  | _ => fmt32.nanEnc

/-- The greatest exponent ⌊log2⌋ among finite nonzero values. -/
def topExp (xs : List FVal) : Int :=
  xs.foldl (fun a x =>
    match x with
    | .fin _ m e => if m = 0 then a else max a (e + Nat.log2 m)
    | _ => a) (-1000)

/-- `xpk` of one beat (R80): the exponents, the elements and the flags. An element that decodes as +0.0 is not counted
as different from an input of −0.0 for NX: values are compared as numbers. DESIGN CHOICE. [A76] -/
def pxPack (x4 : Bool) (xs : List Nat) : Nat × Nat × List Nat × Flags :=
  let vs := xs.map fmt32.decode
  if vs.any fun v => v.isNan || v.isInf then
    (255, 255, xs.map fun _ => 0, if vs.any fun v => v.isInf || v.isSnan then flagNV else 0)
  else if vs.all FVal.isZero then (0, 0, xs.map fun _ => 0, 0)
  else
    let ea := max (topExp vs + 127) 3
    let eb := ea - 3
    let lim := pxLimit x4
    let elems := vs.map fun v =>
      match v with
      | .fin n m e =>
        let mb := (roundAt 0 false m e false (eb - pxShift x4)).1
        if mb < lim then pxElem x4 true n mb
        else pxElem x4 false n (min (roundAt 0 false m e false (ea - pxShift x4)).1 (lim - 1))
      | _ => 0
    let same := (vs.zip elems).all fun p => p.1.eqv (pxValue x4 ea.toNat eb.toNat p.2)
    (ea.toNat, eb.toNat, elems, if same then 0 else flagNX)

end Sys2Proof.Machine
end

