-- ==== Sys2Proof/Machine/Alu.lean ====
section
/-! DEFINITION. The operations of single lanes and of uniform values (R94 to R117), shared by the lane
pipe, the uniform pipe and the Aphid units. -/

namespace Sys2Proof.Machine

/-! ### Integers -/

/-- An integer comparison of n-bit values (R53). -/
def intCmp {n : Nat} (cond : Cond) (sg : Bool) (a b : BitVec n) : Bool :=
  match cond with
  | .eq => a == b
  | .ne => a != b
  | .lt => if sg then a.slt b else a.ult b
  | .le => if sg then a.sle b else a.ule b
  | .gt => if sg then b.slt a else b.ult a
  | .ge => if sg then b.sle a else b.ule a
  | .un | .ord => false

/-- The lesser or the greater of two values (R94, R116). -/
def minMax {n : Nat} (mx sg : Bool) (a b : BitVec n) : BitVec n :=
  let less := if sg then a.slt b else a.ult b
  if less != mx then a else b

/-- The high half of the exact product (R94, R116). -/
def mulHigh {n : Nat} (sg : Bool) (a b : BitVec n) : BitVec n :=
  if sg then BitVec.ofInt n (a.toInt * b.toInt / (2 ^ n : Nat))
  else BitVec.ofNat n (a.toNat * b.toNat / 2 ^ n)

/-- Shifts: left and logical right give 0 from the width on, arithmetic right the sign (R96, R116). -/
def shiftLeft {n : Nat} (a b : BitVec n) : BitVec n := if b.toNat < n then a <<< b.toNat else 0
/-- Logical right shift. -/
def shiftRight {n : Nat} (a b : BitVec n) : BitVec n := if b.toNat < n then a >>> b.toNat else 0
/-- Arithmetic right shift. -/
def shiftArith {n : Nat} (a b : BitVec n) : BitVec n :=
  if b.toNat < n then a.sshiftRight b.toNat else if a.msb then BitVec.allOnes n else 0

/-- The number of 1 bits. -/
def popCount {n : Nat} (a : BitVec n) : Nat := ((List.range n).filter a.getLsbD).length

/-- The number of leading 0 bits: n for 0. -/
def leadZeros {n : Nat} (a : BitVec n) : Nat := if a.toNat = 0 then n else n - 1 - Nat.log2 a.toNat

/-- |A| as signed, mod 2^32 (R94). -/
def absW (a : W32) : W32 := if a.msb then -a else a

/-- Signed division truncated toward zero, with the fixed edge cases (R95). -/
def divSigned (a b : W32) : W32 :=
  if b = 0 then (if a.msb then 0x80000000 else 0x7FFFFFFF)
  else BitVec.ofInt 32 (Int.tdiv a.toInt b.toInt)

/-- Unsigned division (R95). -/
def divUnsigned (a b : W32) : W32 := if b = 0 then 0xFFFFFFFF else BitVec.ofNat 32 (a.toNat / b.toNat)

/-- `ibfe` (R97). -/
def fieldExtract (sg : Bool) (pos len : Nat) (a : W32) : W32 :=
  let f := a.toNat / 2 ^ pos % 2 ^ len
  if sg && f / 2 ^ (len - 1) == 1 then BitVec.ofNat 32 (2 ^ 32 - 2 ^ len + f) else BitVec.ofNat 32 f

/-- `ibfi` (R97). -/
def fieldInsert (pos len : Nat) (d a : W32) : W32 :=
  let f := d.toNat / 2 ^ pos % 2 ^ len
  BitVec.ofNat 32 (d.toNat - f * 2 ^ pos + a.toNat % 2 ^ len * 2 ^ pos)

/-- `ipk` (R96). -/
def packPair (a b : W32) : W32 := b.extractLsb' 0 16 ++ a.extractLsb' 0 16

/-- A truth value as 1 or 0. -/
def bit32 (b : Bool) : W32 := if b then 1 else 0
/-- A truth value as 1 or 0 in a uniform register. -/
def bit64 (b : Bool) : W64 := if b then 1 else 0

/-! ### Floating point -/

/-- A result of an FP32 operation as a lane word. -/
def asW (r : Nat × Flags) : W32 × Flags := (BitVec.ofNat 32 r.1, r.2)

/-- FP32 operations on lane words. -/
def faddW (md : Mode) (a b : W32) : W32 × Flags := asW (fAdd fmt32 md a.toNat b.toNat)
/-- `fsub.f32`. -/
def fsubW (md : Mode) (a b : W32) : W32 × Flags := asW (fSub fmt32 md a.toNat b.toNat)
/-- `fmul.f32`. -/
def fmulW (md : Mode) (a b : W32) : W32 × Flags := asW (fMul fmt32 md a.toNat b.toNat)
/-- `fma.f32`. -/
def fmaW (md : Mode) (a b c : W32) : W32 × Flags := asW (fFma fmt32 md a.toNat b.toNat c.toNat)
/-- `fcmp.f32`. -/
def fcmpW (md : Mode) (cond : Cond) (a b : W32) : W32 × Flags :=
  let r := fCmp md cond a.toNat b.toNat
  (bit32 r.1, r.2)

/-- The element format of a packed pair (R99). -/
def halfFmt (bf : Bool) : Fmt := if bf then fmtB16 else fmt16
/-- Element `e` of a packed pair. -/
def half (a : W32) (e : Nat) : Nat := a.toNat / 2 ^ (16 * e) % 2 ^ 16
/-- A packed pair from its two results. -/
def pairUp (x y : Nat × Flags) : W32 × Flags := (BitVec.ofNat 32 (y.1 * 2 ^ 16 + x.1), x.2 ||| y.2)

/-- `fadd.h2` and `fadd.b2`. -/
def faddH (bf : Bool) (md : Mode) (a b : W32) : W32 × Flags :=
  pairUp (fAdd (halfFmt bf) md (half a 0) (half b 0)) (fAdd (halfFmt bf) md (half a 1) (half b 1))
/-- `fmul.h2` and `fmul.b2`. -/
def fmulH (bf : Bool) (md : Mode) (a b : W32) : W32 × Flags :=
  pairUp (fMul (halfFmt bf) md (half a 0) (half b 0)) (fMul (halfFmt bf) md (half a 1) (half b 1))
/-- `fma.h2` and `fma.b2`. -/
def fmaH (bf : Bool) (md : Mode) (a b c : W32) : W32 × Flags :=
  pairUp (fFma (halfFmt bf) md (half a 0) (half b 0) (half c 0))
    (fFma (halfFmt bf) md (half a 1) (half b 1) (half c 1))
/-- `fdp2.h2` and `fdp2.b2` (R100). -/
def fdp2W (bf : Bool) (md : Mode) (a b c : W32) : W32 × Flags :=
  asW (fDot2 (halfFmt bf) md (half a 0) (half b 0) (half a 1) (half b 1) c.toNat)

/-! ### Atomic operations (R192) -/

/-- The new value of an element of `w` bytes. -/
def atomNew (op : AtomOp) (w : Nat) (old b0 b1 : Nat) : Nat :=
  let m := 2 ^ (8 * w)
  let o := old % m
  let b := b0 % m
  match op with
  | .add => (o + b) % m
  | .and => o &&& b
  | .or => o ||| b
  | .xor => o ^^^ b
  | .minI => if readInt (8 * w) true b < readInt (8 * w) true o then b else o
  | .minN => min o b
  | .maxI => if readInt (8 * w) true o < readInt (8 * w) true b then b else o
  | .maxN => max o b
  | .exch => b
  | .cas => if o = b then b1 % m else o
  | .fadd => (fAdd fmt32 Mode.fixed o b).1

/-! ### Reductions by the fixed tree (R89) -/

/-- One level of the tree over pairs; an absent member yields the other. -/
def treeLevel {α : Type} (f : α → α → α) : List (Option α) → List (Option α)
  | x :: y :: r =>
    (match x, y with
      | some a, some b => some (f a b)
      | some a, none => some a
      | none, b => b) :: treeLevel f r
  | l => l

/-- The tree over 96 places: five levels of pairs, then ((x0 ∘ x1) ∘ x2). -/
def tree {α : Type} (f : α → α → α) (l : List (Option α)) : Option α :=
  let t := treeLevel f (treeLevel f (treeLevel f (treeLevel f (treeLevel f l))))
  match treeLevel f (treeLevel f t) with
  | x :: _ => x
  | [] => none

/-- Two-operand lane operation of a reduction (R107). -/
def redOp (op : RedOp) (ty : Ty) (md : Mode) (a b : W32 × Flags) : W32 × Flags :=
  let fl := a.2 ||| b.2
  match op, ty with
  | .add, .f32 => let r := faddW md a.1 b.1; (r.1, fl ||| r.2)
  | .min, .f32 => let r := asW (fMinMax false md a.1.toNat b.1.toNat); (r.1, fl ||| r.2)
  | .max, .f32 => let r := asW (fMinMax true md a.1.toNat b.1.toNat); (r.1, fl ||| r.2)
  | .add, _ => (a.1 + b.1, fl)
  | .min, t => (minMax false (t == .i32) a.1 b.1, fl)
  | .max, t => (minMax true (t == .i32) a.1 b.1, fl)
  | .and, _ => (a.1 &&& b.1, fl)
  | .or, _ => (a.1 ||| b.1, fl)
  | .xor, _ => (a.1 ^^^ b.1, fl)

/-- The result with no lane present (R107). -/
def redNone (op : RedOp) (ty : Ty) : W32 :=
  match op, ty with
  | .min, .i32 => 0x7FFFFFFF
  | .min, .f32 => 0x7F800000
  | .min, _ => 0xFFFFFFFF
  | .max, .i32 => 0x80000000
  | .max, .f32 => 0xFF800000
  | .max, _ => 0
  | .and, _ => 0xFFFFFFFF
  | _, _ => 0

/-! ### Random numbers and sampling (R110, R113) -/

/-- One round of F. -/
def rndRound (x : W64) : W64 :=
  let y := x * 0xD1342543DE82EF95
  y ^^^ (y >>> 31)

/-- The generator function F (R110). -/
def rndF (key c : W64) : W32 := hi32 (rndRound (rndRound (rndRound (rndRound (c ^^^ key)))))

/-- A candidate of `samp`: score and index. -/
abbrev Cand := W32 × W32

/-- `better` (R113). -/
def better (a b : Cand) : Bool :=
  let x := fmt32.decode a.1.toNat
  let y := fmt32.decode b.1.toNat
  !x.isNan && (y.isNan || y.lt x || (x.eqv y && a.2.ult b.2))

/-- The better of two candidates. -/
def bestOf (a b : Cand) : Cand := if better b a then b else a

/-- The score of a logit (R113): the scaled logit less the Gumbel noise term, or the logit as an
operand where invT is zero. -/
def sampScore (md : Mode) (invT logit bits : W32) : W32 :=
  if (fmt32.operand md invT.toNat).isZero then
    match fmt32.operand md logit.toNat with
    | .nan _ => 0x7FC00000
    | _ => BitVec.ofNat 32 (flushed md logit.toNat)
  else
    let u := 2 * (bits.toNat / 2 ^ 8) + 1
    let l1 := rnLn md u (-25)
    let v := fmt32.decode l1
    let l2 := match v with
      | .fin _ m e => if m = 0 then 0xFF800000 else rnLn md m e
      | _ => 0x7F800000
    let p := (fMul fmt32 md logit.toNat invT.toNat).1
    BitVec.ofNat 32 (fSub fmt32 md p l2).1

end Sys2Proof.Machine
end

