-- ==== Sys2Proof/Machine/Crypto.lean ====
section
/-! DEFINITION. The cryptographic functions that R302, R305, R306 and R318 name: AES-256, its XTS mode on a
32-byte unit, AES-CMAC, the key unwrap of RFC 3394, SHA-384 and HMAC-SHA-384. Bytes are numbers below 256
here. -/

namespace Sys2Proof.Machine

/-! ### The field of AES -/

/-- Twice an element of GF(2^8): its bit 7 folds back by the polynomial 0x11B. -/
def gfDouble (a : Nat) : Nat := (2 * a) ^^^ (a / 128 * 0x11B)

/-- The product of two elements, over `n` bits of the second. -/
def gfMulBits : Nat → Nat → Nat → Nat
  | 0, _, _ => 0
  | n + 1, a, b => (b % 2 * a) ^^^ gfMulBits n (gfDouble a) (b / 2)

/-- The product of two elements of GF(2^8). -/
def gfMul (a b : Nat) : Nat := gfMulBits 8 a b

/-- The inverse of an element, 0 for 0: its 254th power. -/
def gfInv (a : Nat) : Nat :=
  let a2 := gfMul a a
  let a3 := gfMul a2 a
  let a6 := gfMul a3 a3
  let a12 := gfMul a6 a6
  let a15 := gfMul a12 a3
  let a30 := gfMul a15 a15
  let a60 := gfMul a30 a30
  let a120 := gfMul a60 a60
  let a126 := gfMul a120 a6
  let a127 := gfMul a126 a
  gfMul a127 a127

/-- A byte rotated left. -/
def rotByte (a n : Nat) : Nat := a * 2 ^ n % 256 + a / 2 ^ (8 - n)

/-- The substitution of AES. -/
def subByte (a : Nat) : Nat :=
  let i := gfInv a
  i ^^^ rotByte i 1 ^^^ rotByte i 2 ^^^ rotByte i 3 ^^^ rotByte i 4 ^^^ 0x63

/-- The inverse substitution. -/
def unsubByte (a : Nat) : Nat := gfInv (rotByte a 1 ^^^ rotByte a 3 ^^^ rotByte a 6 ^^^ 5)

/-- The substitution as a table. -/
def subTable : List Nat := (List.range 256).map subByte
/-- The inverse substitution as a table. -/
def unsubTable : List Nat := (List.range 256).map unsubByte

/-- Bytes combined one by one. -/
def xorBytes (a b : List Nat) : List Nat := List.zipWith (· ^^^ ·) a b

/-! ### AES-256 -/

/-- The words of the key schedule: 60 words of 4 bytes. -/
def keyWords (key : List Nat) : List (List Nat) :=
  (List.range 52).foldl (fun ws j =>
    let i := j + 8
    let t := ws.getD (i - 1) []
    let sub (w : List Nat) : List Nat := w.map fun b => subTable.getD b 0
    let u :=
      if i % 8 = 0 then
        let r := sub (t.drop 1 ++ t.take 1)
        xorBytes r [2 ^ (i / 8 - 1), 0, 0, 0]
      else if i % 8 = 4 then sub t
      else t
    ws ++ [xorBytes (ws.getD (i - 8) []) u]) ((List.range 8).map fun i => (key.drop (4 * i)).take 4)

/-- The 15 round keys of 16 bytes. -/
def roundKeys (key : List Nat) : List (List Nat) :=
  let ws := keyWords key
  (List.range 15).map fun r => ((ws.drop (4 * r)).take 4).flatten

/-- The rows of a block rotated by `f row` columns; byte 4 c + r stands in row r, column c. -/
def shiftRows (f : Nat → Nat) (b : List Nat) : List Nat :=
  (List.range 16).map fun i => b.getD (4 * ((i / 4 + f (i % 4)) % 4) + i % 4) 0

/-- Every column multiplied by the circulant matrix of a first row. -/
def mixColumns (m : List Nat) (b : List Nat) : List Nat :=
  (List.range 16).map fun i =>
    (List.range 4).foldl (fun x j =>
      x ^^^ gfMul (m.getD ((j + 4 - i % 4) % 4) 0) (b.getD (i / 4 * 4 + j) 0)) 0

/-- A block encrypted. -/
def aesEncrypt (key block : List Nat) : List Nat :=
  let ks := roundKeys key
  let sub (b : List Nat) : List Nat := shiftRows id (b.map fun x => subTable.getD x 0)
  let mid := (List.range 13).foldl (fun b r =>
    xorBytes (mixColumns [2, 3, 1, 1] (sub b)) (ks.getD (r + 1) [])) (xorBytes block (ks.getD 0 []))
  xorBytes (sub mid) (ks.getD 14 [])

/-- A block decrypted. -/
def aesDecrypt (key block : List Nat) : List Nat :=
  let ks := roundKeys key
  let unsub (b : List Nat) : List Nat :=
    (shiftRows (fun r => 4 - r) b).map fun x => unsubTable.getD x 0
  let mid := (List.range 13).foldl (fun b r =>
    mixColumns [14, 11, 13, 9] (xorBytes (unsub b) (ks.getD (13 - r) []))) (xorBytes block (ks.getD 14 []))
  xorBytes (unsub mid) (ks.getD 0 [])

/-! ### XTS on a unit (R305) -/

/-- The `n` bytes of a number, least significant first. -/
def natLe : Nat → Nat → List Nat
  | 0, _ => []
  | n + 1, x => x % 256 :: natLe n (x / 256)

/-- The number of bytes that stand least significant first. -/
def leOf : List Nat → Nat
  | [] => 0
  | b :: r => b + 256 * leOf r

/-- The number of bytes that stand most significant first. -/
def beOf (b : List Nat) : Nat := leOf b.reverse

/-- The mask of the second block from that of the first. -/
def xtsNext (t : List Nat) : List Nat :=
  let x := leOf t
  natLe 16 (if x < 2 ^ 127 then 2 * x else (2 * x % 2 ^ 128) ^^^ 0x87)

/-- The masks of a unit's two blocks: the tweak encrypted under the second key of the pair. -/
def xtsMasks (pair : List Nat) (tweak : Nat) : List Nat :=
  let t := aesEncrypt (pair.drop 32) (natLe 16 tweak)
  t ++ xtsNext t

/-- A unit of 32 bytes transformed block by block between the masks. -/
def xtsWith (f : List Nat → List Nat) (masks data : List Nat) : List Nat :=
  let x := xorBytes data masks
  xorBytes (f (x.take 16) ++ f (x.drop 16)) masks

/-- A unit encrypted under a key pair of 64 bytes. -/
def xtsEncrypt (pair : List Nat) (tweak : Nat) (data : List Nat) : List Nat :=
  xtsWith (aesEncrypt (pair.take 32)) (xtsMasks pair tweak) data

/-- A unit decrypted. -/
def xtsDecrypt (pair : List Nat) (tweak : Nat) (data : List Nat) : List Nat :=
  xtsWith (aesDecrypt (pair.take 32)) (xtsMasks pair tweak) data

/-! ### CMAC (R306) -/

/-- The subkey for a message of whole blocks. -/
def cmacKey (key : List Nat) : List Nat :=
  let x := beOf (aesEncrypt key (List.replicate 16 0))
  (natLe 16 (if x < 2 ^ 127 then 2 * x else (2 * x % 2 ^ 128) ^^^ 0x87)).reverse

/-- AES-CMAC of a message of `n + 1` whole blocks, chained from a value. -/
def cmacBlocks (key : List Nat) : Nat → List Nat → List Nat → List Nat
  | 0, c, m => aesEncrypt key (xorBytes (xorBytes c m) (cmacKey key))
  | n + 1, c, m => cmacBlocks key n (aesEncrypt key (xorBytes c (m.take 16))) (m.drop 16)

/-- The tag of an encrypted unit: bits [27:0] of the CMAC of its tweak and its ciphertext (R306). -/
def unitTag (key : List Nat) (tweak : Nat) (cipher : List Nat) : Nat :=
  leOf (cmacBlocks key 2 (List.replicate 16 0) (natLe 16 tweak ++ cipher)) % 2 ^ 28

/-! ### Key unwrap (RFC 3394, R302) -/

/-- The steps of the unwrap of `n` blocks with counts from `t` down to 1. -/
def unwrapSteps (key : List Nat) (n : Nat) : Nat → Nat → List Nat → Nat × List Nat
  | 0, a, r => (a, r)
  | t + 1, a, r =>
    let i := t % n
    let b := aesDecrypt key ((natLe 8 (a ^^^ (t + 1))).reverse ++ (r.drop (8 * i)).take 8)
    unwrapSteps key n t (beOf (b.take 8)) (r.take (8 * i) ++ b.drop 8 ++ r.drop (8 * i + 8))

/-- The data of a wrapped key; none when the integrity check fails. -/
def keyUnwrap (key wrapped : List Nat) : Option (List Nat) :=
  let n := wrapped.length / 8 - 1
  let x := unwrapSteps key n (6 * n) (beOf (wrapped.take 8)) (wrapped.drop 8)
  if x.1 = 0xA6A6A6A6A6A6A6A6 then some x.2 else none

/-! ### SHA-384 (R318) -/

/-- The greatest number below `2^n` bits whose power `e` is at most `x`, found bit by bit. -/
def rootBits (e x : Nat) : Nat → Nat → Nat
  | 0, r => r
  | n + 1, r => rootBits e x n (if (r + 2 ^ n) ^ e ≤ x then r + 2 ^ n else r)

/-- The first `n` primes. -/
def primes (n : Nat) : List Nat :=
  ((List.range 500).filter fun p => decide (2 ≤ p) && (List.range p).all fun d => d < 2 || p % d != 0).take n

/-- The round constants: 64 bits of the fractions of the cube roots of the first 80 primes. -/
def shaK : List Nat := (primes 80).map fun p => rootBits 3 (p * 2 ^ 192) 70 0 % 2 ^ 64

/-- The initial value of SHA-384: the fractions of the square roots of the ninth to sixteenth primes. -/
def shaInit : List Nat := ((primes 16).drop 8).map fun p => rootBits 2 (p * 2 ^ 128) 70 0 % 2 ^ 64

/-- A word of 64 bits rotated right. -/
def rotr (x n : Nat) : Nat := x / 2 ^ n + x % 2 ^ n * 2 ^ (64 - n)

/-- The message schedule of a block: 80 words. -/
def shaSchedule (w : List Nat) : List Nat :=
  (List.range 64).foldl (fun ws j =>
    let a (i : Nat) : Nat := ws.getD (j + 16 - i) 0
    let s0 := rotr (a 15) 1 ^^^ rotr (a 15) 8 ^^^ a 15 / 2 ^ 7
    let s1 := rotr (a 2) 19 ^^^ rotr (a 2) 61 ^^^ a 2 / 2 ^ 6
    ws ++ [(a 16 + s0 + a 7 + s1) % 2 ^ 64]) w

/-- One round, on the eight words and a schedule word with its constant. -/
def shaRound (v : List Nat) (kw : Nat) : List Nat :=
  let x (i : Nat) : Nat := v.getD i 0
  let s1 := rotr (x 4) 14 ^^^ rotr (x 4) 18 ^^^ rotr (x 4) 41
  let ch := (x 4 &&& x 5) ^^^ ((2 ^ 64 - 1 - x 4) &&& x 6)
  let t1 := x 7 + s1 + ch + kw
  let s0 := rotr (x 0) 28 ^^^ rotr (x 0) 34 ^^^ rotr (x 0) 39
  let maj := (x 0 &&& x 1) ^^^ (x 0 &&& x 2) ^^^ (x 1 &&& x 2)
  [(t1 + s0 + maj) % 2 ^ 64, x 0, x 1, x 2, (x 3 + t1) % 2 ^ 64, x 4, x 5, x 6]

/-- One block of 128 bytes. -/
def shaBlock (h : List Nat) (b : List Nat) : List Nat :=
  let w := shaSchedule ((List.range 16).map fun i => beOf ((b.drop (8 * i)).take 8))
  List.zipWith (fun x y => (x + y) % 2 ^ 64) h
    ((List.zipWith (· + ·) shaK w).foldl shaRound h)

/-- `n` blocks. -/
def shaBlocks : Nat → List Nat → List Nat → List Nat
  | 0, h, _ => h
  | n + 1, h, m => shaBlocks n (shaBlock h (m.take 128)) (m.drop 128)

/-- The 48 bytes of the SHA-384 digest of a message. -/
def sha384 (m : List Nat) : List Nat :=
  let z := (239 - m.length % 128) % 128
  let p := m ++ [0x80] ++ List.replicate z 0 ++ (natLe 16 (8 * m.length)).reverse
  ((shaBlocks (p.length / 128) shaInit p).take 6).flatMap fun x => (natLe 8 x).reverse

/-- HMAC-SHA-384 under a key of at most 128 bytes. -/
def hmac384 (key m : List Nat) : List Nat :=
  let k := key ++ List.replicate (128 - key.length) 0
  sha384 (k.map (· ^^^ 0x5C) ++ sha384 (k.map (· ^^^ 0x36) ++ m))

/-- The bytes of the text "GK9 integrity" (R306). -/
def integrityText : List Nat := [0x47, 0x4B, 0x39, 0x20, 0x69, 0x6E, 0x74, 0x65, 0x67, 0x72, 0x69, 0x74, 0x79]

/-- The integrity key of a slot: the first 256 bits of the HMAC of the text under its key pair (R306). -/
def integrityKey (pair : List Nat) : List Nat := (hmac384 pair integrityText).take 32

end Sys2Proof.Machine
end

