-- ==== Sys2Proof/Machine/Memory.lean ====
section
/-! DEFINITION. Homes (R38), the memory system of R159 to R171, write requests (R147), encryption
(R305 to R311), and the handle checks of R26 to R29, R185 and R186. -/

namespace Sys2Proof.Machine

/-! ### Trap codes (R322) -/

/-- Trap causes. -/
inductive Cause where
  | illegalOpcode | illegalConvergence | emptyRead | predOvf | splitOvf | handleFault | tableAbsent
  | keyType | align | spadStale | spadRange | access | priv | remoteFault | poison | launchDepth
  | queueFault | barrierMisuse | preempt | user | resume
  deriving DecidableEq, Repr

/-- The code of a cause (R322). -/
def Cause.code : Cause → Nat
  | .illegalOpcode => 1 | .illegalConvergence => 2 | .emptyRead => 3 | .predOvf => 4
  | .splitOvf => 5 | .handleFault => 6 | .tableAbsent => 7 | .keyType => 8 | .align => 9
  | .spadStale => 10 | .spadRange => 11 | .access => 12 | .priv => 13 | .remoteFault => 14
  | .poison => 15 | .launchDepth => 16 | .queueFault => 17 | .barrierMisuse => 18 | .preempt => 19
  | .user => 20 | .resume => 21

/-! ### Keys, sectors and homes -/

/-- The first key of private memory. -/
def privBase : Nat := 2 ^ 62
/-- The first key of the ECC side bytes: byte `sideBase + k` stands beside byte `k` (R306). -/
def sideBase : Nat := 2 ^ 110
/-- The memory byte that a key names or stands beside. -/
def flatKey (key : Nat) : Nat := key % sideBase
/-- The key of a byte of private memory is in the private range (R29). -/
def isPriv (key : Nat) : Bool := privBase ≤ flatKey key
/-- The launch whose private table holds a key. -/
def privLaunch (key : Nat) : Nat := (flatKey key - privBase) / 2 ^ 42
/-- The table id of a table key. -/
def tidOfKey (key : Nat) : Nat := flatKey key / 2 ^ 42
/-- The position of a key in its table. -/
def posOfKey (key : Nat) : Nat := flatKey key % 2 ^ 42
/-- The 64-byte sector of a key. -/
def sectorOf (key : Nat) : Nat := flatKey key / 64
/-- The 256-byte line of a key. -/
def lineOf (key : Nat) : Nat := flatKey key / 256
/-- The 32-byte unit of a key. -/
def unitOf (key : Nat) : Nat := flatKey key / 32
/-- The row key of a table key: table * 2^42 + slot. -/
def State.rowOfKey (s : State) (key : Nat) : Nat :=
  tidOfKey key * 2 ^ 42 + posOfKey key / (s.table (tidOfKey key)).rowSize

/-- The pseudo-channel that entry u of a stack's channel map names (R38). -/
def State.chanEntry (s : State) (stack u : Nat) : Nat :=
  (aget s.mem.chanMap (64 * stack + u % 64)).getD (64 * stack + u % 64)

/-- The pseudo-channel of a home unit by its table's home policy (R38). -/
def State.unitChannel (s : State) (t : Table) (tid u : Nat) : Nat :=
  match t.home with
  | 0 =>
    let i := Config.homeHash tid u
    (aget s.mem.homeMap i.toNat).getD (64 * (Config.homeStack i).val + (Config.homeChannel i.toNat i).val)
  | 1 =>
    let d := t.homeId % 4
    let i := Config.homeHash tid u
    (aget s.mem.homeMap (4096 * (d + 1) + i.toNat)).getD
      (64 * (3 * d + (Config.dieHomeStack d i).val) + (Config.homeChannel d i).val)
  | _ => s.chanEntry t.homeId u

/-- The pseudo-channel home to a table position: the redirect of a moved row first (R37, R38). -/
def State.channelOf (s : State) (tid pos : Nat) : Nat :=
  let t := s.table tid
  match aget s.mem.reloc (tid * 2 ^ 42 + pos / t.rowSize) with
  | some stack => s.chanEntry stack (pos / 2 ^ 16)
  | none => s.unitChannel t tid (pos / 2 ^ 16)

/-- The die of a pseudo-channel: three stacks of 64 on each die (R8). -/
def dieOfChannel (ch : Nat) : Nat := ch / 192
/-- The bank of a position within its pseudo-channel (R38). -/
def bankOf (pos : Nat) : Nat := pos % 2 ^ 16 / 2048 % 16
/-- The home die of a key; private memory counts as homed on the die given. -/
def State.homeDie (s : State) (here key : Nat) : Nat :=
  if isPriv key then here else dieOfChannel (s.channelOf (tidOfKey key) (posOfKey key))

/-- A stack has a live pseudo-channel (R15, R371). -/
def State.stackLive (s : State) (stack : Nat) : Bool :=
  (List.range 64).any fun c =>
    match aget s.channels (64 * stack + c) with
    | some x => !x.retired
    | none => true

/-- The live stacks of the module (R182). -/
def State.liveStacks (s : State) : List Nat := (List.range 12).filter s.stackLive

/-- The index stack that hardware chooses for a table (R182): of an interleaved table, one of the live stacks. -/
def State.chooseIndex (s : State) (tid : Nat) (t : Table) : Nat :=
  if t.home = 0 then s.liveStacks.getD ((Config.indexStack tid).val % s.liveStacks.length) 0
  else 3 * (t.homeId % 4) + (Config.dieIndexStack tid).val

/-- The index stack of a table (R182): the HOMEID stack, or the one that was chosen. -/
def State.indexStack (s : State) (tid : Nat) : Nat :=
  let t := s.table tid
  if t.home = 2 then t.homeId else t.index

/-- A pseudo-channel in broadcast mode holds back ordinary traffic to it (R253). -/
def State.channelShut (s : State) (key : Nat) : Bool :=
  !isPriv key &&
    (match aget s.channels (s.channelOf (tidOfKey key) (posOfKey key)) with
      | some c => c.holder.isSome
      | none => false)

/-! ### Encrypted units (R305 to R308, R311) -/

/-- The key slot under which a key's units are encrypted, if they are (R305). -/
def State.slotOfKey (s : State) (key : Nat) : Option Nat :=
  if isPriv key then (s.launch (privLaunch key)).slot
  else
    let t := s.table (tidOfKey key)
    if t.ownw then some t.kslot else none

/-- The key pair and the integrity key that a slot holds, as bytes; zeros for an empty slot (R304). -/
def State.slotKeys (s : State) (slot : Nat) : List Nat × List Nat :=
  match aget s.stag.slots slot with
  | some k =>
    if k.count = 0 then (List.replicate 64 0, List.replicate 32 0)
    else (natLe 64 k.pair.toNat, natLe 32 k.ikey.toNat)
  | none => (List.replicate 64 0, List.replicate 32 0)

/-- The tweak of a unit (R305). The handle of a unit of private memory has space 11 [A7]. -/
def unitTweak (slot u : Nat) : Nat :=
  slot % 2 ^ 9 * 2 ^ 64 +
    (if isPriv (32 * u) then 3 * 2 ^ 62 + posOfKey (32 * u) else 32 * u % 2 ^ 62)

/-- The keys of a unit's side bytes: the tag in bits [27:0], bit 31 set where there is a tag; a cleared
unit's are zero (R306, R307). Bits 29 and 30 mark a cleared half of a unit that rows of 16 bytes share: R307
clears whole units and says nothing of them. DESIGN CHOICE. [A62] -/
def sideKeys (u : Nat) : List Nat := (List.range 4).map fun i => sideBase + 32 * u + i

/-- The keys of a unit's bytes. -/
def unitKeys (u : Nat) : List Nat := (List.range 32).map fun i => 32 * u + i

/-- The keys of a sector's bytes with the side bytes of its units, where they are encrypted. -/
def State.sectorKeys (s : State) (sec : Nat) : List Nat :=
  ((List.range 64).map fun i => 64 * sec + i) ++
    (if (s.slotOfKey (64 * sec)).isSome then sideKeys (2 * sec) ++ sideKeys (2 * sec + 1) else [])

/-- The number that a unit's side bytes hold. -/
def sideOf (rd : Nat → Byte) (u : Nat) : Nat := leOf ((sideKeys u).map fun k => (rd k).toNat)

/-- Plaintext of a unit with its cleared halves as zeros [A62]. -/
def clearHalves (side : Nat) (plain : List Byte) : List Byte :=
  let half (i : Nat) : List Byte :=
    if side.testBit (29 + i) then List.replicate 16 0 else (plain.drop (16 * i)).take 16
  half 0 ++ half 1

/-- The plaintext of a unit whose stored bytes a function gives, and whether its tag fails (R306); a
cleared unit reads as zeros (R307). -/
def State.openUnit (s : State) (rd : Nat → Byte) (u : Nat) : List Byte × Bool :=
  let raw := (unitKeys u).map rd
  match s.slotOfKey (32 * u) with
  | none => (raw, false)
  | some slot =>
    let side := sideOf rd u
    if side < 2 ^ 31 then (List.replicate 32 0, false)
    else
      let ks := s.slotKeys slot
      let c := raw.map (·.toNat)
      (clearHalves side ((xtsDecrypt ks.1 (unitTweak slot u) c).map (BitVec.ofNat 8)),
        unitTag ks.2 (unitTweak slot u) c != side % 2 ^ 28)

/-- The stored bytes of a unit of encrypted memory, with its side bytes (R305, R306). -/
def State.sealUnit (s : State) (slot u : Nat) (plain : List Byte) : List (Nat × Byte) :=
  let ks := s.slotKeys slot
  let c := xtsEncrypt ks.1 (unitTweak slot u) (plain.map (·.toNat))
  let side := natLe 4 (2 ^ 31 + unitTag ks.2 (unitTweak slot u) c)
  ((unitKeys u).zip (c.map (BitVec.ofNat 8))) ++ (sideKeys u).zip (side.map (BitVec.ofNat 8))

/-- Plaintext bytes at keys, the units of them that are poisoned, by a failed tag or at their homes, and the
units whose tag fails. -/
structure Seen where
  bytes : List Byte
  poisoned : List Nat
  tags  : List Nat

/-- A unit of the bytes seen is poisoned. -/
def Seen.bad (x : Seen) : Bool := !x.poisoned.isEmpty
/-- A unit of some of the bytes seen is poisoned. -/
def Seen.hit (x : Seen) (keys : List Nat) : Bool := keys.any fun k => x.poisoned.contains (unitOf k)

/-- A list without its adjacent repeats. -/
def squeeze : List Nat → List Nat
  | [] => []
  | x :: r => if r.head? = some x then squeeze r else x :: squeeze r

/-- The units of a list of keys. -/
def unitsOf (keys : List Nat) : List Nat := dedup (squeeze (keys.map unitOf))

/-- The bytes at keys as a reader finds them whose stored bytes a function gives. -/
def State.see (s : State) (rd : Nat → Byte) (keys : List Nat) : Seen :=
  let us := (unitsOf keys).map fun u => (u, s.openUnit rd u)
  { bytes := keys.map fun k => ((aget us (unitOf k)).getD ([], false)).1.getD (k % 32) 0
    poisoned := (us.filter fun u => u.2.2 || s.mem.poison.contains u.1).map (·.1)
    tags := (us.filter fun u => u.2.2).map (·.1) }

/-- Failed tags recorded in the module error log as INTEGRITY (R306). -/
def State.logTags (s : State) (us : List Nat) : State :=
  if us.isEmpty then s
  else { s with stag := { s.stag with errors := s.stag.errors ++ us.map ErrLog.integrity } }

/-- Byte writes of plaintext merged into the units that a function gives, as stored: whole units where the
memory is encrypted (R308, R311). With them, the units that stay poisoned: those whose tag failed, but for the
units that a writer other than a thread (`whole`) covers whole (R190). -/
def State.sealData (s : State) (rd : Nat → Byte) (whole : Bool) (data : List (Nat × Byte)) :
    List (Nat × Byte) × List Nat :=
  match data with
  | [] => ([], [])
  | (k0, _) :: _ =>
    match s.slotOfKey k0 with
    | none => (data, [])
    | some slot =>
      (dedup (data.map fun d => unitOf d.1)).foldl (fun a u =>
        let old := s.openUnit rd u
        let plain := (unitKeys u).zipWith (fun k b => data.foldl (fun x d => if d.1 = k then d.2 else x) b)
          old.1
        (a.1 ++ s.sealUnit slot u plain,
          if old.2 && !(whole && (unitKeys u).all fun k => data.any fun d => d.1 == k) then a.2 ++ [u] else a.2))
        ([], [])

/-- Units marked poisoned. -/
def State.poisonUnits (s : State) (us : List Nat) : State :=
  if us.isEmpty then s else s.modMem fun m => { m with poison := us.foldl insNum m.poison }

/-- Units whose tag has failed in a partial write stay poisoned, and the error log records them (R190,
R306). -/
def State.failTags (s : State) (us : List Nat) : State := (s.poisonUnits us).logTags us

/-! ### At the home -/

/-- A stored byte at the home. -/
def State.homeRaw (s : State) (key : Nat) : Byte := byteAt s.mem.home key

/-- The bytes at keys as a reader at the home finds them. -/
def State.homeSeen (s : State) (keys : List Nat) : Seen := s.see s.homeRaw keys

/-- A byte whose unit is delivered poisoned from the home (R306, R333). -/
def State.unitPoisoned (s : State) (key : Nat) : Bool :=
  s.mem.poison.contains (unitOf key) || (s.openUnit s.homeRaw (unitOf key)).2

/-- Any of the bytes at some keys is poisoned at its home. -/
def State.anyPoison (s : State) (keys : List Nat) : Bool :=
  (unitsOf keys).any fun u => s.unitPoisoned (32 * u)

/-- Row versions advanced once for each row that the keys touch (R30). -/
def State.bumpRows (s : State) (rows : List Nat) : State :=
  s.modMem fun m =>
    { m with versions := rows.foldl (fun v r => aput v r ((aget v r).getD 0 + 1)) m.versions }

/-- The rows that table keys touch. -/
def State.rowsOf (s : State) (keys : List Nat) : List Nat :=
  dedup ((keys.filter fun k => !isPriv k).map s.rowOfKey)

/-- The units that a list of byte writes covers whole (R333). -/
def wholeUnits (keys : List Nat) : List Nat :=
  (unitsOf keys).filter fun u => (List.range 32).all fun i => keys.contains (32 * u + i)

/-- Stored bytes written at their homes. No poison is cleared: a thread store covers no unit whole
(R190). -/
def State.storeHome (s : State) (data : List (Nat × Byte)) : State :=
  s.modMem fun m => { m with home := setBytes m.home data }

/-- A byte is a key byte of a live keyed row (R24). -/
def State.isKeyByte (s : State) (key : Nat) : Bool :=
  let t := s.table (tidOfKey key)
  let slot := posOfKey key / t.rowSize
  !isPriv key && t.hasKey slot && (t.rowAt slot).isSome && decide (posOfKey key % t.rowSize < t.keyBytes)

/-- A store that was issued before its slot's row was inserted changes no key byte of that row (R24). -/
def State.keyFree (s : State) (data : List (Nat × Byte)) : List (Nat × Byte) :=
  data.filter fun d => !s.isKeyByte d.1

/-- Stored bytes of thread stores and write-backs applied at their homes (R30, R162, R190). -/
def State.applyStores (s : State) (data : List (Nat × Byte)) : State :=
  (s.storeHome data).bumpRows (s.rowsOf (data.map (·.1)))

/-- Plaintext written at its home by a writer that clears the poison of the units it covers whole (R190,
R333). -/
def State.putHome (s : State) (data : List (Nat × Byte)) : State :=
  let whole := wholeUnits (data.map (·.1))
  let x := s.sealData s.homeRaw true data
  ((s.storeHome x.1).modMem fun m =>
    { m with poison := m.poison.filter fun u => !whole.contains u }).failTags x.2

/-- Plaintext applied at its home, the versions advanced (R30). -/
def State.applyHome (s : State) (data : List (Nat × Byte)) : State :=
  (s.putHome data).bumpRows (s.rowsOf (data.map (·.1)))

/-- Whole units cleared: zero bytes, no tag, no poison (R307). -/
def State.clearUnits (s : State) (lo n : Nat) : State :=
  s.modMem fun m =>
    { m with
      home := m.home.filter fun c => flatKey c.1 < lo || lo + n ≤ flatKey c.1
      poison := m.poison.filter fun u => decide (u < lo / 32) || decide ((lo + n + 31) / 32 ≤ u) }

/-- Half of a unit cleared, which a row of 16 bytes leaves where its neighbour's row stays: zero bytes, or in
encrypted memory the mark of a cleared half, which needs no key; a unit with both halves cleared is cleared
whole. DESIGN CHOICE. [A62] -/
def State.clearHalf (s : State) (key : Nat) : State :=
  let u := unitOf key
  if (s.slotOfKey key).isNone then s.storeHome (runOf key (List.replicate 16 0))
  else
    let side := sideOf s.homeRaw u ||| 2 ^ (29 + key / 16 % 2)
    if side < 2 ^ 31 then s
    else if side.testBit 29 && side.testBit 30 then s.clearUnits (32 * u) 32
    else s.storeHome ((sideKeys u).zip ((natLe 4 side).map (BitVec.ofNat 8)))

/-- Bytes from a key on cleared (R25, R307): whole units, and the halves of units at either end that rows of
16 bytes leave [A62]. -/
def State.clearBytes (s : State) (lo n : Nat) : State :=
  let a := min (lo + n) ((lo + 31) / 32 * 32)
  let b := max a ((lo + n) / 32 * 32)
  let s1 := s.clearUnits a (b - a)
  let s2 := if lo < a then s1.clearHalf lo else s1
  if b < lo + n then s2.clearHalf b else s2

/-! ### Write requests at the home (R147, R162, R170, R179, R230) -/

/-- The sectors of a write request. -/
def PWrite.sectors (w : PWrite) : List Nat := dedup (w.data.map fun d => sectorOf d.1)
/-- The lines of a write request. -/
def PWrite.lines (w : PWrite) : List Nat := dedup (w.data.map fun d => lineOf d.1)
/-- The request goes to the home. -/
def PWrite.toHome (w : PWrite) : Bool :=
  match w.kind with
  | .home | .atom _ => true
  | _ => false
/-- The scratchpad that a request goes to, by its team. -/
def PWrite.spadOf (w : PWrite) : Option Nat :=
  match w.kind with
  | .spad t | .spadAtom t _ => some t
  | _ => none
/-- A request writes a byte of a list. -/
def PWrite.hits (w : PWrite) (keys : List Nat) : Bool := w.data.any fun d => keys.contains d.1
/-- Two requests write a common byte. -/
def PWrite.meets (w x : PWrite) : Bool :=
  decide (w.spadOf = x.spadOf) && w.hits (x.data.map (·.1))
/-- The request has not been performed. -/
def PWrite.open_ (w : PWrite) : Bool := decide (w.stage < 2)

/-- The request is an atomic or a reduction for the home write queue. -/
def PWrite.isAtom (w : PWrite) : Bool :=
  match w.kind with
  | .atom _ => true
  | _ => false
/-- The request has left its core for the home and has not been performed. -/
def PWrite.atHome (w : PWrite) : Bool := w.toHome && w.gone && w.open_

/-- A write that the cluster copy has taken, some of it or all, on its way to the home (R161). -/
def PWrite.inCopy (w : PWrite) : Bool := w.kind == .home && (w.gone || !w.into.isEmpty) && w.open_

/-- A write of several elements, which enter the cluster copy one by one or together (R142). -/
def PWrite.apart (w : PWrite) : Bool := w.kind == .home && w.ew != 0 && decide (w.ew < w.data.length)

/-- A sector stands in the sets of an open region (R223, R230). -/
def State.regionHolds (s : State) (sec : Nat) : Bool :=
  s.regions.any fun r => r.reads.contains sec || r.writes.any fun i => i.sector == sec

/-- A destination line owned by a copy engine (R179). -/
def State.ownedLine (s : State) (line : Nat) : Bool := s.copies.any fun c => c.lines.contains line

/-- A number lies before another in sequence order modulo 2^32. -/
def seqBefore (a b : BitVec 32) : Bool := a != b && decide ((b - a).toNat < 2 ^ 31)

/-- A request at its home has to follow another that was sent before it (R143, R162, R170): one of its cluster
to a common sector, or one of its flow to a common line; or it stands behind a flush marker with a later number
(R171). -/
def PWrite.follows (w x : PWrite) : Bool :=
  (x.cluster == w.cluster && x.sectors.any w.sectors.contains) ||
    match x.flow, w.flow with
    | some a, some b => a.src == b.src && a.dst == b.dst &&
        (x.lines.any w.lines.contains || match w.marker with
          | some m => seqBefore a.seq m.1
          | none => false)
    | _, _ => false

/-- The requests at their homes that a test chooses, and those that have to follow one of them, by number. -/
def State.behind (s : State) (p : PWrite → Bool) : List Nat :=
  s.writes.foldl (fun a w =>
    if w.atHome && (p w || s.writes.any fun x => a.contains x.id && w.follows x) then a ++ [w.id] else a) []

/-- The requests that an open region or a copy engine holds at their homes, themselves or by another that they
follow. -/
def State.heldWrites (s : State) : List Nat :=
  if s.regions.isEmpty && s.copies.isEmpty then []
  else s.behind fun w => w.sectors.any s.regionHolds || w.lines.any s.ownedLine

/-- The requests that stand behind an atomic or are one, at their homes. -/
def State.behindAtoms (s : State) : List Nat := s.behind PWrite.isAtom

/-- A write under way that a read of a sector by a cluster comes after: one of the cluster (R143 item 3, R152),
or one of its die that its visitor line has taken (R143 item 4, R169). -/
def State.ahead (s : State) (cl sec : Nat) (w : PWrite) : Bool :=
  w.inCopy && w.sectors.contains sec &&
    (w.cluster == cl ||
      (w.gone && dieOfCluster w.cluster == dieOfCluster cl &&
        s.homeDie (dieOfCluster cl) (64 * sec) != dieOfCluster cl))

/-- A byte at its home as a read of a cluster finds it: a write that a region or an engine holds there, and that
the read comes after, is taken ahead of its place, since no read waits for either (R143, R179, R230) [A13]. -/
def State.homeByte (s : State) (cl key : Nat) : Byte :=
  let held := s.heldWrites
  if held.isEmpty then byteAt s.mem.home key
  else
    s.writes.foldl (fun b w =>
      if held.contains w.id && s.ahead cl (sectorOf key) w then
        w.data.foldl (fun x d => if d.1 = key then d.2 else x) b
      else b) (byteAt s.mem.home key)

/-! ### Cluster copies and visitor lines -/

/-- The key of a byte in a cluster copy, or of a visitor byte of a die. -/
def copyKey (c key : Nat) : Nat := c * 2 ^ 112 + key
/-- The byte key of an entry of a copy. -/
def keyOfCopy (k : Nat) : Nat := k % 2 ^ 112
/-- The cluster or die of an entry of a copy. -/
def ownerOfCopy (k : Nat) : Nat := k / 2 ^ 112

/-- A stored byte as a read with observer mask 0 finds it: the cluster copy, a visitor byte, the home
(R160, R161, R169). -/
def State.readByte (s : State) (cl key : Nat) : Byte :=
  match aget s.mem.l1 (copyKey cl key) with
  | some b => b.val
  | none =>
    match aget s.mem.vis (copyKey (dieOfCluster cl) key) with
    | some b => b
    | none => s.homeByte cl key

/-- A stored byte as a strong read of a cluster finds it: bytes that the cluster holds dirty come first
(R143 item 3, R163) [A13]. -/
def State.strongByte (s : State) (cl key : Nat) : Byte :=
  match aget s.mem.l1 (copyKey cl key) with
  | some b => if b.st = 0 then s.homeByte cl key else b.val
  | none => s.homeByte cl key

/-- The keys that have to be valid in a cluster copy for a read of some bytes: whole units with their
side bytes where the memory is encrypted (R311). -/
def State.neededKeys (s : State) (keys : List Nat) : List Nat :=
  keys.flatMap fun k =>
    if (s.slotOfKey k).isSome then unitKeys (unitOf k) ++ sideKeys (unitOf k) else [k]

/-- Bytes that are valid in a cluster copy. -/
def State.validKeys (s : State) (cl : Nat) (keys : List Nat) : Bool :=
  (s.neededKeys keys).all fun k => (aget s.mem.l1 (copyKey cl k)).isSome

/-- Bytes that are valid in the visitor lines of a die. -/
def State.visitorKeys (s : State) (die : Nat) (keys : List Nat) : Bool :=
  (s.neededKeys keys).all fun k => (aget s.mem.vis (copyKey die k)).isSome

/-- A sector fetched into the cluster copy and, when homed on another die, into the visitor line (R160,
R169): bytes already valid stay. -/
def State.fetchSector (s : State) (cl sec : Nat) : State :=
  let d := dieOfCluster cl
  let keys := s.sectorKeys sec
  let away := s.homeDie d (64 * sec) != d
  s.modMem fun m =>
    { m with
      l1 := keys.foldl (fun l k =>
        match aget l (copyKey cl k) with
        | some _ => l
        | none => aput l (copyKey cl k) ⟨s.readByte cl k, 0⟩) m.l1
      vis := if away then
          keys.foldl (fun v k =>
            match aget v (copyKey d k) with
            | some _ => v
            | none => aput v (copyKey d k) (s.homeByte cl k)) m.vis
        else m.vis }

/-- The clean bytes of a sector refreshed from the home, in the cluster copy and in the visitor line of
its die (R161, strong read). -/
def State.refreshSector (s : State) (cl sec : Nat) : State :=
  let d := dieOfCluster cl
  s.modMem fun m =>
    { m with
      l1 := m.l1.map fun e =>
        if ownerOfCopy e.1 = cl ∧ sectorOf (keyOfCopy e.1) = sec ∧ e.2.st = 0 then
          (e.1, ⟨s.homeByte cl (keyOfCopy e.1), 0⟩)
        else e
      vis := m.vis.map fun e =>
        if ownerOfCopy e.1 = d ∧ sectorOf (keyOfCopy e.1) = sec then
          (e.1, s.homeByte cl (keyOfCopy e.1))
        else e }

/-- The clean bytes of sectors dropped from a cluster copy and from the visitor lines of its die. -/
def State.dropSectors (s : State) (cl : Nat) (p : Nat → Bool) : State :=
  let d := dieOfCluster cl
  s.modMem fun m =>
    { m with
      l1 := m.l1.filter fun e =>
        !(ownerOfCopy e.1 == cl && p (sectorOf (keyOfCopy e.1)) && e.2.st == 0)
      vis := m.vis.filter fun e => !(ownerOfCopy e.1 == d && p (sectorOf (keyOfCopy e.1))) }

/-- Stored bytes put into a cluster copy with a state: 1 dirty, id + 2 sent as strong write `id` (R160,
R161). -/
def State.putL1 (s : State) (cl st : Nat) (data : List (Nat × Byte)) : State :=
  s.modMem fun m => { m with l1 := data.foldl (fun l d => aput l (copyKey cl d.1) ⟨d.2, st⟩) m.l1 }

/-- Plaintext as it is stored in a cluster copy (R308). -/
def State.sealL1 (s : State) (cl : Nat) (whole : Bool) (data : List (Nat × Byte)) :
    List (Nat × Byte) × List Nat :=
  s.sealData (s.readByte cl) whole data

/-- Plaintext of thread stores written into a cluster copy. -/
def State.writeL1 (s : State) (cl st : Nat) (data : List (Nat × Byte)) : State :=
  let x := s.sealL1 cl false data
  (s.putL1 cl st x.1).failTags x.2

/-- The dirty bytes of a cluster copy in the sectors chosen. -/
def State.dirtyIn (s : State) (cl : Nat) (p : Nat → Bool) : List (Nat × Byte) :=
  (s.mem.l1.filter fun e =>
    ownerOfCopy e.1 == cl && p (sectorOf (keyOfCopy e.1)) && e.2.st == 1).map fun e =>
      (keyOfCopy e.1, e.2.val)

/-- The dirty bytes of a cluster copy in the sectors chosen marked clean: they have been sent (R160). -/
def State.cleanDirty (s : State) (cl : Nat) (p : Nat → Bool) : State :=
  s.modMem fun m =>
    { m with l1 := m.l1.map fun e =>
        if ownerOfCopy e.1 = cl ∧ p (sectorOf (keyOfCopy e.1)) ∧ e.2.st = 1 then (e.1, { e.2 with st := 0 })
        else e }

/-- Valid visitor bytes of a die take the bytes of a write that passes (R169). -/
def State.passVisitor (s : State) (die : Nat) (data : List (Nat × Byte)) : State :=
  s.modMem fun m =>
    { m with vis := data.foldl (fun v d =>
        match aget v (copyKey die d.1) with
        | some _ => aput v (copyKey die d.1) d.2
        | none => v) m.vis }

/-- The bytes sent as strong write `id` are clean once the home has accepted them (R161). -/
def State.cleanSent (s : State) (cl id : Nat) : State :=
  s.modMem fun m =>
    { m with l1 := m.l1.map fun e =>
        if ownerOfCopy e.1 = cl ∧ e.2.st = id + 2 then (e.1, { e.2 with st := 0 }) else e }

/-! ### Capacity (R8, R41) -/

/-- The lines of a list of copies that an owner holds. -/
def ownedLines (keys : List Nat) (owner : Nat) : List Nat :=
  dedup ((keys.filter fun k => ownerOfCopy k == owner).map fun k => lineOf (keyOfCopy k))

/-- A list of copies has room for a line of an owner that may hold `n` lines. -/
def roomIn (keys : List Nat) (n owner line : Nat) : Bool :=
  decide (keys.length < n) || (ownedLines keys owner).contains line ||
    decide ((ownedLines keys owner).length < n)

/-- A line has a place in a cluster's L1: 16,384 lines of 256 bytes (R8). -/
def State.lineRoom (s : State) (cl line : Nat) : Bool := roomIn (akeys s.mem.l1) 16384 cl line

/-- A line has a place among the visitor lines of a die: 1,024 MiB (R8). -/
def State.visitorRoom (s : State) (die line : Nat) : Bool := roomIn (akeys s.mem.vis) 4194304 die line

/-- The lines that the ways of a pinned range hold: a way of a die's L2 is 64 MiB (R8). -/
def Pin.room (p : Pin) : Nat := 262144 * p.ways

/-- A pinned range holds a visitor line in its ways: the line is of the range, and fewer lines of the range
than its ways hold are present before it; the lines beyond them are normal lines (R41). That the lines lowest
in the range stand in its ways is a DESIGN CHOICE. [A64] -/
def Pin.holds (p : Pin) (keys : List Nat) (die line : Nat) : Bool :=
  p.die == die && decide (p.lo / 256 ≤ line) && decide (line ≤ (p.lo + p.len - 1) / 256) &&
    decide (((ownedLines keys die).filter fun l => decide (p.lo / 256 ≤ l) && decide (l < line)).length < p.room)

/-- A visitor line of a die is pinned (R41). -/
def State.pinnedLine (s : State) (die line : Nat) : Bool :=
  s.mem.pins.any fun p => p.holds (akeys s.mem.vis) die line

/-- A cluster line takes the hint of an access (R41): evict-first marks it; another access of it by a hint
other than evict-first makes it a line of normal age. -/
def State.hintLine (s : State) (cl key hint : Nat) : State :=
  let h := if hint = 0 ∧ !isPriv key then (s.table (tidOfKey key)).retc else hint
  let k := copyKey cl (lineOf key)
  if h = 1 then s.modMem fun m => { m with early := insNum m.early k }
  else if s.mem.early.contains k then s.modMem fun m => { m with early := m.early.filter (· != k) }
  else s

/-! ### Handle walks (R12, R20, R39) -/

/-- The page of a table key, as the key of its first byte with its table's generation (R20, R39). -/
def State.pageTag (s : State) (key : Nat) : Nat :=
  let t := s.table (tidOfKey key)
  let size := t.pageAt (posOfKey key)
  (key - key % size) * 2 ^ 32 + t.gen

/-- The handle TLB of a core holds the page of a key. Private handles name no page of a table and take no part
in it: R12 does not say whether they do. DESIGN CHOICE. [A63] -/
def State.pageHeld (s : State) (core key : Nat) : Bool :=
  isPriv key || s.mem.tlb.contains (core, s.pageTag key)

/-- A page asked for by a core: a walk starts unless the page is held, and a miss to a page whose walk is
in flight on the die joins it (R12). A private handle asks for none. DESIGN CHOICE. [A63] -/
def State.touchPage (s : State) (core key : Nat) : State :=
  if s.pageHeld core key then s
  else
    let p := s.pageTag key
    let d := dieOfCore core
    if s.mem.walks.any fun w => w.die == d && w.page == p then
      s.modMem fun m =>
        { m with walks := m.walks.map fun w =>
            if w.die == d && w.page == p then { w with cores := insNum w.cores core } else w }
    else s.modMem fun m => { m with walks := m.walks ++ [⟨d, p, [core]⟩] }

/-- A walk that a core waits for is in flight for the page of a key. -/
def State.walking (s : State) (core key : Nat) : Bool :=
  !isPriv key && s.mem.walks.any fun w => w.page == s.pageTag key && w.cores.contains core

/-- The first key of each 64 KiB page piece of a range. -/
def pageKeys (key n : Nat) : List Nat :=
  (List.range ((key % 65536 + n + 65535) / 65536)).map fun i =>
    if i = 0 then key else (key / 65536 + i) * 65536

/-- The pages of a range asked for by a core. -/
def State.touchRange (s : State) (core key n : Nat) : State :=
  (pageKeys key n).foldl (fun a k => a.touchPage core k) s

/-- A walk that a core waits for is in flight for a page of a range. -/
def State.walkingRange (s : State) (core key n : Nat) : Bool := (pageKeys key n).any fun k => s.walking core k

/-- The pages of a range are held by a core's handle TLB. -/
def State.rangeHeld (s : State) (core key n : Nat) : Bool := (pageKeys key n).all fun k => s.pageHeld core k

/-- A page entered into a core's handle TLB of 2,048 entries (R8); which entry a full one gives up is not
stated [A64]. -/
def State.holdPage (s : State) (core page : Nat) : State :=
  let own := s.mem.tlb.filter fun p => p.1 == core
  if own.contains (core, page) then s
  else if own.length < 2048 then s.modMem fun m => { m with tlb := (core, page) :: m.tlb }
  else
    let out := own.getD (Config.tlbVictim s.fresh % own.length) (core, page)
    ({ s with fresh := s.fresh + 1 } : State).modMem fun m =>
      { m with tlb := (core, page) :: m.tlb.filter fun p => p != out }

/-- A read at the home by a cluster has to follow writes under way to its sector; for a write that a region or an
engine holds it does not wait (R179, R230). -/
def State.homeWaits (s : State) (cl sec : Nat) : Bool :=
  let held := s.heldWrites
  s.writes.any fun w => s.ahead cl sec w && !held.contains w.id

/-- A read with observer mask 0 has to wait: a byte of it is not valid in the cluster copy, and the fetch
finds no place for its line, has to follow writes under way, or goes to a channel in broadcast mode (R8,
R160, R253). -/
def State.fetchWaits (s : State) (cl : Nat) (keys : List Nat) : Bool :=
  keys.any fun k =>
    !s.validKeys cl [k] &&
      (!s.lineRoom cl (lineOf k) ||
        (!s.visitorKeys (dieOfCluster cl) [k] &&
          (s.channelShut k || s.homeWaits cl (sectorOf k) ||
            (s.homeDie (dieOfCluster cl) k != dieOfCluster cl &&
              !s.visitorRoom (dieOfCluster cl) (lineOf k)))))

/-- A read at the home has to wait. -/
def State.strongWaits (s : State) (cl : Nat) (keys : List Nat) : Bool :=
  keys.any fun k => s.channelShut k || s.homeWaits cl (sectorOf k)

/-- A consistent read has to wait: as above, and for every write under way that it comes after to a byte of it,
since its bytes are of one version at the home (R31, R143): where a region holds such a write, R230 and R143 cannot
both be kept, and the read waits [A13]. -/
def State.trdWaits (s : State) (cl : Nat) (keys : List Nat) : Bool :=
  s.strongWaits cl keys || keys.any fun k => s.writes.any fun w => s.ahead cl (sectorOf k) w && w.hits [k]

/-! ### Packets and flush markers (R13, R170, R171) -/

/-- The link between two adjacent dies (R13). -/
def linkOf (a b : Nat) : Nat :=
  match min a b, max a b with
  | 0, 1 => 0
  | 2, 3 => 1
  | 0, 2 => 2
  | _, _ => 3

/-- The links of path `p` from one die to another: of an adjacent pair, 0 the direct link and 1 the way
round; of a diagonal pair, the way through either intermediate die (R13, R15). -/
def pathLinks (a b p : Nat) : List Nat :=
  if a + b = 3 then
    let m := ((List.range 4).filter fun d => d != a && d != b).getD p 0
    [linkOf a m, linkOf m b]
  else if p = 0 then [linkOf a b]
  else (List.range 4).filter (· != linkOf a b)

/-- No link of a path has been retired. -/
def State.pathLive (s : State) (a b p : Nat) : Bool := (pathLinks a b p).all fun l => !s.links.contains l

/-- The paths of a flow inside the module (R13, R15, R170): traffic of an adjacent pair goes the way round
once the direct link is retired. -/
def State.pathsOf (s : State) (a b : Nat) : List Nat :=
  if a + b = 3 then [0, 1].filter (s.pathLive a b)
  else if s.pathLive a b 0 then [0]
  else [1].filter (s.pathLive a b)

/-- A path chosen for a packet: any of the flow's (R171). -/
def State.choosePath (s : State) (a b : Nat) : State × Nat :=
  match s.pathsOf a b with
  | [] => (s, 0)
  | [p] => (s, p)
  | ps => ({ s with fresh := s.fresh + 1 }, ps.getD (Config.pathChoice s.fresh % ps.length) 0)

/-- A flow between two dies; a flow that has sent nothing is not listed (R170). -/
def State.flow (s : State) (a b : Nat) : Flow :=
  (s.flows.find? fun f => f.src == a && f.dst == b).getD ⟨a, b, 0, [], [], []⟩
/-- The state with a flow set. -/
def State.setFlow (s : State) (f : Flow) : State :=
  { s with flows := f :: s.flows.filter fun x => x.src != f.src || x.dst != f.dst }

/-- The next packet number of a flow taken and a path chosen; none inside one die. -/
def State.packet (s : State) (a b : Nat) : State × Option Packet :=
  if a = b then (s, none)
  else
    let r := s.choosePath a b
    let f := r.1.flow a b
    let s1 := r.1.setFlow { f with next := f.next + 1 }
    ({ s1 with nextId := s1.nextId + 1 }, some ⟨a, b, f.next, r.2, s1.nextId⟩)

/-- A flush marker sent down every path of the flow from one die to another (R171 item 2). -/
def State.sendMarker (s : State) (a b : Nat) : State × (BitVec 32 × List Nat) :=
  let f := s.flow a b
  let ps := s.pathsOf a b
  let s1 := s.setFlow { f with
    next := f.next + 1
    sent := f.sent ++ ps.map fun p => ⟨f.next, p, p, s.nextId⟩ }
  ({ s1 with nextId := s1.nextId + 1 }, (f.next, ps))

/-- A request of a flow that has not been performed has a number before `n`. -/
def State.flowBefore (s : State) (a b : Nat) (n : BitVec 32) (p : PWrite → Bool) : Bool :=
  s.writes.any fun x =>
    match x.flow with
    | some k => k.src == a && k.dst == b && x.open_ && seqBefore k.seq n && p x
    | none => false

/-- A write behind a flush marker may be performed: a copy of the marker has arrived from every path and
every earlier write of the flow has been performed (R171 item 4). -/
def State.markerOk (s : State) (w : PWrite) : Bool :=
  match w.marker, w.flow with
  | some m, some k =>
    (m.2.all fun p => (s.flow k.src k.dst).markers.contains (m.1, p)) &&
      !s.flowBefore k.src k.dst m.1 fun _ => true
  | _, _ => true

/-! ### Sending -/

/-- A request that its own earlier requests hold back in the core: an earlier request of its cluster that
has not left its core writes a common byte (R143, R162). -/
def State.unsentBefore (s : State) (w : PWrite) : Bool :=
  s.writes.any fun x => !x.gone && decide (x.id < w.id) && x.cluster == w.cluster && x.meets w

/-- A partial write of an encrypted unit has to wait for the unit's fetch (R311). -/
def State.unitWaits (s : State) (w : PWrite) : Bool :=
  let keys := w.data.map (·.1)
  (s.slotOfKey (keys.headD 0)).isSome && s.fetchWaits w.cluster ((unitsOf keys).map (32 * ·))

/-- An atomic or reduction of the cluster to a common byte is on its way: a strong write that comes later goes
into the cluster copy behind it (R143, R162). -/
def State.atomBefore (s : State) (w : PWrite) : Bool :=
  s.writes.any fun x => x.isAtom && x.gone && x.open_ && x.cluster == w.cluster && decide (x.id < w.id) && x.meets w

/-- Every counted write of a group numbered below `id` that is not acknowledged, and every write-back of its
cluster, has been sent to the home on one die (R171 item 1). -/
def State.onlyTo (s : State) (gid cl id d : Nat) : Bool :=
  s.writes.all fun w =>
    decide (id ≤ w.id) || !((w.counted && w.gid == gid) || (w.back && w.open_ && w.cluster == cl)) ||
      (w.toHome && (match w.flow with
        | some k => k.dst == d
        | none => false))

/-- The die on which a request is homed now. -/
def State.dieTo (s : State) (w : PWrite) : Nat := s.homeDie (dieOfCluster w.cluster) ((w.data.head?.map (·.1)).getD 0)

/-- A request may leave its core: its handle is translated (R12), a write into the cluster copy finds a place
(R8), and a release behind a flush marker waits only for writes that the marker follows, wherever its home is by
now (R37, R171). -/
def State.maySend (s : State) (w : PWrite) : Bool :=
  !s.unsentBefore w &&
    (match w.page with
      | some (c, p) => s.mem.walks.all fun x => x.page != p || !x.cores.contains c
      | none => true) &&
    (w.kind != .home ||
      ((w.lines.all fun l => s.lineRoom w.cluster l) && !s.unitWaits w && !s.atomBefore w)) &&
    (!w.rel || s.onlyTo w.gid w.cluster w.id (s.dieTo w))

/-- A request with its place in a flow: behind a flush marker where it is a release (R171). -/
def State.route (s : State) (w : PWrite) : State × PWrite :=
  let here := dieOfCluster w.cluster
  let there := s.dieTo w
  let a := if w.rel && here != there then
      let m := s.sendMarker here there
      (m.1, some m.2)
    else (s, none)
  let p := a.1.packet here there
  (p.1, { w with gone := true, flow := p.2, marker := a.2, stage := if p.2.isSome then 0 else 1 })

/-- The state with a request replaced. -/
def State.setWrite (s : State) (w : PWrite) : State :=
  { s with writes := s.writes.map fun x => if x.id = w.id then w else x }

/-- A request that has been sent, behind those sent before it: requests that have left their cores stand in
the order in which they were sent. -/
def State.sentWrite (s : State) (w : PWrite) : State :=
  { s with writes := (s.writes.filter fun x => x.id != w.id) ++ [w] }

/-- An element of a strong write enters the cluster copy ahead of the rest (R142, R161). -/
def State.enterCopy (s : State) (w : PWrite) (data : List (Nat × Byte)) : State :=
  let d := s.keyFree data
  (s.putL1 w.cluster (w.id + 2) d).setWrite { w with into := w.into ++ d.map (·.1) }

/-- A request leaves its core. A strong write goes into the cluster copy and through the visitor line on
its way to the home (R161, R169). -/
def State.sendWrite (s : State) (w : PWrite) : State :=
  match w.kind with
  | .atom _ =>
    let r := s.route w
    r.1.sentWrite r.2
  | .home =>
    let x := s.sealL1 w.cluster w.clears (s.keyFree w.data)
    let s1 := ((s.putL1 w.cluster (w.id + 2) (x.1.filter fun d => !w.into.contains d.1)).failTags x.2).passVisitor (dieOfCluster w.cluster) x.1
    let r := s1.route w
    r.1.sentWrite { r.2 with data := x.1, ew := if x.1.length = w.data.length then w.ew else 0 }
  | _ => s.setWrite { w with gone := true }

/-- Every request that may now leave its core does, in order. -/
def State.sendReady (s : State) : State :=
  (s.writes.filter fun w => !w.gone).foldl (fun a w => if a.maySend w then a.sendWrite w else a) s

/-- A request of a group's access added. It leaves the core at once where it may, but for a strong write of several
elements, which do not act as one (R142). `rel` marks a release
behind a flush marker; `count` raises %uwc (R147). -/
def State.request (s : State) (gid cl : Nat) (kind : WKind) (data : List (Nat × Byte)) (ew : Nat)
    (page : Option (Nat × Nat)) (rel count : Bool) : State :=
  let w : PWrite :=
    ⟨s.nextId, gid, cl, kind, data, ew, 1, false, page, none, rel, none, count, false, false, []⟩
  let s1 := { s with writes := s.writes ++ [w], nextId := s.nextId + 1 }
  let s2 := if s1.maySend w && !w.apart then s1.sendWrite w else s1
  if count then s2.modGroup gid fun g => { g with uwc := g.uwc + 1 } else s2

/-- The sectors that byte writes touch, first touched first. -/
def sectorsOf (data : List (Nat × Byte)) : List Nat := dedup (squeeze (data.map fun d => sectorOf d.1))

/-- The byte writes of one sector. -/
def inSector (sec : Nat) (data : List (Nat × Byte)) : List (Nat × Byte) :=
  data.filter fun d => sectorOf d.1 == sec

/-- Dirty bytes of one sector of a cluster copy on their way to the home: they are clean and stay valid
(R160), and pass through the visitor line (R169). -/
def State.writeBack (s : State) (gid cl sec : Nat) (count : Bool) : State :=
  let data := s.dirtyIn cl (· == sec)
  if data.isEmpty then s
  else
    let s1 := (s.cleanDirty cl (· == sec)).passVisitor (dieOfCluster cl) data
    let w : PWrite :=
      ⟨s1.nextId, gid, cl, .home, data, 0, 1, true, none, none, false, none, count, false, true, []⟩
    let r := ({ s1 with nextId := s1.nextId + 1 } : State).route w
    let s2 := { r.1 with writes := r.1.writes ++ [r.2] }
    if count then s2.modGroup gid fun g => { g with uwc := g.uwc + 1 } else s2

/-- A counted write-back of one sector (R147). -/
def State.sendBack (s : State) (gid cl sec : Nat) : State := s.writeBack gid cl sec true

/-- The sectors among those chosen in which a cluster copy holds dirty bytes. -/
def State.dirtySectors (s : State) (cl : Nat) (p : Nat → Bool) : List Nat :=
  sectorsOf (s.dirtyIn cl p)

/-- Write-backs of chosen sectors, one sector at a time and only while %uwc stands below 65,535
(R147). The flag says that every one has been sent. -/
def State.sendBacks (s : State) (gid cl : Nat) (p : Nat → Bool) : State × Bool :=
  (s.dirtySectors cl p).foldl (fun a sec =>
    if (a.1.group gid).uwc < 65535 then (a.1.sendBack gid cl sec, a.2) else (a.1, false)) (s, true)

/-- Dirty bytes of a cluster in chosen sectors are written back without a count (R160). -/
def State.evictSectors (s : State) (cl : Nat) (p : Nat → Bool) : State :=
  (s.dirtySectors cl p).foldl (fun a sec => a.writeBack 0 cl sec false) s

/-- A line leaves a cluster's L1 (R160): its dirty bytes are written back, and none of its bytes stays
valid. -/
def State.evictLine (s : State) (cl line : Nat) : State :=
  let s1 := s.evictSectors cl fun sec => sec / 4 == line
  s1.modMem fun m =>
    { m with
      l1 := m.l1.filter fun e => !(ownerOfCopy e.1 == cl && lineOf (keyOfCopy e.1) == line)
      early := m.early.filter (· != copyKey cl line) }

/-- A visitor line leaves the L2 of a die; it holds only clean bytes (R169). -/
def State.evictVisitor (s : State) (die line : Nat) : State :=
  s.modMem fun m =>
    { m with vis := m.vis.filter fun e => !(ownerOfCopy e.1 == die && lineOf (keyOfCopy e.1) == line) }

/-! ### Performing at the home, recalls (R162, R167, R169) -/

/-- A write of the home kind is performed (R162). -/
def State.performHome (s : State) (w : PWrite) : State :=
  let s1 := if w.clears then
      let whole := wholeUnits (w.data.map (·.1))
      (s.applyStores w.data).modMem fun m => { m with poison := m.poison.filter fun u => !whole.contains u }
    else s.applyStores w.data
  (s1.cleanSent w.cluster w.id).setWrite { w with stage := 2 }

/-- Some element of a write of the home kind is performed ahead of the rest (R142). -/
def State.performPart (s : State) (w : PWrite) (k : Nat) : State :=
  let part := (w.data.drop (k * w.ew)).take w.ew
  (s.applyStores part).setWrite
    { w with data := w.data.take (k * w.ew) ++ w.data.drop ((k + 1) * w.ew) }

/-- The clusters that hold bytes of chosen sectors that are not clean. -/
def State.dirtyClusters (s : State) (p : Nat → Bool) : List Nat :=
  dedup ((s.mem.l1.filter fun e => e.2.st != 0 && p (sectorOf (keyOfCopy e.1))).map fun e =>
    ownerOfCopy e.1)

/-- The clusters that hold dirty bytes of chosen sectors which they have not sent. -/
def State.unsentClusters (s : State) (p : Nat → Bool) : List Nat :=
  dedup ((s.mem.l1.filter fun e => e.2.st == 1 && p (sectorOf (keyOfCopy e.1))).map fun e =>
    ownerOfCopy e.1)

/-- The clusters whose presence bit is set for a line: they hold bytes that are not clean, or a write-back of
theirs to the line has not been performed (R167). -/
def State.presence (s : State) (p : Nat → Bool) : List Nat :=
  dedup (s.dirtyClusters (fun sec => p (sec / 4)) ++
    ((s.writes.filter fun w => w.back && w.open_ && w.lines.any p).map (·.cluster)))

/-- The writes under way from a cluster to chosen sectors. -/
def State.underWay (s : State) (cl : Nat) (p : Nat → Bool) : List PWrite :=
  s.writes.filter fun w => w.inCopy && w.cluster == cl && w.sectors.any p

/-- The bytes that one access writes together, by number: eight aligned bytes, or an encrypted unit with its side
bytes (R142, R308). -/
def State.grain (s : State) (key : Nat) : Nat :=
  if (s.slotOfKey key).isSome then 4 * unitOf key else flatKey key / 8

/-- A byte stands on top of a write under way of its cluster, one of `ws`. -/
def State.onTop (s : State) (ws : List PWrite) (cl key : Nat) : Bool :=
  ws.any fun w => w.kind == .home && w.gone && w.open_ && w.cluster == cl &&
    w.data.any fun d => s.grain d.1 == s.grain key

/-- A recall of chosen sectors has to wait, but for the requests numbered in `free`: a write-back to one of them
is under way, dirty bytes stand on top of a write of their cluster that is still to be performed first (R162),
or a packet of their flow to one of their lines is under way (R170). -/
def State.recallWaits (s : State) (free : List Nat) (p : Nat → Bool) : Bool :=
  let ws := s.writes.filter fun w => w.atHome && w.kind == .home && !free.contains w.id
  !ws.isEmpty &&
    ((ws.any fun w => w.back && w.sectors.any p) ||
      (s.unsentClusters p).any fun c =>
        let ds := s.dirtyIn c p
        (ds.any fun d => s.onTop ws c d.1) ||
          ws.any fun w => (match w.flow with
            | some k => k.src == dieOfCluster c
            | none => false) && ds.any fun d => w.lines.contains (lineOf d.1))

/-- The dirty bytes of a cluster at chosen keys marked clean: they have been sent (R160). -/
def State.cleanKeys (s : State) (cl : Nat) (keys : List Nat) : State :=
  s.modMem fun m =>
    { m with l1 := m.l1.map fun e =>
        if ownerOfCopy e.1 = cl ∧ e.2.st = 1 ∧ keyOfCopy e.1 ∈ keys then (e.1, { e.2 with st := 0 }) else e }

/-- Dirty bytes of a cluster written back and applied at once, as in a recall (R167, R223); they stay valid and
clean. -/
def State.flushBytes (s : State) (cl : Nat) (data : List (Nat × Byte)) : State :=
  if data.isEmpty then s
  else ((s.cleanKeys cl (data.map (·.1))).passVisitor (dieOfCluster cl) data).applyStores data

/-- The dirty bytes of a cluster in chosen sectors written back and applied at once. -/
def State.flushSectors (s : State) (cl : Nat) (p : Nat → Bool) : State := s.flushBytes cl (s.dirtyIn cl p)

/-- The dirty bytes of chosen sectors recalled from every cluster (R167 step 1, R223): they are applied at once,
but for bytes of a sector that a region holds (R230) and bytes on top of a write of their cluster that comes
later, whose write-backs wait in their places at the home [A65]. -/
def State.recallSectors (s : State) (p : Nat → Bool) : State :=
  (s.unsentClusters p).foldl (fun a c =>
    (a.flushBytes c ((a.dirtyIn c p).filter fun d =>
      !a.regionHolds (sectorOf d.1) && !a.onTop a.writes c d.1)).evictSectors c p) s

/-- The dirty-presence recall of chosen lines (R167 step 1). -/
def State.recall (s : State) (p : Nat → Bool) : State := s.recallSectors fun sec => p (sec / 4)

/-! ### Scratchpads -/

/-- Bytes of a team's scratchpad. -/
def Team.spadBytes (t : Team) (off n : Nat) : List Byte := bytesAt t.spad off n
/-- Bytes of thread stores into a team's scratchpad (R190). -/
def Team.storeSpad (t : Team) (data : List (Nat × Byte)) : Team := { t with spad := setBytes t.spad data }
/-- Byte writes into a team's scratchpad; whole units lose their poison (R333). -/
def Team.putSpad (t : Team) (data : List (Nat × Byte)) : Team :=
  let whole := wholeUnits (data.map (·.1))
  { t with
    spad := setBytes t.spad data
    spadPoison := t.spadPoison.filter fun u => !whole.contains u }

/-- A thread access to bytes [lo, hi) of a team's scratchpad waits for a registered interval (R174
item 3). -/
def State.scored (s : State) (team lo hi : Nat) (wr : Bool) : Bool :=
  s.score.any fun e => e.team == team && decide (lo < e.hi) && decide (e.lo < hi) && (e.w || wr)

/-! ### Locations -/

/-- The key or offset of byte `i` of a location (R29). -/
def Loc.key : Loc → Nat → Nat
  | .tab k, i => k + i
  | .priv base lane off, i => base + ((off + i) / 4 * 96 + lane) * 4 + (off + i) % 4
  | .spad _ off, i => off + i

/-- The keys of the bytes of an access. -/
def Loc.keys (l : Loc) (n : Nat) : List Nat := (List.range n).map l.key

/-- The location is in a scratchpad. -/
def Loc.isSpad : Loc → Bool
  | .spad _ _ => true
  | _ => false

/-- The team in whose scratchpad a location lies. -/
def Loc.spadOf : Loc → Option Nat
  | .spad t _ => some t
  | _ => none

/-- The location is in a table. -/
def Loc.isTab : Loc → Bool
  | .tab _ => true
  | _ => false

/-- The location is private. -/
def Loc.isPrivate : Loc → Bool
  | .priv .. => true
  | _ => false

/-- The location some bytes further on. -/
def Loc.plus (l : Loc) (n : Nat) : Loc :=
  match l with
  | .tab k => .tab (k + n)
  | .priv base lane off => .priv base lane (off + n)
  | .spad t off => .spad t (off + n)

/-- The width of an element of an access (R142). -/
def Loc.elem (l : Loc) (wid : Nat) : Nat := if l.isPrivate then min wid 4 else min wid 8

/-- An access of `n` bytes and a request touch a common byte. -/
def Loc.meets (l : Loc) (n : Nat) (w : PWrite) : Bool :=
  decide (l.spadOf = w.spadOf) && w.hits (l.keys n)

/-- The bytes of a location as a read finds them, and the state after its fetch: from the cluster copy
(R160), or at the home with a refresh of clean bytes (strong, R161). -/
def State.readLoc (s : State) (cl : Nat) (strong : Bool) (l : Loc) (n : Nat) :
    State × List Byte × Bool :=
  match l with
  | .spad t off =>
    let tm := s.team t
    (s, tm.spadBytes off n, (dedup ((l.keys n).map (· / 32))).any tm.spadPoison.contains)
  | _ =>
    let keys := l.keys n
    let secs := dedup (keys.map sectorOf)
    if strong then
      let x := s.see (s.strongByte cl) keys
      ((secs.foldl (fun a sec => a.refreshSector cl sec) s).logTags x.tags, x.bytes, x.bad)
    else
      let x := s.see (s.readByte cl) keys
      ((secs.foldl (fun a sec =>
        if a.validKeys cl (keys.filter fun k => sectorOf k == sec) then a else a.fetchSector cl sec)
        s).logTags x.tags, x.bytes, x.bad)

/-! ### Handles -/

/-- What a checked handle must satisfy beyond its space: the width and the rights (R186). -/
structure Need where
  wid : Nat
  rd  : Bool
  wr  : Bool
  deriving DecidableEq, Repr

/-- The effective handle: the offset added to the position or offset field, the sum within its field
(R185). -/
def effective (h : W64) (off : BitVec 16) : Except Cause W64 :=
  let lo := match spaceOf h with
    | 0 => 42
    | 3 => 20
    | _ => 19
  let x : Int := (field h 0 lo : Int) + off.toInt
  if x < 0 ∨ (2 ^ lo : Nat) ≤ x then .error .handleFault else .ok (withField h 0 lo x.toNat)

/-- Check `c` or fail with a cause. -/
def need {α : Type} (c : Bool) (r : Cause) (k : Except Cause α) : Except Cause α :=
  if c then k else .error r

/-- The resident team on a core that holds a generation (R27 step 5). -/
def State.residentGen (s : State) (core : Nat) (gen : BitVec 16) : Option Nat :=
  (s.teams.find? fun t => t.2.resident && t.2.core == core && t.2.gen == gen).map (·.1)

/-- The table steps of R27: descriptor, rights, slot; then alignment. A poisoned descriptor traps
POISON (R334). -/
def State.checkTable (s : State) (l : Launch) (h : W64) (n : Need) : Except Cause Loc :=
  let tid := tidOf h
  let t := s.table tid
  need (!t.poisonDesc) .poison <|
  need (t.usable tid) .tableAbsent <|
  need ((!n.rd || l.reads tid) && (!n.wr || l.writesTo tid)) .access <|
  need (posOf h / t.rowSize < t.slots) .handleFault <|
  need (posOf h % n.wid == 0) .align <|
  .ok (.tab (tid * 2 ^ 42 + posOf h))

/-- R27 on an effective handle, for a lane of a group. -/
def State.checkHandle (s : State) (gid lane : Nat) (h : W64) (n : Need) : Except Cause Loc :=
  let l := s.launchOf gid
  match spaceOf h with
  | 0 => s.checkTable l h n
  | 1 =>
    need (field h 19 43 == 0) .handleFault <|
    need (field h 0 19 + n.wid ≤ l.spad) .spadRange <|
    need (field h 0 19 % n.wid == 0) .align <|
    .ok (.spad (teamOf gid) (field h 0 19))
  | 2 =>
    need (field h 40 22 == 0 && field h 19 1 == 0) .handleFault <|
    match s.residentGen (s.clusterOf gid * 16 + field h 36 4) (BitVec.ofNat 16 (field h 20 16)) with
    | none => .error .spadStale
    | some t =>
      need (launchOfTeam t == launchOfTeam (teamOf gid)) .access <|
      need (field h 0 19 + n.wid ≤ l.spad) .spadRange <|
      need (field h 0 19 % n.wid == 0) .align <|
      .ok (.spad t (field h 0 19))
  | _ =>
    need (field h 20 42 == 0) .handleFault <|
    need (field h 0 20 % n.wid == 0) .align <|
    .ok (.priv (privBase + launchOfTeam (teamOf gid) * 2 ^ 42 +
      ((s.group gid).window.getD 0) * 0x6000000) lane (field h 0 20))

/-- The effective handle of an instruction with an EXT-M word, checked (R185, R27). -/
def State.checkMem (s : State) (gid lane : Nat) (h : W64) (off : BitVec 16) (n : Need) :
    Except Cause Loc :=
  match effective h off with
  | .error r => .error r
  | .ok e => s.checkHandle gid lane e n

/-- The bytes of a write overlap the key bytes of a live keyed row (R24). -/
def State.hitsKey (s : State) (l : Loc) (n : Nat) : Bool :=
  match l with
  | .tab k =>
    let t := s.table (tidOfKey k)
    let slot := posOfKey k / t.rowSize
    t.hasKey slot && (t.rowAt slot).isSome && decide (posOfKey k % t.rowSize < t.keyBytes) &&
      decide (0 < n)
  | _ => false

/-! ### Private pages (R29) -/

/-- The 2 MiB page of a private key. -/
def pageOf (key : Nat) : Nat := key / 2 ^ 21

/-- A private page made for a store: none when the tenant's reserve is used up. -/
def State.allocPage (s : State) (ten key : Nat) : Option State :=
  if s.mem.privPages.contains (ten, pageOf key) then some s
  else if ((s.mem.privPages.filter fun p => p.1 == ten).length) < (aget s.mem.reserve ten).getD 0 then
    some (s.modMem fun m => { m with privPages := (ten, pageOf key) :: m.privPages })
  else none

/-- Pages for the bytes of several locations: the state with those made, and whether all were. -/
def State.allocPages (s : State) (ten : Nat) (keys : List Nat) : State × Bool :=
  (dedup (keys.map pageOf)).foldl (fun a p =>
    if a.2 then
      match a.1.allocPage ten (p * 2 ^ 21) with
      | some s' => (s', true)
      | none => (a.1, false)
    else a) (s, true)

end Sys2Proof.Machine
end

