-- ==== Sys2Proof/Machine/Tables.lean ====
section
/-! DEFINITION. Keys, lookups, scans and row changes of tables (R21 to R25, R30 to R37, R182). -/

namespace Sys2Proof.Machine

/-! ### Keys (R21) -/

/-- A two's complement value of `n` bits. -/
def toSigned (n x : Nat) : Int := if x % 2 ^ n < 2 ^ (n - 1) then x % 2 ^ n else (x % 2 ^ n : Nat) - (2 ^ n : Nat)

/-- A key's bit pattern as an integer in the order of its table: K128 compares high words signed, then
low words signed. -/
def keyInt (keyt x : Nat) : Int :=
  match keyt with
  | 0 => toSigned 32 x
  | 1 => toSigned 64 x
  | 2 => x % 2 ^ 32
  | 3 => x % 2 ^ 64
  | _ => toSigned 64 (x / 2 ^ 64) * (2 ^ 64 : Nat) + (toSigned 64 x + (2 ^ 63 : Nat))

/-- The bit pattern of a key. -/
def keyBits (keyt : Nat) (k : Int) : Nat :=
  match keyt with
  | 0 | 2 => (k % (2 ^ 32 : Nat)).toNat
  | 1 | 3 => (k % (2 ^ 64 : Nat)).toNat
  | _ =>
    let hi := (k / (2 ^ 64 : Nat)) % (2 ^ 64 : Nat)
    let lo := (k % (2 ^ 64 : Nat) - (2 ^ 63 : Nat)) % (2 ^ 64 : Nat)
    hi.toNat * 2 ^ 64 + lo.toNat

/-- A uniform key operand: its bit pattern, or none where a 32-bit key is not extended as the table's
key type asks (R21, BADKEY). -/
def uniKey (t : Table) (ws : List W64) : Option Nat :=
  let x := (dwAt ws 0).toNat
  match t.keyt with
  | 0 => if (keyInt 0 x % (2 ^ 64 : Nat)).toNat = x then some (x % 2 ^ 32) else none
  | 2 => if x < 2 ^ 32 then some x else none
  | 4 => some (x + (dwAt ws 1).toNat * 2 ^ 64)
  | _ => some x

/-! ### Visibility and lookup -/

/-- A launch is another one or descends from it (R35, R276). -/
def State.descends (s : State) : Nat → Nat → Nat → Bool
  | 0, _, _ => false
  | n + 1, l, anc =>
    l == anc ||
      match (s.launch l).parent with
      | some t => s.descends n (launchOfTeam t) anc
      | none => false

/-- A launch sees a row (R35). -/
def State.sees (s : State) (l : Nat) (r : Row) : Bool :=
  match r.prov with
  | none => true
  | some (_, owner) => s.descends 12 l owner

/-- The slot of a key in a table for a launch (R23): the row it sees. -/
def State.findKey (s : State) (l : Nat) (t : Table) (k : Int) : Option Nat :=
  if t.dense then (if 0 ≤ k ∧ k < t.cap then some k.toNat else none)
  else (t.rows.find? fun r => r.key == k && s.sees l r).map (·.slot)

/-- A row of any visibility holds a key (R24). -/
def Table.hasRow (t : Table) (k : Int) : Bool := t.rows.any fun r => r.key == k

/-- The handle of a slot's byte 0. -/
def slotHandle (t : Table) (tid slot : Nat) : W64 := handle tid (slot * t.rowSize)

/-- Status codes (R188). -/
def stOk : Nat := 0
def stDefault : Nat := 1
def stAbsent : Nat := 2
def stBadKey : Nat := 3
def stExists : Nat := 4
def stFull : Nat := 5
def stEnd : Nat := 6
def stDiscarded : Nat := 7
def stAccess : Nat := 8
def stSpadRange : Nat := 9
def stHandleFault : Nat := 10
def stTableAbsent : Nat := 11
def stAlign : Nat := 12
def stPoison : Nat := 13
def stHostPage : Nat := 14
def stBadEntry : Nat := 15
def stCancelled : Nat := 16

/-- A table with the descriptor under which an access passed translation (R20). -/
def State.tableAs (s : State) (tid : Nat) (desc : List W64) : Table := { s.table tid with dw := desc }

/-- `tget` (R199) in a table: the handle and the status of a key pattern; none is a key that violates
R21. -/
def State.lookup (s : State) (l : Nat) (t : Table) (tid : Nat) (dft : Bool) (key : Option Nat) : W64 × Nat :=
  match key with
  | none => (0, stBadKey)
  | some x =>
    match s.findKey l t (keyInt t.keyt x) with
    | some slot => (slotHandle t tid slot, stOk)
    | none => if dft then (slotHandle t tid t.defSlot, stDefault) else (0, stAbsent)

/-! ### Scans (R33) -/

/-- Of two keys, the one a scan meets first. -/
def scanFirst (desc : Bool) (a b : Int) : Int := if desc then max a b else min a b

/-- A key lies at or beyond a start and within an end, in the scan's direction. -/
def inScan (desc started : Bool) (last stop k : Int) : Bool :=
  if desc then (decide (k < last) || (!started && k == last)) && decide (stop ≤ k)
  else (decide (last < k) || (!started && k == last)) && decide (k ≤ stop)

/-- The next key of a scan that a launch sees, with its slot (R33). -/
def State.scanNext (s : State) (l : Nat) (t : Table) (desc started : Bool) (last stop : Int) :
    Option (Int × Nat) :=
  if t.dense then
    let k : Int :=
      if desc then min (if started then last - 1 else last) (t.cap - 1)
      else max (if started then last + 1 else last) 0
    if 0 ≤ k ∧ k < t.cap ∧ inScan desc started last stop k then some (k, k.toNat) else none
  else
    (t.rows.filter fun r => s.sees l r && inScan desc started last stop r.key).foldl
      (fun a r =>
        match a with
        | none => some (r.key, r.slot)
        | some (k, sl) => if scanFirst desc k r.key = k then some (k, sl) else some (r.key, r.slot))
      none

/-! ### Row changes -/

/-- COUNT changed. -/
def Table.setCount (t : Table) (n : Nat) : Table :=
  { t with dw := setAt t.dw 3 (withField (t.d 3) 0 42 n) }

/-- The head of a free list and the rest (R25). -/
def popFree : List (Nat × Nat) → Option (Nat × List (Nat × Nat))
  | [] => none
  | (lo, hi) :: r =>
    if hi ≤ lo then popFree r
    else some (lo, if lo + 1 < hi then (lo + 1, hi) :: r else r)

/-- A slot taken out of a free list (R25, TBL_LOAD). -/
def takeFree : List (Nat × Nat) → Nat → List (Nat × Nat)
  | [], _ => []
  | (lo, hi) :: r, x =>
    if lo ≤ x ∧ x < hi then
      (if lo < x then [(lo, x)] else []) ++ (if x + 1 < hi then [(x + 1, hi)] else []) ++ r
    else (lo, hi) :: takeFree r x

/-- The index row is entered, COUNT raised. -/
def State.indexRow (s : State) (tid : Nat) (r : Row) : State :=
  let t := s.table tid
  s.setTable tid ({ t with rows := r :: t.rows }.setCount (t.count + 1))

/-- The byte keys of a slot. -/
def slotKeys (t : Table) (tid slot : Nat) : Nat × Nat :=
  (tid * 2 ^ 42 + slot * t.rowSize, t.rowSize)

/-- The sectors of a slot's bytes. -/
def slotSectors (t : Table) (tid slot : Nat) : List Nat :=
  let k := tid * 2 ^ 42 + slot * t.rowSize
  (List.range ((t.rowSize + 63) / 64)).map fun i => k / 64 + i

/-- A slot's bytes cleared and its version advanced (R25, R307); a unit of an encrypted table that a row of 16
bytes shares with its neighbour is written as zeros in part, under the slot's present key. DESIGN CHOICE. [A62] -/
def State.clearSlot (s : State) (tid slot : Nat) : State :=
  let t := s.table tid
  (s.clearBytes (tid * 2 ^ 42 + slot * t.rowSize) t.rowSize).bumpRows [tid * 2 ^ 42 + slot]

/-- The row of a slot deleted (R25): out of the index, its slot cleared and appended to the free list;
a move of it ends and its redirect goes (R37). -/
def State.deleteRow (s : State) (tid slot : Nat) : State :=
  let t := s.table tid
  let s1 := s.setTable tid
    ({ t with
        rows := t.rows.filter fun r => r.slot != slot
        free := t.free ++ [(slot, slot + 1)] }.setCount (t.count - 1))
  let s2 := s1.clearSlot tid slot
  s2.modMem fun m =>
    { m with
      reloc := adel m.reloc (tid * 2 ^ 42 + slot)
      moving := adel m.moving (tid * 2 ^ 42 + slot) }

/-- The clean bytes of a row's sectors dropped in a cluster and its die's visitor lines (R198). -/
def State.dropRow (s : State) (cl tid slot : Nat) : State :=
  let secs := slotSectors (s.table tid) tid slot
  s.dropSectors cl fun x => secs.contains x

/-- Dirty bytes of a row's sectors recalled from every cluster before the row is replaced or deleted, so
that they are applied first (R36, R162). -/
def State.recallRow (s : State) (tid slot : Nat) : State :=
  let secs := slotSectors (s.table tid) tid slot
  s.recallSectors secs.contains

/-- A change of a row's bytes waits: a region stands on a sector of the row, a copy engine owns a line of
it, its channel is in broadcast mode, or its recall has to follow a write under way (R179, R230, R253). -/
def State.rowHeld (s : State) (tid slot : Nat) : Bool :=
  let secs := slotSectors (s.table tid) tid slot
  (secs.any fun x => s.regionHolds x || s.ownedLine (x / 4) || s.channelShut (64 * x)) ||
    s.recallWaits [] secs.contains

/-- A free slot waits to be taken: a store to it is on its way to the home (R24, R162). -/
def State.slotBusy (s : State) (tid slot : Nat) : Bool :=
  let secs := slotSectors (s.table tid) tid slot
  s.rowHeld tid slot || s.writes.any fun w => w.toHome && w.gone && w.open_ && w.sectors.any secs.contains

/-- `tins` of an image for a launch (R200): the new state and the status. Bytes of earlier stores to the
slot come before the image (R24). -/
def State.insertImage (s : State) (cl l tid : Nat) (prov : Option Nat) (img : List Byte) :
    State × Nat :=
  let t := s.table tid
  let k := keyInt t.keyt (leNat (img.take t.keyBytes))
  if t.hasRow k then (s, stExists)
  else if t.count + 1 = t.cap then (s, stFull)
  else
    match popFree t.free with
    | none => (s, stFull)
    | some (slot, rest) =>
      let s1 := (s.recallRow tid slot).setTable tid { t with free := rest }
      let s2 := s1.applyHome (runOf (tid * 2 ^ 42 + slot * t.rowSize) (img.take t.rowSize))
      let s3 := s2.indexRow tid ⟨k, slot, prov.map fun g => (g, l)⟩
      (s3.dropRow cl tid slot, stOk)

/-- `tdel` of a key for a launch (R201). -/
def State.deleteKey (s : State) (cl l tid : Nat) (k : Int) : State × Nat :=
  match s.findKey l (s.table tid) k with
  | none => (s, stAbsent)
  | some slot => (((s.recallRow tid slot).deleteRow tid slot).dropRow cl tid slot, stOk)

/-- The stored key bytes of a row (R21). -/
def Table.keyImage (t : Table) (slot : Nat) : List Byte :=
  match t.rowAt slot with
  | some r => leBytes t.keyBytes (keyBits t.keyt r.key)
  | none => []

/-- `trep` of a slot (R202): the key bytes of a keyed row stay. -/
def State.replaceRow (s : State) (cl tid slot : Nat) (img : List Byte) : State × Nat :=
  let t := s.table tid
  if !t.live slot then (s, stAbsent)
  else
    let key := if t.hasKey slot then t.keyImage slot else []
    let data := runOf (tid * 2 ^ 42 + slot * t.rowSize) (key ++ (img.drop key.length).take (t.rowSize - key.length))
    (((s.recallRow tid slot).applyHome data).dropRow cl tid slot, stOk)

/-- A row put in its place by key. -/
def insRow (r : Row) : List Row → List Row
  | [] => [r]
  | x :: xs => if r.key ≤ x.key then r :: x :: xs else x :: insRow r xs

/-- The rows of one tag that a launch sees, on one side of a limit, in increasing key order (R36). -/
def State.tagRows (s : State) (l tid tag : Nat) (p : Int → Bool) : List Row :=
  ((s.table tid).rows.filter fun r =>
    (match r.prov with
      | some (g, _) => g == tag
      | none => false) && s.sees l r && p r.key).foldl (fun a r => insRow r a) []

/-- One row committed (R36). -/
def State.commitRow (s : State) (cl tid slot : Nat) : State :=
  let t := s.table tid
  let s1 := s.setTable tid
    { t with rows := t.rows.map fun r => if r.slot = slot then { r with prov := none } else r }
  (s1.bumpRows [tid * 2 ^ 42 + slot]).dropRow cl tid slot

/-- The provisional rows a launch inserted and no one committed (R36), as table and slot. -/
def State.draftsOf (s : State) (l : Nat) : List (Nat × Nat) :=
  s.tables.flatMap fun t =>
    (t.2.rows.filter fun r =>
      match r.prov with
      | some (_, owner) => owner == l
      | none => false).map fun r => (t.1, r.slot)

/-! ### Checks of table instructions -/

/-- The table operand of R197: steps 1 to 4, in order; `kinds` are the kinds that have the operation
(R23) and `ty` the key width in bytes, where the instruction has one. A poisoned descriptor or index
traps POISON (R334). -/
def State.checkBase (s : State) (gid : Nat) (h : W64) (rd wr : Bool) (kinds : List Nat)
    (width : Option Nat) : Except Cause Nat :=
  let l := s.launchOf gid
  let tid := tidOf h
  let t := s.table tid
  need (spaceOf h == 0 && posOf h == 0) .handleFault <|
  need (!t.poisonDesc) .poison <|
  need (t.usable tid) .tableAbsent <|
  need ((!rd || l.reads tid) && (!wr || l.writesTo tid)) .access <|
  need (kinds.contains t.kind && (match width with
    | some w => w == t.keyBytes
    | none => true)) .keyType <|
  need (!t.poisonIndex) .poison <|
  .ok tid

/-- The width in bytes of a key type code (R52). -/
def tyWidth : Ty → Nat
  | .k128 => 16
  | .i64 | .n64 => 8
  | _ => 4

/-- An image handle of `n` bytes in table or team-scratchpad space, at a multiple of `al` (R200,
R214): the location read. -/
def State.checkImage (s : State) (gid : Nat) (h : W64) (n al : Nat) : Except Cause Loc :=
  let l := s.launchOf gid
  match spaceOf h with
  | 0 =>
    match s.checkTable l h ⟨1, true, false⟩ with
    | .error r => .error r
    | .ok loc =>
      let t := s.table (tidOf h)
      need (decide ((posOf h + n - 1) / t.rowSize < t.slots)) .handleFault <|
      need (posOf h % al == 0) .align <|
      .ok loc
  | 1 =>
    need (field h 19 43 == 0) .handleFault <|
    need (decide (field h 0 19 + n ≤ l.spad)) .spadRange <|
    need (field h 0 19 % al == 0) .align <|
    .ok (.spad (teamOf gid) (field h 0 19))
  | _ => .error .handleFault

/-- The rows that a `tcom` or `trbk` under way has still to place, in increasing key order (R36, R182). -/
def State.pendingRows (s : State) (tid : Nat) (h : Held) : List Row :=
  s.tagRows (launchOfTeam (teamOf (h.who / 2))) tid h.tag fun k =>
    if h.com then decide (k ≤ h.limit) else decide (h.limit < k)

/-- A table's row changes and replaces wait behind another slot's `tcom` or `trbk` (R36). -/
def State.tableWaits (s : State) (tid who : Nat) : Bool :=
  match (s.table tid).held with
  | some x => x.who != who
  | none => false

/-- A `trbk` under way stands at a row that a region holds: every later event of the table's index order
waits behind it (R230). -/
def State.orderHeld (s : State) (tid : Nat) : Bool :=
  match (s.table tid).held with
  | some h =>
    !h.com &&
      (match s.pendingRows tid h with
        | r :: _ => (slotSectors (s.table tid) tid r.slot).any s.regionHolds
        | [] => false)
  | none => false

end Sys2Proof.Machine
end

