-- ==== Sys2Proof/Machine/Regions.lean ====
section
/-! DEFINITION. The region units (R219 to R232): dependence edges, the value of a sector, region
accesses, commit and abort. -/

namespace Sys2Proof.Machine

/-! ### Region status (R236) -/

/-- CODE NONE. -/
def rgNone : Nat := 0
/-- CODE OPEN. -/
def rgOpen : Nat := 1
/-- CODE COMMITTED. -/
def rgCommitted : Nat := 2
/-- CODE ABORT_CYCLE. -/
def rgCycle : Nat := 3
/-- CODE ABORT_SOURCE. -/
def rgSource : Nat := 4
/-- CODE ABORT_CAPACITY. -/
def rgCapacity : Nat := 5
/-- CODE ABORT_NONLOCAL. -/
def rgNonlocal : Nat := 6
/-- CODE ABORT_PREEMPT. -/
def rgPreempt : Nat := 7
/-- CODE ABORT_EXPLICIT. -/
def rgExplicit : Nat := 8
/-- CODE ABORT_TRAP. -/
def rgTrap : Nat := 9
/-- CODE ABORT_UNSUPPORTED. -/
def rgUnsupported : Nat := 10

/-- The region status after an abort or a refused open (R234, R236). -/
def Group.abortStatus (g : Group) (code : Nat) : Group :=
  { g with regCode := code, regAborts := min 255 (g.regAborts + 1) }

/-! ### The dependence and reachability registers -/

/-- The open region of a group. -/
def State.regionOf (s : State) (gid : Nat) : Option Region := s.regions.find? fun r => r.gid == gid
/-- The group has an open region. -/
def State.inRegion (s : State) (gid : Nat) : Bool := (s.regionOf gid).isSome
/-- The state with a region of a group changed. -/
def State.modRegion (s : State) (gid : Nat) (f : Region → Region) : State :=
  { s with regions := s.regions.map fun r => if r.gid = gid then f r else r }

/-- The regions that a set of regions reaches in `n` steps over edges of any kind. -/
def reachSet (es : List Edge) : Nat → List Nat → List Nat
  | 0, xs => xs
  | n + 1, xs => reachSet es n (dedup (xs ++ (es.filter fun e => xs.contains e.src).map (·.dst)))

/-- The reachability register: one region reaches another (R222). -/
def State.reaches (s : State) (a b : Nat) : Bool := (reachSet s.edges s.edges.length [a]).contains b

/-- The longest forwarding chain that ends at a region, up to `n` edges (R226). -/
def chainIn (es : List Edge) : Nat → Nat → Nat
  | 0, _ => 0
  | n + 1, x =>
    (es.filter fun e => e.dst == x && e.kind == .forward).foldl
      (fun m e => max m (chainIn es n e.src + 1)) 0

/-- The longest forwarding chain that starts at a region, up to `n` edges. -/
def chainOut (es : List Edge) : Nat → Nat → Nat
  | 0, _ => 0
  | n + 1, x =>
    (es.filter fun e => e.src == x && e.kind == .forward).foldl
      (fun m e => max m (chainOut es n e.dst + 1)) 0

/-- An edge recorded, once. -/
def State.addEdge (s : State) (e : Edge) : State :=
  if s.edges.contains e then s else { s with edges := s.edges ++ [e] }

/-- The edge is a wait edge of an access into a region. -/
def Edge.waits (e : Edge) (gid acc : Nat) : Bool := e.dst == gid && e.kind == .wait acc

/-- The wait edges of an access into a region removed. -/
def State.unwait (s : State) (gid acc : Nat) : State :=
  { s with edges := s.edges.filter fun e => !e.waits gid acc }

/-! ### The value of a sector (R224) -/

/-- A region's image of a sector. -/
def Region.image (r : Region) (sec : Nat) : Option Image := r.writes.find? fun i => i.sector == sec

/-- A sector stands in the sets of a region. -/
def Region.holds (r : Region) (sec : Nat) : Bool := r.reads.contains sec || (r.image sec).isSome

/-- The open region of a die that was the latest to write a sector, with its image. -/
def State.lastWriter (s : State) (sec : Nat) : Option (Nat × Image) :=
  s.regions.foldl (fun a r =>
    match r.image sec, a with
    | some i, some (_, j) => if j.stamp < i.stamp then some (r.gid, i) else a
    | some i, none => some (r.gid, i)
    | none, _ => a) none

/-- The committed bytes of a sector as they are stored. -/
def State.homeSector (s : State) (sec : Nat) : List Byte := (s.sectorKeys sec).map s.homeRaw

/-- A stored byte of a sector whose stored bytes are given. -/
def State.imageByte (s : State) (sec : Nat) (raw : List Byte) (key : Nat) : Byte :=
  (aget ((s.sectorKeys sec).zip raw) key).getD 0

/-- How a region access ends: performed with what it saw of the sector, waiting with its wait edges
recorded, or aborting its region. -/
inductive RegAcc where
  | ok (s : State) (old : Seen)
  | hold (s : State)
  | abort (code : Nat)

/-- Wait edges of an access from several regions (R223, R226); a cycle aborts (R225). -/
def State.waitOn (s : State) (gid acc : Nat) (ws : List Nat) : RegAcc :=
  if ws.any fun w => s.reaches gid w then .abort rgCycle
  else .hold (ws.foldl (fun a w => a.addEdge ⟨w, gid, .wait acc⟩) (s.unwait gid acc))

/-- The recall before a region access has to wait for writes under way to its sector: those of the group's own
cluster (R143, R150, R152), those of a cluster that holds bytes which the home has not accepted (R161, R223), and
what every recall waits for. -/
def State.regionRecallWaits (s : State) (cl sec : Nat) : Bool :=
  let held := s.heldWrites
  let cs := s.dirtyClusters (· == sec)
  (s.writes.any fun w => w.inCopy && w.sectors.contains sec &&
    (w.cluster == cl || (cs.contains w.cluster && !held.contains w.id))) ||
    s.recallWaits held (· == sec)

/-- A waiting access of a group's region still has a wait edge: it is performed again when the regions that it
waits for have ended, and not before (R223, R226). -/
def State.stillWaits (s : State) (gid acc : Nat) : Bool := s.edges.any fun e => e.waits gid acc

/-- A region access of a group at a byte key (R220, R222 to R226, R231). `wr` gives the bytes written from
the sector's bytes before, for a write; none for a read. -/
def State.regionAccess (s : State) (gid acc key : Nat)
    (wr : Option (Seen → List (Nat × Byte))) : RegAcc :=
  match s.regionOf gid with
  | none => .hold s
  | some r =>
    if s.stillWaits gid acc then .hold s else
    let sec := sectorOf key
    let cl := s.clusterOf gid
    let own := r.image sec
    let reading := own.isNone
    let newRead := reading && !r.reads.contains sec
    let newWrite := wr.isSome && own.isNone
    if s.homeDie r.die key ≠ r.die then .abort rgNonlocal
    else if (newRead && decide (512 ≤ r.reads.length)) || (newWrite && decide (256 ≤ r.writes.length))
        || (newWrite && decide (32768 ≤
          (s.regions.filter fun x => x.die == r.die).foldl (fun n x => n + x.writes.length) 0)) then
      .abort rgCapacity
    else
      let from? := if reading then s.lastWriter sec else none
      let fwd := match from? with
        | some (w, _) => [w]
        | none => []
      let since := match own with
        | some i => i.stamp
        | none => 0
      let readers := if wr.isSome then
          (s.regions.filter fun x => x.gid != gid && x.die == r.die &&
            (match aget x.readAt sec with
              | some t => decide (since ≤ t)
              | none => false)).map (·.gid)
        else []
      let known := fwd.all fun w => s.edges.contains ⟨w, gid, .forward⟩
      if !known && fwd.any fun w =>
          decide (4 < chainIn s.edges 6 w + 1 + chainOut s.edges 6 gid) then s.waitOn gid acc fwd
      else if (fwd ++ readers).any fun x => s.reaches gid x then .abort rgCycle
      else
        let others := (s.regions.filter fun x => x.gid != gid && x.holds sec).map (·.gid)
        let dirty := !(s.dirtyClusters (· == sec)).isEmpty || (newRead && !(s.underWay cl (· == sec)).isEmpty)
        if dirty && !others.isEmpty then s.waitOn gid acc others
        else if s.channelShut key ||
            (newRead && dirty && (s.ownedLine (sec / 4) || s.regionRecallWaits cl sec)) then .hold s
        else
          let s1 := if newRead then s.recallSectors (· == sec) else s
          let s2 := s1.modMem fun m => { m with moving := adel m.moving (s.rowOfKey key) }
          let s3 := fwd.foldl (fun a w => a.addEdge ⟨w, gid, .forward⟩) s2
          let s4 := readers.foldl (fun a x => a.addEdge ⟨x, gid, .order⟩) s3
          let raw := match own, from? with
            | some i, _ => i.bytes
            | none, some (_, i) => i.bytes
            | none, none => s2.homeSector sec
          let seen := s2.see (s2.imageByte sec raw) ((List.range 64).map fun i => 64 * sec + i)
          let pt := s4.nextId + 1
          let s5 := { s4 with nextId := pt }
          let s6 := if reading then
              s5.modRegion gid fun x =>
                { x with reads := insNum x.reads sec, readAt := aput x.readAt sec pt }
            else s5
          match wr with
          | none => .ok s6 seen
          | some f =>
            let new := f seen
            let x := s2.sealData (s2.imageByte sec raw) false new
            let put := x.1
            let bytes := (s2.sectorKeys sec).zipWith (fun k b =>
              put.foldl (fun x d => if d.1 = k then d.2 else x) b) raw
            let mask := new.foldl (fun m d => m ||| regSet 64 (d.1 % 64) 1) (match own with
              | some i => i.mask
              | none => 0)
            .ok ((s6.failTags x.2).modRegion gid fun x =>
              { x with writes := ⟨sec, bytes, mask, pt⟩ :: x.writes.filter fun i => i.sector != sec })
              seen

/-! ### Ends of a region -/

/-- Regions that have asked to commit and into which no edge leads any more are ready from this point on
(R227). -/
def State.markReady (s : State) : State :=
  let free (r : Region) : Bool := r.fend.isSome && r.ready.isNone && s.edges.all fun e => e.dst != r.gid
  if s.regions.any free then
    { s with
      regions := s.regions.map fun r => if free r then { r with ready := some s.nextId } else r
      nextId := s.nextId + 1 }
  else s

/-- A region leaves its unit: its buffer is discarded, its edges are removed, its slot is free. -/
def State.closeRegion (s : State) (gid : Nat) : State :=
  ({ s with
    regions := s.regions.filter fun r => r.gid != gid
    edges := s.edges.filter fun e => e.src != gid && e.dst != gid } : State).markReady

/-- A producer of a group whose region has ended: its atomics that waited in the unit are not performed, and it
completes for the restoration that follows (R229). -/
def Fill.dropAtoms (f : Fill) : Fill :=
  match f.kind with
  | .atm _ _ true => { f with items := f.items.map fun i =>
      match i.loc, i.got with
      | .tab _, none => { i with got := some (List.replicate i.len 0, false) }
      | _, _ => i }
  | _ => f

/-- The mark that a group's register state is to be restored (R229), with its new region status. -/
def State.dropRegion (s : State) (gid code : Nat) : State :=
  match s.regionOf gid with
  | none => s
  | some r =>
    let s0 := s.closeRegion gid
    let s1 : State := { s0 with fills := s0.fills.map fun f => if f.gid = gid then f.dropAtoms else f }
    { (s1.modGroup gid fun g => g.abortStatus code) with restores := aput s1.restores gid r.snap }

/-- An abort and the aborts that follow from it along forwarding edges (R228): `n` bounds their
depth. -/
def State.abortFrom (s : State) : Nat → Nat → Nat → State
  | 0, gid, code => s.dropRegion gid code
  | n + 1, gid, code =>
    let next := (s.edges.filter fun e => e.src == gid && e.kind == .forward).map (·.dst)
    next.foldl (fun a d => a.abortFrom n d rgSource) (s.dropRegion gid code)

/-- The region of a group aborts with a code (R228). A forwarding chain has at most 4 edges (R226). -/
def State.abortRegion (s : State) (gid code : Nat) : State := s.abortFrom 4 gid code

/-- A group's registers as they stood at `fbeg` (R229). -/
def Group.restored (g snap : Group) : Group :=
  { g with
    v := snap.v
    g := snap.g
    emptyV := 0
    emptyG := 0
    poisonV := 0
    poisonG := snap.poisonG
    marks := snap.marks
    s0 := snap.s0
    s1 := snap.s1
    stack := snap.stack
    preds := snap.preds
    fpst := snap.fpst }

/-- The rows of which a region has written bytes (R30). -/
def State.rowsWritten (s : State) (r : Region) : List Nat :=
  s.rowsOf (r.writes.flatMap fun i =>
    ((List.range 64).filter fun b => i.mask.getLsbD b).map fun b => 64 * i.sector + b)

/-- The commit (R227): every sector of the write set applied at the home in one step, which covers its units whole
and clears their poison (R190), the versions advanced, the clean copies dropped, the slot freed. The clean copies of
the sectors read are dropped too, so that the group's later reads return nothing older (R143 item 4). -/
def State.commitRegion (s : State) (gid : Nat) : State :=
  match s.regionOf gid with
  | none => s
  | some r =>
    let written := r.writes.map (·.sector)
    let secs := written ++ r.reads
    let s1 := ((s.storeHome (r.writes.flatMap fun i => (s.sectorKeys i.sector).zip i.bytes)).modMem fun m =>
      { m with poison := m.poison.filter fun u => !written.contains (u / 2) }).bumpRows (s.rowsWritten r)
    ((s1.dropSectors (s.clusterOf gid) fun x => secs.contains x).closeRegion gid).modGroup gid
      fun g => { g with regCode := rgCommitted, regAborts := 0 }

end Sys2Proof.Machine
end

