-- ==== Sys2Proof/Machine/Ops.lean ====
section
/-! DEFINITION. The shared operations of the issuing slot: the end of an instruction, waits, the split
stack (R279, R280), the end of a group and of a team (R286, R312), taking a trap or a pre-emption and
the return from one (R322 to R328). -/

namespace Sys2Proof.Machine

/-! ### How an instruction ends -/

/-- How the meaning of an instruction word ends: its effect is taken, it traps, it traps in a state that
keeps a part of its work (`trapIn`), it is held back at its word, it has done a part of its work and goes
on at its word (`part`), or it aborts the group's open region. -/
inductive Res where
  | done (s : State)
  | trap (c : Cause) (detail : W32)
  | trapIn (s : State) (c : Cause) (detail : W32)
  | wait (s : State)
  | part (s : State)
  | abort (code : Nat)

/-- A slot whose word has been issued: its path moves on by `n` bytes. -/
def Slot.next (x : Slot) (n : Nat) : Slot :=
  { x with
    path := x.path.map fun p => { p with pc := p.pc + BitVec.ofNat 64 n }
    waiting := false
    releasing := none
    inQueue := none
    stage := 0
    pend := [] }

/-- The group whose issuing slot moves on by `n` bytes. -/
def Group.next (g : Group) (b : Bool) (n : Nat) : Group := g.setSlot b ((g.slot b).next n)

/-- The issuing slot moves on by `n` bytes. -/
def State.next (s : State) (n : Nat) : State := s.modGroup s.curG fun g => g.next s.curS n

/-- The group of the issuing slot. -/
def State.cur (s : State) : Group := s.group s.curG
/-- The state with the issuing group changed. -/
def State.modCur (s : State) (f : Group → Group) : State := s.modGroup s.curG f
/-- The issuing path. -/
def State.curPath (s : State) : Path := s.cur.path s.curS
/-- The launch of the issuing group. -/
def State.curLaunch (s : State) : Launch := s.launchOf s.curG
/-- The team of the issuing group. -/
def State.curTeam (s : State) : Team := s.team (teamOf s.curG)
/-- The cluster in which the slot issues. -/
def State.curCluster (s : State) : Nat := s.clusterOf s.curG
/-- The FMT fields that the issuing slot computes with (R85). -/
def State.curMode (s : State) : Mode := Mode.of s.curPath.fmt

/-- The issuing slot stays at its word, held back (R277). -/
def State.holdBack (s : State) : State :=
  s.modCur fun g => g.setSlot s.curS { g.slot s.curS with waiting := true }

/-- The issuing slot stands in a release (R148 step 2). -/
def State.releasing (s : State) : State :=
  s.modCur fun g =>
    let x := g.slot s.curS
    g.setSlot s.curS { x with releasing := some (x.releasing.getD s.nextId) }

/-- The issuing slot waits on a named queue (R293). -/
def State.queueing (s : State) (q : Nat) : State :=
  s.modCur fun g => g.setSlot s.curS { g.slot s.curS with inQueue := some q }

/-- How far the issuing word has come. -/
def State.setStage (s : State) (n : Nat) : State :=
  s.modCur fun g => g.setSlot s.curS { g.slot s.curS with stage := n }

/-! ### Producers under way -/

/-- The producers of a group that have not filled their registers. -/
def State.fillsOf (s : State) (gid : Nat) : List Fill := s.fills.filter fun f => f.gid == gid

/-- A producer that binds a read: a load, lookup, cursor step or returning atomic (R148 step 1). -/
def Fill.isRead (f : Fill) : Bool :=
  match f.kind with
  | .load .. | .trd .. | .tget .. | .tstp .. | .atm .. => true
  | .lnch .. | .call .. => false

/-- The reads of the issuing group that came before the issuing slot's release have bound (R148
step 1). -/
def State.readsBound (s : State) : Bool :=
  (s.fillsOf s.curG).all fun f => !f.isRead || decide ((s.cur.slot s.curS).releasing.getD s.nextId ≤ f.id)

/-- Dirty bytes that a cluster has written back are on their way to the home, whatever sent them (R160, R163). -/
def State.evicting (s : State) (cl : Nat) : Bool :=
  s.writes.any fun w => w.back && w.open_ && w.cluster == cl

/-- The issuing slot's release may be performed: its group's earlier reads have bound and %uwc is zero
(R148 steps 1 and 3). A release with observers beyond the team (`wide`) comes after the bytes that its
cluster has written back (R163). -/
def State.released (s : State) (wide : Bool) : Bool :=
  s.readsBound && s.cur.uwc == 0 && !(wide && s.evicting s.curCluster)

/-- A word that goes on once a release has been performed (R148). -/
def State.release (s : State) (wide : Bool) (k : Res) : Res :=
  if s.released wide then k else .wait s.releasing

/-- Counted writes must wait: the group's other slot stands in a release (R148 step 2) and the issuing
slot does not. Where both slots stand in a release whose access is counted, step 2 as written stalls each for the
other; here either may go on. DESIGN CHOICE. [A78] -/
def State.countHeld (s : State) : Bool :=
  (s.cur.slot (!s.curS)).releasing.isSome && (s.cur.slot s.curS).releasing.isNone

/-- An acquire of the issuing slot has not completed: its later memory accesses do not issue (R149). -/
def State.acquiring (s : State) : Bool :=
  s.fills.any fun f => f.gid == s.curG && f.slot1 == s.curS && f.acq

/-- A word that accesses memory waits for its slot's acquires (R149). -/
def State.ordered (s : State) (k : Res) : Res := if s.acquiring then .wait s else k

/-- A group's own stores and team-scope atomics to chosen sectors are on their way to its cluster's copy:
they come before what it does there later (R143). -/
def State.softPending (s : State) (gid : Nat) (p : Nat → Bool) : Bool :=
  (s.writes.any fun w => w.gid == gid && w.kind == .l1 && w.sectors.any p) ||
    (s.fillsOf gid).any fun f =>
      match f.kind with
      | .atm _ _ home => f.items.any fun i =>
          i.got.isNone && !i.loc.isSpad && !(home && i.loc.isTab) &&
            (i.loc.keys i.len).any fun k => p (sectorOf k)
      | _ => false

/-! ### The split stack -/

/-- The most recently pushed path entry of a stack, and the stack without it (R280). -/
def lastPath : List StackEntry → Option (Path × List StackEntry)
  | [] => none
  | e :: r =>
    match lastPath r, e with
    | some (p, r'), _ => some (p, e :: r')
    | none, .park p => some (p, r)
    | none, .join .. => none

/-- One step of `fill()`: the most recently pushed path entry moves into a free slot, S0 before S1. -/
def Group.fillOne (g : Group) : Group :=
  match lastPath g.stack with
  | none => g
  | some (p, r) =>
    if g.s0.path.isNone then { g with s0 := { Slot.free with path := some p }, stack := r }
    else if g.s1.path.isNone then { g with s1 := { Slot.free with path := some p }, stack := r }
    else g

/-- `fill()` (R280). -/
def Group.refill (g : Group) : Group := g.fillOne.fillOne

/-- The join entry with a number. -/
def Group.join? (g : Group) (n : Nat) : Option (Path × LaneSet) :=
  g.stack.findSome? fun e =>
    match e with
    | .join m p arr => if m = n then some (p, arr) else none
    | .park _ => none

/-- The stack without the join entry of a number. -/
def Group.dropJoin (g : Group) (n : Nat) : Group :=
  { g with stack := g.stack.filter fun e =>
      match e with
      | .join m _ _ => m != n
      | .park _ => true }

/-- The group holds a live or parked path (R286). -/
def Group.hasPath (g : Group) : Bool :=
  g.s0.path.isSome || g.s1.path.isSome || (lastPath g.stack).isSome

/-! ### The end of a group and of a team -/

/-- Nothing that a group has started is outstanding: matrix operations, copies, gathers, fills and
replies, counted writes (R286). -/
def State.quiet (s : State) (gid : Nat) : Bool :=
  s.mats.all (fun m => m.gid != gid) && s.copies.all (fun c => c.gid != gid) &&
    s.gathers.all (fun g => g.gid != gid) && (s.fillsOf gid).isEmpty && (s.group gid).uwc == 0

/-- The private window of a group, as a range of keys (R29). -/
def State.windowKeys (s : State) (gid : Nat) : Option (Nat × Nat) :=
  (s.group gid).window.map fun w =>
    (privBase + launchOfTeam (teamOf gid) * 2 ^ 42 + w * 0x6000000, 0x6000000)

/-- A group ends: its private lines are dropped and its window is given up (R29, R286). -/
def State.endGroup (s : State) (gid : Nat) : State :=
  let s1 := match s.windowKeys gid with
    | some (lo, n) => s.modMem fun m =>
        { m with l1 := m.l1.filter fun e => !(lo ≤ keyOfCopy e.1 && keyOfCopy e.1 < lo + n) }
    | none => s
  s1.modGroup gid fun g => { g with status := .ended, window := none, s0 := Slot.free, s1 := Slot.free }

/-- The child launches of a team have completed (R296). -/
def State.childrenDone (s : State) (t : Team) : Bool :=
  t.children.all fun c => (s.launch c).phase == .ended

/-- Every group of a team has ended. -/
def State.teamEnded (s : State) (t : Nat) : Bool :=
  (List.range (s.team t).groups).all fun i => (s.group (16 * t + i)).status == .ended

/-- A team's place is scrubbed (R312): scratchpad, tiles, barriers, queues and ring. -/
def Team.scrub (t : Team) : Team :=
  { t with
    spad := []
    spadPoison := []
    tiles := []
    tilePoison := []
    bars := []
    queues := []
    ring := none
    resident := false }

/-- A team retires (R16 step 8, R312). -/
def State.retireTeam (s : State) (t : Nat) : State :=
  let s1 := { s with groups := s.groups.filter fun g => teamOf g.1 != t }
  let s2 := s1.modTeam t fun x => { x.scrub with retired := true, children := [] }
  s2.modLaunch (launchOfTeam t) fun l => { l with retiredTeams := l.retiredTeams + 1 }

/-- Every group of a team has ended or has yielded (R330). -/
def State.teamOut (s : State) (t : Nat) : Bool :=
  (List.range (s.team t).groups).all fun i =>
    (s.group (16 * t + i)).status == .ended || (s.group (16 * t + i)).status == .yielded

/-- A team leaves its core after its last `yieldp` (R330, R312): its scratchpad and tiles are overwritten;
its barriers, queues and ring travel with it (R331). -/
def Team.leave (t : Team) : Team :=
  { t with
    spad := []
    spadPoison := []
    tiles := []
    tilePoison := []
    resident := false
    signalAt := none
    lastCluster := clusterOfCore t.core }

/-- A team is out: it has been placed, has left and has not retired (R272). -/
def Team.isOut (t : Team) : Bool := !t.resident && !t.retired

/-- The teams of a launch that are out, by their keys. -/
def State.outTeams (s : State) (l : Nat) : List Nat :=
  (s.teams.filter fun t => launchOfTeam t.1 == l && t.2.isOut).map (·.1)

/-- A launch has an unplaced unit (R263, R268, R272). -/
def State.unplaced (s : State) (l : Nat) : Bool :=
  decide ((s.launch l).nextTeam < (s.launch l).teams) || !(s.outTeams l).isEmpty

/-- The aging clock of a launch stops when its last unit has been placed, and goes on when a unit is out
(R263). -/
def State.ageSwitch (s : State) (l : Nat) : State :=
  s.modLaunch l fun x => { x with ageFrom := s.now - x.ageFrom }

/-- A team leaves; its launch has an unplaced unit from now on. -/
def State.leaveTeam (s : State) (t : Nat) : State :=
  let l := launchOfTeam t
  let s1 := if s.unplaced l then s else s.ageSwitch l
  s1.modTeam t Team.leave

/-- A team whose groups have ended and whose children have completed retires; one whose live groups have
all yielded leaves, and so does one that has none when it is pre-empted (R276). -/
def State.settleTeam (s : State) (t : Nat) : State :=
  let x := s.team t
  if !x.resident || x.retired then s
  else if s.teamEnded t then
    (if s.childrenDone x then s.retireTeam t else if x.signalAt.isSome then s.leaveTeam t else s)
  else if s.teamOut t then s.leaveTeam t
  else s

/-- A group that has exited ends once nothing of it is outstanding; its team may retire then. -/
def State.settleExit (s : State) (gid : Nat) : State :=
  if (s.group gid).status == .draining && s.quiet gid then (s.endGroup gid).settleTeam (teamOf gid)
  else s

/-! ### Frames (R325) -/

/-- The bytes of a doubleword. -/
def dwBytes (x : W64) : List Byte := leBytes 8 x.toNat
/-- The bytes of a lane word. -/
def wBytes (x : W32) : List Byte := leBytes 4 x.toNat
/-- Doubleword `i` of a list of bytes. -/
def dwOf (b : List Byte) (i : Nat) : W64 := BitVec.ofNat 64 (leNat ((b.drop (8 * i)).take 8))
/-- Lane word at a byte offset of a list of bytes. -/
def wOf (b : List Byte) (off : Nat) : W32 := BitVec.ofNat 32 (leNat ((b.drop off).take 4))

/-- A slot record of a frame, as six doublewords. What the record of a slot without a path holds beside
LIVE = 0 is not stated; here it is zero. DESIGN CHOICE. [A71] -/
def slotRecord (x : Slot) : List W64 :=
  match x.path with
  | none => List.replicate 6 0
  | some p =>
    let rj := p.rj.getD (0, 0)
    [p.pc, rj.1, p.mask.setWidth 64, p.lanes.setWidth 64,
      BitVec.ofNat 64 (p.lanes.toNat / 2 ^ 64 * 2 ^ 32 + p.mask.toNat / 2 ^ 64),
      BitVec.ofNat 64 (bnat p.rj.isSome * 2 ^ 33 + 2 ^ 32 + p.pd % 16 * 2 ^ 28 +
        rj.2 % 2 ^ 12 * 2 ^ 16 + p.fmt.toNat)]

/-- The path that a slot record holds, and whether its LIVE bit is set. Bit 9 of FMT is reserved: it stays
zero (R3, R85). -/
def recordPath (b : List Byte) (i : Nat) : Bool × Path :=
  let f := dwOf b (i + 5)
  let x := dwOf b (i + 4)
  (flag f 32,
    { pc := dwOf b i
      mask := BitVec.ofNat 96 (field x 0 32 * 2 ^ 64 + (dwOf b (i + 2)).toNat)
      lanes := BitVec.ofNat 96 (field x 32 32 * 2 ^ 64 + (dwOf b (i + 3)).toNat)
      fmt := BitVec.ofNat 14 (field f 0 14) &&& 0x3DFF
      rj := if flag f 33 then some (dwOf b (i + 1), field f 16 12) else none
      pd := field f 28 4 })

/-- The predicate byte of a lane. -/
def Group.predByte (g : Group) (l : Nat) : Byte :=
  BitVec.ofNat 8 ((List.range 8).foldl
    (fun x i => x + bnat ((g.preds.getD i 0).getLsbD l) * 2 ^ i) 0)

/-- A frame's 1,024 bytes. -/
def Group.frame (g : Group) (e : Entering) (under : Bool) : List Byte :=
  let dw0 := BitVec.ofNat 64 (e.detail.toNat * 2 ^ 32 + bnat under * 2 ^ 16 + e.code % 256 * 2 ^ 8 +
    (if e.pre then 2 else 1))
  ([dw0, e.fword] ++ slotRecord g.s0 ++ slotRecord g.s1 ++
      (List.range 4).map (g.gval false)).flatMap dwBytes ++
    laneNums.map g.predByte ++
    dwBytes (BitVec.ofNat 64 g.stack.length) ++ dwBytes 0 ++
    laneNums.flatMap (fun l => wBytes (g.vval 0 l)) ++ laneNums.flatMap (fun l => wBytes (g.vval 1 l))

/-- The handle of byte 0 of a team's save row. -/
def State.saveRow (s : State) (t : Nat) : Nat :=
  let l := s.launch (launchOfTeam t)
  l.save * 2 ^ 42 + (s.team t).idx * (s.table l.save).rowSize

/-- The handle of byte 0 of a group's trap or pre-emption frame. -/
def State.frameKey (s : State) (gid : Nat) (pre : Bool) : Nat :=
  s.saveRow (teamOf gid) + 2048 * groupIdx gid + (if pre then 1024 else 0)

/-- The sectors of a frame. -/
def frameSectors (key : Nat) : List Nat := (List.range 16).map fun i => key / 64 + i

/-- An access of a cluster to chosen sectors at the home, made within a word, must wait: an earlier request of
the cluster or of its die to one of them is under way (R143, R170), or its channel is in broadcast mode
(R253). -/
def State.sectorsBusy (s : State) (cl : Nat) (secs : List Nat) : Bool :=
  (secs.any fun x => s.channelShut (64 * x)) ||
    s.writes.any fun w => w.spadOf.isNone && w.open_ && w.sectors.any secs.contains &&
      (w.cluster == cl || (w.gone && w.toHome && dieOfCluster w.cluster == dieOfCluster cl))

/-- A write of chosen sectors at the home, made within a word, must wait: a region or an engine holds one of
them (R179, R230), or as above. -/
def State.sectorsHeld (s : State) (cl : Nat) (secs : List Nat) : Bool :=
  s.sectorsBusy cl secs || secs.any fun x => s.regionHolds x || s.ownedLine (x / 4)

/-- Strong writes of whole sectors from a cluster, applied at once: the bytes reach the home and the
cluster's copy and the die's visitor bytes of the sectors are dropped (R325). -/
def State.writeThrough (s : State) (cl : Nat) (data : List (Nat × Byte)) : State :=
  let secs := sectorsOf data
  let s1 := s.applyHome data
  s1.modMem fun m =>
    { m with
      l1 := m.l1.filter fun e => !(ownerOfCopy e.1 == cl && secs.contains (sectorOf (keyOfCopy e.1)))
      vis := m.vis.filter fun e =>
        !(ownerOfCopy e.1 == dieOfCluster cl && secs.contains (sectorOf (keyOfCopy e.1))) }

/-! ### Handler entry (R323, R324) -/

/-- The entry state of a handler path (R324). -/
def Group.handler (g : Group) (pc : W64) (fmt : BitVec 14) (row key : Nat) (dw0 fword : W64) : Group :=
  let g0 := { g with s0 := { Slot.free with path := some { Path.start pc with fmt := fmt } }, s1 := Slot.free }
  let g1 := (((g0.setG false 0 (BitVec.ofNat 64 row)).setG false 1 (BitVec.ofNat 64 key)).setG false 2
    dw0).setG false 3 fword
  let at' (l : Nat) : W64 := BitVec.ofNat 64 (key + 256 + 4 * l)
  (g1.setV allLanes 0 fun l => lo32 (at' l)).setV allLanes 1 fun l => hi32 (at' l)

/-- A group halts (R326): it issues no instruction again, and the event is logged. -/
def State.halt (s : State) (gid code : Nat) (fword : W64) : State :=
  let l := s.launchOf gid
  let s1 := s.modGroup gid fun g => { g with status := .halted, entering := none }
  { s1 with stag := { s1.stag with faults := s1.stag.faults ++
      [.halted l.ten (launchOfTeam (teamOf gid)) (s.team (teamOf gid)).idx (groupIdx gid) code fword] } }

/-- The FMT with which a handler runs (R87, R324). -/
def Group.entryFmt (g : Group) (e : Entering) : BitVec 14 :=
  let b := if e.pre then g.s0.path.isNone else e.s1
  if (g.slot b).path.isSome then (g.path b).fmt else (g.path (!b)).fmt

/-- The live frames of a group: what it runs at, 0 outside every handler. -/
def Group.frames (g : Group) : Nat := bnat g.trapLive + bnat g.preLive

/-- A barrier wait below a number of live frames (R292): its word is interrupted, and the group may return to it. -/
def waitBelow (n : Nat) (w : Nat × W64 × Nat) : Bool := decide (w.1 / 96 < n)

/-- Steps 4 and 5 of R323: the frame is written and the handler path starts, or the group halts. -/
def State.enter (s : State) (gid : Nat) (e : Entering) : State :=
  let l := s.launchOf gid
  let g := s.group gid
  if !e.pre && (l.traph == 0 || g.trapLive) then s.halt gid e.code e.fword
  else
    let key := s.frameKey gid e.pre
    let under := if e.pre then g.trapLive else g.preLive
    let bytes := g.frame e under
    let s1 := s.writeThrough (s.clusterOf gid) (runOf key bytes)
    s1.modGroup gid fun g =>
      let h := g.handler (if e.pre then l.preh else l.traph) (g.entryFmt e) (s.saveRow (teamOf gid)) key
        (dwOf bytes 0) e.fword
      { h with
        entering := none
        trapLive := g.trapLive || !e.pre
        preLive := g.preLive || e.pre
        preLast := e.pre
        barWait := g.barWait.filter (waitBelow (g.frames + 1)) }

/-- A word of the group has begun and completes before a handler is entered (R218, R328). -/
def Group.midWord (g : Group) : Bool := g.s0.stage != 0 || g.s1.stage != 0

/-- The registers of an aborted region are restored (R229). -/
def State.restore (s : State) (gid : Nat) : State :=
  match aget s.restores gid with
  | none => s
  | some snap =>
    let s1 := { s with restores := adel s.restores gid }
    s1.modGroup gid fun g => g.restored snap

/-- A handler entry or the restoration after an abort takes place once every pending fill of the group
has completed (R323 step 3, R229), no word of it is half done and its frame's sectors are free. -/
def State.settle (s : State) (gid : Nat) : State :=
  let g := s.group gid
  if !(s.fillsOf gid).isEmpty || g.midWord then s
  else
    let s1 := s.restore gid
    match g.entering with
    | none => s1
    | some e =>
      if s1.sectorsHeld (s1.clusterOf gid) (frameSectors (s1.frameKey gid e.pre)) then s1
      else s1.enter gid e

/-- The registers that a group's queued matrix operations hold are released, and an `mmac` arrival that
waits is withdrawn (R63, R136, R323). -/
def State.releaseHeld (s : State) (gid : Nat) : State :=
  { s with
    mats := s.mats.map fun m => if m.gid = gid then { m with held := 0 } else m
    arrivals := s.arrivals.filter fun a => a.gid != gid }

/-- Both slots of a group stop at their words; a publication under way keeps what it has still to publish
(R176). -/
def Group.stopSlots (g : Group) : Group :=
  { g with
    s0 := { g.s0 with waiting := false, releasing := none, inQueue := none }
    s1 := { g.s1 with waiting := false, releasing := none, inQueue := none } }

/-- A trap or a pre-emption is taken by a group (R323 steps 1 and 2, R328): an open region aborts, and
the handler is entered at once when nothing is pending. -/
def State.takeEntry (s : State) (gid : Nat) (e : Entering) : State :=
  let s1 := if s.inRegion gid then s.abortRegion gid (if e.pre then rgPreempt else rgTrap) else s
  let s2 := (s1.releaseHeld gid).modGroup gid fun g =>
    { g.stopSlots with entering := some e, signal := g.signal && !e.pre }
  s2.settle gid

/-- A trap of the issuing slot (R322, R323): FWORD is the handle of its base word. -/
def State.takeTrap (s : State) (c : Cause) (detail : W32) : State :=
  (s.setStage 0).takeEntry s.curG ⟨s.curS, false, c.code, detail, s.curPath.pc⟩

/-- The region of a group aborts by its own access (R228, R229). -/
def State.abortNow (s : State) (gid code : Nat) : State :=
  (((s.abortRegion gid code).releaseHeld gid).modGroup gid Group.stopSlots).settle gid

/-- The issuing group's region aborts by its own word (R229). -/
def State.takeAbort (s : State) (code : Nat) : State := s.abortNow s.curG code

/-- The state after a word of the issuing slot. -/
def State.after (s : State) : Res → State
  | .done t => t
  | .trap c d => s.takeTrap c d
  | .trapIn t c d => t.takeTrap c d
  | .wait t => t.holdBack
  | .part t => t
  | .abort code => s.takeAbort code

/-- The outcome of a word: always a next state. -/
def State.finish (s : State) (r : Res) : Host.Outcome State Fault Refusal := .next (s.after r)

/-! ### Return from a handler (R327) -/

/-- The checks on a slot record. -/
def Group.recordOk (g : Group) (l : Launch) (r : Bool × Path) : Bool :=
  !r.1 || (r.2.mask &&& ~~~r.2.lanes == 0 && decide (r.2.pd ≤ 8) &&
    spaceOf r.2.pc == 0 && tidOf r.2.pc == l.codeTable && posOf r.2.pc % 4 == 0 &&
    (match r.2.rj with
      | some (_, n) => (g.join? n).isSome
      | none => true))

/-- A slot from a record. -/
def recordSlot (r : Bool × Path) : Slot := if r.1 then { Slot.free with path := some r.2 } else Slot.free

/-- The group restored from the bytes of a frame; the frame is no longer live. A barrier wait whose word the
group has left for good is forgotten; below an outer frame it may still return to it (R292). -/
def Group.fromFrame (g : Group) (b : List Byte) (pre : Bool) : Group :=
  let g0 := { g with
    s0 := recordSlot (recordPath b 2)
    s1 := recordSlot (recordPath b 8)
    preds := (List.range 8).map fun i => laneSet fun l => (b.getD (144 + l) 0).getLsbD i
    emptyG := g.emptyG &&& ~~~(regSet 136 120 3 ||| regSet 136 128 3)
    poisonG := g.poisonG &&& ~~~(regSet 136 120 3 ||| regSet 136 128 3)
    trapLive := g.trapLive && pre
    preLive := g.preLive && !pre
    preLast := g.preLive && !pre
    resuming := g.resuming && !pre }
  let g1 := (List.range 4).foldl (fun a i => a.setG false i (dwOf b (14 + i))) g0
  let g2 := ((g1.setV allLanes 0 fun l => wOf b (256 + 4 * l)).setV allLanes 1 fun l =>
    wOf b (640 + 4 * l)).refill
  { g2 with barWait := g2.barWait.filter fun w => waitBelow g2.frames w ||
      (w.1 / 96 == g2.frames && (g2.slot (w.1 % 2 == 1)).path.isSome &&
        (g2.path (w.1 % 2 == 1)).pc == w.2.1) }

/-- The frame that was written last, if one is live. -/
def Group.lastFrame (g : Group) : Option Bool :=
  if g.preLive && (g.preLast || !g.trapLive) then some true
  else if g.trapLive then some false
  else none

end Sys2Proof.Machine
end

