-- ==== Sys2Proof/Machine/Operands.lean ====
section
/-! DEFINITION. What an instruction reads and writes, and the checks that come before its own: steps 7
and 8 of R70, the waits of R61 to R63, the reply marks of R244 and the unsupported words of R221. -/

namespace Sys2Proof.Machine

/-- A register group: lane or uniform, first register, number of registers; for a source its W bit. -/
structure Opd where
  lane : Bool
  r : Nat
  n : Nat
  w : Bool

/-- A uniform source. -/
def sg (r : Reg) (w : Bool) : Opd := ⟨false, r.val, 1, w⟩
/-- A group of `n` uniform sources. -/
def sgs (r : Reg) (n : Nat) (w : Bool) : Opd := ⟨false, r.val, n, w⟩
/-- A lane source. -/
def sv (r : Reg) (w : Bool) : Opd := ⟨true, r.val, 1, w⟩
/-- A group of `n` lane sources. -/
def svs (r : Reg) (n : Nat) (w : Bool) : Opd := ⟨true, r.val, n, w⟩
/-- A uniform destination. -/
def dg (r : Reg) : Opd := ⟨false, r.val, 1, false⟩
/-- A group of uniform destinations. -/
def dgs (r : Reg) (n : Nat) : Opd := ⟨false, r.val, n, false⟩
/-- A lane destination. -/
def dv (r : Reg) : Opd := ⟨true, r.val, 1, false⟩
/-- A group of lane destinations. -/
def dvs (r : Reg) (n : Nat) : Opd := ⟨true, r.val, n, false⟩

/-- The operands of a word: sources in the order A, B, C, destinations, and whether it reads the mask
registers implicitly (R56). -/
structure Uses where
  srcs : List Opd
  dsts : List Opd
  masks : Bool

/-- The registers of an operand. -/
def Opd.regs (o : Opd) : List Nat := (List.range o.n).map fun i => o.r + i

/-- A register of the operand has its bit set in one of two sets: `mv` for lane registers, `mg` for
uniform registers. -/
def Opd.any (o : Opd) (b : Bool) (mv : BitVec 128) (mg : BitVec 136) : Bool :=
  o.regs.any fun r => if o.lane then bitOn mv r else bitOn mg (gBit b r)

/-- The implicit mask registers as an operand (R56). -/
def maskOpd : Opd := ⟨false, 120, 3, false⟩

/-- The sources of a word with the implicit ones. -/
def Uses.all (u : Uses) : List Opd := u.srcs ++ (if u.masks then [maskOpd] else [])

/-- The registers that queued matrix operations of a group hold (R63). -/
def State.heldOf (s : State) (gid : Nat) : BitVec 128 :=
  s.mats.foldl (fun m x => if x.gid = gid then m ||| x.held else m) 0

/-- The first reply mark whose group a source names (R244). -/
def Group.markHit (g : Group) (os : List Opd) : Option Mark :=
  g.marks.find? fun m => os.any fun o =>
    o.lane == m.lane && decide (o.r ≤ m.d + m.nr) && decide (m.d < o.r + o.n)

/-- The faulted status of a marked group: for a lane group, that of its lowest faulted lane. -/
def Group.markStatus (g : Group) (m : Mark) : W32 :=
  if m.lane then
    match laneNums.find? fun l => (g.vval m.d l).toNat % 256 == 1 with
    | some l => g.vval m.d l
    | none => g.vval m.d 0
  else lo32 ((aget g.g m.d).getD 0)

/-- Steps 7 and 8 of R70 and the waits of R61 to R63; none when the word may go on. The REMOTE_FAULT of R244,
which R70 gives no place, comes after the waits for full sources and before POISON. The wait for an empty or held
destination (R62, R63), which R70 gives no place either, comes after POISON of step 8 and before the own checks of
step 9. DESIGN CHOICE. [A70] -/
def State.gate (s : State) (u : Uses) : Option Res :=
  let g := s.cur
  let b := s.curS
  if (u.srcs ++ u.dsts).any fun o => o.lane && decide (s.curLaunch.rpl < o.r + o.n) then
    some (.trap .access 0)
  else if u.srcs.any fun o => o.w && o.any b g.emptyV g.emptyG then some (.trap .emptyRead 0)
  else if u.all.any fun o => o.any b g.emptyV g.emptyG then some (.wait s)
  else
    match g.markHit u.all with
    | some m => some (.trap .remoteFault (g.markStatus m))
    | none =>
      if u.all.any fun o => o.any b g.poisonV g.poisonG then some (.trap .poison 0)
      else if u.dsts.any fun o => o.any b (g.emptyV ||| s.heldOf s.curG) g.emptyG then some (.wait s)
      else none

/-- A word whose operands pass goes on with its own effect. -/
def State.gated (s : State) (u : Uses) (k : Res) : Res :=
  match s.gate u with
  | some r => r
  | none => k

/-- A word that an open region does not support aborts it, before its effect (R221). -/
def State.outside (s : State) (k : Res) : Res :=
  if s.inRegion s.curG then .abort rgUnsupported else k

/-- Check a condition of a word or trap. -/
def check (c : Bool) (r : Cause) (k : Res) : Res := if c then k else .trap r 0

/-! ### Register results -/

/-- A lane result: each active lane's word and flags; the word is `n` bytes long. -/
def State.laneResult (s : State) (np : Bool) (d : Reg) (n : Nat) (f : Nat → W32 × Flags) : State :=
  let act := s.cur.active s.curS np
  (s.modCur fun g =>
    (g.setV act d.val fun l => (f l).1).raise (orFlags ((lanesOf act).map fun l => (f l).2))).next n

/-- A lane instruction that computes a word in each active lane. -/
def State.laneOp (s : State) (u : Uses) (np : Bool) (d : Reg) (n : Nat) (f : Group → Nat → W32 × Flags) :
    Res :=
  s.gated u (.done (s.laneResult np d n (f s.cur)))

/-- A lane instruction of one source. -/
def State.lane1 (s : State) (d a : Reg) (wa np : Bool) (n : Nat) (f : W32 → W32 × Flags) : Res :=
  s.laneOp ⟨[sv a wa], [dv d], true⟩ np d n fun g l => f (g.vval a.val l)

/-- A lane instruction of two sources. -/
def State.lane2 (s : State) (d a b : Reg) (wa wb np : Bool) (n : Nat) (f : W32 → W32 → W32 × Flags) :
    Res :=
  s.laneOp ⟨[sv a wa, sv b wb], [dv d], true⟩ np d n fun g l => f (g.vval a.val l) (g.vval b.val l)

/-- A lane instruction of three sources. -/
def State.lane3 (s : State) (d a b c : Reg) (wa wb wc np : Bool) (n : Nat)
    (f : W32 → W32 → W32 → W32 × Flags) : Res :=
  s.laneOp ⟨[sv a wa, sv b wb, sv c wc], [dv d], true⟩ np d n fun g l =>
    f (g.vval a.val l) (g.vval b.val l) (g.vval c.val l)

/-- An integer lane result, which raises no flag. -/
def plain (x : W32) : W32 × Flags := (x, 0)

/-- A uniform result with its flags. -/
def State.uniResult (s : State) (d : Reg) (n : Nat) (x : W64 × Flags) : State :=
  (s.modCur fun g => (g.setG s.curS d.val x.1).raise x.2).next n

/-- A uniform instruction of one source. -/
def State.uni1 (s : State) (d a : Reg) (wa : Bool) (n : Nat) (f : W64 → W64 × Flags) : Res :=
  s.gated ⟨[sg a wa], [dg d], false⟩ (.done (s.uniResult d n (f (s.cur.gval s.curS a.val))))

/-- A uniform instruction of two sources. -/
def State.uni2 (s : State) (d a b : Reg) (wa wb : Bool) (n : Nat) (f : W64 → W64 → W64 × Flags) : Res :=
  s.gated ⟨[sg a wa, sg b wb], [dg d], false⟩
    (.done (s.uniResult d n (f (s.cur.gval s.curS a.val) (s.cur.gval s.curS b.val))))

/-- A uniform instruction of three sources. -/
def State.uni3 (s : State) (d a b c : Reg) (wa wb wc : Bool) (n : Nat)
    (f : W64 → W64 → W64 → W64 × Flags) : Res :=
  s.gated ⟨[sg a wa, sg b wb, sg c wc], [dg d], false⟩
    (.done (s.uniResult d n
      (f (s.cur.gval s.curS a.val) (s.cur.gval s.curS b.val) (s.cur.gval s.curS c.val))))

/-- A uniform integer result. -/
def plain64 (x : W64) : W64 × Flags := (x, 0)

end Sys2Proof.Machine
end

