-- ==== Sys2Proof/Machine/Control.lean ====
section
/-! DEFINITION. Control, divergence and group state (R278 to R289): branches, splits and arrivals, the
predicate stack, FMT and the special registers, `wfull`, `trap` and `exit`. -/

namespace Sys2Proof.Machine

/-! ### Branches (R282) -/

/-- The target of a branch: PC + 4 × sext(offset, 64). -/
def branchTo (pc : W64) (off : BitVec 16) : W64 := pc + off.signExtend 64 * 4

/-- The issuing path goes on at another word. -/
def State.jump (s : State) (pc : W64) : State :=
  s.modCur fun g => (g.modPath s.curS fun p => { p with pc := pc }).next s.curS 0

/-- The checks on a jump target held in a register, and the jump. -/
def State.jumpTo (s : State) (a : Reg) (wa : Bool) : Res :=
  s.gated ⟨[sg a wa], [], false⟩ <|
    let h := s.cur.gval s.curS a.val
    check (spaceOf h == 0 && tidOf h == s.curLaunch.codeTable) .handleFault <|
    check (posOf h % 4 == 0) .align <|
    .done (s.jump h)

/-- `nop` (R285). -/
def execNop (s : State) : Host.Outcome State Fault Refusal := s.finish (.done (s.next 4))

/-- `br` (R282). -/
def execBr (toff : BitVec 16) (s : State) : Host.Outcome State Fault Refusal :=
  s.finish (.done (s.jump (branchTo s.curPath.pc toff)))

/-- `call` (R282). -/
def execCall (d : Reg) (toff : BitVec 16) (s : State) : Host.Outcome State Fault Refusal :=
  s.finish <| s.gated ⟨[], [dg d], false⟩ <|
    let pc := s.curPath.pc
    .done ((s.modCur fun g => g.setG s.curS d.val (pc + 8)).jump (branchTo pc toff))

/-- `ret` (R282). -/
def execRet (a : Reg) (wa : Bool) (s : State) : Host.Outcome State Fault Refusal := s.finish (s.jumpTo a wa)

/-- `jmp` (R282). -/
def execJmp (a : Reg) (wa : Bool) (s : State) : Host.Outcome State Fault Refusal := s.finish (s.jumpTo a wa)

/-! ### Splits and arrivals -/

/-- The numbers of the join entries of a stack. -/
def joinNums (st : List StackEntry) : List Nat :=
  st.filterMap fun e =>
    match e with
    | .join n _ _ => some n
    | .park _ => none

/-- The lowest number from `n` on that no entry of a list holds (R279). -/
def freeNum (used : List Nat) : Nat → Nat → Nat
  | 0, n => n
  | k + 1, n => if used.contains n then freeNum used k (n + 1) else n

/-- The number that the next join entry takes. -/
def Group.nextJoin (g : Group) : Nat := freeNum (joinNums g.stack) g.stack.length 0

/-- The lanes of the issuing path on which a condition register is nonzero: the set T of R283. -/
def Group.takenLanes (g : Group) (b n : Bool) (a : Nat) : LaneSet :=
  g.active b n &&& laneSet fun l => g.vval a l != 0

/-- A split of the issuing path (R283). -/
def Group.split (g : Group) (b : Bool) (t : LaneSet) (target rejoin : W64) : Group :=
  let p := g.path b
  let num := g.nextJoin
  let entry := StackEntry.join num { p with pc := rejoin } 0
  let taken : Path := ⟨target, t, t, p.fmt, some (rejoin, num), p.pd⟩
  let rest : Path := { p with
    pc := p.pc + 8
    lanes := p.lanes &&& ~~~t
    mask := p.mask &&& ~~~t
    rj := some (rejoin, num) }
  let g1 := ({ g with stack := g.stack ++ [entry] }.setPath b rest).next b 0
  if (g.slot (!b)).path.isNone then g1.setSlot (!b) { Slot.free with path := some taken }
  else { g1 with stack := g1.stack ++ [.park taken] }

/-- `brc` (R283). It reads mk0–mk2 as implicit sources, as a lane instruction does: it waits for them and
takes their POISON. DESIGN CHOICE: R56 states this of lane instructions alone. [A69] -/
def execBrc (a : Reg) (wa n : Bool) (toff joff : BitVec 16) (s : State) :
    Host.Outcome State Fault Refusal :=
  s.finish <| s.gated ⟨[sv a wa], [], true⟩ <|
    let g := s.cur
    let pc := s.curPath.pc
    let t := g.takenLanes s.curS n a.val
    if t = 0 then .done (s.next 8)
    else if t = g.active s.curS n then .done (s.jump (branchTo pc toff))
    else
      let more := 1 + bnat (g.slot (!s.curS)).path.isSome
      check (decide (g.stack.length + more ≤ 4096)) .splitOvf <|
      .done (s.modCur fun g => g.split s.curS t (branchTo pc toff) (branchTo pc joff))

/-- A slot that a completed join entry takes (R280). -/
def joinSlot (p : Path) : Slot := { Slot.free with path := some p }

/-- The arrival of a path of the join entry `num`, whose continuation and arrived lanes are given. -/
def Group.arrive (g : Group) (b : Bool) (num : Nat) (cont : Path) (arr : LaneSet) : Group :=
  let now := arr ||| (g.path b).lanes
  if now = cont.lanes then ((g.dropJoin num).setSlot b (joinSlot cont)).refill
  else
    ({ g with stack := g.stack.map fun (e : StackEntry) =>
        match e with
        | .join m q x => StackEntry.join m q (if m = num then now else x)
        | .park q => StackEntry.park q }.setSlot b Slot.free).refill

/-- `arrive` of R280, for slot `slot` of a group whose path stands at its rejoin word. -/
def execPathArrive (gid slot : Nat) (s : State) : Host.Outcome State Fault Refusal :=
  let b := slot == 1
  let s1 := { s with curG := gid, curS := b }
  match (s1.cur.slot b).path with
  | none => .next s
  | some p =>
    match p.rj with
    | none => .next s
    | some (addr, num) =>
      if p.pc ≠ addr then .next s
      else
        match s1.cur.join? num with
        | none => .next s
        | some (cont, arr) =>
          if p.pd ≠ cont.pd then .next (s1.takeTrap .predOvf 0)
          else .next (s1.modCur fun g => g.arrive b num cont arr)

/-! ### The predicate stack (R284) -/

/-- One predicate level of the issuing path's lanes set. -/
def Group.setLevel (g : Group) (lanes : LaneSet) (i : Nat) (x : LaneSet) : Group :=
  { g with preds := setAt g.preds i ((g.preds.getD i 0 &&& ~~~lanes) ||| (x &&& lanes)) }

/-- `pdp` (R284). -/
def execPdp (a : Reg) (wa n : Bool) (s : State) : Host.Outcome State Fault Refusal :=
  s.finish <| s.gated ⟨[sv a wa], [], false⟩ <|
    let p := s.curPath
    check (decide (p.pd < 8)) .predOvf <|
    .done ((s.modCur fun g =>
      (g.setLevel p.lanes p.pd ((if n then allLanes else g.top p) &&& laneSet fun l =>
        g.vval a.val l != 0)).setPath s.curS { p with pd := p.pd + 1 }).next 4)

/-- `pdi` (R284). -/
def execPdi (s : State) : Host.Outcome State Fault Refusal :=
  s.finish <|
    let p := s.curPath
    check (decide (0 < p.pd)) .predOvf <|
    .done ((s.modCur fun g =>
      g.setLevel p.lanes (p.pd - 1) (~~~(g.top p) &&& g.top { p with pd := p.pd - 1 })).next 4)

/-- `pdo` (R284). -/
def execPdo (s : State) : Host.Outcome State Fault Refusal :=
  s.finish <|
    let p := s.curPath
    check (decide (0 < p.pd)) .predOvf <|
    .done ((s.modCur fun g => g.setPath s.curS { p with pd := p.pd - 1 }).next 4)

/-! ### Group state (R285 to R289) -/

/-- `fmts` (R85, R288). -/
def execFmts (img : BitVec 14) (s : State) : Host.Outcome State Fault Refusal :=
  s.finish (.done ((s.modCur fun g => g.modPath s.curS fun p => { p with fmt := img }).next 8))

/-- The value of special register `sp`, %lane apart (R58, R59). -/
def State.special (s : State) (sp : Nat) : W64 :=
  let g := s.cur
  let t := s.curTeam
  match sp with
  | 1 => BitVec.ofNat 64 (groupIdx s.curG)
  | 2 => BitVec.ofNat 64 t.idx
  | 3 => BitVec.ofNat 64 (t.launch % 2 ^ 32)
  | 4 => BitVec.ofNat 64 (t.core % 16)
  | 5 => BitVec.ofNat 64 (t.core / 16 % 10)
  | 6 =>
    let d := dieOfCore t.core
    BitVec.ofNat 64 (d % 4 + d % 2 * 2 ^ 8 + d / 2 % 2 * 2 ^ 16)
  | 7 => g.fpst.setWidth 64
  | 8 => bit64 (s.core t.core).narrow
  | 9 => BitVec.ofNat 64 g.uwc
  | 10 => BitVec.ofNat 64 (g.pch * 2 ^ 13 + g.busy)
  | 11 => g.rcto.setWidth 64
  | _ => s.curPath.fmt.setWidth 64

/-- `gsr` (R58, R288). R56 gives the implicit sources mk0 to mk2 to lane instructions; `gsr %lane`, a uniform word that
writes the active lanes, has them here too. DESIGN CHOICE. [A69] -/
def execGsr (d sp : Reg) (s : State) : Host.Outcome State Fault Refusal :=
  s.finish <|
    if sp.val = 0 then
      s.gated ⟨[], [dv d], true⟩ (.done (s.laneResult false d 4 fun l => plain (BitVec.ofNat 32 l)))
    else
      s.gated ⟨[], [dg d], false⟩ (.done (s.uniResult d 4 (plain64 (s.special sp.val))))

/-- The write of a special register (R59, R85). For %rcto the value compared with 4,096 is bits [31:0] of
the source, the width of the register; the higher bits are not looked at. DESIGN CHOICE. [A69] -/
def Group.setSpecial (g : Group) (b : Bool) (sp : Nat) (x : W64) : Group :=
  match sp with
  | 7 => { g with fpst := x.setWidth 5 }
  | 11 => { g with rcto := if (lo32 x).toNat < 4096 then 4096 else lo32 x }
  | _ => g.modPath b fun p => { p with fmt := x.setWidth 14 }

/-- `gssr` (R58, R85, R288). -/
def execGssr (sp a : Reg) (wa : Bool) (s : State) : Host.Outcome State Fault Refusal :=
  s.finish <|
    check (sp.val == 7 || sp.val == 11 || sp.val == 12) .priv <|
    s.gated ⟨[sg a wa], [], false⟩ <|
    let x := s.cur.gval s.curS a.val
    check (sp.val != 12 || fmtOk (x.setWidth 14)) .illegalOpcode <|
    .done ((s.modCur fun g => g.setSpecial s.curS sp.val x).next 4)

/-- `wfull` (R289). -/
def execWfull (lane : Bool) (a : Reg) (wa : Bool) (s : State) : Host.Outcome State Fault Refusal :=
  s.finish <|
    let o : Opd := ⟨lane, a.val, 1, wa⟩
    check (!lane || decide (a.val < s.curLaunch.rpl)) .access <|
    if o.any s.curS s.cur.emptyV s.cur.emptyG then (if wa then .trap .emptyRead 0 else .wait s)
    else .done (s.next 4)

/-- `trap` (R287): the frame records the PC after the extension word. -/
def execTrap (imm : W32) (s : State) : Host.Outcome State Fault Refusal :=
  .next ((s.next 8).takeEntry s.curG ⟨s.curS, false, Cause.user.code, imm, s.curPath.pc⟩)

/-! ### exit (R286) -/

/-- The join entries from a path up the chain of JN. -/
def joinChain (g : Group) : Nat → Option (W64 × Nat) → List Nat
  | 0, _ => []
  | _, none => []
  | k + 1, some (_, n) =>
    match g.join? n with
    | none => [n]
    | some (p, _) => n :: joinChain g k p.rj

/-- The exiting lanes are taken out of a join entry; an entry without lanes goes. -/
def Group.thin (g : Group) (n : Nat) (lanes : LaneSet) : Group :=
  match g.join? n with
  | none => g
  | some (p, _) =>
    if p.lanes &&& ~~~lanes = 0 then g.dropJoin n
    else
      { g with stack := g.stack.map fun (e : StackEntry) =>
          match e with
          | .join m q x =>
            if m = n then
              StackEntry.join m { q with lanes := q.lanes &&& ~~~lanes, mask := q.mask &&& ~~~lanes } x
            else StackEntry.join m q x
          | .park q => StackEntry.park q }

/-- A join entry all of whose lanes have arrived completes into a free slot. -/
def Group.completeJoin (g : Group) (b : Bool) (n : Nat) : Group :=
  match g.join? n with
  | none => g
  | some (p, arr) =>
    if arr = p.lanes ∧ (g.slot b).path.isNone then (g.dropJoin n).setSlot b (joinSlot p) else g

/-- The issuing path ends (R286 steps 1 to 4). -/
def Group.exitPath (g : Group) (b : Bool) : Group :=
  let p := g.path b
  let chain := joinChain g g.stack.length p.rj
  let g1 := chain.foldl (fun a n => a.thin n p.lanes) (g.setSlot b Slot.free)
  (chain.foldl (fun a n => a.completeJoin b n) g1).refill

/-- `exit` (R286): the group ends once it holds no path and nothing of it is outstanding. -/
def execExit (s : State) : Host.Outcome State Fault Refusal :=
  s.finish <| s.outside <|
    let s1 := s.modCur fun g =>
      let g1 := g.exitPath s.curS
      if g1.hasPath then g1 else { g1 with status := .draining }
    .done (s1.settleExit s.curG)

end Sys2Proof.Machine
end

