-- ==== Sys2Proof/Machine/MemOps.lean ====
section
/-! DEFINITION. The shared operations of the memory instructions: checked lanes (R187), producers (R60),
releases with an access (R148, R171), and accesses inside a region (R219, R224). -/

namespace Sys2Proof.Machine

/-! ### Checked lanes -/

/-- One access of a memory instruction: its lane (0 in the uniform form), whether its effective handle is
in team-scratchpad space, and where it reaches. -/
structure Acc where
  lane : Nat
  own : Bool
  loc : Loc

/-- Why a lane fails: the cause and its DETAIL (R322). -/
abbrev Fail := Cause × W32

/-- The access of a lane by its handle and offset (R185, R27), then the instruction's own check. -/
def State.accOf (s : State) (gid lane : Nat) (h : W64) (off : BitVec 16) (n : Need)
    (own : Acc → Option Fail) : Except Fail Acc :=
  match effective h off with
  | .error c => .error (c, 0)
  | .ok e =>
    match s.checkHandle gid lane e n with
    | .error c => .error (c, 0)
    | .ok l =>
      let a : Acc := ⟨lane, spaceOf e == 1, l⟩
      match own a with
      | some f => .error f
      | none => .ok a

/-- Every lane of a list checked in order; the first failure is the result (R187). -/
def allLanesOk {α : Type} (f : Nat → Except Fail α) : List Nat → Except Fail (List α)
  | [] => .ok []
  | l :: r =>
    match f l with
    | .error e => .error e
    | .ok a =>
      match allLanesOk f r with
      | .error e => .error e
      | .ok as => .ok (a :: as)

/-- A word whose lanes pass their checks goes on; a failure traps. -/
def passing {α : Type} (x : Except Fail α) (k : α → Res) : Res :=
  match x with
  | .error (c, d) => .trap c d
  | .ok a => k a

/-- The handle of a lane: the register pair of its lane form, or a uniform register. -/
def Group.handleOf (g : Group) (b lane : Bool) (r l : Nat) : W64 := if lane then g.vpair r l else g.gval b r

/-- The lanes of a memory instruction: the active lanes, or the one access of a uniform form. -/
def State.memLanes (s : State) (lane n : Bool) : List Nat :=
  if lane then lanesOf (s.cur.active s.curS n) else [0]

/-- A memory word with an order other than relaxed aborts an open region (R221). -/
def State.relaxedOnly (s : State) (ord : Bool) (k : Res) : Res := if ord then s.outside k else k

/-! ### Values -/

/-- Bytes as doublewords, the last one filled with zeros. -/
def wordsOf (b : List Byte) : List W64 := (List.range ((b.length + 7) / 8)).map (dwOf b)

/-- A value of 1, 2 or 4 bytes extended to 64 bits. -/
def extend (wid : Nat) (sx : Bool) (x : W64) : W64 :=
  let v := BitVec.ofNat (8 * wid) x.toNat
  if sx then v.signExtend 64 else v.setWidth 64

/-- The lane registers of a loaded value (R190). -/
def laneWords (wid : Nat) (sx : Bool) (ws : List W64) : List W32 :=
  if wid ≤ 2 then [lo32 (extend wid sx (dwAt ws 0))]
  else (List.range (wid / 4)).map fun i => if i % 2 = 0 then lo32 (dwAt ws (i / 2)) else hi32 (dwAt ws (i / 2))

/-- The uniform registers of a loaded value (R190). -/
def uniWords (wid : Nat) (sx : Bool) (ws : List W64) : List W64 :=
  if wid ≤ 4 then [extend wid sx (dwAt ws 0)] else (List.range (wid / 8)).map fun i => dwAt ws i

/-- Values with the registers they go to, from register `d` on. -/
def numbered {α : Type} (d : Nat) : List α → List (Nat × α)
  | [] => []
  | x :: r => (d, x) :: numbered (d + 1) r

/-- The stored bytes of a lane of a register group. -/
def Group.laneBytes (g : Group) (r l wid : Nat) : List Byte :=
  (((List.range ((wid + 3) / 4)).map fun i => g.vval (r + i) l).flatMap wBytes).take wid

/-- The stored bytes of a uniform register group. -/
def Group.uniBytes (g : Group) (b : Bool) (r wid : Nat) : List Byte :=
  (((List.range ((wid + 7) / 8)).map fun i => g.gval b (r + i)).flatMap dwBytes).take wid

/-- The stored bytes of an operand. -/
def Group.bytesFrom (g : Group) (b lane : Bool) (r l wid : Nat) : List Byte :=
  if lane then g.laneBytes r l wid else g.uniBytes b r wid

/-! ### Filling registers -/

/-- Lane registers filled: for each lane its registers with their values; every lane names the same
registers. -/
def Group.putLanes (g : Group) (rows : List (Nat × List (Nat × W32))) : Group :=
  let act := laneSet fun l => (aget rows l).isSome
  match rows with
  | [] => g
  | r0 :: _ => r0.2.foldl (fun a rv => a.setV act rv.1 fun l => (aget ((aget rows l).getD []) rv.1).getD 0) g

/-- Uniform registers filled. -/
def Group.putUni (g : Group) (b : Bool) (vals : List (Nat × W64)) : Group :=
  vals.foldl (fun a rv => a.setG b rv.1 rv.2) g

/-- Registers of a group poisoned (R64). -/
def Group.poisonRegs (g : Group) (v : BitVec 128) (u : BitVec 136) : Group :=
  { g with poisonV := g.poisonV ||| v, poisonG := g.poisonG ||| u }

/-- The sets of registers of a destination group. -/
def dstSets (lane b : Bool) (r n : Nat) : BitVec 128 × BitVec 136 :=
  if lane then (regSet 128 r n, 0)
  else (0, (List.range n).foldl (fun m i => m ||| regSet 136 (gBit b (r + i)) 1) 0)

/-- The reply marks of status registers among some registers removed (R244). -/
def Group.unmark (g : Group) (v : BitVec 128) (u : BitVec 136) : Group :=
  { g with marks := g.marks.filter fun m => if m.lane then !bitOn v m.d else !bitOn u m.d }

/-- Registers emptied at the issue of a producer (R60); the reply marks of their status registers go. -/
def Group.emptyRegs (g : Group) (v : BitVec 128) (u : BitVec 136) : Group :=
  { g.unmark v u with emptyV := g.emptyV ||| v, emptyG := g.emptyG ||| u }

/-- The registers of several destination groups. -/
def allSets (lane b : Bool) (ds : List (Nat × Nat)) : BitVec 128 × BitVec 136 :=
  ds.foldl (fun a d =>
    let x := dstSets lane b d.1 d.2
    (a.1 ||| x.1, a.2 ||| x.2)) (0, 0)

/-- The pages that the items of a producer reach, asked for by the issuing core (R12). -/
def State.touchItems (s : State) (items : List Item) : State :=
  items.foldl (fun a i =>
    match i.loc with
    | .tab k => a.touchRange (a.coreOf a.curG) k (max 1 i.len)
    | _ => a) s

/-- A producer with a number: its destinations are emptied (R60), the walks it needs start. -/
def State.produceAs (s : State) (id : Nat) (lane : Bool) (kind : FillKind) (items : List Item)
    (ds : List (Nat × Nat)) (acq : Bool) : State :=
  let x := allSets lane s.curS ds
  let f : Fill := ⟨id, s.curG, s.curS, lane, kind, items, x.1, x.2, acq, s.now⟩
  let s1 := s.touchItems items
  ({ s1 with fills := s1.fills ++ [f] } : State).modCur fun g => g.emptyRegs x.1 x.2

/-- A number for a pending object. -/
def State.takeId (s : State) : State := { s with nextId := s.nextId + 1 }

/-- A producer of the issuing slot. -/
def State.produce (s : State) (lane : Bool) (kind : FillKind) (items : List Item)
    (ds : List (Nat × Nat)) (acq : Bool) : State := s.takeId.produceAs s.nextId lane kind items ds acq

/-- A producer without an active lane: the reply marks of its destinations go (R244). -/
def State.produceNone (s : State) (ds : List (Nat × Nat)) : State :=
  let x := allSets true s.curS ds
  s.modCur fun g => g.unmark x.1 x.2

/-! ### Waits of memory accesses -/

/-- An access of a lane waits for the range scoreboard (R174 item 3). -/
def State.accScored (s : State) (a : Acc) (n : Nat) (wr : Bool) : Bool :=
  a.own && (match a.loc with
    | .spad t off => s.scored t off (off + n) wr
    | _ => false)

/-- Some item of a producer of the group waits in the region unit (R226). -/
def State.regionWaits (s : State) (gid : Nat) : Bool :=
  s.inRegion gid && (s.fillsOf gid).any fun f =>
    f.items.any fun i => i.got.isNone && i.len != 0 && i.loc.isTab

/-- An access is a region access: a table access of a group with an open region (R219). -/
def State.isRegional (s : State) (l : Loc) : Bool := s.inRegion s.curG && l.isTab

/-- A region access of a word waits behind one of its group that waits in the unit; other accesses do not
(R219). -/
def State.regionBusy (s : State) (accs : List Acc) : Bool :=
  s.regionWaits s.curG && accs.any fun a => s.isRegional a.loc

/-- A store or an atomic at the home waits at its word: an earlier store of its cluster to a common byte is
on its way to the cluster copy (R143, R162), or an earlier read of its group of a common byte has not bound
[A14]. -/
def State.strongBehind (s : State) (gid : Nat) (keys : List Nat) : Bool :=
  (s.writes.any fun w => w.kind == .l1 && w.cluster == s.clusterOf gid && w.hits keys) ||
    (s.fillsOf gid).any fun f => f.items.any fun i =>
      i.got.isNone && !i.loc.isSpad && (i.loc.keys i.len).any keys.contains

/-- The counts that a store of a width can add at a location (R147). -/
def Acc.counts (a : Acc) (wid : Nat) : Nat :=
  if a.own then 0
  else
    match a.loc with
    | .priv .. => max 1 (wid / 4)
    | _ => 1

/-- A counted access may issue: %uwc stays within its bound (R147), and no release of the other slot
holds it (R148 step 2). -/
def State.countOk (s : State) (n : Nat) : Bool := n == 0 || (decide (s.cur.uwc + n ≤ 65535) && !s.countHeld)

/-! ### Releases with an access (R148, R171) -/

/-- The die on which an access takes effect. -/
def State.accDie (s : State) (l : Loc) : Nat :=
  match l with
  | .tab k => s.homeDie (s.dieOf s.curG) k
  | _ => s.dieOf s.curG

/-- The release before an access: none while it waits; otherwise whether the access follows a flush marker,
which it does when it is performed at one home on another die (R171). `far` says that it is performed at the
home, `host` that its mask names H. -/
def State.releaseFor (s : State) (dies : List Nat) (far host : Bool) : Option Bool :=
  match dedup dies with
  | [d] =>
    if d ≠ s.dieOf s.curG ∧ far ∧ !host then (if s.readsBound && s.onlyTo s.curG s.curCluster s.nextId d then some true else none)
    else if s.released far then some false else none
  | _ => if s.released far then some false else none

/-! ### Region accesses -/

/-- `n` bytes at a key read by a group's region, sector by sector (R224): the bytes and whether one of their
units is poisoned. -/
inductive RegBytes where
  | ok (s : State) (bytes : List Byte) (bad : Bool)
  | hold (s : State)
  | abort (code : Nat)

/-- The bytes of consecutive sectors read by a group's region from the keys given on, up to key `hi`. -/
def State.regionReads (s : State) (gid acc hi : Nat) : List Nat → RegBytes
  | [] => .ok s [] false
  | k :: r =>
    match s.regionAccess gid acc k none with
    | .hold t => .hold t
    | .abort c => .abort c
    | .ok t x =>
      match (t.logTags x.tags).regionReads gid acc hi r with
      | .ok u bs bad =>
        let n := min hi (64 * (k / 64 + 1)) - k
        .ok u ((x.bytes.drop (k % 64)).take n ++ bs) (bad || x.hit ((List.range n).map (k + ·)))
      | o => o

/-- `n` bytes at a key read by a group's region. -/
def State.regionBytes (s : State) (gid acc key n : Nat) : RegBytes :=
  s.regionReads gid acc (key + n) ((List.range ((key % 64 + n + 63) / 64)).map fun i =>
    if i = 0 then key else 64 * (key / 64 + i))

/-- The wait edges of an access into a group's region that a state holds, in place of those of another
state (R226). -/
def State.keepWaits (s t : State) (gid acc : Nat) : State :=
  (t.edges.filter fun e => e.waits gid acc).foldl (fun a e => a.addEdge e) (s.unwait gid acc)

/-- Items of a producer that its region performs at the issue (R223), in lane order, until one of them has to
wait. -/
inductive RegItems where
  | ok (s : State) (items : List Item)
  | abort (code : Nat)

/-- The table items of a producer of a group performed by its region, in lane order, `f` performing one; an item
whose handle is walked for (R12), or that has to wait in the unit, leaves itself and those after it to be
performed later (R226). `acc` names the waiting access. -/
def State.regionItems (s : State) (gid acc : Nat) (f : State → Item → Nat → RegBytes) : List Item → RegItems
  | [] => .ok s []
  | i :: r =>
    let go (t : State) (j : Item) : RegItems :=
      match t.regionItems gid acc f r with
      | .ok u js => .ok u (j :: js)
      | .abort c => .abort c
    match i.loc, i.got with
    | .tab k, none =>
      if s.walkingRange (s.coreOf gid) k i.len then .ok s (i :: r)
      else
        match f s i k with
        | .ok t b bad => go t { i with got := some (b, bad) }
        | .hold t => .ok (s.keepWaits t gid acc) (i :: r)
        | .abort c => .abort c
    | _, _ => go s i

/-- One item of a load or of a consistent read performed by a group's region. -/
def regionRead (gid acc : Nat) (s : State) (i : Item) (k : Nat) : RegBytes := s.regionBytes gid acc k i.len

/-! ### Loads -/

/-- The items of an access of a load: one for each element (R142); read at once in the team's own scratchpad
(R154). -/
def State.loadItems (s : State) (a : Acc) (wid : Nat) : List Item :=
  if a.own then
    let r := s.readLoc s.curCluster false a.loc wid
    [⟨a.lane, a.loc, wid, [], some r.2⟩]
  else
    let e := a.loc.elem wid
    (List.range (wid / e)).map fun i => ⟨a.lane, a.loc.plus (i * e), e, [], none⟩

/-- The bytes bound for a lane of a producer. -/
def gotBytes (items : List Item) (lane : Nat) : List Byte :=
  (items.filter fun i => i.lane == lane).flatMap fun i => (i.got.getD ([], false)).1

/-- The lanes of a producer's items. -/
def itemLanes (items : List Item) : List Nat := dedup (items.map (·.lane))

/-- An item has bound poisoned bytes. -/
def Item.bad (i : Item) : Bool := (i.got.getD ([], false)).2

/-- Bytes loaded as the registers that a producer fills. -/
def loadRows (lane : Bool) (d wid : Nat) (sx : Bool) (b : List Byte) :
    List (Nat × W32) × List (Nat × W64) :=
  let ws := wordsOf b
  if lane then (numbered d (laneWords wid sx ws), []) else ([], numbered d (uniWords wid sx ws))

/-- Registers filled from items whose values are bound; poisoned items poison the destinations. -/
def Group.fillFrom (g : Group) (b lane : Bool) (items : List Item) (v : BitVec 128) (u : BitVec 136)
    (f : List Byte → List (Nat × W32) × List (Nat × W64)) : Group :=
  let rows := (itemLanes items).map fun l => (l, f (gotBytes items l))
  let g1 := if lane then g.putLanes (rows.map fun r => (r.1, r.2.1))
    else rows.foldl (fun a r => a.putUni b r.2.2) g
  if items.any Item.bad then g1.poisonRegs v u else g1

/-- The hints of the accesses of one instruction to lines of the cluster's copy (R41, R190). -/
def State.hintLines (s : State) (hint : Nat) (accs : List Acc) : State :=
  accs.foldl (fun a x => if x.loc.isSpad then a else a.hintLine a.curCluster (x.loc.key 0) hint) s

/-- An observer mask names an observer: the access is strong (R161). -/
def isStrong (m : MemExt) : Bool := m.obs.c || m.obs.x || m.obs.m || m.obs.p || m.obs.h

/-- A load of the issuing slot (R190): `d` and `nd` its destination, `n` the length of the word. -/
def State.load (s : State) (lane nf : Bool) (d a : Nat) (sx : Bool) (m : MemExt) (uses : Uses) : Res :=
  let wid := m.wid.bytes
  let nd := if lane then m.wid.laneRegs else m.wid.uniRegs
  s.gated uses <| s.relaxedOnly (m.ord != .relaxed) <|
    passing (allLanesOk (fun l =>
      s.accOf s.curG l (s.cur.handleOf s.curS lane a l) m.off ⟨wid, true, false⟩ fun _ => none)
        (s.memLanes lane nf)) fun accs =>
    if accs.isEmpty then .done ((s.produceNone [(d, nd)]).next 8)
    else if s.acquiring || s.regionBusy accs || accs.any (fun x => s.accScored x wid false) then .wait s
    else
      let items := accs.flatMap fun x => s.loadItems x wid
      let kind := FillKind.load d wid sx (isStrong m)
      let s1 := s.hintLines m.hint.code accs
      if items.all fun i => i.got.isSome then
        let x := dstSets lane s.curS d nd
        .done ((s1.modCur fun g => g.fillFrom s.curS lane items x.1 x.2 (loadRows lane d wid sx)).next 8)
      else if s.inRegion s.curG then
        let acc := s1.nextId + 2
        match (s1.takeId.touchItems items).regionItems s.curG acc (regionRead s.curG acc) items with
        | .abort c => .abort c
        | .ok t js => .done ((t.produceAs s1.nextId lane kind js [(d, nd)] false).next 8)
      else .done ((s1.produce lane kind items [(d, nd)] (m.ord == .acquire)).next 8)

/-! ### Consistent reads (R195) -/

/-- The access of a lane of `trd`. -/
def State.trdAcc (s : State) (len l : Nat) (h : W64) : Except Fail Acc :=
  if spaceOf h ≠ 0 then .error (.handleFault, 0)
  else
    match s.checkTable s.curLaunch h ⟨1, true, false⟩ with
    | .error c => .error (c, 0)
    | .ok loc =>
      let rs := (s.table (tidOf h)).rowSize
      if rs < posOf h % rs + len then .error (.handleFault, 0)
      else if posOf h % 4 ≠ 0 then .error (.align, 0)
      else .ok ⟨l, false, loc⟩

end Sys2Proof.Machine
end

