-- ==== Sys2Proof/Machine/Copies.lean ====
section
/-! DEFINITION. Copy entries: their fields and checks (R209, R210), the 2:4 transforms (R211), acceptance
with the scoreboard and line ownership (R172, R173, R179), the bytes they move, and publication (R176). -/

namespace Sys2Proof.Machine

/-! ### The command entry (R209) -/

/-- OP. -/
def ceOp (e : List W64) : Nat := field (dwAt e 0) 0 4
/-- TYPE. -/
def ceType (e : List W64) : Nat := field (dwAt e 0) 4 4
/-- STS. -/
def ceSts (e : List W64) : Bool := flag (dwAt e 0) 8
/-- MC. -/
def ceMc (e : List W64) : Bool := flag (dwAt e 0) 9
/-- SOFF. -/
def ceSoff (e : List W64) : Nat := field (dwAt e 0) 16 19
/-- MCMASK. -/
def ceMask (e : List W64) : Nat := field (dwAt e 0) 48 16
/-- SRC. -/
def ceSrc (e : List W64) : W64 := dwAt e 1
/-- DST. -/
def ceDst (e : List W64) : W64 := dwAt e 2
/-- LEN. -/
def ceLen (e : List W64) : Nat := field (dwAt e 3) 0 24
/-- SSTRIDE. -/
def ceStride (e : List W64) : Nat := field (dwAt e 3) 24 24
/-- COUNT. -/
def ceCount (e : List W64) : Nat := field (dwAt e 3) 48 16

/-- The element size of a 2:4 type (R211). -/
def ceSize (e : List W64) : Nat := if [0, 4, 11, 12].contains (ceType e) then 1 else 2

/-- The length C of a compacted block (R211). -/
def ceCompact (e : List W64) : Nat := ceLen e / 2 + ceLen e / (8 * ceSize e)

/-- The extent of the source from its handle on (R210). -/
def ceSrcLen (e : List W64) : Nat :=
  match ceOp e with
  | 1 => (ceCount e - 1) * ceStride e + ceLen e
  | 2 => ceCompact e
  | _ => ceLen e

/-- The bytes of the destination (R210). -/
def ceDstLen (e : List W64) : Nat :=
  match ceOp e with
  | 1 => ceCount e * ceLen e
  | 3 => ceCompact e
  | _ => ceLen e

/-- The position or offset of a side. -/
def ceOff (h : W64) : Nat := if spaceOf h = 0 then posOf h else field h 0 19

/-! ### The checks (R210) -/

/-- SOFF passes step 1: a status word can be written. -/
def ceSoffOk (l : Launch) (e : List W64) : Bool := ceSoff e % 4 == 0 && decide (ceSoff e + 4 ≤ l.spad)

/-- Step 1: the fields. -/
def ceFields (l : Launch) (e : List W64) : Bool :=
  decide (ceOp e ≤ 3) && field (dwAt e 0) 10 6 == 0 && field (dwAt e 0) 35 13 == 0 &&
    (if ceOp e ≤ 1 then ceType e == 0 else [0, 1, 4, 5, 9, 10, 11, 12].contains (ceType e)) &&
    (if ceOp e = 1 then decide (1 ≤ ceCount e) else ceCount e == 0 && ceStride e == 0) &&
    (if ceSts e then ceSoffOk l e else ceSoff e == 0) && (ceMask e != 0) == ceMc e && decide (1 ≤ ceLen e)

/-- Step 2: the spaces. -/
def ceSpaces (e : List W64) : Bool :=
  decide (spaceOf (ceSrc e) ≤ 1) &&
    (match spaceOf (ceDst e) with
      | 0 | 1 => !ceMc e
      | 2 => !ceMc e || field (ceDst e) 20 20 == 0
      | _ => false)

/-- Step 3: the alignment. -/
def ceAligned (e : List W64) : Bool :=
  let a := if ceOp e ≤ 1 then 4 else 32
  ceOff (ceSrc e) % a == 0 && ceOff (ceDst e) % a == 0 && ceLen e % a == 0 && ceStride e % a == 0

/-- Steps 4 and 5 for a side of `n` bytes: the status that R27 gives. -/
def State.ceSide (s : State) (l : Launch) (h : W64) (n : Nat) (wr : Bool) : Nat :=
  match spaceOf h with
  | 0 =>
    let tid := tidOf h
    let t := s.table tid
    if t.poisonDesc then stPoison
    else if !t.usable tid then stTableAbsent
    else if !(if wr then l.writesTo tid else l.reads tid) then stAccess
    else if t.slots ≤ (posOf h + n - 1) / t.rowSize then stHandleFault
    else if wr && !t.dense && t.rows.any fun r =>
        r.slot != 0 && decide (r.slot * t.rowSize < posOf h + n) &&
          decide (posOf h < r.slot * t.rowSize + t.keyBytes) then stAccess
    else stOk
  | 1 =>
    if field h 19 43 ≠ 0 then stHandleFault
    else if field h 0 19 + n ≤ l.spad then stOk else stSpadRange
  | _ => if field h 40 22 = 0 ∧ field h 19 1 = 0 then stOk else stHandleFault

/-- The status of an entry at its acceptance (R210): the first check that fails. -/
def State.ceStatus (s : State) (l : Launch) (e : List W64) : Nat :=
  if !ceFields l e then stBadEntry
  else if !ceSpaces e then stHandleFault
  else if !ceAligned e then stAlign
  else
    let a := s.ceSide l (ceSrc e) (ceSrcLen e) false
    if a ≠ stOk then a else s.ceSide l (ceDst e) (ceDstLen e) true

/-! ### Intervals (R172, R173) -/

/-- An interval rounded outward to multiples of 32 bytes, as a scoreboard entry. -/
def scoreEntry (core team lo n : Nat) (w : Bool) (op : Nat) : ScoreEntry :=
  ⟨core, team, lo / 32 * 32, (lo + n + 31) / 32 * 32, w, op⟩

/-- Scoreboard entries registered together; none while fewer than that many of the core's 96 are free. -/
def State.register (s : State) (es : List ScoreEntry) : Option State :=
  let used := (s.score.filter fun x => es.any fun e => e.core == x.core).length
  if used + es.length ≤ 96 then some { s with score := s.score ++ es } else none

/-- An entry registered earlier conflicts with an entry of another operation (R174). -/
def ScoreEntry.blocks (x e : ScoreEntry) : Bool :=
  x.team == e.team && x.op != e.op && decide (x.lo < e.hi) && decide (e.lo < x.hi) && (x.w || e.w)

/-- No conflicting entry registered earlier than an operation's entry is left (R174 item 1). -/
def scoreFree : List ScoreEntry → ScoreEntry → Bool
  | [], _ => true
  | x :: r, e => if x = e then true else !x.blocks e && scoreFree r e

/-- The entry of an operation, R or W. -/
def State.scoreOf (s : State) (op : Nat) (w : Bool) : Option ScoreEntry :=
  s.score.find? fun x => x.op == op && x.w == w

/-- The state without an operation's R or W entry. -/
def State.retireScore (s : State) (op : Nat) (w : Bool) : State :=
  { s with score := s.score.filter fun x => !(x.op == op && x.w == w) }

/-! ### Acceptance (R176 step 3, R179, R212) -/

/-- The lines of `n` bytes of table memory. -/
def linesFrom (key n : Nat) : List Nat :=
  (List.range ((key % 256 + n + 255) / 256)).map fun i => key / 256 + i

/-- The recall of a line must wait: a region holds a sector with bytes to recall, another engine owns the
line, the bytes have to follow a write under way, or the channel is in broadcast mode (R162, R179, R230,
R253). -/
def State.lineBusy (s : State) (line : Nat) : Bool :=
  s.channelShut (256 * line) ||
    (!(s.presence fun x => x == line).isEmpty &&
      (s.ownedLine line || ((List.range 4).any fun i => s.regionHolds (4 * line + i)) ||
        s.recallWaits [] fun x => x / 4 == line))

/-- The resident team of a launch on a core with the lowest team index (R196, R212). -/
def State.teamOn (s : State) (launch core : Nat) : Option Nat :=
  (s.teams.find? fun t => t.2.resident && t.2.core == core && launchOfTeam t.1 == launch).map (·.1)

/-- The deliveries of an entry to other cores, and whether a target is discarded at once. -/
def State.ceTargets (s : State) (gid : Nat) (e : List W64) : List (Nat × BitVec 16) × Bool :=
  let base := s.clusterOf gid * 16
  if spaceOf (ceDst e) ≠ 2 then ([], false)
  else if !ceMc e then
    ([(base + field (ceDst e) 36 4, BitVec.ofNat 16 (field (ceDst e) 20 16))], false)
  else
    let cs := (List.range 16).filter fun c => (ceMask e).testBit c
    (cs.filterMap fun c =>
        (s.teamOn (launchOfTeam (teamOf gid)) (base + c)).map fun t => (base + c, (s.team t).gen),
      cs.any fun c => (s.teamOn (launchOfTeam (teamOf gid)) (base + c)).isNone)

/-- The table sides of an entry, as keys and lengths. -/
def cePages (e : List W64) : List (Nat × Nat) :=
  (if spaceOf (ceSrc e) = 0 then [((ceSrc e).toNat, ceSrcLen e)] else []) ++
    (if spaceOf (ceDst e) = 0 then [((ceDst e).toNat, ceDstLen e)] else [])

/-- The pages of several ranges asked for by a core (R12). -/
def State.touchAll (s : State) (core : Nat) (rs : List (Nat × Nat)) : State :=
  rs.foldl (fun a r => a.touchRange core r.1 r.2) s

/-- A walk that a core waits for is in flight for one of several ranges. -/
def State.walkingAny (s : State) (core : Nat) (rs : List (Nat × Nat)) : Bool :=
  rs.any fun r => s.walkingRange core r.1 r.2

/-- A word whose ranges of table memory are translated goes on; otherwise it waits for their walks
(R12). -/
def State.paged (s : State) (rs : List (Nat × Nat)) (k : State → Res) : Res :=
  let s1 := s.touchAll (s.coreOf s.curG) rs
  if s1.walkingAny (s1.coreOf s1.curG) rs then .wait s1 else k s1

/-- One entry accepted into the open copy batch of its group; none while it has to wait. -/
def State.acceptCopy (s : State) (gid : Nat) (e : List W64) : Option State :=
  let l := s.launchOf gid
  let st := s.ceStatus l e
  let id := s.nextId
  let op : CopyOp := ⟨id, gid, (s.group gid).copyBatch, e, st, none, [], [], true, none, []⟩
  let s0 := { s with nextId := id + 1 }
  if st ≠ stOk then some { s0 with copies := s0.copies ++ [op] }
  else
    let core := s.coreOf gid
    let t := teamOf gid
    let es := (if spaceOf (ceSrc e) = 1 then
        [scoreEntry core t (ceOff (ceSrc e)) (ceSrcLen e) false id] else []) ++
      (if spaceOf (ceDst e) = 1 then
        [scoreEntry core t (ceOff (ceDst e)) (ceDstLen e) true id] else [])
    let lines := if spaceOf (ceDst e) = 0 then linesFrom (ceDst e).toNat (ceDstLen e) else []
    let tg := s.ceTargets gid e
    if lines.any s.lineBusy then none
    else
      (s0.register es).map fun s1 =>
        let s2 := (s1.recall lines.contains).touchAll core (cePages e)
        { s2 with copies := s2.copies ++
            [{ op with lines := lines, targets := tg.1, done := false,
                       status := if tg.2 then stDiscarded else stOk }] }

/-! ### The bytes (R211) -/

/-- Element `i` of `sz` bytes, as a number. -/
def elemAt (sz : Nat) (b : List Byte) (i : Nat) : Nat := leNat ((b.drop (sz * i)).take sz)

/-- The rank of an element's magnitude: NaN above infinity above every finite value. -/
def magRank (ty x : Nat) : Nat :=
  match ty with
  | 0 => (toSigned 8 x).natAbs
  | 1 => (toSigned 16 x).natAbs
  | 9 => if 0x7C00 < x % 2 ^ 15 then 2 ^ 15 else x % 2 ^ 15
  | 10 => if 0x7F80 < x % 2 ^ 15 then 2 ^ 15 else x % 2 ^ 15
  | 11 => x % 128
  | 12 => if 0x7C < x % 128 then 128 else x % 128
  | _ => x

/-- The lowest index, among those given, of the greatest rank. -/
def bestRank (ks : Nat → Nat) (is : List Nat) : Nat :=
  is.foldl (fun b i => if ks b < ks i then i else b) (is.headD 0)

/-- The two elements of a group that compaction keeps, in index order. -/
def keptTwo (ks : Nat → Nat) : Nat × Nat :=
  let a := bestRank ks [0, 1, 2, 3]
  let b := bestRank ks ([0, 1, 2, 3].filter (· != a))
  (min a b, max a b)

/-- The bytes of a dense block compacted. -/
def compact24 (ty sz : Nat) (b : List Byte) : List Byte :=
  let n := b.length / (4 * sz)
  let kept := (List.range n).map fun g => keptTwo fun i => magRank ty (elemAt sz b (4 * g + i))
  let at' (g i : Nat) : List Byte := (b.drop (sz * (4 * g + i))).take sz
  let nib (g : Nat) : Nat :=
    let k := kept.getD g (0, 0)
    k.1 + 4 * k.2
  ((List.range n).flatMap fun g =>
      let k := kept.getD g (0, 0)
      at' g k.1 ++ at' g k.2) ++
    (List.range (n / 2)).map fun j => BitVec.ofNat 8 (nib (2 * j) + 16 * nib (2 * j + 1))

/-- The dense bytes of a compacted block of `n` groups. -/
def expand24 (sz n : Nat) (b : List Byte) : List Byte :=
  (List.range n).flatMap fun g =>
    let m := (b.getD (2 * sz * n + g / 2) 0).toNat / (if g % 2 = 0 then 1 else 16)
    let v (i : Nat) : List Byte := (b.drop (2 * sz * g + sz * i)).take sz
    (List.range 4).flatMap fun i =>
      if i = m / 4 % 4 then v 1 else if i = m % 4 then v 0 else List.replicate sz 0

/-- The source bytes that a destination byte depends on (R212, POISON). -/
def ceFrom (e : List W64) (j : Nat) : List Nat :=
  let sz := ceSize e
  let n := ceLen e / (4 * sz)
  match ceOp e with
  | 2 =>
    let g := j / (4 * sz)
    (2 * sz * n + g / 2) :: (List.range (2 * sz)).map fun i => 2 * sz * g + i
  | 3 =>
    if j < 2 * sz * n then (List.range (4 * sz)).map fun i => 4 * sz * (j / (2 * sz)) + i
    else (List.range (8 * sz)).map fun i => 8 * sz * (j - 2 * sz * n) + i
  | _ => [j]

/-- The offsets of the source bytes from the source's start. -/
def ceSrcOffs (e : List W64) : List Nat :=
  if ceOp e = 1 then
    (List.range (ceCount e)).flatMap fun i => (List.range (ceLen e)).map fun j => i * ceStride e + j
  else List.range (ceSrcLen e)

/-- The destination bytes of an operation from its source bytes, each with its poison. -/
def ceMove (e : List W64) (src : List (Byte × Bool)) : List (Byte × Bool) :=
  let b := src.map (·.1)
  let sz := ceSize e
  let out := match ceOp e with
    | 2 => expand24 sz (ceLen e / (4 * sz)) b
    | 3 => compact24 (ceType e) sz b
    | _ => b
  (List.range out.length).map fun j =>
    (out.getD j 0, (ceFrom e j).any fun i => (src.getD i (0, false)).2)

/-- The keys of an entry's source bytes in table space. -/
def ceSrcKeys (e : List W64) : List Nat :=
  let base := tidOf (ceSrc e) * 2 ^ 42 + posOf (ceSrc e)
  (ceSrcOffs e).map fun i => base + i

/-- The source read (R179, R211): through the cluster's copy in table space, from the scratchpad
otherwise. -/
def State.copyRead (s : State) (op : CopyOp) : State :=
  let e := op.entry
  let r : State × List (Byte × Bool) :=
    if spaceOf (ceSrc e) = 0 then
      let cl := s.clusterOf op.gid
      let keys := ceSrcKeys e
      let x := s.see (s.readByte cl) keys
      let s1 := (dedup (squeeze (keys.map sectorOf))).foldl (fun a sec =>
        if a.validKeys cl (keys.filter fun k => sectorOf k == sec) then a else a.fetchSector cl sec) s
      (s1.logTags x.tags, (keys.zip x.bytes).map fun b => (b.2, x.poisoned.contains (unitOf b.1)))
    else
      let base := ceOff (ceSrc e)
      let t := s.team (teamOf op.gid)
      (s, (ceSrcOffs e).map fun i => (byteAt t.spad (base + i), t.spadPoison.contains ((base + i) / 32)))
  let out := ceMove e r.2
  let st := if out.any (·.2) then max op.status stPoison else op.status
  { r.1 with copies := r.1.copies.map fun c =>
      if c.id = op.id then { c with data := some out, status := st } else c }

/-- Poisoned bytes make their units poisoned after a write. -/
def poisonedUnits (data : List (Nat × Byte × Bool)) : List Nat :=
  dedup ((data.filter fun d => d.2.2).map fun d => d.1 / 32)

/-- Bytes written into a team's scratchpad with their poison (R212). -/
def Team.putMarked (t : Team) (data : List (Nat × Byte × Bool)) : Team :=
  let t1 := t.putSpad (data.map fun d => (d.1, d.2.1))
  { t1 with spadPoison := (poisonedUnits data).foldl insNum t1.spadPoison }

/-- Bytes with their poison from an offset on. -/
def markedFrom (lo : Nat) : List (Byte × Bool) → List (Nat × Byte × Bool)
  | [] => []
  | (b, p) :: r => (lo, b, p) :: markedFrom (lo + 1) r

/-! ### Publication (R176) -/

/-- Entries from the consumer index on accepted in order, up to `n` of them; the flag says that all
were. -/
def State.acceptRun (s : State) (gid : Nat) : Nat → State × Bool
  | 0 => (s, true)
  | n + 1 =>
    match (s.team (teamOf gid)).ring with
    | none => (s, true)
    | some r =>
      let off := r.base + 32 * (r.cons.toNat % r.count)
      let b := (s.team (teamOf gid)).spadBytes off 32
      match s.acceptCopy gid ((List.range 4).map (dwOf b)) with
      | none => (s, false)
      | some s1 =>
        (s1.modTeam (teamOf gid) fun t => { t with ring := some { r with cons := r.cons + 1 } }).acceptRun
          gid n

/-- A publication of the producer index `p` (R176 steps 3 to 5): none of the store while entries still
wait to be accepted. -/
def State.publish (s : State) (gid : Nat) (p : W64) : State × Bool :=
  match (s.team (teamOf gid)).ring with
  | none => (s, true)
  | some r =>
    let a := s.acceptRun gid (p - r.cons).toNat
    if a.2 then
      (a.1.modTeam (teamOf gid) fun t => t.putSpad (runOf r.notify (leBytes 8 p.toNat)), true)
    else a

/-- Publications one after the other (R176): those still to make when one has to wait. -/
def State.publishAll (s : State) (gid : Nat) : List W64 → State × List W64
  | [] => (s, [])
  | p :: r =>
    match s.publish gid p with
    | (s1, true) => s1.publishAll gid r
    | (s1, false) => (s1, p :: r)

/-- A publication of a team that has begun is not complete: steps 3 to 5 of R176 are not interrupted. -/
def State.publishing (s : State) (team : Nat) : Bool :=
  (List.range (s.team team).groups).any fun i =>
    let g := s.group (16 * team + i)
    !g.s0.pend.isEmpty || !g.s1.pend.isEmpty

end Sys2Proof.Machine
end

