-- ==== Sys2Proof/Machine/Copy.lean ====
section
/-! DEFINITION. Copy rings and batches (R208, R213) and the events of the Weevil and Scarab engines: the
scoreboard, lines, deliveries, completions, gathers and host translation (R172 to R181, R207, R212, R314). -/

namespace Sys2Proof.Machine

/-! ### The ring and the batches -/

/-- `xring` (R208). -/
def execXring (a b : Reg) (wa wb : Bool) (count : Nat) (s : State) : Host.Outcome State Fault Refusal :=
  s.finish <| s.gated ⟨[sg a wa, sg b wb], [], false⟩ <| s.outside <|
    let team := teamOf s.curG
    if count = 0 then
      (if s.publishing team then .wait s else .done ((s.modTeam team fun t => { t with ring := none }).next 8))
    else
      let x := s.cur.gval s.curS a.val
      let y := s.cur.gval s.curS b.val
      let base := field x 0 19
      let ntf := field y 0 19
      check (spaceOf x == 1 && field x 19 43 == 0 && spaceOf y == 1 && field y 19 43 == 0) .handleFault <|
      check (base % 32 == 0 && ntf % 8 == 0) .align <|
      check (decide (base + 32 * count ≤ s.curLaunch.spad) && decide (ntf + 8 ≤ s.curLaunch.spad))
        .spadRange <|
      if ntf < base + 32 * count ∧ base < ntf + 8 then .trap .queueFault 0xFFFF
      else if s.scored team ntf (ntf + 8) false || s.publishing team then .wait s
      else
        let q := dwOf (s.curTeam.spadBytes ntf 8) 0
        .done ((s.modTeam team fun t => { t with ring := some ⟨base, count, ntf, q⟩ }).next 8)

/-- A batch of a group has operations that are not complete (R178). -/
def State.copyBusy (s : State) (gid b : Nat) : Bool :=
  (s.copies.any fun c => c.gid == gid && c.batch == b) ||
    s.gathers.any fun g => g.gid == gid && g.batch == b

/-- The sealed copy batches of a group that are not complete. -/
def State.copyLeft (s : State) (gid : Nat) : List Nat := (s.group gid).copySealed.filter (s.copyBusy gid)

/-- `xseal` (R213). -/
def execXseal (d : Reg) (s : State) : Host.Outcome State Fault Refusal :=
  s.finish <| s.gated ⟨[], [dg d], false⟩ <|
    let left := s.copyLeft s.curG
    if 128 ≤ left.length then .wait s
    else
      let n := s.cur.copyBatch
      .done ((s.modCur fun g =>
        { g.setG s.curS d.val (BitVec.ofNat 64 n) with
          copyBatch := (n + 1) % 2 ^ 16
          copySealed := left ++ [n] }).next 4)

/-- `xwait` (R213). -/
def execXwait (cnt : Reg) (s : State) : Host.Outcome State Fault Refusal :=
  s.finish <| if (s.copyLeft s.curG).length ≤ cnt.val then .done (s.next 4) else .wait s

/-! ### Copies in work -/

/-- The source of a copy in table space can be read: its pages are translated (R12) and its bytes are at
hand (R160). -/
def State.sourceReady (s : State) (op : CopyOp) : Bool :=
  !s.walkingAny (s.coreOf op.gid) (cePages op.entry) &&
    !s.fetchWaits (s.clusterOf op.gid) (ceSrcKeys op.entry)

/-- A copy with its source read, where it can be: a source in the scratchpad is read when its R entry
retires, one on a host page by its transfers. -/
def State.sourced (s : State) (op : CopyOp) : Option (State × CopyOp) :=
  if op.done then none
  else
    match op.data with
    | some _ => some (s, op)
    | none =>
      if spaceOf (ceSrc op.entry) = 0 && op.host.isNone && s.sourceReady op then
        let s1 := s.copyRead op
        (s1.copies.find? fun c => c.id == op.id).map fun c => (s1, c)
      else none

/-- The state with a copy changed. -/
def State.modCopy (s : State) (id : Nat) (f : CopyOp → CopyOp) : State :=
  { s with copies := s.copies.map fun c => if c.id = id then f c else c }

/-- The R or W entry of a copy retires (R173, R174): when its source has been read, or its bytes are
written. -/
def State.retireCopy (s : State) (c : CopyOp) (w : Bool) : State :=
  if c.done then s
  else if !w then (s.copyRead c).retireScore c.id false
  else
    match s.sourced c with
    | none => s
    | some (t, d) =>
      (t.modTeam (teamOf c.gid) fun x =>
        x.putMarked (markedFrom (ceOff (ceDst c.entry)) (d.data.getD []))).retireScore c.id true

/-! ### Gathers (R207) -/

/-- The location of key `i` of a gather's list. -/
def Gather.keyLoc (g : Gather) (i : Nat) : Loc := g.list.plus (i * g.ty)

/-- The key list of a gather read, in elements of the key width. -/
def State.gatherKeys (s : State) (g : Gather) : State × List (Nat × Bool) :=
  (List.range g.n).foldl (fun a i =>
    let r := a.1.readLoc (a.1.clusterOf g.gid) false (g.keyLoc i) g.ty
    (r.1, a.2 ++ [(leNat r.2.1, r.2.2)])) (s, [])

/-- The key list of a gather cannot be read yet: its R entry waits (R174), its page is walked for (R12), or
its bytes are not at hand (R160). -/
def State.gatherListHeld (s : State) (g : Gather) : Bool :=
  match g.list with
  | .tab k => s.walkingRange (s.coreOf g.gid) k (g.n * g.ty) ||
      s.fetchWaits (s.clusterOf g.gid) ((List.range (g.n * g.ty)).map (k + ·))
  | _ =>
    match s.scoreOf g.id false with
    | some e => !scoreFree s.score e
    | none => false

/-- A gather with its key list read and its R entry retired; none while it has to wait. -/
def State.gatherListed (s : State) (g : Gather) : Option (State × List (Nat × Bool)) :=
  match g.keys with
  | some ks => some (s, ks)
  | none =>
    if s.gatherListHeld g then none
    else
      let r := s.gatherKeys g
      some ({ r.1.retireScore g.id false with
        gathers := r.1.gathers.map fun x => if x.id = g.id then { x with keys := some r.2 } else x }, r.2)

/-- `SCOREBOARD_ENTRY_RETIRE` (R173, R174). The W entry of a gather retires with its landing. -/
def execScoreboardEntryRetire (core op : Nat) (w : Bool) (s : State) :
    Host.Outcome State Fault Refusal :=
  match s.scoreOf op w with
  | none => .next s
  | some e =>
    if e.core != core || !scoreFree s.score e then .next s
    else
      match s.copies.find? fun c => c.id == op, s.gathers.find? fun g => g.id == op with
      | some c, _ => .next (s.retireCopy c w)
      | none, some g =>
        .next (match s.gatherListed g with
          | some r => if w then s else r.1
          | none => s)
      | none, none => .next s

/-- The handle and the status of a key of a gather, looked up under the descriptor as translated (R20). -/
def State.gatherLookup (s : State) (g : Gather) (key : Nat × Bool) : W64 × Nat :=
  let t := s.table g.tid
  if key.2 || t.poisonDesc || t.poisonIndex then (0, stPoison)
  else s.lookup (launchOfTeam (teamOf g.gid)) (s.tableAs g.tid g.desc) g.tid g.dft (some key.1)

/-- One row of a gather, read whole at its home (R31): its bytes with their poison, its status, and the units
whose tag fails. -/
def State.gatherRow (s : State) (g : Gather) (key : Nat × Bool) : List (Byte × Bool) × Nat × List Nat :=
  let n := (s.tableAs g.tid g.desc).rowSize
  let r := s.gatherLookup g key
  if r.2 ≤ stDefault then
    let keys := (List.range n).map (r.1.toNat + ·)
    let x := s.homeSeen keys
    ((keys.zip x.bytes).map fun b => (b.2, x.poisoned.contains (unitOf b.1)),
      if x.bad then stPoison else r.2, x.tags)
  else (List.replicate n (0, false), r.2, [])

/-- A row of a gather waits for its channel to leave broadcast mode (R253). -/
def State.gatherShut (s : State) (g : Gather) (key : Nat × Bool) : Bool :=
  let r := s.gatherLookup g key
  decide (r.2 ≤ stDefault) && (List.range ((s.tableAs g.tid g.desc).rowSize / 16)).any fun i =>
    s.channelShut (r.1.toNat + 16 * i)

/-- `GATHER_COMPLETE` (R207): every row and status byte is landed and the entries retire. -/
def execGatherComplete (id : Nat) (s : State) : Host.Outcome State Fault Refusal :=
  match s.gathers.find? fun g => g.id == id with
  | none => .next s
  | some g =>
    if s.walking (s.coreOf g.gid) (g.tid * 2 ^ 42) || s.orderHeld g.tid ||
        !(match s.scoreOf id true with
          | some e => scoreFree s.score e
          | none => true) then .next s
    else
      match s.gatherListed g with
      | none => .next s
      | some (t, ks) =>
        if ks.any (t.gatherShut g) then .next t
        else
          let rows := ks.map (t.gatherRow g)
          let data := rows.flatMap (·.1) ++ rows.map fun x => (BitVec.ofNat 8 x.2.1, false)
          let t1 := (t.modTeam (teamOf g.gid) fun x => x.putMarked (markedFrom g.off data)).logTags
            (rows.flatMap (·.2.2))
          .next (({ t1 with
            gathers := t1.gathers.filter fun x => x.id != id
            score := t1.score.filter fun e => e.op != id } : State).settleExit g.gid)

/-! ### Lines and deliveries (R179, R180) -/

/-- A line that a copy may apply now: no earlier engine owns it, no region holds a sector of it, its pages
are translated and its channel is not in broadcast mode (R12, R179, R230, R253). -/
def State.lineFree (s : State) (op : CopyOp) (line : Nat) : Bool :=
  (s.copies.all fun c => decide (op.id ≤ c.id) || !c.lines.contains line) &&
    ((List.range 4).all fun i => !s.regionHolds (4 * line + i)) && !s.channelShut (256 * line) &&
    !s.walkingAny (s.coreOf op.gid) (cePages op.entry)

/-- The bytes of a copy that lie in a line of its destination. -/
def CopyOp.lineData (op : CopyOp) (line : Nat) : List (Nat × Byte × Bool) :=
  (markedFrom (ceDst op.entry).toNat (op.data.getD [])).filter fun d => d.1 / 256 == line

/-- A line's bytes applied at the home in one step, the clean bytes dropped, ownership given up (R179
step 3). -/
def State.applyLine (s : State) (op : CopyOp) (line : Nat) : State :=
  let data := op.lineData line
  let s1 := s.applyHome (data.map fun d => (d.1, d.2.1))
  ((s1.poisonUnits (poisonedUnits data)).dropSectors (s.clusterOf op.gid) fun x => x / 4 == line).modCopy op.id fun c =>
    { c with lines := c.lines.filter (· != line) }


/-- What a delivery finds on arrival (R180): the team to write to, or a status. -/
def State.deliverTo (s : State) (op : CopyOp) (core : Nat) (gen : BitVec 16) : Except Nat Nat :=
  match s.residentGen core gen with
  | none => .error stDiscarded
  | some t =>
    if launchOfTeam t != launchOfTeam (teamOf op.gid) then .error stAccess
    else if (s.launch (launchOfTeam t)).spad < ceOff (ceDst op.entry) + (op.data.getD []).length then
      .error stSpadRange
    else .ok t

/-- `SPAD_DELIVERY_ARRIVAL` (R180). -/
def execSpadDeliveryArrival (id target : Nat) (s : State) : Host.Outcome State Fault Refusal :=
  match s.copies.find? fun c => c.id == id with
  | none => .next s
  | some c =>
    match c.targets.find? fun t => t.1 == target, s.sourced c with
    | some tg, some (t, d) =>
      let gone (x : CopyOp) : CopyOp := { x with targets := x.targets.filter (· != tg) }
      match t.deliverTo d tg.1 tg.2 with
      | .error st => .next (t.modCopy id fun x => { gone x with status := max x.status st })
      | .ok team =>
        .next ((t.modTeam team fun y =>
          y.putMarked (markedFrom (ceOff (ceDst c.entry)) (d.data.getD []))).modCopy id gone)
    | _, _ => .next s

/-! ### Host transfers (R314) -/

/-- The number of transfers. -/
def HostXfer.count (x : HostXfer) : Nat := (x.len + 255) / 256
/-- The bytes of transfer `i`. -/
def HostXfer.size (x : HostXfer) (i : Nat) : Nat := min 256 (x.len - 256 * i)
/-- The untranslated address of the next transfer to issue. -/
def HostXfer.next (x : HostXfer) : Nat := x.addr + 256 * x.sent.length

/-- The translated address of `n` bytes of a function's page, where the cache serves them. -/
def HostIf.translate (h : HostIf) (fn addr n : Nat) : Option Nat :=
  (h.ats.find? fun e => e.fn == fn && decide (e.lo ≤ addr) && decide (addr + n ≤ e.hi)).map fun e =>
    e.base + (addr - e.lo)

/-- The next transfer of a copy issues, or is held where it has no translation. -/
def State.hostIssue (s : State) (c : CopyOp) (x : HostXfer) : State :=
  if x.held || decide (x.count ≤ x.sent.length) || (x.write && c.data.isNone) then s
  else
    match s.host.translate x.fn x.next (x.size x.sent.length) with
    | some a => s.modCopy c.id fun c => { c with host := some { x with sent := x.sent ++ [a] } }
    | none => s.modCopy c.id fun c => { c with host := some { x with held := true } }

/-- Invalidations whose transfers are complete send their completions (R314 step 5); copy `id` has completed
`n` transfers. -/
def HostIf.settle (h : HostIf) (id n : Nat) : HostIf :=
  let rest := h.invals.map fun v => { v with waits := v.waits.filter fun w => w.1 != id || decide (n < w.2) }
  { h with
    invals := rest.filter fun v => !v.waits.isEmpty
    invalDone := h.invalDone ++ (rest.filter fun v => v.waits.isEmpty).map fun v => (v.fn, v.lo, v.hi) }

/-- The destination bytes of a copy whose host transfers have read some bytes: those, from the first on, all of
whose source bytes have been read (R314 steps 3 and 6). -/
def CopyOp.readOut (c : CopyOp) (got : List Byte) : List (Byte × Bool) :=
  let offs := ceSrcOffs c.entry
  let out := ceMove c.entry (offs.map fun j => (got.getD j 0, false))
  out.take (((List.range out.length).takeWhile fun j =>
    (ceFrom c.entry j).all fun i => decide (offs.getD i 0 < got.length)).length)

/-- The oldest issued transfer of a copy completes: the bytes of a read arrive, those of a write are
posted. -/
def State.hostBack (s : State) (c : CopyOp) (x : HostXfer) : State :=
  match x.sent[x.back]? with
  | none => s
  | some a =>
    let i := x.back
    let y := { x with back := i + 1 }
    let bytes := bytesAt s.host.mem a (x.size i)
    let out := (((c.data.getD []).drop (256 * i)).take (x.size i)).map (·.1)
    let s1 : State := if x.write then
        { s with host := { s.host with mem := setBytes s.host.mem (runOf a out) } }
      else s
    let s2 := s1.modCopy c.id fun c =>
      let got := c.got ++ bytes
      { c with
        host := some y
        got := if x.write then c.got else got
        data := if !x.write && y.back == y.count then some (c.readOut got) else c.data }
    { s2 with host := s2.host.settle c.id (i + 1) }

/-- `ENGINE_LINE_APPLY` (R179, R314): a line of a copy is applied (`part` 0); of a copy that moves a host
page, a transfer issues (1) or the oldest one completes (2). -/
def execEngineLineApply (p : Piece) (s : State) : Host.Outcome State Fault Refusal :=
  match s.copies.find? fun c => c.id == p.id with
  | none => .next s
  | some c =>
    match p.part, c.host with
    | 0, _ =>
      match c.lines.find? (s.lineFree c), s.sourced c with
      | some line, some (t, d) => .next (t.applyLine d line)
      | _, _ => .next s
    | 1, some x => .next (match s.sourced c with
      | some (t, d) => t.hostIssue d x
      | none => s.hostIssue c x)
    | _, some x => .next (s.hostBack c x)
    | _, none => .next s

/-- `ATS_INVALIDATION` (R314 steps 1 to 5): entries over the range stop serving, transfers that have not
issued through them are held, and its completion is sent once those that have are complete. -/
def execAtsInvalidation (fn lo hi : Nat) (s : State) : Host.Outcome State Fault Refusal :=
  let hit (f a b : Nat) : Bool := f == fn && decide (a < hi) && decide (lo < b)
  let waits := s.copies.filterMap fun c =>
    match c.host with
    | some x =>
      if hit x.fn (x.addr + 256 * x.back) x.next && decide (x.back < x.sent.length) then
        some (c.id, x.sent.length)
      else none
    | none => none
  .next { s with
    host := { s.host with
      ats := s.host.ats.filter fun e => !hit e.fn e.lo e.hi
      invals := if waits.isEmpty then s.host.invals else s.host.invals ++ [⟨fn, lo, hi, waits⟩]
      invalDone := if waits.isEmpty then s.host.invalDone ++ [(fn, lo, hi)] else s.host.invalDone }
    copies := s.copies.map fun c =>
      match c.host with
      | some x =>
        if hit x.fn x.next (x.next + x.size x.sent.length) then { c with host := some { x with held := true } }
        else c
      | none => c }

/-- A copy whose next transfer is refused (R314 step 6): no later one issues. What the transfers of a read have read
before is still written; with none of them, and for a write, the entry ends. -/
def CopyOp.refused (c : CopyOp) (x : HostXfer) : CopyOp :=
  let c1 := { c with status := max c.status stHostPage }
  if x.write ∨ x.sent = [] then { c1 with lines := [], targets := [], done := true }
  else
    { c1 with
      host := some { x with len := 256 * x.sent.length, held := false }
      data := if x.back = x.sent.length then some (c.readOut c.got) else c.data }

/-- `ATS_TRANSLATION_RESPONSE` (R314 step 6): a held transfer that receives a translation, of which the first
address is given, may issue; one that is refused ends its entry. The cache holds 8,192 entries. -/
def execAtsTranslationResponse (id : Nat) (granted : Option Nat) (s : State) :
    Host.Outcome State Fault Refusal :=
  match s.copies.find? fun c => c.id == id with
  | none => .next s
  | some c =>
    match c.host with
    | none => .next s
    | some x =>
      if !x.held then .next s
      else
        match granted with
        | some base =>
          let s1 := s.modCopy id fun c => { c with host := some { x with held := false } }
          .next { s1 with host := { s1.host with
            ats := (⟨x.fn, x.next, x.addr + x.len, base⟩ :: s1.host.ats).take 8192 } }
        | none =>
          let s1 := s.modCopy id fun c => c.refused x
          .next (if x.write ∨ x.sent = [] then { s1 with score := s1.score.filter fun e => e.op != id } else s1)

/-! ### The end of a copy -/

/-- The host transfers of a copy that have issued are complete, and unless it has ended all of them have. -/
def CopyOp.hostOver (op : CopyOp) : Bool :=
  match op.host with
  | some x => x.back == x.sent.length && (op.done || x.back == x.count)
  | none => true

/-- A copy has written every byte and its scoreboard entries have retired, or it ended early (R212). -/
def State.copyOver (s : State) (op : CopyOp) : Bool :=
  op.hostOver &&
    (op.done || (op.lines.isEmpty && op.targets.isEmpty && s.score.all fun e => e.op != op.id))

/-- The status word of an entry written (R212). -/
def State.statusWord (s : State) (op : CopyOp) : State :=
  if ceSts op.entry && ceSoffOk (s.launchOf op.gid) op.entry then
    s.modTeam (teamOf op.gid) fun t =>
      t.putSpad (runOf (ceSoff op.entry) (leBytes 4 (op.batch % 2 ^ 16 * 2 ^ 16 + op.status)))
  else s

/-- `COPY_ENTRY_COMPLETE` (R212). -/
def execCopyEntryComplete (id : Nat) (s : State) : Host.Outcome State Fault Refusal :=
  match s.copies.find? fun c => c.id == id with
  | none => .next s
  | some c =>
    if !s.copyOver c then .next s
    else
      let s1 := s.statusWord c
      .next (({ s1 with copies := s1.copies.filter fun x => x.id != id } : State).settleExit c.gid)

end Sys2Proof.Machine
end

