-- ==== Sys2Proof/Machine/CrossLane.lean ====
section
/-! DEFINITION. Cross-lane instructions, random numbers and sampling (R105 to R113). -/

namespace Sys2Proof.Machine

/-- The source lane of `shfl` (R105); lane l's own for a number outside 0 to 95. -/
def shflLane (mode : ShflMode) (l b : Nat) : Nat :=
  let x : Int :=
    match mode with
    | .idx => b
    | .up => (l : Int) - b
    | .dn => (l : Int) + b
    | .xor => (l ^^^ b : Nat)
  if 0 ≤ x ∧ x < 96 then x.toNat else l

/-- `shfl` (R105). -/
def execShfl (d a b : Reg) (wa wb n : Bool) (mode : ShflMode) (s : State) :
    Host.Outcome State Fault Refusal :=
  s.finish (s.laneOp ⟨[sv a wa, sv b wb], [dv d], true⟩ n d 8 fun g l =>
    plain (g.vval a.val (shflLane mode l (g.vval b.val l).toNat)))

/-- `gtov` (R106). -/
def execGtov (d a : Reg) (wa n : Bool) (s : State) : Host.Outcome State Fault Refusal :=
  s.finish (s.laneOp ⟨[sg a wa], [dv d], true⟩ n d 4 fun g _ => plain (lo32 (g.gval s.curS a.val)))

/-- `vtog` (R106). -/
def execVtog (d a b : Reg) (wa wb : Bool) (s : State) : Host.Outcome State Fault Refusal :=
  s.finish <| s.gated ⟨[sv a wa, sg b wb], [dg d], true⟩ <|
    let l := (s.cur.gval s.curS b.val).toNat
    .done (s.uniResult d 4 (plain64 (if l < 96 then (s.cur.vval a.val l).setWidth 64 else 0)))

/-- The values of the present lanes in the places of the tree, none for an absent lane (R89). -/
def Group.present (g : Group) (act : LaneSet) (a : Nat) : List (Option (W32 × Flags)) :=
  laneNums.map fun l => if act.getLsbD l then some (g.vval a l, 0) else none

/-- The result of a reduction: the canonical NaN for an FP32 NaN (R77), the identity with no lane. A subnormal
of a lone lane comes out as it is under FTZ too: R89 passes it through the tree unchanged, where R82 flushes
the operands of an operation. DEDUCED. [A38] -/
def redResult (op : RedOp) (ty : Ty) (r : Option (W32 × Flags)) : W32 × Flags :=
  match r with
  | none => (redNone op ty, 0)
  | some (x, f) => (if ty == .f32 && (fmt32.decode x.toNat).isNan then 0x7FC00000 else x, f)

/-- The 32-bit result of a reduction in a uniform register (R107). -/
def redWide (ty : Ty) (x : W32) : W64 := if ty == .i32 then x.signExtend 64 else x.setWidth 64

/-- `vred` (R89, R107). -/
def execVred (d a : Reg) (wa n : Bool) (op : RedOp) (ty : Ty) (s : State) :
    Host.Outcome State Fault Refusal :=
  s.finish <| s.gated ⟨[sv a wa], [dg d], true⟩ <|
    let r := redResult op ty (tree (redOp op ty s.curMode) (s.cur.present (s.cur.active s.curS n) a.val))
    .done (s.uniResult d 8 (redWide ty r.1, r.2))

/-- `vscn`: for lane l, the tree over the present lanes at or below l (R89, R108). -/
def execVscn (d a : Reg) (wa n : Bool) (op : RedOp) (ty : Ty) (s : State) :
    Host.Outcome State Fault Refusal :=
  s.finish (s.laneOp ⟨[sv a wa], [dv d], true⟩ n d 8 fun g l =>
    redResult op ty (tree (redOp op ty s.curMode)
      (g.present (g.active s.curS n &&& laneSet fun i => decide (i ≤ l)) a.val)))

/-- The present lanes that hold a nonzero value. -/
def Group.votes (g : Group) (act : LaneSet) (a : Nat) : List Nat :=
  (lanesOf act).filter fun l => g.vval a l != 0

/-- The result of `vote` (R109). -/
def voteResult (mode : VoteMode) (present votes : List Nat) : W64 :=
  match mode with
  | .any => bit64 (!votes.isEmpty)
  | .all => bit64 (votes.length == present.length)
  | .cnt => BitVec.ofNat 64 votes.length
  | .lo => BitVec.ofNat 64 ((votes.filter fun l => decide (l < 64)).foldl (fun x l => x + 2 ^ l) 0)
  | .hi =>
    BitVec.ofNat 64 ((votes.filter fun l => decide (64 ≤ l)).foldl (fun x l => x + 2 ^ (l - 64)) 0)

/-- `vote` (R109). -/
def execVote (d a : Reg) (wa n : Bool) (mode : VoteMode) (s : State) : Host.Outcome State Fault Refusal :=
  s.finish <| s.gated ⟨[sv a wa], [dg d], true⟩ <|
    let act := s.cur.active s.curS n
    .done (s.uniResult d 8 (plain64 (voteResult mode (lanesOf act) (s.cur.votes act a.val))))

/-- `ipfx`: the sum over the present lanes strictly below (R108). -/
def execIpfx (d a : Reg) (wa n : Bool) (s : State) : Host.Outcome State Fault Refusal :=
  s.finish (s.laneOp ⟨[sv a wa], [dv d], true⟩ n d 4 fun g l =>
    plain (((lanesOf (g.active s.curS n)).filter fun i => decide (i < l)).foldl
      (fun x i => x + g.vval a.val i) 0))

/-- `rnd` (R110, R111): the counter in gA+1 advances by 96 on every issue. -/
def execRnd (d a : Reg) (wa n : Bool) (s : State) : Host.Outcome State Fault Refusal :=
  s.finish <| s.gated ⟨[sgs a 2 wa], [dv d, ⟨false, a.val + 1, 1, false⟩], true⟩ <|
    let key := s.cur.gval s.curS a.val
    let ctr := s.cur.gval s.curS (a.val + 1)
    .done (((s.laneResult n d 4 fun l => plain (rndF key (ctr + BitVec.ofNat 64 l)))).modCur fun g =>
      g.setG s.curS (a.val + 1) (ctr + 96))

/-- The candidates of `samp` in the places of the tree (R113). -/
def Group.candidates (g : Group) (md : Mode) (act : LaneSet) (a : Nat) (b key ctr : W64) :
    List (Option Cand) :=
  laneNums.map fun l =>
    if act.getLsbD l then
      some (sampScore md (lo32 b) (g.vval a l) (rndF key (ctr + BitVec.ofNat 64 l)),
        hi32 b + BitVec.ofNat 32 l)
    else none

/-- `samp` (R112, R113): the running best in gD:gD+1, the generator in gC:gC+1. -/
def execSamp (d a b c : Reg) (wa wb wc n : Bool) (s : State) : Host.Outcome State Fault Refusal :=
  s.finish <|
    s.gated ⟨[sv a wa, sg b wb, sgs c 2 wc, sgs d 2 false], [dgs d 2, ⟨false, c.val + 1, 1, false⟩], true⟩ <|
    let g := s.cur
    let ctr := g.gval s.curS (c.val + 1)
    let best := tree bestOf (g.candidates s.curMode (g.active s.curS n) a.val (g.gval s.curS b.val)
      (g.gval s.curS c.val) ctr)
    let old : Cand := (lo32 (g.gval s.curS d.val), lo32 (g.gval s.curS (d.val + 1)))
    let put (g : Group) : Group :=
      match best with
      | some x =>
        if better x old then (g.setG s.curS d.val (x.1.setWidth 64)).setG s.curS (d.val + 1)
          (x.2.setWidth 64)
        else g
      | none => g
    .done ((s.modCur fun g => (put g).setG s.curS (c.val + 1) (ctr + 96)).next 8)

end Sys2Proof.Machine
end

