-- ==== Sys2Proof/Machine/Place.lean ====
section
/-! DEFINITION. Launches and places: the rectangle (R265), the record checks (R261, R299), the places of
teams and gangs (R10, R268 to R272, R301), the start and the resumption of a team (R28, R331), and the
end of a launch (R16 step 9, R312, R336). -/

namespace Sys2Proof.Machine

/-! ### Dies and rectangles -/

/-- A die takes part in launches: it has not failed and is not excluded (R15, R339). -/
def State.dieLive (s : State) (d : Nat) : Bool := !(s.die d).failed && !(s.die d).excluded

/-- The dies of a rectangle at an origin within the module, in row-major order (R13, R265). -/
def rectDies (col row w h : Nat) : List Nat :=
  (List.range h).flatMap fun r => (List.range w).map fun c => 2 * (row + r) + (col + c)

/-- The rectangle lies within the module. -/
def inModule (col row w h : Nat) : Bool := decide (col + w ≤ 2) && decide (row + h ≤ 2)

/-- The dies of a dispatched launch. -/
def Launch.dies (l : Launch) : List Nat := rectDies l.col0 l.row0 l.width l.height

/-- The mesh column and row of the origin that a record states, within the module; none outside it (R13). The
module stands alone: the origin of its mesh is D0. -/
def Launch.origin (l : Launch) : Option (Nat × Nat) :=
  let c := field (l.dw 2) 16 5
  let r := field (l.dw 2) 21 5
  if inModule c r l.width l.height then some (c, r) else none

/-- The first origin in row-major order whose dies are all live and lie among those given (R265). -/
def State.floatOrigin (s : State) (w h : Nat) (within : List Nat) : Option (Nat × Nat) :=
  [(0, 0), (1, 0), (0, 1), (1, 1)].find? fun o =>
    inModule o.1 o.2 w h && (rectDies o.1 o.2 w h).all fun d => s.dieLive d && within.contains d

/-- The dies within which a launch's rectangle must lie: its root's, for a child (R265). -/
def State.within (s : State) (l : Launch) : List Nat :=
  match l.parent with
  | none => [0, 1, 2, 3]
  | some _ => (s.launch l.root).dies

/-- The origin that a launch takes at dispatch (R265). -/
def State.dispatchOrigin (s : State) (l : Launch) : Option (Nat × Nat) :=
  if l.float then s.floatOrigin l.width l.height (s.within l) else l.origin

/-! ### Places (R10, R268, R301) -/

/-- What a resident team takes of its core: registers per lane, groups, scratchpad bytes. -/
structure Load where
  rpl : Nat
  groups : Nat
  spad : Nat
  deriving DecidableEq, Repr

/-- What a team of a launch takes. -/
def Launch.load (l : Launch) : Load := ⟨l.rpl, l.groups, l.spad⟩

/-- A core with some teams has room for one more (R10). -/
def hasRoom (used : List Load) (x : Load) : Bool :=
  let all := x :: used
  decide (all.length ≤ 2) && (used.isEmpty || all.all fun u => decide (u.rpl ≤ 64)) &&
    decide (all.foldl (fun n u => n + u.groups) 0 ≤ 32) &&
    decide (all.foldl (fun n u => n + u.rpl * u.groups) 0 ≤ 2048) &&
    decide (all.foldl (fun n u => n + u.spad) 0 ≤ 524288)

/-- What the resident teams of a core take. -/
def State.loadsOn (s : State) (core : Nat) : List Load :=
  (s.teams.filter fun t => t.2.resident && t.2.core == core).map fun t =>
    (s.launch (launchOfTeam t.1)).load

/-- Two tenants may stand in one cluster (R301). -/
def State.together (s : State) (a b : Nat) : Bool := a == b || (flag s.host.coMask a && flag s.host.coMask b)

/-- A tenant may stand in a cluster beside the tenants of its resident teams and of the calls that its service
contexts run (R237, R301). -/
def State.coResident (s : State) (cluster ten : Nat) : Bool :=
  (s.teams.all fun t =>
    !(t.2.resident && clusterOfCore t.2.core == cluster) || s.together (s.launch (launchOfTeam t.1)).ten ten) &&
  s.calls.all fun c =>
    match c.run with
    | some r => (match r.core with
      | some k => clusterOfCore k != cluster || s.together c.ten ten
      | none => true)
    | none => true

/-- Places found so far: team keys with their cores. -/
abbrev Places := List (Nat × Nat)

/-- A core has room for a team of a launch, beside places found already. -/
def State.coreFits (s : State) (l : Launch) (found : Places) (core : Nat) : Bool :=
  !(s.core core).retired && s.dieLive (dieOfCore core) && s.coResident (clusterOfCore core) l.ten &&
    hasRoom (s.loadsOn core ++ (found.filter fun p => p.2 == core).map fun _ => l.load) l.load

/-- First-fit over cores, in order: as many of the teams as find a place. -/
def State.firstFit (s : State) (l : Launch) (cores : List Nat) : List Nat → Places → Places
  | [], found => found
  | t :: r, found =>
    match cores.find? (s.coreFits l found) with
    | none => s.firstFit l cores r found
    | some c => s.firstFit l cores r (found ++ [(t, c)])

/-- The cores of a cluster. -/
def coresOfCluster (c : Nat) : List Nat := (List.range 16).map fun i => 16 * c + i
/-- The cores of a die, cluster by cluster. -/
def coresOfDie (d : Nat) : List Nat := (List.range 160).map fun i => 160 * d + i
/-- The clusters of a die. -/
def clustersOfDie (d : Nat) : List Nat := (List.range 10).map fun i => 10 * d + i

/-- Teams of a gang placed one on each core of a cluster: team 16 g + c on core c; whole when all sixteen cores
have room (R268, GSHAPE 1). -/
def State.onCluster (s : State) (l : Launch) (unit : List Nat) (c : Nat) : Places × Bool :=
  ((unit.map fun t => (t, 16 * c + t % 16)).filter fun p => s.coreFits l [] p.2,
    (coresOfCluster c).all (s.coreFits l []))

/-- The scopes in which a gang of a shape may be placed, in order (R268): each with the place search of
its teams, and whether it holds the unit whole. -/
def State.scopes (s : State) (l : Launch) (dies unit : List Nat) : List (Places × Bool) :=
  let fit (cores : List Nat) : Places × Bool :=
    let p := s.firstFit l cores unit []
    (p, p.length == unit.length)
  match l.gshape with
  | 0 => [fit (dies.flatMap coresOfDie)]
  | 1 => (dies.flatMap clustersOfDie).map (s.onCluster l unit)
  | 2 => dies.map fun d => fit (coresOfDie d)
  | _ => (dies.flatMap clustersOfDie).map fun c => fit (coresOfCluster c)

/-- The places of a unit in the first scope that holds it whole (R268). -/
def State.searchWhole (s : State) (l : Launch) (dies unit : List Nat) : Option Places :=
  ((s.scopes l dies unit).find? (·.2)).map (·.1)

/-- The places that a unit finds: those of the first scope that holds it whole; otherwise those of the scope
that holds most of it, as far as it does (R268, R269). -/
def State.search (s : State) (l : Launch) (dies unit : List Nat) : Places :=
  match s.searchWhole l dies unit with
  | some p => p
  | none => (s.scopes l dies unit).foldl (fun a p => if a.length < p.1.length then p.1 else a) []

/-- The module with its cores empty: no team resident, no call in a service context (R261, REC_FIT, R301). -/
def State.emptied (s : State) : State := { s with teams := [], calls := [] }

/-! ### Units (R268, R272) -/

/-- The gang of a team index: its first index and size; the team alone without gangs. -/
def Launch.unitOf (l : Launch) (idx : Nat) : List Nat :=
  if l.gang = 0 then [idx] else (List.range l.gang).map fun i => idx / l.gang * l.gang + i

/-- The least number of a list. -/
def leastOf : List Nat → Option Nat
  | [] => none
  | x :: r =>
    match leastOf r with
    | none => some x
    | some y => some (min x y)

/-- The next unit of a launch, as team keys (R268, R272): a pre-empted unit first, by increasing index. -/
def State.nextUnit (s : State) (l : Nat) : List Nat :=
  let x := s.launch l
  match leastOf (s.outTeams l) with
  | some t =>
    ((x.unitOf (t % 2 ^ 32)).map (teamKey l)).filter fun k => (s.team k).isOut && (aget s.teams k).isSome
  | none => if x.nextTeam < x.teams then (x.unitOf x.nextTeam).map (teamKey l) else []

/-- A team of a launch is leaving: it is resident, and it is signalled or chosen to be. -/
def State.teamLeaving (s : State) (t : Nat) : Bool :=
  (s.team t).resident && ((s.team t).signalAt.isSome ||
    (match s.dist.victim with
      | some v => launchOfTeam v == launchOfTeam t &&
          ((s.launch (launchOfTeam v)).unitOf (v % 2 ^ 32)).contains (t % 2 ^ 32)
      | none => false))

/-- The unit of a chosen victim has left. -/
def State.victimGone (s : State) : Bool :=
  match s.dist.victim with
  | none => true
  | some t =>
    let l := launchOfTeam t
    ((s.launch l).unitOf (t % 2 ^ 32)).all fun i => !(s.team (teamKey l i)).resident

/-- The victim that is still to leave: the whole of a chosen unit is signalled and leaves before another is
chosen (R271). -/
def State.victimLeft (s : State) : Option Nat := if s.victimGone then none else s.dist.victim

/-- A unit is not placed while a team of its launch with a lower index, or of the unit itself, is leaving
(R272). -/
def State.unitLeaving (s : State) (l : Nat) (unit : List Nat) : Bool :=
  match unit with
  | [] => false
  | t :: _ =>
    s.teams.any fun x => launchOfTeam x.1 == l && s.teamLeaving x.1 &&
      (decide (x.1 ≤ t) || ((s.launch l).unitOf (t % 2 ^ 32)).contains (x.1 % 2 ^ 32))

/-- The teams from which a launch descends, its own parent first (R276). -/
def State.parentTeams (s : State) : Nat → Nat → List Nat
  | 0, _ => []
  | n + 1, l =>
    match (s.launch l).parent with
    | none => []
    | some t => t :: s.parentTeams n (launchOfTeam t)

/-- A team that gave way to its descendants stays out until they have been placed (R276). -/
def State.givesWay (s : State) (t : Nat) : Bool :=
  (s.team t).displaced && s.launches.any fun l =>
    l.2.phase != .ended && s.unplaced l.1 && (s.parentTeams 12 l.1).contains t

/-- The windows that the groups of a launch hold (R29). -/
def State.windowsOf (s : State) (l : Nat) : List Nat :=
  s.groups.filterMap fun g => if launchOfTeam (teamOf g.1) = l then g.2.window else none

/-- Windows are free for the groups of so many new teams (R29). -/
def State.windowsFree (s : State) (l n : Nat) : Bool :=
  decide ((s.windowsOf l).length + n * (s.launch l).groups ≤ 43690)

/-- Where the next unit of a launch goes, on dies that may be used: all its places, where it fits. -/
def State.unitPlaces (s : State) (l : Nat) (dies : List Nat) : Option Places :=
  let unit := s.nextUnit l
  let x := s.launch l
  let fresh := unit.filter fun t => (aget s.teams t).isNone
  if unit.isEmpty || s.unitLeaving l unit || !s.windowsFree l fresh.length then none
  else s.searchWhole x dies unit

/-- Launches being placed that have an unplaced unit, best first (R269): higher effective priority, then
earlier from dispatch. -/
def insLaunch (s : State) (l : Nat) : List Nat → List Nat
  | [] => [l]
  | x :: r =>
    let a := s.launch l
    let b := s.launch x
    if b.eff < a.eff ∨ (a.eff = b.eff ∧ a.leftNo < b.leftNo) then l :: x :: r else x :: insLaunch s l r

/-- The candidates of R269 in order. -/
def State.waiting (s : State) : List Nat :=
  (s.launches.filter fun l => l.2.phase == .placing && s.unplaced l.1 &&
      !(s.nextUnit l.1).any s.givesWay).foldl
    (fun a l => insLaunch s l.1 a) []

/-- The unit to be placed next (R269): the candidate's, or, while it waits, the first one that fits on
cores outside the candidate's rectangle. None until the best launch has become the candidate (R270). -/
def State.pickUnit (s : State) : Option (Nat × Places) :=
  match s.waiting with
  | [] => none
  | c :: rest =>
    if s.dist.cand ≠ some c then none
    else match s.unitPlaces c (s.launch c).dies with
    | some p => some (c, p)
    | none =>
      let taken := (s.launch c).dies
      rest.findSome? fun l =>
        (s.unitPlaces l ((s.launch l).dies.filter fun d => !taken.contains d)).map fun p => (l, p)

/-! ### Start and resumption of a team -/

/-- The generation of the next team placed on a core (R28). -/
def State.nextGen (s : State) (core : Nat) : BitVec 16 :=
  let g := (s.core core).gen + 1
  if (s.residentGen core g).isSome then g + 1 else g

/-- The first `n` windows that no group of the launch holds (R29). -/
def freeWindows (used : List Nat) : Nat → Nat → Nat → List Nat
  | 0, _, _ => []
  | _, 0, _ => []
  | f + 1, n + 1, w =>
    if used.contains w then freeWindows used f (n + 1) (w + 1) else w :: freeWindows used f n (w + 1)

/-- A team placed for the first time (R28, R29, R57, R139, R278). -/
def State.startTeam (s : State) (key core : Nat) : State :=
  let l := launchOfTeam key
  let x := s.launch l
  let gen := s.nextGen core
  let used := s.windowsOf l
  let ws := freeWindows used (used.length + x.groups) x.groups 0
  let t : Team := { Team.absent with
    launch := l
    idx := key % 2 ^ 32
    groups := x.groups
    core := core
    gen := gen
    resident := true
    order := s.dist.placed
    lastCluster := clusterOfCore core
    retired := false }
  let s1 := (s.setTeam key t).modCore core fun c => { c with gen := gen }
  let s2 := (List.range x.groups).foldl (fun a i =>
    a.setGroup (16 * key + i) { Group.start x.code with window := ws[i]? }) s1
  let s3 := { s2 with dist := { s2.dist with placed := s2.dist.placed + 1 } }
  s3.modLaunch l fun y => { y with nextTeam := max y.nextTeam (key % 2 ^ 32 + 1) }

/-- A sector belongs to a launch's tables or to its private table (R158). -/
def Launch.ownsSector (x : Launch) (l sec : Nat) : Bool :=
  if isPriv (64 * sec) then privLaunch (64 * sec) == l
  else x.reads (tidOfKey (64 * sec)) || x.writesTo (tidOfKey (64 * sec))

/-- A group that was live when its team left enters its resume handler (R331, R324): doubleword 0 of its
pre-emption frame is presented with CAUSE 21. -/
def State.resumeGroup (s : State) (gid : Nat) : State :=
  if (s.group gid).status != .yielded then s
  else
    let key := s.frameKey gid true
    let x := s.homeSeen ((List.range 16).map fun i => key + i)
    let dw0 := withField (dwOf x.bytes 0) 8 8 Cause.resume.code
    (s.logTags x.tags).modGroup gid fun g =>
      { g.handler (s.launchOf gid).resh 0 (s.saveRow (teamOf gid)) key dw0 (dwOf x.bytes 1) with
        status := .running
        resuming := true }

/-- A pre-empted team placed again (R158, R331). -/
def State.resumeTeam (s : State) (key core : Nat) : State :=
  let l := launchOfTeam key
  let x := s.launch l
  let gen := s.nextGen core
  let moved := (s.team key).lastCluster != clusterOfCore core
  let s1 := (s.modTeam key fun t =>
      { t with core := core, gen := gen, resident := true, order := s.dist.placed, displaced := false }).modCore
    core
    fun c => { c with gen := gen }
  let s2 := if moved then s1.dropSectors (clusterOfCore core) (x.ownsSector l) else s1
  let s3 := { s2 with dist := { s2.dist with placed := s2.dist.placed + 1 } }
  ((List.range x.groups).foldl (fun a i => a.resumeGroup (16 * key + i)) s3).settleTeam key

/-- A unit placed: its teams start or resume in one cycle (R269), and the aging of its launch stops with
the last unit (R263). -/
def State.placeUnit (s : State) (l : Nat) (ps : Places) : State :=
  let s1 := ps.foldl (fun a p =>
    if (aget a.teams p.1).isSome then a.resumeTeam p.1 p.2 else a.startTeam p.1 p.2) s
  let s2 := if s1.unplaced l then s1 else s1.ageSwitch l
  let s3 : State := { s2 with dist := { s2.dist with victim := s.victimLeft } }
  if s3.dist.cand = some l then { s3 with dist := { s3.dist with reserved := [], candAt := s.now } } else s3

/-! ### The record checks (R261, R299) -/

/-- `n` bytes at a position of a table lie in its slots (R27 step 4). -/
def State.tableHolds (s : State) (tid pos n : Nat) : Bool :=
  decide ((pos + n - 1) / (s.table tid).rowSize < (s.table tid).slots)

/-- The doublewords of `n` bytes at a table handle, read at the home. -/
def State.homeWords (s : State) (h : W64) (n : Nat) : List W64 :=
  wordsOf (s.homeSeen ((List.range n).map fun i => h.toNat + i)).bytes

/-- The entries of a grant list: table, read and write right; none where a must-be-zero bit is set. -/
def State.grantList (s : State) (l : Launch) : Option (List (Nat × Bool × Bool)) :=
  let n := field (l.dw 9) 0 12
  let b := (s.homeSeen ((List.range (4 * n)).map fun i => (l.dw 8).toNat + i)).bytes
  let ws := (List.range n).map fun i => (wOf b (4 * i)).setWidth 64
  if ws.all fun w => field w 22 10 == 0 then
    some (ws.map fun w => (field w 0 20, flag w 20, flag w 21))
  else none

/-- A launch, or the tenant for a host record, may read a table while its record is checked. -/
def State.mayRead (s : State) (l : Launch) (tid : Nat) : Bool :=
  match l.parent with
  | none => (s.table tid).ten == l.ten
  | some p => (s.launch (launchOfTeam p)).reads tid

/-- A table range that the arbiter may read for a record: usable, readable, within its slots, aligned. -/
def State.arbiterMay (s : State) (l : Launch) (h : W64) (n al : Nat) : Bool :=
  let tid := tidOf h
  spaceOf h == 0 && !(s.table tid).poisonDesc && (s.table tid).usable tid && s.mayRead l tid &&
    s.tableHolds tid (posOf h) n && posOf h % al == 0

/-- A table range that the arbiter reads for a record, and that is not poisoned. -/
def State.arbiterRange (s : State) (l : Launch) (h : W64) (n al : Nat) : Bool :=
  s.arbiterMay l h n al && !s.anyPoison ((List.range n).map fun i => h.toNat + i)

/-- The error log after a read of the arbiter or the Stag (R306). -/
def State.logRead (s : State) (l : Launch) (h : W64) (n al : Nat) : State :=
  if s.arbiterMay l h n al then s.logTags (s.homeSeen ((List.range n).map fun i => h.toNat + i)).tags else s

/-- The key slot that a sealed key row names (R302), where the row can be read. -/
def State.sealedSlot (s : State) (l : Launch) : Option Nat :=
  if l.key = 0 then none
  else if s.arbiterRange l l.key 128 128 then some (field (dwAt (s.homeWords l.key 8) 0) 41 9)
  else none

/-- REC_FIELD. -/
def recField (l : Launch) : Bool :=
  field (l.dw 2) 61 3 == 0 && field (l.dw 2) 37 11 == 0 && field (l.dw 2) 10 6 == 0 &&
    field (l.dw 7) 52 12 == 0 && field (l.dw 9) 12 52 == 0 && field (l.dw 11) 36 28 == 0 &&
    ([12, 13, 14, 15].all fun i => l.dw i == 0) &&
    (!l.float || field (l.dw 2) 16 10 == 0) &&
    l.rpl % 8 == 0 && decide (8 ≤ l.rpl) && decide (l.rpl ≤ 128) && decide (l.spad ≤ 524288) &&
    (l.preh == 0 || decide (4096 ≤ l.deadl)) && (l.preh == 0) == (l.resh == 0)

/-- REC_SHAPE. -/
def recShape (l : Launch) : Bool :=
  if l.gang = 0 then l.gshape == 0
  else l.teams % l.gang == 0 && (l.gshape != 1 || l.gang == 16)

/-- REC_FIT: on empty cores of the rectangle; a floating rectangle, or one outside the module, is judged
at the module's first origin [A20]. -/
def State.recFit (s : State) (l : Launch) : Bool :=
  let o := match l.origin with
    | some o => if l.float then (0, 0) else o
    | none => (0, 0)
  let o' := if l.float then (s.floatOrigin l.width l.height (s.within l)).getD o else o
  let dies := (rectDies o'.1 o'.2 (min l.width 2) (min l.height 2)).filter fun d => decide (d < 4)
  decide (l.rpl * l.groups ≤ 2048) &&
    (l.gang == 0 || (s.emptied.searchWhole l dies (List.range l.gang)).isSome)

/-- REC_RECT: this module is not part of a larger mesh's rectangle (R372). -/
def State.recRect (s : State) (l : Launch) : Bool :=
  if l.float then decide (l.width ≤ 2) && decide (l.height ≤ 2)
  else
    match l.origin with
    | none => false
    | some o => (rectDies o.1 o.2 l.width l.height).all s.dieLive

/-- REC_CODE, on a list of grants. -/
def recCode (l : Launch) (gs : List (Nat × Bool × Bool)) : Bool :=
  let hs := [l.code] ++ ([l.traph, l.preh, l.resh].filter fun h => h != 0)
  (hs.all fun h => spaceOf h == 0 && tidOf h == l.codeTable && posOf h % 4 == 0) &&
    gs.any fun g => g.1 == l.codeTable && g.2.1

/-- The table that a broadcast layout names (R260). -/
def State.layoutTable (s : State) (l : Launch) : Option Nat :=
  if l.layout = 0 then none else some (field (dwAt (s.homeWords l.layout 16) 0) 0 20)

/-- REC_GRANT with the checks of R299 and R309. -/
def State.recGrant (s : State) (l : Launch) (gs : List (Nat × Bool × Bool)) : Bool :=
  let slot := match l.parent with
    | none => s.sealedSlot l
    | some _ => (s.launch l.root).slot
  (gs.all fun g =>
    let t := s.table g.1
    t.usable g.1 && !t.poisonDesc && t.ten == l.ten && (!t.ownw || slot == some t.kslot) &&
      (match l.parent with
        | none => true
        | some p =>
          let par := s.launch (launchOfTeam p)
          (!g.2.1 || par.reads g.1) && (!g.2.2 || par.writesTo g.1))) &&
    (match s.layoutTable l with
      | some tid => !(s.table tid).ownw
      | none => true)

/-- REC_SAVE with the check of R299. -/
def State.recSave (s : State) (l : Launch) : Bool :=
  let t := s.table l.save
  (l.preh == 0 && l.traph == 0) ||
    (t.usable l.save && t.dense && decide (l.teams ≤ t.cap) && decide (2048 * l.groups ≤ t.rowSize) &&
      (l.key == 0 || (t.ownw && s.sealedSlot l == some t.kslot)))

/-- REC_DEPTH: for a child, KEY and LAYOUT are zero and the rectangle lies in the root's. -/
def State.recDepth (s : State) (l : Launch) : Bool :=
  match l.parent with
  | none => field (l.dw 11) 0 36 == 0
  | some _ =>
    let r := s.launch l.root
    l.key == 0 && l.layout == 0 &&
      (if l.float then decide (l.width ≤ r.width) && decide (l.height ≤ r.height)
      else
        match l.origin with
        | some o => (rectDies o.1 o.2 l.width l.height).all r.dies.contains
        | none => false)

/-- The code of R261 with which a record is refused; 0 for an accepted one. `bad` says that the record
could not be read whole (R334). -/
def State.recordCheck (s : State) (l : Launch) (bad : Bool) : Nat :=
  if bad || !recField l then 1
  else if !recShape l then 2
  else if !s.recFit l then 3
  else if !s.recRect l then 4
  else if !s.arbiterRange l (l.dw 8) (4 * field (l.dw 9) 0 12) 4 then 6
  else
    match s.grantList l with
    | none => 6
    | some gs =>
      if !recCode l gs then 5
      else if !s.recGrant l gs then 6
      else if !s.recSave l then 7
      else if flag (l.dw 1) 63 && !flag s.host.privMask l.ten then 8
      else if !s.recDepth l then 9
      else 0

/-- The error log after the reads that the checks of a record have made, with the code that they ended in (R261,
R306): the record, its grant list, the rows that KEY and LAYOUT name. -/
def State.logRecord (s : State) (l : Launch) (h : W64) (code : Nat) : State :=
  let s1 := s.logRead l h 128 128
  if code ≠ 0 ∧ code < 5 then s1
  else
    let s2 := s1.logRead l (l.dw 8) (4 * field (l.dw 9) 0 12) 4
    if code = 5 then s2
    else
      let s3 := if l.key = 0 then s2 else s2.logRead l l.key 128 128
      if l.layout = 0 then s3 else s3.logRead l l.layout 16 8

/-- A launch accepted (R261, R263, R276): its %launch value and the state. Nothing is left of an ended launch that
had the value before. -/
def State.accept (s : State) (l : Launch) (eff : Nat) : State × Nat :=
  let n := s.dist.nextLaunch
  let next := (n + 1) % 2 ^ 32
  let root := match l.parent with
    | none => n
    | some _ => l.root
  let x := { l with
    grants := (s.grantList l).getD []
    root := root
    phase := .accepted
    eff := max l.prio eff
    ageFrom := s.now
    accNo := s.dist.accepted
    priv := match l.parent with
      | none => flag (l.dw 1) 63
      | some _ => (s.launch root).priv
    slot := match l.parent with
      | none => none
      | some _ => (s.launch root).slot }
  ({ s with
      launches := aput s.launches n x
      teams := s.teams.filter fun t => launchOfTeam t.1 != n
      dist := { s.dist with
        nextLaunch := if next = 0 then 1 else next
        accepted := s.dist.accepted + 1 } }, n)

/-! ### The end of a launch -/

/-- The launches that descend from one, itself among them, that have not ended. -/
def State.family (s : State) (l : Nat) : List Nat :=
  (s.launches.filter fun x => x.2.phase != .ended && x.2.phase != .ending && s.descends 12 x.1 l).map (·.1)

/-- The groups of several launches stop without save (R336 step 3): their regions end, their engines'
work is cancelled, their calls are lost. Their writes that have not left for a home are discarded with their cores'
state; no store is sealed once the key is gone (R304, R308). DESIGN CHOICE. [A74] -/
def State.killTeams (s : State) (ls : List Nat) : State :=
  let mine (gid : Nat) : Bool := ls.contains (launchOfTeam (teamOf gid))
  let team (t : Nat) : Bool := ls.contains (launchOfTeam t)
  let s1 := (s.regions.filter fun r => mine r.gid).foldl (fun a r => a.abortRegion r.gid rgSource) s
  { s1 with
    groups := s1.groups.filter fun g => !mine g.1
    teams := s1.teams.map fun t =>
      if team t.1 then (t.1, { t.2.scrub with retired := true, children := [], signalAt := none }) else t
    fills := s1.fills.filter fun f => !mine f.gid
    writes := s1.writes.filter fun w => !mine w.gid || (w.gone && w.toHome) || w.inCopy
    copies := s1.copies.filter fun c => !mine c.gid
    gathers := s1.gathers.filter fun g => !mine g.gid
    mats := s1.mats.filter fun m => !mine m.gid
    arrivals := s1.arrivals.filter fun a => !mine a.gid
    score := s1.score.filter fun e => !team e.team
    edges := s1.edges.filter fun e => !mine e.src && !mine e.dst
    restores := s1.restores.filter fun r => !mine r.1
    calls := s1.calls.filter fun c => !ls.contains c.launch
    tables := s1.tables.map fun t =>
      match t.2.held with
      | some h => if mine (h.who / 2) then (t.1, { t.2 with held := none }) else t
      | none => t }

/-- A channel leaves broadcast mode (R253): firmware changes its mode key. -/
def State.leaveMode (s : State) (ch : Nat) : State :=
  match aget s.channels ch with
  | none => s
  | some c =>
    { s with
      fresh := s.fresh + 1
      channels := aput s.channels ch
        { c with holder := none, sweeps := [], half := false, alertAt := none,
                 key := Config.modeKey ch s.fresh } }

/-- The channels that a launch holds in broadcast mode. -/
def State.heldChannels (s : State) (l : Nat) : List Nat :=
  (s.channels.filter fun c => c.2.holder == some l).map (·.1)

/-- A user of a key slot gone: the slot is zeroed with its last one (R304). -/
def State.releaseSlot (s : State) (slot : Nat) : State :=
  match aget s.stag.slots slot with
  | none => s
  | some k =>
    let slots := if k.count ≤ 1 then adel s.stag.slots slot
      else aput s.stag.slots slot { k with count := k.count - 1 }
    { s with stag := { s.stag with slots := slots } }

/-- The private table of a launch zeroed, its lines and the writes on their way to it dropped, and its pages freed
(R307, R312). -/
def State.scrubPrivate (s : State) (l : Nat) : State :=
  let lo := privBase + l * 2 ^ 42
  let inside (k : Nat) : Bool := decide (lo ≤ k) && decide (k < lo + 2 ^ 42)
  let s1 : State := { s with writes := s.writes.filter fun w => w.spadOf.isSome || w.data.all fun d => !inside d.1 }
  (s1.clearUnits lo (2 ^ 42)).modMem fun m =>
    { m with
      l1 := m.l1.filter fun e => !inside (keyOfCopy e.1)
      vis := m.vis.filter fun e => !inside (keyOfCopy e.1)
      privPages := m.privPages.filter fun p => !inside (p.2 * 2 ^ 21) }

/-- The highest operating point among the launches placed or pending on a die (R267). -/
def State.ophOf (s : State) (d : Nat) : Nat :=
  s.launches.foldl (fun n l => if l.2.phase == .placing && l.2.dies.contains d then max n l.2.oph else n) 0

/-- Provisional rows deleted one after the other (R36). -/
def State.dropDrafts (s : State) (rows : List (Nat × Nat)) : State :=
  rows.foldl (fun a r => (a.recallRow r.1 r.2).deleteRow r.1 r.2) s

/-- The step 9 actions of R16 for one launch, and its status (R312, R304, R41, R266, R267). -/
def State.endLaunch (s : State) (l status : Nat) : State :=
  let x := s.launch l
  let s0 := s.dropDrafts (s.draftsOf l)
  let s1 := (s0.heldChannels l).foldl State.leaveMode s0
  let s2 := s1.scrubPrivate l
  let s3 := match x.parent, x.slot with
    | none, some k => s2.releaseSlot k
    | _, _ => s2
  let s4 := s3.modMem fun m => { m with pins := m.pins.filter fun p => p.launch != l }
  let s5 := s4.modLaunch l fun y => { y with phase := .ended, status := status }
  let s6 := x.dies.foldl (fun a d =>
    a.modDie d fun y => { y with routes := y.routes.filter (· != l), oph := a.ophOf d }) s5
  let s7 := { s6 with dist := { s6.dist with
    reserved := if s6.dist.cand == some l then [] else s6.dist.reserved
    cand := if s6.dist.cand == some l then none else s6.dist.cand
    victim := s6.dist.victim.filter fun t => launchOfTeam t != l } }
  match x.parent with
  | none => s7
  | some p =>
    (s7.modLaunch x.root fun r => { r with childStatus := max r.childStatus status }).settleTeam p

/-- The provisional rows of a launch can be deleted (R36, R230). -/
def State.draftsFree (s : State) (l : Nat) : Bool := (s.draftsOf l).all fun r => !s.rowHeld r.1 r.2

/-- A launch whose teams are gone ends with a status; where a provisional row of it cannot be deleted yet, once
it can (R230). -/
def State.closeLaunch (s : State) (l status : Nat) : State :=
  if s.draftsFree l then s.endLaunch l status
  else s.modLaunch l fun y => { y with phase := .ending, status := status }

/-- A launch and its descendants stopped without save, their broadcast modes turned off (R336 steps 3 and 4, R329,
R369): `stop` marks an end by the host, `unit` names the failed unit. -/
def State.stopLaunch (s : State) (l status : Nat) (stop : Bool) (unit : Nat) : State :=
  let fam := s.family l
  let s0 := s.killTeams fam
  let s1 := (fam.flatMap s0.heldChannels).foldl State.leaveMode s0
  let s2 := fam.foldl (fun a x =>
    a.modLaunch x fun y => { y with stopped := stop, unit := unit }) s1
  fam.foldl (fun a x => a.closeLaunch x status) s2

/-- COMPLETED, ACCESS, ROUTE_CHECK, LAYOUT_CHANNEL, PREEMPT_FAILED and FAULTED (R368). -/
def lsCompleted : Nat := 0
def lsAccess : Nat := 1
def lsRouteCheck : Nat := 2
def lsLayout : Nat := 3
def lsPreempt : Nat := 4
def lsFaulted : Nat := 5

end Sys2Proof.Machine
end

