-- ==== Sys2Proof/Machine/Recovery.lean ====
section
/-! DEFINITION. `yieldp` and `hret` (R327, R330), and the events of traps, pre-emption and resumption
(R323, R328, R329, R331). -/

namespace Sys2Proof.Machine

/-! ### yieldp (R330) -/

/-- A group leaves its core: its register-slots are overwritten (R312); its split stack, batch numbers,
status and window travel with it (R331). -/
def Group.leaveCore (g : Group) : Group :=
  { g with
    v := []
    g := []
    emptyV := 0
    emptyG := 0
    poisonV := 0
    poisonG := 0
    marks := []
    s0 := Slot.free
    s1 := Slot.free
    preds := List.replicate 8 0
    pch := 0
    busy := 0
    status := .yielded
    signal := false
    barWait := g.barWait.filter (waitBelow g.frames) }

/-- Nothing of the group that `yieldp` waits for in its step 1 is outstanding. -/
def State.engineQuiet (s : State) (gid : Nat) : Bool :=
  (s.mats.all fun m => m.gid != gid) && (s.copies.all fun c => c.gid != gid) &&
    (s.gathers.all fun g => g.gid != gid) && s.calls.all fun c => c.gid != gid || !c.live

/-- The sectors that `yieldp` writes back (R158): those of the launch's tables and of the group's private
window. -/
def State.yieldSectors (s : State) (gid sec : Nat) : Bool :=
  if isPriv (64 * sec) then
    match s.windowKeys gid with
    | some (lo, n) => decide (lo ≤ 64 * sec) && decide (64 * sec < lo + n)
    | none => false
  else (s.launchOf gid).ownsSector (launchOfTeam (teamOf gid)) sec

/-- The last step of `yieldp`: the group leaves, and its team with its last live group. -/
def State.yieldGroup (s : State) (gid : Nat) : State :=
  (s.modGroup gid Group.leaveCore).settleTeam (teamOf gid)

/-- `yieldp` (R158, R330). Its write-backs follow every store and atomic of the group; once they have been
sent its slot stands in a release, and they are sent again while the group's other slot may have dirtied
more (stage 0). -/
def execYieldp (s : State) : Host.Outcome State Fault Refusal :=
  s.finish <| s.outside <| check s.cur.preLive .access <|
    if !s.engineQuiet s.curG then .wait s
    else if (s.cur.slot s.curS).stage == 1 then s.release true (.done (s.yieldGroup s.curG))
    else
      let p := s.yieldSectors s.curG
      if s.countHeld || s.softPending s.curG p then .wait s
      else
        let r := s.sendBacks s.curG s.curCluster p
        if !r.2 then .wait r.1
        else if r.1.released true then .done (r.1.yieldGroup s.curG)
        else .wait (r.1.releasing.setStage (bnat (s.cur.slot (!s.curS)).path.isNone))

/-! ### hret (R327) -/

/-- The registers that `hret` writes may be written: those with pending fills and those that a matrix
operation holds make it wait (R62, R63). -/
def State.restorable (s : State) : Bool :=
  let m := regSet 136 0 4 ||| regSet 136 120 3 ||| regSet 136 128 3
  s.cur.emptyG &&& m == 0 && (s.cur.emptyV ||| s.heldOf s.curG) &&& regSet 128 0 2 == 0

/-- A frame passes the checks of `hret` (R327). -/
def Group.frameOk (g : Group) (l : Launch) (b : List Byte) : Bool :=
  let r0 := recordPath b 2
  let r1 := recordPath b 8
  let kind := field (dwOf b 0) 0 8
  g.s1.path.isNone && g.stack.length == field (dwOf b 30) 0 13 && g.recordOk l r0 && g.recordOk l r1 &&
    (!(r0.1 && r1.1) || r0.2.lanes &&& r1.2.lanes == 0) && (kind == 1 || kind == 2)

/-- `hret` of the issuing group (R327): the cluster's dirty bytes of the frame are written back and the frame
is read at the home. A frame that reads as poisoned ends the launch FAULTED (R334). -/
def State.returnFromHandler (s : State) : Res :=
  let gid := s.curG
  let cl := s.curCluster
  match s.cur.lastFrame with
  | none => .trap .access 0
  | some pre =>
    let key := s.frameKey gid pre
    let secs := frameSectors key
    let inFrame (sec : Nat) : Bool := secs.contains sec
    if s.softPending gid inFrame ||
        (if (s.dirtySectors cl inFrame).isEmpty then s.sectorsBusy cl secs else s.sectorsHeld cl secs) then
      .wait s
    else
      let s1 := s.flushSectors cl inFrame
      let x := s1.homeSeen ((List.range 1024).map fun i => key + i)
      let l := s.curLaunch
      if x.bad then
        .done ((s1.logTags x.tags).stopLaunch (launchOfTeam (teamOf gid)) lsFaulted false (l.dies.headD 0))
      else if s.cur.frameOk l x.bytes then .done (s1.modGroup gid fun g => g.fromFrame x.bytes pre)
      else .done (s1.halt gid Cause.access.code s.curPath.pc)

/-- `hret` (R327). -/
def execHret (s : State) : Host.Outcome State Fault Refusal :=
  s.finish <| s.outside <| if s.restorable then s.returnFromHandler else .wait s

/-! ### Traps (R323) -/

/-- `TRAP_ENTRY` (R323): the entry that a trap has begun takes place once the group's pending fills have
completed. -/
def execTrapEntry (gid slot code detail : Nat) (s : State) : Host.Outcome State Fault Refusal :=
  match (s.group gid).entering with
  | some e =>
    if !e.pre && bnat e.s1 == slot && e.code == code && e.detail.toNat == detail then .next (s.settle gid)
    else .next s
  | none => .next s

/-! ### Pre-emption (R328, R329) -/

/-- A team may be signalled: its launch has a PREH, it is resident, no signal stands, and every resume handler
of it has returned. -/
def State.signallable (s : State) (t : Nat) : Bool :=
  let gs := (List.range (s.team t).groups).map fun i => s.group (16 * t + i)
  (s.launch (launchOfTeam t)).preh != 0 && (s.team t).resident && (s.team t).signalAt.isNone &&
    gs.all fun g => !g.resuming

/-- A pre-emption signal reaches a team: its live groups take it; a team that has none leaves. -/
def State.signalTeam (s : State) (t : Nat) : State :=
  State.settleTeam (t := t) <| (List.range (s.team t).groups).foldl (fun a i =>
    if (a.group (16 * t + i)).status == .running then
      a.modGroup (16 * t + i) fun g => { g with signal := true }
    else a) (s.modTeam t fun x => { x with signalAt := some s.now })

/-- `PREEMPT_SIGNAL` (R328). -/
def execPreemptSignal (launch team : Nat) (s : State) : Host.Outcome State Fault Refusal :=
  let t := teamKey launch team
  .next (if s.signallable t then s.signalTeam t else s)

/-- A group takes a standing signal at a boundary: no word of it is half done, and no trap or abort of it
is under way. -/
def State.canPreempt (s : State) (gid : Nat) : Bool :=
  let g := s.group gid
  g.signal && g.status == .running && g.entering.isNone && !g.midWord && (aget s.restores gid).isNone

/-- `PREEMPT_ENTRY` (R328): the signal is taken, or the entry that it began takes place. -/
def execPreemptEntry (gid : Nat) (s : State) : Host.Outcome State Fault Refusal :=
  match (s.group gid).entering with
  | some e => .next (if e.pre then s.settle gid else s)
  | none =>
    .next (if s.canPreempt gid then s.takeEntry gid ⟨false, true, Cause.preempt.code, 0, 0⟩ else s)

/-- `PREEMPT_DEADLINE_MISS` (R329). -/
def execPreemptDeadlineMiss (team : Nat) (s : State) : Host.Outcome State Fault Refusal :=
  let x := s.team team
  match x.signalAt with
  | some a =>
    if x.resident && decide (a + (s.launch (launchOfTeam team)).deadl ≤ s.now) then
      .next (s.stopLaunch (launchOfTeam team) lsPreempt false 0)
    else .next s
  | none => .next s

/-! ### Resumption (R272, R331) -/

/-- `TEAM_RESUME`: the unit to be placed next is this pre-empted team. -/
def execTeamResume (team : Nat) (s : State) : Host.Outcome State Fault Refusal :=
  match s.pickUnit with
  | some (l, [p]) =>
    if p.1 == team && (s.team team).isOut && (aget s.teams team).isSome then .next (s.placeUnit l [p])
    else .next s
  | _ => .next s

end Sys2Proof.Machine
end

