-- ==== Sys2Proof/Machine/Aphid.lean ====
section
/-! DEFINITION. The Aphid unit and the service context (R249 to R252): the remote subset, one
instruction of it, and the run of a called function (R242, R243, R247). -/

namespace Sys2Proof.Machine

/-- Fault codes of a callee (R243). -/
inductive RFault where
  | illegal | bankOut | align | handleFault | access | poison | predOvf | relocating | tableAbsent
  | ranOff
  deriving DecidableEq, Repr

/-- The code of a remote fault (R243). -/
def RFault.code : RFault → Nat
  | .illegal => 1 | .bankOut => 2 | .align => 3 | .handleFault => 4 | .access => 5 | .poison => 6
  | .predOvf => 7 | .relocating => 8 | .tableAbsent => 9 | .ranOff => 10

/-- An Aphid with every register zero (R242). -/
def Aphid.zero : Aphid := ⟨List.replicate 16 (List.replicate 8 0), List.replicate 8 0,
  List.replicate 16 0, []⟩

/-- A lane word of an Aphid register. -/
def Aphid.lane (u : Aphid) (r l : Nat) : W32 := (u.v.getD r []).getD l 0
/-- The mask top. -/
def Aphid.top (u : Aphid) : BitVec 8 := u.stack.headD 0xFF
/-- The active lanes, with N or under the mask top (R252). -/
def Aphid.active (u : Aphid) (n : Bool) : BitVec 8 := if n then 0xFF else u.top
/-- A B or C field: a lane register, or 16 to 23 for g0 to g7 in every lane (R249). -/
def Aphid.operand (u : Aphid) (r l : Nat) : W32 :=
  if r < 16 then u.lane r l else lo32 (dwAt u.g (r - 16))
/-- Poisoned lanes of an operand. -/
def Aphid.poisOf (u : Aphid) (r : Nat) : BitVec 8 := if r < 16 then u.pois.getD r 0 else 0

/-- A register written in the lanes of a set, with the poison of the lanes in `p`. -/
def Aphid.set (u : Aphid) (act : BitVec 8) (r : Nat) (f : Nat → W32) (p : BitVec 8) : Aphid :=
  { u with
    v := setAt u.v r ((List.range 8).map fun l => if act.getLsbD l then f l else u.lane r l)
    pois := setAt u.pois r ((u.pois.getD r 0 &&& ~~~act) ||| (p &&& act)) }

/-- The D or A field of an Aphid word names v0 to v15. -/
def aphReg (r : Reg) : Bool := decide (r.val < 16)
/-- The B or C field may also name g0 to g7. -/
def aphSrc (r : Reg) : Bool := decide (r.val < 24)

/-- The remote subset (R250): opcodes, registers, zero W bits, and the limits of R251 and R252. -/
def remoteOk (broadcast : Bool) : Instr → Bool
  | .iaddI32 d a b wa wb _ | .isubI32 d a b wa wb _ | .imulI32 d a b wa wb _
  | .iand d a b wa wb _ | .ior d a b wa wb _ | .ixor d a b wa wb _
  | .faddF32 d a b wa wb _ | .fmulF32 d a b wa wb _
  | .icmp d a b wa wb _ _ _ | .fcmpF32 d a b wa wb _ _
  | .faddH2 d a b wa wb _ _ | .fmulH2 d a b wa wb _ _ =>
    aphReg d && aphReg a && aphSrc b && !wa && !wb
  | .fmaF32 d a b c wa wb wc _ | .fmaH2 d a b c wa wb wc _ _ =>
    aphReg d && aphReg a && aphSrc b && aphSrc c && !wa && !wb && !wc
  | .inot d a wa _ | .imov d a wa _ => aphReg d && aphReg a && !wa
  | .ili d _ _ => aphReg d
  | .ld d a wa _ sx m => aphReg d && aphReg a && !wa && !sx && memOk a m
  | .st a b wa wb _ m => aphReg a && aphSrc b && !wa && !wb && memOk a m
  | .pdp a wa _ => aphReg a && !wa
  | .pdi | .pdo => true
  | .ret a wa => a.val == 0 && !wa && !broadcast
  | _ => false
where
  memOk (a : Reg) (m : MemExt) : Bool :=
    m.wid == .w4 && m.ord == .relaxed && m.obs == ⟨false, false, false, false, false⟩ &&
      m.hint == .normal && (!broadcast || (a.val == 0 && m.off == 0))

/-- The lane registers that an arithmetic or store word reads in its active lanes; the mask push reads its
condition. -/
def remoteReads : Instr → List Nat
  | .iaddI32 _ a b _ _ _ | .isubI32 _ a b _ _ _ | .imulI32 _ a b _ _ _
  | .iand _ a b _ _ _ | .ior _ a b _ _ _ | .ixor _ a b _ _ _
  | .faddF32 _ a b _ _ _ | .fmulF32 _ a b _ _ _
  | .icmp _ a b _ _ _ _ _ | .fcmpF32 _ a b _ _ _ _
  | .faddH2 _ a b _ _ _ _ | .fmulH2 _ a b _ _ _ _ => [a.val, b.val]
  | .fmaF32 _ a b c _ _ _ _ | .fmaH2 _ a b c _ _ _ _ _ => [a.val, b.val, c.val]
  | .inot _ a _ _ | .imov _ a _ _ | .pdp a _ _ => [a.val]
  | .st _ b _ _ _ _ => [b.val]
  | _ => []

/-- The N bit of a lane word of the remote subset (R252). -/
def remoteN : Instr → Bool
  | .iaddI32 _ _ _ _ _ n | .isubI32 _ _ _ _ _ n | .imulI32 _ _ _ _ _ n
  | .iand _ _ _ _ _ n | .ior _ _ _ _ _ n | .ixor _ _ _ _ _ n
  | .faddF32 _ _ _ _ _ n | .fmulF32 _ _ _ _ _ n
  | .icmp _ _ _ _ _ n _ _ | .fcmpF32 _ _ _ _ _ n _
  | .faddH2 _ _ _ _ _ n _ | .fmulH2 _ _ _ _ _ n _
  | .fmaF32 _ _ _ _ _ _ _ n | .fmaH2 _ _ _ _ _ _ _ n _
  | .inot _ _ _ n | .imov _ _ _ n | .pdp _ _ n | .ili _ n _
  | .ld _ _ _ n _ _ | .st _ _ _ _ n _ => n
  | _ => false

/-- The poisoned lanes that a word reads among the lanes of a set. -/
def Aphid.poisRead (u : Aphid) (act : BitVec 8) (i : Instr) : BitVec 8 :=
  (remoteReads i).foldl (fun p r => p ||| u.poisOf r) 0 &&& act

/-- The address pair of a memory word is poisoned in the lane that gives the address. -/
def Aphid.badAddress (u : Aphid) (act : BitVec 8) (a : Reg) (l : Nat) : Bool :=
  ((u.poisOf a.val ||| u.poisOf (a.val + 1)) &&& act).getLsbD l

/-- A register word of the remote subset, memory and control apart (R249, R250, R252): none where it
is none of these; a mask-stack fault is told apart. -/
def Aphid.word (u : Aphid) (i : Instr) : Option (Except RFault Aphid) :=
  let md := Mode.fixed
  let op2 (d a b : Reg) (n : Bool) (f : W32 → W32 → W32) : Option (Except RFault Aphid) :=
    let act := u.active n
    some (.ok (u.set act d.val (fun l => f (u.lane a.val l) (u.operand b.val l)) (u.poisRead act i)))
  let op3 (d a b c : Reg) (n : Bool) (f : W32 → W32 → W32 → W32) : Option (Except RFault Aphid) :=
    let act := u.active n
    some (.ok (u.set act d.val
      (fun l => f (u.lane a.val l) (u.operand b.val l) (u.operand c.val l)) (u.poisRead act i)))
  let op1 (d a : Reg) (n : Bool) (f : W32 → W32) : Option (Except RFault Aphid) :=
    let act := u.active n
    some (.ok (u.set act d.val (fun l => f (u.lane a.val l)) (u.poisRead act i)))
  match i with
  | .iaddI32 d a b _ _ n => op2 d a b n (· + ·)
  | .isubI32 d a b _ _ n => op2 d a b n (· - ·)
  | .imulI32 d a b _ _ n => op2 d a b n (· * ·)
  | .iand d a b _ _ n => op2 d a b n (· &&& ·)
  | .ior d a b _ _ n => op2 d a b n (· ||| ·)
  | .ixor d a b _ _ n => op2 d a b n (· ^^^ ·)
  | .inot d a _ n => op1 d a n (~~~·)
  | .imov d a _ n => op1 d a n id
  | .ili d n imm => some (.ok (u.set (u.active n) d.val (fun _ => imm) 0))
  | .icmp d a b _ _ n c sg => op2 d a b n fun x y => bit32 (intCmp c sg x y)
  | .faddF32 d a b _ _ n => op2 d a b n fun x y => (faddW md x y).1
  | .fmulF32 d a b _ _ n => op2 d a b n fun x y => (fmulW md x y).1
  | .fcmpF32 d a b _ _ n c => op2 d a b n fun x y => (fcmpW md c x y).1
  | .faddH2 d a b _ _ n bf => op2 d a b n fun x y => (faddH bf md x y).1
  | .fmulH2 d a b _ _ n bf => op2 d a b n fun x y => (fmulH bf md x y).1
  | .fmaF32 d a b c _ _ _ n => op3 d a b c n fun x y z => (fmaW md x y z).1
  | .fmaH2 d a b c _ _ _ n bf => op3 d a b c n fun x y z => (fmaH bf md x y z).1
  | .pdp a _ n =>
    if u.stack.length = 4 then some (.error .predOvf)
    else
      let cond := BitVec.ofNat 8 ((List.range 8).foldl
        (fun x l => if u.lane a.val l = 0 then x else x + 2 ^ l) 0)
      some (.ok { u with stack := (u.active n &&& cond) :: u.stack })
  | .pdi =>
    match u.stack with
    | [] => some (.error .predOvf)
    | t :: r => some (.ok { u with stack := (~~~t &&& r.headD 0xFF) :: r })
  | .pdo =>
    match u.stack with
    | [] => some (.error .predOvf)
    | _ :: r => some (.ok { u with stack := r })
  | _ => none

/-- The eight words of a column at the home, and the lanes poisoned. -/
def State.column (s : State) (k : Nat) : (Nat → W32) × BitVec 8 :=
  let x := s.homeSeen ((List.range 32).map fun i => k + i)
  (fun l => wOf x.bytes (4 * l), if x.bad then 0xFF else 0)

/-- The units of a column whose tag fails (R306). -/
def State.columnTags (s : State) (k : Nat) : List Nat := (s.homeSeen ((List.range 32).map fun i => k + i)).tags

/-- The byte writes of the active lanes' words in a column. -/
def columnData (k : Nat) (act : BitVec 8) (f : Nat → W32) : List (Nat × Byte) :=
  (List.range 8).flatMap fun l =>
    if act.getLsbD l then runOf (k + 4 * l) (leBytes 4 (f l).toNat) else []

/-- The lowest lane of a set. -/
def lowLane (act : BitVec 8) : Nat := ((List.range 8).find? act.getLsbD).getD 0

/-- The column that a call's `ld` or `st` reaches (R251): the effective handle in table space, R27 steps
1 to 4, a multiple of 32, the reach of R247. -/
def State.callColumn (s : State) (c : Call) (u : Aphid) (a : Reg) (off : BitVec 16) (act : BitVec 8)
    (wr : Bool) : Except RFault Nat :=
  let l := lowLane act
  let h := join64 (u.lane a.val l) (u.lane (a.val + 1) l)
  let la := s.launch c.launch
  if spaceOf h ≠ 0 then .error .handleFault
  else
    match effective h off with
    | .error _ => .error .handleFault
    | .ok e =>
      let tid := tidOf e
      let t := s.table tid
      if t.poisonDesc then .error .poison
      else if !t.usable tid then .error .tableAbsent
      else if !(if wr then la.writesTo tid else la.reads tid) then .error .access
      else if t.slots ≤ posOf e / t.rowSize then .error .handleFault
      else if posOf e % 32 ≠ 0 then .error .align
      else
        let ch := s.channelOf tid (posOf e)
        let moved := (aget s.mem.moving (tid * 2 ^ 42 + posOf e / t.rowSize)).isSome
        match c.exec with
        | .bank ch' b =>
          if ch = ch' ∧ bankOf (posOf e) = b then
            (if moved then .error .relocating else .ok (tid * 2 ^ 42 + posOf e))
          else .error .bankOut
        | .service d => if dieOfChannel ch = d then .ok (tid * 2 ^ 42 + posOf e) else .error .bankOut

/-- How a called function's word ends: the next state of memory and unit, a fault, its return, or a
write that must wait for a region (R247). -/
inductive CallStep where
  | go (s : State) (u : Aphid)
  | fault (r : RFault)
  | ret
  | held

/-- One word of a called function. -/
def State.callWord (s : State) (c : Call) (u : Aphid) (i : Instr) : CallStep :=
  let act := u.active (remoteN i)
  if !remoteOk false i then .fault .illegal
  else if u.poisRead act i ≠ 0 then .fault .poison
  else
    match i with
    | .ret _ _ => .ret
    | .ld d a _ _ _ m =>
      if act = 0 then .go s u
      else if u.badAddress act a (lowLane act) then .fault .poison
      else
        match s.callColumn c u a m.off act false with
        | .error r => .fault r
        | .ok k =>
          let x := s.column k
          if s.channelShut k then .held else .go (s.logTags (s.columnTags k)) (u.set act d.val x.1 x.2)
    | .st a b _ _ _ m =>
      if act = 0 then .go s u
      else if u.badAddress act a (lowLane act) then .fault .poison
      else
        match s.callColumn c u a m.off act true with
        | .error r => .fault r
        | .ok k =>
          let data := columnData k act (u.operand b.val)
          if data.any fun d => s.hitsKey (.tab d.1) 1 then .fault .access
          else if s.regionHolds (sectorOf k) || s.ownedLine (lineOf k) || s.channelShut k then .held
          else .go (s.applyHome data) u
    | _ =>
      match u.word i with
      | some (.ok u') => .go s u'
      | some (.error r) => .fault r
      | none => .fault .illegal

/-- How many words from an entry on lie within slot CAP − 1 (R249). -/
def State.callHeld (s : State) (entry : Nat) : Nat :=
  let t := s.table (tidOfKey entry)
  ((List.range 256).filter fun i => decide ((posOfKey entry + 4 * i) / t.rowSize < t.cap)).length

/-- The bytes that the sequencer fetches from an entry. -/
def State.callSeen (s : State) (entry : Nat) : Seen :=
  s.homeSeen ((List.range (4 * s.callHeld entry)).map fun i => entry + i)

/-- The words that the sequencer fetches from an entry (R249): words beyond slot CAP − 1 are 0. A word of a
poisoned unit is none. -/
def State.callWords (s : State) (entry : Nat) : List (Option W32) :=
  let n := s.callHeld entry
  let x := s.callSeen entry
  (List.range 256).map fun i =>
    if i < n then (if x.hit [entry + 4 * i] then none else some (wOf x.bytes (4 * i))) else some 0

/-- The state in which a function starts (R242). -/
def Call.start (c : Call) : Aphid :=
  let h := BitVec.ofNat 64 c.target
  let all (w : W32) : List W32 := List.replicate 8 w
  let part (o : Nat) : List W32 := (List.range 8).map fun i => c.words.getD (o + i) 0
  { Aphid.zero with
    v := [all (lo32 h), all (hi32 h), part 0, part 8] ++ List.replicate 12 (all 0)
    g := (List.range 8).map fun i => dwAt c.g i }

/-- What becomes of a called function: it goes on, it ends with its v15 words and STAT, FAULT and FPC as the
low half of the status (R243), or it waits. -/
inductive CallOut where
  | run (s : State) (r : CallRun)
  | ended (s : State) (words : List W32) (status : W32)
  | held

/-- The end of a function by a fault at word `pc`. -/
def State.callFault (s : State) (pc : Nat) (r : RFault) : CallOut :=
  .ended s [] (BitVec.ofNat 32 (pc * 2 ^ 16 + r.code * 2 ^ 8 + 1))

/-- The next word of a called function (R242, R246). A word whose unit was poisoned faults POISON. DESIGN
CHOICE. [A70] -/
def State.callNext (s : State) (c : Call) (r : CallRun) : CallOut :=
  if 256 ≤ r.pc then s.callFault r.pc .ranOff
  else
    match r.words.getD r.pc (some 0) with
    | none => s.callFault r.pc .poison
    | some w =>
      let op := w.toNat / 2 ^ 24
      if hasExt op && r.pc = 255 then s.callFault r.pc .ranOff
      else
        match hasExt op, r.words.getD (r.pc + 1) (some 0) with
        | true, none => s.callFault r.pc .poison
        | _, x =>
          match decodeWords w.toNat (x.getD 0).toNat with
          | .error _ => s.callFault r.pc .illegal
          | .ok i =>
            match s.callWord c r.unit i with
            | .fault e => s.callFault r.pc e
            | .ret => .ended s (r.unit.v.getD 15 []) 0
            | .held => .held
            | .go s' u => .run s' { r with pc := r.pc + lengthOf op / 4, unit := u }

/-- A call starts at its executor (R242): its program store is filled. A bank call whose target row is moving
is refused (R37); a target whose descriptor is not usable faults. -/
def State.callStart (s : State) (c : Call) (core : Option Nat) : CallOut :=
  let tid := tidOfKey c.target
  let t := s.table tid
  let moved := (aget s.mem.moving (tid * 2 ^ 42 + posOfKey c.target / t.rowSize)).isSome
  let bank := match c.exec with
    | .bank _ _ => true
    | .service _ => false
  if !t.usable tid then s.callFault 0 .tableAbsent
  else if bank && moved then s.callFault 0 .relocating
  else .run (s.logTags (s.callSeen c.entry).tags) ⟨core, 0, c.start, s.callWords c.entry⟩

end Sys2Proof.Machine
end

