-- ==== Sys2Proof/Machine/Stores.lean ====
section
/-! DEFINITION. Stores, atomics and reductions: their shared operations (R190 to R193), by which the lane
and uniform forms are defined. -/

namespace Sys2Proof.Machine

/-! ### Own checks of stores and atomics -/

/-- The notify word of the ring of a team whose scratchpad a location is in. -/
def State.notifyOf (s : State) (l : Loc) : Option Nat :=
  match l with
  | .spad t _ => ((s.team t).ring).map (·.notify)
  | _ => none

/-- An access of `n` bytes overlaps a registered notify word (R176). -/
def State.hitsNotify (s : State) (l : Loc) (n : Nat) : Bool :=
  match s.notifyOf l, l with
  | some w, .spad _ off => decide (off < w + 8) && decide (w < off + n)
  | _, _ => false

/-- The access is a publication: an 8-byte release store to the notify word of the own team (R176). -/
def State.isPublication (s : State) (a : Acc) (wid : Nat) (rel : Bool) : Bool :=
  a.own && rel && wid == 8 && (match s.notifyOf a.loc, a.loc with
    | some w, .spad _ off => off == w
    | _, _ => false)

/-- The own checks of a store in a lane: key bytes (R24), the notify word (R176). -/
def State.storeCheck (s : State) (wid : Nat) (rel : Bool) (a : Acc) : Option Fail :=
  if s.hitsKey a.loc wid then some (.access, 0)
  else if s.inRegion s.curG then none
  else if s.hitsNotify a.loc wid && !s.isPublication a wid rel then some (.queueFault, 0xFFFF)
  else none

/-- The own checks of an atomic or reduction in a lane: private space (R191), key bytes (R24), the notify
word (R176), encrypted tables at the home (R309). -/
def State.atomCheck (s : State) (wid : Nat) (home : Bool) (a : Acc) : Option Fail :=
  match a.loc with
  | .priv .. => some (.access, 0)
  | .tab k =>
    if s.hitsKey a.loc wid || (home && (s.table (tidOfKey k)).ownw) then some (.access, 0) else none
  | .spad .. => if s.hitsNotify a.loc wid then some (.queueFault, 0xFFFF) else none

/-- An access of an open region to a registered notify word (R221). -/
def State.regionNotify (s : State) (wid : Nat) (accs : List Acc) : Bool :=
  s.inRegion s.curG && accs.any fun a => s.hitsNotify a.loc wid

/-! ### Stores -/

/-- A store of one lane: the access and the bytes. -/
abbrev Put := Acc × List Byte

/-- The table pages of some accesses of `n` bytes. -/
def accPages (n : Nat) (accs : List Acc) : List (Nat × Nat) :=
  accs.filterMap fun a =>
    match a.loc with
    | .tab k => some (k, n)
    | _ => none

/-- The byte writes of a lane's store, by key or offset. -/
def putData (p : Put) : List (Nat × Byte) := (p.1.loc.keys p.2.length).zip p.2

/-- The byte writes of those stores that a test chooses, in lane order. -/
def dataOf (f : Loc → Bool) (ps : List Put) : List (Nat × Byte) :=
  (ps.filter fun p => !p.1.own && f p.1.loc).flatMap putData

/-- The teams whose scratchpads are stored to from another space. -/
def spadTeams (ps : List Put) : List Nat :=
  dedup (ps.filterMap fun p =>
    match p.1.own, p.1.loc with
    | false, .spad t _ => some t
    | _, _ => none)

/-- The byte writes of one sector with every byte once: of lanes that write the same element the last one
stays (R144). -/
def lastWrites (data : List (Nat × Byte)) : List (Nat × Byte) :=
  (dedup (data.map (·.1))).map fun k => (k, data.foldl (fun b d => if d.1 = k then d.2 else b) 0)

/-- The page that a request of the issuing core still waits for (R12). -/
def State.pageFor (s : State) (key : Nat) : Option (Nat × Nat) :=
  let c := s.coreOf s.curG
  if s.pageHeld c key then none else some (c, s.pageTag key)

/-- Counted requests of one kind, one per sector (R147), of elements of `ew` bytes. -/
def State.requests (s : State) (kind : WKind) (data : List (Nat × Byte)) (ew : Nat) (rel : Bool) : State :=
  (sectorsOf data).foldl (fun a x =>
    let d := lastWrites (inSector x data)
    match kind with
    | .l1 | .home =>
      let a1 := a.touchPage (a.coreOf a.curG) (64 * x)
      a1.request a1.curG a1.curCluster kind d ew (a1.pageFor (64 * x)) rel true
    | _ => a.request a.curG a.curCluster kind d ew none rel true) s

/-- The stores of the lanes of one instruction, region accesses apart: strong ones go into the cluster copy
and at once to the home (R161). The lanes of a store to the own scratchpad are performed in one step. DESIGN CHOICE.
[A79] -/
def State.storeAll (s : State) (ps : List Put) (wid : Nat) (strong rel : Bool) : State :=
  let own := (ps.filter fun p => p.1.own).flatMap putData
  let s1 := if own.isEmpty then s else s.modTeam (teamOf s.curG) fun t => t.storeSpad own
  let s2 := s1.requests .l1 (dataOf Loc.isPrivate ps) (min wid 4) false
  let s3 := s2.requests (if strong then .home else .l1) (dataOf Loc.isTab ps) (min wid 8) rel
  (spadTeams ps).foldl (fun a t =>
    a.requests (.spad t) (dataOf (fun l => l.spadOf == some t) ps) (min wid 8) false) s3

/-- The table stores of a region's lanes, in lane order (R224); all or none. -/
def State.regionStores (s : State) (gid acc : Nat) : List Put → RegBytes
  | [] => .ok s [] false
  | p :: r =>
    match p.1.loc with
    | .tab k =>
      match s.regionAccess gid acc k (some fun _ => runOf k p.2) with
      | .ok s1 _ => s1.regionStores gid acc r
      | .hold t => .hold t
      | .abort c => .abort c
    | _ => s.regionStores gid acc r

/-- Private pages for the stores of the lanes, in lane order (R29): the state with the pages made, and
whether all were. -/
def State.storePages (s : State) (ps : List Put) : State × Bool :=
  let keys := (ps.filter fun p => p.1.loc.isPrivate).flatMap fun p => p.1.loc.keys p.2.length
  if keys.isEmpty then (s, true) else s.allocPages s.curLaunch.ten keys

/-- The publications of one instruction: each must find its ring with room, as the lower lanes leave it
(R176 step 2). -/
def ringOk (count : Nat) : W64 → List W64 → Bool
  | _, [] => true
  | q, p :: r => decide ((p - q).toNat ≤ count) && ringOk count p r

/-- The values that the lanes of an instruction publish. -/
def State.published (s : State) (wid : Nat) (rel : Bool) (ps : List Put) : List W64 :=
  (ps.filter fun p => s.isPublication p.1 wid rel).map fun p => dwOf p.2 0

/-- A publication of the issuing slot goes on at its word (R176): the slot keeps the producer indexes that it
has still to publish. -/
def State.publishOn (s : State) (vals : List W64) : Res :=
  match s.publishAll s.curG vals with
  | (s1, []) => .done (s1.next 8)
  | (s1, rest) => .wait ((s1.setStage 1).modCur fun g =>
      g.setSlot s1.curS { g.slot s1.curS with pend := rest })

/-- The effect of a store whose release has been performed: its publications after its other lanes. -/
def State.storeNow (s : State) (ps : List Put) (wid : Nat) (strong rel mark : Bool) (vals : List W64) : Res :=
  let ring := s.curTeam.ring.getD ⟨0, 0, 0, 0⟩
  if !ringOk ring.count ring.cons vals then .trap .queueFault 0xFFFF
  else (s.storeAll (ps.filter fun p => !s.isPublication p.1 wid rel) wid strong mark).publishOn vals

/-- A store of the issuing slot (R190). -/
def State.store (s : State) (lane nf : Bool) (a b : Nat) (m : MemExt) (uses : Uses) : Res :=
  let wid := m.wid.bytes
  let rel := m.ord == .release
  let strong := isStrong m
  if !(s.cur.slot s.curS).pend.isEmpty then s.publishOn (s.cur.slot s.curS).pend
  else
  s.gated uses <| s.relaxedOnly (m.ord != .relaxed) <|
    passing (allLanesOk (fun l =>
      s.accOf s.curG l (s.cur.handleOf s.curS lane a l) m.off ⟨wid, false, true⟩ (s.storeCheck wid rel))
        (s.memLanes lane nf)) fun accs =>
    if s.regionNotify wid accs then .abort rgUnsupported
    else
      let ps : List Put := accs.map fun x => (x, s.cur.bytesFrom s.curS lane b x.lane wid)
      let pg := s.storePages ps
      let out := ps.filter fun p => !s.isRegional p.1.loc
      let n := out.foldl (fun n p => n + p.1.counts wid) 0
      let vals := s.published wid rel ps
      if !pg.2 then .trapIn pg.1 .handleFault 1
      else if s.acquiring || s.regionBusy accs || accs.any (fun x => s.accScored x wid true)
          || !s.countOk n || (!vals.isEmpty && s.publishing (teamOf s.curG))
          || (strong && s.strongBehind s.curG ((dataOf Loc.isTab out).map (·.1))) then .wait s
      else
        let s1 := pg.1.hintLines m.hint.code accs
        if s.inRegion s.curG then
          let acc := bnat s.curS
          let mine := ps.filter fun p => s.isRegional p.1.loc
          s1.paged (accPages wid (mine.map (·.1))) fun u =>
            match u.regionStores s.curG acc mine with
            | .abort c => .abort c
            | .hold t => .wait (s.keepWaits t s.curG acc)
            | .ok t _ _ => .done ((t.storeAll out wid strong false).next 8)
        else if rel then
          match s1.releaseFor (accs.map fun x => s.accDie x.loc) strong m.obs.h with
          | none => .wait s.releasing
          | some mark => s1.storeNow ps wid strong rel mark vals
        else s1.storeNow ps wid strong rel false vals

/-! ### Atomics and reductions -/

/-- The new value of an element (R192). -/
def atomApply (op : AtomOp) (wid : Nat) (old b0 b1 : Nat) : Nat :=
  let n := 8 * wid
  let x := BitVec.ofNat n old
  let y := BitVec.ofNat n b0
  match op with
  | .add => (x + y).toNat
  | .and => (x &&& y).toNat
  | .or => (x ||| y).toNat
  | .xor => (x ^^^ y).toNat
  | .minI => (minMax false true x y).toNat
  | .minN => (minMax false false x y).toNat
  | .maxI => (minMax true true x y).toNat
  | .maxN => (minMax true false x y).toNat
  | .exch => y.toNat
  | .cas => if x = y then b1 % 2 ^ n else x.toNat
  | .fadd => (faddW Mode.fixed (BitVec.ofNat 32 old) (BitVec.ofNat 32 b0)).1.toNat

/-- The new bytes of an element from its old ones. -/
def atomBytes (a : Atom) (old : List Byte) : List Byte :=
  leBytes a.wid (atomApply a.op a.wid (leNat old) a.b0.toNat a.b1.toNat)

/-- The operands of a lane: B, and B + 1 for compare and swap (R192). -/
def Group.atomArgs (g : Group) (b lane : Bool) (r l wid : Nat) (op : AtomOp) : W64 × W64 :=
  if !lane then (g.gval b r, if op == .cas then g.gval b (r + 1) else 0)
  else if op == .cas then ((g.vval r l).setWidth 64, (g.vval (r + 1) l).setWidth 64)
  else if wid = 8 then (g.vpair r l, 0)
  else ((g.vval r l).setWidth 64, 0)

/-- An atomic on the team's own scratchpad: the state, the old value and whether the element was poisoned
(R193). -/
def State.spadAtom (s : State) (team off : Nat) (a : Atom) : State × List Byte × Bool :=
  let t := s.team team
  let old := t.spadBytes off a.wid
  if t.spadPoison.contains (off / 32) then (s, old, true)
  else (s.modTeam team fun t => t.storeSpad (runOf off (atomBytes a old)), old, false)

/-- The atomic of a lane. -/
def State.atomOf (s : State) (lane : Bool) (b l wid : Nat) (op : AtomOp) (fill : Option (Nat × Nat)) : Atom :=
  let x := s.cur.atomArgs s.curS lane b l wid op
  ⟨op, wid, x.1, x.2, fill⟩

/-- The lanes of an atomic or reduction that are performed at the issue: those in the team's own
scratchpad, in lane order; each with its old value. -/
def State.atomsNow (s : State) (f : Nat → Atom) : List Acc → State × List (Nat × List Byte × Bool)
  | [] => (s, [])
  | x :: r =>
    match x.own, x.loc with
    | true, .spad t off =>
      let a := s.spadAtom t off (f x.lane)
      let b := a.1.atomsNow f r
      (b.1, (x.lane, a.2) :: b.2)
    | _, _ => s.atomsNow f r

/-- The lanes that send a request to the home or to another scratchpad: one request per element (R147).
`home` sends table lanes, `spad` those of other scratchpads; `rel` says that they follow flush markers. -/
def State.atomRequests (s : State) (f : Nat → Atom) (rel home spad : Bool) :
    List Acc → State
  | [] => s
  | x :: r =>
    let a := f x.lane
    let zeros := List.replicate a.wid (0 : Byte)
    match x.own, x.loc with
    | false, .tab k =>
      (if home then
        let s1 := s.touchPage (s.coreOf s.curG) k
        s1.request s1.curG s1.curCluster (.atom a) (runOf k zeros) 0 (s1.pageFor k) rel true
      else s).atomRequests f rel home spad r
    | false, .spad t off =>
      (if spad then s.request s.curG s.curCluster (.spadAtom t a) (runOf off zeros) 0 none false true
      else s).atomRequests f rel home spad r
    | _, _ => s.atomRequests f rel home spad r

/-- An atomic or reduction on an element of a table performed by a region (R224): the old bytes and whether the
element is poisoned; none is applied to a poisoned one (R193). -/
def State.regionAtom (s : State) (gid acc key : Nat) (a : Atom) : RegBytes :=
  let keys := (List.range a.wid).map (key + ·)
  let old (y : Seen) : List Byte := (y.bytes.drop (key % 64)).take a.wid
  match s.regionAccess gid acc key (some fun y => if y.hit keys then [] else runOf key (atomBytes a (old y))) with
  | .ok t y => .ok (t.logTags y.tags) (old y) (y.hit keys)
  | .hold t => .hold t
  | .abort c => .abort c

/-- The table lanes of a reduction performed by a region, in lane order; all or none. -/
def State.regionReds (s : State) (gid acc : Nat) (f : Nat → Atom) : List Acc → RegBytes
  | [] => .ok s [] false
  | x :: r =>
    match x.loc with
    | .tab k =>
      match s.regionAtom gid acc k (f x.lane) with
      | .ok t _ _ => t.regionReds gid acc f r
      | o => o
    | _ => s.regionReds gid acc f r

/-- The item of an atomic's lane, with its old value where it has been performed. -/
def atomItem (f : Nat → Atom) (vals : List (Nat × List Byte × Bool)) (x : Acc) : Item :=
  let a := f x.lane
  ⟨x.lane, x.loc, a.wid, [a.b0, a.b1], aget vals x.lane⟩

/-- The counted requests that the lanes of an atomic or reduction make. -/
def atomCounts (out : List Acc) : Nat := (out.filter fun x => !x.own).length

/-- A returning atomic whose lanes have been performed as far as the issue performs them, with the old values
found. -/
def State.atomProduce (s : State) (id : Nat) (lane named rel acq : Bool) (d nd : Nat) (f : Nat → Atom)
    (accs out : List Acc) (vals : List (Nat × List Byte × Bool)) : State :=
  let items := accs.map (atomItem f vals)
  let wid := (f 0).wid
  if items.all fun i => i.got.isSome then
    let x := dstSets lane s.curS d nd
    s.modCur fun g => g.fillFrom s.curS lane items x.1 x.2 (loadRows lane d wid false)
  else
    let t1 := s.produceAs id lane (.atm d (f 0) named) items [(d, nd)] acq
    let t2 := t1.atomRequests f rel named false out
    let soft := (items.filter fun i => i.got.isNone && !(named && i.loc.isTab)).length
    t2.modCur fun g => { g with uwc := g.uwc + soft }

/-- An atomic (`ret`) or reduction of the issuing slot (R191 to R193). -/
def State.atomic (s : State) (lane nf ret : Bool) (d a b : Nat) (op : AtomOp) (m : MemExt)
    (uses : Uses) : Res :=
  let wid := m.wid.bytes
  let rel := m.ord == .release || m.ord == .acqRel
  let acq := m.ord == .acquire || m.ord == .acqRel
  let named := isStrong m
  let home := !ret || named
  let nd := if lane && wid == 8 then 2 else 1
  s.gated uses <| s.relaxedOnly (m.ord != .relaxed) <|
    passing (allLanesOk (fun l =>
      s.accOf s.curG l (s.cur.handleOf s.curS lane a l) m.off ⟨wid, ret, true⟩ (s.atomCheck wid home))
        (s.memLanes lane nf)) fun accs =>
    if accs.isEmpty then .done ((if ret then s.produceNone [(d, nd)] else s).next 8)
    else
      let out := accs.filter fun x => !s.isRegional x.loc
      let keys := (out.filter fun x => x.loc.isTab).flatMap fun x => x.loc.keys wid
      if s.acquiring || s.regionBusy accs || accs.any (fun x => s.accScored x wid true)
          || !s.countOk (atomCounts out) || (home && s.strongBehind s.curG keys) then .wait s
      else
        let id := s.nextId
        let f (l : Nat) : Atom := s.atomOf lane b l wid op (if ret then some (id, l) else none)
        let s1 := s.takeId.hintLines m.hint.code accs
        let finish (t : State) (vals : List (Nat × List Byte × Bool)) (mark : Bool) : Res :=
          let r := t.atomsNow f out
          if ret then
            .done ((r.1.atomProduce id lane (named || s.inRegion s.curG) mark acq d nd f accs out
              (vals ++ r.2)).next 8)
          else .done ((r.1.atomRequests f mark true true out).next 8)
        if s.inRegion s.curG then
          let mine := accs.filter fun x => s.isRegional x.loc
          if ret then
            let items := mine.map (atomItem f [])
            match (s1.touchItems items).regionItems s.curG (id + 2)
                (fun t i k => t.regionAtom s.curG (id + 2) k (f i.lane)) items with
            | .abort c => .abort c
            | .ok t js => finish t (js.filterMap fun i => i.got.map fun v => (i.lane, v)) false
          else
            let acc := bnat s.curS
            s1.paged (accPages wid mine) fun u =>
              match u.regionReds s.curG acc f mine with
              | .abort c => .abort c
              | .hold t => .wait (s.keepWaits t s.curG acc)
              | .ok t _ _ => finish t [] false
        else if rel then
          match s1.releaseFor (accs.map fun x => s.accDie x.loc) home m.obs.h with
          | none => .wait s.releasing
          | some mark => finish s1 [] mark
        else finish s1 [] false

end Sys2Proof.Machine
end

