-- ==== Sys2Proof/Machine/Maint.lean ====
section
/-! DEFINITION. Synchronisation objects (R164, R165, R214, R215), range maintenance (R166, R216) and pinned
ranges (R41, R217). -/

namespace Sys2Proof.Machine

/-! ### Images -/

/-- An earlier write or atomic of the issuing group to the bytes of a read made within an instruction is not
in its place (R143 item 3). -/
def State.ownAhead (s : State) (l : Loc) (n : Nat) : Bool :=
  (s.writes.any fun w => w.gid == s.curG && w.open_ && !(w.kind == .home && w.gone) && l.meets n w) ||
    (s.fillsOf s.curG).any fun f =>
      match f.kind with
      | .atm .. => f.items.any fun i => i.got.isNone && decide (i.loc.spadOf = l.spadOf) &&
          (i.loc.keys i.len).any (l.keys n).contains
      | _ => false

/-- An image cannot be read yet: the group's own writes come first, or its bytes are not at hand (R160). -/
def State.imageBusy (s : State) (l : Loc) (n : Nat) : Bool :=
  s.ownAhead l n || (!l.isSpad && s.fetchWaits s.curCluster (l.keys n))

/-- An image of `n` bytes read within an instruction, with its poison (R200, R214). -/
def State.readImage (s : State) (l : Loc) (n : Nat) : State × List Byte × Bool :=
  s.readLoc s.curCluster false l n

/-- The pages of an image in table space. -/
def imagePages (l : Loc) (n : Nat) : List (Nat × Nat) :=
  match l with
  | .tab k => [(k, n)]
  | _ => []

/-- An image in the team's scratchpad waits for the range scoreboard (R174 item 3). -/
def State.imageScored (s : State) (l : Loc) (n : Nat) : Bool :=
  match l with
  | .spad t off => s.scored t off (off + n) false
  | _ => false

/-! ### Synchronisation objects -/

/-- A guarded range: its table, first sector and number of sectors (R164). -/
structure Guard where
  tid : Nat
  first : Nat
  count : Nat

/-- The guarded ranges of a descriptor. -/
def guards (dw : List W64) : List Guard :=
  let d := dwAt dw 1
  (List.range (field d 40 3)).map fun i =>
    let r := dwAt dw (2 + i)
    ⟨if flag d (43 + i) then field d 20 20 else field d 0 20, field r 28 36, field r 0 28⟩

/-- The fields of a descriptor (R164, second check). -/
def objectFields (dw : List W64) : Bool :=
  let d := dwAt dw 1
  let n := field d 40 3
  decide (n ≤ 6) && field d 49 15 == 0 &&
    ((List.range 6).all fun i => decide (i < n) || dwAt dw (2 + i) == 0) &&
    (guards dw).all fun r => decide (1 ≤ r.count) && decide (r.first + r.count ≤ 2 ^ 36)

/-- A table that an object names is usable; a poisoned descriptor traps POISON (R334). -/
def State.namedOk (s : State) (tid : Nat) : Except Cause Unit :=
  need (!(s.table tid).poisonDesc) .poison <| need ((s.table tid).usable tid) .tableAbsent <| .ok ()

/-- The checks of R164 on an object handle: its alignment, and that its table is usable (R19, R27 step 2). -/
def State.checkObjectHandle (s : State) (h : W64) : Except Cause Unit :=
  need (spaceOf h == 0 && posOf h % 64 == 0) .align <| s.namedOk (tidOf h)

/-- The checks of R164 on a descriptor, in order. -/
def State.checkObject (s : State) (h : W64) (dw : List W64) (right : Nat → Bool) :
    Except Cause (List Guard) :=
  let ta := field (dwAt dw 1) 0 20
  let gs := guards dw
  need (!(s.table (tidOf h)).managed && objectFields dw) .handleFault <|
  match s.namedOk ta with
  | .error c => .error c
  | .ok _ =>
    match gs.find? fun r => !(s.table r.tid).usable r.tid || (s.table r.tid).poisonDesc with
    | some r => .error (if (s.table r.tid).poisonDesc then .poison else .tableAbsent)
    | none => need (gs.all fun r => right r.tid) .access <| .ok gs

/-- The 64 bytes of an object lie within its table (R27 step 4). -/
def State.objectInside (s : State) (h : W64) : Bool :=
  let o := s.table (tidOf h)
  decide ((posOf h + 63) / o.rowSize < o.slots)

/-- The keys of an object's bytes. -/
def objectKeys (h : W64) : List Nat := (List.range 64).map fun i => h.toNat + i

/-- Key bytes of a live row among an object's bytes (R24). -/
def State.objectHitsKey (s : State) (h : W64) : Bool := (objectKeys h).any fun k => s.hitsKey (.tab k) 1

/-- A word whose check passes goes on with what it gives. -/
def checked {α : Type} (x : Except Cause α) (k : α → Res) : Res :=
  match x with
  | .error c => .trap c 0
  | .ok a => k a

/-- `sdef` (R214). -/
def execSdef (a b : Reg) (wa wb : Bool) (s : State) : Host.Outcome State Fault Refusal :=
  s.finish <| s.gated ⟨[sg a wa, sg b wb], [], false⟩ <| s.outside <|
    let h := s.cur.gval s.curS a.val
    checked (s.checkImage s.curG (s.cur.gval s.curS b.val) 64 8) fun l =>
      s.paged (imagePages l 64) fun s =>
      if s.acquiring || s.imageBusy l 64 || s.imageScored l 64 then .wait s
      else
        let r := s.readImage l 64
        let dw := (List.range 8).map (dwOf r.2.1)
        if r.2.2 then .trap .poison 0
        else
          checked (s.checkObjectHandle h) fun _ =>
          checked (s.checkObject h dw fun _ => true) fun _ =>
            check (s.curLaunch.writesTo (tidOf h)) .access <|
            check (s.objectInside h) .handleFault <|
            check (!s.objectHitsKey h) .access <|
            if !s.countOk 1 || s.strongBehind s.curG (objectKeys h) then .wait s
            else
              let s2 := r.1.requests .home (runOf h.toNat r.2.1) 0 false
              .done (({ s2 with writes := s2.writes.map fun w =>
                if s.nextId ≤ w.id then { w with clears := true } else w } : State).next 4)

/-- The descriptor of an object cannot be read at the home yet. -/
def State.objectBusy (s : State) (h : W64) : Bool :=
  s.ownAhead (.tab h.toNat) 64 || s.strongWaits s.curCluster (objectKeys h)

/-- The 64 bytes of an object as `sacq` or `srel` reads them at the home (R215). -/
def State.objectSeen (s : State) (h : W64) : Seen := s.see (s.strongByte s.curCluster) (objectKeys h)

/-- The ranges that `sacq` or `srel` maintains: those in COHERENT tables (R166). -/
def State.guarded (s : State) (h : W64) (wr : Bool) : Except Cause (List Guard) :=
  let x := s.objectSeen h
  need (!x.bad) .poison <|
  match s.checkObject h ((List.range 8).map (dwOf x.bytes))
      (if wr then s.curLaunch.writesTo else s.curLaunch.reads) with
  | .error c => .error c
  | .ok gs => .ok (gs.filter fun r => !(s.table r.tid).managed)

/-- `sacq` or `srel` on a checked object goes on with its ranges (R164, R215). -/
def State.onObject (s : State) (h : W64) (wr : Bool) (k : State → List Guard → Res) : Res :=
  checked (s.checkObjectHandle h) fun _ =>
    check (s.objectInside h) .handleFault <|
    s.paged [(h.toNat, 64)] fun s =>
    if s.acquiring || s.objectBusy h then .wait s
    else checked (s.guarded h wr) fun gs => k (s.logTags (s.objectSeen h).tags) gs

/-- A sector lies in one of several ranges. -/
def inGuards (gs : List Guard) (sec : Nat) : Bool :=
  gs.any fun r => decide (r.tid * 2 ^ 36 + r.first ≤ sec) &&
    decide (sec < r.tid * 2 ^ 36 + r.first + r.count)

/-- `sacq` (R165, R215). -/
def execSacq (a : Reg) (wa : Bool) (s : State) : Host.Outcome State Fault Refusal :=
  s.finish <| s.gated ⟨[sg a wa], [], false⟩ <| s.outside <|
    s.onObject (s.cur.gval s.curS a.val) false fun s gs =>
      .done ((s.dropSectors s.curCluster (inGuards gs)).next 4)

/-- Write-backs of chosen sectors sent, then a release with every observer (R148, R163); `k` ends it. Stage 1
stands for write-backs that have begun, stage 2 for all sent. -/
def State.writeBackRelease (s : State) (p : Nat → Bool) (k : State → Res) : Res :=
  if s.countHeld || s.softPending s.curG p then .wait s
  else
    let r := s.sendBacks s.curG s.curCluster p
    if !r.2 then .wait (r.1.setStage 1)
    else if r.1.released true then k r.1
    else .wait (r.1.setStage 2).releasing

/-- `srel` (R165, R215): its write-backs, then a release (R148). -/
def execSrel (a : Reg) (wa : Bool) (s : State) : Host.Outcome State Fault Refusal :=
  s.finish <|
    if (s.cur.slot s.curS).stage = 2 then s.release true (.done (s.next 4))
    else
      s.gated ⟨[sg a wa], [], false⟩ <| s.outside <|
        s.onObject (s.cur.gval s.curS a.val) true fun s gs =>
          s.writeBackRelease (inGuards gs) fun s => .done (s.next 4)

/-! ### Range maintenance (R216) -/

/-- The checks of `cwb`, `cinv` and `cret` on a handle and a length. -/
def State.checkRange (s : State) (h : W64) (n : Nat) (wr : Bool) : Except Cause Unit :=
  let tid := tidOf h
  need (spaceOf h == 0) .handleFault <|
  match s.namedOk tid with
  | .error c => .error c
  | .ok _ =>
    need (if wr then s.curLaunch.writesTo tid else s.curLaunch.reads tid) .access <|
    need (decide (posOf h + n ≤ 2 ^ 42)) .handleFault <|
    .ok ()

/-- A sector lies in a byte range, rounded outward. -/
def inRange (h : W64) (n sec : Nat) : Bool :=
  decide (0 < n) && decide (h.toNat / 64 ≤ sec) && decide (sec ≤ (h.toNat + n - 1) / 64)

/-- The page at the start of a range, where a length is given. -/
def rangePages (h : W64) (n : Nat) : List (Nat × Nat) := if n = 0 then [] else [(h.toNat, 1)]

/-- `cwb` (R166, R216). -/
def execCwb (a b : Reg) (wa wb : Bool) (s : State) : Host.Outcome State Fault Refusal :=
  s.finish <| s.gated ⟨[sg a wa, sg b wb], [], false⟩ <| s.outside <|
    let h := s.cur.gval s.curS a.val
    let n := (s.cur.gval s.curS b.val).toNat
    checked (s.checkRange h n true) fun _ =>
      s.paged (rangePages h n) fun s =>
      if s.acquiring || s.countHeld || s.softPending s.curG (inRange h n) then .wait s
      else
        let r := s.sendBacks s.curG s.curCluster (inRange h n)
        if r.2 then .done (r.1.next 4) else .wait r.1

/-- `cinv` (R166, R216). -/
def execCinv (a b : Reg) (wa wb : Bool) (s : State) : Host.Outcome State Fault Refusal :=
  s.finish <| s.gated ⟨[sg a wa, sg b wb], [], false⟩ <| s.outside <|
    let h := s.cur.gval s.curS a.val
    let n := (s.cur.gval s.curS b.val).toNat
    checked (s.checkRange h n false) fun _ =>
      s.paged (rangePages h n) fun s => s.ordered (.done ((s.dropSectors s.curCluster (inRange h n)).next 4))

/-! ### Pinned ranges (R41, R217) -/

/-- `cret` (R217). -/
def execCret (d a b : Reg) (wa wb : Bool) (ways : Nat) (s : State) : Host.Outcome State Fault Refusal :=
  s.finish <| s.gated ⟨[sg a wa, sg b wb], [dg d], false⟩ <| s.outside <|
    let h := s.cur.gval s.curS a.val
    let n := (s.cur.gval s.curS b.val).toNat
    match s.checkRange h n false with
    | .error c => .trap c 0
    | .ok _ =>
      check (decide (0 < n)) .handleFault <|
      let die := s.dieOf s.curG
      let held := s.mem.pins.filter fun p => p.die == die
      let full := decide (4 ≤ held.length) || decide (8 < held.foldl (fun x p => x + p.ways) ways)
      let s1 := if full then s
        else s.modMem fun m =>
          { m with pins := m.pins ++ [⟨die, launchOfTeam (teamOf s.curG), h.toNat, n, ways⟩] }
      .done (s1.uniResult d 8 (plain64 (BitVec.ofNat 64 (if full then stFull else stOk))))

/-- A list without the first entry that meets a test. -/
def dropFirst {α : Type} (p : α → Bool) : List α → List α
  | [] => []
  | x :: r => if p x then r else x :: dropFirst p r

/-- `cunp` (R217). -/
def execCunp (a : Reg) (wa : Bool) (s : State) : Host.Outcome State Fault Refusal :=
  s.finish <| s.gated ⟨[sg a wa], [], false⟩ <| s.outside <|
    let h := s.cur.gval s.curS a.val
    check (spaceOf h == 0) .handleFault <|
    let die := s.dieOf s.curG
    let l := launchOfTeam (teamOf s.curG)
    .done ((s.modMem fun m =>
      { m with pins := dropFirst (fun p => p.die == die && p.launch == l && p.lo == h.toNat) m.pins }).next 4)

end Sys2Proof.Machine
end

