-- ==== Sys2Proof/Machine/TableOps.lean ====
section
/-! DEFINITION. Lookups, row changes, scans and gathers (R197 to R207). -/

namespace Sys2Proof.Machine

/-! ### Shared parts -/

/-- The issuing slot as the holder of a table's order. -/
def State.who (s : State) : Nat := 2 * s.curG + bnat s.curS

/-- A word whose table operand passes R197 goes on with the table's id. -/
def State.onTable (s : State) (a : Reg) (rd wr : Bool) (kinds : List Nat) (width : Option Nat)
    (k : Nat → Res) : Res :=
  match s.checkBase s.curG (s.cur.gval s.curS a.val) rd wr kinds width with
  | .error c => .trap c 0
  | .ok tid => k tid

/-- The words of a lane key, low word first (R54). -/
def Group.laneKey (g : Group) (r l kr : Nat) : List W64 :=
  if kr = 1 then [(g.vval r l).setWidth 64]
  else (List.range (kr / 2)).map fun i => g.vpair (r + 2 * i) l

/-- The words of a uniform key. -/
def Group.uniKey (g : Group) (b : Bool) (r n : Nat) : List W64 :=
  (List.range n).map fun i => g.gval b (r + i)

/-- The number of two doublewords, low word first. -/
def wordsNat (ws : List W64) : Nat := (dwAt ws 0).toNat + (dwAt ws 1).toNat * 2 ^ 64

/-- The bit pattern of a key operand; none is BADKEY, which no lane key is (R197). -/
def keyOf (lane : Bool) (t : Table) (ws : List W64) : Option Nat :=
  if lane then some (wordsNat ws) else uniKey t ws

/-- A uniform status register: a count and a code (R189). -/
def uniStatus (count code : Nat) : W64 := BitVec.ofNat 64 (min count (2 ^ 32 - 1) * 2 ^ 32 + code)

/-- Statuses of the lanes of an instruction written to D; a reply mark of D goes however many lanes are written
(R244). -/
def State.putStatus (s : State) (lane : Bool) (d : Nat) (st : List (Nat × Nat)) : State :=
  s.modCur fun g =>
    if lane then (g.unmark (regSet 128 d 1) 0).putLanes (st.map fun x => (x.1, [(d, BitVec.ofNat 32 x.2)]))
    else
      match st with
      | [] => g
      | x :: _ => g.setG s.curS d (uniStatus 0 x.2)

/-- The lanes of a row change, each placed in lane order (R198): none where one has to wait. -/
def overLanes {α : Type} (f : State → α → Option (State × Nat)) : List (Nat × α) → State →
    Option (State × List (Nat × Nat))
  | [], s => some (s, [])
  | x :: r, s =>
    match f s x.2 with
    | none => none
    | some (s1, st) =>
      match overLanes f r s1 with
      | none => none
      | some (s2, rest) => some (s2, (x.1, st) :: rest)

/-- The end of a row change: its statuses are written and the word is done, or it waits. -/
def State.rowsDone (s : State) (lane : Bool) (d n : Nat)
    (r : Option (State × List (Nat × Nat))) : Res :=
  match r with
  | none => .wait s
  | some (t, st) => .done ((t.putStatus lane d st).next n)

/-- A table word waits for its slot's acquires and for the table's index order. -/
def State.tableHeld (s : State) (tid : Nat) : Bool := s.acquiring || s.tableWaits tid s.who

/-- The page of a table's base handle (R12). -/
def basePage (tid : Nat) : List (Nat × Nat) := [(tid * 2 ^ 42, 1)]

/-! ### Lookups (R199) -/

/-- `tget` in either form. -/
def State.lookupWord (s : State) (lane n : Bool) (d a b c : Reg) (ty : Ty) (dft acq : Bool)
    (uses : Uses) : Res :=
  s.gated uses <| s.relaxedOnly acq <|
    s.onTable a true false [0, 1, 2, 3] (some (tyWidth ty)) fun tid =>
      let lanes := s.memLanes lane n
      let dsts := [(d.val, if lane then 2 else 1), (c.val, 1)]
      if lanes.isEmpty then .done ((s.produceNone dsts).next 8)
      else if s.acquiring then .wait s
      else
        let items := lanes.map fun l =>
          (⟨l, .tab (tid * 2 ^ 42), 0,
            if lane then s.cur.laneKey b.val l ty.keyRegs else s.cur.uniKey s.curS b.val ty.keyUni,
            none⟩ : Item)
        .done ((s.produce lane (.tget d.val c.val tid dft (s.table tid).dw) items dsts acq).next 8)

/-- Uniform `tget` (R199). -/
def execTgetU (d a b c : Reg) (wa wb : Bool) (ty : Ty) (dft acq : Bool) (s : State) :
    Host.Outcome State Fault Refusal :=
  s.finish (s.lookupWord false true d a b c ty dft acq
    ⟨[sg a wa, sgs b ty.keyUni wb], [dg d, dg c], false⟩)

/-- Lane `tget` (R199). -/
def execTgetV (d a b c : Reg) (wa wb n : Bool) (ty : Ty) (dft acq : Bool) (s : State) :
    Host.Outcome State Fault Refusal :=
  s.finish (s.lookupWord true n d a b c ty dft acq
    ⟨[sg a wa, svs b ty.keyRegs wb], [dvs d 2, dv c], true⟩)

/-! ### Inserts (R200) -/

/-- An image checked in a lane: where it lies. -/
def State.imageOf (s : State) (n : Nat) (h : W64) : Except Fail Loc :=
  match s.checkImage s.curG h n 16 with
  | .error c => .error (c, 0)
  | .ok l => .ok l

/-- Images read one after the other, in lane order, with the poison of any. -/
def State.readImages (s : State) (n : Nat) : List Loc → State × List (List Byte) × Bool
  | [] => (s, [], false)
  | l :: r =>
    let a := s.readImage l n
    let b := a.1.readImages n r
    (b.1, a.2.1 :: b.2.1, a.2.2 || b.2.2)

/-- One insert: none where the slot that it takes is held (R230) or a store to it is under way (R24). -/
def State.insertOne (s : State) (tid : Nat) (prov : Option Nat) (img : List Byte) :
    Option (State × Nat) :=
  let held := match popFree (s.table tid).free with
    | some (slot, _) => s.slotBusy tid slot
    | none => false
  let r := s.insertImage s.curCluster (launchOfTeam (teamOf s.curG)) tid prov img
  if r.2 = stOk && held then none else some r

/-- `tins` in either form. -/
def State.insertWord (s : State) (lane n : Bool) (d a b : Reg) (tag : BitVec 12) (prov : Bool)
    (uses : Uses) : Res :=
  s.gated uses <| s.outside <|
    s.onTable a false true [1, 2, 3] none fun tid =>
      let t := s.table tid
      check (!prov || t.provOk) .access <|
      let lanes := s.memLanes lane n
      passing (allLanesOk (fun l => s.imageOf t.rowSize (s.cur.handleOf s.curS lane b.val l)) lanes)
        fun locs =>
      s.paged (basePage tid ++ locs.flatMap fun l => imagePages l t.rowSize) fun s =>
      if s.tableHeld tid || locs.any (fun l => s.imageBusy l t.rowSize || s.imageScored l t.rowSize) then
        .wait s
      else
        let r := s.readImages t.rowSize locs
        if r.2.2 then .trap .poison 0
        else
          s.rowsDone lane d.val 8 (overLanes (fun x img =>
            x.insertOne tid (if prov then some tag.toNat else none) img) (lanes.zip r.2.1) r.1)

/-- Uniform `tins` (R200). -/
def execTinsU (d a b : Reg) (wa wb : Bool) (tag : BitVec 12) (prov : Bool) (s : State) :
    Host.Outcome State Fault Refusal :=
  s.finish (s.insertWord false true d a b tag prov ⟨[sg a wa, sg b wb], [dg d], false⟩)

/-- Lane `tins` (R200). -/
def execTinsV (d a b : Reg) (wa wb n : Bool) (tag : BitVec 12) (prov : Bool) (s : State) :
    Host.Outcome State Fault Refusal :=
  s.finish (s.insertWord true n d a b tag prov ⟨[sg a wa, svs b 2 wb], [dv d], true⟩)

/-! ### Deletes (R201) -/

/-- One delete: none where the row is held (R230). -/
def State.deleteOne (s : State) (tid : Nat) (lane : Bool) (ws : List W64) : Option (State × Nat) :=
  let t := s.table tid
  let l := launchOfTeam (teamOf s.curG)
  match keyOf lane t ws with
  | none => some (s, stBadKey)
  | some x =>
    let k := keyInt t.keyt x
    match s.findKey l t k with
    | some slot => if s.rowHeld tid slot then none else some (s.deleteKey s.curCluster l tid k)
    | none => some (s, stAbsent)

/-- `tdel` in either form. -/
def State.deleteWord (s : State) (lane n : Bool) (d a b : Reg) (ty : Ty) (uses : Uses) : Res :=
  s.gated uses <| s.outside <|
    s.onTable a false true [1, 2, 3] (some (tyWidth ty)) fun tid =>
      s.paged (basePage tid) fun s =>
      if s.tableHeld tid then .wait s
      else
        let keys := (s.memLanes lane n).map fun l =>
          (l, if lane then s.cur.laneKey b.val l ty.keyRegs else s.cur.uniKey s.curS b.val ty.keyUni)
        s.rowsDone lane d.val 8 (overLanes (fun x ws => x.deleteOne tid lane ws) keys s)

/-- Uniform `tdel` (R201). -/
def execTdelU (d a b : Reg) (wa wb : Bool) (ty : Ty) (s : State) : Host.Outcome State Fault Refusal :=
  s.finish (s.deleteWord false true d a b ty ⟨[sg a wa, sgs b ty.keyUni wb], [dg d], false⟩)

/-- Lane `tdel` (R201). -/
def execTdelV (d a b : Reg) (wa wb n : Bool) (ty : Ty) (s : State) : Host.Outcome State Fault Refusal :=
  s.finish (s.deleteWord true n d a b ty ⟨[sg a wa, svs b ty.keyRegs wb], [dv d], true⟩)

/-! ### Replace (R202) -/

/-- `trep` (R202). -/
def execTrep (d a b : Reg) (wa wb : Bool) (s : State) : Host.Outcome State Fault Refusal :=
  s.finish <| s.gated ⟨[sg a wa, sg b wb], [dg d], false⟩ <| s.outside <|
    let h := s.cur.gval s.curS a.val
    let tid := tidOf h
    let t := s.table tid
    check (spaceOf h == 0) .handleFault <|
    match s.checkTable s.curLaunch h ⟨1, false, true⟩ with
    | .error c => .trap c 0
    | .ok _ =>
      check (posOf h % t.rowSize == 0) .align <|
      check (!t.poisonIndex) .poison <|
      check t.replOk .access <|
      passing (s.imageOf t.rowSize (s.cur.gval s.curS b.val)) fun l =>
      let slot := posOf h / t.rowSize
      s.paged ((h.toNat, 1) :: imagePages l t.rowSize) fun s =>
      if s.tableHeld tid || s.imageBusy l t.rowSize || s.imageScored l t.rowSize
          || (t.live slot && s.rowHeld tid slot) then .wait s
      else
        let r := s.readImage l t.rowSize
        if r.2.2 then .trap .poison 0
        else
          let x := r.1.replaceRow s.curCluster tid slot r.2.1
          .done ((x.1.putStatus false d.val [(0, x.2)]).next 4)

/-! ### Commit and rollback of drafts (R203) -/

/-- The limit of a `tcom` or `trbk`. -/
def State.limitOf (s : State) (b : Reg) (ty : Ty) (t : Table) : Option Int :=
  (uniKey t (s.cur.uniKey s.curS b.val ty.keyUni)).map (keyInt t.keyt)

/-- The status of a `tcom` or `trbk` written to D. -/
def State.settled (s : State) (d : Reg) (count code : Nat) : Res :=
  .done (s.uniResult d 8 (plain64 (uniStatus count code)))

/-- The mark that a `tcom` or `trbk` is under way on a table. -/
def State.setHeld (s : State) (tid : Nat) (h : Option Held) : State :=
  s.setTable tid { s.table tid with held := h }

/-- One row of a `tcom` committed, or one of a `trbk` deleted (R36). -/
def State.settleRow (s : State) (tid : Nat) (h : Held) (slot : Nat) : State :=
  let cl := s.clusterOf (h.who / 2)
  if h.com then s.commitRow cl tid slot else ((s.recallRow tid slot).deleteRow tid slot).dropRow cl tid slot

/-- A `tcom` or `trbk` under way places its next row, in increasing key order and one in a step (R182); a
`trbk` waits at a row that is held (R230). `n` rows were placed before. -/
def State.settleNext (s : State) (d : Reg) (tid : Nat) (h : Held) (n : Nat) : Res :=
  match s.pendingRows tid h with
  | [] => (s.setHeld tid none).settled d n stOk
  | r :: _ =>
    if !h.com && s.rowHeld tid r.slot then .wait s
    else .part ((s.settleRow tid h r.slot).setStage (n + 2))

/-- A `tcom` (`com`) or `trbk` (R36, R203). The slot's stage is 1 more than the rows placed, while it is under
way. -/
def State.settleWord (s : State) (com : Bool) (d a b : Reg) (wa wb : Bool) (ty : Ty) (tag : BitVec 12) : Res :=
  match (s.cur.slot s.curS).stage, s.tables.find? fun t =>
      match t.2.held with
      | some h => h.who == s.who
      | none => false with
  | n + 1, some (tid, t) => s.settleNext d tid (t.held.getD ⟨0, false, 0, 0⟩) n
  | _, _ =>
    s.gated ⟨[sg a wa, sgs b ty.keyUni wb], [dg d], false⟩ <| s.outside <|
      s.onTable a false true [1, 2, 3] (some (tyWidth ty)) fun tid =>
        s.paged (basePage tid) fun s =>
        if s.tableHeld tid then .wait s
        else
          let t := s.table tid
          match s.limitOf b ty t with
          | none => s.settled d 0 stBadKey
          | some lim =>
            if t.provOk then
              .part ((s.setHeld tid (some ⟨s.who, com, tag.toNat, lim⟩)).setStage 1)
            else s.settled d 0 stOk

/-- `tcom` (R36, R203). -/
def execTcom (d a b : Reg) (wa wb : Bool) (ty : Ty) (tag : BitVec 12) (s : State) :
    Host.Outcome State Fault Refusal :=
  s.finish (s.settleWord true d a b wa wb ty tag)

/-- `trbk` (R36, R203, R230). -/
def execTrbk (d a b : Reg) (wa wb : Bool) (ty : Ty) (tag : BitVec 12) (s : State) :
    Host.Outcome State Fault Refusal :=
  s.finish (s.settleWord false d a b wa wb ty tag)

/-! ### Properties (R204) -/

/-- `tinfo` (R204). -/
def execTinfo (d a : Reg) (wa : Bool) (sel : Fin 11) (s : State) : Host.Outcome State Fault Refusal :=
  s.finish <| s.gated ⟨[sg a wa], [dg d], false⟩ <|
    let h := s.cur.gval s.curS a.val
    let tid := tidOf h
    let t := s.table tid
    check (spaceOf h == 0 && posOf h == 0) .handleFault <|
    check (!t.poisonDesc || sel.val == 10) .poison <|
    check (decide (sel.val ≤ 7) || sel.val == 10 || t.usable tid) .tableAbsent <|
    let x : W64 := match sel.val with
      | 6 | 7 => 0
      | 8 => BitVec.ofNat 64 (s.indexStack tid)
      | 9 => BitVec.ofNat 64 t.rowSize
      | 10 => BitVec.ofNat 64 (bnat (s.curLaunch.reads tid) + 2 * bnat (s.curLaunch.writesTo tid))
      | i => t.d i
    .done (s.uniResult d 8 (plain64 x))

/-! ### Scans (R205, R206) -/

/-- A value as the lane words of one cursor element. -/
def elemWords (kr x : Nat) : List W32 := (List.range kr).map fun i => BitVec.ofNat 32 (x / 2 ^ (32 * i))

/-- A cursor as lane words. -/
def cursorWords (kr : Nat) (es : List Nat) : List W32 := es.flatMap (elemWords kr)

/-- `tscn` (R205). -/
def execTscn (d a b c : Reg) (wa wb wc n : Bool) (ty : Ty) (dsc : Bool) (s : State) :
    Host.Outcome State Fault Refusal :=
  let kr := ty.keyRegs
  s.finish <| s.gated ⟨[sg a wa, svs b kr wb, svs c kr wc], [dvs d (4 * kr)], true⟩ <|
    s.onTable a true false [0, 1, 3] (some (tyWidth ty)) fun tid =>
      let rows := (s.memLanes true n).map fun l =>
        let lo := wordsNat (s.cur.laneKey b.val l kr)
        let hi := wordsNat (s.cur.laneKey c.val l kr)
        (l, numbered d.val (cursorWords kr
          [tid + bnat dsc * 2 ^ 20, if dsc then hi else lo, if dsc then lo else hi, 0]))
      .done ((s.modCur fun g => (g.unmark (regSet 128 d.val (4 * kr)) 0).putLanes rows).next 8)

/-- Element `i` of a lane's cursor. -/
def Group.cursorElem (g : Group) (r l kr i : Nat) : Nat := wordsNat (g.laneKey (r + i * kr) l kr)

/-- The check of a lane's cursor (R206): its elements. -/
def State.checkCursor (s : State) (r kr : Nat) (ty : Ty) (l : Nat) : Except Fail (Nat × List Nat) :=
  let es := (List.range 4).map (s.cur.cursorElem r l kr)
  let e0 := es.getD 0 0
  let tid := e0 % 2 ^ 20
  let t := s.table tid
  let bad (c : Cause) : Except Fail (Nat × List Nat) := .error (c, 0)
  if 2 ^ 23 ≤ e0 || 2 ^ 32 ≤ es.getD 3 0 then bad .handleFault
  else if t.poisonDesc then bad .poison
  else if !t.usable tid then bad .tableAbsent
  else if !s.curLaunch.reads tid then bad .access
  else if t.kind == 2 || tyWidth ty != t.keyBytes then bad .keyType
  else if t.poisonIndex then bad .poison
  else .ok (l, es)

/-- `tstp` (R206). -/
def execTstp (d a c : Reg) (wa n : Bool) (ty : Ty) (acq : Bool) (s : State) :
    Host.Outcome State Fault Refusal :=
  let kr := ty.keyRegs
  s.finish <| s.gated ⟨[svs a (4 * kr) wa], [dvs d 2, dv c, dvs a (4 * kr)], true⟩ <| s.relaxedOnly acq <|
    passing (allLanesOk (s.checkCursor a.val kr ty) (s.memLanes true n)) fun cs =>
      let dsts := [(d.val, 2), (c.val, 1), (a.val, 4 * kr)]
      if cs.isEmpty then .done ((s.produceNone dsts).next 8)
      else if s.acquiring then .wait s
      else
        let items := cs.map fun x =>
          let tid := x.2.getD 0 0 % 2 ^ 20
          (⟨x.1, .tab (tid * 2 ^ 42), 0,
            (x.2.flatMap fun e => [BitVec.ofNat 64 e, BitVec.ofNat 64 (e / 2 ^ 64)]) ++ (s.table tid).dw,
            none⟩ : Item)
        .done ((s.produce true (.tstp d.val a.val c.val kr) items dsts acq).next 8)

/-! ### Gathers (R207) -/

/-- `tgath` (R207). -/
def execTgath (a b c : Reg) (wa wb : Bool) (ty : Ty) (cnt : Fin 512) (dft : Bool) (s : State) :
    Host.Outcome State Fault Refusal :=
  s.finish <| s.gated ⟨[sg a wa, sg b wb, sg c false], [], false⟩ <| s.outside <|
    s.onTable a true false [0, 1, 2, 3] (some (tyWidth ty)) fun tid =>
      let t := s.table tid
      let n := cnt.val + 1
      let w := tyWidth ty
      match s.checkImage s.curG (s.cur.gval s.curS b.val) (n * w) w with
      | .error r => .trap r 0
      | .ok list =>
        let h := s.cur.gval s.curS c.val
        let off := field h 0 19
        let len := n * t.rowSize + n
        check (spaceOf h == 1 && field h 19 43 == 0) .handleFault <|
        check (off % 32 == 0) .align <|
        check (decide (off + len ≤ s.curLaunch.spad)) .spadRange <|
        let team := teamOf s.curG
        let core := s.coreOf s.curG
        let id := s.nextId
        let es := (match list with
          | .spad _ o => [scoreEntry core team o (n * w) false id]
          | _ => []) ++ [scoreEntry core team off len true id]
        match (s.touchAll core (basePage tid ++ imagePages list (n * w))).register es with
        | none => .wait s
        | some s1 =>
          let g : Gather := ⟨id, s.curG, s.cur.copyBatch, tid, t.dw, list, off, w, n, dft, none⟩
          .done (({ s1 with nextId := id + 1, gathers := s1.gathers ++ [g] } : State).next 8)

end Sys2Proof.Machine
end

