-- ==== Sys2Proof/Machine/MemEvents.lean ====
section
/-! DEFINITION. The events of the memory system: fills (R60), handle walks (R12), writes on their way
(R147, R160 to R162, R167), packets and flush markers (R170, R171), and row relocation (R37). -/

namespace Sys2Proof.Machine

/-! ### What has to come before a read binds -/

/-- Two items read a common byte. -/
def Item.meets (i j : Item) : Bool :=
  decide (i.loc.spadOf = j.loc.spadOf) && (i.loc.keys i.len).any (j.loc.keys j.len).contains

/-- The item is an atomic that its producer performs itself: on the cluster copy, or in a scratchpad. -/
def Fill.isSoft (f : Fill) (i : Item) : Bool :=
  match f.kind with
  | .atm _ _ home => i.got.isNone && !(home && i.loc.isTab)
  | _ => false

/-- An earlier write of the group to a byte of an item is not in its place (R143 item 3): a strong write that
has left its core is in the cluster copy (R161). -/
def State.writeBefore (s : State) (f : Fill) (i : Item) : Bool :=
  s.writes.any fun w => w.gid == f.gid && decide (w.id < f.id) && w.open_ && !(w.kind == .home && w.gone) &&
    i.loc.meets i.len w

/-- An earlier read of the group of a byte of an item has not bound (R143 item 4). -/
def State.readBefore (s : State) (f : Fill) (i : Item) : Bool :=
  s.fills.any fun x => x.gid == f.gid && decide (x.id < f.id) &&
    x.items.any fun j => j.got.isNone && i.meets j

/-- An earlier plain write or team-scope atomic of a cluster to some bytes has not landed in its copy: writes
of one cluster land in its issue order (R162). -/
def State.clusterBefore (s : State) (cl id : Nat) (keys : List Nat) : Bool :=
  (s.writes.any fun w => decide (w.id < id) && w.cluster == cl && w.hits keys &&
    (w.kind == .l1 || (w.kind == .home && !w.gone))) ||
  s.fills.any fun f => decide (f.id < id) && s.clusterOf f.gid == cl &&
    f.items.any fun i => f.isSoft i && !i.loc.isSpad && (i.loc.keys i.len).any keys.contains

/-- The bytes of a table or private item are not at hand: its handle is walked for (R12), or its place in the
cluster's copy or at the home has to wait (R143, R160, R169, R253). -/
def State.itemHeld (s : State) (f : Fill) (i : Item) : Bool :=
  !i.loc.isSpad &&
    ((match i.loc with
      | .tab k => s.walkingRange (s.coreOf f.gid) k i.len
      | _ => false) ||
    (let cl := s.clusterOf f.gid
     let keys := i.loc.keys i.len
     match f.kind with
     | .trd .. => s.trdWaits cl keys
     | .load _ _ _ strong => if strong && i.loc.isTab then s.strongWaits cl keys else s.fetchWaits cl keys
     | .atm .. => s.fetchWaits cl keys || s.clusterBefore cl f.id keys
     | _ => false))

/-- An item may bind now. -/
def State.itemReady (s : State) (f : Fill) (i : Item) : Bool :=
  i.got.isSome || (!s.writeBefore f i && !s.readBefore f i && !s.itemHeld f i)

/-! ### Binding -/

/-- An item of a consistent read bound at the home (R195): the cluster's clean copies of the bytes take the
home's value (R143 item 4). Dirty bytes of the cluster are written back first (R143 item 3). -/
def State.bindTrd (s : State) (f : Fill) (i : Item) : State × Item :=
  let cl := s.clusterOf f.gid
  let keys := i.loc.keys i.len
  let secs := dedup (squeeze (keys.map sectorOf))
  if (s.dirtyIn cl secs.contains).any fun d => keys.contains d.1 then (s.evictSectors cl secs.contains, i)
  else
    let x := s.homeSeen keys
    ((secs.foldl (fun a sec => a.refreshSector cl sec) s).logTags x.tags, { i with got := some (x.bytes, x.bad) })

/-- The atomic of an item, with its operands. -/
def atomWith (a : Atom) (i : Item) : Atom := { a with b0 := dwAt i.args 0, b1 := dwAt i.args 1 }

/-- One item of a returning atomic bound: performed on the cluster copy (R168) or at the target core's
scratchpad (R193), and no longer counted (R147). An item that its home performs is bound by the home. -/
def State.bindAtom (s : State) (f : Fill) (a : Atom) (i : Item) : State × Item :=
  let cl := s.clusterOf f.gid
  let x := atomWith a i
  let done (t : State) : State :=
    { t with groups := aupd t.groups f.gid fun g => { g with uwc := g.uwc - 1 } }
  match i.loc with
  | .tab k =>
    let r := s.readLoc cl false i.loc a.wid
    let t := if r.2.2 then r.1 else r.1.writeL1 cl 1 (r.1.keyFree (runOf k (atomBytes x r.2.1)))
    (done t, { i with got := some r.2 })
  | .spad t off =>
    let r := s.spadAtom t off x
    (done r.1, { i with got := some r.2 })
  | .priv .. => (s, i)

/-- One item bound outside a region; one that has to wait stays as it is. -/
def State.bindItem (s : State) (f : Fill) (i : Item) : State × Item :=
  if i.got.isSome || !s.itemReady f i then (s, i)
  else
    match f.kind with
    | .trd .. => s.bindTrd f i
    | .load _ _ _ strong =>
      let r := s.readLoc (s.clusterOf f.gid) (strong && i.loc.isTab) i.loc i.len
      (r.1, { i with got := some r.2 })
    | .atm _ a _ => if f.isSoft i then s.bindAtom f a i else (s, i)
    | _ => (s, i)

/-- Items bound in lane order where they may be. Lanes of a load that read one element bind together
(R144). -/
def State.bindItems (s : State) (f : Fill) (p : Item → Bool) : List Item → State × List Item
  | [] => (s, [])
  | i :: r =>
    let x := if p i then s.bindItem f i else (s, i)
    let y := x.1.bindItems f p r
    (y.1, x.2 :: y.2)

/-- How items bind by a region: the state with the items, or an abort. -/
inductive Bound where
  | ok (s : State) (items : List Item)
  | abort (code : Nat)

/-- One table item of a producer performed by its group's region. -/
def State.regionBind (s : State) (f : Fill) (i : Item) (k : Nat) : RegBytes :=
  match f.kind with
  | .atm _ a _ => s.regionAtom f.gid (f.id + 2) k (atomWith a i)
  | _ => regionRead f.gid (f.id + 2) s i k

/-- The items of a producer of a group with an open region: table items are performed by the region in order
(R219), once their pages are translated (R12). -/
def State.bindRegion (s : State) (f : Fill) (p : Item → Bool) : List Item → Bound
  | [] => .ok s []
  | i :: r =>
    let go (x : State × Item) : Bound :=
      match x.1.bindRegion f p r with
      | .ok u js => .ok u (x.2 :: js)
      | .abort c => .abort c
    match i.loc, i.got with
    | .tab k, none =>
      if s.walkingRange (s.coreOf f.gid) k i.len then .ok s (i :: r)
      else
        match s.regionBind f i k with
        | .ok t b bad => go (t, { i with got := some (b, bad) })
        | .hold t => .ok (s.keepWaits t f.gid (f.id + 2)) (i :: r)
        | .abort c => .abort c
    | _, _ => go (if p i then s.bindItem f i else (s, i))

/-! ### Lookups and steps (R182, R199, R206) -/

/-- The table of a lookup's or a step's item. -/
def Item.table (i : Item) : Nat :=
  match i.loc with
  | .tab k => tidOfKey k
  | _ => 0

/-- A producer looks keys up or steps cursors. -/
def Fill.isLookup (f : Fill) : Bool :=
  match f.kind with
  | .tget .. | .tstp .. => true
  | _ => false

/-- Key walks under way or waiting on an index stack before an item: those of earlier producers, and those of
the earlier items `pre` of its own (R8). -/
def State.walksBefore (s : State) (f : Fill) (pre : List Item) (i : Item) : Nat :=
  let st := s.indexStack i.table
  let cnt (is : List Item) : Nat := (is.filter fun j => j.got.isNone && s.indexStack j.table == st).length
  (s.fills.filter fun x => x.isLookup && decide (x.id < f.id)).foldl (fun n x => n + cnt x.items) (cnt pre)

/-- An item of a lookup or step may take its place in the index order: the group's earlier lookups and the
lanes below have taken theirs (R182), its handle is translated (R12), no held rollback stands before it
(R230), and one of the 256 key walks of its index stack serves it (R8). -/
def State.lookupReady (s : State) (f : Fill) (pre : List Item) (i : Item) : Bool :=
  (pre.all fun j => j.got.isSome) &&
    (s.fills.all fun x => x.gid != f.gid || !x.isLookup || decide (f.id ≤ x.id)) &&
    !s.walking (s.coreOf f.gid) (i.table * 2 ^ 42) && !s.orderHeld i.table && decide (s.walksBefore f pre i < 256)

/-- The bytes of doublewords. -/
def packWords (ws : List W64) : List Byte := ws.flatMap dwBytes

/-- The lookup of a `tget` item (R199) under the descriptor as translated (R20). -/
def State.bindGet (s : State) (f : Fill) (tid : Nat) (dft : Bool) (desc : List W64) (i : Item) : W64 × Nat :=
  let t := s.tableAs tid desc
  s.lookup (launchOfTeam (teamOf f.gid)) t tid dft (keyOf f.lane t i.args)

/-- The elements of a cursor from its doublewords. -/
def cursorOf (ws : List W64) : List Nat := (List.range 4).map fun i => wordsNat (ws.drop (2 * i))

/-- One step of a cursor (R33) under the descriptor as translated: the handle, the status, the new elements.
`hint` is the node hint that the engine leaves. -/
def State.stepCursor (s : State) (l : Nat) (desc : List W64) (es : List Nat) (hint : Nat) :
    W64 × Nat × List Nat :=
  let e0 := es.getD 0 0
  let tid := e0 % 2 ^ 20
  let t := s.tableAs tid desc
  let last := keyInt t.keyt (es.getD 1 0)
  let stop := keyInt t.keyt (es.getD 2 0)
  let ended := (0, stEnd, [e0 ||| 2 ^ 22, es.getD 1 0, es.getD 2 0, es.getD 3 0])
  if e0.testBit 22 then ended
  else
    match s.scanNext l t (e0.testBit 20) (e0.testBit 21) last stop with
    | none => ended
    | some (k, slot) =>
      (slotHandle t tid slot, stOk, [e0 ||| 2 ^ 21, keyBits t.keyt k, es.getD 2 0, hint])

/-- One item of a lookup or step takes its place in the index order: the item keeps its results as
doublewords, the handle, the status and the cursor. Lanes of one lookup with one key have one result
(R144). -/
def State.bindLookup (s : State) (f : Fill) (pre : List Item) (i : Item) : State × Item :=
  match f.kind with
  | .tget _ _ tid dft desc =>
    match pre.find? fun j => j.args == i.args with
    | some j => (s, { i with got := j.got })
    | none =>
      let x := s.bindGet f tid dft desc i
      (s, { i with got := some (packWords [x.1, BitVec.ofNat 64 x.2], false) })
  | .tstp .. =>
    let hint := (Config.nodeHint s.fresh).toNat
    let x := s.stepCursor (launchOfTeam (teamOf f.gid)) (i.args.drop 8) (cursorOf i.args) hint
    ({ s with fresh := s.fresh + 1 },
      { i with got := some (packWords ([x.1, BitVec.ofNat 64 x.2.1] ++
          x.2.2.flatMap fun e => [BitVec.ofNat 64 e, BitVec.ofNat 64 (e / 2 ^ 64)]), false) })
  | _ => (s, i)

/-- Lookups and steps bound in lane order as far as they may be. -/
def State.bindLookups (s : State) (f : Fill) (p : Item → Bool) (pre : List Item) : List Item → State × List Item
  | [] => (s, [])
  | i :: r =>
    let x := if i.got.isNone && p i && s.lookupReady f pre i then s.bindLookup f pre i else (s, i)
    let y := x.1.bindLookups f p (pre ++ [x.2]) r
    (y.1, x.2 :: y.2)

/-! ### Fills (R60) -/

/-- Registers of a producer filled; every one of its destinations is full from now on. -/
def Group.bind (g : Group) (f : Fill) (rows : List (Nat × List (Nat × W32))) (uni : List (Nat × W64))
    (bad : Bool) : Group :=
  let g1 := if f.lane then g.putLanes rows else g.putUni f.slot1 uni
  let g2 := { g1 with emptyV := g1.emptyV &&& ~~~f.dstV, emptyG := g1.emptyG &&& ~~~f.dstG }
  if bad then g2.poisonRegs f.dstV f.dstG else g2

/-- A producer completed: its registers are filled and it is gone. -/
def State.filled (s : State) (f : Fill) (rows : List (Nat × List (Nat × W32))) (uni : List (Nat × W64))
    (bad : Bool) : State :=
  let s1 := { s with
    fills := s.fills.filter fun x => x.id != f.id
    groups := aupd s.groups f.gid fun g => g.bind f rows uni bad }
  s1.settleExit f.gid

/-- The registers of a producer's lanes, from the bytes bound for a lane. -/
def Fill.rows (f : Fill) (b : List Byte) : List (Nat × W32) × List (Nat × W64) :=
  let ws := wordsOf b
  match f.kind with
  | .load d wid sx _ => loadRows f.lane d wid sx b
  | .trd d len => loadRows f.lane d len false b
  | .atm d a _ => loadRows f.lane d a.wid false b
  | .tget d c _ _ _ =>
    ([(d, lo32 (dwAt ws 0)), (d + 1, hi32 (dwAt ws 0)), (c, lo32 (dwAt ws 1))],
      [(d, dwAt ws 0), (c, uniStatus 0 (dwAt ws 1).toNat)])
  | .tstp d a c kr =>
    ([(d, lo32 (dwAt ws 0)), (d + 1, hi32 (dwAt ws 0)), (c, lo32 (dwAt ws 1))] ++
      numbered a (cursorWords kr (cursorOf (ws.drop 2))), [])
  | .lnch .. | .call .. => ([], [])

/-- A producer whose items are all bound fills its registers. -/
def State.filledFrom (s : State) (f : Fill) : State :=
  let rs := (itemLanes f.items).map fun l => (l, f.rows (gotBytes f.items l))
  s.filled f (rs.map fun r => (r.1, r.2.1)) (rs.flatMap fun r => r.2.2) (f.items.any Item.bad)

/-- A producer with the items that a test chooses bound as far as they may be. -/
def State.bindSome (s : State) (f : Fill) (p : Item → Bool) : Bound :=
  if f.isLookup then
    let x := s.bindLookups f p [] f.items
    .ok x.1 x.2
  else if s.inRegion f.gid then s.bindRegion f p f.items
  else
    let x := s.bindItems f p f.items
    .ok x.1 x.2

/-- A producer kept with its items. -/
def State.keepFill (s : State) (f : Fill) : State :=
  { s with fills := s.fills.map fun x => if x.id = f.id then f else x }

/-- A producer goes on: the items chosen bind; with `fin` it fills once all of its items are bound. -/
def State.complete (s : State) (f : Fill) (p : Item → Bool) (fin : Bool) : State :=
  match s.bindSome f p with
  | .abort c => s.abortNow f.gid c
  | .ok t items =>
    let g := { f with items := items }
    if fin && items.all fun i => i.got.isSome then t.filledFrom g else t.keepFill g

/-- The items of a producer that bind with one of them: of a load or a consistent read, every lane that reads its
element or its bytes; of an atomic, the lower lanes on its element; of a lookup or a step, the lower lanes (R142,
R144, R182). -/
def Fill.with_ (f : Fill) (i j : Item) : Bool :=
  match f.kind with
  | .load .. | .trd .. => j.loc == i.loc
  | .atm .. => j.loc == i.loc && decide (j.lane ≤ i.lane)
  | .tget .. | .tstp .. => decide (j.lane ≤ i.lane)
  | _ => true

/-- `REGISTER_FILL` (R60). `part` 0: what may bind binds, and a producer with everything bound fills its
registers; `part` k + 1: element k of the producer binds ahead of the rest (R142). A remote call's registers
are filled by its reply or its timeout. -/
def execRegisterFill (p : Piece) (s : State) : Host.Outcome State Fault Refusal :=
  match s.fills.find? fun f => f.id == p.id with
  | none => .next s
  | some f =>
    match f.kind, p.part with
    | .call .., _ => .next s
    | .lnch d val, _ => .next (s.filled f [] [(d, val)] false)
    | _, 0 => .next (s.complete f (fun _ => true) true)
    | _, k + 1 =>
      match f.items[k]? with
      | some i => .next (s.complete f (f.with_ i) false)
      | none => .next s

/-! ### Handle walks (R12) -/

/-- `HANDLE_WALK_COMPLETE` (R12): one of the 64 oldest walks of a die ends; the cores whose misses it served
hold the page. -/
def execHandleWalkComplete (die page : Nat) (s : State) : Host.Outcome State Fault Refusal :=
  match ((s.mem.walks.filter fun w => w.die == die).take 64).find? fun w => w.page == page with
  | none => .next s
  | some w =>
    let s1 := s.modMem fun m => { m with walks := m.walks.filter (· != w) }
    .next (w.cores.foldl (fun a c => a.holdPage c page) s1).sendReady

/-! ### Write requests (R147, R160 to R162) -/

/-- A request acknowledged: it is gone, and %uwc falls (R147). -/
def State.acked (s : State) (w : PWrite) : State :=
  let s1 := { s with writes := s.writes.filter fun x => x.id != w.id }
  (if w.counted then
    ({ s1 with groups := aupd s1.groups w.gid fun g => { g with uwc := g.uwc - 1 } } : State).settleExit w.gid
  else s1).sendReady

/-- The producer for which a request is performed. -/
def PWrite.filler (w : PWrite) : Option Nat :=
  match w.kind with
  | .atom a => a.fill.map (·.1)
  | _ => none

/-- An earlier request or read of the same group touches a byte of a request (R143). -/
def State.ownBefore (s : State) (w : PWrite) : Bool :=
  (s.writes.any fun x => x.gid == w.gid && decide (x.id < w.id) && x.open_ && x.meets w) ||
    s.fills.any fun f => f.gid == w.gid && decide (f.id < w.id) && decide (w.filler ≠ some f.id) &&
      f.items.any fun i => i.got.isNone && i.loc.meets i.len w

/-- A plain write may land in its cluster's copy: it has left its core, nothing comes before it (R143, R162),
and its lines find places (R8). A partial write of an encrypted unit fetches the unit first (R311). -/
def State.mayLand (s : State) (w : PWrite) : Bool :=
  w.gone && !s.ownBefore w && !s.clusterBefore w.cluster w.id (w.data.map (·.1)) &&
    (w.lines.all fun l => s.lineRoom w.cluster l) && !s.unitWaits w

/-- Bytes of a plain write landed in its cluster's copy, dirty (R161). -/
def State.landL1 (s : State) (cl : Nat) (data : List (Nat × Byte)) : State :=
  let d := s.keyFree data
  let s1 := if (s.slotOfKey ((d.map (·.1)).headD 0)).isNone then s
    else (dedup (d.map fun x => sectorOf x.1)).foldl (fun a x => a.fetchSector cl x) s
  s1.writeL1 cl 1 d

/-- A write or reduction lands in another core's scratchpad, where its team still is. -/
def State.landSpad (s : State) (team : Nat) (f : State → State) : State :=
  if (s.team team).resident then f s else s

/-- The bytes of element `k` of a request, and the request without them. -/
def PWrite.split (w : PWrite) (k : Nat) : List (Nat × Byte) × PWrite :=
  ((w.data.drop (k * w.ew)).take w.ew,
    { w with data := w.data.take (k * w.ew) ++ w.data.drop ((k + 1) * w.ew) })

/-- `WRITE_ACK` (R147): the cluster L1 or the target scratchpad holds the bytes, or the home has accepted
them. `part` k + 1: element k of the request lands ahead of the rest (R142). A strong write of several elements
that is still in its core sends at `part` 0; at `part` k + 1 its element k enters the cluster copy first (R161). -/
def execWriteAck (p : Piece) (s : State) : Host.Outcome State Fault Refusal :=
  match s.writes.find? fun w => w.id == p.id with
  | none => .next s
  | some w =>
    let one := (w.split (p.part - 1)).1
    let rest := (w.split (p.part - 1)).2
    let alone := decide (0 < p.part ∧ w.ew ≠ 0) && !one.isEmpty && !rest.data.isEmpty
    match w.kind with
    | .home =>
      .next (if w.gone then (if w.stage = 2 then s.acked w else s)
        else if !s.maySend w then s
        else if alone && (s.slotOfKey ((one.map (·.1)).headD 0)).isNone then s.enterCopy w one
        else s.sendWrite w)
    | .atom _ => .next (if w.stage = 2 then s.acked w else s)
    | .l1 =>
      .next (if !s.mayLand w then s
        else if alone then (s.landL1 w.cluster one).setWrite rest
        else (s.landL1 w.cluster w.data).acked w)
    | .spad t =>
      let land (a : State) (d : List (Nat × Byte)) : State :=
        a.landSpad t fun a => a.modTeam t fun x => x.storeSpad d
      .next (if s.ownBefore w then s
        else if alone then (land s one).setWrite rest
        else (land s w.data).acked w)
    | .spadAtom t a =>
      let off := (w.data.head?.map (·.1)).getD 0
      .next (if s.ownBefore w then s else (s.landSpad t fun x => (x.spadAtom t off a).1).acked w)

/-- `L1_EVICTION` (R160, R169): a line leaves a cluster's L1; for a number from 40 on, a visitor line leaves
the L2 of die `cluster` − 40, unless the ways of a range of `cret` hold it (R41). -/
def execL1Eviction (cluster line : Nat) (s : State) : Host.Outcome State Fault Refusal :=
  if cluster < 40 then .next (s.evictLine cluster line).sendReady
  else .next (if s.pinnedLine (cluster - 40) line then s else s.evictVisitor (cluster - 40) line)

/-- A request at its home has to follow another that was sent before it (R143, R162, R170, R171). -/
def State.homeBefore (s : State) (w : PWrite) : Bool :=
  (s.writes.takeWhile fun x => x.id != w.id).any fun x => x.atHome && w.follows x

/-- A request at its home may be performed: it has arrived, nothing comes before it, no region and no copy
engine holds its bytes (R179, R230), its flush marker is complete (R171), its channel is not in broadcast
mode (R253). -/
def State.mayPerform (s : State) (w : PWrite) : Bool :=
  w.gone && w.stage == 1 && !s.homeBefore w && s.markerOk w &&
    (w.sectors.all fun x => !s.regionHolds x) && (w.lines.all fun l => !s.ownedLine l) &&
    w.data.all fun d => !s.channelShut d.1

/-- `HOME_WRITE_APPLY` (R162). `part` k + 1: element k of the write is performed ahead of the rest
(R142). -/
def execHomeWriteApply (p : Piece) (s : State) : Host.Outcome State Fault Refusal :=
  match s.writes.find? fun w => w.id == p.id with
  | none => .next s
  | some w =>
    if w.kind == .home && s.mayPerform w then
      let x := w.split (p.part - 1)
      if 0 < p.part ∧ w.ew ≠ 0 ∧ !w.clears ∧ !x.1.isEmpty ∧ !x.2.data.isEmpty then
        .next (s.performPart w (p.part - 1))
      else
        let s1 := s.performHome w
        .next (if w.counted then s1 else s1.acked w)
    else .next s

/-- An old value bound for a returning atomic's lane. -/
def Fill.bindLane (f : Fill) (lane : Nat) (v : List Byte × Bool) : Fill :=
  { f with items := f.items.map fun i => if i.lane = lane then { i with got := some v } else i }

/-- Some bytes of a write are performed at the home ahead of the rest (R142). -/
def State.performBytes (s : State) (w : PWrite) (p : Nat → Bool) : State :=
  let rest := w.data.filter fun d => !p d.1
  if !w.data.any fun d => p d.1 then s
  else if rest.isEmpty then
    let s1 := s.performHome w
    if w.counted then s1 else s1.acked w
  else (s.applyStores (w.data.filter fun d => p d.1)).setWrite { w with data := rest, ew := 0 }

/-- Write-backs under way behind an atomic count as written back by its recall where they hold its bytes, which
they held before it (R143, R167 step 1); one on top of another write of its cluster keeps its place. DESIGN
CHOICE. [A65] -/
def State.takeBacks (s : State) (key : Nat) : State :=
  let hit (k : Nat) : Bool := s.grain k == s.grain key
  s.writes.foldl (fun a w =>
    if w.back && w.atHome && !a.onTop ((a.writes.takeWhile fun x => x.id != w.id).filter fun x => !x.back)
        w.cluster key then
      a.performBytes w hit
    else a) s

/-- An atomic or reduction performed at its home (R167): the dirty bytes of the line have been recalled; a
poisoned element and a live row's key are not changed (R24, R193); the issuing cluster and its die drop their
clean copy. -/
def State.performAtom (s : State) (w : PWrite) (a : Atom) : State :=
  let keys := w.data.map (·.1)
  let key := keys.headD 0
  let s1 := (s.takeBacks key).recall (· == lineOf key)
  let x := s1.homeSeen keys
  let s2 := if x.bad || keys.any s1.isKeyByte then s1 else s1.applyStores (runOf key (atomBytes a x.bytes))
  let s3 := (s2.dropSectors w.cluster (· == sectorOf key)).setWrite { w with stage := 2 }
  { s3 with
    fills := s3.fills.map fun f =>
      match a.fill with
      | some (id, lane) => if f.id = id then f.bindLane lane (x.bytes, x.bad) else f
      | none => f }

/-- `HOME_ATOMIC_APPLY` (R167): its recall has nothing to wait for, and its group's earlier reads of the
element have bound. -/
def execHomeAtomicApply (id : Nat) (s : State) : Host.Outcome State Fault Refusal :=
  match s.writes.find? fun w => w.id == id with
  | none => .next s
  | some w =>
    match w.kind with
    | .atom a =>
      if s.mayPerform w && !s.ownBefore w &&
          w.lines.all (fun l => !s.recallWaits (s.behindAtoms ++ s.heldWrites) fun x => x / 4 == l) then
        .next (s.performAtom w a)
      else .next s
    | _ => .next s

/-! ### Packets and flush markers (R170, R171) -/

/-- The write is the packet of a flow with a number, on its way. -/
def PWrite.isPacket (w : PWrite) (src dst seq : Nat) : Bool :=
  w.gone && w.stage == 0 && (match w.flow with
    | some k => k.src == src && k.dst == dst && k.seq.toNat == seq
    | none => false)

/-- Something of a flow was sent earlier on a path and has not arrived: each path delivers in order
(R170). -/
def State.pathBefore (s : State) (src dst path sent : Nat) : Bool :=
  (s.writes.any fun w => w.gone && w.stage == 0 && (match w.flow with
    | some k => k.src == src && k.dst == dst && k.path == path && decide (k.sent < sent)
    | none => false)) ||
  (s.flow src dst).sent.any fun c => c.path == path && decide (c.sent < sent)

/-- `PACKET_ARRIVAL` (R170): the packet reaches the home's die in its turn; a second arrival of its number is
discarded. -/
def execPacketArrival (src dst seq : Nat) (s : State) : Host.Outcome State Fault Refusal :=
  match s.writes.find? fun w => w.isPacket src dst seq with
  | some w =>
    match w.flow with
    | some k =>
      .next (if s.pathLive src dst k.path && !s.pathBefore src dst k.path k.sent then
        s.setWrite { w with stage := 1 } else s)
    | none => .next s
  | none =>
    let f := s.flow src dst
    .next (if f.copies.contains (BitVec.ofNat 32 seq) then
      s.setFlow { f with copies := f.copies.erase (BitVec.ofNat 32 seq) } else s)

/-- `FLUSH_MARKER_ARRIVAL` (R171): the marker copy for a path arrives behind what was sent before it on the
path that it takes. -/
def execFlushMarkerArrival (src dst seq path : Nat) (s : State) : Host.Outcome State Fault Refusal :=
  let f := s.flow src dst
  match f.sent.find? fun c => c.num == BitVec.ofNat 32 seq && c.forPath == path with
  | none => .next s
  | some c =>
    .next (if s.pathLive src dst c.path && !s.pathBefore src dst c.path c.sent then
      s.setFlow { f with sent := f.sent.erase c, markers := f.markers ++ [(c.num, path)] } else s)

/-- `LINK_RETRANSMIT` (R170): a packet that has been sent is sent again with its number. -/
def execLinkRetransmit (src dst seq : Nat) (s : State) : Host.Outcome State Fault Refusal :=
  let f := s.flow src dst
  let n := BitVec.ofNat 32 seq
  .next (if seqBefore n f.next && n.toNat == seq then s.setFlow { f with copies := n :: f.copies } else s)

/-- What was on paths that are no longer live is sent again over the remaining ones, in the order of its
first sending and with its numbers (R170). -/
def State.resend (s : State) : State :=
  let fix (a : State) (src dst path : Nat) : State × Option (Nat × Nat) :=
    if a.pathLive src dst path then (a, none)
    else
      let r := a.choosePath src dst
      ({ r.1 with nextId := r.1.nextId + 1 }, some (r.2, r.1.nextId))
  let s1 := s.writes.foldl (fun a w =>
    match w.flow with
    | some k =>
      if w.gone && w.stage == 0 then
        match fix a k.src k.dst k.path with
        | (b, some p) => b.setWrite { w with flow := some { k with path := p.1, sent := p.2 } }
        | (b, none) => b
      else a
    | none => a) s
  s1.flows.foldl (fun a f =>
    f.sent.foldl (fun a c =>
      match fix a f.src f.dst c.path with
      | (b, some p) =>
        let g := b.flow f.src f.dst
        b.setFlow { g with sent := g.sent.map fun x => if x = c then { x with path := p.1, sent := p.2 } else x }
      | (b, none) => b) a) s1

/-! ### Row relocation (R37) -/

/-- The stack that a row of a table would have without a move. -/
def State.firstStack (s : State) (tid slot : Nat) : Nat :=
  s.unitChannel (s.table tid) tid (slot * (s.table tid).rowSize / 2 ^ 16) / 64

/-- The redirect entries of a stack's relocation table, and the moves under way that will write one, but for
those of a row. -/
def State.redirects (s : State) (stack row : Nat) : Nat :=
  ((s.mem.reloc ++ s.mem.moving).filter fun r =>
    r.1 != row && s.firstStack (r.1 / 2 ^ 42) (r.1 % 2 ^ 42) == stack).length

/-- A call runs against a row (R247). -/
def State.callOn (s : State) (row : Nat) : Bool :=
  s.calls.any fun c => c.run.isSome && c.reply.isNone && s.rowOfKey c.target == row

/-- `RELOCATION_START` (R37 step 1): no move starts on a row while a call runs against it (R247). -/
def execRelocationStart (tid slot stack : Nat) (s : State) : Host.Outcome State Fault Refusal :=
  let t := s.table tid
  let row := tid * 2 ^ 42 + slot
  let here := s.channelOf tid (slot * t.rowSize) / 64
  let allowed := match t.home with
    | 0 => true
    | 1 => stack / 3 == t.homeId % 4
    | _ => false
  if t.usable tid && t.live slot && decide (stack < 12) && allowed && s.stackLive stack && here != stack &&
      (aget s.mem.moving row).isNone && !s.callOn row && ((slotSectors t tid slot).all fun x => !s.regionHolds x) &&
      decide (s.redirects (s.firstStack tid slot) row < 16384) then
    .next (s.modMem fun m => { m with moving := aput m.moving row stack })
  else .next s

/-- `RELOCATION_FLIP` (R37 step 3): the redirect entry is written, once no call runs against the row. -/
def execRelocationFlip (tid slot : Nat) (s : State) : Host.Outcome State Fault Refusal :=
  let row := tid * 2 ^ 42 + slot
  match aget s.mem.moving row with
  | none => .next s
  | some stack =>
    .next (if s.redirects (s.firstStack tid slot) row < 16384 ∧ !s.callOn row then
      s.modMem fun m => { m with moving := adel m.moving row, reloc := aput m.reloc row stack }
    else s)

end Sys2Proof.Machine
end

