-- ==== Sys2Proof/Machine/Remote.lean ====
section
/-! DEFINITION. Remote calls (R237 to R248) and broadcast compute mode (R253 to R257). -/

namespace Sys2Proof.Machine

/-! ### Write-backs and a release within a word (R245, R295) -/

/-- The dirty bytes of chosen sectors are written back, counted, behind the group's earlier stores and atomics
there, and a release is performed (R147, R148); then the word goes on. -/
def State.flushFor (s : State) (p : Nat → Bool) (k : State → Res) : Res :=
  if s.acquiring || s.countHeld || s.softPending s.curG p then .wait s
  else
    let r := s.sendBacks s.curG s.curCluster p
    if r.2 && r.1.released true then k r.1 else .wait (if r.2 then r.1.releasing else r.1)

/-! ### Calls (R237 to R241) -/

/-- The function entry of a call is in the code table, bit 1 zero (R241). -/
def State.entryOk (s : State) (h : W64) : Bool :=
  spaceOf h == 0 && tidOf h == s.curLaunch.codeTable && !flag h 1

/-- The target of a call: R27 steps 1 to 4 with the read right, in table space. -/
def State.checkTarget (s : State) (h : W64) : Except Fail Nat :=
  if spaceOf h ≠ 0 then .error (.handleFault, 0)
  else
    match s.checkTable s.curLaunch h ⟨1, true, false⟩ with
    | .error c => .error (c, 0)
    | .ok _ => .ok h.toNat

/-- A call of one lane checked: the entry, then the target (R241). -/
def State.checkCall (s : State) (entry : W64) (l : Nat) (h : W64) : Except Fail (Nat × Nat) :=
  if !s.entryOk entry then .error (.handleFault, 0)
  else
    match s.checkTarget h with
    | .error e => .error e
    | .ok k => .ok (l, k)

/-- The executor to which a call ships (R237 steps 2 and 3). -/
def State.executor (s : State) (entry : W64) (key : Nat) : Exec :=
  let ch := s.channelOf (tidOfKey key) (posOfKey key)
  if flag entry 0 && !(s.table (tidOfKey key)).ownw then .bank ch (bankOf (posOfKey key))
  else .service (dieOfChannel ch)

/-- One call issued (R238, R241, R242): %bwm takes the channel and its BUSY figure, the call its sequence
number. -/
def State.sendCall (s : State) (fill : Nat) (uniform may : Bool) (entry : W64) (nr : Nat) (x : Nat × Nat)
    (words : List W32) (gs : List W64) : State :=
  let gid := s.curG
  let ch := s.channelOf (tidOfKey x.2) (posOfKey x.2)
  let busy := min (Config.busy s.fresh).toNat 4096
  let inline := may && decide (busy < s.curLaunch.rct)
  let c : Call :=
    { id := s.nextId
      gid := gid
      launch := launchOfTeam (teamOf gid)
      ten := s.curLaunch.ten
      fill := fill
      lane := x.1
      seq := s.cur.callSeq
      target := x.2
      entry := (entry &&& ~~~3).toNat
      words := words
      g := gs
      exec := s.executor entry x.2
      inline := inline
      nr := nr
      uniform := uniform
      run := none
      reply := none
      bad := 0
      limit := if inline then none else some (s.now + s.cur.rcto.toNat)
      live := true }
  ({ s with calls := s.calls ++ [c], nextId := s.nextId + 1, fresh := s.fresh + 1 } : State).modGroup gid
    fun g => { g with pch := ch, busy := busy, callSeq := g.callSeq + 1 }

/-- The outstanding calls of a group. -/
def State.outstanding (s : State) (gid : Nat) : Nat :=
  (s.calls.filter fun c => c.gid == gid && c.live).length

/-- The payload of a call: its stream words and its uniform registers (R242). -/
def Group.payload (g : Group) (b uniform : Bool) (r np l : Nat) : List W32 × List W64 :=
  if uniform then
    let ds := (List.range np).map fun i => g.gval b (r + i)
    (ds.flatMap fun d => [lo32 d, hi32 d], ds)
  else ((List.range np).map fun i => g.vval (r + i) l, [])

/-- The sectors of the rows that calls target (R245). -/
def State.targetSectors (s : State) (key : Nat) : List Nat :=
  let tid := tidOfKey key
  slotSectors (s.table tid) tid (posOfKey key / (s.table tid).rowSize)

/-- A remote call of either form (R240 to R245). -/
def State.remoteCall (s : State) (lane n may trp : Bool) (d a b c : Reg) (nr np : Nat) (uses : Uses) : Res :=
  s.gated uses <| s.outside <|
    let entry := s.cur.gval s.curS c.val
    let lanes := s.memLanes lane n
    passing (allLanesOk (fun l => s.checkCall entry l (s.cur.handleOf s.curS lane a.val l)) lanes) fun xs =>
      if xs.isEmpty then .done ((s.produceNone [(d.val, nr + 1)]).next 8)
      else if 256 < s.outstanding s.curG + xs.length then .wait s
      else
        let secs := xs.flatMap fun x => s.targetSectors x.2
        s.flushFor secs.contains fun t =>
          let id := t.nextId
          let pays := xs.map fun x => (x, s.cur.payload s.curS (!lane) b.val np x.1)
          let items := xs.map fun x => (⟨x.1, .tab x.2, 0, [], none⟩ : Item)
          let t1 := t.produce lane (.call d.val nr trp) items [(d.val, nr + 1)] false
          .done ((pays.foldl (fun y p =>
            y.sendCall id (!lane) may entry nr p.1 p.2.1 p.2.2) t1).next 8)

/-- `rcall` (R240). -/
def execRcall (d a b c : Reg) (wa wb wc may trp : Bool) (nr np : Nat) (s : State) :
    Host.Outcome State Fault Refusal :=
  s.finish (s.remoteCall false false may trp d a b c nr np
    ⟨[sg a wa, sgs b np wb, sg c wc], [dgs d (nr + 1)], false⟩)

/-- `rcallv` (R240). -/
def execRcallv (d a b c : Reg) (wa wb wc n may trp : Bool) (nr np : Nat) (s : State) :
    Host.Outcome State Fault Refusal :=
  s.finish (s.remoteCall true n may trp d a b c nr np
    ⟨[svs a 2 wa, svs b np wb, sg c wc], [dvs d (nr + 1)], true⟩)

/-! ### Execution and reply (R242 to R248) -/

/-- Two calls that may not pass each other: one bank, or one row in service contexts (R246). -/
def State.sameQueue (s : State) (c x : Call) : Bool :=
  match c.exec, x.exec with
  | .bank a b, .bank a' b' => a == a' && b == b'
  | .service _, .service _ => s.rowOfKey c.target == s.rowOfKey x.target
  | _, _ => false

/-- The core of a die that takes the next service call of a tenant (R237 step 3). -/
def State.serviceCore (s : State) (die ten : Nat) : Option Nat :=
  let first := (aget s.rotate die).getD 0
  ((List.range 160).map fun i => 160 * die + (first + i) % 160).find? fun c =>
    !(s.core c).retired && s.dieLive die && s.coResident (clusterOfCore c) ten

/-- The executor as the call finds it: of the same kind, at the row's present home (R15, R37, R247). A call that
runs while its target's pseudo-channel retires goes on at the row's new home. -/
def State.arrived (s : State) (c : Call) : Call :=
  let ch := s.channelOf (tidOfKey c.target) (posOfKey c.target)
  match c.exec with
  | .bank _ _ => { c with exec := .bank ch (bankOf (posOfKey c.target)) }
  | .service _ => { c with exec := .service (dieOfChannel ch) }

/-- The service rotation of a die advanced past a core. -/
def State.rotateTo (s : State) (core : Nat) : State :=
  { s with rotate := aput s.rotate (dieOfCore core) ((core + 1) % 160) }

/-- A call is run by the service context of a core. -/
def State.serving (s : State) (core : Nat) : Bool :=
  s.calls.any fun x => match x.run with
    | some r => r.core == some core
    | none => false

/-- A call that has begun at its executor and has not ended. -/
def Call.running (c : Call) : Bool := c.run.isSome && c.reply.isNone

/-- Another call stands before a call at its executor: one that runs there, or an earlier one of its group
(R246). -/
def State.callBehind (s : State) (c : Call) : Bool :=
  s.calls.any fun x => x.id != c.id && x.reply.isNone &&
    (x.run.isSome || (x.gid == c.gid && decide (x.id < c.id))) &&
    s.sameQueue c (s.arrived x)

/-- The core whose service context takes a call, where one is free: for an inline run the issuing core, for a
service call the next of the die (R237, R238); none for an Aphid. Beside it, whether there is one. -/
def State.callCore (s : State) (c : Call) : Option (Option Nat) :=
  match c.inline, c.exec with
  | true, _ => if s.serving (s.coreOf c.gid) then none else some (some (s.coreOf c.gid))
  | false, .bank _ _ => some none
  | false, .service d =>
    match s.serviceCore d c.ten with
    | some k => if s.serving k then none else some (some k)
    | none => none

/-- A call may start: its target's walk is over, its channel is not in broadcast mode (R259), no call is
before it, and a context is there for it. -/
def State.callReady (s : State) (c : Call) : Option (State × Option Nat) :=
  if s.walking (s.coreOf c.gid) c.target || s.channelShut c.target || s.callBehind c then none
  else
    (s.callCore c).map fun k =>
      match c.inline, k with
      | false, some n => (s.rotateTo n, k)
      | _, _ => (s, k)

/-- The poisoned words of the reply that a call's function returns with v15 (R64, R242) [A80]. -/
def Call.poisoned (c : Call) (st : W32) : BitVec 8 :=
  match c.run with
  | some r => if st = 0 then r.unit.poisOf 15 else 0
  | none => 0

/-- A call after a step at its executor. The reply of a call that holds no place is discarded (R248). -/
def State.callStepped (s : State) (c : Call) : CallOut → State
  | .run t r => { t with calls := t.calls.map fun x => if x.id = c.id then { c with run := some r } else x }
  | .ended t ws st =>
    { t with calls := (t.calls.filter fun x => x.id != c.id || x.live).map fun x =>
        if x.id = c.id then { c with run := none, reply := some (ws, st), bad := c.poisoned st } else x }
  | .held => s

/-- A pipe of the core of a service context has issued in this clock (R237, R277). -/
def State.pipesUsed (s : State) (core : Option Nat) : Bool :=
  match core with
  | some k => s.spent.any fun x => x.1 == k
  | none => false

/-- `RCALL_EXECUTE` (R242, R246): a call starts at its executor, or its function performs its next word. -/
def execRcallExecute (id : Nat) (s : State) : Host.Outcome State Fault Refusal :=
  match s.calls.find? fun c => c.id == id with
  | none => .next s
  | some c =>
    match c.reply, c.run with
    | some _, _ => .next s
    | none, some r =>
      .next (if s.pipesUsed r.core then s else s.callStepped (s.arrived c) (s.callNext (s.arrived c) r))
    | none, none =>
      match s.callReady (s.arrived c) with
      | none => .next s
      | some (s1, k) => .next (s1.callStepped (s.arrived c) (s1.callStart (s.arrived c) k))

/-- The status register of a reply (R243). -/
def Call.status (c : Call) (st : W32) : W64 :=
  if c.uniform then BitVec.ofNat 64 (c.seq.toNat * 2 ^ 48 + st.toNat) else st.setWidth 64

/-- The reply values of a call (R242): zeros after a fault or a loss. -/
def Call.values (c : Call) (ws : List W32) : List W64 :=
  (List.range c.nr).map fun j =>
    if c.uniform then join64 (ws.getD (2 * j) 0) (ws.getD (2 * j + 1) 0) else (ws.getD j 0).setWidth 64

/-- The reply values of a call that carry a poisoned word: bit j for value j (R64, R242) [A80]. -/
def Call.badValues (c : Call) : Nat :=
  ((List.range c.nr).map fun j =>
    if c.uniform then c.bad.getLsbD (2 * j) || c.bad.getLsbD (2 * j + 1) else c.bad.getLsbD j).foldr
      (fun b m => b.toNat + 2 * m) 0

/-- The reply registers at `d` of a producer poisoned, those of the values in a set (R64). -/
def Fill.poisonValues (f : Fill) (d nr m : Nat) (g : Group) : Group :=
  (List.range nr).foldl (fun g j =>
    if m.testBit j then
      let x := dstSets f.lane f.slot1 (d + 1 + j) 1
      g.poisonRegs x.1 x.2
    else g) g

/-- The reply registers of a producer whose every call has ended, with the fault-pending mark (R244). A lane's
bytes are its status, its values and the set of poisoned values. -/
def State.replyFill (s : State) (f : Fill) : State :=
  match f.kind with
  | .call d nr trp =>
    if f.items.any fun i => i.got.isNone then s
    else
      let got (i : Item) : List W64 := wordsOf (i.got.getD ([], false)).1
      let vals (i : Item) : List W64 := (got i).take (nr + 1)
      let s0 := s.filled f (f.items.map fun i => (i.lane, numbered d ((vals i).map lo32)))
        (f.items.flatMap fun i => numbered d (vals i)) false
      let poisons (g : Group) : Group :=
        f.items.foldl (fun g i => f.poisonValues d nr (dwAt (got i) (nr + 1)).toNat g) g
      let s1 := { s0 with groups := aupd s0.groups f.gid poisons }
      if trp && f.items.any fun i => (dwAt (vals i) 0).toNat % 256 == 1 then
        { s1 with groups := aupd s1.groups f.gid fun g => { g with marks := g.marks ++ [⟨f.lane, d, nr⟩] } }
      else s1
  | _ => s

/-- A call's reply group takes a status and values; its place is free (R243, R248). -/
def State.deliver (s : State) (c : Call) (st : W32) (ws : List W32) : State :=
  let v := packWords ((c.status st :: c.values ws) ++ [BitVec.ofNat 64 c.badValues])
  let s1 : State := { s with
    fills := s.fills.map fun f => if f.id = c.fill then f.bindLane c.lane (v, false) else f }
  match s1.fills.find? fun f => f.id == c.fill with
  | some f => s1.replyFill f
  | none => s1

/-- `RCALL_REPLY` (R243, R245): the reply arrives. The clean bytes of the target row are dropped in the
issuing cluster and its die before the status fills. -/
def execRcallReply (id : Nat) (s : State) : Host.Outcome State Fault Refusal :=
  match s.calls.find? fun c => c.id == id with
  | none => .next s
  | some c =>
    match c.reply with
    | none => .next s
    | some (ws, st) =>
      let s1 := { s with calls := s.calls.filter fun x => x.id != id }
      if c.live then
        let secs := s1.targetSectors c.target
        .next ((s1.dropSectors (s1.clusterOf c.gid) secs.contains).deliver c st ws)
      else .next s1

/-- `RCALL_TIMEOUT` (R248): the reply group fills LOST. A call that has not started may start later; a
reply that arrives later is discarded. -/
def execRcallTimeout (id : Nat) (s : State) : Host.Outcome State Fault Refusal :=
  match s.calls.find? fun c => c.id == id with
  | none => .next s
  | some c =>
    match c.limit, c.live with
    | some t, true =>
      if t ≤ s.now then
        .next (({ s with calls := s.calls.map fun x => if x.id = id then { x with live := false } else x } :
          State).deliver c 2 [])
      else .next s
    | _, _ => .next s

/-! ### Broadcast compute mode (R253 to R257) -/

/-- A pseudo-channel that nothing has changed since reset [A5]. -/
def Channel.fresh : Channel := ⟨false, false, 0, none, [], false, none⟩

/-- A pseudo-channel. -/
def State.channel (s : State) (ch : Nat) : Channel := (aget s.channels ch).getD Channel.fresh

/-- The state with a pseudo-channel set. -/
def State.setChannel (s : State) (ch : Nat) (c : Channel) : State :=
  { s with channels := aput s.channels ch c }

/-- The broadcast layout of a launch names a channel (R260). -/
def Launch.names (l : Launch) (ch : Nat) : Bool :=
  match l.bcast with
  | some (_, first, n) => decide (first ≤ ch) && decide (ch < first + n)
  | none => false

/-- Calls and ordinary accesses stand at a channel (R253, go). -/
def State.channelBusy (s : State) (ch : Nat) : Bool :=
  let on (k : Nat) : Bool := !isPriv k && s.channelOf (tidOfKey k) (posOfKey k) == ch
  (s.writes.any fun w => w.toHome && decide (w.stage < 2) && w.data.any fun d => on d.1) ||
    (s.fills.any fun f => !f.isLookup && f.isRead && f.items.any fun i =>
      match i.loc, i.got with
      | .tab k, none => on k
      | _, _ => false) ||
    s.calls.any fun c => c.reply.isNone && on c.target

/-- The Aphids of a channel at the entry of the mode [A5]. -/
def State.zeroAphids (s : State) (ch : Nat) : State :=
  { s with aphids := (List.range 16).foldl (fun m b => aput m (16 * ch + b) Aphid.zero) s.aphids }

/-- A channel enters broadcast mode for a launch. -/
def State.enterMode (s : State) (ch l : Nat) : State :=
  (s.setChannel ch { s.channel ch with
    holder := some l, sweeps := [], half := false, alertAt := none }).zeroAphids ch

/-- `chmode` (R253). A `go` that waits keeps stage 1: its arm was checked. -/
def execChmode (a b : Reg) (wa wb : Bool) (mode : ChMode) (s : State) :
    Host.Outcome State Fault Refusal :=
  s.finish <| check s.curLaunch.priv .priv <|
    s.gated ⟨[sg a wa] ++ (if mode == .arm then [sg b wb] else []), [], false⟩ <| s.outside <|
      let x := (s.cur.gval s.curS a.val).toNat
      let c := s.channel x
      let l := launchOfTeam (teamOf s.curG)
      check (decide (x < 768) && !c.retired && s.curLaunch.names x) .access <|
      match mode with
      | .arm =>
        check (s.cur.gval s.curS b.val == c.key) .access <|
        .done ((s.modCur fun g =>
          { g with arms := (x, s.now) :: g.arms.filter fun m => m.1 != x }).next 8)
      | .go =>
        let begun := (s.cur.slot s.curS).stage != 0
        check (begun || s.cur.arms.any fun m => m.1 == x && decide (s.now ≤ m.2 + 64)) .access <|
        if c.holder == some l then .done (s.next 8)
        else if c.holder.isSome || s.channelBusy x then .wait (s.setStage 1)
        else .done ((s.enterMode x l).next 8)
      | .off =>
        check (c.holder == some l) .access <|
        if c.sweeps.isEmpty then .done ((s.leaveMode x).next 8) else .wait s

/-! ### Sweeps (R254, R255) -/

/-- The home units of a table that lie on a channel, in increasing order (R255). -/
def State.portion (s : State) (tid ch : Nat) : List Nat :=
  let t := s.table tid
  (List.range ((t.slots * t.rowSize + 65535) / 65536)).filter fun u => s.unitChannel t tid u == ch

/-- The key of a column of a bank in a portion (R255). -/
def columnKey (tid : Nat) (us : List Nat) (b c : Nat) : Nat :=
  let p := c / 64
  tid * 2 ^ 42 + us.getD (p / 2) 0 * 2 ^ 16 + (p % 2 * 16 + b) * 2048 + 32 * (c % 64)

/-- A broadcast program from a word on: every word is legal and the mask stack stays within its bounds
(R250, R252, R254). -/
def programOk (words : List W32) : Nat → Nat → Nat → Bool
  | 0, _, _ => true
  | n + 1, pc, depth =>
    if words.length ≤ pc then true
    else
      let w := (words.getD pc 0).toNat
      if hasExt (w / 2 ^ 24) && decide (words.length ≤ pc + 1) then false
      else
        match decodeWords w (words.getD (pc + 1) 0).toNat with
        | .error _ => false
        | .ok i =>
          let next := pc + lengthOf (w / 2 ^ 24) / 4
          remoteOk true i &&
            (match i with
              | .pdp _ _ _ => decide (depth < 4) && programOk words n next (depth + 1)
              | .pdi => decide (0 < depth) && programOk words n next depth
              | .pdo => decide (0 < depth) && programOk words n next (depth - 1)
              | _ => programOk words n next depth)

/-- `aphl` (R254). -/
def execAphl (a b : Reg) (wa wb : Bool) (s : State) : Host.Outcome State Fault Refusal :=
  s.finish <| check s.curLaunch.priv .priv <| s.gated ⟨[sg a wa, sg b wb], [], false⟩ <| s.outside <|
    let ch := (s.cur.gval s.curS a.val).toNat
    let c := s.channel ch
    let h := s.cur.gval s.curS b.val
    check (decide (ch < 768) && c.holder == some (launchOfTeam (teamOf s.curG))) .access <|
    match s.checkImage s.curG h 80 8 with
    | .error r => .trap r 0
    | .ok l0 =>
      s.paged (imagePages l0 80) fun s =>
      if s.acquiring || s.imageBusy l0 80 || s.imageScored l0 80 then .wait s
      else
        let r0 := s.readImage l0 80
        let nw := field (dwOf r0.2.1 0) 0 9
        check (!r0.2.2) .poison <|
        check (decide (1 ≤ nw) && decide (nw ≤ 256)) .illegalOpcode <|
        match s.checkImage s.curG h (80 + 4 * nw) 8 with
        | .error r => .trap r 0
        | .ok l =>
          s.paged (imagePages l (80 + 4 * nw)) fun s =>
          if s.imageBusy l (80 + 4 * nw) || s.imageScored l (80 + 4 * nw) then .wait s
          else
            let r := s.readImage l (80 + 4 * nw)
            let bytes := r.2.1
            let ncol := field (dwOf bytes 0) 32 32
            let col := field (dwOf bytes 1) 0 32
            let words := (List.range nw).map fun i => wOf bytes (80 + 4 * i)
            let span := 128 * (s.portion ((s.curLaunch.bcast.getD (0, 0, 0)).1) ch).length
            check (!r.2.2) .poison <|
            check (field (dwOf bytes 0) 9 23 == 0 && decide (1 ≤ ncol) && decide (col + ncol ≤ span) &&
              programOk words 257 0 0) .illegalOpcode <|
            let sw : Sweep := ⟨ncol, col, (List.range 8).map fun i => dwOf bytes (2 + i), words, 0⟩
            .done ((r.1.setChannel ch { c with sweeps := c.sweeps ++ [sw] }).next 4)

/-- One broadcast word in one bank (R251, R255): memory and the unit after it. -/
def State.bankWord (s : State) (u : Aphid) (i : Instr) (k : Nat) : State × Aphid :=
  match i with
  | .ld d _ _ n _ _ =>
    let x := s.column k
    (s, u.set (u.active n) d.val x.1 x.2)
  | .st _ b _ _ n _ =>
    let act := u.active n
    let s1 := s.applyHome (columnData k act (u.operand b.val))
    if u.poisOf b.val &&& act = 0 then (s1, u)
    else (s1.modMem fun m => { m with poison := insNum m.poison (unitOf k) }, u)
  | _ =>
    match u.word i with
    | some (.ok u') => (s, u')
    | _ => (s, u)

/-- One broadcast word in the sixteen banks of a channel. -/
def State.sweepWord (s : State) (tid ch : Nat) (sw : Sweep) (i : Instr) : State :=
  let us := s.portion tid ch
  (List.range 16).foldl (fun a b =>
    let u0 := (aget a.aphids (16 * ch + b)).getD Aphid.zero
    let u := { u0 with g := sw.g, stack := if sw.w = 0 then [] else u0.stack }
    let r := a.bankWord u i (columnKey tid us b sw.col)
    { r.1 with aphids := aput r.1.aphids (16 * ch + b) r.2 }) s

/-- A sweep after one word: the next word, the next column, or none. -/
def Sweep.step (sw : Sweep) (n : Nat) : Option Sweep :=
  if sw.w + n < sw.words.length then some { sw with w := sw.w + n }
  else if 1 < sw.ncol then some { sw with w := 0, col := sw.col + 1, ncol := sw.ncol - 1 }
  else none

/-- A sweep's store waits while a region stands on a sector of its column (R230). -/
def State.sweepHeld (s : State) (tid ch : Nat) (sw : Sweep) (i : Instr) : Bool :=
  match i with
  | .st .. =>
    let us := s.portion tid ch
    (List.range 16).any fun b => s.regionHolds (sectorOf (columnKey tid us b sw.col))
  | _ => false

/-- `APHID_SWEEP_STEP` (R255): one word of the first queued sweep of a channel. -/
def execAphidSweepStep (ch : Nat) (s : State) : Host.Outcome State Fault Refusal :=
  let c := s.channel ch
  match c.holder, c.sweeps with
  | some l, sw :: rest =>
    let tid := ((s.launch l).bcast.getD (0, 0, 0)).1
    let w := (sw.words.getD sw.w 0).toNat
    match decodeWords w (sw.words.getD (sw.w + 1) 0).toNat with
    | .error _ => .next s
    | .ok i =>
      if s.sweepHeld tid ch sw i then .next s
      else
        let s1 := s.sweepWord tid ch sw i
        let next := sw.step (lengthOf (w / 2 ^ 24) / 4)
        .next (s1.setChannel ch { c with sweeps := next.toList ++ rest })
  | _, _ => .next s

/-- `ACTIVATION_ALERT` (R256): counted for the launch; a second one within 2^20 cycles halves the step
rate for the rest of the mode. -/
def execActivationAlert (ch : Nat) (s : State) : Host.Outcome State Fault Refusal :=
  let c := s.channel ch
  match c.holder with
  | none => .next s
  | some l =>
    let again := match c.alertAt with
      | some t => decide (s.now < t + 2 ^ 20)
      | none => false
    .next ((s.setChannel ch
        { c with half := c.half || again, alertAt := some (c.alertAt.getD s.now) }).modLaunch l
      fun x => { x with alerts := x.alerts + 1 })

end Sys2Proof.Machine
end

