-- ==== Sys2Proof/Machine/Launches.lean ====
section
/-! DEFINITION. `lnch` (R295) and the events of the arbiter, the distributor and the Stag for launches (R16,
R262 to R272, R304, R335, R368). -/

namespace Sys2Proof.Machine

/-! ### Child launches (R295) -/

/-- The checks of `lnch` on its record handle. -/
def State.checkRecord (s : State) (h : W64) : Except Cause Unit :=
  let t := s.table (tidOf h)
  need (spaceOf h == 0) .handleFault <|
  match s.checkTable s.curLaunch h ⟨1, true, true⟩ with
  | .error c => .error c
  | .ok _ =>
    need t.dense .handleFault <|
    need (posOf h % 128 == 0) .align <|
    need (decide (128 ≤ t.rowSize)) .handleFault <|
    .ok ()

/-- The sectors of a launch record. -/
def recordSectors (h : W64) (x : Nat) : Bool := x == h.toNat / 64 || x == h.toNat / 64 + 1

/-- DEPTH and PARENT written into a child's record at its home (R295 step 5). -/
def State.stampRecord (s : State) (h : W64) (depth parent : Nat) : State :=
  let d := dwAt (s.homeWords (h + 88) 8) 0
  s.applyHome (runOf (h.toNat + 88) (dwBytes (withField (withField d 0 32 parent) 32 4 depth)))

/-- A launch read from a record at its home. -/
def State.readRecord (s : State) (h : W64) : List W64 := s.homeWords h 128

/-- Any byte of a record is poisoned (R334). -/
def State.recordBad (s : State) (h : W64) : Bool :=
  s.anyPoison ((List.range 128).map fun i => h.toNat + i)

/-- Steps 5 and 6 of `lnch`: the value that gD fills with, and the state. -/
def State.startChild (s : State) (h : W64) : State × W64 :=
  let team := teamOf s.curG
  let me := launchOfTeam team
  let par := s.curLaunch
  let s1 := s.stampRecord h (par.depth + 1) me
  let l : Launch := { Launch.absent with
    record := s1.readRecord h
    ten := par.ten
    root := par.root
    parent := some team
    depth := par.depth + 1 }
  let code := s1.recordCheck l (s1.recordBad h)
  let s2 := s1.logRecord l h code
  if code ≠ 0 then (s2, BitVec.ofNat 64 (code * 2 ^ 56))
  else
    let r := s2.accept l par.eff
    (r.1.modTeam team fun t => { t with children := t.children ++ [r.2] }, BitVec.ofNat 64 r.2)

/-- `lnch` (R295). -/
def execLnch (d a : Reg) (wa : Bool) (s : State) : Host.Outcome State Fault Refusal :=
  s.finish <| s.gated ⟨[sg a wa], [dg d], false⟩ <| s.outside <|
    let h := s.cur.gval s.curS a.val
    check (groupIdx s.curG == 0) .access <|
    check (decide (s.curLaunch.depth < 10)) .launchDepth <|
    match s.checkRecord h with
    | .error c => .trap c 0
    | .ok _ =>
      if 64 ≤ (s.curTeam.children.filter fun c => (s.launch c).phase != .ended).length then .wait s
      else
        s.flushFor (recordSectors h) fun t =>
          if t.sectorsHeld t.curCluster [h.toNat / 64, h.toNat / 64 + 1] then .wait t else
          let r := t.startChild h
          .done ((r.1.produce false (.lnch d.val r.2) [] [(d.val, 1)] false).next 4)

/-! ### References (R262, R335, R367) -/

/-- A tenant's queues are served (R316, R374): its function is enabled, and under TDISP it is in RUN. -/
def State.served (s : State) (ten : Nat) : Bool :=
  s.host.boot == 5 && s.host.enabled.contains ten &&
    (match (aget s.stag.tdi ten).getD .unassigned with
      | .unassigned | .run => true
      | _ => false)

/-- The next entry of a queue is eligible (R262): the previous launch of the queue has been dispatched, or
has completed where the entry's record is SERIAL. -/
def State.eligible (s : State) (q : HQueue) (serial : Bool) : Bool :=
  match q.prev with
  | none => true
  | some p => if serial then (s.launch p).phase == .ended else (s.launch p).phase != .accepted

/-- The next index of a ring of `n` + 1 entries (R367). -/
def ringNext (n i : BitVec 16) : BitVec 16 := if i = n then 0 else i + 1

/-- The state with a host queue set. -/
def State.setHostQueue (s : State) (q : Nat) (x : HQueue) : State :=
  { s with host := { s.host with queues := aput s.host.queues q x } }

/-- The record that a reference names can be read: in a usable DENSE table of the tenant, in one row. -/
def State.refOk (s : State) (ten : Nat) (h : W64) : Bool :=
  let t := s.table (tidOf h)
  s.arbiterRange { Launch.absent with ten := ten } h 128 128 && t.dense && decide (128 ≤ t.rowSize)

/-- `LAUNCH_REFERENCE_TAKE` (R261, R262, R335). -/
def execLaunchReferenceTake (q : Nat) (s : State) : Host.Outcome State Fault Refusal :=
  match aget s.host.queues q with
  | none => .next s
  | some x =>
    match x.ten with
    | none => .next s
    | some ten =>
      let h := dwOf (bytesAt s.host.mem (x.sqbase.toNat + 8 * x.sqhead.toNat) 8) 0
      let rec' := s.readRecord h
      if !s.served ten || !x.en || x.sqhead == x.sqtail || !s.eligible x (flag (dwAt rec' 1) 62) then
        .next s
      else
        let l : Launch := { Launch.absent with record := rec', ten := ten, queue := some (q, x.taken) }
        let code := s.recordCheck l (!s.refOk ten h)
        let y := { x with sqhead := ringNext x.sqn x.sqhead, taken := x.taken + 1 }
        let s := s.logRecord l h code
        if code ≠ 0 then
          .next (s.setHostQueue q
            { y with refused := x.refused + 1, refpos := x.sqhead, refcode := BitVec.ofNat 8 code })
        else
          let r := s.accept l 0
          .next (r.1.setHostQueue q { y with prev := some r.2, open_ := x.open_ ++ [r.2] })

/-! ### Dispatch (R263 to R267) -/

/-- What step 3 of R16 finds for a launch with a key (R304). -/
inductive KeyState where
  | bad
  | waits
  | ok (slot : Nat) (k : KeySlot)

/-- The checks of R304 on a sealed key row of a tenant: the slot, the key identifier and the key pair as its
64 bytes. -/
def State.unseal (s : State) (l : Launch) : Option (Nat × W64 × List Nat) :=
  if !s.arbiterRange l l.key 128 128 then none
  else
    let ws := s.homeWords l.key 128
    let d := dwAt ws 0
    let b := ws.flatMap dwBytes
    if field d 56 8 ≠ 1 ∨ field d 0 41 ≠ 0 ∨ field d 50 6 ≠ l.ten ∨ (b.drop 88).any (· != 0) then none
    else
      match aget s.stag.wrap l.ten with
      | none => none
      | some w =>
        (keyUnwrap (natLe 32 w.toNat) (((b.drop 16).take 72).map (·.toNat))).map fun p =>
          (field d 41 9, dwAt ws 1, p)

/-- A key slot loaded with a key pair; the Stag derives its integrity key (R304, R306). -/
def KeySlot.loaded (ten : Nat) (kid : W64) (pair : List Nat) : KeySlot :=
  ⟨ten, kid, 1, BitVec.ofNat 512 (leOf pair), BitVec.ofNat 256 (leOf (integrityKey pair))⟩

/-- Step 3 of R16: the slot with one more user, a wait for a slot that holds another key, or a failure. -/
def State.keyState (s : State) (l : Launch) : KeyState :=
  match s.unseal l with
  | none => .bad
  | some (slot, kid, pair) =>
    match aget s.stag.slots slot with
    | none => .ok slot (KeySlot.loaded l.ten kid pair)
    | some k =>
      if k.count = 0 then .ok slot (KeySlot.loaded l.ten kid pair)
      else if k.ten = l.ten ∧ k.kid = kid then .ok slot { k with count := k.count + 1 }
      else .waits

/-- A launch waits at step 4 for a route slot (R266). -/
def State.routeWaits (s : State) (l : Launch) : Bool :=
  l.dies.any fun d => decide (16 ≤ (s.die d).routes.length)

/-- A launch stands in steps 3 to 6 and does not wait (R264, R304). -/
def State.inDispatch (s : State) (l : Launch) : Bool :=
  match l.phase with
  | .key =>
    match s.keyState l with
    | .waits => false
    | _ => true
  | .route => !s.routeWaits l
  | .probing => true
  | _ => false

/-- A launch leaves dispatch (R264). -/
def State.enterPlacing (s : State) (l : Nat) : State :=
  let s1 := s.modLaunch l fun x => { x with phase := .placing, leftNo := s.dist.left }
  { s1 with dist := { s1.dist with left := s.dist.left + 1 } }

/-- Step 6 of R16 (R267): the launch waits for the rails where it raises the point of a die. -/
def State.toRails (s : State) (l : Nat) : State :=
  let x := s.launch l
  if x.dies.any fun d => decide ((s.die d).oph < x.oph) then
    s.modLaunch l fun y => { y with phase := .rails }
  else s.enterPlacing l

/-- The broadcast layout of a launch passes step 5 of R16 (R257, R260): its table, first channel and
count. -/
def State.checkLayout (s : State) (l : Launch) : Option (Nat × Nat × Nat) :=
  let ws := s.homeWords l.layout 16
  let d := dwAt ws 0
  let tid := field d 0 20
  let first := field d 20 10
  let n := field d 30 10 + 1
  let t := s.table tid
  let chs := (List.range n).map (first + ·)
  if s.arbiterRange l l.layout 16 8 && field d 41 23 == 0 && dwAt ws 1 == 0 && t.usable tid &&
      t.home == 2 && (chs.all fun c => c / 64 == t.homeId && !(s.channel c).retired) &&
      (!flag d 40 || chs.all fun c => !(s.channel c).narrowed) then some (tid, first, n)
  else none

/-- Step 5 of R16. -/
def State.toLayout (s : State) (l : Nat) : State :=
  let x := s.launch l
  if x.layout = 0 then s.toRails l
  else
    let s1 := s.logRead x x.layout 16 8
    match s.checkLayout x with
    | none => s1.endLaunch l lsLayout
    | some b => (s1.modLaunch l fun y => { y with bcast := some b }).toRails l

/-- Step 4 of R16: only a host launch on two or more dies loads routes (R266). -/
def State.toRoute (s : State) (l : Nat) : State :=
  let x := s.launch l
  if x.parent.isNone && decide (2 ≤ x.dies.length) then s.modLaunch l fun y => { y with phase := .route }
  else s.toLayout l

/-- The accepted launches that can be dispatched: their rectangle has an origin (R265, R336). -/
def State.dispatchable (s : State) : List Nat :=
  (s.launches.filter fun l => l.2.phase == .accepted && (s.dispatchOrigin l.2).isSome).map (·.1)

/-- Of two accepted launches, the one that is dispatched first (R263). -/
def State.dispatchFirst (s : State) (a b : Nat) : Nat :=
  let x := s.launch a
  let y := s.launch b
  if x.eff < y.eff ∨ (x.eff = y.eff ∧ y.accNo < x.accNo) then b else a

/-- `LAUNCH_DISPATCH` (R263 to R265): one launch at a time. -/
def execLaunchDispatch (s : State) : Host.Outcome State Fault Refusal :=
  if s.launches.any fun l => s.inDispatch l.2 then .next s
  else
    match s.dispatchable with
    | [] => .next s
    | a :: r =>
      let l := r.foldl s.dispatchFirst a
      let o := (s.dispatchOrigin (s.launch l)).getD (0, 0)
      let s0 := s.modLaunch l fun x => { x with col0 := o.1, row0 := o.2, dispNo := s.dist.dispatched }
      let s1 := { s0 with dist := { s0.dist with dispatched := s.dist.dispatched + 1 } }
      .next (if (s.launch l).key = 0 then s1.toRoute l
        else s1.modLaunch l fun x => { x with phase := .key })

/-- `KEY_UNSEAL` (R304). -/
def execKeyUnseal (launch : Nat) (s : State) : Host.Outcome State Fault Refusal :=
  let l := s.launch launch
  if l.phase != .key then .next s
  else
    match s.keyState l with
    | .bad => .next ((s.logRead l l.key 128 128).endLaunch launch lsAccess)
    | .waits => .next s
    | .ok slot k =>
      let s1 : State := { s with stag := { s.stag with slots := aput s.stag.slots slot k } }
      .next ((s1.modLaunch launch fun x => { x with slot := some slot }).toRoute launch)

/-- The dies reached from some dies over live links and dies, in `n` steps. -/
def State.spread (s : State) : Nat → List Nat → List Nat
  | 0, xs => xs
  | n + 1, xs =>
    s.spread n ([0, 1, 2, 3].filter fun d =>
      xs.contains d || (s.dieLive d && xs.any fun x => x != d && x + d != 3 && !s.links.contains (linkOf x d)))

/-- Every pair of the dies of a launch has a path (R266, R336). -/
def State.connected (s : State) (ds : List Nat) : Bool :=
  match ds with
  | [] => true
  | d :: _ => ds.all (s.spread 4 [d]).contains

/-- `ROUTE_LOAD` (R266): the tables are loaded with their check sums, and the probes leave. They return
where the dies are connected; otherwise one is missing. -/
def execRouteLoad (launch : Nat) (crcOk : Bool) (s : State) : Host.Outcome State Fault Refusal :=
  let l := s.launch launch
  if l.phase != .route || s.routeWaits l then .next s
  else if !crcOk then .next (s.endLaunch launch lsRouteCheck)
  else
    let s1 := l.dies.foldl (fun a d => a.modDie d fun x => { x with routes := x.routes ++ [launch] }) s
    .next (if s.connected l.dies then s1.toLayout launch
      else s1.modLaunch launch fun x => { x with phase := .probing, probeAt := s.now })

/-- `ROUTE_PROBE_TIMEOUT` (R266): a probe has not returned within 2^16 cycles. -/
def execRouteProbeTimeout (launch : Nat) (s : State) : Host.Outcome State Fault Refusal :=
  let l := s.launch launch
  .next (if l.phase == .probing && decide (l.probeAt + 2 ^ 16 ≤ s.now) then s.endLaunch launch lsRouteCheck
    else s)

/-- `RAILS_STABLE` (R267). -/
def execRailsStable (launch : Nat) (s : State) : Host.Outcome State Fault Refusal :=
  let l := s.launch launch
  if l.phase != .rails then .next s
  else
    .next ((l.dies.foldl (fun a d => a.modDie d fun x => { x with oph := max x.oph l.oph }) s).enterPlacing
      launch)

/-! ### Placement (R268 to R272) -/

/-- `TEAM_PLACE` (R268): the unit to be placed next is a single team never placed before. -/
def execTeamPlace (s : State) : Host.Outcome State Fault Refusal :=
  match s.pickUnit with
  | some (l, [p]) =>
    .next (if (s.launch l).gang = 0 ∧ (aget s.teams p.1).isNone then s.placeUnit l [p] else s)
  | _ => .next s

/-- The places that the candidate's gang holds while it waits (R269). -/
def State.reservable (s : State) : List (Nat × Nat) :=
  match s.dist.cand with
  | some l =>
    let x := s.launch l
    let unit := s.nextUnit l
    if x.gang = 0 || unit.isEmpty || s.unitLeaving l unit then [] else s.search x x.dies unit
  | none => []

/-- `GANG_START` (R269): a gang whose every member has a place starts; the candidate's gang that does not
fit keeps the places that have become free for it. -/
def execGangStart (s : State) : Host.Outcome State Fault Refusal :=
  match s.pickUnit with
  | some (l, ps) =>
    if (s.launch l).gang ≠ 0 then .next (s.placeUnit l ps)
    else .next { s with dist := { s.dist with reserved := s.reservable } }
  | none => .next { s with dist := { s.dist with reserved := s.reservable } }

/-- `CANDIDATE_TAKEOVER` (R269, R270): the best launch becomes the candidate. A half-placed gang that fits
now is completed first; otherwise its places are released. -/
def execCandidateTakeover (s : State) : Host.Outcome State Fault Refusal :=
  let best := s.waiting.head?
  if best == s.dist.cand then .next s
  else
    let done := match s.dist.cand with
      | some l =>
        if s.dist.reserved.isEmpty then none
        else (s.unitPlaces l (s.launch l).dies).map fun ps => s.placeUnit l ps
      | none => none
    match done with
    | some t => .next t
    | none =>
      .next { s with dist := { s.dist with cand := best, candAt := s.now, reserved := [], victim := s.victimLeft } }

/-- `PRIORITY_AGING` (R263). -/
def execPriorityAging (launch : Nat) (s : State) : Host.Outcome State Fault Refusal :=
  let l := s.launch launch
  if l.phase != .ended && s.unplaced launch && decide (l.eff < l.prio + 2) &&
      decide (l.ageFrom + 2 ^ 20 ≤ s.now) then
    .next (s.modLaunch launch fun x => { x with eff := x.eff + 1, ageFrom := x.ageFrom + 2 ^ 20 })
  else .next s

/-! ### Victims (R271, R276) -/

/-- The word at a PC is an `lwt`. -/
def State.atLwt (s : State) (p : Path) : Bool := (s.homeSeen [p.pc.toNat + 3]).bytes == [0x3D]

/-- Every group of a team waits in `lwt` or has exited (R276). -/
def State.waitsForChild (s : State) (t : Nat) : Bool :=
  (List.range (s.team t).groups).all fun i =>
    let g := s.group (16 * t + i)
    g.status == .ended || g.status == .draining ||
      (g.status == .running && (g.s0.path.all s.atLwt) && g.s1.path.all s.atLwt)

/-- The team of a launch that may be pre-empted for a candidate: the highest-indexed resident one of a
victim, or, for a launch that descends from it, the team of that descent while it waits (R271, R276). -/
def State.victimTeam (s : State) (v c : Nat) : Option Nat :=
  let x := s.launch v
  let cand := s.launch c
  let mine := s.teams.filter fun t => launchOfTeam t.1 == v && t.2.resident
  let on := mine.filter fun t => cand.dies.contains (dieOfCore t.2.core)
  let top (ts : Assoc Team) : Option Nat := ts.foldl (fun a t =>
    match a with
    | none => some t.1
    | some m => some (max m t.1)) none
  if v == c || x.preh == 0 then none
  else if x.prio < cand.prio then (if on.isEmpty then none else top mine)
  else top (on.filter fun t => (s.parentTeams 12 c).contains t.1 && s.waitsForChild t.1)

/-- Of two victims, the one with the lower PRIO; between equal ones the one dispatched last. -/
def State.worseVictim (s : State) (a b : Nat × Nat) : Nat × Nat :=
  let x := s.launch a.1
  let y := s.launch b.1
  if y.prio < x.prio ∨ (y.prio = x.prio ∧ x.dispNo < y.dispNo) then b else a

/-- `VICTIM_SELECT` (R271): the candidate has waited 2^16 cycles and does not fit; the victim's unit is to
be signalled. A team that waits in `lwt` for the candidate gives way to it (R276). -/
def execVictimSelect (s : State) : Host.Outcome State Fault Refusal :=
  match s.dist.cand with
  | none => .next s
  | some c =>
    if !s.unplaced c || decide (s.now < s.dist.candAt + 2 ^ 16) || !s.victimGone ||
        (s.unitPlaces c (s.launch c).dies).isSome then .next s
    else
      let vs := (akeys s.launches).filterMap fun v => (s.victimTeam v c).map fun t => (v, t)
      match vs with
      | [] => .next s
      | a :: r =>
        let v := r.foldl s.worseVictim a
        let s1 := s.modTeam v.2 fun t =>
          { t with displaced := (s.parentTeams 12 c).contains v.2 && s.waitsForChild v.2 }
        .next { s1 with dist := { s1.dist with victim := some v.2 } }

/-! ### The end of a launch (R16 step 9, R262, R368) -/

/-- `LAUNCH_RETIRE`: every team of the launch has retired, or it has been stopped; its provisional rows can be deleted (R36, R230)
and its broadcast modes have finished their sweeps (R253). -/
def execLaunchRetire (launch : Nat) (s : State) : Host.Outcome State Fault Refusal :=
  let l := s.launch launch
  if !s.draftsFree launch then .next s
  else if l.phase == .ending then .next (s.endLaunch launch l.status)
  else if l.phase == .placing && l.retiredTeams == l.teams &&
      (s.heldChannels launch).all fun c => (s.channel c).sweeps.isEmpty then
    .next (s.endLaunch launch lsCompleted)
  else .next s

/-- A completion record (R368). -/
def Launch.completion (l : Launch) (n pos : Nat) (phase : Bool) : List W64 :=
  [BitVec.ofNat 64 (n * 2 ^ 32 + pos % 2 ^ 32),
    BitVec.ofNat 64 (l.status * 2 ^ 56 + l.childStatus * 2 ^ 48 + min l.alerts 65535 * 2 ^ 32 +
      bnat l.stopped),
    BitVec.ofNat 64 (if l.status = lsFaulted ∧ !l.stopped then l.unit % 2 ^ 16 else 0),
    BitVec.ofNat 64 (bnat phase)]

/-- `COMPLETION_RECORD_WRITE` (R262, R335, R368): the record of the queue's first open launch, once it has
ended and the ring has room. -/
def execCompletionRecordWrite (q : Nat) (s : State) : Host.Outcome State Fault Refusal :=
  match aget s.host.queues q with
  | none => .next s
  | some x =>
    match x.open_ with
    | [] => .next s
    | n :: rest =>
      let l := s.launch n
      if !x.en || l.phase != .ended || decide (x.cqn.toNat + 1 ≤ x.unread) then .next s
      else
        let pos := (l.queue.getD (q, 0)).2
        let bytes := (l.completion n pos x.phase).flatMap dwBytes
        let next := ringNext x.cqn x.cqtail
        let s1 : State := { s with host := { s.host with
          mem := setBytes s.host.mem (runOf (x.cqbase.toNat + 32 * x.cqtail.toNat) bytes) } }
        .next (s1.setHostQueue q
          { x with
            open_ := rest
            cqtail := next
            phase := x.phase != (next == 0)
            unread := x.unread + 1
            msix := if x.ien then x.msix + 1 else x.msix })

end Sys2Proof.Machine
end

