-- ==== Sys2Proof/Machine/Failures.lean ====
section
/-! DEFINITION. Failed and retired units, errors, power (R15, R38, R258, R318, R333 to R337, R373). -/

namespace Sys2Proof.Machine

/-! ### Measurement (R318) -/

/-- The SHA-384 digest of some bytes; its first byte is bits [7:0]. -/
def digestOf (b : List Byte) : BitVec 384 := BitVec.ofNat 384 (leOf (sha384 (b.map (·.toNat))))

/-- A digest as bytes. -/
def digestBytes (d : BitVec 384) : List Byte := leBytes 48 d.toNat

/-- Measurement register `i` extended with a digest; one entry of the event log. -/
def State.extend (s : State) (i : Nat) (digest : BitVec 384) (data : List Byte) : State :=
  let old := s.stag.mregs.getD i 0
  let new := digestOf (digestBytes old ++ digestBytes digest)
  let e : LogEntry := ⟨s.stag.log.length, i, if 8 ≤ i then 9 else i + 1, digest, data⟩
  { s with stag := { s.stag with mregs := setAt s.stag.mregs i new, log := s.stag.log ++ [e] } }

/-- Measurement register `i` extended with the digest of its event data. -/
def State.measure (s : State) (i : Nat) (data : List Byte) : State :=
  s.extend i (digestOf data) data

/-- The code of a kind of unit in the event data of a retirement [A21]. -/
def unitCode : UnitKind → Nat
  | .die => 0 | .stack => 1 | .link => 2 | .core => 3

/-- An entry of the module error log. -/
def State.logError (s : State) (e : ErrLog) : State :=
  { s with stag := { s.stag with errors := s.stag.errors ++ [e] } }

/-! ### Home maps and channel maps (R38) -/

/-- The channel that an entry of the module's home map, or of a die's, names: entry `i` of map 0, or of
map d + 1. -/
def State.mapEntry (s : State) (map i : Nat) : Nat :=
  let e := BitVec.ofNat 12 i
  let first :=
    if map = 0 then 64 * (Config.homeStack e).val + (Config.homeChannel e.toNat e).val
    else
      let d := map - 1
      64 * (3 * d + (Config.dieHomeStack d e).val) + (Config.homeChannel d e).val
  (aget s.mem.homeMap (4096 * map + i)).getD first

/-- A pseudo-channel is live. -/
def State.channelLive (s : State) (ch : Nat) : Bool := !(s.channel ch).retired

/-- The live channel of a stack that firmware chooses for entry `i` (R38). -/
def State.spareIn (s : State) (stack i : Nat) : Option Nat :=
  ((List.range 64).map fun c => 64 * stack + ((Config.spareChannel stack i).val + c) % 64).find?
    s.channelLive

/-- The live channel that firmware chooses when a stack of a map has none left: of another stack among
those given. -/
def State.spareFor (s : State) (stks : List Nat) (stack i : Nat) : Option Nat :=
  match s.spareIn stack i with
  | some c => some c
  | none =>
    let from' := (Config.spareStack i).val
    (((stks.filter fun x => decide (from' ≤ x)) ++ stks.filter fun x => decide (x < from')).filter
      fun x => x != stack).findSome? fun x => s.spareIn x i

/-- The entries of one home map that name a channel that is not live rewritten. -/
def State.rewriteMap (s : State) (map : Nat) : State :=
  let stks := if map = 0 then List.range 12 else (List.range 3).map fun i => 3 * (map - 1) + i
  (List.range 4096).foldl (fun a i =>
    let c := a.mapEntry map i
    if a.channelLive c then a
    else
      match a.spareFor stks (c / 64) i with
      | some n => a.modMem fun m => { m with homeMap := aput m.homeMap (4096 * map + i) n }
      | none => a) s

/-- The entries of a stack's channel map that name a channel that is not live rewritten. Those of a stack whose
last channel is gone stay as they are: R38 names channels of another stack for home maps only. DESIGN
CHOICE. [A68] -/
def State.rewriteChannels (s : State) (stack : Nat) : State :=
  (List.range 64).foldl (fun a i =>
    if a.channelLive (a.chanEntry stack i) then a
    else
      match a.spareIn stack i with
      | some n => a.modMem fun m => { m with chanMap := aput m.chanMap (64 * stack + i) n }
      | none => a) s

/-- Every map rewritten after a retirement (R15, R38). -/
def State.rewriteMaps (s : State) : State :=
  let s1 := (List.range 5).foldl State.rewriteMap s
  (List.range 12).foldl State.rewriteChannels s1

/-- The live map of the channels, as event data (R318, R371). -/
def State.liveMap (s : State) : List Byte :=
  (List.range 96).map fun i => BitVec.ofNat 8 ((List.range 8).foldl (fun x b =>
    x + bnat (s.channelLive (8 * i + b)) * 2 ^ b) 0)

/-- The narrowed map of the channels (R371). -/
def State.narrowMap (s : State) : List Byte :=
  (List.range 96).map fun i => BitVec.ofNat 8 ((List.range 8).foldl (fun x b =>
    x + bnat (s.channel (8 * i + b)).narrowed * 2 ^ b) 0)

/-! ### Part faults (R336, R337) -/

/-- A table has rows homed on a stack: a home unit of it is placed there, or a moved row lies there
(R337). -/
def State.onStack (s : State) (tid stack : Nat) : Bool :=
  let t := s.table tid
  (if t.home = 2 then t.homeId == stack
    else (List.range ((t.slots * t.rowSize + 65535) / 65536)).any fun u =>
      s.unitChannel t tid u / 64 == stack) ||
    s.mem.reloc.any fun r => r.1 / 2 ^ 42 == tid && r.2 == stack

/-- The tables in use that have rows homed on one of several stacks. -/
def State.lostTables (s : State) (stks : List Nat) : List Nat :=
  (akeys s.tables).filter fun t => (s.table t).valid && stks.any (s.onStack t)

/-- What a part fault takes away. -/
structure Loss where
  dies : List Nat
  cores : List Nat
  stks : List Nat
  tables : List Nat

/-- A team of a launch or of a descendant, or a service context that runs a call of one, is on a failed die or
a retired core. -/
def State.runsOn (s : State) (l : Nat) (x : Loss) : Bool :=
  let hit (core : Nat) : Bool := x.dies.contains (dieOfCore core) || x.cores.contains core
  (s.teams.any fun t => t.2.resident && s.descends 12 (launchOfTeam t.1) l && hit t.2.core) ||
    s.calls.any fun c => s.descends 12 c.launch l &&
      (match c.run with
        | some r => r.core.any hit
        | none => false)

/-- The rectangle of a launch contains a failed die: once dispatched, or where its record fixes it. -/
def Launch.rectHit (l : Launch) (ds : List Nat) : Bool :=
  if l.phase == .accepted then
    !l.float && (match l.origin with
      | some o => (rectDies o.1 o.2 l.width l.height).any ds.contains
      | none => false)
  else l.dies.any ds.contains

/-- A launch is affected by a part fault (R336 step 2). -/
def State.affected (s : State) (x : Loss) (l : Nat) : Bool :=
  let y := s.launch l
  y.phase != .ended && y.phase != .ending && (s.runsOn l x ||
    (y.phase != .accepted && decide (2 ≤ y.dies.length) && !s.connected y.dies) ||
    (y.grants.any fun g => x.tables.contains g.1) ||
    (s.heldChannels l).any (fun c => x.stks.contains (c / 64)) || y.rectHit x.dies)

/-- The channels of several stacks are gone. -/
def State.loseStacks (s : State) (stks : List Nat) : State :=
  stks.foldl (fun a k => (List.range 64).foldl (fun b c =>
    b.setChannel (64 * k + c) { b.channel (64 * k + c) with retired := true }) a) s

/-- The clusters of a failed die are gone: their copies, and the writes that have not left it. -/
def State.loseDie (s : State) (d : Nat) : State :=
  let s1 := s.modMem fun m =>
    { m with
      l1 := m.l1.filter fun e => dieOfCluster (ownerOfCopy e.1) != d
      vis := m.vis.filter fun e => ownerOfCopy e.1 != d
      early := m.early.filter fun e => dieOfCluster (ownerOfCopy e) != d
      walks := m.walks.filter fun w => w.die != d
      tlb := m.tlb.filter fun w => dieOfCore w.1 != d
      pins := m.pins.filter fun p => p.die != d }
  { s1 with writes := s1.writes.filter fun w => dieOfCluster w.cluster != d || (w.toHome && w.stage != 0) }

/-- Descriptors lose VALID (R337, R317): their tables' redirects and moves go. -/
def State.invalidate (s : State) (tids : List Nat) : State :=
  tids.foldl (fun a t =>
    (a.setTable t { a.table t with dw := setAt (a.table t).dw 0 (withField ((a.table t).d 0) 40 1 0) }).modMem
      fun m =>
        { m with
          reloc := m.reloc.filter fun r => r.1 / 2 ^ 42 != t
          moving := m.moving.filter fun r => r.1 / 2 ^ 42 != t }) s

/-- Launches stopped one after the other, those that a stop before has ended apart. -/
def State.stopAll (s : State) (ls : List Nat) (unit : Nat) : State :=
  ls.foldl (fun a l =>
    if (a.launch l).phase == .ended then a else a.stopLaunch l lsFaulted false unit) s

/-- The steps of R336 and R337 once the failed unit is marked. -/
def State.partFault (s : State) (x : Loss) (unit : Nat) : State :=
  let ls := (akeys s.launches).filter (s.affected x)
  let s1 := s.stopAll ls unit
  let s2 := (x.dies.foldl State.loseDie s1).invalidate x.tables
  let s3 := x.tables.foldl (fun a t => a.logError (.tableLost t)) s2
  if x.stks.isEmpty then s3
  else
    let s4 := (s3.loseStacks x.stks).rewriteMaps
    s4.measure 6 s4.liveMap

/-- The links of a die (R13). -/
def dieLinks (d : Nat) : List Nat := ((List.range 4).filter fun x => x != d && x + d != 3).map (linkOf d)

/-- Links lost: what was on them is sent again over the paths that remain (R170). -/
def State.loseLinks (s : State) (ls : List Nat) : State :=
  ({ s with links := ls.foldl insNum s.links } : State).resend

/-- A die fails with its three stacks (R336); the links that end there are gone. -/
def State.failDie (s : State) (d : Nat) : State :=
  if 4 ≤ d ∨ (s.die d).failed then s
  else
    let stks := [3 * d, 3 * d + 1, 3 * d + 2]
    let s1 := (s.modDie d fun x => { x with failed := true }).measure 6
      [BitVec.ofNat 8 (unitCode .die), BitVec.ofNat 8 d]
    (s1.partFault ⟨[d], [], stks, s1.lostTables stks⟩ d).loseLinks (dieLinks d)

/-- `UNIT_FAILURE` (R15, R336, R337). -/
def execUnitFailure (kind : UnitKind) (n : Nat) (s : State) : Host.Outcome State Fault Refusal :=
  let s1 := s.measure 6 [BitVec.ofNat 8 (unitCode kind), BitVec.ofNat 8 n, BitVec.ofNat 8 (n / 256)]
  match kind with
  | .die => .next (s.failDie n)
  | .stack =>
    .next (if 12 ≤ n ∨ !s.stackLive n then s else s1.partFault ⟨[], [], [n], s1.lostTables [n]⟩ n)
  | .link =>
    .next (if 20 ≤ n ∨ s.links.contains n then s
      else (s1.loseLinks [n]).partFault ⟨[], [], [], []⟩ n)
  | .core =>
    .next (if 640 ≤ n ∨ (s.core n).retired then s
      else (s1.modCore n fun c => { c with retired := true }).partFault ⟨[], [n], [], []⟩ (dieOfCore n))

/-- `PSEUDO_CHANNEL_RETIRE` (R15, R38, R257): the channel's rows move to new homes; a launch that holds it
in broadcast mode ends FAULTED, with the stack as its unit. -/
def execPseudoChannelRetire (ch : Nat) (s : State) : Host.Outcome State Fault Refusal :=
  if 768 ≤ ch ∨ (s.channel ch).retired then .next s
  else
    let holder := (s.channel ch).holder
    let s1 := if holder.isSome then s.leaveMode ch else s
    let s2 := (s1.setChannel ch { s1.channel ch with retired := true }).rewriteMaps
    let s3 := (s2.measure 6 [4, BitVec.ofNat 8 ch, BitVec.ofNat 8 (ch / 256)]).measure 6 s2.liveMap
    .next (match holder with
      | some l => s3.stopAll [l] (ch / 64)
      | none => s3)

/-- A channel goes on in half-width mode (R258, R318). -/
def State.narrowChannel (s : State) (ch : Nat) : State :=
  (s.setChannel ch { s.channel ch with narrowed := true }).measure 6
    [5, BitVec.ofNat 8 ch, BitVec.ofNat 8 (ch / 256)]

/-- `CHANNEL_NARROW` (R258). -/
def execChannelNarrow (ch : Nat) (s : State) : Host.Outcome State Fault Refusal :=
  .next (if 768 ≤ ch ∨ (s.channel ch).narrowed then s else s.narrowChannel ch)

/-! ### Soft errors (R333, R334) -/

/-- What a reset of the module leaves of the state: the clock, the environment's schedule, the host's
memory, the start record in flash. -/
def State.powerUp (s : State) : State :=
  { State.reset with
    now := s.now
    inputs := s.inputs
    fresh := s.fresh
    host := { HostIf.reset with mem := s.host.mem }
    stag := { Stag.reset with startGen := s.stag.startGen, steps := s.stag.steps, rom := s.stag.rom } }

/-- The launches of the groups of which a unit of memory holds a part of a live frame (R334). -/
def State.frameOwners (s : State) (u : Nat) : List Nat :=
  dedup ((s.groups.filter fun g => [false, true].any fun pre =>
    (if pre then g.2.preLive else g.2.trapLive) && decide (s.frameKey g.1 pre / 32 ≤ u) &&
      decide (u < s.frameKey g.1 pre / 32 + 32)).map fun g => launchOfTeam (teamOf g.1))

/-- `ECC_UNCORRECTABLE` (R333, R334). -/
def execEccUncorrectable (tgt : EccTarget) (s : State) : Host.Outcome State Fault Refusal :=
  match tgt with
  | .memUnit key | .launchRecord key =>
    let s1 := (s.poisonUnits [unitOf key]).logError (.ecc (unitOf key))
    .next ((s.frameOwners (unitOf key)).foldl (fun a l => a.stopAll [l] ((a.launch l).dies.headD 0)) s1)
  | .spadUnit team off =>
    .next ({ s with teams := aupd s.teams team fun t =>
      { t with spadPoison := insNum t.spadPoison (off / 32) } })
  | .laneReg gid r =>
    .next ({ s with groups := aupd s.groups gid fun g => g.poisonRegs (regSet 128 r.val 1) 0 })
  | .uniReg gid r =>
    .next ({ s with groups := aupd s.groups gid fun g => g.poisonRegs 0 (regSet 136 r.val 1) })
  | .tile team t =>
    .next ({ s with teams := aupd s.teams team fun x => { x with tilePoison := insNum x.tilePoison t } })
  | .control l => .next (s.stopAll [l] ((s.launch l).dies.headD 0))
  | .descriptor tid => .next ({ s with tables := aupd s.tables tid fun t => { t with poisonDesc := true } })
  | .indexNode tid => .next ({ s with tables := aupd s.tables tid fun t => { t with poisonIndex := true } })
  | .stag => .next s.powerUp

/-- `CORRECTED_ERROR` (R333). -/
def execCorrectedError (s : State) : Host.Outcome State Fault Refusal :=
  .next { s with host := { s.host with corrected := s.host.corrected + 1 } }

/-! ### Power (R138, R373) -/

/-- `POWER_ALARM_RAISE` (R373). -/
def execPowerAlarmRaise (s : State) : Host.Outcome State Fault Refusal :=
  .next (if s.host.alarm then s
    else { s with host := { s.host with alarm := true, alarms := s.host.alarms + 1 } })

/-- `POWER_ALARM_CLEAR` (R373). -/
def execPowerAlarmClear (s : State) : Host.Outcome State Fault Refusal :=
  .next { s with
    host := { s.host with alarm := false }
    cores := s.cores.map fun c => (c.1, { c.2 with alarm := false }) }

/-- `DIE_OVERTEMP` (R373): a failed die under R336. -/
def execDieOvertemp (die : Nat) (s : State) : Host.Outcome State Fault Refusal := .next (s.failDie die)

end Sys2Proof.Machine
end

