-- ==== Sys2Proof/Machine/Signatures.lean ====
section
/-! DEFINITION. The public-key functions that R319 and R321 name: Ed25519 (RFC 8032), ML-DSA-65 (FIPS 204) with
the Keccak functions that it uses, and ECDH on secp384r1. Bytes are numbers below 256 here, and definitions follow
the texts of those standards, not a fast way to compute them. -/

namespace Sys2Proof.Machine

/-! ### Arithmetic modulo a prime -/

/-- A power modulo `m`, over `n` bits of the exponent. -/
def powBits (m : Nat) : Nat → Nat → Nat → Nat
  | 0, _, _ => 1 % m
  | n + 1, b, e => (if e % 2 = 1 then b else 1) * powBits m n (b * b % m) (e / 2) % m

/-- A power modulo `m`, of an exponent below 2^512. -/
def powMod (m b e : Nat) : Nat := powBits m 512 (b % m) e

/-- The inverse modulo a prime; 0 for 0. -/
def invMod (p a : Nat) : Nat := powMod p a (p - 2)

/-- The difference modulo `m` of two numbers below it. -/
def subMod (m a b : Nat) : Nat := (a + (m - b % m)) % m

/-- A multiple of a group element, over `n` bits of the factor. -/
def mulBits {α : Type} (add : α → α → α) (zero : α) : Nat → α → Nat → α
  | 0, _, _ => zero
  | n + 1, x, e =>
    let r := mulBits add zero n (add x x) (e / 2)
    if e % 2 = 1 then add x r else r

/-! ### SHA-512 and Keccak -/

/-- The initial value of SHA-512: the fractions of the square roots of the first eight primes. -/
def sha512Init : List Nat := (primes 8).map fun p => rootBits 2 (p * 2 ^ 128) 70 0 % 2 ^ 64

/-- The 64 bytes of the SHA-512 digest of a message. -/
def sha512 (m : List Nat) : List Nat :=
  let z := (239 - m.length % 128) % 128
  let p := m ++ [0x80] ++ List.replicate z 0 ++ (natLe 16 (8 * m.length)).reverse
  (shaBlocks (p.length / 128) sha512Init p).flatMap fun x => (natLe 8 x).reverse

/-- The rotation of a lane: its place is reached from (1, 0) by (x, y) ↦ (y, 2 x + 3 y). -/
def keccakTurns : List Nat :=
  ((List.range 24).foldl (fun a t =>
    (setAt a.1 (a.2.1 + 5 * a.2.2) ((t + 1) * (t + 2) / 2 % 64), a.2.2, (2 * a.2.1 + 3 * a.2.2) % 5))
    (List.replicate 25 0, 1, 0)).1

/-- The state of the linear register of the round constants after `n` steps: its polynomial is
x^8 + x^6 + x^5 + x^4 + 1. -/
def keccakReg : Nat → Nat
  | 0 => 1
  | n + 1 =>
    let r := 2 * keccakReg n
    if 256 ≤ r then (r ^^^ 0x171) else r

/-- The constant of a round. -/
def keccakConst (round : Nat) : Nat :=
  (List.range 7).foldl (fun c j => c + keccakReg (7 * round + j) % 2 * 2 ^ (2 ^ j - 1)) 0

/-- A lane rotated left. -/
def rotl (x n : Nat) : Nat := x * 2 ^ n % 2 ^ 64 + x / 2 ^ (64 - n)

/-- One round on 25 lanes; lane x + 5 y. -/
def keccakRound (a : List Nat) (c : Nat) : List Nat :=
  let at' (s : List Nat) (x y : Nat) : Nat := s.getD (x % 5 + 5 * (y % 5)) 0
  let col := (List.range 5).map fun x => (List.range 5).foldl (fun v y => v ^^^ at' a x y) 0
  let t := (List.range 25).map fun i =>
    a.getD i 0 ^^^ col.getD ((i + 4) % 5) 0 ^^^ rotl (col.getD ((i + 1) % 5) 0) 1
  let b := (List.range 25).foldl (fun s i =>
    setAt s (i / 5 + 5 * ((2 * (i % 5) + 3 * (i / 5)) % 5)) (rotl (t.getD i 0) (keccakTurns.getD i 0)))
    (List.replicate 25 0)
  (List.range 25).map fun i =>
    let v := at' b i (i / 5) ^^^ ((2 ^ 64 - 1 - at' b (i % 5 + 1) (i / 5)) &&& at' b (i % 5 + 2) (i / 5))
    if i = 0 then v ^^^ c else v

/-- The permutation. -/
def keccakF (a : List Nat) : List Nat := ((List.range 24).map keccakConst).foldl keccakRound a

/-- `n` blocks of `rate` bytes absorbed. -/
def absorb (rate : Nat) : Nat → List Nat → List Nat → List Nat
  | 0, a, _ => a
  | n + 1, a, m =>
    let w := (List.range 25).map fun i => leOf (((m.take rate).drop (8 * i)).take 8)
    absorb rate n (keccakF (xorBytes a w)) (m.drop rate)

/-- `n` blocks of `rate` bytes squeezed. -/
def squeezed (rate : Nat) : Nat → List Nat → List Nat
  | 0, _ => []
  | n + 1, a => (a.flatMap (natLe 8)).take rate ++ squeezed rate n (keccakF a)

/-- The first bytes, in whole blocks, of SHAKE with a rate. -/
def shake (rate blocks : Nat) (m : List Nat) : List Nat :=
  let z := (rate - 1 - m.length % rate) % rate
  let p := m ++ (if z = 0 then [0x9F] else 0x1F :: List.replicate (z - 1) 0 ++ [0x80])
  squeezed rate blocks (absorb rate (p.length / rate) (List.replicate 25 0) p)

/-- `n` bytes of SHAKE256. -/
def shake256 (n : Nat) (m : List Nat) : List Nat := (shake 136 ((n + 135) / 136) m).take n

/-! ### Ed25519 (RFC 8032) -/

/-- The prime of the field. -/
def edP : Nat := 2 ^ 255 - 19
/-- The constant d of the curve −x² + y² = 1 + d x² y². -/
def edD : Nat := subMod edP 0 (121665 * invMod edP 121666)
/-- The order of the base point. -/
def edL : Nat := 2 ^ 252 + 27742317777372353535851937790883648493

/-- The sum of two points. -/
def edAdd (a b : Nat × Nat) : Nat × Nat :=
  let t := edD * a.1 % edP * b.1 % edP * a.2 % edP * b.2 % edP
  ((a.1 * b.2 + b.1 * a.2) * invMod edP (1 + t) % edP,
    (a.2 * b.2 + a.1 * b.1) * invMod edP (subMod edP 1 t) % edP)

/-- The point with a y coordinate below the prime and a sign of x, where there is one. -/
def edPoint (y sign : Nat) : Option (Nat × Nat) :=
  let w := subMod edP (y * y) 1 * invMod edP (edD * (y * y % edP) + 1) % edP
  let x0 := powMod edP w ((edP + 3) / 8)
  let x1 := if x0 * x0 % edP = w then x0 else x0 * powMod edP 2 ((edP - 1) / 4) % edP
  if edP ≤ y ∨ x1 * x1 % edP ≠ w ∨ (x1 = 0 ∧ sign = 1) then none
  else some (if x1 % 2 = sign then x1 else edP - x1, y)

/-- A point as 32 bytes. -/
def edEncode (a : Nat × Nat) : List Nat := natLe 32 (a.1 % 2 * 2 ^ 255 + a.2)

/-- The point of 32 bytes. -/
def edDecode (b : List Nat) : Option (Nat × Nat) := edPoint (leOf b % 2 ^ 255) (leOf b / 2 ^ 255 % 2)

/-- The base point: y is 4/5, x is even. -/
def edBase : Nat × Nat := (edPoint (4 * invMod edP 5 % edP) 0).getD (0, 1)

/-- A multiple of a point. -/
def edMul (n : Nat) (a : Nat × Nat) : Nat × Nat := mulBits edAdd (0, 1) 256 a n

/-- The scalar of a private key, and the prefix of its nonces. -/
def edSecret (seed : List Nat) : Nat × List Nat :=
  let h := sha512 seed
  (leOf (h.take 32) % 2 ^ 254 / 8 * 8 + 2 ^ 254, h.drop 32)

/-- The public key of a private key of 32 bytes. -/
def edPublic (seed : List Nat) : List Nat := edEncode (edMul (edSecret seed).1 edBase)

/-- The 64 bytes of a signature. -/
def edSign (seed msg : List Nat) : List Nat :=
  let k := edSecret seed
  let r := leOf (sha512 (k.2 ++ msg)) % edL
  let rb := edEncode (edMul r edBase)
  let h := leOf (sha512 (rb ++ edPublic seed ++ msg)) % edL
  rb ++ natLe 32 ((r + h * k.1) % edL)

/-- A signature verifies under a public key. -/
def edVerify (pub msg sig : List Nat) : Bool :=
  let s := leOf ((sig.drop 32).take 32)
  match edDecode pub, edDecode (sig.take 32) with
  | some a, some r =>
    let h := leOf (sha512 (sig.take 32 ++ pub ++ msg)) % edL
    pub.length == 32 && sig.length == 64 && decide (s < edL) && edMul s edBase == edAdd r (edMul h a)
  | _, _ => false

/-! ### ML-DSA-65 (FIPS 204) -/

/-- The modulus q. -/
def mlQ : Nat := 8380417
/-- γ2. -/
def mlGamma2 : Nat := 261888
/-- γ1. -/
def mlGamma1 : Nat := 524288
/-- β, τ η. -/
def mlBeta : Nat := 196

/-- A polynomial: 256 coefficients below q. -/
abbrev Poly := List Nat

/-- A polynomial from its coefficients' function. -/
def poly (f : Nat → Nat) : Poly := (List.range 256).map f

/-- A sum of polynomials. -/
def polyAdd (a b : Poly) : Poly := List.zipWith (fun x y => (x + y) % mlQ) a b
/-- A difference of polynomials. -/
def polySub (a b : Poly) : Poly := List.zipWith (subMod mlQ) a b
/-- A product modulo X^256 + 1. -/
def polyMul (a b : Poly) : Poly :=
  (List.range 256).foldl (fun r i =>
    let x := a.getD i 0
    if x = 0 then r
    else polyAdd r (((b.drop (256 - i)).map fun y => subMod mlQ 0 (x * y)) ++
      (b.take (256 - i)).map fun y => x * y % mlQ)) (List.replicate 256 0)

/-- A number of 8 bits reversed. -/
def bitRev8 (n : Nat) : Nat := (List.range 8).foldl (fun r i => r + n / 2 ^ i % 2 * 2 ^ (7 - i)) 0

/-- The powers 0 to 511 of ζ = 1753. -/
def mlZetas : List Nat :=
  ((List.range 512).foldl (fun a _ => (a.1 ++ [a.2], a.2 * 1753 % mlQ)) (([] : List Nat), 1)).1

/-- The NTT: the values of a polynomial at the odd powers of ζ, in bit-reversed order. -/
def ntt (a : Poly) : Poly :=
  let zs := mlZetas.toArray
  poly fun i =>
    let e := 2 * bitRev8 i + 1
    (a.foldl (fun (s : Nat × Nat) x => ((s.1 + x * zs.getD (s.2 * e % 512) 0) % mlQ, s.2 + 1)) (0, 0)).1

/-- The polynomial with given values. -/
def invNtt (a : Poly) : Poly :=
  let zs := mlZetas.toArray
  let f := invMod mlQ 256
  let es := ((List.range 256).map fun i => 2 * bitRev8 i + 1)
  poly fun j =>
    f * ((a.zip es).foldl (fun s x => (s + x.1 * zs.getD ((512 - j * x.2 % 512) % 512) 0) % mlQ) 0) % mlQ

/-- A coefficient nearest to zero. -/
def centred (x : Nat) : Int := if mlQ / 2 < x then (x : Int) - mlQ else x
/-- A coefficient from an integer. -/
def ofCentred (x : Int) : Nat := (x % (mlQ : Int)).toNat
/-- The greatest magnitude of a coefficient. -/
def polyNorm (a : Poly) : Nat := a.foldl (fun m x => max m (centred x).natAbs) 0

/-- r1 and r0 with r = r1 2^13 + r0. -/
def power2Round (r : Nat) : Nat × Int :=
  let r0 : Int := if 4096 < r % 8192 then (r % 8192 : Int) - 8192 else (r % 8192 : Int)
  ((((r : Int) - r0) / 8192).toNat, r0)

/-- r1 and r0 with r = r1 2 γ2 + r0, r1 modulo 16. -/
def decompose (r : Nat) : Nat × Int :=
  let m := 2 * mlGamma2
  let r0 : Int := if mlGamma2 < r % m then (r % m : Int) - m else (r % m : Int)
  if (r : Int) - r0 = mlQ - 1 then (0, r0 - 1) else ((((r : Int) - r0) / m).toNat, r0)

/-- The high part of a coefficient as a hint corrects it. -/
def useHint (h : Bool) (r : Nat) : Nat :=
  let d := decompose r
  if !h then d.1 else if 0 < d.2 then (d.1 + 1) % 16 else (d.1 + 15) % 16

/-- Numbers of `n` bits as bytes, least significant bits first. -/
def packBits (n : Nat) (xs : List Nat) : List Nat :=
  natLe (n * xs.length / 8) (xs.foldr (fun x a => x + 2 ^ n * a) 0)

/-- 256 numbers of `n` bits from bytes. -/
def unpackBits (n : Nat) (b : List Nat) : List Nat :=
  let x := leOf b
  (List.range 256).map fun i => x / 2 ^ (n * i) % 2 ^ n

/-- A polynomial of the matrix A, in the values' form: RejNTTPoly. -/
def rejNttPoly (seed : List Nat) : Poly :=
  let b := shake 168 7 seed
  let xs := (List.range 392).map fun i => b.getD (3 * i) 0 + b.getD (3 * i + 1) 0 * 2 ^ 8 +
    b.getD (3 * i + 2) 0 % 128 * 2 ^ 16
  (xs.filter fun x => decide (x < mlQ)).take 256

/-- The matrix A: ExpandA. -/
def expandA (rho : List Nat) : List (List Poly) :=
  (List.range 6).map fun r => (List.range 5).map fun s => rejNttPoly (rho ++ [s, r])

/-- A coefficient whose magnitude is at most 4, from a half byte below 9. -/
def smallCoeff (x : Nat) : Nat := ofCentred (4 - (x : Int))

/-- A polynomial with coefficients from −4 to 4: RejBoundedPoly. -/
def rejBoundedPoly (seed : List Nat) : Poly :=
  let b := shake 136 5 seed
  let xs := b.flatMap fun z => [z % 16, z / 16]
  ((xs.filter fun x => decide (x < 9)).take 256).map smallCoeff

/-- The secret vectors s1 and s2: ExpandS. -/
def expandS (rho : List Nat) : List Poly × List Poly :=
  let v (r : Nat) : Poly := rejBoundedPoly (rho ++ natLe 2 r)
  ((List.range 5).map v, (List.range 6).map fun r => v (r + 5))

/-- γ1 less a number, as a coefficient. -/
def maskCoeff (x : Nat) : Nat := ofCentred ((mlGamma1 : Int) - (x : Int))

/-- The mask vector y: ExpandMask. -/
def expandMask (rho : List Nat) (k : Nat) : List Poly :=
  (List.range 5).map fun r => (unpackBits 20 (shake256 640 (rho ++ natLe 2 (k + r)))).map maskCoeff

/-- One draw of SampleInBall: the next byte that is at most `i`, and the bytes after it. -/
def drawBelow (i : Nat) : List Nat → Nat × List Nat
  | [] => (0, [])
  | j :: r => if j ≤ i then (j, r) else drawBelow i r

/-- The challenge: 49 coefficients ±1. -/
def sampleInBall (seed : List Nat) : Poly :=
  let b := shake 136 4 seed
  let signs := leOf (b.take 8)
  ((List.range 49).foldl (fun (a : Poly × List Nat) t =>
    let i := 207 + t
    let d := drawBelow i a.2
    (setAt (setAt a.1 i (a.1.getD d.1 0)) d.1 (if signs.testBit t then mlQ - 1 else 1), d.2))
    (List.replicate 256 0, b.drop 8)).1

/-- A matrix of values times a vector. -/
def mlMatrix (a : List (List Poly)) (v : List Poly) : List Poly :=
  let vs := v.map ntt
  a.map fun row => invNtt ((row.zip vs).foldl (fun s x =>
    polyAdd s (List.zipWith (fun p q => p * q % mlQ) x.1 x.2)) (List.replicate 256 0))

/-- The high parts of a vector as bytes: w1Encode. -/
def mlHigh (w : List Poly) (hs : List (List Bool)) : List Nat :=
  (w.zip hs).flatMap fun x => packBits 4 (List.zipWith useHint x.2 x.1)

/-- What a private seed of 32 bytes expands to. -/
structure MlKey where
  rho : List Nat
  k : List Nat
  s1 : List Poly
  s2 : List Poly
  t : List Poly

/-- The key pair of a seed: KeyGen_internal. -/
def mlKeyGen (seed : List Nat) : MlKey :=
  let h := shake256 128 (seed ++ [6, 5])
  let rho := h.take 32
  let s := expandS ((h.drop 32).take 64)
  ⟨rho, h.drop 96, s.1, s.2, List.zipWith polyAdd (mlMatrix (expandA rho) s.1) s.2⟩

/-- The 1,952 bytes of a public key. -/
def MlKey.bytes (k : MlKey) : List Nat :=
  k.rho ++ k.t.flatMap fun p => packBits 10 (p.map fun x => (power2Round x).1)

/-- The public key of a seed. -/
def mlPublic (seed : List Nat) : List Nat := (mlKeyGen seed).bytes

/-- The message as it is signed: pure, with the empty context. -/
def mlMessage (pub msg : List Nat) : List Nat := shake256 64 (shake256 64 pub ++ [0, 0] ++ msg)

/-- The hint vector as 61 bytes: HintBitPack. -/
def hintBytes (hs : List (List Bool)) : List Nat :=
  let is := hs.map fun h => (List.range 256).filter fun i => h.getD i false
  let ends := (List.range 6).map fun i => (is.take (i + 1)).flatten.length
  is.flatten ++ List.replicate (55 - is.flatten.length) 0 ++ ends

/-- The hint vector of 61 bytes, where they are well formed: HintBitUnpack. -/
def hintOf (y : List Nat) : Option (List (List Bool)) :=
  let ends := 0 :: (y.drop 55).take 6
  let part (i : Nat) : List Nat := (y.take (ends.getD (i + 1) 0)).drop (ends.getD i 0)
  let up (l : List Nat) : Bool := (l.zip (l.drop 1)).all fun x => decide (x.1 < x.2)
  if ((List.range 6).all fun i => decide (ends.getD i 0 ≤ ends.getD (i + 1) 0) &&
      decide (ends.getD (i + 1) 0 ≤ 55) && up (part i)) && ((y.take 55).drop (ends.getD 6 0)).all (· == 0) then
    some ((List.range 6).map fun i => (List.range 256).map fun j => (part i).contains j)
  else none

/-- No hint. -/
def noHints : List (List Bool) := List.replicate 6 (List.replicate 256 false)

/-- The attempts of a signature, with the counter of each; at most `n`: Sign_internal. -/
def mlAttempt (k : MlKey) (a : List (List Poly)) (mu rho : List Nat) : Nat → Nat → List Nat
  | 0, _ => []
  | n + 1, kappa =>
    let y := expandMask rho kappa
    let w := mlMatrix a y
    let ct := shake256 48 (mu ++ mlHigh w noHints)
    let c := sampleInBall ct
    let z := List.zipWith (fun p s => polyAdd p (polyMul c s)) y k.s1
    let r := List.zipWith (fun p s => polySub p (polyMul c s)) w k.s2
    let ct0 := k.t.map fun p => polyMul c (p.map fun x => ofCentred (power2Round x).2)
    let v := List.zipWith polyAdd r ct0
    let hs := List.zipWith (List.zipWith fun x y => (decompose x).1 != (decompose y).1) v r
    let far := (z.any fun p => decide (mlGamma1 - mlBeta ≤ polyNorm p)) ||
      (r.any fun p => p.any fun x => decide (mlGamma2 - mlBeta ≤ (decompose x).2.natAbs)) ||
      (ct0.any fun p => decide (mlGamma2 ≤ polyNorm p)) ||
      decide (55 < (hs.flatten.filter id).length)
    if far then mlAttempt k a mu rho n (kappa + 5)
    else
      ct ++ z.flatMap (fun p => packBits 20 (p.map fun x => ((mlGamma1 : Int) - centred x).toNat)) ++ hintBytes hs

/-- The 3,309 bytes of a signature under a seed, with 32 random bytes. FIPS 204 lets a signer give up after 814
attempts. -/
def mlSign (seed rnd msg : List Nat) : List Nat :=
  let k := mlKeyGen seed
  let mu := mlMessage k.bytes msg
  mlAttempt k (expandA k.rho) mu (shake256 64 (k.k ++ rnd ++ mu)) 814 0

/-- A signature verifies under a public key: Verify_internal. -/
def mlVerify (pub msg sig : List Nat) : Bool :=
  let t1 := (List.range 6).map fun i => unpackBits 10 ((pub.drop (32 + 320 * i)).take 320)
  let ct := sig.take 48
  let z := (List.range 5).map fun i => (unpackBits 20 ((sig.drop (48 + 640 * i)).take 640)).map maskCoeff
  let c := sampleInBall ct
  let w := List.zipWith polySub (mlMatrix (expandA (pub.take 32)) z)
    (t1.map fun p => polyMul c (p.map fun x => x * 8192 % mlQ))
  match hintOf (sig.drop 3248) with
  | none => false
  | some hs =>
    pub.length == 1952 && sig.length == 3309 && (z.all fun p => decide (polyNorm p < mlGamma1 - mlBeta)) &&
      ct == shake256 48 (mlMessage pub msg ++ mlHigh w hs)

/-! ### ECDH on secp384r1 (R321) -/

/-- The prime of the field. -/
def ecP : Nat := 2 ^ 384 - 2 ^ 128 - 2 ^ 96 + 2 ^ 32 - 1
/-- The constant b of the curve y² = x³ − 3 x + b. -/
def ecB : Nat :=
  0xb3312fa7e23ee7e4988e056be3f82d19181d9c6efe8141120314088f5013875ac656398d8a2ed19d2a85c8edd3ec2aef
/-- The order of the base point. -/
def ecN : Nat :=
  0xffffffffffffffffffffffffffffffffffffffffffffffffc7634d81f4372ddf581a0db248b0a77aecec196accc52973
/-- The base point. -/
def ecBase : Option (Nat × Nat) := some
  (0xaa87ca22be8b05378eb1c71ef320ad746e1d3b628ba79b9859f741e082542a385502f25dbf55296c3a545e3872760ab7,
    0x3617de4a96262c6f5d9e98bf9292dc29f8f41dbd289a147ce9da3113b5f0b8c00a60b1ce1d7e819d7a431d7c90ea0e5f)

/-- A point lies on the curve. -/
def ecOn (a : Nat × Nat) : Bool :=
  decide (a.1 < ecP) && decide (a.2 < ecP) &&
    a.2 * a.2 % ecP == (a.1 * a.1 % ecP * a.1 + (ecP - 3) * a.1 + ecB) % ecP

/-- The sum of two points; none is the point at infinity. -/
def ecAdd (a b : Option (Nat × Nat)) : Option (Nat × Nat) :=
  match a, b with
  | none, _ => b
  | _, none => a
  | some p, some q =>
    let sum (m : Nat) : Option (Nat × Nat) :=
      let x := subMod ecP (subMod ecP (m * m) p.1) q.1
      some (x, subMod ecP (m * subMod ecP p.1 x) p.2)
    if p.1 ≠ q.1 then sum (subMod ecP q.2 p.2 * invMod ecP (subMod ecP q.1 p.1) % ecP)
    else if p.2 = q.2 ∧ p.2 ≠ 0 then
      sum (subMod ecP (3 * p.1 * p.1) 3 * invMod ecP (2 * p.2) % ecP)
    else none

/-- A multiple of a point. -/
def ecMul (n : Nat) (a : Option (Nat × Nat)) : Option (Nat × Nat) := mulBits ecAdd none 384 a n

/-- The private scalar, from 1 to the order less 1, of a number. -/
def ecScalar (n : Nat) : Nat := n % (ecN - 1) + 1

/-- A point as 96 bytes, both coordinates with the most significant byte first. -/
def ecBytes (a : Option (Nat × Nat)) : List Nat :=
  let p := a.getD (0, 0)
  (natLe 48 p.1).reverse ++ (natLe 48 p.2).reverse

/-- The point of 96 bytes, where it lies on the curve. -/
def ecPoint (b : List Nat) : Option (Nat × Nat) :=
  let p := (beOf (b.take 48), beOf (b.drop 48))
  if ecOn p then some p else none

/-- The public point of a private number. -/
def ecPublic (n : Nat) : List Nat := ecBytes (ecMul (ecScalar n) ecBase)

/-- The shared secret of a private number and a peer's point: the x coordinate of their product. -/
def ecShared (n : Nat) (peer : Nat × Nat) : List Nat := (ecBytes (ecMul (ecScalar n) (some peer))).take 48

end Sys2Proof.Machine
end

