-- ==== Sys2Proof/Machine/Stag.lean ====
section
/-! DEFINITION. The Stag: the start (R320, R338, R339), function-level resets (R317), IDE and TDISP (R315,
R316), wrap keys (R303) and SPDM (R321). -/

namespace Sys2Proof.Machine

/-! ### The start record (R338) -/

/-- Where the entry of a step and unit stands, or the first unused one, from place `i` on. -/
def entryAt (step unit : Nat) : List StartStep → Nat → Option Nat
  | [], _ => none
  | e :: r, i =>
    if (e.state ≠ 0 ∧ e.step = step ∧ e.unit = unit) ∨ e.state = 0 then some i
    else entryAt step unit r (i + 1)

/-- The entry of a step and unit: its ALT and STATE; 0 and 0 for one never written. -/
def State.entry (s : State) (step unit : Nat) : Nat × Nat :=
  match s.stag.steps.find? fun e => e.state != 0 && e.step == step && e.unit == unit with
  | some e => (e.alt, e.state)
  | none => (0, 0)

/-- The entry of a step and unit written, at this start's generation. -/
def State.setEntry (s : State) (step unit alt state : Nat) : State :=
  match entryAt step unit s.stag.steps 0 with
  | none => s
  | some i =>
    let e : StartStep := ⟨lo32 s.stag.startGen, alt, state, unit, step⟩
    { s with stag := { s.stag with steps := setAt s.stag.steps i e } }

/-- A failed step extended into mreg5: its numbers and the alternative that failed (R318) [A21]. -/
def State.measureFailure (s : State) (step unit alt : Nat) : State :=
  s.measure 5 [BitVec.ofNat 8 step, BitVec.ofNat 8 unit, BitVec.ofNat 8 alt]

/-- A new start: its generation, at which steps that stand begun failed without reporting (R338). Each is extended
into mreg5, which R318 gives the record's failed steps, as the sweep finds it [A50]. -/
def State.sweepBegun (s : State) : State :=
  let n := s.stag.startGen + 1
  let s1 : State := { s with stag := { s.stag with
      startGen := n
      steps := s.stag.steps.map fun e => if e.state = 1 then { e with state := 3, gen := lo32 n } else e } }
  (s.stag.steps.filter (·.state == 1)).foldl (fun a e => a.measureFailure e.step e.unit e.alt) s1

/-- The start stops (R375). -/
def State.startStops (s : State) : State :=
  { s with host := { s.host with boot := 0xF0 }, stag := { s.stag with boot := none } }

/-- BOOTSTAT moves on (R375). -/
def State.setBoot (s : State) (n : Nat) : State := { s with host := { s.host with boot := n } }

/-! ### The boot chain (R320) -/

/-- A byte list as numbers, for the algorithms. -/
def natsOf (b : List Byte) : List Nat := b.map (·.toNat)

/-- The composite form of a signature: the format identifier, the Ed25519 signature, the ML-DSA-65 signature
(R319). -/
def composite (keys : BitVec 512) (msg : List Byte) : List Byte :=
  let ed := edSign (natLe 32 (keys.toNat % 2 ^ 256)) (natsOf msg)
  let ml := mlSign (natLe 32 (keys.toNat / 2 ^ 256)) (natLe 32 (Config.signRandom msg).toNat) (natsOf msg)
  leBytes 2 1 ++ leBytes 64 (leOf ed) ++ leBytes 3309 (leOf ml)

/-- A composite signature of a message verifies in both schemes under two public keys (R319). -/
def compositeOk (edKey mlKey msg sig : List Byte) : Bool :=
  sig.length == 3375 && sig.take 2 == leBytes 2 1 &&
    edVerify (natsOf edKey) (natsOf msg) (natsOf ((sig.drop 2).take 64)) &&
    mlVerify (natsOf mlKey) (natsOf msg) (natsOf (sig.drop 66))

/-- An image verifies in both schemes under the keys whose digests the boot ROM holds (R319). -/
def imageVerified (x : BootImage) (rom : BitVec 384 × BitVec 384) : Bool :=
  digestOf x.edKey == rom.1 && digestOf x.mlKey == rom.2 && compositeOk x.edKey x.mlKey x.bytes x.sig

/-- The start stops at a failed step, which is recorded and extended into mreg5 (R318, R320, R338, R375). -/
def State.failStep (s : State) (step unit alt : Nat) : State :=
  ((s.setEntry step unit alt 3).measureFailure step unit alt).startStops

/-- The start under way. -/
def State.setRun (s : State) (r : BootRun) : State := { s with stag := { s.stag with boot := some r } }

/-- The identity and the alias key pairs derived (R319, R320 step 2). -/
def State.deriveKeys (s : State) : State :=
  { s with stag := { s.stag with
      keys := some (Config.identityKeys Config.pufSecret,
        Config.aliasKeys Config.pufSecret (s.stag.mregs.getD 0 0)) } }

/-- The next image verified and extended with its version as event data (R318, R320 steps 1 to 3). The Stag
firmware, image 0, derives the keys; image 3 holds the configuration, with the power limit (R373). -/
def State.bootImage (s : State) (r : BootRun) : State :=
  match r.input.images[r.image]? with
  | some x =>
    if imageVerified x s.stag.rom then
      let s1 := (s.extend r.image (digestOf x.bytes) (x.version.take 4096)).setRun { r with image := r.image + 1 }
      if r.image = 0 then s1.deriveKeys.setBoot 2
      else if r.image = 3 then { s1 with host := { s1.host with limit := r.input.limit } }
      else if r.image = 4 then s1.setEntry 1 0 0 2
      else s1
    else s.failStep 1 0 0
  | none => s.failStep 1 0 0

/-! ### The start steps (R338, R339) -/

/-- The last alternative of a step (R339). -/
def lastAlt (step : Nat) : Nat := if step = 3 ∨ step = 5 then 2 else 1

/-- The alternative that a step of a unit runs at this start (R339). -/
def State.altFor (s : State) (step unit : Nat) : Nat :=
  let e := s.entry step unit
  if e.2 = 3 then min (e.1 + 1) (lastAlt step) else e.1

/-- A pseudo-channel's stack excluded or lost with its die at the start: its channels take no home. -/
def State.excludeStack (s : State) (k : Nat) : State := (s.loseStacks [k]).rewriteMaps

/-- Cores of the self-test retired (R15, R318). -/
def State.retireCores (s : State) (cs : List Nat) : State :=
  cs.foldl (fun a c => (a.modCore c fun x => { x with retired := true }).measure 6
    [BitVec.ofNat 8 (unitCode .core), BitVec.ofNat 8 c, BitVec.ofNat 8 (c / 256)]) s

/-- The clusters of a die that hold a failing core. -/
def failedClusters (d : Nat) (cs : List Nat) : List Nat :=
  (clustersOfDie d).filter fun c => cs.any fun x => clusterOfCore x == c

/-- The pseudo-channels that HBM training of a stack leaves narrowed (R258). -/
def State.trainStack (s : State) (b : BootInput) (k : Nat) : State :=
  (b.narrow.filter fun c => c / 64 == k && decide (c < 768)).foldl (fun a c => a.narrowChannel c) s

/-- What an alternative does to the module (R339). -/
def State.takeAlt (s : State) (b : BootInput) (step alt unit : Nat) : State :=
  let retire (s : State) (k : UnitKind) : State := s.measure 6 [BitVec.ofNat 8 (unitCode k), BitVec.ofNat 8 unit]
  match step, alt with
  | 2, 1 =>
    let s1 := ([3 * unit, 3 * unit + 1, 3 * unit + 2].foldl State.excludeStack
      (s.modDie unit fun d => { d with excluded := true })).loseLinks (dieLinks unit)
    (retire s1 .die).measure 6 s1.liveMap
  | 3, 2 =>
    let s1 := s.excludeStack unit
    (retire s1 .stack).measure 6 s1.liveMap
  | 4, 1 => retire (s.loseLinks [unit]) .link
  | 5, 1 => s.retireCores (b.cores.filter fun c => dieOfCore c == unit)
  | 5, 2 => s.retireCores ((failedClusters unit b.cores).flatMap coresOfCluster)
  | _, _ => s

/-- A step fails at this start: a step that excludes its unit is not run and does not fail. -/
def bootFails (b : BootInput) (step alt unit : Nat) : Bool :=
  match step, alt with
  | 2, 1 | 3, 2 | 4, 1 | 5, 2 => false
  | 5, 0 => b.failed.contains (5, unit) || b.cores.any fun c => dieOfCore c == unit
  | _, _ => b.failed.contains (step, unit)

/-- A step of a unit begins (R320 step 4, R338, R339): an alternative taken is extended into mreg5. -/
def State.beginStep (s : State) (b : BootInput) (step unit : Nat) : State :=
  let alt := s.altFor step unit
  let s1 := s.setEntry step unit alt 1
  if alt = 0 then s1
  else (s1.takeAlt b step alt unit).measure 5 [BitVec.ofNat 8 step, BitVec.ofNat 8 unit, BitVec.ofNat 8 alt]

/-- A step of a unit ends: done, or failed, which is extended into mreg5 and stops the start (R338, R375). -/
def State.endStep (s : State) (r : BootRun) (step unit : Nat) : State :=
  let alt := (s.entry step unit).1
  if bootFails r.input step alt unit then s.failStep step unit alt
  else
    let s1 := (s.setEntry step unit alt 2).setRun { r with plan := r.plan.tail, begun := false }
    if step = 3 ∧ alt < 2 then s1.trainStack r.input unit else s1

/-- The steps of R339 from STEP 2 on, each with its units in order. -/
def bootPlan : List (Nat × Nat) :=
  [(2, 4), (3, 12), (4, 20), (5, 4)].flatMap fun x => (List.range x.2).map fun u => (x.1, u)

/-- A unit of an excluded die takes no step. -/
def State.passedOver (s : State) (step unit : Nat) : Bool :=
  match step with
  | 3 => (s.die (unit / 3)).excluded
  | 5 => (s.die unit).excluded
  | _ => false

/-- The next part of the start under way (R320, R339, R375): an image, or the begin or the end of a step of a
unit. It stops with no die left. -/
def State.bootGo (s : State) (r : BootRun) : State :=
  if r.image < 5 then s.bootImage r
  else if [0, 1, 2, 3].all fun d => (s.die d).excluded then s.startStops
  else
    match r.plan with
    | [] => { s with host := { s.host with boot := 5 }, stag := { s.stag with boot := none } }
    | (step, unit) :: rest =>
      if s.passedOver step unit then s.setRun { r with plan := rest }
      else if r.begun then s.endStep r step unit
      else
        ((s.setBoot (if step = 5 then 4 else 3)).beginStep r.input step unit).setRun { r with begun := true }

/-- The reset, and the begin of the start that follows it (R320, R338, R375). -/
def State.bootStart (s : State) (boot : BootInput) : State :=
  let s1 := s.powerUp.sweepBegun
  if (s1.entry 1 0).2 = 3 then s1.startStops
  else ((s1.setEntry 1 0 0 1).setBoot 1).setRun ⟨boot, 0, bootPlan, false⟩

/-- `MODULE_RESET` (R318, R320, R338, R339, R375): the reset, the start that follows it part by part, and the
digests that the physical function supplies once the start is complete. R318 names no register or command for
these; here they come as an event. DESIGN CHOICE. [A72] -/
def execModuleReset (msg : StartMsg) (s : State) : Host.Outcome State Fault Refusal :=
  match msg with
  | .reset boot => .next (s.bootStart boot)
  | .go => .next (match s.stag.boot with
    | some r => s.bootGo r
    | none => s)
  | .supply i digest => .next (if s.host.boot = 5 ∧ 8 ≤ i ∧ i < 24 then s.extend i digest [] else s)

/-! ### Function-level reset (R317) -/

/-- The queues of a tenant. -/
def State.queuesOf (s : State) (ten : Nat) : List Nat :=
  (s.host.queues.filter fun q => q.2.ten == some ten).map (·.1)

/-- The queues of a tenant changed. -/
def State.modQueues (s : State) (ten : Nat) (f : HQueue → HQueue) : State :=
  let change (q : Nat × HQueue) : Nat × HQueue := if q.2.ten = some ten then (q.1, f q.2) else q
  { s with host := { s.host with queues := s.host.queues.map change } }

/-- The tables of a tenant. -/
def State.tablesOf (s : State) (ten : Nat) : List Nat :=
  (akeys s.tables).filter fun t => (s.table t).valid && (s.table t).ten == ten

/-- Step 2: the launches of a tenant stopped without save. -/
def State.stopTenant (s : State) (ten : Nat) : State :=
  let s1 := s.stopAll ((s.launches.filter fun l =>
    l.2.phase != .ended && l.2.parent.isNone && l.2.ten == ten).map (·.1)) 0
  (s1.launches.filter fun l => l.2.phase == .ending && l.2.ten == ten).foldl
    (fun a l => a.endLaunch l.1 l.2.status) s1

/-- Steps 3 and 5: no copy, walk or request of the tenant's tables is left. -/
def State.dropTables (s : State) (ten : Nat) (tids : List Nat) : State :=
  let mine (key : Nat) : Bool := !isPriv key && tids.contains (tidOfKey key)
  let s1 := (s.invalidate tids).modMem fun m =>
    { m with
      l1 := m.l1.filter fun e => !mine (keyOfCopy e.1)
      vis := m.vis.filter fun e => !mine (keyOfCopy e.1)
      early := m.early.filter fun e => !mine (256 * keyOfCopy e)
      walks := m.walks.filter fun w => !tids.contains (tidOfKey (w.page / 2 ^ 32))
      tlb := m.tlb.filter fun w => !tids.contains (tidOfKey (w.2 / 2 ^ 32))
      pins := m.pins.filter fun p => !mine p.lo }
  { s1 with
    writes := s1.writes.filter fun w => w.spadOf.isSome || w.data.all fun d => !mine d.1
    host := { s1.host with ats := s1.host.ats.filter fun a => a.fn != ten + 1 } }

/-- Step 4: the tenant's slots and its wrap key erased. -/
def State.eraseKeys (s : State) (ten : Nat) : State :=
  { s with stag := { s.stag with
      slots := s.stag.slots.filter fun k => k.2.ten != ten
      wrap := adel s.stag.wrap ten } }

/-- The TDISP state of a tenant. -/
def State.tdi (s : State) (ten : Nat) : Tdi := (aget s.stag.tdi ten).getD .unassigned

/-- The TDISP state of a tenant set. -/
def State.setTdi (s : State) (ten : Nat) (x : Tdi) : State :=
  { s with stag := { s.stag with tdi := aput s.stag.tdi ten x } }

/-- A tenant's interface is bound to no session (R303). -/
def State.unbind (s : State) (ten : Nat) : State :=
  { s with stag := { s.stag with bound := adel s.stag.bound ten } }

/-- An entry of the tenants' fault logs. -/
def State.logFault (s : State) (e : FaultLog) : State :=
  { s with stag := { s.stag with faults := s.stag.faults ++ [e] } }

/-- The function-level reset of a tenant, in the order of R317. -/
def State.resetFunction (s : State) (ten : Nat) : State :=
  let tids := s.tablesOf ten
  let s1 := s.modQueues ten fun q => { q with sqhead := q.sqtail }
  let s2 := ((s1.stopTenant ten).dropTables ten tids).eraseKeys ten
  let s3 := if s2.tdi ten == .unassigned then s2 else s2.setTdi ten .error
  ((s3.unbind ten).logFault (.reset ten)).modQueues ten fun q => { q with open_ := [], prev := none }

/-- `FUNCTION_LEVEL_RESET` (R317). -/
def execFunctionLevelReset (tenant : Nat) (s : State) : Host.Outcome State Fault Refusal :=
  .next (if tenant < 64 then s.resetFunction tenant else s)

/-! ### IDE and TDISP (R315, R316) -/

/-- A tenant moves to TDISP ERROR, which performs a function-level reset (R316). -/
def State.tdiError (s : State) (ten : Nat) : State := (s.resetFunction ten).setTdi ten .error

/-- The tenants whose traffic uses a stream (R315): 0 is the link stream, t + 1 the selective stream of
tenant t. -/
def State.streamUsers (s : State) (stream : Nat) : List Nat :=
  if stream = 0 then s.host.enabled.filter fun t => s.tdi t == .unassigned
  else if s.tdi (stream - 1) == .unassigned then [] else [stream - 1]

/-- `IDE_CHECK_FAILURE` (R315): the TLP is dropped and the stream stands in its error state. -/
def execIdeCheckFailure (stream : Nat) (s : State) : Host.Outcome State Fault Refusal :=
  if 64 < stream then .next s
  else
    let s1 : State := { s with stag := { s.stag with ideErr := insNum s.stag.ideErr stream } }
    .next ((s.streamUsers stream).foldl State.tdiError s1)

/-- An answer of the Stag on SPDM. -/
def State.answer (s : State) (code : Nat) (body : List Byte) : State :=
  { s with stag := { s.stag with answers := s.stag.answers ++ [⟨code, body⟩] } }

/-- An answer to a TDISP request, as a vendor-defined SPDM answer with the TDISP code first [A22]. -/
def State.tdispAnswer (s : State) (code : Nat) (body : List Byte) : State :=
  s.answer 0x7E (BitVec.ofNat 8 code :: body)

/-- `STOP_INTERFACE` (R316): from RUN with a function-level reset; CONFIG_UNLOCKED follows. -/
def execStopInterface (tenant : Nat) (s : State) : Host.Outcome State Fault Refusal :=
  let stopped (t : State) : State := ((t.setTdi tenant .unlocked).unbind tenant).tdispAnswer 0x07 []
  match s.tdi tenant with
  | .unassigned => .next s
  | .run => .next (stopped (s.resetFunction tenant))
  | _ => .next (stopped s)

/-- A TDI's interface report (R321): its queues, and the range of slots its sealed keys may name. -/
def State.report (s : State) (ten : Nat) : List Byte :=
  (s.queuesOf ten).flatMap (fun q => leBytes 2 q) ++ leBytes 2 0 ++ leBytes 2 511

/-- A secured session with a number. -/
def State.securedSession (s : State) (n : Nat) : Bool :=
  match s.stag.sessions[n]? with
  | some x => x.secured
  | none => false

/-- The code of a TDISP state in an answer [A22]. -/
def Tdi.code : Tdi → Nat
  | .unassigned | .unlocked => 0 | .locked => 1 | .run => 2 | .error => 3

/-- What TDISP_CAPABILITIES answers [A22]: no capability of the device beyond the messages of codes 0x81 to 0x87,
52 address bits, one outstanding request for the interface and for the device. -/
def tdispCapabilities : List Byte :=
  leBytes 4 0 ++ (0xFE :: List.replicate 15 0) ++ leBytes 2 0 ++ leBytes 3 0 ++ [52, 1, 1]

/-- `TDISP_REQUEST` (R316, R321): the state changes of TDISP and their answers [A22]. A request out of order is
answered TDISP_ERROR. -/
def execTdispRequest (tenant : Nat) (msg : TdispMsg) (s : State) : Host.Outcome State Fault Refusal :=
  if s.host.boot ≠ 5 ∨ 64 ≤ tenant then .next s
  else
    match msg, s.tdi tenant with
    | .assign, .unassigned => .next (s.setTdi tenant .unlocked)
    | .unassign, .unlocked => .next (s.setTdi tenant .unassigned)
    | .assign, _ | .unassign, _ => .next s
    | .lockInterface n, .unlocked =>
      let s1 := s.setTdi tenant .locked
      let s2 : State := if s.securedSession n then
        { s1 with stag := { s1.stag with bound := aput s1.stag.bound tenant n } } else s1
      .next (s2.tdispAnswer 0x03 [])
    | .startInterface, .locked => .next ((s.setTdi tenant .run).tdispAnswer 0x06 [])
    | .interfaceReport, .locked | .interfaceReport, .run => .next (s.tdispAnswer 0x04 (s.report tenant))
    | .interfaceState, x => .next (s.tdispAnswer 0x05 [BitVec.ofNat 8 x.code])
    | .getVersion, _ => .next (s.tdispAnswer 0x01 [1, 0x10])
    | .getCapabilities, _ => .next (s.tdispAnswer 0x02 tdispCapabilities)
    | _, _ => .next (s.tdispAnswer 0x7F [])

/-- `SET_WRAP_KEY` (R303): inside the secured session bound to the tenant's TDI, in CONFIG_LOCKED or RUN. -/
def execSetWrapKey (tenant : Nat) (msg : WrapMsg) (s : State) : Host.Outcome State Fault Refusal :=
  .next (if s.securedSession msg.session && aget s.stag.bound tenant == some msg.session &&
      (s.tdi tenant == .locked || s.tdi tenant == .run) then
    { s with stag := { s.stag with wrap := aput s.stag.wrap tenant msg.key } }
  else s)

/-! ### SPDM (R321) -/

/-- SPDM is answered once the start is complete (R320 step 5). -/
def State.spdm (s : State) (t : State) : Host.Outcome State Fault Refusal :=
  .next (if s.host.boot = 5 then t else s)

/-- A request that needs the algorithms agreed; out of order it is answered ERROR [A22]. -/
def State.agreed (s : State) (t : State) : Host.Outcome State Fault Refusal :=
  s.spdm (if s.stag.algs then t else s.answer 0x7F [])

/-- `GET_VERSION`: a new conversation begins; the only version is 1.4. -/
def execGetVersion (s : State) : Host.Outcome State Fault Refusal :=
  let t : State := { s with stag := { s.stag with
    version := true, caps := false, algs := false, sessions := [], bound := [] } }
  s.spdm (t.answer 0x04 (0 :: 1 :: leBytes 2 0x1400))

/-- `GET_CAPABILITIES`: certificates, challenges, signed measurements, secured sessions by key exchange [A22]. -/
def execGetCapabilities (s : State) : Host.Outcome State Fault Refusal :=
  let t : State := { s with stag := { s.stag with caps := true } }
  s.spdm (if s.stag.version then t.answer 0x61 (leBytes 4 0x2D6) else s.answer 0x7F [])

/-- `NEGOTIATE_ALGORITHMS`: SHA-384, ECDHE on secp384r1, and the composite signature of R319, format 0x0001, as
the extended asymmetric algorithm [A22]. -/
def execNegotiateAlgorithms (s : State) : Host.Outcome State Fault Refusal :=
  let t : State := { s with stag := { s.stag with algs := true } }
  s.spdm (if s.stag.caps then t.answer 0x63 (leBytes 4 2 ++ leBytes 2 0x10 ++ leBytes 2 1) else s.answer 0x7F [])

/-- The public keys of two private seeds: 32 bytes of Ed25519, 1,952 of ML-DSA-65 (R319) [A7]. -/
def publicKeys (keys : BitVec 512) : List Byte :=
  ((edPublic (natLe 32 (keys.toNat % 2 ^ 256))) ++ mlPublic (natLe 32 (keys.toNat / 2 ^ 256))).map (BitVec.ofNat 8)

/-- The certificate chain of this start (R319): Caeryel's of the identity keys, theirs of the alias keys. -/
def State.certificates (s : State) : List Byte :=
  match s.stag.keys with
  | none => []
  | some (ident, own) =>
    Config.makerCertificate (publicKeys ident) ++ publicKeys own ++ composite ident (publicKeys own)

/-- The alias key's composite signature of a message (R319, R321). -/
def State.aliasSign (s : State) (msg : List Byte) : List Byte :=
  match s.stag.keys with
  | none => []
  | some (_, own) => composite own msg

/-- `GET_DIGESTS`. -/
def execGetDigests (s : State) : Host.Outcome State Fault Refusal :=
  s.agreed (s.answer 0x01 (digestBytes (digestOf s.certificates)))

/-- `GET_CERTIFICATE`. -/
def execGetCertificate (s : State) : Host.Outcome State Fault Refusal :=
  s.agreed (s.answer 0x02 s.certificates)

/-- An answer that ends with the alias key's composite signature over the nonce and the answer (R319). -/
def State.signed (s : State) (code : Nat) (nonce : BitVec 256) (body : List Byte) : State :=
  s.answer code (body ++ s.aliasSign (leBytes 32 nonce.toNat ++ body))

/-- An event-log entry as bytes (R318). -/
def LogEntry.bytes (e : LogEntry) : List Byte :=
  dwBytes (BitVec.ofNat 64 (e.seq % 2 ^ 32 * 2 ^ 32 + e.midx * 2 ^ 24 + e.etype * 2 ^ 16 + e.data.length)) ++
    digestBytes e.digest ++ e.data ++ List.replicate ((8 - e.data.length % 8) % 8) 0

/-- The event log as bytes. -/
def State.logBytes (s : State) : List Byte := s.stag.log.flatMap LogEntry.bytes

/-- The measurement blocks that an index asks for (R321): i + 1 for mreg i, 0xFD for the log, 0xFF for all,
0 for their number. -/
def State.blocks (s : State) (i : Nat) : Option (List Byte) :=
  if i = 0 then some [25]
  else if i ≤ 24 then some (BitVec.ofNat 8 i :: digestBytes (s.stag.mregs.getD (i - 1) 0))
  else if i = 0xFD then some (0xFD :: s.logBytes)
  else if i = 0xFF then
    some ((List.range 24).flatMap (fun j =>
      BitVec.ofNat 8 (j + 1) :: digestBytes (s.stag.mregs.getD j 0)) ++ (0xFD :: s.logBytes))
  else none

/-- `CHALLENGE`. -/
def execChallenge (nonce : BitVec 256) (s : State) : Host.Outcome State Fault Refusal :=
  s.agreed (s.signed 0x03 nonce (digestBytes (digestOf s.certificates) ++
    digestBytes (digestOf ((s.blocks 0xFF).getD []))))

/-- `GET_MEASUREMENTS` (R321): one point in the log. -/
def execGetMeasurements (index : Nat) (nonce : BitVec 256) (s : State) : Host.Outcome State Fault Refusal :=
  s.agreed (match s.blocks index with
    | some b => s.signed 0x60 nonce b
    | none => s.answer 0x7F [])

/-- `KEY_EXCHANGE` (R321): ECDHE on secp384r1, both points as 96 bytes of which the first is bits 7:0. The session's
secret is the x coordinate of the shared point; a peer's value that is no point of the curve is answered ERROR
[A22]. -/
def execKeyExchange (peer : BitVec 768) (s : State) : Host.Outcome State Fault Refusal :=
  let own := (Config.ecdheKey s.fresh).toNat
  s.agreed (match ecPoint (natLe 96 peer.toNat) with
    | none => s.answer 0x7F []
    | some p =>
      let t : State := { s with
        fresh := s.fresh + 1
        stag := { s.stag with
          sessions := s.stag.sessions ++ [⟨BitVec.ofNat 384 (leOf (ecShared own p)), false⟩] } }
      let body := (ecPublic own).map (BitVec.ofNat 8)
      t.answer 0x64 (body ++ s.aliasSign body))

/-- `FINISH`: the session of the last key exchange is secured. -/
def execFinish (s : State) : Host.Outcome State Fault Refusal :=
  let n := s.stag.sessions.length
  let t : State := { s with stag := { s.stag with
    sessions := s.stag.sessions.modify (n - 1) fun x => { x with secured := true } } }
  s.agreed (if n = 0 then s.answer 0x7F [] else t.answer 0x65 [])

end Sys2Proof.Machine
end

