-- ==== Sys2Proof/Machine/Host.lean ====
section
/-! DEFINITION. The host: registers and queue blocks (R366, R367), commands (R369, R370), capabilities
(R371, R373), link training and functions (R365, R374). -/

namespace Sys2Proof.Machine

/-! ### Functions and their BAR0 (R366) -/

/-- BAR0 at reset (R366). -/
def Bar0.reset : Bar0 := ⟨List.replicate 8 0, 0, 0, 0, false⟩

/-- BAR0 of a function. -/
def State.bar0 (s : State) (fn : Nat) : Bar0 := (aget s.host.bars fn).getD Bar0.reset

/-- The state with a function's BAR0 set. -/
def State.setBar0 (s : State) (fn : Nat) (b : Bar0) : State :=
  { s with host := { s.host with bars := aput s.host.bars fn b } }

/-- A function is present: the PF, or the enabled VF of a tenant (R374). -/
def State.present (s : State) (fn : Nat) : Bool := fn == 0 || s.host.enabled.contains (fn - 1)

/-- A function's local queue, by its number in the module. -/
def State.localQueue (s : State) (fn q : Nat) : Option (Nat × HQueue) :=
  if fn = 0 then none
  else s.host.queues.find? fun x => x.2.ten == some (fn - 1) && x.2.loc == q

/-- A queue of a function changed; without such a queue nothing changes. -/
def State.onQueue (s : State) (fn q : Nat) (f : HQueue → HQueue) : State :=
  match s.localQueue fn q with
  | some x => if s.present fn then s.setHostQueue x.1 (f x.2) else s
  | none => s

/-- A SQTAIL write: above SQN it is ignored (R367). -/
def HQueue.post (x : HQueue) (v : BitVec 16) : HQueue :=
  if x.sqn.toNat < v.toNat then x else { x with sqtail := v }

/-- A CQHEAD write: the host has consumed the records before the new index (R367, R368); on a full ring the index
of the oldest record is that after the last, and all are consumed [A53]. -/
def HQueue.consume (x : HQueue) (v : BitVec 16) : HQueue :=
  let n := x.cqn.toNat + 1
  let d := (v.toNat + n - x.cqhead.toNat % n) % n
  { x with cqhead := v, unread := x.unread - (if d = 0 ∧ x.unread = n then n else d) }

/-- `SQTAIL_DOORBELL` (R367). -/
def execSqtailDoorbell (fn q val : Nat) (s : State) : Host.Outcome State Fault Refusal :=
  .next (s.onQueue fn q fun x => x.post (BitVec.ofNat 16 val))

/-- `CQHEAD_WRITE` (R367). -/
def execCqheadWrite (fn q val : Nat) (s : State) : Host.Outcome State Fault Refusal :=
  .next (s.onQueue fn q fun x => x.consume (BitVec.ofNat 16 val))

/-- A write of a doubleword of a queue block (R367): SQBASE, CQBASE, SQN and CQN change only while EN
is 0. -/
def HQueue.write (x : HQueue) (off : Nat) (v : W64) : HQueue :=
  match off with
  | 0x00 => if x.en then x else { x with sqbase := v }
  | 0x08 =>
    let y := if x.en then x
      else { x with sqn := BitVec.ofNat 16 (field v 32 16), cqn := BitVec.ofNat 16 (field v 0 16) }
    { y with en := flag v 63, ien := flag v 62 }
  | 0x10 => if x.en then x else { x with cqbase := v }
  | 0x18 => x.post (BitVec.ofNat 16 (field v 0 16))
  | 0x28 => x.consume (BitVec.ofNat 16 (field v 0 16))
  | _ => x

/-- A command code that a function may start (R369). -/
def commandOf (fn code : Nat) : Bool :=
  (decide (1 ≤ code) && decide (code ≤ 8)) || (fn == 0 && decide (16 ≤ code) && decide (code ≤ 19))

/-- A write of CMD (R366, R369): while BUSY it is ignored. A code that R369 does not list starts nothing and
leaves the register as it was: the spec does not say what such a write does. DESIGN CHOICE. [A67] -/
def Bar0.start (b : Bar0) (fn code : Nat) : Bar0 :=
  if b.busy || !commandOf fn code then b else { b with cmd := BitVec.ofNat 16 code, busy := true }

/-- `REGISTER_WRITE` (R366, R367): a doubleword of BAR0. The spec gives no size and no alignment for a host's write:
here it writes one whole doubleword, and at an offset that is no multiple of 8 it is ignored. DESIGN CHOICE. [A75] -/
def execRegisterWrite (fn off : Nat) (val : W64) (s : State) : Host.Outcome State Fault Refusal :=
  if !s.present fn || off % 8 != 0 then .next s
  else if 0x1000 ≤ off then
    .next (s.onQueue fn ((off - 0x1000) / 64) fun x => x.write ((off - 0x1000) % 64) val)
  else if 0x10 ≤ off ∧ off < 0x50 then
    let b := s.bar0 fn
    .next (s.setBar0 fn { b with area := setAt b.area ((off - 0x10) / 8) val })
  else if off = 0x50 then .next (s.setBar0 fn ((s.bar0 fn).start fn (field val 0 16)))
  else .next s

/-! ### Commands (R369) -/

/-- REFUSE codes (R366). -/
def rfField : Nat := 1
def rfBusy : Nat := 2
def rfNoSpace : Nat := 3
def rfNotOwner : Nat := 4
def rfAbsent : Nat := 5

/-- A command completes: its effects are in place, then BUSY clears. -/
def State.commandDone (s : State) (fn refuse result : Nat) : State :=
  s.setBar0 fn { s.bar0 fn with
    refuse := BitVec.ofNat 8 refuse, result := BitVec.ofNat 32 result, busy := false }

/-- The command of a function, while it runs. -/
def State.command (s : State) (fn code : Nat) (k : State) : Host.Outcome State Fault Refusal :=
  .next (if (s.bar0 fn).busy && (s.bar0 fn).cmd.toNat == code then k else s)

/-- Operand doubleword `i` of a function's command [A23]. -/
def State.opnd (s : State) (fn i : Nat) : W64 := dwAt (s.bar0 fn).area i

/-- A check of a command. -/
def State.must (s : State) (fn : Nat) (c : Bool) (refuse : Nat) (k : State) : State :=
  if c then k else s.commandDone fn refuse 0

/-- A command on a table: ABSENT before NOTOWNER. -/
def State.owned (s : State) (fn tid : Nat) (k : State) : State :=
  s.must fn (decide (tid < 2 ^ 20) && (s.table tid).valid) rfAbsent <|
    s.must fn (fn != 0 && (s.table tid).ten == fn - 1) rfNotOwner k

/-- A grant of an accepted, uncompleted launch names a table. -/
def State.granted (s : State) (tid : Nat) : Bool :=
  s.launches.any fun l => l.2.phase != .ended && l.2.grants.any fun g => g.1 == tid

/-! ### Descriptors -/

/-- The bytes of the pages that map positions `lo` to `n`, whose sizes change at the places listed (R39). -/
def mappedFrom (n : Nat) : Nat → Nat → List (Nat × Nat) → Nat
  | lo, p, [] => (n - lo + pageBytes p - 1) / pageBytes p * pageBytes p
  | lo, p, x :: r => (min n x.1 - lo + pageBytes p - 1) / pageBytes p * pageBytes p + mappedFrom n x.1 x.2 r

/-- The bytes that a table's pages take. -/
def Table.mapped (t : Table) : Nat := mappedFrom (t.slots * t.rowSize) 0 t.page t.sizes

/-- The device memory in use: the pages of the tables and the tenants' private reserves. -/
def State.used (s : State) : Nat :=
  s.tables.foldl (fun n t => if t.2.valid then n + t.2.mapped else n) 0 +
    s.mem.reserve.foldl (fun n r => n + r.2 * 2 ^ 21) 0

/-- The live pseudo-channels. -/
def State.liveChannels (s : State) : Nat := ((List.range 768).filter s.channelLive).length

/-- The module has room for so many bytes in all: 80 GB a stack, 64 pseudo-channels each (R8) [A24]. -/
def State.fits (s : State) (n : Nat) : Bool := decide (n ≤ s.liveChannels * 1250000000)

/-- HOME and HOMEID hold listed values (R18) [A25]. -/
def Table.homeOk (t : Table) : Bool :=
  match t.home with
  | 0 => true
  | 1 => decide (t.homeId < 4)
  | 2 => decide (t.homeId < 12)
  | _ => false

/-- The descriptor image at a host address. -/
def State.hostWords (s : State) (h : W64) (n : Nat) : List W64 := wordsOf (bytesAt s.host.mem h.toNat n)

/-- A descriptor with the fields that the hardware keeps. -/
def Table.keep (t : Table) (count gen : Nat) : Table :=
  let d0 := t.dw
  let d1 := setAt d0 3 (BitVec.ofNat 64 count)
  let d2 := setAt d1 4 (BitVec.ofNat 64 (if t.dense then t.cap else 0))
  let d3 := setAt d2 5 (withField (dwAt d0 5) 32 32 gen)
  { t with dw := d3 }

/-- A table's pages leave the handle TLBs, the walks, the cluster copies and the visitor lines. -/
def State.forget (s : State) (tid : Nat) : State :=
  s.modMem fun m =>
    { m with
      l1 := m.l1.filter fun e => isPriv (keyOfCopy e.1) || tidOfKey (keyOfCopy e.1) != tid
      vis := m.vis.filter fun e => isPriv (keyOfCopy e.1) || tidOfKey (keyOfCopy e.1) != tid
      early := m.early.filter fun e => isPriv (256 * keyOfCopy e) || tidOfKey (256 * keyOfCopy e) != tid
      walks := m.walks.filter fun w => tidOfKey (w.page / 2 ^ 32) != tid
      tlb := m.tlb.filter fun w => tidOfKey (w.2 / 2 ^ 32) != tid }

/-- The lowest table id that is not in use, from `i` on. -/
def State.freeId (s : State) : Nat → Nat → Option Nat
  | 0, _ => none
  | n + 1, i => if (s.table i).valid then s.freeId n (i + 1) else some i

/-- TBL_CREATE, once an id is chosen. -/
def State.create (s : State) (fn tid : Nat) : State :=
  let img := (s.hostWords (s.opnd fn 0) 48)
  let page := (s.opnd fn 1).toNat
  let d0 := setAt img 0 (withField (dwAt img 0) 20 20 tid)
  let d1 := setAt d0 1 (withField (dwAt img 1) 58 6 (fn - 1))
  let t0 : Table := { Table.absent with dw := d1, page := page, sizes := [] }
  let t1 := t0.keep (if t0.dense then t0.cap else 0) 0
  let t := { t1 with free := if t1.dense then [] else [(1, t1.cap)], index := s.chooseIndex tid t1 }
  s.must fn (decide (page ≤ 4) && t.usable tid && t.homeOk) rfField <|
    s.must fn (s.fits (s.used + t.mapped)) rfNoSpace <|
      (((s.setTable tid t).forget tid).clearUnits (tid * 2 ^ 42) ((t.slots * t.rowSize + 31) / 32 * 32)).commandDone fn 0 tid

/-- `TBL_CREATE` (R369). The id is the lowest free one from 1 on: position 0 of table 0 has the handle 0
that records use for an absent handle. -/
def execTblCreate (fn : Nat) (s : State) : Host.Outcome State Fault Refusal :=
  s.command fn 1 <| s.must fn (fn != 0) rfNotOwner <|
    match s.freeId (s.tables.length + 1) 1 with
    | some tid =>
      if tid < 2 ^ 20 then s.create fn tid
      else if (s.table 0).valid then s.commandDone fn rfNoSpace 0
      else s.create fn 0
    | none => s.commandDone fn rfNoSpace 0

/-- A byte of encrypted memory whose unit, or half unit, has been cleared (R307) [A62]. -/
def State.clearedAt (s : State) (key : Nat) : Bool :=
  let side := sideOf s.homeRaw (unitOf key)
  (s.slotOfKey key).isSome && (decide (side < 2 ^ 31) || side.testBit (29 + key / 16 % 2))

/-- Bytes of a table as they stood in an earlier state put in another place with their poison (TBL_MODIFY).
Cleared bytes stay cleared; other encrypted ones are encrypted again for their place [A62]. -/
def State.moveFrom (s old : State) (src dst n : Nat) : State :=
  let is := (List.range n).filter fun i => !old.clearedAt (src + i)
  let x := old.homeSeen (is.map (src + ·))
  let bad := (List.range n).filter fun i =>
    x.hit [src + i] || old.mem.poison.contains (unitOf (src + i))
  ((s.logTags x.tags).putHome ((is.map (dst + ·)).zip x.bytes)).poisonUnits
    (unitsOf (bad.map (dst + ·)))

/-- A range of table memory may not be written at its homes: a region holds a sector of it, an engine owns a
line of it (R179, R230), or a channel of it is in broadcast mode (R253). -/
def State.spanHeld (s : State) (lo n : Nat) : Bool :=
  let meets (size k : Nat) : Bool := decide (lo < size * (k + 1)) && decide (size * k < lo + n)
  (s.regions.any fun r => r.reads.any (meets 64) || r.writes.any fun i => meets 64 i.sector) ||
    (s.copies.any fun c => c.lines.any (meets 256)) ||
    ((s.channels.any fun c => c.2.holder.isSome) &&
      (s.channelShut lo || (List.range (n / 65536 + 1)).any fun i => s.channelShut ((lo / 65536 + 1 + i) * 65536)))

/-- The growth of a table has to wait: the new slots, or the place of the default row that moves, may not be
written, or that row is encrypted and its slot holds no key, under which it is encrypted for its new place (R305,
R369). That the command waits for a key there is a DESIGN CHOICE. [A62] -/
def State.growWaits (s : State) (tid : Nat) (old new : Table) : Bool :=
  let lo := tid * 2 ^ 42 + old.cap * old.rowSize
  let keyed := match aget s.stag.slots old.kslot with
    | some k => k.count != 0
    | none => false
  decide (old.cap < new.cap) &&
    (s.spanHeld lo ((new.slots - old.cap) * old.rowSize) ||
      (old.dense && old.ownw && !keyed && (List.range old.rowSize).any fun i => !s.clearedAt (lo + i)))

/-- The growth of a table from `old` slots capacity (R25, R369). -/
def State.grow (s : State) (tid old : Nat) : State :=
  let t := s.table tid
  let at' (slot : Nat) : Nat := tid * 2 ^ 42 + slot * t.rowSize
  if t.dense then
    ((s.clearBytes (at' old) ((t.cap + 1 - old) * t.rowSize)).moveFrom s (at' old) (at' t.cap)
      t.rowSize).bumpRows [tid * 2 ^ 42 + old, tid * 2 ^ 42 + t.cap]
  else
    (s.setTable tid { t with free := t.free ++ [(old, t.cap)] }).clearBytes (at' old)
      ((t.cap - old) * t.rowSize)

/-- TBL_MODIFY on an owned table. The index stack is chosen again where HOME or HOMEID changes (R182). -/
def State.modify (s : State) (fn tid : Nat) : State :=
  let old := s.table tid
  let new : Table := { old with dw := s.hostWords (s.opnd fn 1) 48, poisonDesc := false }
  let same := new.home == old.home && new.homeId == old.homeId
  let t := ({ new with index := if same then old.index else s.chooseIndex tid new } : Table).keep
    (if new.dense then new.cap else old.count) (old.gen + 1)
  s.must fn (t.kind == old.kind && t.keyt == old.keyt && t.k == old.k && t.ten == old.ten &&
      t.ownw == old.ownw && t.kslot == old.kslot && decide (old.cap ≤ t.cap) && t.usable tid &&
      t.homeOk) rfField <|
    s.must fn ((t.home == old.home && t.homeId == old.homeId) || !s.granted tid) rfBusy <|
      s.must fn (s.fits (s.used - old.mapped + t.mapped)) rfNoSpace <|
        let s1 := s.setTable tid t
        if s.growWaits tid old t then s
        else (if old.cap < t.cap then s1.grow tid old.cap else s1).commandDone fn 0 0

/-- `TBL_MODIFY` (R20, R369). -/
def execTblModify (fn : Nat) (s : State) : Host.Outcome State Fault Refusal :=
  let tid := (s.opnd fn 0).toNat
  s.command fn 2 <| s.owned fn tid (s.modify fn tid)

/-- `TBL_DESTROY` (R369). -/
def execTblDestroy (fn : Nat) (s : State) : Host.Outcome State Fault Refusal :=
  let tid := (s.opnd fn 0).toNat
  s.command fn 3 <| s.owned fn tid <| s.must fn (!s.granted tid) rfBusy <|
    ((s.invalidate [tid]).forget tid).commandDone fn 0 0

/-! ### Sealed keys of commands (R370) -/

/-- A key slot for the length of a command: the state, and whether the command alone loaded it. -/
inductive CmdKey where
  | bad
  | busy
  | ok (s : State) (loaded : Option Nat)

/-- A key slot loaded for a command. -/
def State.loadKey (s : State) (slot : Nat) (k : KeySlot) : State :=
  { s with stag := { s.stag with slots := aput s.stag.slots slot k } }

/-- The key of a command on a table (R370). -/
def State.commandKey (s : State) (fn tid : Nat) : CmdKey :=
  let t := s.table tid
  if !t.ownw then .ok s none
  else
    let l : Launch := { Launch.absent with record := [0, 0, 0, s.opnd fn 7], ten := fn - 1 }
    match s.unseal l with
    | none => .bad
    | some (slot, kid, pair) =>
      if slot ≠ t.kslot then .bad
      else
        match aget s.stag.slots slot with
        | some k =>
          if k.count = 0 then .ok (s.loadKey slot (KeySlot.loaded (fn - 1) kid pair)) (some slot)
          else if k.ten = fn - 1 ∧ k.kid = kid then .ok s none
          else .busy
        | none => .ok (s.loadKey slot (KeySlot.loaded (fn - 1) kid pair)) (some slot)

/-- A slot that a command alone loaded is zeroed (R370). -/
def State.dropKey (s : State) (loaded : Option Nat) : State :=
  match loaded with
  | some slot => { s with stag := { s.stag with slots := adel s.stag.slots slot } }
  | none => s

/-- A command with its key; the work answers a state and a result. -/
def State.withKey (s : State) (fn tid : Nat) (work : State → State × Nat) : State :=
  match s.commandKey fn tid with
  | .bad => s.commandDone fn rfField 0
  | .busy => s.commandDone fn rfBusy 0
  | .ok s1 loaded =>
    let r := work s1
    (r.1.dropKey loaded).commandDone fn 0 r.2

/-! ### TBL_LOAD, TBL_READ, TBL_REBUILD -/

/-- A row written in place at its home. -/
def State.loadBytes (s : State) (tid slot : Nat) (img : List Byte) : State :=
  let t := s.table tid
  (s.recallRow tid slot).applyHome (runOf (tid * 2 ^ 42 + slot * t.rowSize) img)

/-- One row of a load; none where the load stops before it. -/
def State.loadRow (s : State) (tid slot : Nat) (img : List Byte) : Option State :=
  let t := s.table tid
  if t.dense || slot == 0 then some (s.loadBytes tid slot img)
  else
    let k := keyInt t.keyt (leNat (img.take t.keyBytes))
    if t.hasRow k || (t.rowAt slot).isSome || t.count + 1 == t.cap then none
    else
      let s1 := s.setTable tid { t with free := takeFree t.free slot }
      some ((s1.loadBytes tid slot img).indexRow tid ⟨k, slot, none⟩)

/-- `n` rows from a host address: the state and the rows loaded. -/
def State.loadRows (s : State) (tid : Nat) : Nat → Nat → Nat → Nat → State × Nat
  | 0, _, _, done => (s, done)
  | n + 1, slot, addr, done =>
    let size := (s.table tid).rowSize
    match s.loadRow tid slot (bytesAt s.host.mem addr size) with
    | none => (s, done)
    | some t => t.loadRows tid n (slot + 1) (addr + size) (done + 1)

/-- A slot that a load writes is not free to be written (R24, R179, R230, R253). -/
def State.loadWaits (s : State) (tid slot : Nat) : Bool :=
  if (s.table tid).live slot then s.rowHeld tid slot else s.slotBusy tid slot

/-- `TBL_LOAD` (R369, R370): it waits while a slot of it may not be written, or behind a `tcom` or a `trbk`
of the table (R36). -/
def execTblLoad (fn : Nat) (s : State) : Host.Outcome State Fault Refusal :=
  let tid := (s.opnd fn 0).toNat
  let first := (s.opnd fn 1).toNat
  let n := (s.opnd fn 2).toNat
  let waits := (s.table tid).held.isSome || (List.range n).any fun i => s.loadWaits tid (first + i)
  s.command fn 4 <| s.owned fn tid <|
    s.must fn (decide (first + n ≤ (s.table tid).slots)) rfField <|
      if waits then s
      else s.withKey fn tid fun t => t.loadRows tid n first (s.opnd fn 3).toNat 0

/-- The bytes seen as a TBL_READ returns them: those of a poisoned unit as zeros. -/
def Seen.readOut (x : Seen) (keys : List Nat) : List Byte :=
  keys.zipWith (fun k b => if x.hit [k] then 0 else b) x.bytes

/-- `TBL_READ` (R369, R370): poisoned units read as zeros and are counted. A range longer than 1 MiB or past the
table is refused FIELD. DESIGN CHOICE. [A73] It waits while a channel of its range is in broadcast mode (R253). -/
def execTblRead (fn : Nat) (s : State) : Host.Outcome State Fault Refusal :=
  let tid := (s.opnd fn 0).toNat
  let pos := (s.opnd fn 1).toNat
  let n := (s.opnd fn 2).toNat
  let t := s.table tid
  let keys := (List.range n).map fun i => tid * 2 ^ 42 + pos + i
  s.command fn 5 <| s.owned fn tid <|
    s.must fn (decide (n ≤ 2 ^ 20) && decide (pos + n ≤ t.slots * t.rowSize)) rfField <|
      if (unitsOf keys).any fun u => s.channelShut (32 * u) then s
      else s.withKey fn tid fun x =>
        let r := x.homeSeen keys
        let out := runOf (s.opnd fn 3).toNat (r.readOut keys)
        let y := x.logTags r.tags
        ({ y with host := { y.host with mem := setBytes y.host.mem out } }, r.poisoned.length)

/-- `TBL_REBUILD` (R334, R369): the index holds the live slots already; its poison goes. -/
def execTblRebuild (fn : Nat) (s : State) : Host.Outcome State Fault Refusal :=
  let tid := (s.opnd fn 0).toNat
  s.command fn 6 <| s.owned fn tid <|
    (s.setTable tid { s.table tid with poisonIndex := false }).commandDone fn 0 0

/-! ### STOP, CHMAP and the commands of the PF -/

/-- `STOP` (R369): a launch that has not completed, of the function's tenant. -/
def execStop (fn : Nat) (s : State) : Host.Outcome State Fault Refusal :=
  let l := (s.opnd fn 0).toNat
  s.command fn 7 <| s.must fn ((s.launch l).phase != .ended) rfAbsent <|
    s.must fn (fn != 0 && (s.launch l).ten == fn - 1) rfNotOwner <|
      (s.stopLaunch l lsFaulted true 0).commandDone fn 0 0

/-- Doubleword 0 of a capability entry (R371). -/
def capHeader (id len next : Nat) : W64 :=
  BitVec.ofNat 64 (id * 2 ^ 48 + 2 ^ 40 + len * 2 ^ 24 + next)

/-- The CHANNELS entry (R371) [A24]. -/
def State.channelsEntry (s : State) : List Byte :=
  dwBytes (capHeader 2 200 0x1E0) ++ s.liveMap ++ s.narrowMap

/-- `CHMAP` (R369). -/
def execChmap (fn : Nat) (s : State) : Host.Outcome State Fault Refusal :=
  s.command fn 8 <|
    ({ s with host := { s.host with
      mem := setBytes s.host.mem (runOf (s.opnd fn 0).toNat s.channelsEntry) } } : State).commandDone fn 0 0

/-- A queue block at reset (R367). -/
def HQueue.fresh (ten loc : Nat) : HQueue where
  ten := some ten
  loc := loc
  sqbase := 0
  en := false
  ien := false
  sqn := 0
  cqn := 0
  cqbase := 0
  sqtail := 0
  sqhead := 0
  cqhead := 0
  refused := 0
  refpos := 0
  refcode := 0
  taken := 0
  prev := none
  open_ := []
  cqtail := 0
  unread := 0
  phase := true
  msix := 0

/-- A queue may move: it is not enabled and holds no references, and its tenant is not in RUN (R315). -/
def State.queueFree (s : State) (q : Nat) : Bool :=
  match aget s.host.queues q with
  | none => true
  | some x => !x.en && x.sqhead == x.sqtail && x.open_.isEmpty &&
      (match x.ten with
        | some t => s.tdi t != .run
        | none => true)

/-- `QASSIGN` (R315, R369). -/
def execQassign (fn : Nat) (s : State) : Host.Outcome State Fault Refusal :=
  let q := (s.opnd fn 0).toNat
  let ten := (s.opnd fn 1).toNat
  let loc := (s.opnd fn 2).toNat
  let taken := s.host.queues.any fun x => x.1 != q && x.2.ten == some ten && x.2.loc == loc
  s.command fn 16 <|
    s.must fn (decide (q < 256) && decide (ten < 64) && decide (loc < 256) && !taken) rfField <|
      s.must fn (s.queueFree q) rfBusy <| (s.setHostQueue q (HQueue.fresh ten loc)).commandDone fn 0 0

/-- `MASKS` (R300, R301, R318, R369). -/
def execMasks (fn : Nat) (s : State) : Host.Outcome State Fault Refusal :=
  let p := s.opnd fn 0
  let c := s.opnd fn 1
  let t : State := { s with host := { s.host with privMask := p, coMask := c } }
  s.command fn 17 <| (t.measure 7 (dwBytes p ++ dwBytes c)).commandDone fn 0 0

/-- `RESERVE` (R29, R369). A tenant of 64 and up is refused FIELD. DESIGN CHOICE. [A73] -/
def execReserve (fn : Nat) (s : State) : Host.Outcome State Fault Refusal :=
  let ten := (s.opnd fn 0).toNat
  let n := (s.opnd fn 1).toNat
  let t := s.modMem fun m => { m with reserve := aput m.reserve ten n }
  s.command fn 18 <| s.must fn (decide (ten < 64)) rfField <|
    s.must fn (t.fits t.used) rfNoSpace <| t.commandDone fn 0 0

/-- `CLEAR_START` (R338, R369): the entries count at the next start. -/
def execClearStart (fn : Nat) (s : State) : Host.Outcome State Fault Refusal :=
  let t : State := { s with stag := { s.stag with
    steps := s.stag.steps.map fun e => { e with alt := 0, state := 0 } } }
  s.command fn 19 <| t.commandDone fn 0 0

/-! ### Link and functions -/

/-- `HOST_LINK_TRAINING` (R365): a rate in GT/s and a width, at most 128 and 16. -/
def execHostLinkTraining (rate width : Nat) (cxl : Bool) (s : State) : Host.Outcome State Fault Refusal :=
  .next (if 0 < rate ∧ rate ≤ 128 ∧ 0 < width ∧ width ≤ 16 then
    { s with host := { s.host with linkRate := rate, linkWidth := width, cxl := cxl, trained := true } }
  else s)

/-- `VF_ENABLE` (R374). -/
def execVfEnable (tenant : Nat) (on : Bool) (s : State) : Host.Outcome State Fault Refusal :=
  .next (if 64 ≤ tenant then s
    else { s with host := { s.host with
      enabled := if on then insNum s.host.enabled tenant
        else s.host.enabled.filter fun t => t != tenant } })

/-! ### What the host reads (R366, R367, R371, R373) -/

/-- The cores of the module that have not retired. -/
def State.liveCores (s : State) : Nat :=
  ((List.range 640).filter fun c => !(s.core c).retired && s.dieLive (dieOfCore c)).length

/-- The cores that are narrowed (R138, R373). -/
def State.narrowCores (s : State) : Nat :=
  ((List.range 640).filter fun c => (s.core c).narrow).length

/-- The MODULE entry (R371) [A24]; the mesh origin is die 0's place, column 0 and row 0 (R13) [A8]. -/
def State.moduleEntry (s : State) : List W64 :=
  let dies := (List.range 4).foldl (fun n d => n + bnat (s.dieLive d) * 2 ^ d) 0
  [capHeader 1 24 0x118,
    BitVec.ofNat 64 (dies + s.liveCores * 2 ^ 16 + s.liveStacks.length * 2 ^ 32 + s.liveChannels * 2 ^ 40),
    0]

/-- The POWER entry (R373). -/
def State.powerEntry (s : State) : List W64 :=
  [capHeader 3 16 0x1F0,
    BitVec.ofNat 64 (s.host.alarms.toNat * 2 ^ 32 + s.host.limit % 2 ^ 16 * 2 ^ 16 +
      s.narrowCores * 2 + bnat s.host.alarm)]

/-- The capability list (R371): BROADCAST, REGIONS and XFORM24 are present, MULTIMODULE is not [A24]. -/
def State.capabilities (s : State) : List W64 :=
  s.moduleEntry ++ wordsOf s.channelsEntry ++ s.powerEntry ++
    [capHeader 0x10 8 0x1F8, capHeader 0x12 8 0x200, capHeader 0x13 8 0]

/-- A doubleword of a queue block as the host reads it (R367). -/
def HQueue.read (x : HQueue) (off : Nat) : W64 :=
  match off with
  | 0x00 => x.sqbase
  | 0x08 => BitVec.ofNat 64 (bnat x.en * 2 ^ 63 + bnat x.ien * 2 ^ 62 + x.sqn.toNat * 2 ^ 32 + x.cqn.toNat)
  | 0x10 => x.cqbase
  | 0x18 => x.sqtail.setWidth 64
  | 0x20 => x.sqhead.setWidth 64
  | 0x28 => x.cqhead.setWidth 64
  | 0x30 => BitVec.ofNat 64 (x.refused.toNat * 2 ^ 32 + x.refpos.toNat * 2 ^ 16 + x.refcode.toNat)
  | _ => 0

/-- A doubleword of a function's BAR0 as the host reads it (R366). -/
def State.registerRead (s : State) (fn off : Nat) : W64 :=
  let b := s.bar0 fn
  if 0x1000 ≤ off then
    match s.localQueue fn ((off - 0x1000) / 64) with
    | some x => x.2.read ((off - 0x1000) % 64)
    | none => 0
  else if 0x100 ≤ off then dwAt s.capabilities ((off - 0x100) / 8)
  else if off = 0 then 0x100
  else if off = 8 then BitVec.ofNat 64 s.host.boot
  else if 0x10 ≤ off ∧ off < 0x50 then dwAt b.area ((off - 0x10) / 8)
  else if off = 0x50 then b.cmd.setWidth 64
  else if off = 0x58 then
    BitVec.ofNat 64 (b.result.toNat * 2 ^ 32 + b.refuse.toNat * 2 ^ 8 + bnat b.busy)
  else 0

end Sys2Proof.Machine
end

