-- ==== Sys2Proof/Machine/LaneFp.lean ====
section
/-! DEFINITION. Lane floating point: FP32, packed half pairs, the correctly rounded functions,
conversions and paired-exponent blocks (R98 to R104). -/

namespace Sys2Proof.Machine

/-- `fadd.f32` (R98). -/
def execFaddF32 (d a b : Reg) (wa wb n : Bool) (s : State) : Host.Outcome State Fault Refusal :=
  s.finish (s.lane2 d a b wa wb n 4 (faddW s.curMode))
/-- `fsub.f32` (R98). -/
def execFsubF32 (d a b : Reg) (wa wb n : Bool) (s : State) : Host.Outcome State Fault Refusal :=
  s.finish (s.lane2 d a b wa wb n 4 (fsubW s.curMode))
/-- `fmul.f32` (R98). -/
def execFmulF32 (d a b : Reg) (wa wb n : Bool) (s : State) : Host.Outcome State Fault Refusal :=
  s.finish (s.lane2 d a b wa wb n 4 (fmulW s.curMode))
/-- `fma.f32` (R98). -/
def execFmaF32 (d a b c : Reg) (wa wb wc n : Bool) (s : State) : Host.Outcome State Fault Refusal :=
  s.finish (s.lane3 d a b c wa wb wc n 8 (fmaW s.curMode))
/-- `fmin.f32` (R98). -/
def execFminF32 (d a b : Reg) (wa wb n : Bool) (s : State) : Host.Outcome State Fault Refusal :=
  s.finish (s.lane2 d a b wa wb n 4 fun x y => asW (fMinMax false s.curMode x.toNat y.toNat))
/-- `fmax.f32` (R98). -/
def execFmaxF32 (d a b : Reg) (wa wb n : Bool) (s : State) : Host.Outcome State Fault Refusal :=
  s.finish (s.lane2 d a b wa wb n 4 fun x y => asW (fMinMax true s.curMode x.toNat y.toNat))
/-- `fcmp.f32` (R53, R98). -/
def execFcmpF32 (d a b : Reg) (wa wb n : Bool) (cond : Cond) (s : State) :
    Host.Outcome State Fault Refusal :=
  s.finish (s.lane2 d a b wa wb n 8 (fcmpW s.curMode cond))
/-- `fabs` (R98). -/
def execFabs (d a : Reg) (wa n : Bool) (s : State) : Host.Outcome State Fault Refusal :=
  s.finish (s.lane1 d a wa n 4 fun x => asW (fAbs s.curMode x.toNat))
/-- `fadd.h2` and `fadd.b2` (R99). -/
def execFaddH2 (d a b : Reg) (wa wb n bf : Bool) (s : State) : Host.Outcome State Fault Refusal :=
  s.finish (s.lane2 d a b wa wb n 8 (faddH bf s.curMode))
/-- `fmul.h2` and `fmul.b2` (R99). -/
def execFmulH2 (d a b : Reg) (wa wb n bf : Bool) (s : State) : Host.Outcome State Fault Refusal :=
  s.finish (s.lane2 d a b wa wb n 8 (fmulH bf s.curMode))
/-- `fma.h2` and `fma.b2` (R99). -/
def execFmaH2 (d a b c : Reg) (wa wb wc n bf : Bool) (s : State) : Host.Outcome State Fault Refusal :=
  s.finish (s.lane3 d a b c wa wb wc n 8 (fmaH bf s.curMode))
/-- `fdp2.h2` and `fdp2.b2` (R100). -/
def execFdp2 (d a b c : Reg) (wa wb wc n bf : Bool) (s : State) : Host.Outcome State Fault Refusal :=
  s.finish (s.lane3 d a b c wa wb wc n 8 (fdp2W bf s.curMode))
/-- `frcp` (R101). -/
def execFrcp (d a : Reg) (wa n : Bool) (s : State) : Host.Outcome State Fault Refusal :=
  s.finish (s.lane1 d a wa n 4 fun x => asW (fRcp s.curMode x.toNat))
/-- `frsq` (R101). -/
def execFrsq (d a : Reg) (wa n : Bool) (s : State) : Host.Outcome State Fault Refusal :=
  s.finish (s.lane1 d a wa n 4 fun x => asW (fRsq s.curMode x.toNat))
/-- `fsqrt` (R101). -/
def execFsqrt (d a : Reg) (wa n : Bool) (s : State) : Host.Outcome State Fault Refusal :=
  s.finish (s.lane1 d a wa n 4 fun x => asW (fSqrt s.curMode x.toNat))
/-- `fdiv.f32` (R101). -/
def execFdivF32 (d a b : Reg) (wa wb n : Bool) (s : State) : Host.Outcome State Fault Refusal :=
  s.finish (s.lane2 d a b wa wb n 4 fun x y => asW (fDiv s.curMode x.toNat y.toNat))
/-- `fex2` (R101). -/
def execFex2 (d a : Reg) (wa n : Bool) (s : State) : Host.Outcome State Fault Refusal :=
  s.finish (s.lane1 d a wa n 4 fun x => asW (fExp2 s.curMode x.toNat))
/-- `flg2` (R101). -/
def execFlg2 (d a : Reg) (wa n : Bool) (s : State) : Host.Outcome State Fault Refusal :=
  s.finish (s.lane1 d a wa n 4 fun x => asW (fLog2 s.curMode x.toNat))
/-- `fsnp` (R101). -/
def execFsnp (d a : Reg) (wa n : Bool) (s : State) : Host.Outcome State Fault Refusal :=
  s.finish (s.lane1 d a wa n 4 fun x => asW (fSinPi s.curMode x.toNat))
/-- `fcsp` (R101). -/
def execFcsp (d a : Reg) (wa n : Bool) (s : State) : Host.Outcome State Fault Refusal :=
  s.finish (s.lane1 d a wa n 4 fun x => asW (fCosPi s.curMode x.toNat))
/-- `ftnh` (R101). -/
def execFtnh (d a : Reg) (wa n : Bool) (s : State) : Host.Outcome State Fault Refusal :=
  s.finish (s.lane1 d a wa n 4 fun x => asW (fTanh s.curMode x.toNat))

/-- The value of a conversion source in a lane: a register or an even pair (R102). -/
def Group.cvtSource (g : Group) (src : Ty) (a l : Nat) : Nat :=
  if src.regs = 2 then (g.vpair a l).toNat else (g.vval a l).toNat

/-- `cvt` (R102). -/
def execCvt (d a : Reg) (wa n : Bool) (dst src : Ty) (s : State) : Host.Outcome State Fault Refusal :=
  s.finish <| s.gated ⟨[svs a src.regs wa], [dvs d dst.regs], true⟩ <|
    let f (l : Nat) := convert dst src s.curMode (32 * dst.regs) (s.cur.cvtSource src a.val l)
    let act := s.cur.active s.curS n
    .done ((s.modCur fun g =>
      (if dst.regs = 2 then
        (g.setV act d.val fun l => BitVec.ofNat 32 (f l).1).setV act (d.val + 1) fun l =>
          BitVec.ofNat 32 ((f l).1 / 2 ^ 32)
      else g.setV act d.val fun l => BitVec.ofNat 32 (f l).1).raise
        (orFlags ((lanesOf act).map fun l => (f l).2))).next 8)

/-- The beats of a group that hold an active lane (R56, R103). -/
def beatsOf (act : LaneSet) : List Nat :=
  (List.range 3).filter fun b => (List.range 32).any fun i => act.getLsbD (32 * b + i)

/-- The block that `xpk` packs from a beat: inactive lanes take part as +0.0 (R80, R103). -/
def Group.packBeat (g : Group) (x4 : Bool) (act : LaneSet) (a b : Nat) : Nat × Nat × List Nat × Flags :=
  pxPack x4 ((List.range 32).map fun i =>
    if act.getLsbD (32 * b + i) then (g.vval a (32 * b + i)).toNat else 0)

/-- `xpk` (R80, R103). -/
def execXpk (d a c : Reg) (wa n x4 : Bool) (s : State) : Host.Outcome State Fault Refusal :=
  s.finish <| s.gated ⟨[sv a wa], [dv d, dv c], true⟩ <|
    let act := s.cur.active s.curS n
    let blocks := (List.range 3).map fun b => s.cur.packBeat x4 act a.val b
    let block (l : Nat) := blocks.getD (l / 32) (0, 0, [], 0)
    .done ((s.modCur fun g =>
      ((g.setV act d.val fun l => BitVec.ofNat 32 ((block l).2.2.1.getD (l % 32) 0)).setV act c.val
        fun l => BitVec.ofNat 32 ((block l).2.1 * 2 ^ 8 + (block l).1)).raise
          (orFlags ((beatsOf act).map fun b => (block (32 * b)).2.2.2))).next 8)

/-- `xupk` (R78, R104). -/
def execXupk (d a c : Reg) (wa wc n x4 : Bool) (s : State) : Host.Outcome State Fault Refusal :=
  s.finish (s.laneOp ⟨[sv a wa, sv c wc], [dv d], true⟩ n d 8 fun g l =>
    let e := (g.vval c.val l).toNat
    plain (BitVec.ofNat 32 (pxUnpack x4 (e % 2 ^ 8) (e / 2 ^ 8 % 2 ^ 8)
      ((g.vval a.val l).toNat % (if x4 then 16 else 256)))))

end Sys2Proof.Machine
end

