-- ==== Sys2Proof/Machine/LaneInt.lean ====
section
/-! DEFINITION. Lane integer and bit instructions (R94 to R97). -/

namespace Sys2Proof.Machine

/-- `iadd.i32` (R94). -/
def execIaddI32 (d a b : Reg) (wa wb n : Bool) (s : State) : Host.Outcome State Fault Refusal :=
  s.finish (s.lane2 d a b wa wb n 4 fun x y => plain (x + y))
/-- `isub.i32` (R94). -/
def execIsubI32 (d a b : Reg) (wa wb n : Bool) (s : State) : Host.Outcome State Fault Refusal :=
  s.finish (s.lane2 d a b wa wb n 4 fun x y => plain (x - y))
/-- `imul.i32` (R94). -/
def execImulI32 (d a b : Reg) (wa wb n : Bool) (s : State) : Host.Outcome State Fault Refusal :=
  s.finish (s.lane2 d a b wa wb n 4 fun x y => plain (x * y))
/-- `imulh.i32` (R94). -/
def execImulhI32 (d a b : Reg) (wa wb n : Bool) (s : State) : Host.Outcome State Fault Refusal :=
  s.finish (s.lane2 d a b wa wb n 4 fun x y => plain (mulHigh true x y))
/-- `imulh.n32` (R94). -/
def execImulhN32 (d a b : Reg) (wa wb n : Bool) (s : State) : Host.Outcome State Fault Refusal :=
  s.finish (s.lane2 d a b wa wb n 4 fun x y => plain (mulHigh false x y))
/-- `imad.i32` (R94). -/
def execImadI32 (d a b c : Reg) (wa wb wc n : Bool) (s : State) : Host.Outcome State Fault Refusal :=
  s.finish (s.lane3 d a b c wa wb wc n 8 fun x y z => plain (x * y + z))

/-- A 64-bit lane result in an even register pair (R54). -/
def State.pairResult (s : State) (np : Bool) (d : Reg) (n : Nat) (f : Nat → W64 × Flags) : State :=
  let act := s.cur.active s.curS np
  (s.modCur fun g =>
    ((g.setV act d.val fun l => lo32 (f l).1).setV act (d.val + 1) fun l => hi32 (f l).1).raise
      (orFlags ((lanesOf act).map fun l => (f l).2))).next n

/-- A lane instruction on register pairs. -/
def State.pair2 (s : State) (d a b : Reg) (wa wb np : Bool) (f : W64 → W64 → W64) : Res :=
  s.gated ⟨[svs a 2 wa, svs b 2 wb], [dvs d 2], true⟩
    (.done (s.pairResult np d 4 fun l => (f (s.cur.vpair a.val l) (s.cur.vpair b.val l), 0)))

/-- `iadd.i64` (R94). -/
def execIaddI64 (d a b : Reg) (wa wb n : Bool) (s : State) : Host.Outcome State Fault Refusal :=
  s.finish (s.pair2 d a b wa wb n fun x y => x + y)
/-- `isub.i64` (R94). -/
def execIsubI64 (d a b : Reg) (wa wb n : Bool) (s : State) : Host.Outcome State Fault Refusal :=
  s.finish (s.pair2 d a b wa wb n fun x y => x - y)
/-- `imin.i32` (R94). -/
def execIminI32 (d a b : Reg) (wa wb n : Bool) (s : State) : Host.Outcome State Fault Refusal :=
  s.finish (s.lane2 d a b wa wb n 4 fun x y => plain (minMax false true x y))
/-- `imin.n32` (R94). -/
def execIminN32 (d a b : Reg) (wa wb n : Bool) (s : State) : Host.Outcome State Fault Refusal :=
  s.finish (s.lane2 d a b wa wb n 4 fun x y => plain (minMax false false x y))
/-- `imax.i32` (R94). -/
def execImaxI32 (d a b : Reg) (wa wb n : Bool) (s : State) : Host.Outcome State Fault Refusal :=
  s.finish (s.lane2 d a b wa wb n 4 fun x y => plain (minMax true true x y))
/-- `imax.n32` (R94). -/
def execImaxN32 (d a b : Reg) (wa wb n : Bool) (s : State) : Host.Outcome State Fault Refusal :=
  s.finish (s.lane2 d a b wa wb n 4 fun x y => plain (minMax true false x y))
/-- `iabs` (R94). -/
def execIabs (d a : Reg) (wa n : Bool) (s : State) : Host.Outcome State Fault Refusal :=
  s.finish (s.lane1 d a wa n 4 fun x => plain (absW x))
/-- `ineg` (R94). -/
def execIneg (d a : Reg) (wa n : Bool) (s : State) : Host.Outcome State Fault Refusal :=
  s.finish (s.lane1 d a wa n 4 fun x => plain (-x))
/-- `idiv.i32` (R95). -/
def execIdivI32 (d a b : Reg) (wa wb n : Bool) (s : State) : Host.Outcome State Fault Refusal :=
  s.finish (s.lane2 d a b wa wb n 4 fun x y => plain (divSigned x y))
/-- `idiv.n32` (R95). -/
def execIdivN32 (d a b : Reg) (wa wb n : Bool) (s : State) : Host.Outcome State Fault Refusal :=
  s.finish (s.lane2 d a b wa wb n 4 fun x y => plain (divUnsigned x y))
/-- `iand` (R96). -/
def execIand (d a b : Reg) (wa wb n : Bool) (s : State) : Host.Outcome State Fault Refusal :=
  s.finish (s.lane2 d a b wa wb n 4 fun x y => plain (x &&& y))
/-- `ior` (R96). -/
def execIor (d a b : Reg) (wa wb n : Bool) (s : State) : Host.Outcome State Fault Refusal :=
  s.finish (s.lane2 d a b wa wb n 4 fun x y => plain (x ||| y))
/-- `ixor` (R96). -/
def execIxor (d a b : Reg) (wa wb n : Bool) (s : State) : Host.Outcome State Fault Refusal :=
  s.finish (s.lane2 d a b wa wb n 4 fun x y => plain (x ^^^ y))
/-- `inot` (R96). -/
def execInot (d a : Reg) (wa n : Bool) (s : State) : Host.Outcome State Fault Refusal :=
  s.finish (s.lane1 d a wa n 4 fun x => plain (~~~x))
/-- `ishl` (R96). -/
def execIshl (d a b : Reg) (wa wb n : Bool) (s : State) : Host.Outcome State Fault Refusal :=
  s.finish (s.lane2 d a b wa wb n 4 fun x y => plain (shiftLeft x y))
/-- `ishr` (R96). -/
def execIshr (d a b : Reg) (wa wb n : Bool) (s : State) : Host.Outcome State Fault Refusal :=
  s.finish (s.lane2 d a b wa wb n 4 fun x y => plain (shiftRight x y))
/-- `isar` (R96). -/
def execIsar (d a b : Reg) (wa wb n : Bool) (s : State) : Host.Outcome State Fault Refusal :=
  s.finish (s.lane2 d a b wa wb n 4 fun x y => plain (shiftArith x y))
/-- `ibfe` (R97). -/
def execIbfe (d a : Reg) (wa n signed : Bool) (pos lm1 : Fin 32) (s : State) :
    Host.Outcome State Fault Refusal :=
  s.finish (s.lane1 d a wa n 8 fun x => plain (fieldExtract signed pos.val (lm1.val + 1) x))
/-- `ibfi`, which reads its destination (R97). -/
def execIbfi (d a : Reg) (wa n : Bool) (pos lm1 : Fin 32) (s : State) :
    Host.Outcome State Fault Refusal :=
  s.finish (s.laneOp ⟨[sv a wa, sv d false], [dv d], true⟩ n d 8 fun g l =>
    plain (fieldInsert pos.val (lm1.val + 1) (g.vval d.val l) (g.vval a.val l)))
/-- `icnt` (R96). -/
def execIcnt (d a : Reg) (wa n : Bool) (s : State) : Host.Outcome State Fault Refusal :=
  s.finish (s.lane1 d a wa n 4 fun x => plain (BitVec.ofNat 32 (popCount x)))
/-- `iclz` (R96). -/
def execIclz (d a : Reg) (wa n : Bool) (s : State) : Host.Outcome State Fault Refusal :=
  s.finish (s.lane1 d a wa n 4 fun x => plain (BitVec.ofNat 32 (leadZeros x)))
/-- `icmp` (R53, R96). -/
def execIcmp (d a b : Reg) (wa wb n : Bool) (cond : Cond) (signed : Bool) (s : State) :
    Host.Outcome State Fault Refusal :=
  s.finish (s.lane2 d a b wa wb n 8 fun x y => plain (bit32 (intCmp cond signed x y)))
/-- `isel` (R96). -/
def execIsel (d a b c : Reg) (wa wb wc n : Bool) (s : State) : Host.Outcome State Fault Refusal :=
  s.finish (s.lane3 d a b c wa wb wc n 8 fun x y z => plain (if z = 0 then y else x))
/-- `ipk` (R96). -/
def execIpk (d a b : Reg) (wa wb n : Bool) (s : State) : Host.Outcome State Fault Refusal :=
  s.finish (s.lane2 d a b wa wb n 4 fun x y => plain (packPair x y))
/-- `imov` (R96). -/
def execImov (d a : Reg) (wa n : Bool) (s : State) : Host.Outcome State Fault Refusal :=
  s.finish (s.lane1 d a wa n 4 fun x => plain (x))
/-- `ili` (R96). -/
def execIli (d : Reg) (n : Bool) (imm : W32) (s : State) : Host.Outcome State Fault Refusal :=
  s.finish (s.laneOp ⟨[], [dv d], true⟩ n d 8 fun _ _ => plain imm)

end Sys2Proof.Machine
end

