-- ==== Sys2Proof/Machine/LaneMem.lean ====
section
/-! DEFINITION. The lane loads, stores, atomics and reductions (R190 to R193) and the consistent read
(R195). -/

namespace Sys2Proof.Machine

/-- `ld` (R190). -/
def execLd (d a : Reg) (wa n sx : Bool) (m : MemExt) (s : State) : Host.Outcome State Fault Refusal :=
  s.finish (s.load true n d.val a.val sx m ⟨[svs a 2 wa], [dvs d m.wid.laneRegs], true⟩)

/-- `st` (R190). -/
def execSt (a b : Reg) (wa wb n : Bool) (m : MemExt) (s : State) : Host.Outcome State Fault Refusal :=
  s.finish (s.store true n a.val b.val m ⟨[svs a 2 wa, svs b m.wid.laneRegs wb], [], true⟩)

/-- The lane registers of an atomic's operand B (R191). -/
def atomLanes (op : AtomOp) (w : Width) : Nat := if op == .cas then 2 else w.laneRegs

/-- `atm` (R191). -/
def execAtm (d a b : Reg) (wa wb n : Bool) (op : AtomOp) (m : MemExt) (s : State) :
    Host.Outcome State Fault Refusal :=
  s.finish (s.atomic true n true d.val a.val b.val op m
    ⟨[svs a 2 wa, svs b (atomLanes op m.wid) wb], [dvs d m.wid.laneRegs], true⟩)

/-- `red` (R191). -/
def execRed (a b : Reg) (wa wb n : Bool) (op : AtomOp) (m : MemExt) (s : State) :
    Host.Outcome State Fault Refusal :=
  s.finish (s.atomic true n false 0 a.val b.val op m
    ⟨[svs a 2 wa, svs b (atomLanes op m.wid) wb], [], true⟩)

/-- `trd` (R195). -/
def execTrd (d a : Reg) (wa n acq : Bool) (len : Nat) (s : State) : Host.Outcome State Fault Refusal :=
  let nd := len / 4
  s.finish <| s.gated ⟨[svs a 2 wa], [dvs d nd], true⟩ <| s.relaxedOnly acq <|
    passing (allLanesOk (fun l => s.trdAcc len l (s.cur.vpair a.val l)) (s.memLanes true n)) fun accs =>
    if accs.isEmpty then .done ((s.produceNone [(d.val, nd)]).next 8)
    else if s.acquiring || s.regionWaits s.curG then .wait s
    else
      let items := accs.map fun x => (⟨x.lane, x.loc, len, [], none⟩ : Item)
      if s.inRegion s.curG then
        let acc := s.nextId + 2
        match (s.takeId.touchItems items).regionItems s.curG acc (regionRead s.curG acc) items with
        | .abort c => .abort c
        | .ok t js => .done ((t.produceAs s.nextId true (.trd d.val len) js [(d.val, nd)] false).next 8)
      else .done ((s.produce true (.trd d.val len) items [(d.val, nd)] acq).next 8)

end Sys2Proof.Machine
end

