-- ==== Sys2Proof/Machine/Matrix.lean ====
section
/-! DEFINITION. The matrix unit (R119 to R140): fragments, products, tile moves, batches, the rendezvous of
`mmac`, and the events of the sequencer. -/

namespace Sys2Proof.Machine

/-! ### Formats and fragments (R121 to R125) -/

/-- AFMT of an FMT image (R85). -/
def fmtA (f : BitVec 14) : Nat := f.toNat % 16
/-- BFMT. -/
def fmtB (f : BitVec 14) : Nat := f.toNat / 16 % 16
/-- ACC: FP32. -/
def fmtAcc (f : BitVec 14) : Bool := f.getLsbD 8

/-- AFMT, BFMT and ACC form a row of R86. -/
def fmtRow (f : BitVec 14) : Bool :=
  let a := fmtA f
  let b := fmtB f
  if !fmtAcc f then a == 0 && b == 0
  else
    ([11, 12, 13].contains a && [11, 12, 13].contains b) || (a == 14 && b == 14) ||
      ([9, 10].contains a && [9, 10].contains b)

/-- The registers of a fragment by its format (R123). -/
def fragRegs (fc : Nat) : Nat := if fc = 13 then 34 else if fc = 14 then 36 else 32
/-- The registers of a quarter by its format (R135). -/
def quarterRegs (fc : Nat) : Nat := if fc = 13 then 26 else if fc = 14 then 27 else 24

/-- Byte `n` of a stream laid across lane registers (R121). -/
def fragByte (regs : List LaneVec) (n : Nat) : Nat :=
  (laneAt (regs.getD (n / 384) []) (n % 384 / 4)).toNat / 2 ^ (8 * (n % 4)) % 256

/-- The elements of K in `rb` bytes of a row (R121). -/
def kCount (fc rb : Nat) : Nat := if fc = 14 then 2 * rb else if fc = 9 ∨ fc = 10 then rb / 2 else rb

/-- Element `k` of row or column `r` of a fragment with `rb` bytes in each row (R121, R122, R125, R135). -/
def fragElem (fc : Nat) (regs : List LaneVec) (rb r k : Nat) : FVal :=
  let at8 := fragByte regs (rb * r + k)
  let at16 := fragByte regs (rb * r + 2 * k) + 256 * fragByte regs (rb * r + 2 * k + 1)
  let ex := if rb = 256 then 32 else 24
  let expo (b i : Nat) : Nat := fragByte (regs.drop ex) (2 * b + i)
  match fc with
  | 0 => .fin (decide (128 ≤ at8)) (toSigned 8 at8).natAbs 0
  | 9 => fmt16.decode at16
  | 10 => fmtB16.decode at16
  | 11 => fmtE4.decode at8
  | 12 => fmtE5.decode at8
  | 13 =>
    let b := r * (rb / 32) + k / 32
    pxValue false (expo b 0) (expo b 1) at8
  | _ =>
    let b := r * (rb / 16) + k / 32
    let y := fragByte regs (rb * r + k / 2) / (if k % 2 = 0 then 1 else 16) % 16
    pxValue true (expo b 0) (expo b 1) y

/-! ### Products (R88, R126) -/

/-- The exact sum of the products of a run: NaN and infinities first, then the finite sum; a zero sum is
−0 only where every product is −0. -/
def runSum (xs : List FVal) : FVal :=
  let pinf := xs.any fun x => x.isInf && !x.neg
  let ninf := xs.any fun x => x.isInf && x.neg
  if xs.any FVal.isNan || (pinf && ninf) then .nan false
  else if pinf || ninf then .inf ninf
  else
    let q := xs.foldl (fun a x => min a x.exp) 0
    let t := xs.foldl (fun a x => a + x.units q) (0 : Int)
    .fin (if t = 0 then xs.all FVal.neg else decide (t < 0)) t.natAbs q

/-- One run added to an accumulator element. -/
def addRun (acc32 : Bool) (acc : Nat) (xs : List FVal) : Nat :=
  let s := runSum xs
  if acc32 then (sumTo fmt32 Mode.fixed false [fmt32.decode acc, s]).1
  else (((acc : Int) + s.units 0) % (2 ^ 32 : Nat)).toNat

/-- The runs of one row of A against one column of B, in increasing K (R88). -/
def dotRuns (f : BitVec 14) (a b : List LaneVec) (rb r c acc : Nat) : Nat :=
  (List.range (kCount (fmtA f) rb / 32)).foldl (fun x j =>
    addRun (fmtAcc f) x ((List.range 32).map fun i =>
      (fragElem (fmtA f) a rb r (32 * j + i)).mul (fragElem (fmtB f) b rb c (32 * j + i)))) acc

/-! ### Tiles -/

/-- An element of a team's tile (R126, R139). -/
def Team.tileAt (t : Team) (n r c : Nat) : W32 := (aget t.tiles (2304 * n + 48 * r + c)).getD 0

/-- The places of a tile. -/
def tilePlaces : List (Nat × Nat) :=
  (List.range 48).flatMap fun r => (List.range 48).map fun c => (r, c)

/-- A tile with every element given; elements that are zero are not listed. -/
def Team.setTile (t : Team) (n : Nat) (f : Nat → Nat → W32) : Team :=
  let new := tilePlaces.filterMap fun p =>
    let x := f p.1 p.2
    if x = 0 then none else some (2304 * n + 48 * p.1 + p.2, x)
  { t with tiles := (t.tiles.filter fun e => decide (e.1 < 2304 * n)) ++ new ++
      t.tiles.filter fun e => decide (2304 * (n + 1) ≤ e.1) }

/-- A tile's poison set or cleared (R140). -/
def Team.markTile (t : Team) (n : Nat) (p : Bool) : Team :=
  { t with tilePoison := if p then insNum t.tilePoison n else t.tilePoison.filter (· != n) }

/-- `mma` on a tile. -/
def Team.product (t : Team) (n : Nat) (f : BitVec 14) (a b : List LaneVec) : Team :=
  t.setTile n fun r c => BitVec.ofNat 32 (dotRuns f a b 256 r c (t.tileAt n r c).toNat)

/-- One tile of `mmac` for the core at place (i, j): the quarters in core order (R137). -/
def Team.quarterTile (t : Team) (n : Nat) (f : BitVec 14) (a b : List (List LaneVec)) (i j u w : Nat) :
    Team :=
  t.setTile n fun r c =>
    BitVec.ofNat 32 ((List.range 4).foldl (fun x q =>
      dotRuns f (a.getD (4 * i + q) []) (b.getD (4 * q + j) []) 64 (48 * u + r) (48 * w + c) x)
      (t.tileAt n r c).toNat)

/-- `mmac` on the nine tiles from `n` on. -/
def Team.cooperative (t : Team) (n place : Nat) (f : BitVec 14) (a b : List (List LaneVec)) : Team :=
  (List.range 9).foldl (fun x y => x.quarterTile (n + y) f a b (place / 4) (place % 4) (y / 3) (y % 3)) t

/-- The bytes of a tile image (R130). -/
def Team.tileBytes (t : Team) (n : Nat) : List Byte :=
  tilePlaces.flatMap fun p => wBytes (t.tileAt n p.1 p.2)

/-! ### Issue -/

/-- The tiles that a team may name (R11). -/
def Launch.tiles (l : Launch) : Nat := if 72 ≤ l.rpl then 28 else 14

/-- The sequencer queue of a core has no room (R128). An operation gives up its entry when it starts; the spec does not
say when an entry becomes free. DESIGN CHOICE. [A77] -/
def State.matFull (s : State) (core : Nat) : Bool :=
  decide (16 ≤ (s.mats.filter fun m => m.core == core && !m.started).length)

/-- A matrix operation queued and joined to its group's open batch. -/
def State.queueMat (s : State) (kind : MatKind) (tile n : Nat) (held : BitVec 128) : State :=
  let m : MatOp := ⟨s.nextId, s.curG, s.coreOf s.curG, s.cur.matBatch, kind, tile, n, s.curPath.fmt, held,
    false⟩
  { s with mats := s.mats ++ [m], nextId := s.nextId + 1 }

/-- `mzero` (R129). R120 names the check of R86 for `mma` and `mmac`; a FMT that is no row of R86 stops neither `mzero`
nor the tile moves. DEDUCED. [A27] -/
def execMzero (t : Reg) (s : State) : Host.Outcome State Fault Refusal :=
  s.finish <|
    check (decide (t.val < s.curLaunch.tiles)) .access <|
    if s.matFull (s.coreOf s.curG) then .wait s
    else .done ((s.queueMat .zero t.val 1 0).next 4)

/-- A tile move (R130). -/
def State.moveTile (s : State) (t a : Reg) (wa w : Bool) : Res :=
  check (decide (t.val < s.curLaunch.tiles)) .access <|
  s.gated ⟨[sg a wa], [], false⟩ <|
    let h := s.cur.gval s.curS a.val
    let off := field h 0 19
    check (spaceOf h == 1 && field h 19 43 == 0) .handleFault <|
    check (off % 32 == 0) .align <|
    check (decide (off + 9216 ≤ s.curLaunch.spad)) .spadRange <|
    let core := s.coreOf s.curG
    if s.matFull core then .wait s
    else
      match s.register [scoreEntry core (teamOf s.curG) off 9216 w s.nextId] with
      | none => .wait s
      | some s1 => .done ((s1.queueMat (if w then .st off else .ld off) t.val 1 0).next 4)

/-- `mld` (R130). -/
def execMld (t a : Reg) (wa : Bool) (s : State) : Host.Outcome State Fault Refusal :=
  s.finish (s.moveTile t a wa false)

/-- `mst` (R130). -/
def execMst (t a : Reg) (wa : Bool) (s : State) : Host.Outcome State Fault Refusal :=
  s.finish (s.moveTile t a wa true)

/-- The issuing group is converged (R119). -/
def State.converged (s : State) : Bool := s.curPath.mask == allLanes && s.cur.top s.curPath == allLanes

/-- The values of a run of lane registers. -/
def Group.run (g : Group) (r n : Nat) : List LaneVec := (List.range n).map fun i => g.vreg (r + i)

/-- The checks of a product before its own (R120, R123): the groups of `na` and `nb` registers, the tiles
up to `top`, then convergence and R86. R56 gives the implicit sources mk0 to mk2 to lane instructions; a product, which
tests the whole mask, has them here too. DESIGN CHOICE. [A69] -/
def State.productWord (s : State) (a b : Reg) (wa wb : Bool) (na nb top : Nat) (k : Res) : Res :=
  check (decide (a.val + na ≤ 128) && decide (b.val + nb ≤ 128)) .illegalOpcode <|
  check (decide (top < s.curLaunch.tiles)) .access <|
  s.gated ⟨[svs a na wa, svs b nb wb], [], true⟩ <|
    check s.converged .illegalConvergence <|
    check (fmtRow s.curPath.fmt) .illegalOpcode k

/-- `mma` (R126). -/
def execMma (t a b : Reg) (wa wb : Bool) (s : State) : Host.Outcome State Fault Refusal :=
  let na := fragRegs (fmtA s.curPath.fmt)
  let nb := fragRegs (fmtB s.curPath.fmt)
  s.finish <| s.productWord a b wa wb na nb t.val <|
    if s.matFull (s.coreOf s.curG) then .wait s
    else
      .done ((s.queueMat (.mma (s.cur.run a.val na) (s.cur.run b.val nb)) t.val 1
        (regSet 128 a.val na ||| regSet 128 b.val nb)).next 4)

/-! ### Batches (R131, R132) -/

/-- The sealed matrix batches of a group that are not complete. -/
def State.matLeft (s : State) (gid : Nat) : List Nat :=
  (s.group gid).matSealed.filter fun b => s.mats.any fun m => m.gid == gid && m.batch == b

/-- `mseal` (R131). -/
def execMseal (d : Reg) (s : State) : Host.Outcome State Fault Refusal :=
  s.finish <| s.gated ⟨[], [dg d], false⟩ <|
    let left := s.matLeft s.curG
    if 128 ≤ left.length then .wait s
    else
      let n := s.cur.matBatch
      .done ((s.modCur fun g =>
        { g.setG s.curS d.val (BitVec.ofNat 64 n) with
          matBatch := (n + 1) % 2 ^ 16
          matSealed := left ++ [n] }).next 4)

/-- `mwait` (R132). -/
def execMwait (cnt : Reg) (s : State) : Host.Outcome State Fault Refusal :=
  s.finish <| if (s.matLeft s.curG).length ≤ cnt.val then .done (s.next 4) else .wait s

/-! ### The cooperative product (R134 to R137) -/

/-- The gang of a team of a launch with gangs of 16. -/
def State.gangOf (s : State) (gid : Nat) : Nat := (s.team (teamOf gid)).idx / 16

/-- The issuing team belongs to a gang of 16 teams placed one on each core of this cluster (R136): all 16 are resident
now. The spec does not say whether a gang of which a team has retired or left still counts as placed so. DESIGN
CHOICE. [A77] -/
def State.gangHere (s : State) : Bool :=
  let l := launchOfTeam (teamOf s.curG)
  let g := s.gangOf s.curG
  (s.launch l).gang == 16 &&
    (List.range 16).all fun c => (List.range 16).any fun m =>
      let t := s.team (teamKey l (16 * g + m))
      t.resident && t.core == s.curCluster * 16 + c

/-- The arrivals of a core under a key. -/
def Arrival.is (x : Arrival) (launch gang num core : Nat) : Bool :=
  x.launch == launch && x.gang == gang && x.num == num && x.core == core

/-- The distinct numbers under which a core has arrivals pending. -/
def State.arrivalNums (s : State) (core : Nat) : List Nat :=
  dedup ((s.arrivals.filter fun x => x.core == core).map (·.num))

/-- `mmac` at its word: it arrives, or waits at the rendezvous or before it (R136). -/
def execMmac (t a b : Reg) (wa wb : Bool) (num : BitVec 16) (s : State) :
    Host.Outcome State Fault Refusal :=
  let f := s.curPath.fmt
  let core := s.coreOf s.curG
  let l := launchOfTeam (teamOf s.curG)
  let g := s.gangOf s.curG
  s.finish <|
    if s.arrivals.any fun x => x.gid == s.curG && x.slot1 == s.curS then .wait s
    else
      s.productWord a b wa wb (quarterRegs (fmtA f)) (quarterRegs (fmtB f)) (t.val + 8) <|
        check s.gangHere .access <|
        if s.matFull core || s.arrivals.any (fun x => x.is l g num.toNat core) ||
            (!(s.arrivalNums core).contains num.toNat && decide (4 ≤ (s.arrivalNums core).length)) then
          .wait s
        else
          .wait { s with arrivals := s.arrivals ++
            [⟨l, g, num.toNat, core, s.curG, s.curS, t.val, f, a.val, b.val⟩] }

/-- The arrivals of a key, one for each core in core order, where all sixteen have come. -/
def State.gathered (s : State) (launch gang num : Nat) : Option (List Arrival) :=
  let xs := s.arrivals.filter fun x => x.launch == launch && x.gang == gang && x.num == num
  let ys := (List.range 16).filterMap fun c => xs.find? fun x => x.core % 16 == c
  if ys.length = 16 then some ys else none

/-- The operand registers of an arrival. -/
def Arrival.held (x : Arrival) : BitVec 128 :=
  regSet 128 x.ra (quarterRegs (fmtA x.fmt)) ||| regSet 128 x.rb (quarterRegs (fmtB x.fmt))

/-- The waiting slot of an arrival made the issuing one, the arrival withdrawn. -/
def State.asArrival (s : State) (x : Arrival) : State :=
  { s with curG := x.gid, curS := x.slot1, arrivals := s.arrivals.filter (· != x) }

/-- An operation is a cooperative product of a gang whose quarters the network has still to read. -/
def State.unread (s : State) (launch gang : Nat) (m : MatOp) : Bool :=
  match m.kind with
  | .mmac _ _ => m.held != 0 && launchOfTeam (teamOf m.gid) == launch && s.gangOf m.gid == gang
  | _ => false

/-- The network has read the quarters of a gang's issued products, and their holds end (R137). -/
def State.quartersRead (s : State) (launch gang : Nat) : State :=
  { s with mats := s.mats.map fun m => if s.unread launch gang m then { m with held := 0 } else m }

/-- `MMAC_RENDEZVOUS` (R136, R137): first the network reads the quarters of the gang's products that have
issued, and their holds end; otherwise, once all sixteen have arrived, each issues and holds its quarter, or
each traps where the latched formats differ. A quarter that has been poisoned since traps POISON in its
participant. -/
def execMmacRendezvous (launch gang num : Nat) (s : State) : Host.Outcome State Fault Refusal :=
  if s.mats.any (s.unread launch gang) then .next (s.quartersRead launch gang)
  else match s.gathered launch gang num with
  | none => .next s
  | some xs =>
    let back (t : State) : State := { t with curG := s.curG, curS := s.curS }
    match xs.find? fun x => (s.group x.gid).poisonV &&& x.held != 0 with
    | some x => .next (back ((s.asArrival x).takeTrap .poison 0))
    | none =>
      if xs.any fun x => (s.group x.gid).emptyV &&& x.held != 0 then .next s
      else if xs.any fun x => s.matFull x.core then .next s
      else
        let same := xs.all fun x => x.fmt.toNat % 2 ^ 9 == (xs.head?.map fun y => y.fmt.toNat % 2 ^ 9).getD 0
        if !same then
          .next (back (xs.foldl (fun t x => (t.asArrival x).takeTrap .illegalConvergence 0) s))
        else
          let as := xs.map fun x => (s.group x.gid).run x.ra (quarterRegs (fmtA x.fmt))
          let bs := xs.map fun x => (s.group x.gid).run x.rb (quarterRegs (fmtB x.fmt))
          .next (back (xs.foldl (fun t x =>
            ((t.asArrival x).queueMat (.mmac as bs) x.tile 9 x.held).next 8) s))

/-! ### The sequencer -/

/-- The operation runs on the array. -/
def MatOp.array (m : MatOp) : Bool :=
  match m.kind with
  | .mma _ _ | .mmac _ _ => true
  | _ => false

/-- Two operations name a common tile of one team. -/
def MatOp.meets (m x : MatOp) : Bool :=
  teamOf m.gid == teamOf x.gid && decide (m.tile < x.tile + x.ntiles) && decide (x.tile < m.tile + m.ntiles)

/-- The operations that entered a core's queue before one. -/
def State.matsBefore (s : State) (m : MatOp) : List MatOp :=
  (s.mats.takeWhile fun x => x.id != m.id).filter fun x => x.core == m.core

/-- An operation may start (R128). -/
def State.matReady (s : State) (m : MatOp) : Bool :=
  !m.started && (s.matsBefore m).all (fun x => !x.meets m && !(m.array && x.array)) &&
    !(m.array && s.mats.any fun x => x.core == m.core && x.array && x.started)

/-- `MATRIX_OP_START` (R124, R128, R138): the operands have been read and their registers are released;
the array runs narrowed while the alarm stands at its core. -/
def execMatrixOpStart (id : Nat) (s : State) : Host.Outcome State Fault Refusal :=
  match s.mats.find? fun m => m.id == id with
  | none => .next s
  | some m =>
    if !s.matReady m then .next s
    else
      let s1 := { s with mats := s.mats.map fun x =>
        if x.id = id then { x with started := true, held := 0 } else x }
      .next (if m.array then s1.modCore m.core fun c => { c with narrow := c.alarm } else s1)

/-- The effect of an operation on its team (R126, R129, R130, R137, R140). -/
def MatOp.effect (m : MatOp) (t : Team) : Team :=
  match m.kind with
  | .zero => (t.setTile m.tile fun _ _ => 0).markTile m.tile false
  | .ld off =>
    (t.setTile m.tile fun r c =>
      BitVec.ofNat 32 (leNat (t.spadBytes (off + 4 * (48 * r + c)) 4))).markTile m.tile
        ((List.range 288).any fun u => t.spadPoison.contains (off / 32 + u))
  | .st off =>
    let p := t.tilePoison.contains m.tile
    t.putMarked (markedFrom off ((t.tileBytes m.tile).map fun b => (b, p)))
  | .mma a b => t.product m.tile m.fmt a b
  | .mmac a b => t.cooperative m.tile (m.core % 16) m.fmt a b

/-- The scoreboard lets a tile move's entry go (R174). -/
def State.moveFree (s : State) (m : MatOp) : Bool :=
  s.score.all fun e => e.op != m.id || scoreFree s.score e

/-- `MATRIX_OP_COMPLETE` (R130, R131). -/
def execMatrixOpComplete (id : Nat) (s : State) : Host.Outcome State Fault Refusal :=
  match s.mats.find? fun m => m.id == id with
  | none => .next s
  | some m =>
    if !m.started || !s.moveFree m then .next s
    else
      let s1 := s.modTeam (teamOf m.gid) m.effect
      let s2 := { s1 with
        mats := s1.mats.filter fun x => x.id != id
        score := s1.score.filter fun e => e.op != id }
      .next (s2.settleExit m.gid)

/-- `MATRIX_NARROW` (R138): the module's power alarm reaches a core. -/
def execMatrixNarrow (core : Nat) (s : State) : Host.Outcome State Fault Refusal :=
  .next (if s.host.alarm then s.modCore core fun c => { c with alarm := true } else s)

end Sys2Proof.Machine
end

