-- ==== Sys2Proof/Machine/RegionInstr.lean ====
section
/-! DEFINITION. The region instructions (R233 to R236) and the events of the region unit (R227, R228). -/

namespace Sys2Proof.Machine

/-- A region opened for the issuing group, the snapshot taken with the PC after the word (R229, R234). -/
def State.openRegion (s : State) : State :=
  let s1 := s.next 4
  let s2 := s1.modCur fun g => { g with regCode := rgOpen }
  { s2 with regions := s2.regions ++ [⟨s.curG, s.dieOf s.curG, [], [], [], s1.cur, none, none⟩] }

/-- `fbeg` (R234). -/
def execFbeg (s : State) : Host.Outcome State Fault Refusal :=
  s.finish <|
    if s.inRegion s.curG then .abort rgUnsupported
    else if s.cur.s0.path.isSome ∧ s.cur.s1.path.isSome then
      .done ((s.modCur fun g => g.abortStatus rgUnsupported).next 4)
    else
      s.release true <|
        if 128 ≤ (s.regions.filter fun r => r.die == s.dieOf s.curG).length then
          .done ((s.modCur fun g => g.abortStatus rgCapacity).next 4)
        else .done s.openRegion

/-- A group's region may commit now: no region that became ready at the same point asked for it earlier
(R227), and no channel that it writes to is in broadcast mode (R253). -/
def State.commitsNext (s : State) (gid : Nat) : Bool :=
  match s.regionOf gid with
  | none => false
  | some x => x.ready.isSome && (x.writes.all fun i => !s.channelShut (64 * i.sector)) && s.regions.all fun r =>
      r.gid == gid || decide (r.ready ≠ x.ready) || decide (x.fend.getD 0 ≤ r.fend.getD 0)

/-- `fend` (R235): the region asks to commit, and commits at once where nothing is before it. -/
def execFend (s : State) : Host.Outcome State Fault Refusal :=
  s.finish <|
    match s.regionOf s.curG with
    | none => .done (s.next 4)
    | some r =>
      if (s.cur.s0.path.isSome && s.cur.s1.path.isSome) || s.cur.stack.length != r.snap.stack.length then
        .abort rgUnsupported
      else if s.regionWaits s.curG then .wait s
      else
        let s1 := match r.fend with
          | some _ => s
          | none =>
            ({ s.modRegion s.curG fun x => { x with fend := some s.nextId } with
                nextId := s.nextId + 1 } : State).markReady
        if s1.commitsNext s.curG then .done ((s1.commitRegion s.curG).next 4) else .wait s1

/-- `fabt` (R235). -/
def execFabt (s : State) : Host.Outcome State Fault Refusal :=
  s.finish <| if s.inRegion s.curG then .abort rgExplicit else .done (s.next 4)

/-- `fsta` (R236). -/
def execFsta (d : Reg) (s : State) : Host.Outcome State Fault Refusal :=
  s.finish <| s.gated ⟨[], [dg d], false⟩ <|
    .done (s.uniResult d 4 (plain64 (BitVec.ofNat 64 (s.cur.regAborts * 2 ^ 8 + s.cur.regCode))))

/-- `REGION_COMMIT` (R227): a region at its `fend` whose predecessors are gone commits, and its slot
continues. -/
def execRegionCommit (gid : Nat) (s : State) : Host.Outcome State Fault Refusal :=
  .next <|
    if s.commitsNext gid && !s.regionWaits gid then
      (s.commitRegion gid).modGroup gid fun g => g.next g.s0.path.isNone 4
    else s

/-- `REGION_ABORT_SOURCE` (R228, R229): a group whose region an earlier region's abort has ended is
restored once its pending fills have completed. -/
def execRegionAbortSource (gid : Nat) (s : State) : Host.Outcome State Fault Refusal :=
  .next (if (aget s.restores gid).isSome then (s.releaseHeld gid).settle gid else s)

end Sys2Proof.Machine
end

