-- ==== Sys2Proof/Machine/Sync.lean ====
section
/-! DEFINITION. Barriers (R290 to R292), named queues (R293, R294), fences (R194), handle forming (R196)
and the wait for a child launch (R296). -/

namespace Sys2Proof.Machine

/-! ### Barriers -/

/-- A barrier of a team at its start (R290). -/
def Bar.start : Bar := ⟨0, 0, 0, [], []⟩

/-- Barrier `n` of the issuing group's team. -/
def State.bar (s : State) (n : Nat) : Bar := (aget s.curTeam.bars n).getD Bar.start

/-- The team of the issuing group with a barrier set. -/
def State.setBar (s : State) (n : Nat) (b : Bar) : State :=
  s.modTeam (teamOf s.curG) fun t => { t with bars := aput t.bars n b }

/-- The number of barriers that a team names (R290). -/
def State.barCount (s : State) : Nat := if 72 ≤ s.curLaunch.rpl then 48 else 24

/-- The group has participated in the barrier's present phase. -/
def Bar.took (b : Bar) (i : Nat) : Bool := aget b.last i == some b.ph

/-- A participation counted (R291, the steps after the release). -/
def Bar.count (b : Bar) (i : Nat) : Bar :=
  let b1 := { b with last := aput b.last i b.ph, arrived := b.arrived + 1 }
  if b1.expect ≠ 0 ∧ b1.arrived = b1.expect then
    { b1 with ph := (b1.ph + 1) % 2 ^ 16, arrived := 0, expect := 0 }
  else b1

/-- The checks on a counted participation, then its release and its count (R291). -/
def State.participate (s : State) (n : Nat) (c : Nat) (k : State → Res) : Res :=
  let b := s.bar n
  let i := groupIdx s.curG
  check (decide (0 < c) && decide (c ≤ s.curTeam.groups)) .barrierMisuse <|
  check (!b.took i) .barrierMisuse <|
  check (b.expect == 0 || b.expect == c) .barrierMisuse <|
  check (decide (b.arrived + 1 ≤ c)) .barrierMisuse <|
  s.release false <| k (s.setBar n ({ b with expect := c }.count i))

/-- The key of the issuing slot's waits on a barrier: its handler's own stand apart from those of the words that
its frames interrupted (R292). -/
def State.barKey (s : State) (n : Nat) : Nat := 96 * s.cur.frames + 2 * n + bnat s.curS

/-- The phase that the issuing slot's barrier word waits for, where it waits already. -/
def State.barPhase (s : State) (n : Nat) : Option Nat :=
  (s.cur.barWait.find? fun w => w.1 == s.barKey n && w.2.1 == s.curPath.pc).map (·.2.2)

/-- The issuing slot's barrier word waits for a phase, or completes when the phase has completed. -/
def State.barUntil (s : State) (n ph : Nat) : Res :=
  let key := s.barKey n
  let s1 := s.modCur fun g =>
    { g with barWait := g.barWait.filter fun w => w.1 != key || w.2.1 != s.curPath.pc }
  if (s.bar n).ph ≠ ph then .done (s1.next 4)
  else
    .wait (s1.modCur fun g =>
      { g.setSlot s.curS { g.slot s.curS with releasing := none } with
        barWait := (key, s.curPath.pc, ph) :: g.barWait })

/-- `bar.a` (R291). -/
def execBarA (bar b : Reg) (wb : Bool) (s : State) : Host.Outcome State Fault Refusal :=
  s.finish <| s.gated ⟨[sg b wb], [], false⟩ <| s.outside <|
    check (decide (bar.val < s.barCount)) .access <|
    s.participate bar.val (s.cur.gval s.curS b.val).toNat fun t =>
      let x := t.bar bar.val
      .done ((t.setBar bar.val { x with owed := insNum x.owed (groupIdx s.curG) }).next 4)

/-- `bar.w` (R291, R292): counted unless the group has participated in the phase, or an earlier `bar.a`
of the group is still to be waited for [A16]. -/
def execBarW (bar : Reg) (s : State) : Host.Outcome State Fault Refusal :=
  s.finish <| s.outside <|
    check (decide (bar.val < s.barCount)) .access <|
    match s.barPhase bar.val with
    | some ph => s.barUntil bar.val ph
    | none =>
      let b := s.bar bar.val
      let i := groupIdx s.curG
      let b1 := { b with owed := b.owed.filter (· != i) }
      if b.owed.contains i then (s.setBar bar.val b1).barUntil bar.val ((aget b.last i).getD 0)
      else if b.took i then s.barUntil bar.val b.ph
      else (s.setBar bar.val (b.count i)).barUntil bar.val b.ph

/-- `bar.s` (R291). -/
def execBarS (bar b : Reg) (wb : Bool) (s : State) : Host.Outcome State Fault Refusal :=
  s.finish <|
    match s.barPhase bar.val with
    | some ph => s.barUntil bar.val ph
    | none =>
      s.gated ⟨[sg b wb], [], false⟩ <| s.outside <|
        check (decide (bar.val < s.barCount)) .access <|
        let x := s.bar bar.val
        s.participate bar.val (s.cur.gval s.curS b.val).toNat fun t =>
          let y := t.bar bar.val
          (t.setBar bar.val { y with owed := y.owed.filter (· != groupIdx s.curG) }).barUntil bar.val
            x.ph

/-! ### Named queues -/

/-- The number of queues that a team names (R293). -/
def State.queueCount (s : State) : Nat := if 72 ≤ s.curLaunch.rpl then 16 else 8

/-- The width of an entry in bytes. -/
def Queue.width (q : Queue) : Nat := 8 * (q.wm1 + 1)

/-- The scratchpad offset of the entry at an index of a queue. -/
def Queue.entry (q : Queue) (i : Nat) : Nat := q.base + i * q.width

/-- The team of the issuing group with a queue set. -/
def State.setQueue (s : State) (n : Nat) (q : Queue) : State :=
  s.modTeam (teamOf s.curG) fun t => { t with queues := aput t.queues n q }

/-- A group of the team waits in `qpsh` or `qpop` on a queue. -/
def State.queueWaited (s : State) (n : Nat) : Bool :=
  (List.range s.curTeam.groups).any fun i =>
    let g := s.group (16 * teamOf s.curG + i)
    g.s0.inQueue == some n || g.s1.inQueue == some n

/-- `qdef` (R293). -/
def execQdef (a q : Reg) (wa : Bool) (wm1 : Fin 8) (depth : Nat) (s : State) :
    Host.Outcome State Fault Refusal :=
  s.finish <| s.gated ⟨[sg a wa], [], false⟩ <| s.outside <|
    check (decide (q.val < s.queueCount)) .access <|
    let h := s.cur.gval s.curS a.val
    let old := aget s.curTeam.queues q.val
    let busy := match old with
      | some x => x.count != 0
      | none => false
    if busy || s.queueWaited q.val then .trap .queueFault (BitVec.ofNat 32 q.val)
    else if depth = 0 then
      .done ((s.modTeam (teamOf s.curG) fun t => { t with queues := adel t.queues q.val }).next 8)
    else
      check (spaceOf h == 1 && field h 19 43 == 0) .handleFault <|
      check (field h 0 19 % 8 == 0) .align <|
      check (decide (field h 0 19 + depth * (8 * (wm1.val + 1)) ≤ s.curLaunch.spad)) .spadRange <|
      .done ((s.setQueue q.val ⟨field h 0 19, depth, wm1.val, 0, 0, 0, depth⟩).next 8)

/-- A queue word whose operands lie at register `r` on, and what it does with its queue. -/
def State.queued (s : State) (q r : Reg) (u : Nat → Uses) (k : Queue → Res) : Res :=
  match aget s.curTeam.queues q.val with
  | some x =>
    if x.wm1 + r.val ≤ 127 then
      s.gated (u (x.wm1 + 1)) <| s.outside <| check (decide (q.val < s.queueCount)) .access <| k x
    else
      s.gated (u 1) <| s.outside <| check (decide (q.val < s.queueCount)) .access <|
        .trap .queueFault (BitVec.ofNat 32 q.val)
  | none =>
    s.gated (u 1) <| s.outside <| check (decide (q.val < s.queueCount)) .access <|
      .trap .queueFault (BitVec.ofNat 32 q.val)

/-- `qpsh` (R294). -/
def execQpsh (a q : Reg) (wa : Bool) (s : State) : Host.Outcome State Fault Refusal :=
  s.finish <| s.queued q a (fun n => ⟨[sgs a n wa], [], false⟩) fun x =>
    if x.allow = 0 then .wait (s.queueing q.val)
    else
      let lo := x.entry x.tail
      if s.acquiring || s.scored (teamOf s.curG) lo (lo + x.width) true then
        .wait (s.queueing q.val)
      else if !s.released false then .wait (s.releasing.queueing q.val)
      else
        let ws := (List.range (x.wm1 + 1)).map fun i => s.cur.gval s.curS (a.val + i)
        let s1 := s.modTeam (teamOf s.curG) fun t => t.putSpad (runOf lo (ws.flatMap fun w => leBytes 8 w.toNat))
        .done ((s1.setQueue q.val
          { x with tail := (x.tail + 1) % x.depth, count := x.count + 1, allow := x.allow - 1 }).next 4)

/-- The uniform registers of a run that a poisoned value fills (R64). -/
def Group.poisonRun (g : Group) (b : Bool) (r n : Nat) : Group :=
  (List.range n).foldl (fun a i => { a with poisonG := a.poisonG ||| regSet 136 (gBit b (r + i)) 1 }) g

/-- `qpop` (R294). -/
def execQpop (d q : Reg) (s : State) : Host.Outcome State Fault Refusal :=
  s.finish <| s.queued q d (fun n => ⟨[], [dgs d n], false⟩) fun x =>
    let lo := x.entry x.head
    if x.count = 0 || s.acquiring || s.scored (teamOf s.curG) lo (lo + x.width) false then
      .wait (s.queueing q.val)
    else
      let n := x.wm1 + 1
      let t := s.curTeam
      let b := t.spadBytes lo x.width
      let bad := (List.range n).filter fun i => t.spadPoison.contains ((lo + 8 * i) / 32)
      let s1 := s.modCur fun g =>
        bad.foldl (fun a i => a.poisonRun s.curS (d.val + i) 1)
          ((List.range n).foldl (fun a i => a.setG s.curS (d.val + i) (dwOf b i)) g)
      .done ((s1.setQueue q.val
        { x with head := (x.head + 1) % x.depth, count := x.count - 1, allow := x.allow + 1 }).next 4)

/-! ### Fences -/

/-- The reads that the issuing slot has under way become acquires: later accesses of the slot come after
them (R151). -/
def State.acquireReads (s : State) : State :=
  { s with fills := s.fills.map fun f =>
      if f.gid = s.curG ∧ f.slot1 = s.curS ∧ f.isRead then { f with acq := true } else f }

/-- `fnc` (R151, R194). -/
def execFnc (obs : Obs) (ord : Order) (s : State) : Host.Outcome State Fault Refusal :=
  s.finish <| s.outside <|
    match ord with
    | .acquire => .done (s.acquireReads.next 8)
    | _ => s.release (obs.c || obs.x || obs.m || obs.p || obs.h) (.done (s.next 8))

/-! ### Handle forming -/

/-- A cluster-scratchpad handle (R26). -/
def spadHandle (core gen off : Nat) : W64 :=
  BitVec.ofNat 64 (2 * 2 ^ 62 + core * 2 ^ 36 + gen * 2 ^ 20 + off)

/-- The handle that a cluster-scratchpad mode of `thdl` forms for a team, the checks first. -/
def State.peerHandle (s : State) (h : W64) (team : Option Nat) : Except Cause W64 :=
  need (spaceOf h == 1 && field h 19 43 == 0) .handleFault <|
  match team with
  | none => .error .spadStale
  | some t =>
    need (decide (field h 0 19 < s.curLaunch.spad)) .spadRange <|
    .ok (spadHandle ((s.team t).core % 16) (s.team t).gen.toNat (field h 0 19))

/-- The handle that `thdl` forms (R196). -/
def State.formHandle (s : State) (h : W64) (mode : ThdlMode) (core : Nat) : Except Cause W64 :=
  match mode with
  | .tab =>
    let tid := h.toNat
    need (decide (tid < 2 ^ 20)) .handleFault <|
    need (!(s.table tid).poisonDesc) .poison <|
    need ((s.table tid).usable tid) .tableAbsent <|
    need (s.curLaunch.reads tid || s.curLaunch.writesTo tid) .access <|
    .ok (handle tid 0)
  | .self => s.peerHandle h (some (teamOf s.curG))
  | .peer => s.peerHandle h (s.teamOn (launchOfTeam (teamOf s.curG)) (s.curCluster * 16 + core))

/-- `thdl` (R196). -/
def execThdl (d a : Reg) (wa : Bool) (mode : ThdlMode) (core : Fin 16) (s : State) :
    Host.Outcome State Fault Refusal :=
  s.finish <| s.gated ⟨[sg a wa], [dg d], false⟩ <|
    match s.formHandle (s.cur.gval s.curS a.val) mode core.val with
    | .error r => .trap r 0
    | .ok h => .done (s.uniResult d 8 (plain64 h))

/-! ### Child launches waited for -/

/-- `lwt` (R296). -/
def execLwt (a : Reg) (wa : Bool) (s : State) : Host.Outcome State Fault Refusal :=
  s.finish <| s.gated ⟨[sg a wa], [], false⟩ <| s.outside <|
    let id := (lo32 (s.cur.gval s.curS a.val)).toNat
    if id = 0 then .done (s.next 4)
    else
      match s.curTeam.children.find? fun c => c % 2 ^ 32 == id with
      | none => .trap .access 0
      | some c => if (s.launch c).phase == .ended then .done (s.next 4) else .wait s

end Sys2Proof.Machine
end

