-- ==== Sys2Proof/Machine/UniMem.lean ====
section
/-! DEFINITION. The uniform loads, stores, atomics and reductions (R190 to R193). -/

namespace Sys2Proof.Machine

/-- `gld` (R190). -/
def execGld (d a : Reg) (wa sx : Bool) (m : MemExt) (s : State) : Host.Outcome State Fault Refusal :=
  s.finish (s.load false true d.val a.val sx m ⟨[sg a wa], [dgs d m.wid.uniRegs], false⟩)

/-- `gst` (R190). -/
def execGst (a b : Reg) (wa wb : Bool) (m : MemExt) (s : State) : Host.Outcome State Fault Refusal :=
  s.finish (s.store false true a.val b.val m ⟨[sg a wa, sgs b m.wid.uniRegs wb], [], false⟩)

/-- The uniform registers of an atomic's operand B (R191). -/
def atomUni (op : AtomOp) : Nat := if op == .cas then 2 else 1

/-- `gatm` (R191). -/
def execGatm (d a b : Reg) (wa wb : Bool) (op : AtomOp) (m : MemExt) (s : State) :
    Host.Outcome State Fault Refusal :=
  s.finish (s.atomic false true true d.val a.val b.val op m
    ⟨[sg a wa, sgs b (atomUni op) wb], [dg d], false⟩)

/-- `gred` (R191). -/
def execGred (a b : Reg) (wa wb : Bool) (op : AtomOp) (m : MemExt) (s : State) :
    Host.Outcome State Fault Refusal :=
  s.finish (s.atomic false true false 0 a.val b.val op m ⟨[sg a wa, sg b wb], [], false⟩)

end Sys2Proof.Machine
end

