-- ==== Sys2Proof/Machine/Uniform.lean ====
section
/-! DEFINITION. Uniform integer and floating-point arithmetic (R116, R117). -/

namespace Sys2Proof.Machine

/-- `gadd` (R116). -/
def execGadd (d a b : Reg) (wa wb : Bool) (s : State) : Host.Outcome State Fault Refusal :=
  s.finish (s.uni2 d a b wa wb 4 fun x y => plain64 (x + y))
/-- `gsub` (R116). -/
def execGsub (d a b : Reg) (wa wb : Bool) (s : State) : Host.Outcome State Fault Refusal :=
  s.finish (s.uni2 d a b wa wb 4 fun x y => plain64 (x - y))
/-- `gmul` (R116). -/
def execGmul (d a b : Reg) (wa wb : Bool) (s : State) : Host.Outcome State Fault Refusal :=
  s.finish (s.uni2 d a b wa wb 4 fun x y => plain64 (x * y))
/-- `gmad` (R116). -/
def execGmad (d a b c : Reg) (wa wb wc : Bool) (s : State) : Host.Outcome State Fault Refusal :=
  s.finish (s.uni3 d a b c wa wb wc 8 fun x y z => plain64 (x * y + z))
/-- `gmulh` (R116). -/
def execGmulh (d a b : Reg) (wa wb signed : Bool) (s : State) : Host.Outcome State Fault Refusal :=
  s.finish (s.uni2 d a b wa wb 8 fun x y => plain64 (mulHigh signed x y))
/-- `gand` (R116). -/
def execGand (d a b : Reg) (wa wb : Bool) (s : State) : Host.Outcome State Fault Refusal :=
  s.finish (s.uni2 d a b wa wb 4 fun x y => plain64 (x &&& y))
/-- `gor` (R116). -/
def execGor (d a b : Reg) (wa wb : Bool) (s : State) : Host.Outcome State Fault Refusal :=
  s.finish (s.uni2 d a b wa wb 4 fun x y => plain64 (x ||| y))
/-- `gxor` (R116). -/
def execGxor (d a b : Reg) (wa wb : Bool) (s : State) : Host.Outcome State Fault Refusal :=
  s.finish (s.uni2 d a b wa wb 4 fun x y => plain64 (x ^^^ y))
/-- `gshl` (R116). -/
def execGshl (d a b : Reg) (wa wb : Bool) (s : State) : Host.Outcome State Fault Refusal :=
  s.finish (s.uni2 d a b wa wb 4 fun x y => plain64 (shiftLeft x y))
/-- `gshr` (R116). -/
def execGshr (d a b : Reg) (wa wb : Bool) (s : State) : Host.Outcome State Fault Refusal :=
  s.finish (s.uni2 d a b wa wb 4 fun x y => plain64 (shiftRight x y))
/-- `gsar` (R116). -/
def execGsar (d a b : Reg) (wa wb : Bool) (s : State) : Host.Outcome State Fault Refusal :=
  s.finish (s.uni2 d a b wa wb 4 fun x y => plain64 (shiftArith x y))
/-- `gmin` (R116). -/
def execGmin (d a b : Reg) (wa wb : Bool) (s : State) : Host.Outcome State Fault Refusal :=
  s.finish (s.uni2 d a b wa wb 4 fun x y => plain64 (minMax false true x y))
/-- `gminn` (R116). -/
def execGminn (d a b : Reg) (wa wb : Bool) (s : State) : Host.Outcome State Fault Refusal :=
  s.finish (s.uni2 d a b wa wb 4 fun x y => plain64 (minMax false false x y))
/-- `gmax` (R116). -/
def execGmax (d a b : Reg) (wa wb : Bool) (s : State) : Host.Outcome State Fault Refusal :=
  s.finish (s.uni2 d a b wa wb 4 fun x y => plain64 (minMax true true x y))
/-- `gmaxn` (R116). -/
def execGmaxn (d a b : Reg) (wa wb : Bool) (s : State) : Host.Outcome State Fault Refusal :=
  s.finish (s.uni2 d a b wa wb 4 fun x y => plain64 (minMax true false x y))

/-- The comparison of `gcmp`: 64 bits for TYPE 3 and 7, bits [31:0] for TYPE 2 and 6 (R116). -/
def gcmpBits (cond : Cond) (ty : Ty) (x y : W64) : Bool :=
  match ty with
  | .i64 => intCmp cond true x y
  | .n64 => intCmp cond false x y
  | .i32 => intCmp cond true (lo32 x) (lo32 y)
  | _ => intCmp cond false (lo32 x) (lo32 y)

/-- `gcmp` (R116). -/
def execGcmp (d a b : Reg) (wa wb : Bool) (cond : Cond) (ty : Ty) (s : State) :
    Host.Outcome State Fault Refusal :=
  s.finish (s.uni2 d a b wa wb 8 fun x y => plain64 (bit64 (gcmpBits cond ty x y)))
/-- `gsel` (R116). -/
def execGsel (d a b c : Reg) (wa wb wc : Bool) (s : State) : Host.Outcome State Fault Refusal :=
  s.finish (s.uni3 d a b c wa wb wc 8 fun x y z => plain64 (if z = 0 then y else x))
/-- `gmov` (R116). -/
def execGmov (d a : Reg) (wa : Bool) (s : State) : Host.Outcome State Fault Refusal :=
  s.finish (s.uni1 d a wa 4 plain64)
/-- `gli` (R116). -/
def execGli (d : Reg) (imm : W32) (s : State) : Host.Outcome State Fault Refusal :=
  s.finish (s.gated ⟨[], [dg d], false⟩ (.done (s.uniResult d 8 (plain64 (imm.signExtend 64)))))
/-- `glih`, which reads its destination (R116, R97). -/
def execGlih (d : Reg) (imm : W32) (s : State) : Host.Outcome State Fault Refusal :=
  s.finish (s.gated ⟨[sg d false], [dg d], false⟩
    (.done (s.uniResult d 8 (plain64 (join64 (lo32 (s.cur.gval s.curS d.val)) imm)))))
/-- `gcnt` (R116). -/
def execGcnt (d a : Reg) (wa : Bool) (s : State) : Host.Outcome State Fault Refusal :=
  s.finish (s.uni1 d a wa 4 fun x => plain64 (BitVec.ofNat 64 (popCount x)))
/-- `gclz` (R116). -/
def execGclz (d a : Reg) (wa : Bool) (s : State) : Host.Outcome State Fault Refusal :=
  s.finish (s.uni1 d a wa 4 fun x => plain64 (BitVec.ofNat 64 (leadZeros x)))

/-- An FP32 result zero-extended into a uniform register (R117). -/
def widen64 (r : W32 × Flags) : W64 × Flags := (r.1.setWidth 64, r.2)

/-- `gfadd` (R117). -/
def execGfadd (d a b : Reg) (wa wb : Bool) (s : State) : Host.Outcome State Fault Refusal :=
  s.finish (s.uni2 d a b wa wb 4 fun x y => widen64 (faddW s.curMode (lo32 x) (lo32 y)))
/-- `gfmul` (R117). -/
def execGfmul (d a b : Reg) (wa wb : Bool) (s : State) : Host.Outcome State Fault Refusal :=
  s.finish (s.uni2 d a b wa wb 4 fun x y => widen64 (fmulW s.curMode (lo32 x) (lo32 y)))
/-- `gfma` (R117). -/
def execGfma (d a b c : Reg) (wa wb wc : Bool) (s : State) : Host.Outcome State Fault Refusal :=
  s.finish (s.uni3 d a b c wa wb wc 8 fun x y z =>
    widen64 (fmaW s.curMode (lo32 x) (lo32 y) (lo32 z)))
/-- `gfcmp` (R117). -/
def execGfcmp (d a b : Reg) (wa wb : Bool) (cond : Cond) (s : State) :
    Host.Outcome State Fault Refusal :=
  s.finish (s.uni2 d a b wa wb 8 fun x y => widen64 (fcmpW s.curMode cond (lo32 x) (lo32 y)))
/-- `gcvt` (R102, R117). -/
def execGcvt (d a : Reg) (wa : Bool) (dst src : Ty) (s : State) : Host.Outcome State Fault Refusal :=
  s.finish (s.uni1 d a wa 8 fun x =>
    let r := convert dst src s.curMode 64 x.toNat
    (BitVec.ofNat 64 r.1, r.2))

end Sys2Proof.Machine
end

