-- ==== Sys2Proof/Machine/Dispatch.lean ====
section
/-! DEFINITION. The meaning of each instruction and event: one arm per constructor of Instr. -/

namespace Sys2Proof.Machine

open Sys2Proof

/-- The outcome of an instruction word or an event at a state. -/
def exec (i : Instr) (s : State) : Host.Outcome State Fault Refusal :=
  match i with
  | .nop => Sys2Proof.Machine.execNop s
  | .exit => Sys2Proof.Machine.execExit s
  | .br toff => Sys2Proof.Machine.execBr toff s
  | .brc a wa n toff joff => Sys2Proof.Machine.execBrc a wa n toff joff s
  | .call d toff => Sys2Proof.Machine.execCall d toff s
  | .ret a wa => Sys2Proof.Machine.execRet a wa s
  | .jmp a wa => Sys2Proof.Machine.execJmp a wa s
  | .trap imm => Sys2Proof.Machine.execTrap imm s
  | .pdp a wa n => Sys2Proof.Machine.execPdp a wa n s
  | .pdi => Sys2Proof.Machine.execPdi s
  | .pdo => Sys2Proof.Machine.execPdo s
  | .fmts img => Sys2Proof.Machine.execFmts img s
  | .gsr d sp => Sys2Proof.Machine.execGsr d sp s
  | .gssr sp a wa => Sys2Proof.Machine.execGssr sp a wa s
  | .wfull lane a wa => Sys2Proof.Machine.execWfull lane a wa s
  | .gadd d a b wa wb => Sys2Proof.Machine.execGadd d a b wa wb s
  | .gsub d a b wa wb => Sys2Proof.Machine.execGsub d a b wa wb s
  | .gmul d a b wa wb => Sys2Proof.Machine.execGmul d a b wa wb s
  | .gmad d a b c wa wb wc => Sys2Proof.Machine.execGmad d a b c wa wb wc s
  | .gmulh d a b wa wb signed => Sys2Proof.Machine.execGmulh d a b wa wb signed s
  | .gand d a b wa wb => Sys2Proof.Machine.execGand d a b wa wb s
  | .gor d a b wa wb => Sys2Proof.Machine.execGor d a b wa wb s
  | .gxor d a b wa wb => Sys2Proof.Machine.execGxor d a b wa wb s
  | .gshl d a b wa wb => Sys2Proof.Machine.execGshl d a b wa wb s
  | .gshr d a b wa wb => Sys2Proof.Machine.execGshr d a b wa wb s
  | .gsar d a b wa wb => Sys2Proof.Machine.execGsar d a b wa wb s
  | .gmin d a b wa wb => Sys2Proof.Machine.execGmin d a b wa wb s
  | .gminn d a b wa wb => Sys2Proof.Machine.execGminn d a b wa wb s
  | .gmax d a b wa wb => Sys2Proof.Machine.execGmax d a b wa wb s
  | .gmaxn d a b wa wb => Sys2Proof.Machine.execGmaxn d a b wa wb s
  | .gcmp d a b wa wb cond ty => Sys2Proof.Machine.execGcmp d a b wa wb cond ty s
  | .gsel d a b c wa wb wc => Sys2Proof.Machine.execGsel d a b c wa wb wc s
  | .gmov d a wa => Sys2Proof.Machine.execGmov d a wa s
  | .gli d imm => Sys2Proof.Machine.execGli d imm s
  | .glih d imm => Sys2Proof.Machine.execGlih d imm s
  | .gcnt d a wa => Sys2Proof.Machine.execGcnt d a wa s
  | .gclz d a wa => Sys2Proof.Machine.execGclz d a wa s
  | .gfadd d a b wa wb => Sys2Proof.Machine.execGfadd d a b wa wb s
  | .gfmul d a b wa wb => Sys2Proof.Machine.execGfmul d a b wa wb s
  | .gfma d a b c wa wb wc => Sys2Proof.Machine.execGfma d a b c wa wb wc s
  | .gfcmp d a b wa wb cond => Sys2Proof.Machine.execGfcmp d a b wa wb cond s
  | .gcvt d a wa dst src => Sys2Proof.Machine.execGcvt d a wa dst src s
  | .barA bar b wb => Sys2Proof.Machine.execBarA bar b wb s
  | .barW bar => Sys2Proof.Machine.execBarW bar s
  | .barS bar b wb => Sys2Proof.Machine.execBarS bar b wb s
  | .qdef a q wa wm1 depth => Sys2Proof.Machine.execQdef a q wa wm1 depth s
  | .qpsh a q wa => Sys2Proof.Machine.execQpsh a q wa s
  | .qpop d q => Sys2Proof.Machine.execQpop d q s
  | .fnc obs ord => Sys2Proof.Machine.execFnc obs ord s
  | .sdef a b wa wb => Sys2Proof.Machine.execSdef a b wa wb s
  | .sacq a wa => Sys2Proof.Machine.execSacq a wa s
  | .srel a wa => Sys2Proof.Machine.execSrel a wa s
  | .yieldp => Sys2Proof.Machine.execYieldp s
  | .hret => Sys2Proof.Machine.execHret s
  | .lnch d a wa => Sys2Proof.Machine.execLnch d a wa s
  | .lwt a wa => Sys2Proof.Machine.execLwt a wa s
  | .xring a b wa wb count => Sys2Proof.Machine.execXring a b wa wb count s
  | .xseal d => Sys2Proof.Machine.execXseal d s
  | .xwait cnt => Sys2Proof.Machine.execXwait cnt s
  | .mseal d => Sys2Proof.Machine.execMseal d s
  | .mwait cnt => Sys2Proof.Machine.execMwait cnt s
  | .mzero t => Sys2Proof.Machine.execMzero t s
  | .mld t a wa => Sys2Proof.Machine.execMld t a wa s
  | .mst t a wa => Sys2Proof.Machine.execMst t a wa s
  | .mma t a b wa wb => Sys2Proof.Machine.execMma t a b wa wb s
  | .mmac t a b wa wb num => Sys2Proof.Machine.execMmac t a b wa wb num s
  | .tgath a b c wa wb ty cnt dft => Sys2Proof.Machine.execTgath a b c wa wb ty cnt dft s
  | .rcall d a b c wa wb wc may trp nr np => Sys2Proof.Machine.execRcall d a b c wa wb wc may trp nr np s
  | .fbeg => Sys2Proof.Machine.execFbeg s
  | .fend => Sys2Proof.Machine.execFend s
  | .fabt => Sys2Proof.Machine.execFabt s
  | .fsta d => Sys2Proof.Machine.execFsta d s
  | .gld d a wa sx m => Sys2Proof.Machine.execGld d a wa sx m s
  | .gst a b wa wb m => Sys2Proof.Machine.execGst a b wa wb m s
  | .gatm d a b wa wb op m => Sys2Proof.Machine.execGatm d a b wa wb op m s
  | .gred a b wa wb op m => Sys2Proof.Machine.execGred a b wa wb op m s
  | .thdl d a wa mode core => Sys2Proof.Machine.execThdl d a wa mode core s
  | .tgetU d a b c wa wb ty dft acq => Sys2Proof.Machine.execTgetU d a b c wa wb ty dft acq s
  | .tinsU d a b wa wb tag prov => Sys2Proof.Machine.execTinsU d a b wa wb tag prov s
  | .tdelU d a b wa wb ty => Sys2Proof.Machine.execTdelU d a b wa wb ty s
  | .trep d a b wa wb => Sys2Proof.Machine.execTrep d a b wa wb s
  | .tcom d a b wa wb ty tag => Sys2Proof.Machine.execTcom d a b wa wb ty tag s
  | .trbk d a b wa wb ty tag => Sys2Proof.Machine.execTrbk d a b wa wb ty tag s
  | .tinfo d a wa sel => Sys2Proof.Machine.execTinfo d a wa sel s
  | .cwb a b wa wb => Sys2Proof.Machine.execCwb a b wa wb s
  | .cinv a b wa wb => Sys2Proof.Machine.execCinv a b wa wb s
  | .cret d a b wa wb ways => Sys2Proof.Machine.execCret d a b wa wb ways s
  | .cunp a wa => Sys2Proof.Machine.execCunp a wa s
  | .chmode a b wa wb mode => Sys2Proof.Machine.execChmode a b wa wb mode s
  | .aphl a b wa wb => Sys2Proof.Machine.execAphl a b wa wb s
  | .iaddI32 d a b wa wb n => Sys2Proof.Machine.execIaddI32 d a b wa wb n s
  | .isubI32 d a b wa wb n => Sys2Proof.Machine.execIsubI32 d a b wa wb n s
  | .imulI32 d a b wa wb n => Sys2Proof.Machine.execImulI32 d a b wa wb n s
  | .imulhI32 d a b wa wb n => Sys2Proof.Machine.execImulhI32 d a b wa wb n s
  | .imulhN32 d a b wa wb n => Sys2Proof.Machine.execImulhN32 d a b wa wb n s
  | .imadI32 d a b c wa wb wc n => Sys2Proof.Machine.execImadI32 d a b c wa wb wc n s
  | .iaddI64 d a b wa wb n => Sys2Proof.Machine.execIaddI64 d a b wa wb n s
  | .isubI64 d a b wa wb n => Sys2Proof.Machine.execIsubI64 d a b wa wb n s
  | .iminI32 d a b wa wb n => Sys2Proof.Machine.execIminI32 d a b wa wb n s
  | .iminN32 d a b wa wb n => Sys2Proof.Machine.execIminN32 d a b wa wb n s
  | .imaxI32 d a b wa wb n => Sys2Proof.Machine.execImaxI32 d a b wa wb n s
  | .imaxN32 d a b wa wb n => Sys2Proof.Machine.execImaxN32 d a b wa wb n s
  | .iabs d a wa n => Sys2Proof.Machine.execIabs d a wa n s
  | .ineg d a wa n => Sys2Proof.Machine.execIneg d a wa n s
  | .idivI32 d a b wa wb n => Sys2Proof.Machine.execIdivI32 d a b wa wb n s
  | .idivN32 d a b wa wb n => Sys2Proof.Machine.execIdivN32 d a b wa wb n s
  | .iand d a b wa wb n => Sys2Proof.Machine.execIand d a b wa wb n s
  | .ior d a b wa wb n => Sys2Proof.Machine.execIor d a b wa wb n s
  | .ixor d a b wa wb n => Sys2Proof.Machine.execIxor d a b wa wb n s
  | .inot d a wa n => Sys2Proof.Machine.execInot d a wa n s
  | .ishl d a b wa wb n => Sys2Proof.Machine.execIshl d a b wa wb n s
  | .ishr d a b wa wb n => Sys2Proof.Machine.execIshr d a b wa wb n s
  | .isar d a b wa wb n => Sys2Proof.Machine.execIsar d a b wa wb n s
  | .ibfe d a wa n signed pos lm1 => Sys2Proof.Machine.execIbfe d a wa n signed pos lm1 s
  | .ibfi d a wa n pos lm1 => Sys2Proof.Machine.execIbfi d a wa n pos lm1 s
  | .icnt d a wa n => Sys2Proof.Machine.execIcnt d a wa n s
  | .iclz d a wa n => Sys2Proof.Machine.execIclz d a wa n s
  | .icmp d a b wa wb n cond signed => Sys2Proof.Machine.execIcmp d a b wa wb n cond signed s
  | .isel d a b c wa wb wc n => Sys2Proof.Machine.execIsel d a b c wa wb wc n s
  | .ipk d a b wa wb n => Sys2Proof.Machine.execIpk d a b wa wb n s
  | .imov d a wa n => Sys2Proof.Machine.execImov d a wa n s
  | .ili d n imm => Sys2Proof.Machine.execIli d n imm s
  | .faddF32 d a b wa wb n => Sys2Proof.Machine.execFaddF32 d a b wa wb n s
  | .fsubF32 d a b wa wb n => Sys2Proof.Machine.execFsubF32 d a b wa wb n s
  | .fmulF32 d a b wa wb n => Sys2Proof.Machine.execFmulF32 d a b wa wb n s
  | .fmaF32 d a b c wa wb wc n => Sys2Proof.Machine.execFmaF32 d a b c wa wb wc n s
  | .fminF32 d a b wa wb n => Sys2Proof.Machine.execFminF32 d a b wa wb n s
  | .fmaxF32 d a b wa wb n => Sys2Proof.Machine.execFmaxF32 d a b wa wb n s
  | .fcmpF32 d a b wa wb n cond => Sys2Proof.Machine.execFcmpF32 d a b wa wb n cond s
  | .fabs d a wa n => Sys2Proof.Machine.execFabs d a wa n s
  | .faddH2 d a b wa wb n bf => Sys2Proof.Machine.execFaddH2 d a b wa wb n bf s
  | .fmulH2 d a b wa wb n bf => Sys2Proof.Machine.execFmulH2 d a b wa wb n bf s
  | .fmaH2 d a b c wa wb wc n bf => Sys2Proof.Machine.execFmaH2 d a b c wa wb wc n bf s
  | .fdp2 d a b c wa wb wc n bf => Sys2Proof.Machine.execFdp2 d a b c wa wb wc n bf s
  | .frcp d a wa n => Sys2Proof.Machine.execFrcp d a wa n s
  | .frsq d a wa n => Sys2Proof.Machine.execFrsq d a wa n s
  | .fsqrt d a wa n => Sys2Proof.Machine.execFsqrt d a wa n s
  | .fdivF32 d a b wa wb n => Sys2Proof.Machine.execFdivF32 d a b wa wb n s
  | .fex2 d a wa n => Sys2Proof.Machine.execFex2 d a wa n s
  | .flg2 d a wa n => Sys2Proof.Machine.execFlg2 d a wa n s
  | .fsnp d a wa n => Sys2Proof.Machine.execFsnp d a wa n s
  | .fcsp d a wa n => Sys2Proof.Machine.execFcsp d a wa n s
  | .ftnh d a wa n => Sys2Proof.Machine.execFtnh d a wa n s
  | .cvt d a wa n dst src => Sys2Proof.Machine.execCvt d a wa n dst src s
  | .xpk d a c wa n x4 => Sys2Proof.Machine.execXpk d a c wa n x4 s
  | .xupk d a c wa wc n x4 => Sys2Proof.Machine.execXupk d a c wa wc n x4 s
  | .shfl d a b wa wb n mode => Sys2Proof.Machine.execShfl d a b wa wb n mode s
  | .gtov d a wa n => Sys2Proof.Machine.execGtov d a wa n s
  | .vtog d a b wa wb => Sys2Proof.Machine.execVtog d a b wa wb s
  | .vred d a wa n op ty => Sys2Proof.Machine.execVred d a wa n op ty s
  | .vscn d a wa n op ty => Sys2Proof.Machine.execVscn d a wa n op ty s
  | .vote d a wa n mode => Sys2Proof.Machine.execVote d a wa n mode s
  | .ipfx d a wa n => Sys2Proof.Machine.execIpfx d a wa n s
  | .rnd d a wa n => Sys2Proof.Machine.execRnd d a wa n s
  | .samp d a b c wa wb wc n => Sys2Proof.Machine.execSamp d a b c wa wb wc n s
  | .ld d a wa n sx m => Sys2Proof.Machine.execLd d a wa n sx m s
  | .st a b wa wb n m => Sys2Proof.Machine.execSt a b wa wb n m s
  | .atm d a b wa wb n op m => Sys2Proof.Machine.execAtm d a b wa wb n op m s
  | .red a b wa wb n op m => Sys2Proof.Machine.execRed a b wa wb n op m s
  | .trd d a wa n acq len => Sys2Proof.Machine.execTrd d a wa n acq len s
  | .tgetV d a b c wa wb n ty dft acq => Sys2Proof.Machine.execTgetV d a b c wa wb n ty dft acq s
  | .tinsV d a b wa wb n tag prov => Sys2Proof.Machine.execTinsV d a b wa wb n tag prov s
  | .tdelV d a b wa wb n ty => Sys2Proof.Machine.execTdelV d a b wa wb n ty s
  | .tscn d a b c wa wb wc n ty dsc => Sys2Proof.Machine.execTscn d a b c wa wb wc n ty dsc s
  | .tstp d a c wa n ty acq => Sys2Proof.Machine.execTstp d a c wa n ty acq s
  | .rcallv d a b c wa wb wc n may trp nr np => Sys2Proof.Machine.execRcallv d a b c wa wb wc n may trp nr np s
  | .pathArrive gid slot => Sys2Proof.Machine.execPathArrive gid slot s
  | .registerFill x => Sys2Proof.Machine.execRegisterFill x s
  | .handleWalkComplete die page => Sys2Proof.Machine.execHandleWalkComplete die page s
  | .writeAck x => Sys2Proof.Machine.execWriteAck x s
  | .l1Eviction cluster line => Sys2Proof.Machine.execL1Eviction cluster line s
  | .homeWriteApply x => Sys2Proof.Machine.execHomeWriteApply x s
  | .homeAtomicApply id => Sys2Proof.Machine.execHomeAtomicApply id s
  | .packetArrival src dst seq => Sys2Proof.Machine.execPacketArrival src dst seq s
  | .flushMarkerArrival src dst seq path => Sys2Proof.Machine.execFlushMarkerArrival src dst seq path s
  | .linkRetransmit src dst seq => Sys2Proof.Machine.execLinkRetransmit src dst seq s
  | .scoreboardEntryRetire core op w => Sys2Proof.Machine.execScoreboardEntryRetire core op w s
  | .engineLineApply x => Sys2Proof.Machine.execEngineLineApply x s
  | .spadDeliveryArrival id target => Sys2Proof.Machine.execSpadDeliveryArrival id target s
  | .copyEntryComplete id => Sys2Proof.Machine.execCopyEntryComplete id s
  | .atsInvalidation fn lo hi => Sys2Proof.Machine.execAtsInvalidation fn lo hi s
  | .atsTranslationResponse id granted => Sys2Proof.Machine.execAtsTranslationResponse id granted s
  | .gatherComplete id => Sys2Proof.Machine.execGatherComplete id s
  | .matrixOpStart id => Sys2Proof.Machine.execMatrixOpStart id s
  | .matrixOpComplete id => Sys2Proof.Machine.execMatrixOpComplete id s
  | .mmacRendezvous launch gang num => Sys2Proof.Machine.execMmacRendezvous launch gang num s
  | .matrixNarrow core => Sys2Proof.Machine.execMatrixNarrow core s
  | .regionCommit gid => Sys2Proof.Machine.execRegionCommit gid s
  | .regionAbortSource gid => Sys2Proof.Machine.execRegionAbortSource gid s
  | .relocationStart tid slot stack => Sys2Proof.Machine.execRelocationStart tid slot stack s
  | .relocationFlip tid slot => Sys2Proof.Machine.execRelocationFlip tid slot s
  | .rcallExecute id => Sys2Proof.Machine.execRcallExecute id s
  | .rcallReply id => Sys2Proof.Machine.execRcallReply id s
  | .rcallTimeout id => Sys2Proof.Machine.execRcallTimeout id s
  | .aphidSweepStep ch => Sys2Proof.Machine.execAphidSweepStep ch s
  | .activationAlert ch => Sys2Proof.Machine.execActivationAlert ch s
  | .launchReferenceTake q => Sys2Proof.Machine.execLaunchReferenceTake q s
  | .keyUnseal launch => Sys2Proof.Machine.execKeyUnseal launch s
  | .routeLoad launch crcOk => Sys2Proof.Machine.execRouteLoad launch crcOk s
  | .routeProbeTimeout launch => Sys2Proof.Machine.execRouteProbeTimeout launch s
  | .railsStable launch => Sys2Proof.Machine.execRailsStable launch s
  | .priorityAging launch => Sys2Proof.Machine.execPriorityAging launch s
  | .preemptSignal launch team => Sys2Proof.Machine.execPreemptSignal launch team s
  | .preemptEntry gid => Sys2Proof.Machine.execPreemptEntry gid s
  | .preemptDeadlineMiss team => Sys2Proof.Machine.execPreemptDeadlineMiss team s
  | .teamResume team => Sys2Proof.Machine.execTeamResume team s
  | .trapEntry gid slot code detail => Sys2Proof.Machine.execTrapEntry gid slot code detail s
  | .launchRetire launch => Sys2Proof.Machine.execLaunchRetire launch s
  | .completionRecordWrite q => Sys2Proof.Machine.execCompletionRecordWrite q s
  | .unitFailure kind n => Sys2Proof.Machine.execUnitFailure kind n s
  | .pseudoChannelRetire ch => Sys2Proof.Machine.execPseudoChannelRetire ch s
  | .channelNarrow ch => Sys2Proof.Machine.execChannelNarrow ch s
  | .eccUncorrectable tgt => Sys2Proof.Machine.execEccUncorrectable tgt s
  | .dieOvertemp die => Sys2Proof.Machine.execDieOvertemp die s
  | .moduleReset msg => Sys2Proof.Machine.execModuleReset msg s
  | .functionLevelReset tenant => Sys2Proof.Machine.execFunctionLevelReset tenant s
  | .ideCheckFailure stream => Sys2Proof.Machine.execIdeCheckFailure stream s
  | .stopInterface tenant => Sys2Proof.Machine.execStopInterface tenant s
  | .tdispRequest tenant msg => Sys2Proof.Machine.execTdispRequest tenant msg s
  | .setWrapKey tenant msg => Sys2Proof.Machine.execSetWrapKey tenant msg s
  | .challenge nonce => Sys2Proof.Machine.execChallenge nonce s
  | .getMeasurements index nonce => Sys2Proof.Machine.execGetMeasurements index nonce s
  | .keyExchange peer => Sys2Proof.Machine.execKeyExchange peer s
  | .tblCreate fn => Sys2Proof.Machine.execTblCreate fn s
  | .tblModify fn => Sys2Proof.Machine.execTblModify fn s
  | .tblDestroy fn => Sys2Proof.Machine.execTblDestroy fn s
  | .tblLoad fn => Sys2Proof.Machine.execTblLoad fn s
  | .tblRead fn => Sys2Proof.Machine.execTblRead fn s
  | .tblRebuild fn => Sys2Proof.Machine.execTblRebuild fn s
  | .stop fn => Sys2Proof.Machine.execStop fn s
  | .chmap fn => Sys2Proof.Machine.execChmap fn s
  | .qassign fn => Sys2Proof.Machine.execQassign fn s
  | .masks fn => Sys2Proof.Machine.execMasks fn s
  | .reserve fn => Sys2Proof.Machine.execReserve fn s
  | .clearStart fn => Sys2Proof.Machine.execClearStart fn s
  | .sqtailDoorbell fn q val => Sys2Proof.Machine.execSqtailDoorbell fn q val s
  | .cqheadWrite fn q val => Sys2Proof.Machine.execCqheadWrite fn q val s
  | .registerWrite fn off val => Sys2Proof.Machine.execRegisterWrite fn off val s
  | .hostLinkTraining rate width cxl => Sys2Proof.Machine.execHostLinkTraining rate width cxl s
  | .vfEnable tenant on => Sys2Proof.Machine.execVfEnable tenant on s
  | .launchDispatch => Sys2Proof.Machine.execLaunchDispatch s
  | .teamPlace => Sys2Proof.Machine.execTeamPlace s
  | .gangStart => Sys2Proof.Machine.execGangStart s
  | .candidateTakeover => Sys2Proof.Machine.execCandidateTakeover s
  | .victimSelect => Sys2Proof.Machine.execVictimSelect s
  | .powerAlarmRaise => Sys2Proof.Machine.execPowerAlarmRaise s
  | .powerAlarmClear => Sys2Proof.Machine.execPowerAlarmClear s
  | .getVersion => Sys2Proof.Machine.execGetVersion s
  | .getCapabilities => Sys2Proof.Machine.execGetCapabilities s
  | .negotiateAlgorithms => Sys2Proof.Machine.execNegotiateAlgorithms s
  | .getDigests => Sys2Proof.Machine.execGetDigests s
  | .getCertificate => Sys2Proof.Machine.execGetCertificate s
  | .finish => Sys2Proof.Machine.execFinish s
  | .correctedError => Sys2Proof.Machine.execCorrectedError s

end Sys2Proof.Machine
end

