-- ==== Sys2Proof/Machine/Fetch.lean ====
section
/-! DEFINITION. The next word of a slot (R70 step 1), the choice of the next slot of a core and pipe (R277),
the choice of the next event, and the clock. -/

namespace Sys2Proof.Machine

/-! ### Fetching (R70, R280) -/

/-- What a slot does next: its path arrives at its rejoin word (R280), it runs a word, or its fetch fails, with
the units whose tag has failed (R306). -/
inductive Fetched where
  | arrive
  | word (i : Instr)
  | fault (c : Cause) (tags : List Nat)
  deriving DecidableEq, Repr

/-- A byte at a code position lies in slots 0 to CAP − 1 of the code table (R70 step 1). -/
def Table.inCode (t : Table) (pos : Nat) : Bool := decide (pos / t.rowSize < t.cap)

/-- Bytes of code as they are seen at the home [A12]. -/
def State.codeSeen (s : State) (pc : W64) (n : Nat) : Seen :=
  s.homeSeen ((List.range n).map fun i => pc.toNat + i)

/-- The opcode byte of the word at a PC. -/
def State.codeOp (s : State) (pc : W64) : Byte := (s.codeSeen pc 4).bytes.getD 3 0

/-- The word at a PC, read at the home (R70 steps 1 to 5). R70 gives no place for the faults of the code table
itself: TABLE_ABSENT and POISON of its descriptor come before the checks of step 1, POISON of the bytes read
after them for the part that has been read. DESIGN CHOICE. [A70] -/
def State.fetchWord (s : State) (tid : Nat) (pc : W64) : Fetched :=
  let t := s.table tid
  if t.poisonDesc then .fault .poison []
  else if !t.usable tid then .fault .tableAbsent []
  else if spaceOf pc ≠ 0 ∨ tidOf pc ≠ tid ∨ !t.inCode (posOf pc) then .fault .handleFault []
  else
    let x := s.codeSeen pc 4
    let n := lengthOf (x.bytes.getD 3 0).toNat
    if x.bad then .fault .poison x.tags
    else if !t.inCode (posOf pc + n - 1) then .fault .handleFault []
    else
      let y := s.codeSeen pc n
      if y.bad then .fault .poison y.tags
      else
        match decode y.bytes with
        | .ok (i, _) => .word i
        | .error _ => .fault .illegalOpcode []

/-- What a path does next. -/
def State.fetchPath (s : State) (tid : Nat) (p : Path) : Fetched :=
  match p.rj with
  | some (addr, _) => if p.pc = addr then .arrive else s.fetchWord tid p.pc
  | none => s.fetchWord tid p.pc

/-- What a slot of a group does next. -/
def State.fetch (s : State) (gid : Nat) (b : Bool) : Fetched :=
  s.fetchPath (s.launchOf gid).codeTable ((s.group gid).path b)

/-- The pipe that the next word of a path belongs to: the lane pipe or the uniform pipe (R42, R43); an arrival at a
rejoin word is no instruction and takes none. -/
def State.pipeOf (s : State) (p : Path) : Option Bool :=
  match p.rj with
  | some (addr, _) => if p.pc = addr then none else some (decide (0x80 ≤ (s.codeOp p.pc).toNat))
  | none => some (decide (0x80 ≤ (s.codeOp p.pc).toNat))

/-- The word of a path lies on a channel in broadcast mode, so that its fetch waits (R253). -/
def State.fetchShut (s : State) (p : Path) : Bool :=
  (s.pipeOf p).isSome && spaceOf p.pc == 0 &&
    (s.channelShut p.pc.toNat || s.channelShut (p.pc.toNat + lengthOf (s.codeOp p.pc).toNat - 1))

/-! ### The next slot (R277) -/

/-- A slot may be tried: its group runs on its core, no handler entry or restoration stands before it, and it
is not held back at its word, its word can be fetched, and it has not issued in this clock. A word that acts in
parts goes on under a restoration. -/
def State.slotReady (s : State) (gid : Nat) (g : Group) (b : Bool) : Bool :=
  let x := g.slot b
  g.status == .running && x.path.isSome && !x.waiting && x.since != s.now + 1 &&
    (s.team (teamOf gid)).resident && !s.fetchShut (g.path b) &&
    (x.stage != 0 || (g.entering.isNone && (aget s.restores gid).isNone))

/-- The pipe of a slot's core that its next word belongs to has not issued in this clock. In a clock the uniform
word takes effect first (R66), so none issues on a core after its lane word. -/
def State.pipeFree (s : State) (gid : Nat) (g : Group) (b : Bool) : Bool :=
  match s.pipeOf (g.path b) with
  | some lane => !s.spent.contains (s.coreOf gid, lane) && !s.spent.contains (s.coreOf gid, true)
  | none => true

/-- A ready slot: its group, S1 or not, whether its word is a lane word, its team's place in the order, how long
it has been ready, and whether it issued last. -/
structure Ready where
  gid : Nat
  b : Bool
  lane : Bool
  order : Nat
  age : Nat
  last : Bool
  deriving DecidableEq, Repr

/-- How long a slot has been ready; one that has not seen the end of a clock has just become so. -/
def Slot.age (x : Slot) (now : Nat) : Nat := if x.since = 0 then 0 else now - x.since

/-- The slots of a group that may issue in this clock. -/
def State.readyOf (s : State) (x : Nat × Group) : List Ready :=
  ([false, true].filter fun b => s.slotReady x.1 x.2 b && s.pipeFree x.1 x.2 b).map fun b =>
    ⟨x.1, b, s.pipeOf (x.2.path b) == some true, (s.team (teamOf x.1)).order, (x.2.slot b).age s.now, x.2.last1 == b⟩

/-- Of two ready slots, the second goes first: that of a uniform word before that of a lane word (R66); for one
pipe, one that has stayed ready for 64 cycles, the longest first; otherwise the oldest group's, its slots in
turn (R277). -/
def Ready.yields (x y : Ready) : Bool :=
  if x.lane ≠ y.lane then x.lane
  else if 64 ≤ x.age ∨ 64 ≤ y.age then decide (x.age < y.age)
  else if x.gid = y.gid then x.last && !y.last
  else decide (y.order < x.order) || (y.order == x.order && decide (y.gid < x.gid))

/-- The ready slot that issues next. -/
def firstReady : List Ready → Option Ready
  | [] => none
  | x :: r =>
    match firstReady r with
    | none => some x
    | some y => some (if x.yields y then y else x)

/-- The slot that issues next. A choice among all that may issue in this clock is the choice of its own core and
pipe. -/
def State.nextSlot (s : State) : Option (Nat × Bool) :=
  (firstReady (s.groups.flatMap s.readyOf)).map fun c => (c.gid, c.b)

/-! ### Issuing -/

/-- The slot that issued is the group's last one; one that has used a pipe is ready again from the next clock
on. -/
def Group.issued (g : Group) (b : Bool) (now : Nat) (used : Bool) : Group :=
  { g.setSlot b { g.slot b with since := if used then now + 1 else (g.slot b).since } with last1 := b }

/-- What follows the issue of a slot, unless it was held back: its pipe has issued in this clock, and the
group's turn passes. -/
def State.issued (s : State) (gid : Nat) (b : Bool) (core : Nat) (pipe : Option Bool) : State :=
  match aget s.groups gid with
  | some g =>
    if (g.slot b).waiting then s
    else
      { s with
        groups := aput s.groups gid (g.issued b s.now pipe.isSome)
        spent := s.spent ++ (pipe.map fun l => (core, l)).toList }
  | none => { s with spent := s.spent ++ (pipe.map fun l => (core, l)).toList }

/-- An outcome with its next state changed. -/
def onNext (f : State → State) : Host.Outcome State Fault Refusal → Host.Outcome State Fault Refusal
  | .next s => .next (f s)
  | o => o

/-- The state in which a slot's word runs. -/
def State.issuing (s : State) (gid : Nat) (b : Bool) : State := { s with curG := gid, curS := b }

/-- A slot issues. -/
def State.runSlot (s : State) (gid : Nat) (b : Bool) : Host.Outcome State Fault Refusal :=
  let s1 := s.issuing gid b
  onNext (fun t => t.issued gid b (s.coreOf gid) (s.pipeOf ((s.group gid).path b))) <|
    match s.fetch gid b with
    | .word i => exec i s1
    | .arrive => exec (.pathArrive gid (bnat b)) s1
    | .fault c tags => .next ((s1.logTags tags).takeTrap c 0)

/-! ### The clock -/

/-- A slot's next word would be held back now (R277). -/
def State.stuckAt (s : State) (gid : Nat) (g : Group) (b : Bool) : Bool :=
  (g.slot b).path.isSome &&
    match s.runSlot gid b with
    | .next t => ((t.group gid).slot b).waiting
    | _ => false

/-- A slot at the end of a clock: one that was held back is tried again. It has been ready since the last clock
at whose end its word was held back, or in which it issued (R277). -/
def Slot.wake (x : Slot) (now : Nat) (stuck : Bool) : Slot :=
  { x with waiting := false, since := if x.waiting || x.since == 0 || stuck then now else x.since }

/-- A clock ends: every pipe may issue again, and every slot that was held back is tried again [A1]. -/
def State.endClock (s : State) : State :=
  { s with
    now := s.now + 1
    spent := []
    groups := s.groups.map fun g =>
      (g.1, { g.2 with
        s0 := g.2.s0.wake (s.now + 1) (s.stuckAt g.1 g.2 false)
        s1 := g.2.s1.wake (s.now + 1) (s.stuckAt g.1 g.2 true) }) }

/-! ### Events -/

/-- An event row: no word encodes it. -/
def isEvent (i : Instr) : Bool := (encodeFields i).isNone

/-- An event is enabled: it changes the state. -/
def State.moves (s : State) (i : Instr) : Bool :=
  match exec i s with
  | .next t => decide (t ≠ s)
  | _ => false

/-- An event happens, at the end of a clock. -/
def State.runEvent (s : State) (i : Instr) : Host.Outcome State Fault Refusal := onNext State.endClock (exec i s)

/-- The events of walks, packets and flush markers under way. -/
def State.wireEvents (s : State) : List Instr :=
  s.mem.walks.map (fun w => Instr.handleWalkComplete w.die w.page) ++
    s.writes.filterMap (fun w =>
      match w.flow with
      | some k => if w.stage = 0 then some (Instr.packetArrival k.src k.dst k.seq.toNat) else none
      | none => none) ++
    s.flows.flatMap fun f =>
      f.copies.map (fun n => Instr.packetArrival f.src f.dst n.toNat) ++
        f.sent.map fun x => Instr.flushMarkerArrival f.src f.dst x.num.toNat x.forPath

/-- The events of the numbered objects under way. -/
def State.idEvents (s : State) : List (Nat × Instr) :=
  s.fills.map (fun f => (f.id, Instr.registerFill ⟨f.id, 0⟩)) ++
    s.writes.flatMap (fun w =>
      [(w.id, Instr.homeWriteApply ⟨w.id, 0⟩), (w.id, Instr.homeAtomicApply w.id), (w.id, Instr.writeAck ⟨w.id, 0⟩)]) ++
    s.copies.flatMap (fun c =>
      ([0, 1, 2].map fun k => (c.id, Instr.engineLineApply ⟨c.id, k⟩)) ++
        c.targets.map (fun t => (c.id, Instr.spadDeliveryArrival c.id t.1)) ++
        [(c.id, Instr.copyEntryComplete c.id)]) ++
    s.score.map (fun e => (e.op, Instr.scoreboardEntryRetire e.core e.op e.w)) ++
    s.gathers.map (fun g => (g.id, Instr.gatherComplete g.id)) ++
    s.mats.flatMap (fun m => [(m.id, Instr.matrixOpStart m.id), (m.id, Instr.matrixOpComplete m.id)]) ++
    s.calls.flatMap fun c =>
      [(c.id, Instr.rcallExecute c.id), (c.id, Instr.rcallReply c.id), (c.id, Instr.rcallTimeout c.id)]

/-- The events of groups: arrivals, regions, entries to handlers. -/
def State.groupEvents (s : State) : List Instr :=
  s.mats.filterMap (fun m =>
      match m.kind with
      | .mmac _ _ =>
        if m.held = 0 then none
        else some (Instr.mmacRendezvous (launchOfTeam (teamOf m.gid)) (s.gangOf m.gid) 0)
      | _ => none) ++
    s.arrivals.map (fun a => Instr.mmacRendezvous a.launch a.gang a.num) ++
    s.regions.filterMap (fun r => if r.fend.isSome then some (Instr.regionCommit r.gid) else none) ++
    s.restores.map (fun r => Instr.regionAbortSource r.1) ++
    s.groups.filterMap (fun g =>
      match g.2.entering with
      | some e =>
        some (if e.pre then Instr.preemptEntry g.1
          else Instr.trapEntry g.1 (bnat e.s1) e.code e.detail.toNat)
      | none => if g.2.signal then some (Instr.preemptEntry g.1) else none) ++
    s.teams.filterMap fun t =>
      if t.2.signalAt.isSome then some (Instr.preemptDeadlineMiss t.1) else none

/-- The events of the channels and of moving rows. -/
def State.homeEvents (s : State) : List Instr :=
  s.channels.filterMap (fun c =>
      if c.2.sweeps.isEmpty then none else some (Instr.aphidSweepStep c.1)) ++
    s.mem.moving.map fun r => Instr.relocationFlip (r.1 / 2 ^ 42) (r.1 % 2 ^ 42)

/-- The signals to the teams of a chosen victim's unit. -/
def State.victimSignals (s : State) : List Instr :=
  match s.dist.victim with
  | some t =>
    let l := launchOfTeam t
    ((s.launch l).unitOf (t % 2 ^ 32)).map fun i => Instr.preemptSignal l i
  | none => []

/-- The events of the arbiter, the distributor and the Stag for launches. -/
def State.launchEvents (s : State) : List Instr :=
  s.launches.flatMap (fun l =>
      match l.2.phase with
      | .key => [Instr.keyUnseal l.1]
      | .route => [Instr.routeLoad l.1 true]
      | .probing => [Instr.routeProbeTimeout l.1]
      | .rails => [Instr.railsStable l.1]
      | .accepted => [Instr.priorityAging l.1]
      | .placing => [Instr.launchRetire l.1, Instr.priorityAging l.1]
      | .ending => [Instr.launchRetire l.1]
      | .ended => []) ++
    [Instr.launchDispatch, Instr.candidateTakeover, Instr.teamPlace] ++
    (s.teams.filterMap fun t => if t.2.isOut then some (Instr.teamResume t.1) else none) ++
    [Instr.gangStart, Instr.victimSelect] ++ s.victimSignals ++
    s.host.queues.flatMap fun q => [Instr.completionRecordWrite q.1, Instr.launchReferenceTake q.1]

/-- The command that a function runs (R369). -/
def commandEvent (fn code : Nat) : Option Instr :=
  match code with
  | 1 => some (.tblCreate fn)
  | 2 => some (.tblModify fn)
  | 3 => some (.tblDestroy fn)
  | 4 => some (.tblLoad fn)
  | 5 => some (.tblRead fn)
  | 6 => some (.tblRebuild fn)
  | 7 => some (.stop fn)
  | 8 => some (.chmap fn)
  | 16 => some (.qassign fn)
  | 17 => some (.masks fn)
  | 18 => some (.reserve fn)
  | 19 => some (.clearStart fn)
  | _ => none

/-- The commands and the start under way. -/
def State.commandEvents (s : State) : List Instr :=
  (s.host.bars.filterMap fun b => if b.2.busy then commandEvent b.1 b.2.cmd.toNat else none) ++
    if s.stag.boot.isSome then [.moduleReset .go] else []

/-- Evictions from copies that are full, lines marked evict-first before others (R8, R41); which line goes first
among its equals is a free value [A64]. -/
def State.roomEvents (s : State) : List Instr :=
  let full (keys : List Nat) (n owners base : Nat) : List Instr :=
    if keys.length < n then []
    else (List.range owners).flatMap fun c =>
      let own := ownedLines keys c
      let ls := own.rotateLeft (Config.lineVictim s.now)
      if own.length < n then []
      else ((ls.filter fun l => s.mem.early.contains (copyKey c l)) ++ ls).map fun l => .l1Eviction (base + c) l
  full (akeys s.mem.l1) 16384 40 0 ++ full (akeys s.mem.vis) 4194304 4 40

/-- Of numbered events, the one with the least number. -/
def leastId : List (Nat × Instr) → Option (Nat × Instr)
  | [] => none
  | x :: r =>
    match leastId r with
    | none => some x
    | some y => some (if y.1 < x.1 then y else x)

/-- The event of the machine that happens next: wires, the distributor and the host first, then the oldest
numbered object that can move [A1]. -/
def State.nextEvent (s : State) : Option Instr :=
  match (s.wireEvents ++ s.commandEvents ++ s.groupEvents ++ s.launchEvents ++ s.homeEvents).find?
      s.moves with
  | some i => some i
  | none =>
    match leastId (s.idEvents.filter fun x => s.moves x.2) with
    | some x => some x.2
    | none => s.roomEvents.find? s.moves

/-! ### The agents in turn -/

/-- What happens in a step. -/
inductive Turn where
  /-- A slot issues, within the clock. -/
  | slot (gid : Nat) (b : Bool)
  /-- An event of the environment's schedule ends the clock; the schedule without it. -/
  | input (i : Instr) (rest : List (Nat × Instr))
  /-- An event ends the clock. -/
  | event (i : Instr)
  /-- The clock ends with no event. -/
  | idle

/-- The head of the environment's schedule, once it is due [A1]. -/
def State.due (s : State) : Option (Instr × List (Nat × Instr)) :=
  match s.inputs with
  | [] => none
  | (t, i) :: r => if t ≤ s.now then some (i, r) else none

/-- In a clock every pipe of every core issues where it can, one slot a step; then one event happens, of the
environment's schedule before the machine's own, and the clock ends [A1]. -/
def State.turn (s : State) : Turn :=
  match s.nextSlot with
  | some (g, b) => .slot g b
  | none =>
    match s.due with
    | some (i, r) => .input i r
    | none =>
      match s.nextEvent with
      | some i => .event i
      | none => .idle

/-- A clock ends in which no agent beside the pipes has moved. Where no pipe has issued either, a slot that was
held back would be held back again. -/
def State.tick (s : State) : State := if s.spent.isEmpty then { s with now := s.now + 1 } else s.endClock

/-- One step. An instruction word in the environment's schedule is no event and is passed over. -/
def State.cycle (s : State) : Host.Outcome State Fault Refusal :=
  match s.turn with
  | .slot g b => s.runSlot g b
  | .input i r =>
    let s1 := { s with inputs := r }
    if isEvent i then s1.runEvent i else .next s1.endClock
  | .event i => s.runEvent i
  | .idle => .next s.tick

/-! ### Placing an instruction -/

/-- A descriptor of a DENSE code table with id 1, pinned to stack 0: 16 rows of 64 bytes (R18). -/
def codeTable : Table where
  dw := [
    BitVec.ofNat 64 (3 * 2 ^ 56 + 2 * 2 ^ 52 + 2 * 2 ^ 47 + 2 ^ 40 + 2 ^ 20),
    0, 16, 16, 16, 0]
  rows := []
  free := []
  page := 0
  sizes := []
  poisonDesc := false
  poisonIndex := false
  held := none
  index := 0

/-- A record of one team of one group on one die, with CODE at byte 0 of table 1 (R260). -/
def codeRecord : List W64 :=
  [handle 1 0, BitVec.ofNat 64 (128 * 2 ^ 48), BitVec.ofNat 64 512, 0, 0, 0, 0, 0, 0, 1, 0, 0, 0, 0, 0, 0]

/-- A launch with that record, in the midst of its run. -/
def codeLaunch : Launch :=
  { Launch.absent with
    record := codeRecord
    grants := [(1, true, false)]
    root := 1
    phase := .placing
    nextTeam := 1 }

/-- A team of that launch, on core 0. -/
def codeTeam : Team :=
  { Team.absent with launch := 1, groups := 1, gen := 1, resident := true, retired := false }

/-- The state in which the only group of the module runs a code table that holds some bytes at slot 0. -/
def State.withCode (s : State) (bytes : List Byte) : State :=
  { s with
    now := 0
    inputs := []
    spent := []
    groups := [(16 * teamKey 1 0, { Group.start (handle 1 0) with window := some 0 })]
    teams := [(teamKey 1 0, codeTeam)]
    launches := [(1, codeLaunch)]
    tables := aput s.tables 1 codeTable
    mem := { s.mem with home := setBytes s.mem.home (runOf (2 ^ 42) bytes) } }

end Sys2Proof.Machine
end

