-- ==== Sys2Proof/Machine/Step.lean ====
section
/-! DEFINITION. One step of the module, and the placing of an instruction where the step fetches. -/

namespace Sys2Proof.Machine

/-- One step: one cycle of the module, in which one agent moves. -/
def step (s : State) : Host.Outcome State Fault Refusal := s.cycle

/-- The state in which the next step fetches and runs the instruction of `nbits` bits `w`: a launch of one
group whose code table holds the word [A11]. -/
def State.withFetchWord (s : State) (_nbits w : Nat) : State := s.withCode (leBytes 8 w)

end Sys2Proof.Machine
end

