-- ==== Sys2Proof/Safety.lean ====
section
/-! DEFINITION. What counts as a well-kept state, and the terms in which claims are made: operands that a
word accepts, what a word writes, and what it leaves alone. -/

namespace Sys2Proof.Machine

/-! ### Well-kept states -/

/-- The memories of the module in their canonical form: the homes, the host's memory, the scratchpads. -/
def State.memOk (s : State) : Bool :=
  Memory.wf s.mem.home && Memory.wf s.host.mem && s.teams.all fun t => Memory.wf t.2.spad

/-- A path's activity mask lies within its lanes (R278, R281). -/
def Path.kept (p : Path) : Prop := p.mask &&& ~~~p.lanes = 0

/-- A path entry or a continuation of a split stack is kept. -/
def StackEntry.kept : StackEntry → Prop
  | .park p => p.kept
  | .join _ p _ => p.kept

/-- Every path of a group, live, parked or in a join, is kept, and its predicates have eight levels (R278,
R279, R284). -/
structure Group.kept (g : Group) : Prop where
  levels : g.preds.length = 8
  paths : ∀ b p, (g.slot b).path = some p → p.kept
  stack : ∀ e ∈ g.stack, e.kept

/-- A well-kept state: the memories in canonical form, and every group kept, with those that open and
aborted regions go back to (R229). -/
structure State.WellKept (s : State) : Prop where
  memory : s.memOk = true
  groups : ∀ x ∈ s.groups, x.2.kept
  regions : ∀ r ∈ s.regions, r.snap.kept
  restores : ∀ x ∈ s.restores, x.2.kept

/-! ### Outcomes -/

/-- The instruction or event answers a next state with a property. -/
def Gives (i : Instr) (s : State) (P : State → Prop) : Prop := ∃ t, exec i s = .next t ∧ P t

/-- The word of the issuing slot traps: the group takes the entry that R323 describes, and FWORD is the
handle of the word. -/
def Traps (i : Instr) (s : State) (c : Cause) (detail : W32) : Prop := exec i s = .next (s.takeTrap c detail)

/-- The word of the issuing slot has no effect yet: its slot stays at the word. -/
def Waits (i : Instr) (s : State) : Prop := exec i s = .next s.holdBack

/-! ### Operands that a word accepts -/

/-- The issuing slot holds a path. -/
def State.Live (s : State) : Prop := (s.cur.slot s.curS).path.isSome = true

/-- A word's operands pass: every lane register lies below the launch's registers per lane, every register
is full, no source is poisoned or named by a reply mark, and no destination is held by the matrix unit. -/
structure State.Accepts (s : State) (u : Uses) : Prop where
  live : s.Live
  inFile : ∀ o ∈ u.srcs ++ u.dsts, o.lane = true → o.r + o.n ≤ s.curLaunch.rpl
  full : ∀ o ∈ u.all ++ u.dsts, o.any s.curS s.cur.emptyV s.cur.emptyG = false
  clean : ∀ o ∈ u.all, o.any s.curS s.cur.poisonV s.cur.poisonG = false
  unmarked : s.cur.markHit u.all = none
  unheld : ∀ o ∈ u.dsts, o.any s.curS (s.heldOf s.curG) 0 = false

/-- The issuing group stands outside every region and its slot waits for no acquire. -/
def State.Free (s : State) : Prop := s.inRegion s.curG = false ∧ s.acquiring = false

/-! ### What a word writes and what it leaves alone -/

/-- Nothing but the issuing group is changed. -/
def OnlyGroup (s t : State) : Prop := ∃ g, t = s.setGroup s.curG g

/-- The issuing path has moved on by `n` bytes with its lanes, FMT, rejoin word and predicate depth; the
group's other slot is as before. -/
def Moved (s t : State) (n : Nat) : Prop :=
  (t.cur.slot s.curS).path.isSome = true ∧
  t.curPath.pc = s.curPath.pc + BitVec.ofNat 64 n ∧
  t.curPath.lanes = s.curPath.lanes ∧ t.curPath.fmt = s.curPath.fmt ∧ t.curPath.rj = s.curPath.rj ∧
  t.curPath.pd = s.curPath.pd ∧ t.cur.slot (!s.curS) = s.cur.slot (!s.curS)

/-- A group without its registers with their bits, its flags and its slots: all that a register result
must leave alone. -/
def Group.rest (g : Group) : Group :=
  { g with
    v := [], g := [], emptyV := 0, emptyG := 0, poisonV := 0, poisonG := 0, marks := [], fpst := 0,
    s0 := Slot.free, s1 := Slot.free }

/-- A uniform register as it reads once `x` has been written to it: mk0 to mk2 keep the activity of the
issuing path's lanes only (R56, R281). -/
def State.seen (s : State) (r : Nat) (x : W64) : W64 :=
  if 120 ≤ r ∧ r ≤ 122 then x &&& maskWord s.curPath.lanes (r - 120) else x

/-- A register is one of mk0 to mk2. -/
def isMask (r : Nat) : Prop := 120 ≤ r ∧ r ≤ 122

/-- The word has written the lane registers `vd` in the active lanes `act` and the uniform registers `gd`,
has raised the flags `fl` and has moved on by `n` bytes; every other register, lane, bit, flag and field of
the group, every other group and all else in the machine are as before. -/
structure Wrote (s t : State) (act : LaneSet) (vd : List (Nat × (Nat → W32))) (gd : List (Nat × W64))
    (n : Nat) (fl : Flags) : Prop where
  only : OnlyGroup s t
  moved : Moved s t n
  lanes : ∀ p ∈ vd, ∀ l < 96, t.cur.vval p.1 l = if act.getLsbD l then p.2 l else s.cur.vval p.1 l
  otherLanes : ∀ r, (∀ p ∈ vd, p.1 ≠ r) → ∀ l, t.cur.vval r l = s.cur.vval r l
  uniform : ∀ p ∈ gd, t.cur.gval s.curS p.1 = s.seen p.1 p.2
  otherUniform : ∀ r, (∀ p ∈ gd, p.1 ≠ r) → ∀ b, t.cur.gval b r = s.cur.gval b r
  mask : (∀ p ∈ gd, ¬isMask p.1) → t.curPath.mask = s.curPath.mask
  flags : t.cur.fpst = s.cur.fpst ||| fl
  emptyV : ∀ r < 128, bitOn t.cur.emptyV r = (bitOn s.cur.emptyV r && !vd.any fun p => p.1 == r)
  emptyG : ∀ i < 136, bitOn t.cur.emptyG i = (bitOn s.cur.emptyG i && !gd.any fun p => gBit s.curS p.1 == i)
  poisonV : ∀ r < 128, bitOn t.cur.poisonV r =
    (bitOn s.cur.poisonV r && !(act == allLanes && vd.any fun p => p.1 == r))
  poisonG : ∀ i < 136, bitOn t.cur.poisonG i = (bitOn s.cur.poisonG i && !gd.any fun p => gBit s.curS p.1 == i)
  marks : t.cur.marks = s.cur.marks.filter fun m =>
    !((m.lane && vd.any fun p => p.1 == m.d) || (!m.lane && gd.any fun p => p.1 == m.d))
  rest : t.cur.rest = s.cur.rest

/-- The active lanes of a lane word: those of the mask whose predicate top is set, or of the mask alone
where the word has N (R5). -/
def State.lanesOn (s : State) (n : Bool) : LaneSet := s.cur.active s.curS n

/-! ### Claims about words that compute -/

/-- A word whose operands pass writes a lane register in the active lanes, with the flags that the active
lanes raise. -/
def LaneWrites (s : State) (i : Instr) (u : Uses) (n : Bool) (d : Reg) (len : Nat)
    (f : Nat → W32 × Flags) : Prop :=
  s.Accepts u → Gives i s fun t =>
    Wrote s t (s.lanesOn n) [(d.val, fun l => (f l).1)] [] len
      (orFlags ((lanesOf (s.lanesOn n)).map fun l => (f l).2))

/-- A lane word of one source. -/
def Lane1 (s : State) (i : Instr) (d a : Reg) (wa n : Bool) (len : Nat) (f : W32 → W32 × Flags) : Prop :=
  LaneWrites s i ⟨[sv a wa], [dv d], true⟩ n d len fun l => f (s.cur.vval a.val l)

/-- A lane word of two sources. -/
def Lane2 (s : State) (i : Instr) (d a b : Reg) (wa wb n : Bool) (len : Nat)
    (f : W32 → W32 → W32 × Flags) : Prop :=
  LaneWrites s i ⟨[sv a wa, sv b wb], [dv d], true⟩ n d len fun l =>
    f (s.cur.vval a.val l) (s.cur.vval b.val l)

/-- A lane word of three sources. -/
def Lane3 (s : State) (i : Instr) (d a b c : Reg) (wa wb wc n : Bool) (len : Nat)
    (f : W32 → W32 → W32 → W32 × Flags) : Prop :=
  LaneWrites s i ⟨[sv a wa, sv b wb, sv c wc], [dv d], true⟩ n d len fun l =>
    f (s.cur.vval a.val l) (s.cur.vval b.val l) (s.cur.vval c.val l)

/-- A word whose operands pass writes a uniform register, with the flags of its one operation. -/
def UniWrites (s : State) (i : Instr) (u : Uses) (d : Reg) (len : Nat) (x : W64 × Flags) : Prop :=
  s.Accepts u → Gives i s fun t => Wrote s t 0 [] [(d.val, x.1)] len x.2

/-- A uniform word of one source. -/
def Uni1 (s : State) (i : Instr) (d a : Reg) (wa : Bool) (len : Nat) (f : W64 → W64 × Flags) : Prop :=
  UniWrites s i ⟨[sg a wa], [dg d], false⟩ d len (f (s.cur.gval s.curS a.val))

/-- A uniform word of two sources. -/
def Uni2 (s : State) (i : Instr) (d a b : Reg) (wa wb : Bool) (len : Nat)
    (f : W64 → W64 → W64 × Flags) : Prop :=
  UniWrites s i ⟨[sg a wa, sg b wb], [dg d], false⟩ d len
    (f (s.cur.gval s.curS a.val) (s.cur.gval s.curS b.val))

/-- A uniform word of three sources. -/
def Uni3 (s : State) (i : Instr) (d a b c : Reg) (wa wb wc : Bool) (len : Nat)
    (f : W64 → W64 → W64 → W64 × Flags) : Prop :=
  UniWrites s i ⟨[sg a wa, sg b wb, sg c wc], [dg d], false⟩ d len
    (f (s.cur.gval s.curS a.val) (s.cur.gval s.curS b.val) (s.cur.gval s.curS c.val))

/-- The operands of the words that compute in registers (R94 to R117, with the W bits of R46): sources,
destinations, and whether the masks are read. -/
def usesOf : Instr → Option Uses
  | .iaddI32 d a b wa wb _ | .isubI32 d a b wa wb _ | .imulI32 d a b wa wb _ | .imulhI32 d a b wa wb _
  | .imulhN32 d a b wa wb _ | .iminI32 d a b wa wb _ | .iminN32 d a b wa wb _ | .imaxI32 d a b wa wb _
  | .imaxN32 d a b wa wb _ | .idivI32 d a b wa wb _ | .idivN32 d a b wa wb _ | .iand d a b wa wb _
  | .ior d a b wa wb _ | .ixor d a b wa wb _ | .ishl d a b wa wb _ | .ishr d a b wa wb _
  | .isar d a b wa wb _ | .icmp d a b wa wb _ _ _ | .ipk d a b wa wb _ | .faddF32 d a b wa wb _
  | .fsubF32 d a b wa wb _ | .fmulF32 d a b wa wb _ | .fminF32 d a b wa wb _ | .fmaxF32 d a b wa wb _
  | .fcmpF32 d a b wa wb _ _ | .faddH2 d a b wa wb _ _ | .fmulH2 d a b wa wb _ _
  | .fdivF32 d a b wa wb _ | .shfl d a b wa wb _ _ => some ⟨[sv a wa, sv b wb], [dv d], true⟩
  | .imadI32 d a b c wa wb wc _ | .isel d a b c wa wb wc _ | .fmaF32 d a b c wa wb wc _
  | .fmaH2 d a b c wa wb wc _ _ | .fdp2 d a b c wa wb wc _ _ =>
    some ⟨[sv a wa, sv b wb, sv c wc], [dv d], true⟩
  | .iabs d a wa _ | .ineg d a wa _ | .inot d a wa _ | .ibfe d a wa _ _ _ _ | .icnt d a wa _
  | .iclz d a wa _ | .imov d a wa _ | .fabs d a wa _ | .frcp d a wa _ | .frsq d a wa _ | .fsqrt d a wa _
  | .fex2 d a wa _ | .flg2 d a wa _ | .fsnp d a wa _ | .fcsp d a wa _ | .ftnh d a wa _
  | .vscn d a wa _ _ _ | .ipfx d a wa _ => some ⟨[sv a wa], [dv d], true⟩
  | .iaddI64 d a b wa wb _ | .isubI64 d a b wa wb _ => some ⟨[svs a 2 wa, svs b 2 wb], [dvs d 2], true⟩
  | .ibfi d a wa _ _ _ => some ⟨[sv a wa, sv d false], [dv d], true⟩
  | .ili d _ _ => some ⟨[], [dv d], true⟩
  | .cvt d a wa _ dst src => some ⟨[svs a src.regs wa], [dvs d dst.regs], true⟩
  | .xpk d a c wa _ _ => some ⟨[sv a wa], [dv d, dv c], true⟩
  | .xupk d a c wa wc _ _ => some ⟨[sv a wa, sv c wc], [dv d], true⟩
  | .gtov d a wa _ => some ⟨[sg a wa], [dv d], true⟩
  | .vtog d a b wa wb => some ⟨[sv a wa, sg b wb], [dg d], true⟩
  | .vred d a wa _ _ _ | .vote d a wa _ _ => some ⟨[sv a wa], [dg d], true⟩
  | .rnd d a wa _ => some ⟨[sgs a 2 wa], [dv d, ⟨false, a.val + 1, 1, false⟩], true⟩
  | .samp d a b c wa wb wc _ =>
    some ⟨[sv a wa, sg b wb, sgs c 2 wc, sgs d 2 false], [dgs d 2, ⟨false, c.val + 1, 1, false⟩], true⟩
  | .gadd d a b wa wb | .gsub d a b wa wb | .gmul d a b wa wb | .gmulh d a b wa wb _ | .gand d a b wa wb
  | .gor d a b wa wb | .gxor d a b wa wb | .gshl d a b wa wb | .gshr d a b wa wb | .gsar d a b wa wb
  | .gmin d a b wa wb | .gminn d a b wa wb | .gmax d a b wa wb | .gmaxn d a b wa wb
  | .gcmp d a b wa wb _ _ | .gfadd d a b wa wb | .gfmul d a b wa wb | .gfcmp d a b wa wb _ =>
    some ⟨[sg a wa, sg b wb], [dg d], false⟩
  | .gmad d a b c wa wb wc | .gsel d a b c wa wb wc | .gfma d a b c wa wb wc =>
    some ⟨[sg a wa, sg b wb, sg c wc], [dg d], false⟩
  | .gmov d a wa | .gcnt d a wa | .gclz d a wa | .gcvt d a wa _ _ => some ⟨[sg a wa], [dg d], false⟩
  | .gli d _ => some ⟨[], [dg d], false⟩
  | .glih d _ => some ⟨[sg d false], [dg d], false⟩
  | _ => none

/-! ### Claims about rounded results -/

/-- The format holds the magnitude `mag`, in units of its smallest subnormal, with a sign. -/
def Fmt.Holds (f : Fmt) (neg : Bool) (mag x : Nat) : Prop :=
  x < 2 ^ (1 + f.ebits + f.pbits) ∧
  ∃ a k, f.decode x = .fin neg a k ∧ f.qmin ≤ k ∧ a * 2 ^ (k - f.qmin).toNat = mag

/-- A nonzero magnitude m × 2^e, or with `st` one strictly between that and (m + 1) × 2^e, rounded once into
a format with the flags of R81 to R83. It is tiny if it lies below the smallest normal once it is rounded with
the exponent range unbounded; the largest finite magnitude stands for an overflow where R83 says so. -/
def RoundsTo (f : Fmt) (md : Mode) (neg : Bool) (m : Nat) (e : Int) (st : Bool) (r : Nat × Flags) : Prop :=
  let free : Int := e + Nat.log2 m - f.pbits
  let unit := max free f.qmin
  let x := roundAt md.rm neg m e st unit
  let mag := x.1 * 2 ^ (unit - f.qmin).toNat
  let most := ((f.decode f.maxEnc).units f.qmin).toNat
  let tiny := (roundAt md.rm neg m e st free).1 * 2 ^ (free - f.qmin).toNat <
    2 ^ f.pbits * 2 ^ (f.qmin - free).toNat
  let toMost := md.sat = true ∨ md.rm = 1 ∨ (md.rm = 2 ∧ neg = true) ∨ (md.rm = 3 ∧ neg = false)
  (tiny ∧ md.ftz = true → f.Holds neg 0 r.1 ∧ r.2 = flagUF ||| flagNX) ∧
  (¬(tiny ∧ md.ftz = true) →
    (most < mag → r.2 = flagOF ||| flagNX ∧ (toMost → f.Holds neg most r.1) ∧
      (¬toMost → if f.e4 then r.1 = 0x7F else f.decode r.1 = .inf neg)) ∧
    (mag ≤ most → f.Holds neg mag r.1 ∧ (x.2 = false → r.2 = 0) ∧
      (x.2 = true → tiny → r.2 = flagUF ||| flagNX) ∧ (x.2 = true → ¬tiny → r.2 = flagNX)))

/-- The exact sum of finite terms, each a sign, a magnitude and the exponent of its unit, rounded once; an
exact zero has the terms' common sign, and otherwise is −0 under RD alone (R81). -/
def SumRounds (f : Fmt) (md : Mode) (xs : List (Bool × Nat × Int)) (r : Nat × Flags) : Prop :=
  let q := xs.foldl (fun a x => min a x.2.2) 0
  let t := xs.foldl (fun a x => a + signed x.1 (x.2.1 * 2 ^ (x.2.2 - q).toNat)) (0 : Int)
  (t ≠ 0 → RoundsTo f md (decide (t < 0)) t.natAbs q false r) ∧
  (t = 0 → r = (f.enc (if xs.all (·.1) then true else if xs.any (·.1) then md.rm == 3 else false) 0, 0))

/-- A product of finite values, rounded once (R81). -/
def ProductRounds (f : Fmt) (md : Mode) (neg : Bool) (m : Nat) (e : Int) (r : Nat × Flags) : Prop :=
  (m ≠ 0 → RoundsTo f md neg m e false r) ∧ (m = 0 → r = (f.enc neg 0, 0))

/-- A finite value as a real number. -/
def FVal.Is (v : FVal) (x : ℝ) : Prop :=
  ∃ n m e, v = .fin n m e ∧ x = (signed n m : ℝ) * (2 : ℝ) ^ e

/-- A number in units of 2^p lies within one part in 2^200 of a positive real number. -/
def Near (z : Nat) (p : Int) (a : ℝ) : Prop := |(z : ℝ) * (2 : ℝ) ^ p - a| ≤ a * (2 : ℝ) ^ (-200 : Int)

/-- A nonzero real number rounded once into a format, as an inexact result, from a number that lies within one
part in 2^200 of it (R81, R101). -/
def RoundsNear (f : Fmt) (md : Mode) (v : ℝ) (r : Nat × Flags) : Prop :=
  ∃ (neg : Bool) (z : Nat) (p : Int), (neg = true ↔ v < 0) ∧ 2 ^ 26 ≤ z ∧ Near z p |v| ∧ RoundsTo f md neg z p true r

/-- A value that is no NaN lies below another: by its sign and magnitude, zeros equal (R98). -/
def FVal.Below : FVal → FVal → Prop
  | .inf a, .inf b => a = true ∧ b = false
  | .inf a, .fin _ _ _ => a = true
  | .fin _ _ _, .inf b => b = false
  | .fin n m e, .fin n' m' e' =>
    signed n (m * 2 ^ (e - min e e').toNat) < signed n' (m' * 2 ^ (e' - min e e').toNat)
  | _, _ => False

/-! ### Claims about control -/

/-- A group without its slots. -/
def Group.noSlots (g : Group) : Group := { g with s0 := Slot.free, s1 := Slot.free }

/-- Only the issuing group is changed, and of it only the issuing slot, which holds the path `p`. -/
structure Goes (s t : State) (p : Path) : Prop where
  only : OnlyGroup s t
  path : (t.cur.slot s.curS).path = some p
  other : t.cur.slot (!s.curS) = s.cur.slot (!s.curS)
  rest : t.cur.noSlots = s.cur.noSlots

/-- The issuing path moved on to another word. -/
def State.pathAt (s : State) (pc : W64) : Path := { s.curPath with pc := pc }

/-- The parked paths of a split stack, oldest first (R279). -/
def parkedPaths (st : List StackEntry) : List Path :=
  st.filterMap fun e =>
    match e with
    | .park p => some p
    | .join .. => none

/-- The register of a group in a state. -/
def State.regV (s : State) (gid r l : Nat) : W32 := (s.group gid).vval r l

/-! ### Claims about traps -/

/-- A handler is entered at once: the group has no fill pending and no word half done, it stands outside
every region, no abort of it is being undone, its frame's sectors are free, and the frame lies aligned in a
table that no world owns, so that its bytes stand at the home as they are (R305). -/
structure State.CanEnter (s : State) (gid : Nat) (pre : Bool) : Prop where
  filled : s.fillsOf gid = []
  whole : (s.group gid).midWord = false
  plain : aget s.restores gid = none
  outside : s.inRegion gid = false
  free : s.sectorsHeld (s.clusterOf gid) (frameSectors (s.frameKey gid pre)) = false
  place : s.frameKey gid pre % 1024 = 0 ∧ s.frameKey gid pre + 1024 ≤ 2 ^ 62
  open_ : s.slotOfKey (s.frameKey gid pre) = none

/-- A frame in memory records a group (R325): header, slots, g0 to g3, predicates, depth, v0 and v1. -/
structure Framed (b : List Byte) (g : Group) (pre under : Bool) (cause : Nat) (detail : W32)
    (fword : W64) : Prop where
  kind : field (dwOf b 0) 0 8 = if pre then 2 else 1
  cause : field (dwOf b 0) 8 8 = cause
  under : flag (dwOf b 0) 16 = under
  detail : field (dwOf b 0) 32 32 = detail.toNat
  fword : dwOf b 1 = fword
  slots : ∀ c p, (g.slot c).path = some p → p.pd < 16 → (∀ x ∈ p.rj, x.2 < 4096) →
    p.fmt.getLsbD 9 = false → recordPath b (if c then 8 else 2) = (true, p)
  freeSlots : ∀ c, (g.slot c).path = none → (recordPath b (if c then 8 else 2)).1 = false
  uniform : ∀ i < 4, dwOf b (14 + i) = g.gval false i
  preds : ∀ l < 96, ∀ i < 8, (b.getD (144 + l) 0).getLsbD i = (g.preds.getD i 0).getLsbD l
  depth : g.stack.length < 2 ^ 13 → field (dwOf b 30) 0 13 = g.stack.length
  lanes : ∀ l < 96, wOf b (256 + 4 * l) = g.vval 0 l ∧ wOf b (640 + 4 * l) = g.vval 1 l

/-- A group `g` has entered a handler (R323 to R326): its path starts at `pc` with all lanes, the frame at
the group's place in the save row records it, g0 to g3 and v0 and v1 hold the entry values, and all other
registers, its split stack and all other memory at the homes are as before. -/
structure Entered (s t : State) (gid : Nat) (g : Group) (pre : Bool) (pc : W64) (fmt : BitVec 14)
    (cause : Nat) (detail : W32) (fword : W64) : Prop where
  path : (t.group gid).s0.path = some ⟨pc, allLanes, allLanes, fmt, none, 0⟩
  alone : (t.group gid).s1.path = none
  stack : (t.group gid).stack = g.stack
  row : (t.group gid).gval false 0 = BitVec.ofNat 64 (s.saveRow (teamOf gid))
  key : (t.group gid).gval false 1 = BitVec.ofNat 64 (s.frameKey gid pre)
  head : (t.group gid).gval false 2 = dwOf (bytesAt t.mem.home (s.frameKey gid pre) 1024) 0
  word : (t.group gid).gval false 3 = fword
  bases : ∀ l < 96, (t.group gid).vpair 0 l = (t.group gid).gval false 1 + BitVec.ofNat 64 (256 + 4 * l)
  otherLanes : ∀ r l, 2 ≤ r → (t.group gid).vval r l = g.vval r l
  otherUniform : ∀ r, 4 ≤ r → ¬isMask r → (t.group gid).gval false r = g.gval false r
  frame : Framed (bytesAt t.mem.home (s.frameKey gid pre) 1024) g pre
    (if pre then g.trapLive else g.preLive) cause detail fword
  memory : ∀ k, k < s.frameKey gid pre ∨ s.frameKey gid pre + 1024 ≤ k →
    byteAt t.mem.home k = byteAt s.mem.home k
  live : (t.group gid).trapLive = (g.trapLive || !pre) ∧ (t.group gid).preLive = (g.preLive || pre)
  status : (t.group gid).status = g.status

/-! ### Claims about words that act on more than the group -/

/-- Nothing but the issuing group and its team is changed. -/
def OnlyOwn (s t : State) : Prop :=
  ∃ g x, t = (s.setGroup s.curG g).setTeam (teamOf s.curG) x

/-- The issuing slot has moved on by `n` bytes; of the rest of its group only what `g` shows is changed. -/
def MovesOn (s t : State) (n : Nat) (g : Group) : Prop :=
  (t.cur.slot s.curS).path = some (s.pathAt (s.curPath.pc + BitVec.ofNat 64 n)) ∧
  t.cur.slot (!s.curS) = s.cur.slot (!s.curS) ∧ t.cur.noSlots = g.noSlots

/-- The issuing slot is held back at its word. -/
def HeldBack (s t : State) : Prop :=
  (t.cur.slot s.curS).waiting = true ∧ (t.cur.slot s.curS).path = (s.cur.slot s.curS).path

/-- A state without its groups. -/
def State.noGroups (s : State) : State := { s with groups := [] }

/-! ### Claims about memory words -/

/-- A handle with an offset names `n` bytes of the own team's scratchpad from `o` on (R185, R186, R27). -/
structure State.OwnSpad (s : State) (h : W64) (off : BitVec 16) (n o : Nat) : Prop where
  named : ∃ e, effective h off = .ok e ∧ spaceOf e = 1 ∧ field e 19 43 = 0 ∧ field e 0 19 = o
  inside : o + n ≤ s.curLaunch.spad
  aligned : o % n = 0

/-- A handle with an offset names an element of `n` bytes at key `k` of a table that the launch may read
or write as asked (R185, R186, R27). -/
structure State.InTable (s : State) (h : W64) (off : BitVec 16) (n k : Nat) (rd wr : Bool) : Prop where
  named : ∃ e, effective h off = .ok e ∧ spaceOf e = 0 ∧ e.toNat = k
  sound : (s.table (tidOfKey k)).poisonDesc = false
  usable : (s.table (tidOfKey k)).usable (tidOfKey k) = true
  mayRead : rd = true → s.curLaunch.reads (tidOfKey k) = true
  mayWrite : wr = true → s.curLaunch.writesTo (tidOfKey k) = true
  inSlots : posOfKey k / (s.table (tidOfKey k)).rowSize < (s.table (tidOfKey k)).slots
  aligned : posOfKey k % n = 0

/-- A handle with an offset names `n` bytes of the group's private space from `o` on (R29, R185, R27). -/
structure InPrivate (h : W64) (off : BitVec 16) (n o : Nat) : Prop where
  named : ∃ e, effective h off = .ok e ∧ spaceOf e = 3 ∧ field e 20 42 = 0 ∧ field e 0 20 = o
  aligned : o % n = 0

/-- A handle with an offset names `n` bytes from `o` on of the scratchpad of team `t`, which is resident in
the cluster under the handle's generation and belongs to the launch (R26, R27). -/
structure State.InCluster (s : State) (h : W64) (off : BitVec 16) (n t o : Nat) : Prop where
  named : ∃ e, effective h off = .ok e ∧ spaceOf e = 2 ∧ field e 40 22 = 0 ∧ field e 19 1 = 0 ∧
    field e 0 19 = o ∧
    s.residentGen (s.curCluster * 16 + field e 36 4) (BitVec.ofNat 16 (field e 20 16)) = some t
  same : launchOfTeam t = launchOfTeam (teamOf s.curG)
  inside : o + n ≤ s.curLaunch.spad
  aligned : o % n = 0

/-- The first key of the issuing group's private window (R29). -/
def State.privateBase (s : State) : Nat :=
  2 ^ 62 + launchOfTeam (teamOf s.curG) * 2 ^ 42 + (s.cur.window.getD 0) * 0x6000000

/-- A lane's handle with an offset reaches `n` bytes outside the own scratchpad: of a table, of the group's
private space, or of another scratchpad of the cluster. -/
def State.Reaches (s : State) (lane : Nat) (h : W64) (off : BitVec 16) (n : Nat) (rd wr : Bool) : Loc → Prop
  | .tab k => s.InTable h off n k rd wr
  | .priv base l o => base = s.privateBase ∧ l = lane ∧ InPrivate h off n o
  | .spad t o => s.InCluster h off n t o

/-- What a load of `wid` bytes waits for: one item for each element of 8 bytes, of 4 in private space
(R142). -/
def waitingItems (lane wid : Nat) (l : Loc) : List Item :=
  let e := min wid (if l.isPrivate then 4 else 8)
  (List.range (wid / e)).map fun i => ⟨lane, l.plus (i * e), e, [], none⟩

/-- The dirty bytes that the issuing cluster holds in chosen sectors have been sent to their homes, one counted
request for each sector (R147, R166); they stay valid and are clean, and the homes are as before. -/
structure SendsBack (s t : State) (p : Nat → Bool) : Prop where
  count : t.cur.uwc = s.cur.uwc + (s.dirtySectors s.curCluster p).length
  clean : ∀ k, aget t.mem.l1 k = (aget s.mem.l1 k).map fun b =>
    if ownerOfCopy k = s.curCluster ∧ b.st = 1 ∧ p (sectorOf (keyOfCopy k)) = true then ⟨b.val, 0⟩ else b
  home : t.mem.home = s.mem.home
  kept : ∀ w, w ∈ s.writes → w ∈ t.writes
  sent : ∀ sec ∈ s.dirtySectors s.curCluster p, ∃ w ∈ t.writes, s.nextId ≤ w.id ∧ w.kind = .home ∧ w.gone = true ∧
    w.counted = true ∧ w.gid = s.curG ∧ w.cluster = s.curCluster ∧ w.data = s.dirtyIn s.curCluster (· == sec)
  only : ∀ w ∈ t.writes, w ∈ s.writes ∨ ∃ sec ∈ s.dirtySectors s.curCluster p,
    w.data = s.dirtyIn s.curCluster (· == sec)

/-- The pages of a range are translated for the issuing core, and it waits for no walk of them (R12). -/
def State.Translated (s : State) (key n : Nat) : Prop :=
  s.rangeHeld (s.coreOf s.curG) key n = true ∧ s.walkingRange (s.coreOf s.curG) key n = false

/-- The marks of a group without those of the `n` lane registers from `d` on (R244). -/
def Group.unmarked (g : Group) (d n : Nat) : Group :=
  { g with marks := g.marks.filter fun m =>
      !(m.lane && decide (d ≤ m.d) && decide (m.d < d + n) && decide (m.d < 128)) }

/-- The word has made counted requests of one kind (R147), one for each sector of the bytes that its lanes
`ls` write: a byte that several lanes write is the highest one's. The homes, the scratchpads and all other
groups are as before. -/
def Sends (s t : State) (kind : WKind) (ls : List Nat) (loc : Nat → Loc) (wid : Nat) (byte : Nat → Nat → Byte) :
    Prop :=
  t.mem.home = s.mem.home ∧ t.teams = s.teams ∧ (∀ gid, gid ≠ s.curG → t.group gid = s.group gid) ∧
  (∀ x : PWrite, x.id < s.nextId → (x ∈ t.writes ↔ x ∈ s.writes)) ∧
  ∃ ws : List PWrite, MovesOn s t 8 { s.cur with uwc := s.cur.uwc + ws.length } ∧
    (∀ w ∈ ws, w ∈ t.writes ∧ s.nextId ≤ w.id ∧ w.kind = kind ∧ w.gid = s.curG ∧ w.cluster = s.curCluster ∧
      w.counted = true ∧ w.clears = false ∧ (∃ sec, ∀ p ∈ w.data, sectorOf p.1 = sec) ∧
      ∀ p ∈ w.data, ∃ l ∈ ls, ∃ i < wid, p = ((loc l).key i, byte l i)) ∧
    (∀ w ∈ ws, ∀ x ∈ ws, ∀ p ∈ w.data, ∀ q ∈ x.data, sectorOf p.1 = sectorOf q.1 → w.id = x.id) ∧
    ∀ l ∈ ls, ∀ i < wid, (∀ l' ∈ ls, l < l' → ∀ j < wid, (loc l').key j ≠ (loc l).key i) →
      ∃ w ∈ ws, ((loc l).key i, byte l i) ∈ w.data

/-- The word has become a producer (R60): its destinations are empty, every other register, bit and byte
is as before, and the word has moved on by `n` bytes. -/
structure Produced (s t : State) (lane : Bool) (kind : FillKind) (items : List Item)
    (ds : List (Nat × Nat)) (acq : Bool) (n : Nat) : Prop where
  fill : ∃ f, t.fills = s.fills ++ [f] ∧ f.kind = kind ∧ f.items = items ∧ f.lane = lane ∧
    f.gid = s.curG ∧ f.slot1 = s.curS ∧ f.acq = acq
  moved : Moved s t n
  emptyV : ∀ r < 128, bitOn t.cur.emptyV r =
    (bitOn s.cur.emptyV r || (lane && ds.any fun d => decide (d.1 ≤ r) && decide (r < d.1 + d.2)))
  emptyG : ∀ i < 136, bitOn t.cur.emptyG i =
    (bitOn s.cur.emptyG i ||
      (!lane && ds.any fun d => (List.range d.2).any fun j => gBit s.curS (d.1 + j) == i))
  values : t.cur.v = s.cur.v ∧ t.cur.g = s.cur.g ∧ t.cur.poisonV = s.cur.poisonV ∧
    t.cur.poisonG = s.cur.poisonG ∧ t.cur.stack = s.cur.stack ∧ t.cur.preds = s.cur.preds ∧
    t.cur.fpst = s.cur.fpst
  memory : t.mem.home = s.mem.home ∧ t.mem.l1 = s.mem.l1 ∧ t.teams = s.teams ∧ t.writes = s.writes
  others : ∀ gid, gid ≠ s.curG → t.group gid = s.group gid

/-- Byte `i` of a value that lies in doublewords, low one first. -/
def byteOf (x : Nat → W64) (i : Nat) : Byte := (x (i / 8)).extractLsb' (8 * (i % 8)) 8

/-- Of a team's scratchpad only the bytes named by `p` are changed. -/
def SpadOutside (s t : State) (p : Nat → Prop) : Prop :=
  { t.curTeam with spad := [] } = { s.curTeam with spad := [] } ∧
  ∀ k, ¬p k → byteAt t.curTeam.spad k = byteAt s.curTeam.spad k

/-- An element of `wid` bytes after an atomic or a reduction (R192). -/
def elementAfter (op : AtomOp) (wid old : Nat) (b0 b1 : W64) : Nat :=
  let x := BitVec.ofNat (8 * wid) old
  let y := b0.setWidth (8 * wid)
  match op with
  | .add => (x + y).toNat
  | .and => (x &&& y).toNat
  | .or => (x ||| y).toNat
  | .xor => (x ^^^ y).toNat
  | .minI => if x.slt y then x.toNat else y.toNat
  | .minN => min x.toNat y.toNat
  | .maxI => if x.slt y then y.toNat else x.toNat
  | .maxN => max x.toNat y.toNat
  | .exch => y.toNat
  | .cas => if x = y then (b1.setWidth (8 * wid)).toNat else x.toNat
  | .fadd => (faddW Mode.fixed (BitVec.ofNat 32 old) (b0.setWidth 32)).1.toNat % 2 ^ (8 * wid)

/-- The value of `n` bytes of the homes, low byte first. -/
def State.homeVal (s : State) (k n : Nat) : Nat := leNat (bytesAt s.mem.home k n)

/-- Of the homes only the bytes named by `p` are changed. -/
def HomeOutside (s t : State) (p : Nat → Prop) : Prop := ∀ k, ¬p k → byteAt t.mem.home k = byteAt s.mem.home k

/-! ### Claims about tables -/

/-- A handle names a table whole, as R197 asks: a usable one of a kind and key width that the word has,
with the rights it needs, not poisoned. -/
structure State.OnTable (s : State) (h : W64) (tid : Nat) (rd wr : Bool) (kinds : List Nat)
    (width : Option Nat) : Prop where
  named : h.toNat = tid * 2 ^ 42
  small : tid < 2 ^ 20
  sound : (s.table tid).poisonDesc = false ∧ (s.table tid).poisonIndex = false
  usable : (s.table tid).usable tid = true
  mayRead : rd = true → s.curLaunch.reads tid = true
  mayWrite : wr = true → s.curLaunch.writesTo tid = true
  kind : (s.table tid).kind ∈ kinds
  width : ∀ w, width = some w → w = (s.table tid).keyBytes

/-- A launch finds a row by its key: the only row of the key that it sees (R23, R35). -/
def State.Finds (s : State) (l : Nat) (t : Table) (k : Int) (slot : Nat) : Prop :=
  if t.dense then 0 ≤ k ∧ k < t.cap ∧ slot = k.toNat
  else (t.rows.map (·.key)).Nodup ∧ ∃ r ∈ t.rows, r.key = k ∧ s.sees l r = true ∧ r.slot = slot

/-- A launch sees no row of a key. -/
def State.Misses (s : State) (l : Nat) (t : Table) (k : Int) : Prop :=
  if t.dense then k < 0 ∨ t.cap ≤ k else ∀ r ∈ t.rows, r.key = k → s.sees l r = false

/-- The word has written a status and has moved on; beside its group only memory and the directory may
have changed. -/
def Reports (s t : State) (act : LaneSet) (vd : List (Nat × (Nat → W32))) (gd : List (Nat × W64))
    (n : Nat) : Prop :=
  ∃ u, Wrote s u act vd gd n 0 ∧ t = { u with mem := t.mem, tables := t.tables }

/-! ### Claims about regions -/

/-- A region's writes stand at their homes: each image's bytes, and no other byte is changed (R227); the units of the
sectors written are no longer poisoned (R190). -/
def Published (s t : State) (r : Region) : Prop :=
  (∀ u, u ∈ t.mem.poison ↔ u ∈ s.mem.poison ∧ ∀ i ∈ r.writes, i.sector ≠ u / 2) ∧
  (∀ i ∈ r.writes, ∀ j < 64, byteAt t.mem.home (64 * i.sector + j) = i.bytes.getD j 0) ∧
  ∀ k, (∀ i ∈ r.writes, i.sector ≠ sectorOf k) → byteAt t.mem.home k = byteAt s.mem.home k

/-- A region holds one image of a sector's bytes for each sector it writes (R224). -/
def Region.whole (r : Region) : Prop :=
  (∀ i ∈ r.writes, 64 ≤ i.bytes.length ∧ i.sector < 2 ^ 104) ∧ (r.writes.map (·.sector)).Nodup

/-- No access of a group's region waits: no wait edge leads into the region (R223, R226). -/
def State.NoWaits (s : State) (gid : Nat) : Prop := ∀ e ∈ s.edges, e.dst = gid → ∀ n, e.kind ≠ .wait n

/-- A table access of the issuing group's region `r` at key `k` meets nothing in its way: it is local and
within the capacity (R220), no other region has the sector in its sets, no cluster holds bytes of it that are
not at the home, no write of its own cluster to it is under way, its channel is open, no world owns the table, and
no access of the region waits. -/
structure State.Alone (s : State) (r : Region) (k : Nat) : Prop where
  one : ∀ x ∈ s.regions, x.gid = r.gid → x = r
  here : s.homeDie r.die k = r.die
  room : r.reads.length < 512 ∧ r.writes.length < 256 ∧
    ((s.regions.filter fun x => x.die == r.die).map (·.writes.length)).sum < 32768
  others : ∀ x ∈ s.regions, x.gid ≠ r.gid → k / 64 ∉ x.reads ∧ aget x.readAt (k / 64) = none ∧
    ∀ i ∈ x.writes, i.sector ≠ k / 64
  atHome : s.dirtyClusters (· == k / 64) = []
  still : s.underWay (s.clusterOf r.gid) (· == k / 64) = []
  unwaited : s.NoWaits r.gid
  open_ : s.channelShut k = false
  plain : (s.table (tidOfKey k)).ownw = false

/-- A region's image of a sector, if it has written it. -/
def Region.own (r : Region) (sec : Nat) : Option (List Byte) :=
  (r.writes.find? fun i => i.sector == sec).map (·.bytes)

/-- Byte `j` of a sector as a region alone at it reads it: of its own image, or of the home (R224). -/
def State.regionByte (s : State) (r : Region) (sec j : Nat) : Byte :=
  match r.own sec with
  | some b => b.getD j 0
  | none => byteAt s.mem.home (64 * sec + j)

/-- A region after an access to a sector: its read set has the sector unless it has an image of it; of its
images only that of the sector may be another (R222, R224). -/
def Region.after (r y : Region) (sec : Nat) : Prop :=
  y.gid = r.gid ∧ y.snap = r.snap ∧ (∀ x, x ∈ y.reads ↔ x ∈ r.reads ∨ (r.own sec = none ∧ x = sec)) ∧
  ∀ x, x ≠ sec → y.own x = r.own x

/-- A group stands as it did at its `fbeg` (R229). -/
def RestoredTo (g snap : Group) : Prop :=
  g.v = snap.v ∧ g.g = snap.g ∧ g.s0 = snap.s0 ∧ g.s1 = snap.s1 ∧ g.stack = snap.stack ∧
  g.preds = snap.preds ∧ g.fpst = snap.fpst

/-- No handler entry, abort, fill or half-done word of a group stands before its restoration (R229). -/
def State.Settled (s : State) (gid : Nat) : Prop :=
  (s.group gid).entering = none ∧ s.fillsOf gid = [] ∧ (s.group gid).midWord = false

end Sys2Proof.Machine
end

