-- ==== Sys2Proof/Certificates/Slice0/Obligations.lean ====
section
/-! DEFINITION. The statements for the provers. -/

open Sys2Proof Sys2Proof.Machine

/-! ### Lane words -/

/-- R94, R96, R5, R54, R60: what each lane-integer word of two sources writes in the active lanes, the
registers and everything else as before. -/
def Obligations.LaneIntegerBinaryResults : Prop :=
  ∀ (s : State) (d a b : Reg) (wa wb n : Bool) (cond : Cond) (sg : Bool),
    Lane2 s (.iaddI32 d a b wa wb n) d a b wa wb n 4 (fun x y => (x + y, 0)) ∧
    Lane2 s (.isubI32 d a b wa wb n) d a b wa wb n 4 (fun x y => (x - y, 0)) ∧
    Lane2 s (.imulI32 d a b wa wb n) d a b wa wb n 4 (fun x y => (x * y, 0)) ∧
    Lane2 s (.imulhI32 d a b wa wb n) d a b wa wb n 4
      (fun x y => ((x.signExtend 64 * y.signExtend 64).extractLsb' 32 32, 0)) ∧
    Lane2 s (.imulhN32 d a b wa wb n) d a b wa wb n 4
      (fun x y => ((x.setWidth 64 * y.setWidth 64).extractLsb' 32 32, 0)) ∧
    Lane2 s (.iminI32 d a b wa wb n) d a b wa wb n 4 (fun x y => (if x.slt y then x else y, 0)) ∧
    Lane2 s (.iminN32 d a b wa wb n) d a b wa wb n 4 (fun x y => (if x < y then x else y, 0)) ∧
    Lane2 s (.imaxI32 d a b wa wb n) d a b wa wb n 4 (fun x y => (if x.slt y then y else x, 0)) ∧
    Lane2 s (.imaxN32 d a b wa wb n) d a b wa wb n 4 (fun x y => (if x < y then y else x, 0)) ∧
    Lane2 s (.iand d a b wa wb n) d a b wa wb n 4 (fun x y => (x &&& y, 0)) ∧
    Lane2 s (.ior d a b wa wb n) d a b wa wb n 4 (fun x y => (x ||| y, 0)) ∧
    Lane2 s (.ixor d a b wa wb n) d a b wa wb n 4 (fun x y => (x ^^^ y, 0)) ∧
    Lane2 s (.ishl d a b wa wb n) d a b wa wb n 4 (fun x y => (x <<< y.toNat, 0)) ∧
    Lane2 s (.ishr d a b wa wb n) d a b wa wb n 4 (fun x y => (x >>> y.toNat, 0)) ∧
    Lane2 s (.isar d a b wa wb n) d a b wa wb n 4 (fun x y => (x.sshiftRight y.toNat, 0)) ∧
    Lane2 s (.ipk d a b wa wb n) d a b wa wb n 4
      (fun x y => (x &&& 0xFFFF ||| y <<< 16, 0)) ∧
    Lane2 s (.icmp d a b wa wb n cond sg) d a b wa wb n 8 (fun x y =>
      (if (match cond with
          | .eq => x == y
          | .ne => x != y
          | .lt => if sg then decide (x.toInt < y.toInt) else decide (x.toNat < y.toNat)
          | .le => if sg then decide (x.toInt ≤ y.toInt) else decide (x.toNat ≤ y.toNat)
          | .gt => if sg then decide (y.toInt < x.toInt) else decide (y.toNat < x.toNat)
          | .ge => if sg then decide (y.toInt ≤ x.toInt) else decide (y.toNat ≤ x.toNat)
          | .un | .ord => false)
        then 1 else 0, 0))

/-- R94 to R97: what each lane-integer word of one source or of three, of a literal or of a field
writes in the active lanes. -/
def Obligations.LaneIntegerUnaryAndFieldResults : Prop :=
  ∀ (s : State) (d a b c : Reg) (wa wb wc n sg : Bool) (pos lm1 : Fin 32) (imm : W32),
    Lane1 s (.iabs d a wa n) d a wa n 4 (fun x => (if x.toInt < 0 then -x else x, 0)) ∧
    Lane1 s (.ineg d a wa n) d a wa n 4 (fun x => (0 - x, 0)) ∧
    Lane1 s (.inot d a wa n) d a wa n 4 (fun x => (~~~x, 0)) ∧
    Lane1 s (.imov d a wa n) d a wa n 4 (fun x => (x, 0)) ∧
    Lane1 s (.icnt d a wa n) d a wa n 4
      (fun x => (BitVec.ofNat 32 ((List.range 32).countP fun i => x.getLsbD i), 0)) ∧
    Lane1 s (.iclz d a wa n) d a wa n 4 (fun x =>
      (BitVec.ofNat 32 ((List.range 32).takeWhile fun i => !x.getMsbD i).length, 0)) ∧
    LaneWrites s (.ili d n imm) ⟨[], [dv d], true⟩ n d 8 (fun _ => (imm, 0)) ∧
    (pos.val + lm1.val + 1 ≤ 32 →
      Lane1 s (.ibfe d a wa n sg pos lm1) d a wa n 8 (fun x =>
        (let y := x <<< (31 - (pos.val + lm1.val))
         if sg then y.sshiftRight (31 - lm1.val) else y >>> (31 - lm1.val), 0)) ∧
      LaneWrites s (.ibfi d a wa n pos lm1) ⟨[sv a wa, sv d false], [dv d], true⟩ n d 8 (fun l =>
        (let m := BitVec.allOnes 32 >>> (31 - lm1.val) <<< pos.val
         s.cur.vval d.val l &&& ~~~m ||| s.cur.vval a.val l <<< pos.val &&& m, 0))) ∧
    Lane3 s (.imadI32 d a b c wa wb wc n) d a b c wa wb wc n 8 (fun x y z => (x * y + z, 0)) ∧
    Lane3 s (.isel d a b c wa wb wc n) d a b c wa wb wc n 8
      (fun x y z => (if z = 0 then y else x, 0))

/-- R95: no operands make a lane division stop: the quotient truncated toward zero, and the fixed results
of a division by zero and of the one overflow. R54, R94: a 64-bit lane word reads and writes even register
pairs, the low half in the even register. -/
def Obligations.LaneDivisionAndPairResults : Prop :=
  ∀ (s : State) (d a b : Reg) (wa wb n : Bool),
    let pair (r : Reg) (l : Nat) : W64 := s.cur.vval (r.val + 1) l ++ s.cur.vval r.val l
    let word (i : Instr) (f : W64 → W64 → W64) : Prop :=
      i.wf = true → s.Accepts ⟨[svs a 2 wa, svs b 2 wb], [dvs d 2], true⟩ →
        Gives i s fun t =>
          Wrote s t (s.lanesOn n)
            [(d.val, fun l => (f (pair a l) (pair b l)).extractLsb' 0 32),
              (d.val + 1, fun l => (f (pair a l) (pair b l)).extractLsb' 32 32)] [] 4 0
    Lane2 s (.idivI32 d a b wa wb n) d a b wa wb n 4 (fun x y =>
      (if y = 0 then (if x.toInt < 0 then 0x80000000 else 0x7FFFFFFF) else x.sdiv y, 0)) ∧
    Lane2 s (.idivN32 d a b wa wb n) d a b wa wb n 4
      (fun x y => (if y = 0 then 0xFFFFFFFF else x.udiv y, 0)) ∧
    word (.iaddI64 d a b wa wb n) (· + ·) ∧ word (.isubI64 d a b wa wb n) (· - ·)

/-- R98 to R100: the lane floating-point words write the result of their operation in FMT of the issuing
path in each active lane and OR the flags of the active lanes into %fpst. -/
def Obligations.LaneFloatResults : Prop :=
  ∀ (s : State) (d a b c : Reg) (wa wb wc n bf : Bool) (cond : Cond),
    Lane2 s (.faddF32 d a b wa wb n) d a b wa wb n 4 (faddW s.curMode) ∧
    Lane2 s (.fsubF32 d a b wa wb n) d a b wa wb n 4 (fsubW s.curMode) ∧
    Lane2 s (.fmulF32 d a b wa wb n) d a b wa wb n 4 (fmulW s.curMode) ∧
    Lane3 s (.fmaF32 d a b c wa wb wc n) d a b c wa wb wc n 8 (fmaW s.curMode) ∧
    Lane2 s (.fminF32 d a b wa wb n) d a b wa wb n 4
      (fun x y => asW (fMinMax false s.curMode x.toNat y.toNat)) ∧
    Lane2 s (.fmaxF32 d a b wa wb n) d a b wa wb n 4
      (fun x y => asW (fMinMax true s.curMode x.toNat y.toNat)) ∧
    Lane2 s (.fcmpF32 d a b wa wb n cond) d a b wa wb n 8 (fcmpW s.curMode cond) ∧
    Lane1 s (.fabs d a wa n) d a wa n 4 (fun x => asW (fAbs s.curMode x.toNat)) ∧
    Lane2 s (.faddH2 d a b wa wb n bf) d a b wa wb n 8 (faddH bf s.curMode) ∧
    Lane2 s (.fmulH2 d a b wa wb n bf) d a b wa wb n 8 (fmulH bf s.curMode) ∧
    Lane3 s (.fmaH2 d a b c wa wb wc n bf) d a b c wa wb wc n 8 (fmaH bf s.curMode) ∧
    Lane3 s (.fdp2 d a b c wa wb wc n bf) d a b c wa wb wc n 8 (fdp2W bf s.curMode)

/-- R101: the correctly rounded functions as lane words, and their values: a NaN operand and the special
operands of R101's table; a quotient, a reciprocal, a square root and its reciprocal rounded once from
enough bits with the remainder as sticky bit; 2^x at integers, log2 at powers of two, sin(πx) and cos(πx) at
integers and halves. -/
def Obligations.LaneFunctionResults : Prop :=
  (∀ (s : State) (d a b : Reg) (wa wb n : Bool),
    let one (i : Instr) (f : Mode → Nat → Nat × Flags) : Prop :=
      Lane1 s i d a wa n 4 fun x => asW (f s.curMode x.toNat)
    one (.frcp d a wa n) fRcp ∧ one (.frsq d a wa n) fRsq ∧ one (.fsqrt d a wa n) fSqrt ∧
    one (.fex2 d a wa n) fExp2 ∧ one (.flg2 d a wa n) fLog2 ∧ one (.fsnp d a wa n) fSinPi ∧
    one (.fcsp d a wa n) fCosPi ∧ one (.ftnh d a wa n) fTanh ∧
    Lane2 s (.fdivF32 d a b wa wb n) d a b wa wb n 4
      (fun x y => asW (fDiv s.curMode x.toNat y.toNat))) ∧
  (∀ (md : Mode) (x y : Nat) (n n' sg : Bool) (m m' : Nat) (e e' : Int),
    let v := fmt32.operand md x
    let w := fmt32.operand md y
    let nan (nv : Bool) : Nat × Flags := (0x7FC00000, if nv then flagNV else 0)
    let signed0 (z : Nat) (neg : Bool) : Nat := (if neg then 2 ^ 31 else 0) + z
    fRcp md x = fDiv md 0x3F800000 x ∧
    (v = .nan sg → ∀ f ∈ [fRcp, fRsq, fSqrt, fExp2, fLog2, fSinPi, fCosPi, fTanh], f md x = nan sg) ∧
    (v.isNan = true ∨ w.isNan = true → fDiv md x y = nan (v.isSnan || w.isSnan)) ∧
    (v = .inf n → fRsq md x = (if n then nan true else (0, 0)) ∧
      fSqrt md x = (if n then nan true else (0x7F800000, 0)) ∧
      fExp2 md x = (if n then 0 else 0x7F800000, 0) ∧
      fLog2 md x = (if n then nan true else (0x7F800000, 0)) ∧ fSinPi md x = nan true ∧
      fCosPi md x = nan true ∧ fTanh md x = (signed0 0x3F800000 n, 0) ∧
      (w.isInf = true → fDiv md x y = nan true) ∧
      (w = .fin n' m' e' → fDiv md x y = (signed0 0x7F800000 (n != n'), 0))) ∧
    (v = .fin n 0 e → fRsq md x = (signed0 0x7F800000 n, flagDZ) ∧ fSqrt md x = (signed0 0 n, 0) ∧
      fExp2 md x = (0x3F800000, 0) ∧ fLog2 md x = (0xFF800000, flagDZ) ∧ fSinPi md x = (signed0 0 n, 0) ∧
      fCosPi md x = (0x3F800000, 0) ∧ fTanh md x = (signed0 0 n, 0)) ∧
    (v = .fin true m e → m ≠ 0 → fRsq md x = nan true ∧ fSqrt md x = nan true ∧ fLog2 md x = nan true) ∧
    (v = .fin n m e → w = .inf n' → fDiv md x y = (signed0 0 (n != n'), 0)) ∧
    (v = .fin n m e → w = .fin n' m' e' →
      (m = 0 → m' = 0 → fDiv md x y = nan true) ∧
      (m ≠ 0 → m' = 0 → fDiv md x y = (signed0 0x7F800000 (n != n'), flagDZ)) ∧
      (m = 0 → m' ≠ 0 → fDiv md x y = (signed0 0 (n != n'), 0)) ∧
      (m ≠ 0 → m' ≠ 0 → ∃ k : Nat, 2 ^ 26 ≤ m * 2 ^ k / m' ∧
        RoundsTo fmt32 md (n != n') (m * 2 ^ k / m') (e - e' - k) (m * 2 ^ k % m' != 0) (fDiv md x y))) ∧
    (v = .fin false m e → m ≠ 0 →
      (∃ (z k : Nat) (u : Int), 2 ^ 26 ≤ z ∧ e - k = 2 * u ∧ z ^ 2 ≤ m * 2 ^ k ∧ m * 2 ^ k < (z + 1) ^ 2 ∧
        RoundsTo fmt32 md false z u (m * 2 ^ k != z ^ 2) (fSqrt md x)) ∧
      (∃ (z k : Nat) (u : Int), 2 ^ 26 ≤ z ∧ -e - k = 2 * u ∧ m * z ^ 2 ≤ 2 ^ k ∧
        2 ^ k < m * (z + 1) ^ 2 ∧ RoundsTo fmt32 md false z u (m * z ^ 2 != 2 ^ k) (fRsq md x))) ∧
    (∀ i : Int, i ≠ 0 → i.natAbs < 2 ^ 9 → v = .fin (decide (i < 0)) m e → e ≤ 0 → m = i.natAbs * 2 ^ (-e).toNat →
      ProductRounds fmt32 md false 1 i (fExp2 md x)) ∧
    (v = .fin false (2 ^ m') e → (e + m' = 0 → fLog2 md x = (0, 0)) ∧
      (e + m' ≠ 0 → RoundsTo fmt32 md (decide (e + m' < 0)) (e + m').natAbs 0 false (fLog2 md x))) ∧
    (v = .fin n m e → m ≠ 0 →
      (0 < e → fSinPi md x = (signed0 0 n, 0) ∧ fCosPi md x = (0x3F800000, 0)) ∧
      (e ≤ 0 → ∀ i, m = i * 2 ^ (-e).toNat → fSinPi md x = (signed0 0 n, 0) ∧
        fCosPi md x = (signed0 0x3F800000 (i % 2 == 1), 0)) ∧
      (e < 0 → ∀ i, 2 * m = (2 * i + 1) * 2 ^ (-e).toNat →
        fSinPi md x = (signed0 0x3F800000 ((i % 2 == 1) != n), 0) ∧ fCosPi md x = (0, 0))))

/-- R77, R98: a NaN that FP32 addition, multiplication, fused multiply-add, division, square root, minimum or
maximum returns is the canonical one, in every mode. In FP32, FP16 and BF16 a NaN operand, ∞ − ∞ and 0 × ∞
give it, and raise NV for a signalling NaN and for the last two; other infinite results are exact. The
minimum and maximum, the absolute value and the comparisons follow the order of the values. -/
def Obligations.NanResultsAreCanonical : Prop :=
  (∀ (md : Mode) (mx : Bool) (a b c : W32),
    let ok (r : Nat × Flags) : Prop := (fmt32.decode r.1).isNan = true → r.1 = 0x7FC00000
    ok (fAdd fmt32 md a.toNat b.toNat) ∧ ok (fSub fmt32 md a.toNat b.toNat) ∧
    ok (fMul fmt32 md a.toNat b.toNat) ∧ ok (fFma fmt32 md a.toNat b.toNat c.toNat) ∧
    ok (fDiv md a.toNat b.toNat) ∧ ok (fSqrt md a.toNat) ∧ ok (fMinMax mx md a.toNat b.toNat)) ∧
  (∀ p ∈ [(fmt32, 0x7FC00000), (fmt16, 0x7E00), (fmtB16, 0x7FC0)], ∀ (md : Mode) (a b c : Nat),
    let f := p.1
    let x := f.operand md a
    let y := f.operand md b
    let z := f.operand md c
    let nan (nv : Bool) (r : Nat × Flags) : Prop := r = (p.2, if nv then flagNV else 0)
    let infinite (n : Bool) (r : Nat × Flags) : Prop := f.decode r.1 = .inf n ∧ r.2 = 0
    let bad := (x.isInf && y.isZero) || (x.isZero && y.isInf)
    let clash (x y : FVal) : Bool := x.isInf && y.isInf && x.neg != y.neg
    let product := !x.isNan && !y.isNan && !bad && (x.isInf || y.isInf)
    let sgn := x.neg != y.neg
    (x.isNan || y.isNan || clash x y → nan (x.isSnan || y.isSnan || clash x y) (fAdd f md a b)) ∧
    (x.isNan || y.isNan || (x.isInf && y.isInf && x.neg == y.neg) →
      nan (x.isSnan || y.isSnan || (x.isInf && y.isInf && x.neg == y.neg)) (fSub f md a b)) ∧
    (∀ n, x = .inf n → y.isNan = false → clash x y = false → infinite n (fAdd f md a b)) ∧
    (∀ n, y = .inf n → x.isNan = false → clash x y = false → infinite n (fAdd f md a b)) ∧
    (x.isNan || y.isNan || bad → nan (x.isSnan || y.isSnan || bad) (fMul f md a b)) ∧
    (product = true → infinite sgn (fMul f md a b)) ∧
    (x.isNan || y.isNan || z.isNan || bad → nan (x.isSnan || y.isSnan || z.isSnan || bad) (fFma f md a b c)) ∧
    (product = true → z.isInf = true → z.neg ≠ sgn → nan true (fFma f md a b c)) ∧
    (product = true → z.isNan = false → (z.isInf = true → z.neg = sgn) → infinite sgn (fFma f md a b c)) ∧
    (x.isNan = false → y.isNan = false → x.isInf = false → y.isInf = false → z.isInf = true →
      infinite z.neg (fFma f md a b c))) ∧
  (∀ (md : Mode) (a b : W32),
    let x := fmt32.operand md a.toNat
    let y := fmt32.operand md b.toNat
    let kept (c : W32) : Nat :=
      if md.ftz ∧ c.extractLsb' 23 8 = 0 then (c &&& 0x80000000).toNat else c.toNat
    let nv : Flags := if x.isSnan || y.isSnan then flagNV else 0
    let un := x.isNan || y.isNan
    let nvq : Flags := if un then flagNV else 0
    let answers (cond : Cond) (p : Prop) (fl : Flags) : Prop :=
      ((fCmp md cond a.toNat b.toNat).1 = true ↔ p) ∧ (fCmp md cond a.toNat b.toNat).2 = fl
    (∀ mx, (fMinMax mx md a.toNat b.toNat).2 = nv ∧
      (x.isNan = true → y.isNan = true → (fMinMax mx md a.toNat b.toNat).1 = 0x7FC00000) ∧
      (x.isNan = true → y.isNan = false → (fMinMax mx md a.toNat b.toNat).1 = kept b) ∧
      (x.isNan = false → y.isNan = true → (fMinMax mx md a.toNat b.toNat).1 = kept a)) ∧
    (un = false → x.Below y ∨ (x.isZero = true ∧ y.isZero = true ∧ x.neg = true ∧ y.neg = false) →
      (fMinMax false md a.toNat b.toNat).1 = kept a ∧ (fMinMax true md a.toNat b.toNat).1 = kept b ∧
      (fMinMax false md b.toNat a.toNat).1 = kept a ∧ (fMinMax true md b.toNat a.toNat).1 = kept b) ∧
    fAbs md a.toNat = (if x.isNan then (0x7FC00000, if x.isSnan then flagNV else 0)
      else (kept (a &&& 0x7FFFFFFF), 0)) ∧
    answers .lt (un = false ∧ x.Below y) nvq ∧ answers .gt (un = false ∧ y.Below x) nvq ∧
    answers .le (un = false ∧ ¬y.Below x) nvq ∧ answers .ge (un = false ∧ ¬x.Below y) nvq ∧
    answers .eq (un = false ∧ ¬x.Below y ∧ ¬y.Below x) nv ∧
    answers .ne (un = true ∨ x.Below y ∨ y.Below x) nv ∧ answers .un (un = true) nv ∧ answers .ord (un = false) nv)

/-- R81: rounding of a magnitude, m × 2^e or with `st` one strictly between that and (m + 1) × 2^e, to a
multiple of 2^q, e ≤ q: an exact multiple stays; otherwise the result is one of its two neighbours: RNE the
nearer and on a tie the even one, RZ the lower, RU and RD by the sign. R76, R98 to R100: sums, products,
fused products and two-term dot products of finite values are formed exactly and rounded once, and the lane words
give them. -/
def Obligations.RoundingChoosesTheNeighbour : Prop :=
  (∀ (neg st : Bool) (m d : Nat) (e : Int), 0 < d →
    let q : Int := e + d
    let lo := m / 2 ^ d
    let rest := 2 * (m % 2 ^ d) + (if st then 1 else 0)
    (∀ rm, rest = 0 → roundAt rm neg m e st q = (lo, false)) ∧
    (rest ≠ 0 →
      (rest < 2 ^ d → roundAt 0 neg m e st q = (lo, true)) ∧
      (2 ^ d < rest → roundAt 0 neg m e st q = (lo + 1, true)) ∧
      (rest = 2 ^ d → roundAt 0 neg m e st q = (if lo % 2 = 0 then lo else lo + 1, true)) ∧
      roundAt 1 neg m e st q = (lo, true) ∧
      roundAt 2 neg m e st q = (if neg then lo else lo + 1, true) ∧
      roundAt 3 neg m e st q = (if neg then lo + 1 else lo, true))) ∧
  (fmt32.decode fmt32.maxEnc = .fin false (2 ^ 24 - 1) 104 ∧ fmt16.decode fmt16.maxEnc = .fin false 2047 5 ∧
    fmtB16.decode fmtB16.maxEnc = .fin false 255 120 ∧ fmtE4.decode fmtE4.maxEnc = .fin false 14 5 ∧
    fmtE5.decode fmtE5.maxEnc = .fin false 7 13) ∧
  (∀ f ∈ [fmt32, fmt16, fmtB16], ∀ (md : Mode) (a b c : Nat) (n n' n'' : Bool) (m m' m'' : Nat) (e e' e'' : Int),
    f.operand md a = .fin n m e → f.operand md b = .fin n' m' e' →
      SumRounds f md [(n, m, e), (n', m', e')] (fAdd f md a b) ∧
      SumRounds f md [(n, m, e), (!n', m', e')] (fSub f md a b) ∧
      ProductRounds f md (n != n') (m * m') (e + e') (fMul f md a b) ∧
      (f.operand md c = .fin n'' m'' e'' →
        SumRounds f md [(n != n', m * m', e + e'), (n'', m'', e'')] (fFma f md a b c))) ∧
  (∀ f ∈ [fmt16, fmtB16], ∀ (md : Mode) (a b a' b' c : Nat) (x y x' y' z : Bool × Nat × Int),
    let is (g : Fmt) (w : Nat) (u : Bool × Nat × Int) : Prop := g.operand md w = .fin u.1 u.2.1 u.2.2
    is f a x → is f b y → is f a' x' → is f b' y' → is fmt32 c z →
      SumRounds fmt32 md [z, (x.1 != y.1, x.2.1 * y.2.1, x.2.2 + y.2.2),
        (x'.1 != y'.1, x'.2.1 * y'.2.1, x'.2.2 + y'.2.2)] (fDot2 f md a b a' b' c)) ∧
  (∀ (md : Mode) (a b c : W32),
    let word (r : Nat × Flags) : W32 × Flags := (BitVec.ofNat 32 r.1, r.2)
    faddW md a b = word (fAdd fmt32 md a.toNat b.toNat) ∧ fsubW md a b = word (fSub fmt32 md a.toNat b.toNat) ∧
    fmulW md a b = word (fMul fmt32 md a.toNat b.toNat) ∧
    fmaW md a b c = word (fFma fmt32 md a.toNat b.toNat c.toNat) ∧
    (∀ cond, fcmpW md cond a b = (if (fCmp md cond a.toNat b.toNat).1 = true then 1 else 0,
      (fCmp md cond a.toNat b.toNat).2)) ∧
    ∀ bf : Bool,
      let f := if bf then fmtB16 else fmt16
      let lo (x : W32) : Nat := (x.extractLsb' 0 16).toNat
      let hi (x : W32) : Nat := (x.extractLsb' 16 16).toNat
      let two (u v : Nat × Flags) : W32 × Flags := (BitVec.ofNat 16 v.1 ++ BitVec.ofNat 16 u.1, u.2 ||| v.2)
      faddH bf md a b = two (fAdd f md (lo a) (lo b)) (fAdd f md (hi a) (hi b)) ∧
      fmulH bf md a b = two (fMul f md (lo a) (lo b)) (fMul f md (hi a) (hi b)) ∧
      fmaH bf md a b c = two (fFma f md (lo a) (lo b) (lo c)) (fFma f md (hi a) (hi b) (hi c)) ∧
      fdp2W bf md a b c = word (fDot2 f md (lo a) (lo b) (hi a) (hi b) c.toNat))

/-- R80, R102 to R104: conversions between the formats, with 64-bit integers in even pairs, and the packing
and unpacking of paired-exponent blocks, one block for each beat of 32 lanes that has an active lane. R83,
R102: what a conversion gives: a finite float or an integer rounded once into a float format, a float or an
integer rounded to an integer and held to its range, with their flags, and the special values. -/
def Obligations.ConversionResults : Prop :=
  (∀ (md : Mode) (dst src : Ty) (bits x : Nat),
    let r := convert dst src md bits x
    let lowest (w : Nat) (sg : Bool) : Int := if sg then -(2 : Int) ^ (w - 1) else 0
    let highest (w : Nat) (sg : Bool) : Int := if sg then (2 : Int) ^ (w - 1) - 1 else (2 : Int) ^ w - 1
    let bitsOf (v : Int) : Nat := (v % (2 : Int) ^ bits).toNat
    let held (w : Nat) (sg : Bool) (v : Int) : Int := max (lowest w sg) (min (highest w sg) v)
    let intOf (w : Nat) (sg : Bool) : Int :=
      if sg then (BitVec.ofNat w x).toInt else ((BitVec.ofNat w x).toNat : Int)
    (∀ df sf, tyFmt dst = some df → tyFmt src = some sf →
      let v := sf.operand md (x % 2 ^ (1 + sf.ebits + sf.pbits))
      (∀ g, v = .nan g → r = (df.nanEnc, if g then flagNV else 0)) ∧
      (∀ n, v = .inf n → if dst = .e4 ∨ dst = .e5 then
          (md.sat = true → r = (df.enc n df.maxEnc, 0)) ∧
          (md.sat = false → if dst = .e4 then r = (0x7F, flagNV) else df.decode r.1 = .inf n ∧ r.2 = 0)
        else df.decode r.1 = .inf n ∧ r.2 = 0) ∧
      (∀ n m e, v = .fin n m e → ProductRounds df md n m e r)) ∧
    (∀ df w sg, tyFmt dst = some df → tyInt src = some (w, sg) →
      ProductRounds df md (decide (intOf w sg < 0)) (intOf w sg).natAbs 0 r) ∧
    (∀ sf w sg, tyInt dst = some (w, sg) → tyFmt src = some sf →
      let v := sf.operand md (x % 2 ^ (1 + sf.ebits + sf.pbits))
      (v.isNan = true → r = (0, flagNV)) ∧
      (∀ n, v = .inf n → r = (bitsOf (if n then lowest w sg else highest w sg), flagNV)) ∧
      (∀ n m e, v = .fin n m e →
        let k := roundAt md.rm n m e false 0
        r = (bitsOf (held w sg (signed n k.1)), if held w sg (signed n k.1) ≠ signed n k.1 then flagNV
          else if k.2 then flagNX else 0))) ∧
    (∀ w sg w' sg', tyInt dst = some (w, sg) → tyInt src = some (w', sg') →
      r = (bitsOf (held w sg (intOf w' sg')), 0)) ∧
    tyFmt .f32 = some fmt32 ∧ tyFmt .f16 = some fmt16 ∧ tyFmt .bf16 = some fmtB16 ∧ tyFmt .e4 = some fmtE4 ∧
    tyFmt .e5 = some fmtE5) ∧
  ∀ (s : State) (d a c : Reg) (wa wc n x4 : Bool) (dst src : Ty),
    ((Instr.cvt d a wa n dst src).wf = true → s.Accepts ⟨[svs a src.regs wa], [dvs d dst.regs], true⟩ →
      Gives (.cvt d a wa n dst src) s fun t =>
        let r (l : Nat) := convert dst src s.curMode (32 * dst.regs) (s.cur.cvtSource src a.val l)
        let word (k l : Nat) : W32 := BitVec.ofNat 32 ((r l).1 / 2 ^ (32 * k))
        Wrote s t (s.lanesOn n) ((List.range dst.regs).map fun k => (d.val + k, word k)) [] 8
          (orFlags ((lanesOf (s.lanesOn n)).map fun l => (r l).2))) ∧
    (c ≠ d → s.Accepts ⟨[sv a wa], [dv d, dv c], true⟩ →
      Gives (.xpk d a c wa n x4) s fun t =>
        let block (l : Nat) := s.cur.packBeat x4 (s.lanesOn n) a.val (l / 32)
        Wrote s t (s.lanesOn n)
          [(d.val, fun l => BitVec.ofNat 32 ((block l).2.2.1.getD (l % 32) 0)),
            (c.val, fun l => BitVec.ofNat 32 ((block l).2.1 * 2 ^ 8 + (block l).1))] [] 8
          (orFlags ((beatsOf (s.lanesOn n)).map fun b => (block (32 * b)).2.2.2))) ∧
    LaneWrites s (.xupk d a c wa wc n x4) ⟨[sv a wa, sv c wc], [dv d], true⟩ n d 8 (fun l =>
      let e := s.cur.vval c.val l
      (BitVec.ofNat 32 (pxUnpack x4 (e.extractLsb' 0 8).toNat (e.extractLsb' 8 8).toNat
        ((s.cur.vval a.val l).extractLsb' 0 (if x4 then 4 else 8)).toNat), 0))

/-! ### Words across lanes -/

/-- R105, R106, R108: `shfl`, `gtov`, `vscn` and `ipfx`: every active lane gets the value of the lane its
rule names, the uniform value, the tree over the active lanes up to it, the sum over those below it. -/
def Obligations.CrossLaneResults : Prop :=
  ∀ (s : State) (d a b : Reg) (wa wb n : Bool) (mode : ShflMode) (op : RedOp) (ty : Ty),
    LaneWrites s (.shfl d a b wa wb n mode) ⟨[sv a wa, sv b wb], [dv d], true⟩ n d 8 (fun l =>
      let k := (s.cur.vval b.val l).toNat
      let src : Nat :=
        match mode with
        | .idx => if k < 96 then k else l
        | .up => if k ≤ l then l - k else l
        | .dn => if l + k < 96 then l + k else l
        | .xor => if l ^^^ k < 96 then l ^^^ k else l
      (s.cur.vval a.val src, 0)) ∧
    LaneWrites s (.gtov d a wa n) ⟨[sg a wa], [dv d], true⟩ n d 4
      (fun _ => ((s.cur.gval s.curS a.val).setWidth 32, 0)) ∧
    LaneWrites s (.vscn d a wa n op ty) ⟨[sv a wa], [dv d], true⟩ n d 8 (fun l =>
      redResult op ty (tree (redOp op ty s.curMode) (laneNums.map fun i =>
        if (s.lanesOn n).getLsbD i && decide (i ≤ l) then some (s.cur.vval a.val i, 0) else none))) ∧
    LaneWrites s (.ipfx d a wa n) ⟨[sv a wa], [dv d], true⟩ n d 4 (fun l =>
      ((((lanesOf (s.lanesOn n)).filter (· < l)).map (s.cur.vval a.val)).sum, 0)) ∧
    ∀ w e : Nat, w < 2 ^ 32 → w / 2 ^ 24 = 0xB8 → 4 ≤ e / 2 ^ 20 % 16 → ∃ r, decodeWords w e = .error r

/-- R89, R106, R107, R109: `vtog`, `vred` and `vote` write one uniform register from the lanes. -/
def Obligations.LaneToUniformResults : Prop :=
  ∀ (s : State) (d a b : Reg) (wa wb n : Bool) (op : RedOp) (ty : Ty),
    let lanes := lanesOf (s.lanesOn n)
    let votes := lanes.filter fun l => s.cur.vval a.val l != 0
    let vote (mode : VoteMode) (x : W64) : Prop :=
      UniWrites s (.vote d a wa n mode) ⟨[sv a wa], [dg d], true⟩ d 8 (x, 0)
    let lane := (s.cur.gval s.curS b.val).toNat
    UniWrites s (.vtog d a b wa wb) ⟨[sv a wa, sg b wb], [dg d], true⟩ d 4
      (if lane < 96 then (s.cur.vval a.val lane).setWidth 64 else 0, 0) ∧
    UniWrites s (.vred d a wa n op ty) ⟨[sv a wa], [dg d], true⟩ d 8
      (let r := redResult op ty (tree (redOp op ty s.curMode) (laneNums.map fun i =>
        if (s.lanesOn n).getLsbD i then some (s.cur.vval a.val i, 0) else none))
       (if ty = .i32 then r.1.signExtend 64 else r.1.setWidth 64, r.2)) ∧
    vote .any (if votes = [] then 0 else 1) ∧
    vote .all (if votes = lanes then 1 else 0) ∧
    vote .cnt (BitVec.ofNat 64 votes.length) ∧
    (∀ mode, (mode = VoteMode.lo ∨ mode = VoteMode.hi) → ∀ x : W64,
      (∀ i < 64, x.getLsbD i = decide ((if mode = .lo then i else 64 + i) ∈ votes)) → vote mode x) ∧
    ∀ w e : Nat, w < 2 ^ 32 → w / 2 ^ 24 = 0xBD → 5 ≤ e / 2 ^ 20 % 16 → ∃ r, decodeWords w e = .error r

/-- R89: the order of a reduction of 96 values: pairs of neighbours, then of pairs, over five levels; the
three results of 32 values each are combined as (x0 ∘ x1) ∘ x2; a pair with one absent member yields the other, one
with both absent is absent. R107: what a pair combines to, with the flags of all, and the result where no lane is
present. The canonical NaN for the NaN of a lone lane is the model's reading (log entry 38). -/
def Obligations.ReductionTreeOrder : Prop :=
  (∀ (f : W32 → W32 → W32) (x : Nat → W32),
    let rec' (k i : Nat) : W32 := Nat.rec (motive := fun _ => Nat → W32) x
      (fun _ y j => f (y (2 * j)) (y (2 * j + 1))) k i
    tree f (laneNums.map fun l => some (x l)) = some (f (f (rec' 5 0) (rec' 5 1)) (rec' 5 2))) ∧
  (∀ (f : W32 × Flags → W32 × Flags → W32 × Flags) (x : Nat → Option (W32 × Flags)),
    let pair (a b : Option (W32 × Flags)) : Option (W32 × Flags) :=
      match a, b with
      | some u, some v => some (f u v)
      | some u, none => some u
      | none, v => v
    let rec' (k i : Nat) : Option (W32 × Flags) :=
      Nat.rec (motive := fun _ => Nat → Option (W32 × Flags)) x
        (fun _ y j => pair (y (2 * j)) (y (2 * j + 1))) k i
    tree f (laneNums.map x) = pair (pair (rec' 5 0) (rec' 5 1)) (rec' 5 2)) ∧
  (∀ (ty : Ty) (md : Mode) (x y : W32) (f g : Flags), ty = .i32 ∨ ty = .n32 ∨ ty = .f32 →
    let one (op : RedOp) (r : W32 × Flags) : Prop := redOp op ty md (x, f) (y, g) = (r.1, f ||| g ||| r.2)
    let asFp (r : Nat × Flags) : W32 × Flags := (BitVec.ofNat 32 r.1, r.2)
    let less := if ty = .i32 then x.slt y else x.ult y
    (ty = .f32 → one .add (asFp (fAdd fmt32 md x.toNat y.toNat)) ∧
      one .min (asFp (fMinMax false md x.toNat y.toNat)) ∧ one .max (asFp (fMinMax true md x.toNat y.toNat))) ∧
    (ty ≠ .f32 → one .add (x + y, 0) ∧ one .min (if less then x else y, 0) ∧ one .max (if less then y else x, 0) ∧
      one .and (x &&& y, 0) ∧ one .or (x ||| y, 0) ∧ one .xor (x ^^^ y, 0)) ∧
    redResult .add ty none = (0, 0) ∧
    redResult .min ty none =
      (if ty = .i32 then 0x7FFFFFFF else if ty = .n32 then 0xFFFFFFFF else 0x7F800000, 0) ∧
    redResult .max ty none = (if ty = .i32 then 0x80000000 else if ty = .n32 then 0 else 0xFF800000, 0) ∧
    redResult .and ty none = (0xFFFFFFFF, 0) ∧ redResult .or ty none = (0, 0) ∧ redResult .xor ty none = (0, 0) ∧
    ∀ op, redResult op ty (some (x, f)) =
      (if ty = .f32 ∧ (fmt32.decode x.toNat).isNan = true then 0x7FC00000 else x, f))

/-- R110 to R113: `rnd` and `samp`: the generator's counter advances by 96 at each issue; a lane's number
is F of the key and the counter plus the lane; `samp` keeps the better of the running best and the best
candidate. -/
def Obligations.RandomAndSamplingResults : Prop :=
  ∀ (s : State) (d a b c : Reg) (wa wb wc n : Bool),
    ((Instr.rnd d a wa n).wf = true → s.Accepts ⟨[sgs a 2 wa], [dv d, ⟨false, a.val + 1, 1, false⟩], true⟩ →
      Gives (.rnd d a wa n) s fun t =>
        let ctr := s.cur.gval s.curS (a.val + 1)
        Wrote s t (s.lanesOn n)
          [(d.val, fun l => rndF (s.cur.gval s.curS a.val) (ctr + BitVec.ofNat 64 l))]
          [(a.val + 1, ctr + 96)] 4 0) ∧
    ((Instr.samp d a b c wa wb wc n).wf = true →
      s.Accepts ⟨[sv a wa, sg b wb, sgs c 2 wc, sgs d 2 false],
        [dgs d 2, ⟨false, c.val + 1, 1, false⟩], true⟩ →
      Gives (.samp d a b c wa wb wc n) s fun t =>
        let g (r : Nat) := s.cur.gval s.curS r
        let ctr := g (c.val + 1)
        let old : Cand := (lo32 (g d.val), lo32 (g (d.val + 1)))
        let cands := laneNums.map fun l =>
          if (s.lanesOn n).getLsbD l then
            some ((sampScore s.curMode (lo32 (g b.val)) (s.cur.vval a.val l)
              (rndF (g c.val) (ctr + BitVec.ofNat 64 l)), hi32 (g b.val) + BitVec.ofNat 32 l) : Cand)
          else none
        let won := (tree bestOf cands).filter fun x => better x old
        Wrote s t 0 []
          ((match won with
            | some x => [(d.val, x.1.setWidth 64), (d.val + 1, x.2.setWidth 64)]
            | none => []) ++ [(c.val + 1, ctr + 96)]) 8 0)

/-- R101: 2^x, log2 x, sin(πx), cos(πx) and tanh x at general operands, where the result is inexact: each is rounded
once, as an inexact result, from a value that lies within one part in 2^200 of the exact one, or that brackets it;
2^x beyond the exponents of FP32 overflows or is tiny. That no FP32 operand brings an exact result nearer than that to
a rounding boundary, so that these are the correctly rounded results, is log entry 18. -/
def Obligations.ElementaryFunctionsNearExact : Prop :=
  ∀ (md : Mode) (a : Nat) (v : ℝ), (fmt32.operand md a).Is v → v ≠ 0 →
    ((∀ i : Int, v ≠ i) → |v| < 512 → RoundsNear fmt32 md ((2 : ℝ) ^ v) (fExp2 md a)) ∧
    (512 ≤ v → RoundsTo fmt32 md false 1 600 false (fExp2 md a)) ∧
    (v ≤ -512 → RoundsTo fmt32 md false 1 (-600) true (fExp2 md a)) ∧
    (0 < v → (∀ i : Int, v ≠ (2 : ℝ) ^ i) → RoundsNear fmt32 md (Real.logb 2 v) (fLog2 md a)) ∧
    ((∀ i : Int, 2 * v ≠ i) → RoundsNear fmt32 md (Real.sin (Real.pi * v)) (fSinPi md a) ∧
      RoundsNear fmt32 md (Real.cos (Real.pi * v)) (fCosPi md a)) ∧
    ((2 : ℝ) ^ (-50 : Int) ≤ |v| → |v| < 256 → RoundsNear fmt32 md (Real.tanh v) (fTanh md a)) ∧
    (|v| < (2 : ℝ) ^ (-50 : Int) ∨ 256 ≤ |v| → ∃ (z : Nat) (p : Int), 2 ^ 26 ≤ z ∧
      (z : ℝ) * (2 : ℝ) ^ p < Real.tanh |v| ∧ Real.tanh |v| < ((z : ℝ) + 1) * (2 : ℝ) ^ p ∧
      RoundsTo fmt32 md (decide (v < 0)) z p true (fTanh md a))

/-- R78, R80, R103, R104: the block that `xpk` packs from 32 values: one exponent pair from the largest magnitude, the
finer exponent where the rounded magnitude fits, NaN for a NaN or an infinity, and its flags; what `xupk` gives for an
element; the worked block. That an element +0.0 of an input −0.0 raises no NX is the model's choice (log
entry 76). -/
def Obligations.PackedBlockValues : Prop :=
  (∀ (x4 : Bool) (xs : List Nat),
    let lim := if x4 then 4 else 64
    let c : Int := if x4 then 128 else 132
    let vs := xs.map fmt32.decode
    let r := pxPack x4 xs
    let elem (sel n : Bool) (m : Nat) : Nat := (if sel then 2 * lim else 0) + (if n then lim else 0) + m
    ((∃ v ∈ vs, v.isNan = true ∨ v.isInf = true) → r = (255, 255, xs.map fun _ => 0,
      if vs.any fun v => v.isInf || v.isSnan then flagNV else 0)) ∧
    ((∀ v ∈ vs, v.isZero = true) → r = (0, 0, xs.map fun _ => 0, 0)) ∧
    (∀ top : Int, (∀ v ∈ vs, v.isNan = false ∧ v.isInf = false) →
      (∀ n m e, FVal.fin n m e ∈ vs → m ≠ 0 → e + Nat.log2 m ≤ top) →
      (∃ n m e, FVal.fin n m e ∈ vs ∧ m ≠ 0 ∧ e + Nat.log2 m = top) →
      let ea := max (top + 127) 3
      let eb := ea - 3
      let unit (E : Int) (m : Nat) (e : Int) : Nat := (roundAt 0 false m e false (E - c)).1
      (r.1 : Int) = ea ∧ (r.2.1 : Int) = eb ∧ r.2.2.1.length = xs.length ∧
      (∀ (i : Nat) n m e, vs[i]? = some (FVal.fin n m e) → r.2.2.1[i]? = some
        (if unit eb m e < lim then elem true n (unit eb m e) else elem false n (min (unit ea m e) (lim - 1)))) ∧
      (r.2.2.2 = flagNX ∨ r.2.2.2 = 0) ∧
      (r.2.2.2 = flagNX ↔ ∃ (i : Nat) (n : Bool) (m : Nat) (e : Int), vs[i]? = some (FVal.fin n m e) ∧
        (if unit eb m e < lim then (unit eb m e : ℝ) * (2 : ℝ) ^ (eb - c)
          else (min (unit ea m e) (lim - 1) : Nat) * (2 : ℝ) ^ (ea - c)) ≠ (m : ℝ) * (2 : ℝ) ^ e))) ∧
  (∀ (x4 sel n : Bool) (ea eb m : Nat), ea < 256 → eb < 256 →
    let lim := if x4 then 4 else 64
    let c : Int := if x4 then 128 else 132
    let E := if sel then eb else ea
    m < lim →
    let y := pxUnpack x4 ea eb ((if sel then 2 * lim else 0) + (if n then lim else 0) + m)
    (E = 255 → y = 0x7FC00000) ∧
    (E ≠ 255 → y < 2 ^ 32 ∧ ∃ k e, fmt32.decode y = .fin n k e ∧ (k : ℝ) * (2 : ℝ) ^ e = (m : ℝ) * (2 : ℝ) ^ (E - c))) ∧
  (let xs := [0x40C00000, 0x3ECCCCCD, 0xBFA66666, 0xC0FF0A3D, 0x3F7F7CEE] ++ List.replicate 27 0
   pxPack false xs = (0x81, 0x7E, [0x30, 0x9A, 0x4A, 0x7F, 0x08] ++ List.replicate 27 0x80, flagNX) ∧
   [0x30, 0x9A, 0x4A, 0x7F, 0x08].map (pxUnpack false 0x81 0x7E) =
     [0x40C00000, 0x3ED00000, 0xBFA00000, 0xC0FC0000, 0x3F800000])

/-- R110: the generator function. R113: which of two candidates is better, and a candidate's score: the logit as an
operand where invT is zero; otherwise the rounded difference of the rounded product and the rounded logarithm of the
negated rounded logarithm of u, each logarithm rounded from within one part in 2^200 of the exact one (that it is
so correctly rounded is log entry 18). -/
def Obligations.SamplingValues : Prop :=
  (∀ key c : W64,
    let turn (x : W64) : W64 := let y := x * 0xD1342543DE82EF95; y ^^^ y >>> 31
    rndF key c = (turn (turn (turn (turn (c ^^^ key))))).extractLsb' 32 32) ∧
  (∀ a b : Cand,
    let x := fmt32.decode a.1.toNat
    let y := fmt32.decode b.1.toNat
    (better a b = true ↔ x.isNan = false ∧ (y.isNan = true ∨ (y.isNan = false ∧ (y.Below x ∨
      (¬x.Below y ∧ ¬y.Below x ∧ a.2.toNat < b.2.toNat))))) ∧
    bestOf a b = if better b a = true then b else a) ∧
  ∀ (md : Mode) (invT logit bits : W32),
    let z := fmt32.operand md invT.toNat
    let v := fmt32.operand md logit.toNat
    let r := sampScore md invT logit bits
    (z.isZero = true → v.isNan = true → r = 0x7FC00000) ∧
    (z.isZero = true → v.isNan = false →
      r = if md.ftz ∧ logit.extractLsb' 23 8 = 0 then logit &&& 0x80000000 else logit) ∧
    (z.isZero = false →
      let u : ℝ := ((bits.toNat / 2 ^ 8 : Nat) + 1 / 2) * (2 : ℝ) ^ (-24 : Int)
      ∃ (l1 l2 : Nat) (f1 f2 : Flags) (w : ℝ), RoundsNear fmt32 md (Real.log u) (l1, f1) ∧
        (fmt32.decode l1).Is w ∧ w < 0 ∧
        (w = -1 → l2 = 0) ∧ (w ≠ -1 → RoundsNear fmt32 md (Real.log (-w)) (l2, f2)) ∧
        r = BitVec.ofNat 32 (fSub fmt32 md (fMul fmt32 md logit.toNat invT.toNat).1 l2).1)

/-! ### Uniform words -/

/-- R116: what each uniform integer word writes. -/
def Obligations.UniformIntegerResults : Prop :=
  ∀ (s : State) (d a b c : Reg) (wa wb wc sgn : Bool) (imm : W32) (cond : Cond),
    let holds (x y : Int) : Bool :=
      match cond with
      | .eq => x == y
      | .ne => x != y
      | .lt => decide (x < y)
      | .le => decide (x ≤ y)
      | .gt => decide (y < x)
      | .ge => decide (y ≤ x)
      | .un | .ord => false
    Uni2 s (.gadd d a b wa wb) d a b wa wb 4 (fun x y => (x + y, 0)) ∧
    Uni2 s (.gsub d a b wa wb) d a b wa wb 4 (fun x y => (x - y, 0)) ∧
    Uni2 s (.gmul d a b wa wb) d a b wa wb 4 (fun x y => (x * y, 0)) ∧
    Uni3 s (.gmad d a b c wa wb wc) d a b c wa wb wc 8 (fun x y z => (x * y + z, 0)) ∧
    Uni2 s (.gmulh d a b wa wb sgn) d a b wa wb 8 (fun x y =>
      (if sgn then (x.signExtend 128 * y.signExtend 128).extractLsb' 64 64
       else (x.setWidth 128 * y.setWidth 128).extractLsb' 64 64, 0)) ∧
    Uni2 s (.gand d a b wa wb) d a b wa wb 4 (fun x y => (x &&& y, 0)) ∧
    Uni2 s (.gor d a b wa wb) d a b wa wb 4 (fun x y => (x ||| y, 0)) ∧
    Uni2 s (.gxor d a b wa wb) d a b wa wb 4 (fun x y => (x ^^^ y, 0)) ∧
    Uni2 s (.gshl d a b wa wb) d a b wa wb 4 (fun x y => (x <<< y.toNat, 0)) ∧
    Uni2 s (.gshr d a b wa wb) d a b wa wb 4 (fun x y => (x >>> y.toNat, 0)) ∧
    Uni2 s (.gsar d a b wa wb) d a b wa wb 4 (fun x y => (x.sshiftRight y.toNat, 0)) ∧
    Uni2 s (.gmin d a b wa wb) d a b wa wb 4 (fun x y => (if x.slt y then x else y, 0)) ∧
    Uni2 s (.gminn d a b wa wb) d a b wa wb 4 (fun x y => (if x < y then x else y, 0)) ∧
    Uni2 s (.gmax d a b wa wb) d a b wa wb 4 (fun x y => (if x.slt y then y else x, 0)) ∧
    Uni2 s (.gmaxn d a b wa wb) d a b wa wb 4 (fun x y => (if x < y then y else x, 0)) ∧
    Uni2 s (.gcmp d a b wa wb cond .i64) d a b wa wb 8
      (fun x y => (if holds x.toInt y.toInt then 1 else 0, 0)) ∧
    Uni2 s (.gcmp d a b wa wb cond .n64) d a b wa wb 8
      (fun x y => (if holds x.toNat y.toNat then 1 else 0, 0)) ∧
    Uni2 s (.gcmp d a b wa wb cond .i32) d a b wa wb 8
      (fun x y => (if holds (x.setWidth 32 : W32).toInt (y.setWidth 32 : W32).toInt then 1 else 0, 0)) ∧
    Uni2 s (.gcmp d a b wa wb cond .n32) d a b wa wb 8
      (fun x y => (if holds (x.setWidth 32 : W32).toNat (y.setWidth 32 : W32).toNat then 1 else 0, 0)) ∧
    Uni3 s (.gsel d a b c wa wb wc) d a b c wa wb wc 8 (fun x y z => (if z = 0 then y else x, 0)) ∧
    Uni1 s (.gmov d a wa) d a wa 4 (fun x => (x, 0)) ∧
    UniWrites s (.gli d imm) ⟨[], [dg d], false⟩ d 8 (imm.signExtend 64, 0) ∧
    UniWrites s (.glih d imm) ⟨[sg d false], [dg d], false⟩ d 8
      (imm ++ (s.cur.gval s.curS d.val).setWidth 32, 0) ∧
    Uni1 s (.gcnt d a wa) d a wa 4
      (fun x => (BitVec.ofNat 64 ((List.range 64).countP fun i => x.getLsbD i), 0)) ∧
    Uni1 s (.gclz d a wa) d a wa 4
      (fun x => (BitVec.ofNat 64 ((List.range 64).takeWhile fun i => !x.getMsbD i).length, 0))

/-- R117: the uniform floating-point words compute in FP32 on the low halves, in FMT of the issuing path,
write the result zero-extended and OR their flags into %fpst. -/
def Obligations.UniformFloatResults : Prop :=
  ∀ (s : State) (d a b c : Reg) (wa wb wc : Bool) (cond : Cond) (dst src : Ty),
    let wide (r : W32 × Flags) : W64 × Flags := (r.1.setWidth 64, r.2)
    let low (x : W64) : W32 := x.setWidth 32
    Uni2 s (.gfadd d a b wa wb) d a b wa wb 4 (fun x y => wide (faddW s.curMode (low x) (low y))) ∧
    Uni2 s (.gfmul d a b wa wb) d a b wa wb 4 (fun x y => wide (fmulW s.curMode (low x) (low y))) ∧
    Uni3 s (.gfma d a b c wa wb wc) d a b c wa wb wc 8
      (fun x y z => wide (fmaW s.curMode (low x) (low y) (low z))) ∧
    Uni2 s (.gfcmp d a b wa wb cond) d a b wa wb 8
      (fun x y => wide (fcmpW s.curMode cond (low x) (low y))) ∧
    Uni1 s (.gcvt d a wa dst src) d a wa 8 (fun x =>
      let r := convert dst src s.curMode 64 x.toNat
      (BitVec.ofNat 64 r.1, r.2))

/-! ### Operands that do not pass -/

/-- R60 to R64, R70 steps 7 and 8, R244: for every word that computes in registers, the checks on its
operands in their order: a lane register at or beyond the launch's registers per lane traps ACCESS; an
empty source with W set traps EMPTY_READ; any other empty source makes the word wait; a source that a reply
mark names traps REMOTE_FAULT with the faulted status; a poisoned source traps POISON; a destination that
is empty or held by a queued matrix operation makes the word wait. The places of REMOTE_FAULT (R244 gives none) and of
the wait for a destination among these checks are the model's choice (log entry 70); which registers a mark covers and
its DETAIL are the model's reading (log entry 34). -/
def Obligations.OperandsThatDoNotPass : Prop :=
  ∀ (i : Instr) (s : State) (u : Uses), usesOf i = some u →
    let g := s.cur
    let beyond := ∃ o ∈ u.srcs ++ u.dsts, o.lane = true ∧ s.curLaunch.rpl < o.r + o.n
    let empty (o : Opd) : Prop := o.any s.curS g.emptyV g.emptyG = true
    let emptyW := ∃ o ∈ u.srcs, o.w = true ∧ empty o
    let emptySrc := ∃ o ∈ u.all, empty o
    let poisoned := ∃ o ∈ u.all, o.any s.curS g.poisonV g.poisonG = true
    let busy := ∃ o ∈ u.dsts, empty o ∨ o.any s.curS (s.heldOf s.curG) 0 = true
    (beyond → Traps i s .access 0) ∧
    (¬beyond → emptyW → Traps i s .emptyRead 0) ∧
    (¬beyond → ¬emptyW → emptySrc → Waits i s) ∧
    (¬beyond → ¬emptySrc → ∀ m, g.markHit u.all = some m → Traps i s .remoteFault (g.markStatus m)) ∧
    (¬beyond → ¬emptySrc → g.markHit u.all = none → poisoned → Traps i s .poison 0) ∧
    (¬beyond → ¬emptySrc → g.markHit u.all = none → ¬poisoned → busy → Waits i s)

/-! ### Control -/

/-- R282, R283, R285: where `nop`, the branches, the call and the jumps through a register go, and what a
bad target does; `brc` on a condition that no active lane or every active lane holds. -/
def Obligations.ControlTransfers : Prop :=
  ∀ (s : State) (d a : Reg) (wa n : Bool) (toff joff : BitVec 16), s.Live →
    let pc := s.curPath.pc
    let target := pc + BitVec.ofInt 64 (4 * toff.toInt)
    let h := s.cur.gval s.curS a.val
    let jumps (i : Instr) : Prop := s.Accepts ⟨[sg a wa], [], false⟩ →
      (spaceOf h = 0 ∧ tidOf h = s.curLaunch.codeTable →
        (posOf h % 4 = 0 → Gives i s fun t => Goes s t (s.pathAt h)) ∧
        (posOf h % 4 ≠ 0 → Traps i s .align 0)) ∧
      (¬(spaceOf h = 0 ∧ tidOf h = s.curLaunch.codeTable) → Traps i s .handleFault 0)
    let taken := s.cur.takenLanes s.curS n a.val
    Gives .nop s (fun t => Goes s t (s.pathAt (pc + 4))) ∧
    decodeTableWord 32 0 = some .nop ∧ (∀ w : Nat, 0 < w → w < 2 ^ 24 → decodeTableWord 32 w = none) ∧
    Gives (.br toff) s (fun t => Goes s t (s.pathAt target)) ∧
    (s.Accepts ⟨[], [dg d], false⟩ → Gives (.call d toff) s fun t =>
      ∃ t0, Wrote s t0 0 [] [(d.val, pc + 8)] 8 0 ∧ Goes t0 t (t0.pathAt target)) ∧
    jumps (.ret a wa) ∧ jumps (.jmp a wa) ∧
    (s.Accepts ⟨[sv a wa], [], true⟩ →
      (taken = 0 → Gives (.brc a wa n toff joff) s fun t => Goes s t (s.pathAt (pc + 8))) ∧
      (taken ≠ 0 → taken = s.lanesOn n →
        Gives (.brc a wa n toff joff) s fun t => Goes s t (s.pathAt target)))

/-- R279, R283: a split. Where some of the active lanes hold the condition and others do not, `brc` pushes
a join entry under a number that no other entry has, with the continuation at the rejoin word; the taken
lanes go to the free slot, or are parked when there is none; the others go on after the word. With more
than 4,096 entries it traps SPLIT_OVF.
R280: a path that stands at its rejoin word arrives: its lanes join those that have arrived; the last
arrival puts the continuation into its slot and ends the join entry; an earlier one frees the slot, and
the most recently parked path may take a free slot. Unequal predicate depths trap PRED_OVF. -/
def Obligations.PathsSplitAndArrive : Prop :=
  (∀ (s : State) (a : Reg) (wa n : Bool) (toff joff : BitVec 16),
    s.Accepts ⟨[sv a wa], [], true⟩ →
    let g := s.cur
    let p := s.curPath
    let t := g.takenLanes s.curS n a.val
    t ≠ 0 → t ≠ s.lanesOn n →
    let both := (g.slot (!s.curS)).path.isSome
    let rejoin := p.pc + BitVec.ofInt 64 (4 * joff.toInt)
    (4096 < g.stack.length + (if both then 2 else 1) → Traps (.brc a wa n toff joff) s .splitOvf 0) ∧
    (g.stack.length + (if both then 2 else 1) ≤ 4096 →
      Gives (.brc a wa n toff joff) s fun u => ∃ num, num ∉ joinNums g.stack ∧ OnlyGroup s u ∧
        { u.cur with stack := g.stack }.noSlots = g.noSlots ∧
        (u.cur.slot s.curS).path = some { p with
          pc := p.pc + 8, lanes := p.lanes &&& ~~~t, mask := p.mask &&& ~~~t, rj := some (rejoin, num) } ∧
        let taken : Path := ⟨p.pc + BitVec.ofInt 64 (4 * toff.toInt), t, t, p.fmt, some (rejoin, num), p.pd⟩
        let join := StackEntry.join num { p with pc := rejoin } 0
        if both then
          u.cur.slot (!s.curS) = g.slot (!s.curS) ∧ u.cur.stack = g.stack ++ [join, .park taken]
        else (u.cur.slot (!s.curS)).path = some taken ∧ u.cur.stack = g.stack ++ [join])) ∧
  (∀ (s : State) (gid slot : Nat) (p cont : Path) (addr : W64) (num : Nat) (arr : LaneSet),
    let b := slot == 1
    let g := s.group gid
    let s1 : State := { s with curG := gid, curS := b }
    (g.slot b).path = some p → p.rj = some (addr, num) → p.pc = addr → g.join? num = some (cont, arr) →
    (p.pd ≠ cont.pd → exec (.pathArrive gid slot) s = .next (s1.takeTrap .predOvf 0)) ∧
    (p.pd = cont.pd → ∃ g', exec (.pathArrive gid slot) s = .next (s1.setGroup gid g') ∧
      { g' with stack := g.stack }.noSlots = g.noSlots ∧
      (arr ||| p.lanes = cont.lanes →
        (g'.slot b).path = some cont ∧ g'.join? num = none ∧
        ((g.slot (!b)).path.isSome → parkedPaths g'.stack = parkedPaths g.stack)) ∧
      (arr ||| p.lanes ≠ cont.lanes →
        g'.join? num = some (cont, arr ||| p.lanes) ∧
        ((g.slot (!b)).path.isSome → match (parkedPaths g.stack).getLast? with
          | none => (g'.slot b).path = none
          | some q => (g'.slot b).path = some q ∧
              parkedPaths g'.stack = (parkedPaths g.stack).dropLast))))

/-- R284: the predicate stack, in the path's own lanes and no others: `pdp` pushes the condition within the
top, or by itself with N, and traps PRED_OVF at depth 8; `pdi` complements the top within the level below;
`pdo` pops; the last two trap PRED_OVF at depth 0.
R56, R58, R59, R85, R288, R289: `fmts`, what `gsr` reads from each special register, what `gssr` writes
to the three that it may write, and that `wfull` waits for a register and changes no state. That %rcto
compares bits [31:0] of its source with 4,096 is the model's choice [69]; so is the module's place at (0, 0)
of its mesh, where it stands alone [8]. -/
def Obligations.PredicatesAndGroupState : Prop :=
  (∀ (s : State) (a : Reg) (wa n : Bool), s.Live → s.cur.preds.length = 8 →
    let p := s.curPath
    let level (u : State) (i l : Nat) : Bool := (u.cur.preds.getD i 0).getLsbD l
    let top (l : Nat) : Bool := p.pd = 0 || level s (p.pd - 1) l
    let below (l : Nat) : Bool := p.pd = 1 || level s (p.pd - 2) l
    let sets (i : Instr) (pd at' : Nat) (f : Nat → Bool) : Prop := Gives i s fun t =>
      OnlyGroup s t ∧ (t.cur.slot s.curS).path = some { p with pc := p.pc + 4, pd := pd } ∧
      t.cur.slot (!s.curS) = s.cur.slot (!s.curS) ∧ { t.cur with preds := s.cur.preds }.noSlots = s.cur.noSlots ∧
      t.cur.preds.length = 8 ∧ ∀ i < 8, ∀ l < 96, level t i l = if i = at' ∧ p.lanes.getLsbD l then f l else level s i l
    (s.Accepts ⟨[sv a wa], [], false⟩ →
      (p.pd < 8 → sets (.pdp a wa n) (p.pd + 1) p.pd fun l => (n || top l) && s.cur.vval a.val l != 0) ∧
      (8 ≤ p.pd → Traps (.pdp a wa n) s .predOvf 0)) ∧
    (0 < p.pd → p.pd ≤ 8 → sets .pdi p.pd (p.pd - 1) fun l => !top l && below l) ∧
    (0 < p.pd → Gives .pdo s fun t => Goes s t { p with pc := p.pc + 4, pd := p.pd - 1 }) ∧
    (p.pd = 0 → Traps .pdi s .predOvf 0 ∧ Traps .pdo s .predOvf 0)) ∧
  (∀ (s : State) (d a sp : Reg) (wa lane : Bool) (img : BitVec 14),
    let core := (s.team (teamOf s.curG)).core
    let x := s.cur.gval s.curS a.val
    let reads (k : Nat) (y : W64) : Prop :=
      sp.val = k → UniWrites s (.gsr d sp) ⟨[], [dg d], false⟩ d 4 (y, 0)
    let sets (k : Nat) (P : State → Prop) : Prop := sp.val = k → s.Accepts ⟨[sg a wa], [], false⟩ →
      Gives (.gssr sp a wa) s fun t => OnlyGroup s t ∧ t.curPath.pc = s.curPath.pc + 4 ∧
        t.cur.slot (!s.curS) = s.cur.slot (!s.curS) ∧ P t
    let o : Opd := ⟨lane, a.val, 1, wa⟩
    (s.Live → Gives (.fmts img) s fun t => Goes s t { s.curPath with pc := s.curPath.pc + 8, fmt := img }) ∧
    (sp.val = 0 → LaneWrites s (.gsr d sp) ⟨[], [dv d], true⟩ false d 4
      (fun l => (BitVec.ofNat 32 l, 0))) ∧
    reads 1 (BitVec.ofNat 64 (s.curG % 16)) ∧
    reads 2 (BitVec.ofNat 64 (s.team (teamOf s.curG)).idx) ∧
    reads 3 ((BitVec.ofNat 32 (s.team (teamOf s.curG)).launch).setWidth 64) ∧
    reads 4 (BitVec.ofNat 64 (core % 16)) ∧
    reads 5 (BitVec.ofNat 64 (core / 16 % 10)) ∧
    reads 6 (let d := core / 160
      BitVec.ofNat 64 (d % 4 + d % 2 * 2 ^ 8 + d / 2 % 2 * 2 ^ 16)) ∧
    reads 7 (s.cur.fpst.setWidth 64) ∧
    reads 8 (if (s.core core).narrow then 1 else 0) ∧
    reads 9 (BitVec.ofNat 64 s.cur.uwc) ∧
    reads 10 (BitVec.ofNat 64 (s.cur.pch * 8192 + s.cur.busy)) ∧
    reads 11 (s.cur.rcto.setWidth 64) ∧
    reads 12 (s.curPath.fmt.setWidth 64) ∧
    sets 7 (fun t => t.cur.noSlots = { s.cur with fpst := x.setWidth 5 }.noSlots) ∧
    sets 11 (fun t => t.cur.noSlots =
      { s.cur with rcto := if x.setWidth 32 < (4096 : W32) then 4096 else x.setWidth 32 }.noSlots) ∧
    (fmtOk (x.setWidth 14) = true → sets 12 fun t => t.cur.noSlots = s.cur.noSlots ∧
      t.curPath = { s.curPath with pc := s.curPath.pc + 4, fmt := x.setWidth 14 }) ∧
    (sp.val ≠ 7 → sp.val ≠ 11 → sp.val ≠ 12 → Traps (.gssr sp a wa) s .priv 0) ∧
    (s.Live → (lane = true → a.val < s.curLaunch.rpl) →
      (o.any s.curS s.cur.emptyV s.cur.emptyG = false →
        Gives (.wfull lane a wa) s fun t => Goes s t (s.pathAt (s.curPath.pc + 4))) ∧
      (o.any s.curS s.cur.emptyV s.cur.emptyG = true →
        (wa = true → Traps (.wfull lane a wa) s .emptyRead 0) ∧
        (wa = false → Waits (.wfull lane a wa) s))))

/-! ### Group state, traps and handlers -/

/-- R322 to R326: a trap of the issuing slot. The trapping word has had no effect; the handler at TRAPH is
entered with the group as it stood recorded in the trap frame. Without a TRAPH, or with a trap frame live,
the group halts and the tenant fault log gets the event.
R287, R323: `trap` enters the handler with cause USER, its immediate as DETAIL, FWORD its own handle
and the PC after its extension word in the frame; an entry that had to wait for pending fills takes place
at TRAP_ENTRY in the same way, and not before they have completed. -/
def Obligations.TrapsEnterTheHandler : Prop :=
  (∀ (i : Instr) (s : State) (c : Cause) (detail : W32), s.Live → Traps i s c detail →
    s.CanEnter s.curG false →
    let g := s.cur
    let p := s.curPath
    Gives i s fun t =>
      (s.curLaunch.traph ≠ 0 → g.trapLive = false →
        Entered s t s.curG g false s.curLaunch.traph p.fmt c.code detail p.pc) ∧
      (s.curLaunch.traph = 0 ∨ g.trapLive = true →
        (t.group s.curG).status = .halted ∧ (t.group s.curG).s0.path = g.s0.path ∧
        (t.group s.curG).s1.path = g.s1.path ∧ t.mem = s.mem ∧
        t.stag.faults = s.stag.faults ++ [.halted s.curLaunch.ten (launchOfTeam (teamOf s.curG))
          (s.team (teamOf s.curG)).idx (s.curG % 16) c.code p.pc])) ∧
  (∀ (s : State) (imm : W32), s.Live → s.CanEnter s.curG false → s.curLaunch.traph ≠ 0 →
    s.cur.trapLive = false →
    Gives (.trap imm) s fun t =>
      Entered s t s.curG
        (s.cur.setPath s.curS (s.pathAt (s.curPath.pc + 8))) false
        s.curLaunch.traph s.curPath.fmt 20 imm s.curPath.pc) ∧
  (∀ (s : State) (gid : Nat) (e : Entering), (s.group gid).entering = some e → e.pre = false →
    ((s.group gid).slot e.s1).path.isSome →
    let ev : Instr := .trapEntry gid (if e.s1 then 1 else 0) e.code e.detail.toNat
    (s.fillsOf gid ≠ [] → exec ev s = .next s) ∧
    (s.CanEnter gid false → (s.launchOf gid).traph ≠ 0 → (s.group gid).trapLive = false → e.code < 256 →
      Gives ev s fun t => Entered s t gid (s.group gid) false (s.launchOf gid).traph
        ((s.group gid).path e.s1).fmt e.code e.detail e.fword))

/-- R327, R62, R63, R334: `hret` waits while a register that it writes has a fill pending or is held by a
matrix operation. Without a live frame it traps ACCESS. With one, and with no dirty byte and no request of
the cluster in the frame's sectors, it reads the frame at the home: a frame that reads as poisoned ends the
launch FAULTED; a frame that fails its checks halts the group; otherwise the slots, g0 to g3, v0 and v1 and the
predicates are those of the frame, every other register stays, and the frame is no longer live. -/
def Obligations.HandlerReturnRestoresTheFrame : Prop :=
  ∀ (s : State), s.Live → s.inRegion s.curG = false →
    (s.restorable = false ↔ (∃ r < 4, bitOn s.cur.emptyG r = true) ∨
      (∃ r, (120 ≤ r ∧ r < 123 ∨ 128 ≤ r ∧ r < 131) ∧ bitOn s.cur.emptyG r = true) ∨
      ∃ r < 2, bitOn (s.cur.emptyV ||| s.heldOf s.curG) r = true) ∧
    (s.restorable = false → Waits .hret s) ∧
    (s.restorable = true → s.cur.trapLive = false → s.cur.preLive = false → Traps .hret s .access 0) ∧
    ∀ pre, s.restorable = true → s.cur.lastFrame = some pre →
      let g := s.cur
      let key := s.frameKey s.curG pre
      let inFrame (sec : Nat) : Bool := (frameSectors key).contains sec
      let x := s.homeSeen ((List.range 1024).map (key + ·))
      s.softPending s.curG inFrame = false → s.sectorsBusy s.curCluster (frameSectors key) = false →
      s.dirtySectors s.curCluster inFrame = [] →
      (x.bad = true → exec .hret s = .next ((s.logTags x.tags).stopLaunch (launchOfTeam (teamOf s.curG))
        lsFaulted false (s.curLaunch.dies.headD 0))) ∧
      (x.bad = false →
      let b := x.bytes
      let r0 := recordPath b 2
      let r1 := recordPath b 8
      let kind := field (dwOf b 0) 0 8
      let fits := g.s1.path = none ∧ g.stack.length = field (dwOf b 30) 0 13 ∧
        g.recordOk s.curLaunch r0 = true ∧ g.recordOk s.curLaunch r1 = true ∧
        (r0.1 = true → r1.1 = true → r0.2.lanes &&& r1.2.lanes = 0) ∧ (kind = 1 ∨ kind = 2)
      (¬fits → Gives .hret s fun t => (t.group s.curG).status = .halted ∧ t.mem.home = s.mem.home) ∧
      (fits → parkedPaths g.stack = [] ∨ (r0.1 = true ∧ r1.1 = true) → Gives .hret s fun t =>
        let u := t.group s.curG
        u.s0.path = (if r0.1 then some r0.2 else none) ∧ u.s1.path = (if r1.1 then some r1.2 else none) ∧
        u.stack = g.stack ∧ t.mem.home = s.mem.home ∧
        (∀ i < 4, u.gval false i = dwOf b (14 + i)) ∧
        (∀ r, 4 ≤ r → ¬isMask r → u.gval false r = g.gval false r) ∧
        (∀ l < 96, u.vval 0 l = wOf b (256 + 4 * l) ∧ u.vval 1 l = wOf b (640 + 4 * l)) ∧
        (∀ r l, 2 ≤ r → u.vval r l = g.vval r l) ∧
        (∀ l < 96, ∀ i < 8, (u.preds.getD i 0).getLsbD l = (b.getD (144 + l) 0).getLsbD i) ∧
        (if pre then u.preLive = false ∧ u.trapLive = g.trapLive
          else u.trapLive = false ∧ u.preLive = g.preLive)))

/-- R323, R327: a trap and the return from its handler, with nothing between them, bring the group back:
the same paths in its slots, with the one that executed `trap` after its extension word, and every
register as it was. -/
def Obligations.TrapThenReturnResumes : Prop :=
  ∀ (s t : State) (imm : W32), s.Live → s.CanEnter s.curG false → s.curLaunch.traph ≠ 0 →
    s.cur.trapLive = false → s.cur.preLive = false → s.cur.preds.length = 8 →
    s.cur.stack.length < 2 ^ 13 → (s.writes.all fun w => w.cluster != s.curCluster && w.gid != s.curG) = true →
    (∀ r, (120 ≤ r ∧ r < 123 ∨ 128 ≤ r ∧ r < 131) → bitOn s.cur.emptyG r = false) →
    (∀ c p, (s.cur.slot c).path = some p → s.cur.recordOk s.curLaunch (true, p) = true ∧
      p.fmt.getLsbD 9 = false ∧ ∀ x ∈ p.rj, x.2 < 4096) →
    s.cur.recordOk s.curLaunch (true, s.pathAt (s.curPath.pc + 8)) = true →
    (∀ p q, s.cur.s0.path = some p → s.cur.s1.path = some q → p.lanes &&& q.lanes = 0) →
    ((s.cur.slot (!s.curS)).path.isSome ∨ parkedPaths s.cur.stack = []) →
    exec (.trap imm) s = .next t →
    Gives .hret { t with curS := false } fun u =>
      ((u.group s.curG).slot s.curS).path = some (s.pathAt (s.curPath.pc + 8)) ∧
      ((u.group s.curG).slot (!s.curS)).path = (s.cur.slot (!s.curS)).path ∧
      (u.group s.curG).stack = s.cur.stack ∧ (u.group s.curG).status = s.cur.status ∧
      (∀ r, ∀ l < 96, (u.group s.curG).vval r l = s.cur.vval r l) ∧
      (∀ r, ¬isMask r → (u.group s.curG).gval false r = s.cur.gval false r) ∧
      (∀ i < 8, ∀ l < 96,
        ((u.group s.curG).preds.getD i 0).getLsbD l = (s.cur.preds.getD i 0).getLsbD l)

/-- R286: `exit` ends every lane of the issuing path. The join entries up its chain lose those lanes, one
that has none left goes, and one all of whose other lanes have arrived completes into the slot. A group
left with no path ends once nothing of it is outstanding, and drains until then. -/
def Obligations.ExitEndsThePath : Prop :=
  ∀ (s : State), s.Live → s.inRegion s.curG = false → s.cur.status = .running →
    let g := s.cur
    let p := s.curPath
    let b := s.curS
    (p.rj = none → (g.slot (!b)).path = none → parkedPaths g.stack = [] →
      Gives .exit s fun t => if s.quiet s.curG then (t.group s.curG).status = .ended
        else (t.group s.curG).status = .draining) ∧
    (p.rj = none → (g.slot (!b)).path.isSome → parkedPaths g.stack = [] →
      Gives .exit s fun t => OnlyGroup s t ∧ (t.cur.slot b).path = none ∧
        t.cur.slot (!b) = g.slot (!b) ∧ t.cur.noSlots = g.noSlots) ∧
    (∀ n q arr, n ∈ joinChain g g.stack.length p.rj → g.join? n = some (q, arr) →
      (g.slot (!b)).path.isSome → (q.lanes &&& ~~~p.lanes = 0 ∨ arr ≠ q.lanes &&& ~~~p.lanes) →
      Gives .exit s fun t => t.cur.join? n =
        if q.lanes &&& ~~~p.lanes = 0 then none
        else some ({ q with lanes := q.lanes &&& ~~~p.lanes, mask := q.mask &&& ~~~p.lanes }, arr)) ∧
    (∀ addr n q, p.rj = some (addr, n) → g.join? n = some (q, q.lanes &&& ~~~p.lanes) →
      q.lanes &&& ~~~p.lanes ≠ 0 →
      Gives .exit s fun t => t.cur.join? n = none ∧ (t.cur.slot b).path =
        some { q with lanes := q.lanes &&& ~~~p.lanes, mask := q.mask &&& ~~~p.lanes })

/-! ### Barriers, queues, fences and synchronisation objects -/

/-- R290 to R292: a counted participation in a barrier by `bar.a` or `bar.s` is checked, waits for the
group's release and then counts; the last one completes the phase. `bar.w` counts without a number. A
word that waits completes once its phase has. -/
def Obligations.BarrierWords : Prop :=
  ∀ (s : State) (bar b : Reg) (wb : Bool), s.Live → s.inRegion s.curG = false → bar.val < s.barCount →
    let x := s.bar bar.val
    let i := s.curG % 16
    let c := (s.cur.gval s.curS b.val).toNat
    let legal := 0 < c ∧ c ≤ s.curTeam.groups ∧ aget x.last i ≠ some x.ph ∧
      (x.expect = 0 ∨ x.expect = c) ∧ x.arrived + 1 ≤ c
    let counted (t : State) (e : Nat) : Prop := OnlyOwn s t ∧
      { t.curTeam with bars := [] } = { s.curTeam with bars := [] } ∧
      (∀ k, k ≠ bar.val → t.bar k = s.bar k) ∧
      let y := t.bar bar.val
      aget y.last i = some x.ph ∧
      if e ≠ 0 ∧ x.arrived + 1 = e then y.ph = (x.ph + 1) % 65536 ∧ y.arrived = 0 ∧ y.expect = 0
      else y.ph = x.ph ∧ y.arrived = x.arrived + 1 ∧ y.expect = e
    let key := 96 * s.cur.frames + 2 * bar.val + (if s.curS then 1 else 0)
    let left : Group :=
      { s.cur with barWait := s.cur.barWait.filter fun w => w.1 != key || w.2.1 != s.curPath.pc }
    let waits (t : State) : Prop := HeldBack s t ∧ t.barPhase bar.val = some x.ph
    (s.Accepts ⟨[sg b wb], [], false⟩ →
      (¬legal → Traps (.barA bar b wb) s .barrierMisuse 0) ∧
      (legal → s.released false = true → Gives (.barA bar b wb) s fun t => counted t c ∧ MovesOn s t 4 s.cur) ∧
      (legal → s.released false = false → exec (.barA bar b wb) s = .next s.releasing.holdBack) ∧
      (s.barPhase bar.val = none →
        (¬legal → Traps (.barS bar b wb) s .barrierMisuse 0) ∧
        (legal → s.released false = true → Gives (.barS bar b wb) s fun t => counted t c ∧
          if x.arrived + 1 = c then MovesOn s t 4 left else waits t))) ∧
    (s.barPhase bar.val = none → i ∉ x.owed → aget x.last i ≠ some x.ph →
      Gives (.barW bar) s fun t => counted t x.expect ∧
        if x.expect ≠ 0 ∧ x.arrived + 1 = x.expect then MovesOn s t 4 left else waits t) ∧
    (∀ ph, s.barPhase bar.val = some ph → x.ph ≠ ph →
      Gives (.barW bar) s (fun t => OnlyGroup s t ∧ MovesOn s t 4 left) ∧
      Gives (.barS bar b wb) s fun t => OnlyGroup s t ∧ MovesOn s t 4 left)

/-- R293, R294: `qdef` makes an empty queue of the given place and depth, or removes one; `qpsh` stores its
operands at the tail and `qpop` loads the head, oldest first, each where the queue allows it, and waits
where it does not; no other byte of the scratchpad changes. -/
def Obligations.QueueWords : Prop :=
  ∀ (s : State) (a q d : Reg) (wa : Bool) (wm1 : Fin 8) (depth : Nat), s.Live →
    s.inRegion s.curG = false → q.val < s.queueCount →
    let h := s.cur.gval s.curS a.val
    let tk := teamOf s.curG
    let with' (g : State) (x : Option Queue) (t : State) : Prop :=
      t = g.setTeam tk { g.team tk with queues := match x with
        | some y => aput s.curTeam.queues q.val y
        | none => adel s.curTeam.queues q.val }
    (s.Accepts ⟨[sg a wa], [], false⟩ → s.queueWaited q.val = false →
      (∀ x, aget s.curTeam.queues q.val = some x → x.count = 0) →
      (depth = 0 → Gives (.qdef a q wa wm1 depth) s (with' (s.next 8) none)) ∧
      (0 < depth → spaceOf h = 1 → field h 19 43 = 0 → field h 0 19 % 8 = 0 →
        field h 0 19 + depth * (8 * (wm1.val + 1)) ≤ s.curLaunch.spad →
        Gives (.qdef a q wa wm1 depth) s
          (with' (s.next 8) (some ⟨field h 0 19, depth, wm1.val, 0, 0, 0, depth⟩)))) ∧
    ∀ x, aget s.curTeam.queues q.val = some x →
      let n := x.wm1 + 1
      (s.Accepts ⟨[sgs a n wa], [], false⟩ → a.val + n ≤ 128 →
        (x.allow = 0 → exec (.qpsh a q wa) s = .next (s.queueing q.val).holdBack) ∧
        (x.allow ≠ 0 → s.acquiring = false → s.released false = true →
          let lo := x.base + x.tail * (8 * n)
          s.scored tk lo (lo + 8 * n) true = false →
          Gives (.qpsh a q wa) s fun t => OnlyOwn s t ∧ MovesOn s t 4 s.cur ∧
            aget t.curTeam.queues q.val = some { x with
              tail := (x.tail + 1) % x.depth, count := x.count + 1, allow := x.allow - 1 } ∧
            (∀ i < n, dwOf (bytesAt t.curTeam.spad (lo + 8 * i) 8) 0 = s.cur.gval s.curS (a.val + i)) ∧
            ∀ k, k < lo ∨ lo + 8 * n ≤ k → byteAt t.curTeam.spad k = byteAt s.curTeam.spad k)) ∧
      (s.Accepts ⟨[], [dgs d n], false⟩ → d.val + n ≤ 128 →
        (x.count = 0 → exec (.qpop d q) s = .next (s.queueing q.val).holdBack) ∧
        (x.count ≠ 0 → s.acquiring = false →
          let lo := x.base + x.head * (8 * n)
          s.scored tk lo (lo + 8 * n) false = false →
          (∀ i < n, (lo + 8 * i) / 32 ∉ s.curTeam.spadPoison) →
          Gives (.qpop d q) s fun t => ∃ s1,
            Wrote s s1 0 [] ((List.range n).map fun i =>
              (d.val + i, dwOf (bytesAt s.curTeam.spad lo (8 * n)) i)) 4 0 ∧
            with' s1 (some { x with
              head := (x.head + 1) % x.depth, count := x.count - 1, allow := x.allow + 1 }) t))

/-- R148, R151, R194: `fnc` with acquire order completes at once and makes the slot's reads under way
acquires; with release order it completes when the group's earlier reads have bound, its counted writes are
acknowledged and, where observers beyond the team are named, what its cluster has written back is at the home
(R163), and waits as a release before.
R166: dropping the clean bytes of chosen sectors from a cluster copy leaves the homes, every dirty
byte and every other cluster as they were, and no chosen clean byte behind; a read then finds the home's, with the
writes that a region or an engine holds there and that it comes after (log entry 13). -/
def Obligations.FencesAndAcquires : Prop :=
  (∀ (s : State) (obs : Obs) (ord : Order), s.Live → s.inRegion s.curG = false →
    (Gives (.fnc obs .acquire) s fun t =>
      t.fills = s.fills.map (fun f =>
        if f.gid = s.curG ∧ f.slot1 = s.curS ∧ f.isRead = true then { f with acq := true } else f) ∧
      { t with fills := s.fills } = s.next 8) ∧
    (ord = .release ∨ ord = .acqRel →
      let wide := (obs.c || obs.x || obs.m || obs.p || obs.h) = true
      (s.readsBound = true → s.cur.uwc = 0 → (wide → s.evicting s.curCluster = false) →
        exec (.fnc obs ord) s = .next (s.next 8)) ∧
      (s.readsBound = false ∨ s.cur.uwc ≠ 0 ∨ (wide ∧ s.evicting s.curCluster = true) →
        exec (.fnc obs ord) s = .next s.releasing.holdBack))) ∧
  (∀ (s : State) (cl : Nat) (p : Nat → Bool),
    let t := s.dropSectors cl p
    t.mem.home = s.mem.home ∧
    (∀ e, e ∈ t.mem.l1 ↔ e ∈ s.mem.l1 ∧
      ¬(ownerOfCopy e.1 = cl ∧ p (sectorOf (keyOfCopy e.1)) = true ∧ e.2.st = 0)) ∧
    ∀ key, key < 2 ^ 80 → p (sectorOf key) = true →
      (∀ b, aget s.mem.l1 (copyKey cl key) = some b → b.st = 0) →
      (rising s.mem.l1 = true) → t.readByte cl key = s.homeByte cl key ∧
        (s.regions = [] → s.copies = [] → t.readByte cl key = byteAt s.mem.home key))

/-- R164 to R166, R214, R215: `sdef` writes the 64 bytes of a checked descriptor to the object as one
counted request, at the home and the cluster copy. The checks of R164 on a descriptor: its table and fields, the
tables that it names, the rights. `sacq` and `srel` check the object's handle, its table and its place, in this
order (the place of these two is the model's reading, log entry 41), then the descriptor as read at the home, and skip
ranges in MANAGED tables; `sacq` drops the clean bytes of the ranges and keeps the dirty ones; `srel` sends their
dirty bytes, a counted request for each sector, and then is a release; with nothing dirty it is one at once. -/
def Obligations.SynchronisationObjectWords : Prop :=
  ∀ (s : State) (a b : Reg) (wa wb : Bool), s.Live → s.inRegion s.curG = false → s.acquiring = false →
    let h := s.cur.gval s.curS a.val
    let tid := tidOf h
    (s.Accepts ⟨[sg a wa, sg b wb], [], false⟩ →
      ∀ off, s.checkImage s.curG (s.cur.gval s.curS b.val) 64 8 = .ok (.spad (teamOf s.curG) off) →
      let img := bytesAt s.curTeam.spad off 64
      (s.imageBusy (.spad (teamOf s.curG) off) 64 || s.imageScored (.spad (teamOf s.curG) off) 64) = false →
      (s.readLoc s.curCluster false (.spad (teamOf s.curG) off) 64).2.2 = false →
      s.checkObjectHandle h = .ok () →
      (∃ gs, s.checkObject h ((List.range 8).map (dwOf img)) (fun _ => true) = .ok gs) →
      s.curLaunch.writesTo tid = true → s.objectInside h = true → s.objectHitsKey h = false →
      s.countOk 1 = true → s.strongBehind s.curG (objectKeys h) = false → (s.table tid).ownw = false →
      s.writes = [] → s.pageHeld (s.coreOf s.curG) h.toNat = true →
      s.lineRoom s.curCluster (h.toNat / 256) = true →
      Gives (.sdef a b wa wb) s fun t => t.mem.home = s.mem.home ∧ t.teams = s.teams ∧
        t.cur.uwc = s.cur.uwc + 1 ∧
        (∃ w, t.writes = [w] ∧ w.data = runOf h.toNat img ∧ w.kind = .home ∧ w.counted = true ∧
          w.clears = true ∧ w.gid = s.curG ∧ w.cluster = s.curCluster) ∧
        ∀ i < 64, t.strongByte s.curCluster (h.toNat + i) = img.getD i 0) ∧
    (∀ (dw : List W64) (right : Nat → Bool),
      let d := dwAt dw 1
      let nr := field d 40 3
      let tab (i : Nat) : Nat := if flag d (43 + i) then field d 20 20 else field d 0 20
      let first (i : Nat) : Nat := field (dwAt dw (2 + i)) 28 36
      let count (i : Nat) : Nat := field (dwAt dw (2 + i)) 0 28
      let fits := (s.table tid).managed = false ∧ nr ≤ 6 ∧ field d 49 15 = 0 ∧
        (∀ i < 6, nr ≤ i → dwAt dw (2 + i) = 0) ∧ ∀ i < nr, 1 ≤ count i ∧ first i + count i ≤ 2 ^ 36
      let named (k : Nat) : Prop := k = field d 0 20 ∨ ∃ i < nr, k = tab i
      let usable := ∀ k, named k → (s.table k).usable k = true
      let may := ∀ i < nr, right (tab i) = true
      (¬fits → s.checkObject h dw right = .error .handleFault) ∧
      (fits → (∀ k, named k → (s.table k).poisonDesc = false) →
        (¬usable → s.checkObject h dw right = .error .tableAbsent) ∧
        (usable → ¬may → s.checkObject h dw right = .error .access) ∧
        (usable → may → s.checkObject h dw right =
          .ok ((List.range nr).map fun i => ⟨tab i, first i, count i⟩)))) ∧
    (∀ wr : Bool,
      let x := s.objectSeen h
      let c := s.checkObject h ((List.range 8).map (dwOf x.bytes))
        (if wr then s.curLaunch.writesTo else s.curLaunch.reads)
      (x.bad = true → s.guarded h wr = .error .poison) ∧
      (∀ e, x.bad = false → c = .error e → s.guarded h wr = .error e) ∧
      ∀ gs, x.bad = false → c = .ok gs → s.guarded h wr = .ok (gs.filter fun r => !(s.table r.tid).managed)) ∧
    let object (i : Instr) (wr : Bool) (P : List Guard → Prop) : Prop := s.Accepts ⟨[sg a wa], [], false⟩ →
      (spaceOf h ≠ 0 ∨ posOf h % 64 ≠ 0 → Traps i s .align 0) ∧
      (spaceOf h = 0 → posOf h % 64 = 0 → (s.table tid).poisonDesc = false →
        ((s.table tid).usable tid = false → Traps i s .tableAbsent 0) ∧
        ((s.table tid).usable tid = true → s.objectInside h = false → Traps i s .handleFault 0) ∧
        ((s.table tid).usable tid = true → s.objectInside h = true → s.Translated h.toNat 64 →
          s.objectBusy h = false → (∀ e, s.guarded h wr = .error e → Traps i s e 0) ∧
            ((s.objectSeen h).tags = [] → ∀ gs, s.guarded h wr = .ok gs → P gs)))
    object (.sacq a wa) false (fun gs =>
      exec (.sacq a wa) s = .next ((s.dropSectors s.curCluster (inGuards gs)).next 4)) ∧
    ((s.cur.slot s.curS).stage = 0 → object (.srel a wa) true fun gs =>
      s.countHeld = false → s.softPending s.curG (inGuards gs) = false →
      (s.dirtySectors s.curCluster (inGuards gs) = [] → s.released true = true →
        exec (.srel a wa) s = .next (s.next 4)) ∧
      (s.dirtySectors s.curCluster (inGuards gs) ≠ [] →
        s.cur.uwc + (s.dirtySectors s.curCluster (inGuards gs)).length ≤ 65535 → Gives (.srel a wa) s fun t =>
          SendsBack s t (inGuards gs) ∧ HeldBack s t ∧ (t.cur.slot s.curS).stage = 2)) ∧
    ((s.cur.slot s.curS).stage = 2 →
      (s.released true = true → exec (.srel a wa) s = .next (s.next 4)) ∧
      (s.released true = false → exec (.srel a wa) s = .next s.releasing.holdBack))

/-- R216, R217, R166, R147: `cwb`, `cinv` and `cret` check their range: table space, a usable table, the right, the
end of the range. `cinv` drops the clean bytes of a range; `cwb` sends the dirty ones, a counted request for each
sector, and does not wait for them, and with none there changes nothing; `cret` enters a pinned range for the
launch unless the die's four entries or eight ways would be exceeded, and says which in D; `cunp` ends the first
such range. -/
def Obligations.RangeMaintenanceWords : Prop :=
  ∀ (s : State) (d a b : Reg) (wa wb : Bool) (ways : Nat), s.Live → s.inRegion s.curG = false →
    s.acquiring = false →
    let h := s.cur.gval s.curS a.val
    let n := (s.cur.gval s.curS b.val).toNat
    let die := s.dieOf s.curG
    let launch := launchOfTeam (teamOf s.curG)
    let held := s.mem.pins.filter fun p => p.die == die
    let full := 4 ≤ held.length ∨ 8 < (held.map (·.ways)).sum + ways
    let tid := tidOf h
    let range (i : Instr) (wr : Bool) : Prop :=
      let may := if wr then s.curLaunch.writesTo tid else s.curLaunch.reads tid
      (spaceOf h ≠ 0 → Traps i s .handleFault 0) ∧
      (spaceOf h = 0 → (s.table tid).poisonDesc = false →
        ((s.table tid).usable tid = false → Traps i s .tableAbsent 0) ∧
        ((s.table tid).usable tid = true → may = false → Traps i s .access 0) ∧
        ((s.table tid).usable tid = true → may = true →
          (2 ^ 42 < posOf h + n → Traps i s .handleFault 0) ∧
          (posOf h + n ≤ 2 ^ 42 → s.checkRange h n wr = .ok ())))
    (s.Accepts ⟨[sg a wa, sg b wb], [], false⟩ → range (.cwb a b wa wb) true ∧ range (.cinv a b wa wb) false) ∧
    (s.Accepts ⟨[sg a wa, sg b wb], [dg d], false⟩ → range (.cret d a b wa wb ways) false ∧
      (s.checkRange h n false = .ok () → n = 0 → Traps (.cret d a b wa wb ways) s .handleFault 0)) ∧
    (s.Accepts ⟨[sg a wa, sg b wb], [], false⟩ →
      (n ≠ 0 → s.Translated h.toNat 1) →
      (s.checkRange h n false = .ok () →
        exec (.cinv a b wa wb) s = .next ((s.dropSectors s.curCluster (inRange h n)).next 4)) ∧
      (s.checkRange h n true = .ok () → s.countHeld = false → s.softPending s.curG (inRange h n) = false →
        let k := (s.dirtySectors s.curCluster (inRange h n)).length
        (k = 0 → exec (.cwb a b wa wb) s = .next (s.next 4)) ∧
        (s.cur.uwc + k ≤ 65535 → Gives (.cwb a b wa wb) s fun t => SendsBack s t (inRange h n) ∧
          MovesOn s t 4 { s.cur with uwc := s.cur.uwc + k }) ∧
        (s.cur.uwc ≤ 65535 → 65535 < s.cur.uwc + k → Gives (.cwb a b wa wb) s fun t => HeldBack s t ∧
          t.cur.uwc = 65535))) ∧
    (s.Accepts ⟨[sg a wa, sg b wb], [dg d], false⟩ → s.checkRange h n false = .ok () → 0 < n →
      Gives (.cret d a b wa wb ways) s fun t => ∃ s1,
        Wrote s s1 0 [] [(d.val, if full then 5 else 0)] 8 0 ∧
        t = { s1 with mem := { s1.mem with pins := if full then s.mem.pins
          else s.mem.pins ++ [⟨die, launch, h.toNat, n, ways⟩] } }) ∧
    (s.Accepts ⟨[sg a wa], [], false⟩ →
      (spaceOf h ≠ 0 → Traps (.cunp a wa) s .handleFault 0) ∧
      (spaceOf h = 0 → ∀ l1 p l2, s.mem.pins = l1 ++ p :: l2 → p.die = die → p.launch = launch →
        p.lo = h.toNat → (∀ q ∈ l1, ¬(q.die = die ∧ q.launch = launch ∧ q.lo = h.toNat)) →
        exec (.cunp a wa) s = .next (({ s with mem := { s.mem with pins := l1 ++ l2 } } : State).next 4)))

/-! ### Regions -/

/-- R234 to R236, R221: `fbeg` opens a region with empty sets and the snapshot after the word, refuses
with code 10 where both slots are live and with code 5 where the unit's 128 slots are taken; `fend` and
`fabt` outside a region do nothing; `fsta` writes code and abort count. Inside a region, `fbeg` and `fabt`
abort it, and the group stands as at its `fbeg`. -/
def Obligations.RegionWords : Prop :=
  ∀ (s : State) (d : Reg), s.Live →
    let gid := s.curG
    let g := s.cur
    let used := (s.regions.filter fun r => r.die == s.dieOf gid).length
    let both := g.s0.path.isSome = true ∧ g.s1.path.isSome = true
    let refused (code : Nat) : Group := { g with regCode := code, regAborts := min 255 (g.regAborts + 1) }
    (s.Accepts ⟨[], [dg d], false⟩ → Gives (.fsta d) s fun t =>
      Wrote s t 0 [] [(d.val, BitVec.ofNat 64 (g.regAborts * 256 + g.regCode))] 4 0) ∧
    (s.inRegion gid = false →
      exec .fend s = .next (s.next 4) ∧ exec .fabt s = .next (s.next 4) ∧
      (both → Gives .fbeg s fun t => OnlyGroup s t ∧ MovesOn s t 4 (refused 10)) ∧
      (¬both → s.released true = false → exec .fbeg s = .next s.releasing.holdBack) ∧
      (¬both → s.released true = true → 128 ≤ used →
        Gives .fbeg s fun t => OnlyGroup s t ∧ MovesOn s t 4 (refused 5)) ∧
      (¬both → s.released true = true → used < 128 → Gives .fbeg s fun t =>
        MovesOn s t 4 { g with regCode := 1 } ∧ t.mem = s.mem ∧
        t.regions = s.regions ++ [⟨gid, s.dieOf gid, [], [], [], { t.cur with regCode := g.regCode }, none, none⟩])) ∧
    ∀ r, s.regionOf gid = some r → s.Settled gid →
      let aborted (code : Nat) (t : State) : Prop :=
        t.inRegion gid = false ∧ RestoredTo (t.group gid) r.snap ∧ (t.group gid).regCode = code ∧
        (t.group gid).regAborts = min 255 (g.regAborts + 1) ∧ t.mem = s.mem ∧
        ∀ d', d' ≠ gid → ⟨gid, d', .forward⟩ ∈ s.edges → s.inRegion d' = true →
          t.inRegion d' = false ∧ (t.group d').regCode = 4
      Gives .fabt s (aborted 8) ∧ Gives .fbeg s (aborted 10)

/-- R219 to R229, R190, R235: a region at its `fend` into which no edge leads commits: its writes stand at
their homes, the units of the sectors written are no longer poisoned, its slot is free, its status is 2 with no
aborts, and its word has moved on; one into which an edge leads waits. R222 to R224, R220: while it is open, a load reads the sector at the home, or the region's own
image of it, and adds the sector to the read set; a store and an atomic change the region's image and nothing at
the home; a load of a sector that another region was the last to write reads that region's image over a
forwarding edge; an access homed on another die aborts the region. A region that has become ready commits unless
one that became ready at the same point came to its `fend` earlier, or a channel that it writes to is in broadcast
mode (R253); regions that became ready at other points do not hold it. A group whose region an
earlier region's abort has ended is restored to its `fbeg` once nothing of it is pending; while a fill of it is
pending, its registers stay. -/
def Obligations.RegionCommitsAndRestores : Prop :=
  (∀ (s : State) (gid : Nat) (r : Region), s.regionOf gid = some r → r.whole →
      s.regionWaits gid = false →
      let free := ∀ e ∈ s.edges, e.dst ≠ gid
      let first := ∀ x ∈ s.regions, x.gid ≠ gid → x.fend = none ∧ x.ready = none
      let opened := ∀ i ∈ r.writes, s.channelShut (64 * i.sector) = false
      let done (t : State) : Prop :=
        Published s t r ∧ t.inRegion gid = false ∧ (t.group gid).regCode = 2 ∧ (t.group gid).regAborts = 0 ∧
        (∀ e ∈ t.edges, e.src ≠ gid ∧ e.dst ≠ gid) ∧ ∀ x, x ≠ gid → t.group x = s.group x
      (s.curG = gid → s.Live → ¬(s.cur.s0.path.isSome = true ∧ s.cur.s1.path.isSome = true) →
        s.cur.stack.length = r.snap.stack.length →
        (free → first → opened → (r.fend.isSome = true → r.ready.isSome = true) → Gives .fend s fun t => done t ∧
          (t.cur.slot s.curS).path = some (s.pathAt (s.curPath.pc + 4))) ∧
        (¬free → r.ready = none → Gives .fend s fun t => HeldBack s t ∧ t.mem = s.mem ∧
          ∃ y, t.regionOf gid = some y ∧ y.fend.isSome = true ∧ y.writes = r.writes)) ∧
      ∀ p, r.ready = some p →
        (opened → (∀ x ∈ s.regions, x.gid ≠ gid → x.ready = some p → r.fend.getD 0 ≤ x.fend.getD 0) →
          Gives (.regionCommit gid) s fun t => done t ∧
            ((t.group gid).slot (s.group gid).s0.path.isNone).path =
              ((s.group gid).slot (s.group gid).s0.path.isNone).path.map fun p => { p with pc := p.pc + 4 }) ∧
        ((∃ x ∈ s.regions, x.gid ≠ gid ∧ x.ready = some p ∧ x.fend.getD 0 < r.fend.getD 0) →
          exec (.regionCommit gid) s = .next s) ∧
        (¬opened → exec (.regionCommit gid) s = .next s)) ∧
  (∀ (s : State) (d a b : Reg) (wa wb sx : Bool) (m : MemExt) (op : AtomOp) (r : Region) (k : Nat),
      s.Live → s.regionOf s.curG = some r → r.whole → s.acquiring = false → s.regionWaits s.curG = false →
      m.ord = .relaxed → s.Translated k m.wid.bytes →
      let wid := m.wid.bytes
      let sec := k / 64
      let h := s.cur.gval s.curS a.val
      let before (j : Nat) : Byte := s.regionByte r sec j
      let here : Nat := leNat ((List.range wid).map fun i => before (k % 64 + i))
      let kept (t : State) : Prop := t.mem.home = s.mem.home ∧ t.mem.l1 = s.mem.l1 ∧ t.writes = s.writes
      let image (t : State) (f : Nat → Byte) : Prop := kept t ∧ ∃ y, t.regionOf s.curG = some y ∧
        r.after y sec ∧ ∃ i, y.own sec = some i ∧ ∀ j < 64, i.getD j 0 =
          if k % 64 ≤ j ∧ j < k % 64 + wid then f (j - k % 64) else before j
      let loads := Instr.gld d a wa sx m
      let bad := s.mem.poison.contains (k / 32)
      (s.Alone r k → wid ≤ 8 → s.InTable h m.off wid k true false →
        s.Accepts ⟨[sg a wa], [dgs d m.wid.uniRegs], false⟩ →
        Gives loads s fun t => kept t ∧ (∃ y, t.regionOf s.curG = some y ∧ r.after y sec ∧ y.own sec = r.own sec) ∧
          ∃ f, t.fills = s.fills ++ [f] ∧ f.items =
            [⟨0, .tab k, wid, [], some ((List.range wid).map fun i => before (k % 64 + i), bad)⟩]) ∧
      (s.Alone r k → wid ≤ 8 → s.InTable h m.off wid k false true → s.hitsKey (.tab k) wid = false →
        (s.cur.slot s.curS).pend = [] →
        s.Accepts ⟨[sg a wa, sgs b m.wid.uniRegs wb], [], false⟩ →
        Gives (.gst a b wa wb m) s fun t => MovesOn s t 8 s.cur ∧
          image t fun i => byteOf (fun j => s.cur.gval s.curS (b.val + j)) i) ∧
      (s.Alone r k → m.wid = .w4 ∨ m.wid = .w8 → op ≠ .cas → s.InTable h m.off wid k true true →
        s.hitsKey (.tab k) wid = false → bad = false → ¬isMask d.val →
        s.Accepts ⟨[sg a wa, sg b wb], [dg d], false⟩ →
        Gives (.gatm d a b wa wb op m) s fun t => t.cur.gval s.curS d.val = BitVec.ofNat 64 here ∧
          image t fun i => BitVec.ofNat 8 (elementAfter op wid here (s.cur.gval s.curS b.val) 0 / 2 ^ (8 * i))) ∧
      (∀ x i, x ∈ s.regions → i ∈ x.writes → x.gid ≠ r.gid → i.sector = sec → i.bytes.length = 64 →
        (∀ y ∈ s.regions, ∀ j ∈ y.writes, j.sector = sec → y = x ∧ j = i) → s.edges = [] →
        s.homeDie r.die k = r.die → r.reads.length < 512 → s.dirtyClusters (· == sec) = [] →
        s.underWay s.curCluster (· == sec) = [] →
        s.channelShut k = false → (s.table (tidOfKey k)).ownw = false → wid ≤ 8 →
        s.InTable h m.off wid k true false → s.Accepts ⟨[sg a wa], [dgs d m.wid.uniRegs], false⟩ →
        Gives loads s fun t => kept t ∧ t.edges = [⟨x.gid, s.curG, .forward⟩] ∧
          ∃ f, t.fills = s.fills ++ [f] ∧ f.items =
            [⟨0, .tab k, wid, [], some ((List.range wid).map fun j => i.bytes.getD (k % 64 + j) 0, bad)⟩]) ∧
      (s.homeDie r.die k ≠ r.die → s.NoWaits r.gid → s.Settled s.curG → wid ≤ 8 → s.InTable h m.off wid k true false →
        s.Accepts ⟨[sg a wa], [dgs d m.wid.uniRegs], false⟩ → Gives loads s fun t =>
          t.inRegion s.curG = false ∧ (t.group s.curG).regCode = 6 ∧ RestoredTo (t.group s.curG) r.snap)) ∧
  ∀ (s : State) (gid : Nat) (snap : Group), aget s.restores gid = some snap →
    (s.Settled gid → Gives (.regionAbortSource gid) s fun t => RestoredTo (t.group gid) snap ∧
      aget t.restores gid = none ∧ t.mem = s.mem ∧ ∀ x, x ≠ gid → t.group x = s.group x) ∧
    (s.fillsOf gid ≠ [] → Gives (.regionAbortSource gid) s fun t => t.groups = s.groups ∧
      t.restores = s.restores)

/-- R219, R222 to R226, R143, R144: region accesses of lanes whose sectors nothing else touches. A load reads every
lane's element at once; stores leave each byte as its highest lane writes it; atomics and reductions of lanes on
distinct elements, and a uniform reduction, replace each element by the operation's result; each adds the sectors
it reads to the read set and changes only its own images. A store to a sector that another region has read adds an
ordering edge from that region, and where its own region reaches that one already it aborts with ABORT_CYCLE. A load
that would make a forwarding chain longer than 4 waits over a wait edge, reads nothing, and a `REGISTER_FILL` while
that edge stands changes nothing; once none stands it reads the sector and fills its registers. -/
def Obligations.RegionLaneAccesses : Prop :=
  (∀ (s : State) (d a b : Reg) (wa wb n sx : Bool) (m : MemExt) (op : AtomOp) (r : Region) (k : Nat → Nat),
      s.Live → s.regionOf s.curG = some r → r.whole → s.acquiring = false → s.regionWaits s.curG = false →
      m.ord = .relaxed → m.wid.bytes ≤ 8 → (s.cur.slot s.curS).pend = [] →
      let wid := m.wid.bytes
      let regs := m.wid.laneRegs
      let opens (l : Nat) (h : W64) (rd wr : Bool) : Prop :=
        s.Alone r (k l) ∧ s.Translated (k l) wid ∧ s.InTable h m.off wid (k l) rd wr
      let before (x : Nat) : Byte := s.regionByte r (x / 64) (x % 64)
      let here (l : Nat) : Nat := leNat ((List.range wid).map fun i => before (k l + i))
      let bad (l : Nat) : Bool := s.mem.poison.contains (k l / 32)
      let kept (ls : List Nat) (t : State) (y : Region) : Prop :=
        t.mem.home = s.mem.home ∧ t.mem.l1 = s.mem.l1 ∧ t.writes = s.writes ∧ t.edges = s.edges ∧
        t.regionOf s.curG = some y ∧ y.gid = r.gid ∧ y.snap = r.snap ∧
        (∀ x, x ∈ y.reads ↔ x ∈ r.reads ∨ (r.own x = none ∧ ∃ l ∈ ls, k l / 64 = x)) ∧
        ∀ x, (∀ l ∈ ls, k l / 64 ≠ x) → y.own x = r.own x
      let puts (ls : List Nat) (t : State) (f : Nat → Nat → Byte) : Prop := ∃ y : Region, kept ls t y ∧
        ∀ l ∈ ls, ∃ i, y.own (k l / 64) = some i ∧
          ∀ j < 64, let x := 64 * (k l / 64) + j
            (∀ l' ∈ ls, k l' ≤ x → x < k l' + wid → (∀ l2 ∈ ls, l' < l2 → ¬(k l2 ≤ x ∧ x < k l2 + wid)) →
              i.getD j 0 = f l' (x - k l')) ∧
            ((∀ l' ∈ ls, ¬(k l' ≤ x ∧ x < k l' + wid)) → i.getD j 0 = before x)
      let act := lanesOf (s.lanesOn n)
      let room := r.reads.length + act.length ≤ 512 ∧ r.writes.length + act.length ≤ 256 ∧
        ((s.regions.filter fun x => x.die == r.die).map (·.writes.length)).sum + act.length ≤ 32768
      let byte (x i : Nat) : Byte := BitVec.ofNat 8 (x / 2 ^ (8 * i))
      let lane0 (l : Nat) : W64 :=
        if op ≠ .cas ∧ m.wid = .w8 then s.cur.vpair b.val l else (s.cur.vval b.val l).setWidth 64
      let lane1 (l : Nat) : W64 := (s.cur.vval (b.val + 1) l).setWidth 64
      let after (l i : Nat) : Byte := byte (elementAfter op wid (here l) (lane0 l) (lane1 l)) i
      let apart := ∀ l ∈ act, ∀ l' ∈ act, l ≠ l' → k l ≠ k l'
      let free (l : Nat) : Prop := s.hitsKey (.tab (k l)) wid = false ∧ bad l = false
      (act ≠ [] → room →
        ((∀ l ∈ act, opens l (s.cur.vpair a.val l) true false) →
          s.Accepts ⟨[svs a 2 wa], [dvs d regs], true⟩ → Gives (.ld d a wa n sx m) s fun t =>
            (∃ y : Region, kept act t y ∧ y.writes = r.writes) ∧
            ∃ f : Fill, t.fills = s.fills ++ [f] ∧ f.items = act.map fun l =>
              ⟨l, .tab (k l), wid, [], some ((List.range wid).map fun i => before (k l + i), bad l)⟩) ∧
        ((∀ l ∈ act, opens l (s.cur.vpair a.val l) false true ∧ s.hitsKey (.tab (k l)) wid = false) →
          s.Accepts ⟨[svs a 2 wa, svs b regs wb], [], true⟩ → Gives (.st a b wa wb n m) s fun t =>
            MovesOn s t 8 s.cur ∧
            puts act t fun l i => (s.cur.vval (b.val + i / 4) l).extractLsb' (8 * (i % 4)) 8) ∧
        (m.wid = .w4 ∨ m.wid = .w8 → apart → (∀ l ∈ act, free l) →
          (op ≠ .cas → (∀ l ∈ act, opens l (s.cur.vpair a.val l) false true) →
            s.Accepts ⟨[svs a 2 wa, svs b regs wb], [], true⟩ → Gives (.red a b wa wb n op m) s fun t =>
              MovesOn s t 8 s.cur ∧ puts act t after) ∧
          ((∀ l ∈ act, opens l (s.cur.vpair a.val l) true true) →
            s.Accepts ⟨[svs a 2 wa, svs b (if op = .cas then 2 else regs) wb], [dvs d regs], true⟩ →
            Gives (.atm d a b wa wb n op m) s fun t => puts act t after ∧
              ∀ l ∈ act, ∀ j < regs, t.cur.vval (d.val + j) l = BitVec.ofNat 32 (here l / 2 ^ (32 * j))))) ∧
      (m.wid = .w4 ∨ m.wid = .w8 → op ≠ .cas → opens 0 (s.cur.gval s.curS a.val) false true → free 0 →
        s.Accepts ⟨[sg a wa, sg b wb], [], false⟩ → Gives (.gred a b wa wb op m) s fun t =>
          MovesOn s t 8 s.cur ∧
          puts [0] t fun _ i => byte (elementAfter op wid (here 0) (s.cur.gval s.curS b.val) 0) i)) ∧
  (∀ (s : State) (d a b : Reg) (wa wb sx : Bool) (m : MemExt) (r x : Region) (k : Nat),
      s.Live → s.regionOf s.curG = some r → r.whole → s.acquiring = false → s.regionWaits s.curG = false →
      m.ord = .relaxed → m.wid.bytes ≤ 8 → (s.cur.slot s.curS).pend = [] →
      let wid := m.wid.bytes
      let sec := k / 64
      (∀ y ∈ s.regions, y.gid = r.gid → y = r) → x ∈ s.regions → x.gid ≠ r.gid → x.die = r.die →
      s.homeDie r.die k = r.die → r.own sec = none → r.reads.length < 512 → r.writes.length < 256 →
      ((s.regions.filter fun y => y.die == r.die).map (·.writes.length)).sum < 32768 →
      s.dirtyClusters (· == sec) = [] → s.underWay s.curCluster (· == sec) = [] → s.channelShut k = false →
      (s.table (tidOfKey k)).ownw = false → s.NoWaits r.gid → s.Translated k wid →
      let h := s.cur.gval s.curS a.val
      ((aget x.readAt sec).isSome = true → (∀ y ∈ s.regions, ∀ i ∈ y.writes, i.sector ≠ sec) →
        (∀ y ∈ s.regions, y.gid ≠ r.gid → y ≠ x → aget y.readAt sec = none) →
        s.InTable h m.off wid k false true → s.hitsKey (.tab k) wid = false →
        s.Accepts ⟨[sg a wa, sgs b m.wid.uniRegs wb], [], false⟩ →
        (s.reaches s.curG x.gid = false → Gives (.gst a b wa wb m) s fun t => MovesOn s t 8 s.cur ∧
          t.mem.home = s.mem.home ∧ t.writes = s.writes ∧
          (∀ e, e ∈ t.edges ↔ e ∈ s.edges ∨ e = ⟨x.gid, s.curG, .order⟩) ∧
          ∃ y i, t.regionOf s.curG = some y ∧ sec ∈ y.reads ∧ y.own sec = some i ∧ ∀ j < 64, i.getD j 0 =
            if k % 64 ≤ j ∧ j < k % 64 + wid then
              byteOf (fun w => s.cur.gval s.curS (b.val + w)) (j - k % 64)
            else byteAt s.mem.home (64 * sec + j)) ∧
        (s.reaches s.curG x.gid = true → s.Settled s.curG → Gives (.gst a b wa wb m) s fun t =>
          t.inRegion s.curG = false ∧ (t.group s.curG).regCode = 3 ∧ RestoredTo (t.group s.curG) r.snap)) ∧
      ∀ i ∈ x.writes, i.sector = sec → (∀ y ∈ s.regions, ∀ j ∈ y.writes, j.sector = sec → y = x ∧ j = i) →
        s.InTable h m.off wid k true false → s.Accepts ⟨[sg a wa], [dgs d m.wid.uniRegs], false⟩ →
        s.reaches s.curG x.gid = false → ⟨x.gid, s.curG, .forward⟩ ∉ s.edges →
        ∀ p q u v, (∀ e ∈ [(p, q), (q, u), (u, v), (v, x.gid)], ⟨e.1, e.2, .forward⟩ ∈ s.edges) →
        Gives (.gld d a wa sx m) s fun t => t.regions = s.regions ∧ t.mem.home = s.mem.home ∧
          ∃ f : Fill, t.fills = s.fills ++ [f] ∧ f.items = [⟨0, .tab k, wid, [], none⟩] ∧
            ∀ e, e ∈ t.edges ↔ e ∈ s.edges ∨ e = ⟨x.gid, s.curG, .wait (f.id + 2)⟩) ∧
  ∀ (s : State) (f : Fill) (r : Region) (d wid k : Nat) (sx strong : Bool),
      s.fills.find? (fun x => x.id == f.id) = some f → (∀ x ∈ s.fills, x.id = f.id → x = f) →
      s.regionOf f.gid = some r → r.whole → (aget s.groups f.gid).isSome = true →
      (s.group f.gid).status ≠ .draining → f.kind = .load d wid sx strong → f.lane = false → ¬isMask d →
      f.items = [⟨0, .tab k, wid, [], none⟩] → wid ∈ [1, 2, 4, 8] → k % wid = 0 →
      s.walkingRange (s.coreOf f.gid) k wid = false →
      ((∃ w, ⟨w, f.gid, .wait (f.id + 2)⟩ ∈ s.edges) → Gives (.registerFill ⟨f.id, 0⟩) s fun t =>
        t.regions = s.regions ∧ t.fills = s.fills ∧ t.groups = s.groups ∧ t.mem = s.mem ∧
        ∀ e, e ∈ t.edges ↔ e ∈ s.edges) ∧
      (s.Alone r k → Gives (.registerFill ⟨f.id, 0⟩) s fun t =>
        let v := leNat ((List.range wid).map fun i => s.regionByte r (k / 64) (k % 64 + i))
        t.fills = s.fills.filter (fun x => x.id != f.id) ∧ t.mem.home = s.mem.home ∧
        (t.group f.gid).gval f.slot1 d =
          (if wid ≤ 4 ∧ sx = true then (BitVec.ofNat (8 * wid) v).signExtend 64 else BitVec.ofNat 64 v) ∧
        (∀ j < 136, bitOn f.dstG j = true → bitOn (t.group f.gid).emptyG j = false) ∧
        ∃ y, t.regionOf f.gid = some y ∧ r.after y (k / 64) ∧ y.writes = r.writes)

/-! ### Loads, stores and atomics -/

/-- R190, R185 to R187, R27, R60, R142, R195: a load from the own scratchpad writes the extended value of each
active lane, or the uniform value; one from a table, from private space or from another scratchpad of the
cluster becomes a producer of its destinations with one item for each element, as `trd` does with one for each
row part. With no active lane nothing is loaded, and the reply marks of the destinations go (R244). A handle
outside its space's bounds traps with the cause that R27 gives. -/
def Obligations.LoadWords : Prop :=
  ∀ (s : State) (d a : Reg) (wa n sx acq : Bool) (m : MemExt) (len : Nat),
    s.acquiring = false → s.regionWaits s.curG = false →
    let wid := m.wid.bytes
    let strong := m.obs.c || m.obs.x || m.obs.m || m.obs.p || m.obs.h
    let plain := m.ord = .relaxed ∨ s.inRegion s.curG = false
    let clear (o : Nat) : Prop := s.scored (teamOf s.curG) o (o + wid) false = false ∧
      ∀ i < wid, (o + i) / 32 ∉ s.curTeam.spadPoison
    let here (o : Nat) : Nat := leNat (bytesAt s.curTeam.spad o wid)
    (plain → s.Accepts ⟨[sg a wa], [dgs d m.wid.uniRegs], false⟩ →
      let h := s.cur.gval s.curS a.val
      let i := Instr.gld d a wa sx m
      (∀ o, s.OwnSpad h m.off wid o → clear o → Gives i s fun t =>
        Wrote s t 0 [] ((List.range m.wid.uniRegs).map fun j => (d.val + j,
          if wid ≤ 4 ∧ sx = true then (BitVec.ofNat (8 * wid) (here o)).signExtend 64
          else BitVec.ofNat 64 (here o / 2 ^ (64 * j)))) 8 0) ∧
      (∀ loc, s.Reaches 0 h m.off wid true false loc → s.inRegion s.curG = false → Gives i s fun t =>
        Produced s t false (.load d.val wid sx strong) (waitingItems 0 wid loc)
          [(d.val, m.wid.uniRegs)] (m.ord == .acquire) 8) ∧
      (effective h m.off = .error .handleFault → Traps i s .handleFault 0) ∧
      ∀ e, effective h m.off = .ok e →
        let tid := tidOf e
        (spaceOf e = 1 →
          (field e 19 43 ≠ 0 → Traps i s .handleFault 0) ∧
          (field e 19 43 = 0 → s.curLaunch.spad < field e 0 19 + wid → Traps i s .spadRange 0) ∧
          (field e 19 43 = 0 → field e 0 19 + wid ≤ s.curLaunch.spad → field e 0 19 % wid ≠ 0 →
            Traps i s .align 0)) ∧
        (spaceOf e = 0 → (s.table tid).poisonDesc = false →
          ((s.table tid).usable tid = false → Traps i s .tableAbsent 0) ∧
          ((s.table tid).usable tid = true → s.curLaunch.reads tid = false → Traps i s .access 0) ∧
          ((s.table tid).usable tid = true → s.curLaunch.reads tid = true →
            ((s.table tid).slots ≤ posOf e / (s.table tid).rowSize → Traps i s .handleFault 0) ∧
            (posOf e / (s.table tid).rowSize < (s.table tid).slots → posOf e % wid ≠ 0 →
              Traps i s .align 0)))) ∧
    (plain → s.Accepts ⟨[svs a 2 wa], [dvs d m.wid.laneRegs], true⟩ →
      let act := s.lanesOn n
      (act = 0 → Gives (.ld d a wa n sx m) s fun t => OnlyGroup s t ∧
        MovesOn s t 8 (s.cur.unmarked d.val m.wid.laneRegs)) ∧
      (act ≠ 0 → ∀ o : Nat → Nat,
        (∀ l < 96, act.getLsbD l = true → s.OwnSpad (s.cur.vpair a.val l) m.off wid (o l) ∧ clear (o l)) →
        Gives (.ld d a wa n sx m) s fun t =>
          Wrote s t act ((List.range m.wid.laneRegs).map fun j => (d.val + j, fun l =>
            if wid ≤ 2 ∧ sx = true then (BitVec.ofNat (8 * wid) (here (o l))).signExtend 32
            else BitVec.ofNat 32 (here (o l) / 2 ^ (32 * j)))) [] 8 0) ∧
      (act ≠ 0 → s.inRegion s.curG = false → ∀ loc : Nat → Loc,
        (∀ l < 96, act.getLsbD l = true → s.Reaches l (s.cur.vpair a.val l) m.off wid true false (loc l)) →
        Gives (.ld d a wa n sx m) s fun t =>
          Produced s t true (.load d.val wid sx strong)
            ((lanesOf act).flatMap fun l => waitingItems l wid (loc l)) [(d.val, m.wid.laneRegs)]
            (m.ord == .acquire) 8)) ∧
    (s.inRegion s.curG = false → s.Accepts ⟨[svs a 2 wa], [dvs d (len / 4)], true⟩ →
      (s.lanesOn n = 0 → Gives (.trd d a wa n acq len) s fun t => OnlyGroup s t ∧
        MovesOn s t 8 (s.cur.unmarked d.val (len / 4))) ∧
      (s.lanesOn n ≠ 0 → ∀ k : Nat → Nat,
      (∀ l < 96, (s.lanesOn n).getLsbD l = true →
        s.InTable (s.cur.vpair a.val l) 0 4 (k l) true false ∧
        posOfKey (k l) % (s.table (tidOfKey (k l))).rowSize + len ≤ (s.table (tidOfKey (k l))).rowSize) →
      Gives (.trd d a wa n acq len) s fun t =>
        Produced s t true (.trd d.val len) ((lanesOf (s.lanesOn n)).map fun l => ⟨l, .tab (k l), len, [], none⟩)
          [(d.val, len / 4)] acq 8))

/-- R190, R147, R161, R144, R24, R29: a relaxed store to the own scratchpad replaces exactly its bytes, the
highest active lane's where lanes overlap. One to a table, to private space or to another scratchpad of the
cluster makes counted requests, one for each sector; a strong one of up to 8 bytes to a table stands in the cluster
copy at once and goes to the home (one of several elements enters it element by element: `WritesOnTheirWay`). A store to a live row's key bytes traps ACCESS. -/
def Obligations.StoreWords : Prop :=
  ∀ (s : State) (a b : Reg) (wa wb n : Bool) (m : MemExt), s.acquiring = false →
    s.regionWaits s.curG = false → m.ord = .relaxed → (s.cur.slot s.curS).pend = [] →
    let wid := m.wid.bytes
    let tk := teamOf s.curG
    let strong := m.obs.c || m.obs.x || m.obs.m || m.obs.p || m.obs.h
    let clear (o : Nat) : Prop := s.scored tk o (o + wid) true = false ∧
      s.hitsNotify (.spad tk o) wid = false
    let uni (i : Nat) : Byte := byteOf (fun j => s.cur.gval s.curS (b.val + j)) i
    let lane (l i : Nat) : Byte := (s.cur.vval (b.val + i / 4) l).extractLsb' (8 * (i % 4)) 8
    let sends (x : Instr) (ls : List Nat) (h : Nat → W64) (byte : Nat → Nat → Byte) : Prop :=
      ∀ (loc : Nat → Loc) (kind : WKind) (priv : Bool), ls ≠ [] → s.inRegion s.curG = false →
        (∀ l ∈ ls, s.Reaches l (h l) m.off wid false true (loc l) ∧ s.hitsKey (loc l) wid = false ∧
          s.hitsNotify (loc l) wid = false ∧ (loc l).isPrivate = priv ∧
          match loc l with
          | .tab k => kind = (if strong then .home else .l1) ∧
              (strong = true → (s.table (tidOfKey k)).ownw = false)
          | .priv .. => kind = .l1 ∧ ∀ i < wid,
              s.mem.privPages.contains (s.curLaunch.ten, pageOf ((loc l).key i)) = true
          | .spad t _ => kind = .spad t) →
        (strong = true → s.strongBehind s.curG
          ((ls.filter fun l => (loc l).isTab).flatMap fun l => (loc l).keys wid) = false) →
        s.countOk (ls.length * (if priv then max 1 (wid / 4) else 1)) = true →
        Gives x s fun t => Sends s t kind ls loc wid byte ∧ (kind ≠ .home → t.mem.l1 = s.mem.l1)
    (s.Accepts ⟨[sg a wa, sgs b m.wid.uniRegs wb], [], false⟩ →
      let h := s.cur.gval s.curS a.val
      let x := Instr.gst a b wa wb m
      (∀ o, s.OwnSpad h m.off wid o → clear o → Gives x s fun t =>
        OnlyOwn s t ∧ MovesOn s t 8 s.cur ∧ SpadOutside s t (fun k => o ≤ k ∧ k < o + wid) ∧
        ∀ i < wid, byteAt t.curTeam.spad (o + i) = uni i) ∧
      sends x [0] (fun _ => h) (fun _ => uni) ∧
      ∀ k, s.InTable h m.off wid k false true → s.inRegion s.curG = false →
        (s.hitsKey (.tab k) wid = true → Traps x s .access 0) ∧
        (s.hitsKey (.tab k) wid = false → s.countOk 1 = true → strong = true → wid ≤ 8 → s.writes = [] →
          s.strongBehind s.curG ((List.range wid).map (k + ·)) = false →
          (s.table (tidOfKey k)).ownw = false → s.pageHeld (s.coreOf s.curG) (64 * (k / 64)) = true →
          s.lineRoom s.curCluster (k / 256) = true →
          Gives x s fun t => ∀ i < wid, t.strongByte s.curCluster (k + i) = uni i ∧
            t.readByte s.curCluster (k + i) = uni i)) ∧
    (s.Accepts ⟨[svs a 2 wa, svs b m.wid.laneRegs wb], [], true⟩ →
      sends (.st a b wa wb n m) (lanesOf (s.lanesOn n)) (s.cur.vpair a.val) lane) ∧
    (s.Accepts ⟨[svs a 2 wa, svs b m.wid.laneRegs wb], [], true⟩ → s.lanesOn n = 0 →
      exec (.st a b wa wb n m) s = .next (s.next 8)) ∧
    (s.Accepts ⟨[svs a 2 wa, svs b m.wid.laneRegs wb], [], true⟩ → s.lanesOn n ≠ 0 → ∀ o : Nat → Nat,
      (∀ l < 96, (s.lanesOn n).getLsbD l = true →
        s.OwnSpad (s.cur.vpair a.val l) m.off wid (o l) ∧ clear (o l)) →
      Gives (.st a b wa wb n m) s fun t => OnlyOwn s t ∧ MovesOn s t 8 s.cur ∧
        SpadOutside s t (fun k => ∃ l < 96, (s.lanesOn n).getLsbD l = true ∧ o l ≤ k ∧ k < o l + wid) ∧
        ∀ l < 96, (s.lanesOn n).getLsbD l = true → ∀ i < wid,
          (∀ l' < 96, (s.lanesOn n).getLsbD l' = true → l < l' → ¬(o l' ≤ o l + i ∧ o l + i < o l' + wid)) →
          byteAt t.curTeam.spad (o l + i) = lane l i)

/-- R191 to R193, R147, R309: a relaxed atomic or reduction on the own scratchpad replaces its element by the
operation's result, and an atomic's D takes the old value; a reduction on a table or on another scratchpad of
the cluster makes one counted request for each lane, and a weak atomic becomes a producer counted once for each
lane. An atomic on tables whose mask names an observer becomes a producer too, and each lane sends its home a counted
request that names the producer and the lane. One on private space traps ACCESS, as a reduction on an encrypted table does. -/
def Obligations.AtomicWords : Prop :=
  ∀ (s : State) (d a b : Reg) (wa wb n : Bool) (op : AtomOp) (m : MemExt), s.acquiring = false →
    s.inRegion s.curG = false → m.ord = .relaxed → m.wid = .w4 ∨ m.wid = .w8 →
    let wid := m.wid.bytes
    let tk := teamOf s.curG
    let named := m.obs.c || m.obs.x || m.obs.m || m.obs.p || m.obs.h
    let clear (o : Nat) : Prop := s.scored tk o (o + wid) true = false ∧
      s.hitsNotify (.spad tk o) wid = false ∧ o / 32 ∉ s.curTeam.spadPoison
    let here (o : Nat) : Nat := leNat (bytesAt s.curTeam.spad o wid)
    let b0 := s.cur.gval s.curS b.val
    let b1 := if op = .cas then s.cur.gval s.curS (b.val + 1) else 0
    let lane0 (l : Nat) : W64 :=
      if op ≠ .cas ∧ m.wid = .w8 then s.cur.vpair b.val l else (s.cur.vval b.val l).setWidth 64
    let lane1 (l : Nat) : W64 := (s.cur.vval (b.val + 1) l).setWidth 64
    let h := s.cur.gval s.curS a.val
    let free (loc : Loc) : Prop := loc.isPrivate = false ∧ s.hitsKey loc wid = false ∧ s.hitsNotify loc wid = false
    let sent (x : Instr) (ls : List Nat) (h y : Nat → W64) : Prop := ∀ loc : Nat → Loc, ls ≠ [] →
      (∀ l ∈ ls, s.Reaches l (h l) m.off wid false true (loc l) ∧ free (loc l) ∧
        ∀ k, loc l = .tab k → (s.table (tidOfKey k)).ownw = false) →
      s.strongBehind s.curG ((ls.filter fun l => (loc l).isTab).flatMap fun l => (loc l).keys wid) = false →
      s.countOk ls.length = true → Gives x s fun t =>
        t.mem.home = s.mem.home ∧ t.mem.l1 = s.mem.l1 ∧ t.teams = s.teams ∧
        MovesOn s t 8 { s.cur with uwc := s.cur.uwc + ls.length } ∧
        (∀ gid, gid ≠ s.curG → t.group gid = s.group gid) ∧
        (∀ x : PWrite, x.id < s.nextId → (x ∈ t.writes ↔ x ∈ s.writes)) ∧
        ∀ l ∈ ls, ∃ w ∈ t.writes, s.nextId ≤ w.id ∧ w.gid = s.curG ∧ w.counted = true ∧
          w.data.map (·.1) = (loc l).keys wid ∧
          w.kind = (match loc l with
            | .spad t _ => .spadAtom t ⟨op, wid, y l, 0, none⟩
            | _ => .atom ⟨op, wid, y l, 0, none⟩)
    let asked (x : Instr) (lane : Bool) (ls : List Nat) (h y z : Nat → W64) (empty : State → Prop) : Prop :=
      ∀ k : Nat → Nat, named = true → ls ≠ [] →
      (∀ l ∈ ls, s.InTable (h l) m.off wid (k l) true true ∧ s.hitsKey (.tab (k l)) wid = false ∧
        (s.table (tidOfKey (k l))).ownw = false) →
      s.strongBehind s.curG (ls.flatMap fun l => (List.range wid).map (k l + ·)) = false →
      s.countOk ls.length = true → Gives x s fun t =>
        t.mem.home = s.mem.home ∧ t.mem.l1 = s.mem.l1 ∧ t.teams = s.teams ∧ empty t ∧
        t.cur.uwc = s.cur.uwc + ls.length ∧
        (t.cur.slot s.curS).path = some (s.pathAt (s.curPath.pc + 8)) ∧
        (∀ gid, gid ≠ s.curG → t.group gid = s.group gid) ∧
        (∀ x : PWrite, x.id < s.nextId → (x ∈ t.writes ↔ x ∈ s.writes)) ∧
        ∃ f : Fill, t.fills = s.fills ++ [f] ∧ f.gid = s.curG ∧ f.lane = lane ∧ f.slot1 = s.curS ∧
          (∃ a, f.kind = .atm d.val a true ∧ a.op = op ∧ a.wid = wid) ∧
          f.items = ls.map (fun l => ⟨l, .tab (k l), wid, [y l, z l], none⟩) ∧
          ∀ l ∈ ls, ∃ w ∈ t.writes, s.nextId ≤ w.id ∧ w.gid = s.curG ∧ w.counted = true ∧
            w.data.map (·.1) = (List.range wid).map (k l + ·) ∧
            w.kind = .atom ⟨op, wid, y l, z l, some (f.id, l)⟩
    let put (t : State) (o : Nat) : Prop := SpadOutside s t (fun k => o ≤ k ∧ k < o + wid) ∧
      leNat (bytesAt t.curTeam.spad o wid) = elementAfter op wid (here o) b0 b1
    (s.Accepts ⟨[sg a wa, sgs b (if op = .cas then 2 else 1) wb], [dg d], false⟩ →
      (∀ o, s.OwnSpad h m.off wid o → clear o → Gives (.gatm d a b wa wb op m) s fun t => put t o ∧
        ∃ s1, Wrote s s1 0 [] [(d.val, BitVec.ofNat 64 (here o))] 8 0 ∧
          t = s1.setTeam tk t.curTeam) ∧
      (∀ loc, s.Reaches 0 h m.off wid true true loc → loc.isPrivate = true →
        Traps (.gatm d a b wa wb op m) s .access 0) ∧
      (∀ loc, s.Reaches 0 h m.off wid true true loc → free loc → named = false →
        s.countOk 1 = true → Gives (.gatm d a b wa wb op m) s fun t => t.cur.uwc = s.cur.uwc + 1 ∧
        ∃ x, Produced s t false (.atm d.val x false) [⟨0, loc, wid, [b0, b1], none⟩] [(d.val, 1)] false 8 ∧
          x.op = op ∧ x.wid = wid) ∧
      asked (.gatm d a b wa wb op m) false [0] (fun _ => h) (fun _ => b0) (fun _ => b1) fun t =>
        bitOn t.cur.emptyG (gBit s.curS d.val) = true) ∧
    (op ≠ .cas → s.Accepts ⟨[sg a wa, sg b wb], [], false⟩ →
      (∀ o, s.OwnSpad h m.off wid o → clear o → Gives (.gred a b wa wb op m) s fun t =>
        put t o ∧ OnlyOwn s t ∧ MovesOn s t 8 s.cur) ∧
      (∀ k, s.InTable h m.off wid k false true → (s.table (tidOfKey k)).ownw = true →
        Traps (.gred a b wa wb op m) s .access 0) ∧
      sent (.gred a b wa wb op m) [0] (fun _ => h) fun _ => b0) ∧
    (s.Accepts ⟨[svs a 2 wa, svs b (if op = .cas then 2 else m.wid.laneRegs) wb], [dvs d m.wid.laneRegs], true⟩ →
      (s.lanesOn n = 0 → Gives (.atm d a b wa wb n op m) s fun t => OnlyGroup s t ∧
        MovesOn s t 8 (s.cur.unmarked d.val m.wid.laneRegs)) ∧
      (s.lanesOn n ≠ 0 → named = false → s.countOk (lanesOf (s.lanesOn n)).length = true → ∀ loc : Nat → Loc,
        (∀ l ∈ lanesOf (s.lanesOn n), s.Reaches l (s.cur.vpair a.val l) m.off wid true true (loc l) ∧
          free (loc l)) →
        Gives (.atm d a b wa wb n op m) s fun t =>
          t.cur.uwc = s.cur.uwc + (lanesOf (s.lanesOn n)).length ∧
          ∃ x, Produced s t true (.atm d.val x false)
            ((lanesOf (s.lanesOn n)).map fun l =>
              ⟨l, loc l, wid, [lane0 l, if op = .cas then lane1 l else 0], none⟩)
            [(d.val, m.wid.laneRegs)] false 8 ∧ x.op = op ∧ x.wid = wid) ∧
      asked (.atm d a b wa wb n op m) true (lanesOf (s.lanesOn n)) (s.cur.vpair a.val) lane0
        (fun l => if op = .cas then lane1 l else 0) fun t =>
          ∀ j < m.wid.laneRegs, d.val + j < 128 → bitOn t.cur.emptyV (d.val + j) = true) ∧
    (op ≠ .cas → s.Accepts ⟨[svs a 2 wa, svs b m.wid.laneRegs wb], [], true⟩ →
      (s.lanesOn n = 0 → exec (.red a b wa wb n op m) s = .next (s.next 8)) ∧
      sent (.red a b wa wb n op m) (lanesOf (s.lanesOn n)) (s.cur.vpair a.val) lane0) ∧
    ∀ o : Nat → Nat,
      (∀ l < 96, (s.lanesOn n).getLsbD l = true →
        s.OwnSpad (s.cur.vpair a.val l) m.off wid (o l) ∧ clear (o l) ∧
        ∀ l' < 96, (s.lanesOn n).getLsbD l' = true → l ≠ l' → o l ≠ o l') → s.lanesOn n ≠ 0 →
      let all (t : State) : Prop :=
        SpadOutside s t (fun k => ∃ l < 96, (s.lanesOn n).getLsbD l = true ∧ o l ≤ k ∧ k < o l + wid) ∧
        ∀ l < 96, (s.lanesOn n).getLsbD l = true → leNat (bytesAt t.curTeam.spad (o l) wid) =
          elementAfter op wid (here (o l)) (lane0 l) (lane1 l)
      (s.Accepts ⟨[svs a 2 wa, svs b (if op = .cas then 2 else m.wid.laneRegs) wb],
          [dvs d m.wid.laneRegs], true⟩ →
        Gives (.atm d a b wa wb n op m) s fun t => all t ∧
          ∃ s1, Wrote s s1 (s.lanesOn n) ((List.range m.wid.laneRegs).map fun j => (d.val + j, fun l =>
              BitVec.ofNat 32 (here (o l) / 2 ^ (32 * j)))) [] 8 0 ∧ t = s1.setTeam tk t.curTeam) ∧
      (op ≠ .cas → s.Accepts ⟨[svs a 2 wa, svs b m.wid.laneRegs wb], [], true⟩ →
        Gives (.red a b wa wb n op m) s fun t => all t ∧ OnlyOwn s t ∧ MovesOn s t 8 s.cur)

/-! ### Fills and writes under way -/

/-- R60, R142, R160, R161, R190, R195, R199, R20, R188, R33, R295: what a producer whose items may bind fills its
destinations with, every one of them full afterwards: a load the bytes that its cluster reads of a table or of
private space, or those of another scratchpad of the cluster; an atomic the old value, which its home has sent, or
which it finds in the cluster copy or the other scratchpad as it replaces the element there (R168, R192, R193); a
consistent read the bytes at the home, a lookup the handle and the status, a cursor step the next row, `lnch` its
child.
Lookups and steps go by the descriptor under which they were translated. That a strong load takes bytes that
its own cluster holds and the home has not accepted before those of the home is the model's reading (log entry 13). -/
def Obligations.RegisterFills : Prop :=
  ∀ (s : State) (id : Nat) (f : Fill), s.fills.find? (fun x => x.id == id) = some f →
    s.inRegion f.gid = false → (aget s.groups f.gid).isSome = true →
    (s.group f.gid).status ≠ .draining →
    let cl := s.clusterOf f.gid
    let l := launchOfTeam (teamOf f.gid)
    let filled (t : State) : Prop := t.fills = s.fills.filter (fun x => x.id != id) ∧
      t.mem.home = s.mem.home ∧ t.teams = s.teams ∧ t.tables = s.tables ∧
      (∀ r < 128, bitOn f.dstV r = true → bitOn (t.group f.gid).emptyV r = false) ∧
      ∀ r < 136, bitOn f.dstG r = true → bitOn (t.group f.gid).emptyG r = false
    let uni (t : State) (r : Nat) (x : W64) : Prop := ¬isMask r → (t.group f.gid).gval f.slot1 r = x
    let stored (strong : Bool) (k : Nat) : Byte := if strong then s.strongByte cl k else s.readByte cl k
    let byte (rd : Nat → Byte) (k : Nat) : Byte := (s.openUnit rd (unitOf k)).1.getD (k % 32) 0
    let val (rd : Nat → Byte) (k wid : Nat) : Nat := leNat ((List.range wid).map fun i => byte rd (k + i))
    let bad (rd : Nat → Byte) (k : Nat) : Prop :=
      s.mem.poison.contains (unitOf k) = true ∨ (s.openUnit rd (unitOf k)).2 = true
    let cell (strong : Bool) (loc : Loc) (i : Nat) : Byte := match loc with
      | .tab k => byte (stored strong) (k + i)
      | .priv .. => byte (s.readByte cl) (loc.key i)
      | .spad t o => byteAt (s.team t).spad (o + i)
    let valAt (strong : Bool) (loc : Loc) (wid : Nat) : Nat := leNat ((List.range wid).map (cell strong loc))
    let badAt (strong : Bool) (loc : Loc) (i : Nat) : Prop := match loc with
      | .tab k => bad (stored strong) (k + i)
      | .priv .. => bad (s.readByte cl) (loc.key i)
      | .spad t o => (o + i) / 32 ∈ (s.team t).spadPoison
    let aligned (loc : Loc) (wid : Nat) : Prop := match loc with
      | .tab k => k % wid = 0
      | .priv base _ o => base % 4 = 0 ∧ o % wid = 0
      | .spad _ o => o % wid = 0
    let ready := ∀ i ∈ f.items, s.itemReady f i = true
    let looks (i : Item) : Prop := s.lookupReady f [] i = true
    (∀ (rd : Nat → Byte) (k : Nat), k < 2 ^ 110 → s.slotOfKey (32 * (k / 32)) = none → byte rd k = rd k) ∧
    (∀ d wid sx strong loc, f.kind = .load d wid sx strong → wid ∈ [1, 2, 4, 8, 16] → f.lane = false →
      aligned loc wid → ready → f.items = waitingItems 0 wid loc → Gives (.registerFill ⟨id, 0⟩) s fun t =>
        filled t ∧
        (∀ j < max 1 (wid / 8), uni t (d + j) (if wid ≤ 4 ∧ sx = true then
          (BitVec.ofNat (8 * wid) (valAt strong loc wid)).signExtend 64
          else BitVec.ofNat 64 (valAt strong loc wid / 2 ^ (64 * j)))) ∧
        ((∃ j < wid, badAt strong loc j) →
          ∀ r < 136, bitOn f.dstG r = true → bitOn (t.group f.gid).poisonG r = true)) ∧
    (∀ d wid sx strong i loc, f.kind = .load d wid sx strong → wid ∈ [1, 2, 4, 8, 16] →
      f.lane = true → i < 96 → aligned loc wid → ready → f.items = waitingItems i wid loc →
      Gives (.registerFill ⟨id, 0⟩) s fun t =>
        filled t ∧ (∀ j < max 1 (wid / 4), (t.group f.gid).vval (d + j) i =
          if wid ≤ 2 ∧ sx = true then (BitVec.ofNat (8 * wid) (valAt strong loc wid)).signExtend 32
          else BitVec.ofNat 32 (valAt strong loc wid / 2 ^ (32 * j))) ∧
        ∀ r i', i' < 96 → i' ≠ i → (t.group f.gid).vval r i' = (s.group f.gid).vval r i') ∧
    (∀ d a named, f.kind = .atm d a named → a.wid = 4 ∨ a.wid = 8 →
      (∀ i bs, f.lane = false → f.items = [i] → i.got = some (bs, false) → bs.length = a.wid → ¬isMask d →
        Gives (.registerFill ⟨id, 0⟩) s fun t => filled t ∧ t.mem = s.mem ∧ uni t d (BitVec.ofNat 64 (leNat bs))) ∧
      (f.lane = true → (f.items.map (·.lane)).Nodup →
        (∀ i ∈ f.items, i.lane < 96 ∧ ∃ bs, i.got = some (bs, false) ∧ bs.length = a.wid) →
        Gives (.registerFill ⟨id, 0⟩) s fun t => filled t ∧ t.mem = s.mem ∧
          (∀ i ∈ f.items, ∀ bs, i.got = some (bs, false) → ∀ j < a.wid / 4,
            (t.group f.gid).vval (d + j) i.lane = BitVec.ofNat 32 (leNat bs / 2 ^ (32 * j))) ∧
          ∀ r i', i' < 96 → (∀ i ∈ f.items, i.lane ≠ i') → (t.group f.gid).vval r i' = (s.group f.gid).vval r i') ∧
      (∀ b0 b1, ∀ k : Nat, f.lane = false → named = false → ¬isMask d → f.items = [⟨0, .tab k, a.wid, [b0, b1], none⟩] →
        ready → k % a.wid = 0 → k < 2 ^ 62 → s.slotOfKey k = none → s.mem.poison.contains (unitOf k) = false →
        (∀ i < a.wid, s.isKeyByte (k + i) = false) → Gives (.registerFill ⟨id, 0⟩) s fun t =>
          let old := valAt false (.tab k) a.wid
          filled t ∧ uni t d (BitVec.ofNat 64 old) ∧ (t.group f.gid).uwc = (s.group f.gid).uwc - 1 ∧
          ∀ i < a.wid, aget t.mem.l1 (copyKey cl (k + i)) =
            some ⟨BitVec.ofNat 8 (elementAfter a.op a.wid old b0 b1 / 2 ^ (8 * i)), 1⟩) ∧
      ∀ b0 b1 tk, ∀ o : Nat, f.lane = false → ¬isMask d → f.items = [⟨0, .spad tk o, a.wid, [b0, b1], none⟩] → ready →
        o / 32 ∉ (s.team tk).spadPoison → o % a.wid = 0 → Gives (.registerFill ⟨id, 0⟩) s fun t =>
          let old := valAt false (.spad tk o) a.wid
          t.fills = s.fills.filter (fun x => x.id != id) ∧ t.mem = s.mem ∧ uni t d (BitVec.ofNat 64 old) ∧
          (t.group f.gid).uwc = (s.group f.gid).uwc - 1 ∧
          leNat (bytesAt (t.team tk).spad o a.wid) = elementAfter a.op a.wid old b0 b1 ∧
          ∀ k, k < o ∨ o + a.wid ≤ k → byteAt (t.team tk).spad k = byteAt (s.team tk).spad k) ∧
    (∀ d len i, ∀ k : Nat, f.kind = .trd d len → len % 4 = 0 → 0 < len → f.lane = true → i < 96 → ready →
      f.items = [⟨i, .tab k, len, [], none⟩] →
      (∀ e ∈ s.mem.l1, ownerOfCopy e.1 = cl → k ≤ keyOfCopy e.1 → keyOfCopy e.1 < k + len → e.2.st ≠ 1) →
      Gives (.registerFill ⟨id, 0⟩) s fun t => filled t ∧
        ∀ j < len / 4, (t.group f.gid).vval (d + j) i = BitVec.ofNat 32 (val (byteAt s.mem.home) (k + 4 * j) 4)) ∧
    (∀ d c tid dft desc key ln ws, f.kind = .tget d c tid dft desc → f.lane = false → d ≠ c →
      f.items = [⟨0, .tab key, ln, ws, none⟩] → looks ⟨0, .tab key, ln, ws, none⟩ → ¬isMask d → ¬isMask c →
      let tb : Table := { s.table tid with dw := desc }
      let gives (h : W64) (st : Nat) : Prop := Gives (.registerFill ⟨id, 0⟩) s fun t =>
        filled t ∧ uni t d h ∧ uni t c (BitVec.ofNat 64 st)
      (uniKey tb ws = none → gives 0 3) ∧
      ∀ x, uniKey tb ws = some x →
        (∀ slot, s.Finds l tb (keyInt tb.keyt x) slot → gives (handle tid (slot * tb.rowSize)) 0) ∧
        (s.Misses l tb (keyInt tb.keyt x) →
          gives (if dft then handle tid (tb.defSlot * tb.rowSize) else 0) (if dft then 1 else 2))) ∧
    (∀ d a c i key ln ws, f.kind = .tstp d a c 2 → f.lane = true → i < 96 →
      f.items = [⟨i, .tab key, ln, ws, none⟩] → looks ⟨i, .tab key, ln, ws, none⟩ →
      (d + 1 < a ∨ a + 7 < d) → (c < a ∨ a + 7 < c) → c ≠ d → c ≠ d + 1 →
      let e0 := dwAt ws 0
      let tid := field e0 0 20
      let tb : Table := { s.table tid with dw := ws.drop 8 }
      let reach (r : Row) : Prop := s.sees l r = true ∧ r.key ≤ (dwAt ws 4).toInt ∧
        (if flag e0 21 then (dwAt ws 2).toInt < r.key else (dwAt ws 2).toInt ≤ r.key)
      tb.dense = false → tb.keyt = 1 → dwAt ws 1 = 0 →
      flag e0 20 = false → flag e0 22 = false →
      (∀ r ∈ tb.rows, reach r → (∀ x ∈ tb.rows, reach x → r.key < x.key ∨ x = r) →
        Gives (.registerFill ⟨id, 0⟩) s fun t => filled t ∧
          (t.group f.gid).vpair d i = handle tid (r.slot * tb.rowSize) ∧ (t.group f.gid).vval c i = 0 ∧
          (t.group f.gid).vpair (a + 2) i = BitVec.ofInt 64 r.key) ∧
      ((∀ r ∈ tb.rows, ¬reach r) → Gives (.registerFill ⟨id, 0⟩) s fun t => filled t ∧
        (t.group f.gid).vpair d i = 0 ∧ (t.group f.gid).vval c i = 6)) ∧
    ∀ d v, f.kind = .lnch d v → f.lane = false → ¬isMask d → Gives (.registerFill ⟨id, 0⟩) s fun t =>
      filled t ∧ uni t d v

/-- R147, R160 to R162, R30, R41, R167, R169, R192, R230: a weak write stands dirty in its cluster copy when it is
acknowledged; a write at its home replaces exactly its bytes there and advances the versions of the rows
it touches, an atomic replaces its element; none of it happens while a region holds the sector. A line
that a cluster evicts sends its dirty bytes, and none of its bytes stays valid; a visitor line goes unless it stands in
the ways of a pinned range, which hold the lowest lines of the range (log entry 64). A strong write that is still in
its core enters the cluster copy as it leaves, or one element of it ahead of the rest (R142, R161). (Every request of the state has left its core here; others leave theirs after such an event.) -/
def Obligations.WritesOnTheirWay : Prop :=
  (∀ (s : State) (id k : Nat) (w : PWrite), s.writes.find? (fun x => x.id == id) = some w → w.kind = .home →
    w.gone = false →
    let part := (w.data.drop (k * w.ew)).take w.ew
    (s.maySend w = false → exec (.writeAck ⟨id, k⟩) s = .next s) ∧
    (s.maySend w = true → w.clears = false → (w.data.map (·.1)).Nodup →
      (∀ p ∈ w.data, p.1 < 2 ^ 110 ∧ s.slotOfKey p.1 = none ∧ s.isKeyByte p.1 = false) →
      (Gives (.writeAck ⟨id, 0⟩) s fun t => t.mem.home = s.mem.home ∧ t.groups = s.groups ∧
        (∃ x ∈ t.writes, x.id = id ∧ x.gone = true ∧ x.kind = .home ∧ x.data = w.data) ∧
        ∀ p ∈ w.data, p.1 ∉ w.into → aget t.mem.l1 (copyKey w.cluster p.1) = some ⟨p.2, id + 2⟩) ∧
      (part ≠ [] → w.ew < w.data.length → Gives (.writeAck ⟨id, k + 1⟩) s fun t =>
        t.mem.home = s.mem.home ∧ t.groups = s.groups ∧
        (∃ x ∈ t.writes, x.id = id ∧ x.gone = false ∧ x.data = w.data ∧ x.into = w.into ++ part.map (·.1)) ∧
        (∀ p ∈ part, aget t.mem.l1 (copyKey w.cluster p.1) = some ⟨p.2, id + 2⟩) ∧
        ∀ q, q ∉ part.map (fun p => copyKey w.cluster p.1) → aget t.mem.l1 q = aget s.mem.l1 q))) ∧
  ∀ (s : State) (id cl line : Nat) (w : PWrite), (∀ x ∈ s.writes, x.gone = true) →
    let gone (t : State) : Prop := t.mem.home = s.mem.home ∧ ∀ e, e ∈ t.mem.l1 ↔ e ∈ s.mem.l1 ∧
      ¬(ownerOfCopy e.1 = cl ∧ lineOf (keyOfCopy e.1) = line)
    (cl < 40 → s.dirtySectors cl (fun x => x / 4 == line) = [] → Gives (.l1Eviction cl line) s fun t =>
      gone t ∧ t.writes = s.writes) ∧
    (∀ sec, cl < 40 → s.dirtySectors cl (fun x => x / 4 == line) = [sec] →
      Gives (.l1Eviction cl line) s fun t =>
        gone t ∧ ∃ x, t.writes = s.writes ++ [x] ∧ x.kind = .home ∧ x.cluster = cl ∧
          x.counted = false ∧ x.data = s.dirtyIn cl (fun y => y == sec)) ∧
    (40 ≤ cl →
      let pinned := ∃ p ∈ s.mem.pins, p.die = cl - 40 ∧ p.lo / 256 ≤ line ∧ line ≤ (p.lo + p.len - 1) / 256 ∧
        ((dedup ((s.mem.vis.filter fun e => ownerOfCopy e.1 == cl - 40).map fun e => lineOf (keyOfCopy e.1))).filter
          fun x => decide (p.lo / 256 ≤ x) && decide (x < line)).length < 262144 * p.ways
      (pinned → exec (.l1Eviction cl line) s = .next s) ∧
      (¬pinned → Gives (.l1Eviction cl line) s fun t => t.mem.home = s.mem.home ∧ t.mem.l1 = s.mem.l1 ∧
        ∀ e, e ∈ t.mem.vis ↔ e ∈ s.mem.vis ∧
          ¬(ownerOfCopy e.1 = cl - 40 ∧ lineOf (keyOfCopy e.1) = line))) ∧
    (s.writes.find? (fun x => x.id == id) = some w →
      (aget s.groups w.gid).isSome = true → (s.group w.gid).status ≠ .draining →
      (w.data.map (·.1)).Nodup → w.data ≠ [] →
      let acked (t : State) : Prop := t.writes = s.writes.filter (fun x => x.id != id) ∧
        (t.group w.gid).uwc = (s.group w.gid).uwc - (if w.counted then 1 else 0)
      let performed (t : State) : Prop := (∀ row ∈ s.rowsOf (w.data.map (·.1)),
          (aget t.mem.versions row).getD 0 = (aget s.mem.versions row).getD 0 + 1) ∧
        (if w.counted then ∃ x ∈ t.writes, x.id = id ∧ x.stage = 2 else ∀ x ∈ t.writes, x.id ≠ id)
      (w.kind = .l1 → s.mayLand w = true →
        (∀ p ∈ w.data, s.slotOfKey p.1 = none ∧ s.isKeyByte p.1 = false) →
        Gives (.writeAck ⟨id, 0⟩) s fun t => acked t ∧ t.mem.home = s.mem.home ∧
          ∀ p ∈ w.data, aget t.mem.l1 (copyKey w.cluster p.1) = some ⟨p.2, 1⟩) ∧
      (∀ tk, w.kind = .spad tk → s.ownBefore w = false → (s.team tk).resident = true →
        Gives (.writeAck ⟨id, 0⟩) s fun t => acked t ∧ t.mem = s.mem ∧
          (∀ p ∈ w.data, byteAt (t.team tk).spad p.1 = p.2) ∧
          ∀ k, k ∉ w.data.map (·.1) → byteAt (t.team tk).spad k = byteAt (s.team tk).spad k) ∧
      (w.kind = .home ∨ (∃ a, w.kind = .atom a) →
        (w.stage = 2 → Gives (.writeAck ⟨id, 0⟩) s fun t => acked t ∧ t.mem = s.mem) ∧
        (w.stage ≠ 2 → exec (.writeAck ⟨id, 0⟩) s = .next s) ∧
        ((∃ x ∈ w.sectors, s.regionHolds x = true) → exec (.homeWriteApply ⟨id, 0⟩) s = .next s ∧
          exec (.homeAtomicApply id) s = .next s)) ∧
      (w.kind = .home → s.mayPerform w = true → Gives (.homeWriteApply ⟨id, 0⟩) s fun t => performed t ∧
        (∀ p ∈ w.data, byteAt t.mem.home p.1 = p.2) ∧ HomeOutside s t fun k => k ∈ w.data.map (·.1)) ∧
      (∀ a key, w.kind = .atom a → a.wid = 4 ∨ a.wid = 8 → w.counted = true → s.mayPerform w = true →
        key % a.wid = 0 → key < 2 ^ 62 → w.data.map (·.1) = (List.range a.wid).map (key + ·) →
        s.ownBefore w = false →
        s.presence (fun x => x == lineOf key) = [] → s.unitPoisoned key = false →
        s.slotOfKey key = none → (∀ i < a.wid, s.isKeyByte (key + i) = false) →
        Gives (.homeAtomicApply id) s fun t => performed t ∧
          t.homeVal key a.wid = elementAfter a.op a.wid (s.homeVal key a.wid) a.b0 a.b1 ∧
          HomeOutside s t (fun k => key ≤ k ∧ k < key + a.wid) ∧
          ∀ f ∈ s.fills, ∀ ln, a.fill = some (f.id, ln) → ∃ f' ∈ t.fills, f'.id = f.id ∧
            ∀ i ∈ f'.items, i.lane = ln → i.got = some (bytesAt s.mem.home key a.wid, false)))

/-- R170, R171, R12, R37, R247: a packet that arrives in its turn on its path stands at its home's die, and a
second arrival of its number is discarded; a retransmission adds an arrival; a flush marker arrives behind what
its path carried before it; a handle walk ends with its page held by the cores that waited for it; a row's move
ends with the row at its new stack, its bytes unchanged, and not while a call runs against the row. -/
def Obligations.PacketsWalksAndMoves : Prop :=
  ∀ (s : State) (a b seq path die page tid slot stack : Nat),
    let n := BitVec.ofNat 32 seq
    let f := s.flow a b
    let row := tid * 2 ^ 42 + slot
    (∀ w k, s.writes.find? (·.isPacket a b seq) = some w → w.flow = some k →
      let turn := s.pathLive a b k.path = true ∧ s.pathBefore a b k.path k.sent = false
      (turn → Gives (.packetArrival a b seq) s fun t => t.mem = s.mem ∧
        t.writes = s.writes.map fun x => if x.id = w.id then { w with stage := 1 } else x) ∧
      (¬turn → exec (.packetArrival a b seq) s = .next s)) ∧
    (s.writes.any (·.isPacket a b seq) = false → n ∈ f.copies → Gives (.packetArrival a b seq) s fun t =>
      t.writes = s.writes ∧ t.mem = s.mem ∧ (t.flow a b).copies = f.copies.erase n) ∧
    (n.toNat = seq → n ≠ f.next → (f.next - n).toNat < 2 ^ 31 → Gives (.linkRetransmit a b seq) s fun t =>
      t.writes = s.writes ∧ t.mem = s.mem ∧ (t.flow a b).copies = n :: f.copies ∧
      (t.flow a b).next = f.next) ∧
    (∀ c, f.sent.find? (fun x => x.num == n && x.forPath == path) = some c → s.pathLive a b c.path = true →
      s.pathBefore a b c.path c.sent = false →
      Gives (.flushMarkerArrival a b seq path) s fun t => t.writes = s.writes ∧ t.mem = s.mem ∧
        (t.flow a b).markers = f.markers ++ [(n, path)] ∧ (t.flow a b).sent = f.sent.erase c) ∧
    (∀ w, ((s.mem.walks.filter fun w => w.die == die).take 64).find? (fun w => w.page == page) = some w →
      Gives (.handleWalkComplete die page) s fun t => (∀ c ∈ w.cores, (c, page) ∈ t.mem.tlb) ∧
        w ∉ t.mem.walks ∧ t.mem.home = s.mem.home) ∧
    ((s.table tid).usable tid = true → (s.table tid).live slot = true → (s.table tid).home = 0 →
      stack < 12 → s.stackLive stack = true → s.channelOf tid (slot * (s.table tid).rowSize) / 64 ≠ stack →
      aget s.mem.moving row = none → s.callOn row = false →
      (∀ x ∈ slotSectors (s.table tid) tid slot, s.regionHolds x = false) →
      s.redirects (s.firstStack tid slot) row < 16384 → Gives (.relocationStart tid slot stack) s fun t =>
        aget t.mem.moving row = some stack ∧ t.mem.home = s.mem.home ∧
        t.mem.reloc = s.mem.reloc) ∧
    (aget s.mem.moving row = some stack → s.callOn row = true →
      exec (.relocationFlip tid slot) s = .next s) ∧
    (aget s.mem.moving row = some stack → s.callOn row = false →
      s.redirects (s.firstStack tid slot) row < 16384 → Gives (.relocationFlip tid slot) s fun t =>
      aget t.mem.moving row = none ∧ t.mem.home = s.mem.home ∧
      ∀ pos, pos / (s.table tid).rowSize = slot →
        t.channelOf tid pos = s.chanEntry stack (pos / 2 ^ 16))

/-! ### Tables -/

/-- R196, R204, R205, R197, R199, R206, R207: `thdl` and `tinfo` write a handle or a property, `tscn` a fresh
cursor; lookups and cursor steps become producers; `tgath` enters a gather with its intervals. A table operand
that fails traps with the cause of R197. -/
def Obligations.TableReadingWords : Prop :=
  ∀ (s : State) (d a b c : Reg) (wa wb wc n dft acq dsc : Bool) (ty : Ty) (sel : Fin 11) (core : Fin 16)
      (cnt : Fin 512) (tid : Nat), s.acquiring = false → s.inRegion s.curG = false →
    let h := s.cur.gval s.curS a.val
    let l := s.curLaunch
    let t0 := s.table tid
    let act := s.lanesOn n
    (s.Accepts ⟨[sg a wa], [dg d], false⟩ →
      let gives (i : Instr) (x : W64) : Prop := Gives i s fun t => Wrote s t 0 [] [(d.val, x)] 8 0
      let off := field h 0 19
      let own (i : Instr) (t : Nat) : Prop := gives i (BitVec.ofNat 64
        (2 * 2 ^ 62 + (s.team t).core % 16 * 2 ^ 36 + (s.team t).gen.toNat * 2 ^ 20 + off))
      (2 ^ 20 ≤ h.toNat → Traps (.thdl d a wa .tab core) s .handleFault 0) ∧
      (h.toNat = tid → tid < 2 ^ 20 → t0.poisonDesc = false →
        (t0.usable tid = false → Traps (.thdl d a wa .tab core) s .tableAbsent 0) ∧
        (t0.usable tid = true → l.reads tid = false → l.writesTo tid = false →
          Traps (.thdl d a wa .tab core) s .access 0) ∧
        (t0.usable tid = true → l.reads tid = true ∨ l.writesTo tid = true →
          gives (.thdl d a wa .tab core) (BitVec.ofNat 64 (tid * 2 ^ 42)))) ∧
      (spaceOf h = 1 → field h 19 43 = 0 → off < l.spad →
        own (.thdl d a wa .self core) (teamOf s.curG) ∧
        (∀ t, s.teamOn (launchOfTeam (teamOf s.curG)) (s.curCluster * 16 + core.val) = some t →
          own (.thdl d a wa .peer core) t) ∧
        (s.teamOn (launchOfTeam (teamOf s.curG)) (s.curCluster * 16 + core.val) = none →
          Traps (.thdl d a wa .peer core) s .spadStale 0)) ∧
      (h.toNat = tid * 2 ^ 42 → tid < 2 ^ 20 → t0.poisonDesc = false →
        sel.val ≤ 7 ∨ sel.val = 10 ∨ t0.usable tid = true → gives (.tinfo d a wa sel)
          (if sel.val ≤ 5 then dwAt t0.dw sel.val
          else if sel.val ≤ 7 then 0
          else if sel.val = 8 then BitVec.ofNat 64 (s.indexStack tid)
          else if sel.val = 9 then BitVec.ofNat 64 (2 ^ (field (dwAt t0.dw 0) 52 4 + 4))
          else BitVec.ofNat 64 ((if l.reads tid then 1 else 0) + if l.writesTo tid then 2 else 0)))) ∧
    (s.Accepts ⟨[sg a wa, sgs b ty.keyUni wb], [dg d, dg c], false⟩ →
      let i := Instr.tgetU d a b c wa wb ty dft acq
      (s.OnTable h tid true false [0, 1, 2, 3] (some (tyWidth ty)) → Gives i s fun t =>
        Produced s t false (.tget d.val c.val tid dft t0.dw)
          [⟨0, .tab (tid * 2 ^ 42), 0, (List.range ty.keyUni).map fun j => s.cur.gval s.curS (b.val + j), none⟩]
          [(d.val, 1), (c.val, 1)] acq 8) ∧
      (spaceOf h ≠ 0 ∨ posOf h ≠ 0 → Traps i s .handleFault 0) ∧
      (h.toNat = tid * 2 ^ 42 → tid < 2 ^ 20 → t0.poisonDesc = false →
        (t0.usable tid = false → Traps i s .tableAbsent 0) ∧
        (t0.usable tid = true → l.reads tid = false → Traps i s .access 0) ∧
        (t0.usable tid = true → l.reads tid = true → tyWidth ty ≠ t0.keyBytes →
          Traps i s .keyType 0))) ∧
    (s.OnTable h tid true false [0, 1, 2, 3] (some (tyWidth ty)) →
      s.Accepts ⟨[sg a wa, svs b ty.keyRegs wb], [dvs d 2, dv c], true⟩ →
      (act = 0 → Gives (.tgetV d a b c wa wb n ty dft acq) s fun t => OnlyGroup s t ∧
        MovesOn s t 8 ((s.cur.unmarked d.val 2).unmarked c.val 1)) ∧
      (act ≠ 0 →
      Gives (.tgetV d a b c wa wb n ty dft acq) s fun t => ∃ items, Produced s t true
        (.tget d.val c.val tid dft t0.dw) items [(d.val, 2), (c.val, 1)] acq 8 ∧
        items.map (·.lane) = lanesOf act ∧ ∀ x ∈ items, x.got = none ∧
          wordsNat x.args = (List.range ty.keyRegs).foldl
            (fun y j => y + (s.cur.vval (b.val + j) x.lane).toNat * 2 ^ (32 * j)) 0)) ∧
    (s.OnTable h tid true false [0, 1, 3] (some (tyWidth ty)) → act ≠ 0 →
      s.Accepts ⟨[sg a wa, svs b ty.keyRegs wb, svs c ty.keyRegs wc], [dvs d (4 * ty.keyRegs)], true⟩ →
      let kr := ty.keyRegs
      let word (l j : Nat) : W32 :=
        if j / kr = 0 then BitVec.ofNat 32 ((tid + if dsc then 2 ^ 20 else 0) / 2 ^ (32 * (j % kr)))
        else if j / kr = 1 then s.cur.vval ((if dsc then c.val else b.val) + j % kr) l
        else if j / kr = 2 then s.cur.vval ((if dsc then b.val else c.val) + j % kr) l
        else 0
      Gives (.tscn d a b c wa wb wc n ty dsc) s fun t => Wrote s t act
        ((List.range (4 * kr)).map fun j => (d.val + j, fun l => word l j)) [] 8 0) ∧
    (act ≠ 0 → s.Accepts ⟨[svs a (4 * ty.keyRegs) wa], [dvs d 2, dv c, dvs a (4 * ty.keyRegs)], true⟩ →
      (∀ l < 96, act.getLsbD l = true →
        let e0 := s.cur.cursorElem a.val l ty.keyRegs 0
        let t1 := s.table (e0 % 2 ^ 20)
        e0 < 2 ^ 23 ∧ s.cur.cursorElem a.val l ty.keyRegs 3 < 2 ^ 32 ∧ t1.poisonDesc = false ∧
        t1.usable (e0 % 2 ^ 20) = true ∧ s.curLaunch.reads (e0 % 2 ^ 20) = true ∧ t1.kind ≠ 2 ∧
        tyWidth ty = t1.keyBytes ∧ t1.poisonIndex = false) →
      Gives (.tstp d a c wa n ty acq) s fun t => ∃ items, Produced s t true
        (.tstp d.val a.val c.val ty.keyRegs) items
        [(d.val, 2), (c.val, 1), (a.val, 4 * ty.keyRegs)] acq 8 ∧ items.map (·.lane) = lanesOf act) ∧
    (act = 0 → s.Accepts ⟨[svs a (4 * ty.keyRegs) wa], [dvs d 2, dv c, dvs a (4 * ty.keyRegs)], true⟩ →
      Gives (.tstp d a c wa n ty acq) s fun t => OnlyGroup s t ∧
        MovesOn s t 8 (((s.cur.unmarked d.val 2).unmarked c.val 1).unmarked a.val (4 * ty.keyRegs))) ∧
    (s.OnTable h tid true false [0, 1, 2, 3] (some (tyWidth ty)) →
      s.Accepts ⟨[sg a wa, sg b wb, sg c false], [], false⟩ →
      let hb := s.cur.gval s.curS b.val
      let hc := s.cur.gval s.curS c.val
      let k := cnt.val + 1
      let w := tyWidth ty
      let len := k * t0.rowSize + k
      let mine := s.score.filter fun x => x.core == s.coreOf s.curG
      spaceOf hb = 1 → field hb 19 43 = 0 → field hb 0 19 + k * w ≤ l.spad → field hb 0 19 % w = 0 →
      spaceOf hc = 1 → field hc 19 43 = 0 → field hc 0 19 % 32 = 0 → field hc 0 19 + len ≤ l.spad →
      (mine.length + 2 ≤ 96 → Gives (.tgath a b c wa wb ty cnt dft) s fun t => MovesOn s t 8 s.cur ∧
        (∃ g : Gather, t.gathers = s.gathers ++ [g] ∧ g.gid = s.curG ∧ g.batch = s.cur.copyBatch ∧ g.tid = tid ∧
          g.desc = t0.dw ∧ g.keys = none ∧ g.list = .spad (teamOf s.curG) (field hb 0 19) ∧ g.off = field hc 0 19 ∧ g.n = k ∧ g.ty = w ∧
          g.dft = dft ∧ t.score = s.score ++
            [⟨s.coreOf s.curG, teamOf s.curG, field hb 0 19 / 32 * 32,
              (field hb 0 19 + k * w + 31) / 32 * 32, false, g.id⟩,
             ⟨s.coreOf s.curG, teamOf s.curG, field hc 0 19 / 32 * 32,
              (field hc 0 19 + len + 31) / 32 * 32, true, g.id⟩]) ∧
        t.mem.home = s.mem.home ∧ t.mem.l1 = s.mem.l1 ∧ t.writes = s.writes ∧ t.teams = s.teams) ∧
      (96 < mine.length + 2 → Waits (.tgath a b c wa wb ty cnt dft) s))

/-- R200 to R203, R24, R25, R35, R36, R182, R188: `tins` enters a row in the slot at the head of the free list
with its image, `tdel` takes a row out and clears its bytes, `trep` replaces a row but for its key bytes; the
status says so, and a change that is refused changes nothing but the status. `tcom` commits and `trbk` deletes
the provisional rows of a tag up to or beyond a limit, one row in a step and in increasing key order, and
writes their count at the end. (The table belongs to no world here, so its bytes stand at the homes as they
are, and its handle is translated.) -/
def Obligations.TableChangeWords : Prop :=
  ∀ (s : State) (d a b : Reg) (wa wb n prov : Bool) (tag : BitVec 12) (ty : Ty) (tid ln : Nat),
    s.acquiring = false → s.inRegion s.curG = false → (∀ e ∈ s.mem.l1, e.2.st = 0) →
    (s.table tid).ownw = false → s.Translated (s.cur.gval s.curS a.val).toNat 1 →
    let h := s.cur.gval s.curS a.val
    let hb := s.cur.gval s.curS b.val
    let l := launchOfTeam (teamOf s.curG)
    let t0 := s.table tid
    let act := s.lanesOn n
    let key (x : Nat) : Int := keyInt t0.keyt x
    let row (slot : Nat) : Nat := tid * 2 ^ 42 + slot * t0.rowSize
    let inRow (slot k : Nat) : Prop := row slot ≤ k ∧ k < row slot + t0.rowSize
    let image (x : W64) (o : Nat) : Prop := spaceOf x = 1 ∧ field x 19 43 = 0 ∧ field x 0 19 = o ∧
      o + t0.rowSize ≤ s.curLaunch.spad ∧ o % 16 = 0 ∧
      s.imageBusy (.spad (teamOf s.curG) o) t0.rowSize = false ∧
      s.scored (teamOf s.curG) o (o + t0.rowSize) false = false ∧
      ∀ i < t0.rowSize, (o + i) / 32 ∉ s.curTeam.spadPoison
    let uni (st : W64) (t : State) : Prop := Reports s t 0 [] [(d.val, st)] 8
    let lane (st : W64) (t : State) : Prop := Reports s t act [(d.val, fun _ => lo32 st)] [] 8
    let same (t : State) : Prop := t.mem.home = s.mem.home ∧ t.tables = s.tables
    let keyed := s.OnTable h tid false true [1, 2, 3] (some (tyWidth ty))
    let deleted (slot : Nat) (u : Table) (t : State) : Prop := t.table tid = { u with
        rows := u.rows.filter fun r => r.slot != slot
        free := u.free ++ [(slot, slot + 1)] }.setCount (u.count - 1) ∧
      (∀ k, inRow slot k → byteAt t.mem.home k = 0) ∧ HomeOutside s t fun k => inRow slot (flatKey k)
    let start (com : Bool) (lim : Int) (i : Instr) : Prop :=
      (t0.provOk = true → exec i s = .next ((s.setTable tid
        { t0 with held := some ⟨2 * s.curG + (if s.curS then 1 else 0), com, tag.toNat, lim⟩ }).setStage 1)) ∧
      (t0.provOk = false → Gives i s fun t => uni 0 t ∧ same t)
    let stays (k : Nat) (t : State) : Prop := (t.cur.slot s.curS).stage = k ∧
      (t.cur.slot s.curS).path = (s.cur.slot s.curS).path ∧ t.cur.noSlots = s.cur.noSlots
    let inserts (i : Instr) (x : W64) (report : W64 → State → Prop) : Prop :=
      s.OnTable h tid false true [1, 2, 3] none → (prov = true → t0.provOk = true) → ∀ o, image x o →
        let img := bytesAt s.curTeam.spad o t0.rowSize
        let k := key (leNat (img.take t0.keyBytes))
        (t0.hasRow k = true → Gives i s fun t => report 4 t ∧ same t) ∧
        (t0.hasRow k = false → t0.count + 1 = t0.cap → Gives i s fun t => report 5 t ∧ same t) ∧
        (t0.hasRow k = false → t0.count + 1 ≠ t0.cap → ∀ slot rest, popFree t0.free = some (slot, rest) →
          slot < t0.slots → s.slotBusy tid slot = false → Gives i s fun t => report 0 t ∧
            t.table tid = { t0 with
              rows := ⟨k, slot, if prov then some (tag.toNat, l) else none⟩ :: t0.rows
              free := rest }.setCount (t0.count + 1) ∧
            bytesAt t.mem.home (row slot) t0.rowSize = img ∧ HomeOutside s t (inRow slot))
    let deletes (i : Instr) (x : Nat) (report : W64 → State → Prop) : Prop :=
      (∀ slot, s.Finds l t0 (key x) slot → slot < t0.slots → s.rowHeld tid slot = false →
        Gives i s fun t => report 0 t ∧ deleted slot t0 t) ∧
      (s.Misses l t0 (key x) → Gives i s fun t => report 2 t ∧ same t)
    let drafts (h : Held) (r : Row) : Prop := r ∈ t0.rows ∧ (∃ o, r.prov = some (h.tag, o)) ∧
      s.sees l r = true ∧ (if h.com then r.key ≤ h.limit else h.limit < r.key)
    let words := (List.range ty.keyUni).map fun j => s.cur.gval s.curS (b.val + j)
    (t0.held = none → s.Accepts ⟨[sg a wa, sg b wb], [dg d], false⟩ →
      inserts (.tinsU d a b wa wb tag prov) hb uni ∧
      (∀ slot o, h.toNat = row slot → slot < t0.slots → tid < 2 ^ 20 → row slot < 2 ^ 62 →
        t0.poisonDesc = false → t0.poisonIndex = false → t0.usable tid = true →
        s.curLaunch.writesTo tid = true → t0.replOk = true → image hb o →
        (t0.live slot = false → Gives (.trep d a b wa wb) s fun t =>
          Reports s t 0 [] [(d.val, 2)] 4 ∧ same t) ∧
        (t0.live slot = true → s.rowHeld tid slot = false → Gives (.trep d a b wa wb) s fun t =>
          Reports s t 0 [] [(d.val, 0)] 4 ∧ t.tables = s.tables ∧ HomeOutside s t (inRow slot) ∧
          let kb := if t0.hasKey slot then t0.keyImage slot else []
          ∀ i < t0.rowSize, byteAt t.mem.home (row slot + i) =
            if i < kb.length then kb.getD i 0 else byteAt s.curTeam.spad (o + i)))) ∧
    (t0.held = none → s.Accepts ⟨[sg a wa, svs b 2 wb], [dv d], true⟩ → lanesOf act = [ln] →
      inserts (.tinsV d a b wa wb n tag prov) (s.cur.vpair b.val ln) lane) ∧
    (t0.held = none → s.Accepts ⟨[sg a wa, svs b ty.keyRegs wb], [dv d], true⟩ → lanesOf act = [ln] → keyed →
      deletes (.tdelV d a b wa wb n ty) (wordsNat (s.cur.laneKey b.val ln ty.keyRegs)) lane) ∧
    (t0.held = none → (s.cur.slot s.curS).stage = 0 →
      s.Accepts ⟨[sg a wa, sgs b ty.keyUni wb], [dg d], false⟩ → keyed →
      (uniKey t0 words = none →
        Gives (.tdelU d a b wa wb ty) s (fun t => uni 3 t ∧ same t) ∧
        Gives (.tcom d a b wa wb ty tag) s (fun t => uni 3 t ∧ same t) ∧
        Gives (.trbk d a b wa wb ty tag) s fun t => uni 3 t ∧ same t) ∧
      ∀ x, uniKey t0 words = some x → deletes (.tdelU d a b wa wb ty) x uni ∧
        start true (key x) (.tcom d a b wa wb ty tag) ∧ start false (key x) (.trbk d a b wa wb ty tag)) ∧
    ∀ h k, t0.held = some h → h.who = 2 * s.curG + (if s.curS then 1 else 0) → tid < 2 ^ 20 →
      t0.usable tid = true → (s.cur.slot s.curS).stage = k + 1 →
      (s.tables.find? fun t => match t.2.held with
        | some y => y.who == s.who
        | none => false) = some (tid, t0) →
      let i : Instr := if h.com then .tcom d a b wa wb ty tag else .trbk d a b wa wb ty tag
      ((∀ r ∈ t0.rows, ¬drafts h r) → Gives i s fun t =>
        Reports s t 0 [] [(d.val, BitVec.ofNat 64 (min k (2 ^ 32 - 1) * 2 ^ 32))] 8 ∧
        t.mem.home = s.mem.home ∧ t.table tid = { t0 with held := none }) ∧
      ∀ r, drafts h r → (∀ x, drafts h x → r.key < x.key ∨ x = r) → r.slot < t0.slots →
        (h.com = true → Gives i s fun t => stays (k + 2) t ∧ t.mem.home = s.mem.home ∧
          t.table tid = { t0 with rows := t0.rows.map fun x =>
            if x.slot = r.slot then { x with prov := none } else x }) ∧
        (h.com = false → s.rowHeld tid r.slot = true → Waits i s) ∧
        (h.com = false → s.rowHeld tid r.slot = false → Gives i s fun t =>
          stays (k + 2) t ∧ deleted r.slot t0 t)

/-! ### The matrix unit -/

/-- R126, R129 to R132, R120, R124, R136: a matrix word is checked and queued in its group's open batch with
its latched FMT and held registers; `mmac` enters its arrival and waits; `mseal` seals the batch and writes its
number; `mwait` passes once few enough sealed batches are incomplete. -/
def Obligations.MatrixWords : Prop :=
  ∀ (s : State) (t a b d cnt : Reg) (wa wb : Bool) (num : BitVec 16), s.Live →
    let f := s.curPath.fmt
    let core := s.coreOf s.curG
    let h := s.cur.gval s.curS a.val
    let off := field h 0 19
    let tiles := if 72 ≤ s.curLaunch.rpl then 28 else 14
    let room := (s.mats.filter fun m => m.core == core && !m.started).length < 16
    let inRun (r : Nat) (x : Reg) (n : Nat) : Bool := decide (x.val ≤ r) && decide (r < x.val + n)
    let queued (u : State) (kind : MatKind) (held : Nat → Bool) : Prop :=
      MovesOn s u 4 s.cur ∧ u.mem = s.mem ∧ u.teams = s.teams ∧ ∃ m, u.mats = s.mats ++ [m] ∧
        m.gid = s.curG ∧ m.core = core ∧ m.batch = s.cur.matBatch ∧ m.kind = kind ∧ m.tile = t.val ∧
        m.ntiles = 1 ∧ m.fmt = f ∧ m.started = false ∧ ∀ r < 128, bitOn m.held r = held r
    let moves (i : Instr) (w : Bool) (kind : MatKind) : Prop :=
      s.Accepts ⟨[sg a wa], [], false⟩ → t.val < tiles → spaceOf h = 1 → field h 19 43 = 0 →
      off % 32 = 0 → off + 9216 ≤ s.curLaunch.spad → room →
      (s.score.filter fun x => x.core == core).length < 96 → Gives i s fun u =>
        queued u kind (fun _ => false) ∧ ∃ m ∈ u.mats, u.score = s.score ++
          [⟨core, teamOf s.curG, off, off + 9216, w, m.id⟩]
    let left := s.cur.matSealed.filter fun x => s.mats.any fun m => m.gid == s.curG && m.batch == x
    let conv := s.curPath.mask = allLanes ∧ s.cur.top s.curPath = allLanes
    let fa := f.toNat % 16
    let fb := f.toNat / 16 % 16
    let legal := (f.getLsbD 8 = false ∧ fa = 0 ∧ fb = 0) ∨ (f.getLsbD 8 = true ∧
      ((fa ∈ [11, 12, 13] ∧ fb ∈ [11, 12, 13]) ∨ (fa = 14 ∧ fb = 14) ∨ (fa ∈ [9, 10] ∧ fb ∈ [9, 10])))
    (t.val < tiles → (room → Gives (.mzero t) s fun u => queued u .zero fun _ => false) ∧
      (¬room → Waits (.mzero t) s)) ∧
    (tiles ≤ t.val → Traps (.mzero t) s .access 0) ∧
    moves (.mld t a wa) false (.ld off) ∧ moves (.mst t a wa) true (.st off) ∧
    (let na := if fa = 13 then 34 else if fa = 14 then 36 else 32
     let nb := if fb = 13 then 34 else if fb = 14 then 36 else 32
     s.Accepts ⟨[svs a na wa, svs b nb wb], [], true⟩ → t.val < tiles → a.val + na ≤ 128 → b.val + nb ≤ 128 →
      (¬conv → Traps (.mma t a b wa wb) s .illegalConvergence 0) ∧
      (conv → ¬legal → Traps (.mma t a b wa wb) s .illegalOpcode 0) ∧
      (conv → legal → room → Gives (.mma t a b wa wb) s fun u => queued u
        (.mma ((List.range na).map fun i => s.cur.vreg (a.val + i))
          ((List.range nb).map fun i => s.cur.vreg (b.val + i)))
        fun r => inRun r a na || inRun r b nb)) ∧
    (let na := if fa = 13 then 26 else if fa = 14 then 27 else 24
     let nb := if fb = 13 then 26 else if fb = 14 then 27 else 24
     let l := launchOfTeam (teamOf s.curG)
     let gang := s.curTeam.idx / 16
     s.Accepts ⟨[svs a na wa, svs b nb wb], [], true⟩ → t.val + 8 < tiles → a.val + na ≤ 128 →
      b.val + nb ≤ 128 → conv → legal → (∀ x ∈ s.arrivals, ¬(x.gid = s.curG ∧ x.slot1 = s.curS)) →
      (s.gangHere = false → Traps (.mmac t a b wa wb num) s .access 0) ∧
      (s.gangHere = true → room → (∀ x ∈ s.arrivals, x.core ≠ core) →
        Gives (.mmac t a b wa wb num) s fun u => HeldBack s u ∧ u.mats = s.mats ∧ u.teams = s.teams ∧
          u.arrivals = s.arrivals ++ [⟨l, gang, num.toNat, core, s.curG, s.curS, t.val, f, a.val, b.val⟩])) ∧
    (s.Accepts ⟨[], [dg d], false⟩ →
      (left.length < 128 → Gives (.mseal d) s fun u => ∃ s1,
        Wrote s s1 0 [] [(d.val, BitVec.ofNat 64 s.cur.matBatch)] 4 0 ∧
        u = s1.setGroup s.curG { s1.cur with
          matBatch := (s.cur.matBatch + 1) % 65536, matSealed := left ++ [s.cur.matBatch] }) ∧
      (128 ≤ left.length → Waits (.mseal d) s)) ∧
    (left.length ≤ cnt.val → exec (.mwait cnt) s = .next (s.next 4)) ∧
    (cnt.val < left.length → Waits (.mwait cnt) s)

/-- R124, R126, R128, R130, R136 to R138: an operation starts once nothing before it meets its tiles, with
its registers released; a tile move carries the image of R130 between tile and scratchpad, `mma` leaves its
product in its tile and `mmac` in nine, and no other tile or byte changes. Once all sixteen arrivals of a key
agree, each issues and holds its quarters until the network has read them; formats that differ trap
ILLEGAL_CONVERGENCE in all sixteen paths. The power alarm reaches a core. That the registers of `mma` are
released in the step of the start, where R124 gives two clocks, and that a tile is moved whole at completion
are the model's choices (log 60). -/
def Obligations.MatrixEvents : Prop :=
  ∀ (s : State) (id launch gang num core : Nat) (m : MatOp) (xs : List Arrival),
    let tk := teamOf m.gid
    let back (t : State) : State := { t with curG := s.curG, curS := s.curS }
    let reads := s.mats.any (s.unread launch gang)
    (reads = true → exec (.mmacRendezvous launch gang num) s = .next { s with
      mats := s.mats.map fun y => if s.unread launch gang y then { y with held := 0 } else y }) ∧
    (s.host.alarm = true → Gives (.matrixNarrow core) s fun t => (t.core core).alarm = true ∧
      (t.core core).narrow = (s.core core).narrow ∧ ∀ c, c ≠ core → t.core c = s.core c) ∧
    (s.mats.find? (fun x => x.id == id) = some m →
      (s.matReady m = true → Gives (.matrixOpStart id) s fun t =>
        (∃ x ∈ t.mats, x.id = id ∧ x.started = true ∧ x.held = 0 ∧ x.kind = m.kind ∧ x.tile = m.tile) ∧
        t.teams = s.teams ∧ (m.array = true → (t.core m.core).narrow = (s.core m.core).alarm)) ∧
      ((∃ x ∈ s.matsBefore m, x.meets m = true) → exec (.matrixOpStart id) s = .next s) ∧
      (m.started = true → (s.group m.gid).status ≠ .draining →
        (s.score.all fun e => e.op != id || scoreFree s.score e) = true →
        let done (t : State) (p : Nat → Prop) : Prop := t.mats = s.mats.filter (fun x => x.id != id) ∧
          t.score = s.score.filter (fun e => e.op != id) ∧ t.mem = s.mem ∧ t.groups = s.groups ∧
          (∀ n, ¬p n → ∀ r < 48, ∀ c < 48, (t.team tk).tileAt n r c = (s.team tk).tileAt n r c)
        (m.kind = .zero → Gives (.matrixOpComplete id) s fun t => done t (fun n => n = m.tile) ∧
          (∀ r < 48, ∀ c < 48, (t.team tk).tileAt m.tile r c = 0) ∧ m.tile ∉ (t.team tk).tilePoison ∧
          (t.team tk).spad = (s.team tk).spad) ∧
        (∀ off, m.kind = .ld off → Gives (.matrixOpComplete id) s fun t => done t (fun n => n = m.tile) ∧
          (∀ r < 48, ∀ c < 48, (t.team tk).tileAt m.tile r c =
            BitVec.ofNat 32 (leNat (bytesAt (s.team tk).spad (off + 4 * (48 * r + c)) 4))) ∧
          (t.team tk).spad = (s.team tk).spad) ∧
        (∀ off, m.kind = .st off → Gives (.matrixOpComplete id) s fun t => done t (fun _ => False) ∧
          (∀ r < 48, ∀ c < 48, BitVec.ofNat 32 (leNat (bytesAt (t.team tk).spad (off + 4 * (48 * r + c)) 4)) =
            (s.team tk).tileAt m.tile r c) ∧
          ∀ k, k < off ∨ off + 9216 ≤ k → byteAt (t.team tk).spad k = byteAt (s.team tk).spad k) ∧
        (∀ a b, m.kind = .mma a b → Gives (.matrixOpComplete id) s fun t =>
          done t (fun n => n = m.tile) ∧ (t.team tk).spad = (s.team tk).spad ∧
          ∀ r < 48, ∀ c < 48, (t.team tk).tileAt m.tile r c =
            ((s.team tk).product m.tile m.fmt a b).tileAt m.tile r c) ∧
        (∀ a b, m.kind = .mmac a b → Gives (.matrixOpComplete id) s fun t =>
          done t (fun n => m.tile ≤ n ∧ n < m.tile + 9) ∧ (t.team tk).spad = (s.team tk).spad ∧
          ∀ y < 9, ∀ r < 48, ∀ c < 48, (t.team tk).tileAt (m.tile + y) r c =
            ((s.team tk).quarterTile (m.tile + y) m.fmt a b (m.core % 16 / 4) (m.core % 4) (y / 3)
              (y % 3)).tileAt (m.tile + y) r c))) ∧
    (s.gathered launch gang num = some xs → reads = false → (xs.map (·.gid)).Nodup →
      (∀ x ∈ xs, (s.group x.gid).poisonV &&& x.held = 0 ∧ (s.group x.gid).emptyV &&& x.held = 0 ∧
        (s.mats.filter fun y => y.core == x.core && !y.started).length < 16) →
      ((∀ x ∈ xs, ∀ y ∈ xs, x.fmt.toNat % 512 = y.fmt.toNat % 512) →
        Gives (.mmacRendezvous launch gang num) s fun t => t.curG = s.curG ∧ t.curS = s.curS ∧
          ∀ x ∈ xs, x ∉ t.arrivals ∧
            ((t.group x.gid).slot x.slot1).path =
              (((s.group x.gid).slot x.slot1).path.map fun p => { p with pc := p.pc + 8 }) ∧
            ∃ q ∈ t.mats, q.gid = x.gid ∧ q.tile = x.tile ∧ q.ntiles = 9 ∧ q.held = x.held ∧
              q.batch = (s.group x.gid).matBatch ∧ q.started = false ∧
              q.kind = .mmac (xs.map fun y => (s.group y.gid).run y.ra (quarterRegs (fmtA y.fmt)))
                (xs.map fun y => (s.group y.gid).run y.rb (quarterRegs (fmtB y.fmt)))) ∧
      ((∃ x ∈ xs, ∃ y ∈ xs, x.fmt.toNat % 512 ≠ y.fmt.toNat % 512) →
        exec (.mmacRendezvous launch gang num) s = .next (back (xs.foldl (fun t x =>
          ({ t with curG := x.gid, curS := x.slot1, arrivals := t.arrivals.filter (· != x) } : State).takeTrap
            .illegalConvergence 0) s))))

/-- R88, R121, R122, R125, R126, R135, R137: the products of every format. INT8 adds to each tile element
the exact sum of the products of the signed bytes of row r of A and of column c of B, modulo 2^32. The other
formats add, in increasing K, the exact sum of each run of 32 products, rounded once with the accumulator in
FP32; NaNs and infinities go as R88 says. `mmac` takes the four quarters in order. -/
def Obligations.IntegerProductIsExact : Prop :=
  ∀ (t : Team) (n : Nat) (f : BitVec 14),
    let fa := f.toNat % 16
    let fb := f.toNat / 16 % 16
    let at' (x : List LaneVec) (i : Nat) : BitVec 8 :=
      (laneAt (x.getD (i / 384) []) (i % 384 / 4)).extractLsb' (8 * (i % 4)) 8
    let dot (a b : List LaneVec) (rb r c : Nat) : Int :=
      (List.range rb).foldl (fun x k => x + (at' a (rb * r + k)).toInt * (at' b (rb * c + k)).toInt) 0
    -- element k of row r of a fragment whose rows have rb bytes and whose exponents begin ex registers on
    let elem (fc : Nat) (x : List LaneVec) (rb ex r k : Nat) : FVal :=
      let byte := (at' x (rb * r + k)).toNat
      let pair := (at' x (rb * r + 2 * k)).toNat + 256 * (at' x (rb * r + 2 * k + 1)).toNat
      let nib := (at' x (rb * r + k / 2)).toNat / (if k % 2 = 0 then 1 else 16) % 16
      let expo (b i : Nat) : Nat := (at' (x.drop ex) (2 * b + i)).toNat
      let px (x4 : Bool) (b y : Nat) : FVal := pxValue x4 (expo b 0) (expo b 1) y
      if fc = 9 then fmt16.decode pair else if fc = 10 then fmtB16.decode pair
      else if fc = 11 then fmtE4.decode byte else if fc = 12 then fmtE5.decode byte
      else if fc = 13 then px false (rb / 32 * r + k / 32) byte else px true (rb / 16 * r + k / 32) nib
    let count (rb : Nat) : Nat := if fa = 14 then 2 * rb else if fa = 9 ∨ fa = 10 then rb / 2 else rb
    -- run j takes the accumulator from y to z
    let run (a b : List LaneVec) (rb ex r c j y z : Nat) : Prop :=
      let xs := fmt32.decode y :: (List.range 32).map fun i =>
        (elem fa a rb ex r (32 * j + i)).mul (elem fb b rb ex c (32 * j + i))
      let inf (neg : Bool) : Prop := .inf neg ∈ xs
      let nan : Prop := (xs.any FVal.isNan = true) ∨ (inf true ∧ inf false)
      (nan → z = 0x7FC00000) ∧ (¬nan → inf false → z = 0x7F800000) ∧ (¬nan → inf true → z = 0xFF800000) ∧
      (∀ ys : List (Bool × Nat × Int), xs = ys.map (fun u => .fin u.1 u.2.1 u.2.2) →
        ∃ fl, SumRounds fmt32 Mode.fixed ys (z, fl))
    (f.toNat % 512 = 0 → ∀ r < 48, ∀ c < 48,
      (∀ a b, (t.product n f a b).tileAt n r c = t.tileAt n r c + BitVec.ofInt 32 (dot a b 256 r c)) ∧
      ∀ (a b : List (List LaneVec)), ∀ i < 4, ∀ j < 4, ∀ u < 3, ∀ w < 3,
        (t.quarterTile n f a b i j u w).tileAt n r c = t.tileAt n r c + BitVec.ofInt 32
          ((List.range 4).foldl (fun x q =>
            x + dot (a.getD (4 * i + q) []) (b.getD (4 * q + j) []) 64 (48 * u + r) (48 * w + c)) 0)) ∧
    (f.getLsbD 8 = true → (fa ∈ [11, 12, 13] ∧ fb ∈ [11, 12, 13]) ∨ (fa = 14 ∧ fb = 14) ∨
      (fa ∈ [9, 10] ∧ fb ∈ [9, 10]) → ∀ r < 48, ∀ c < 48,
      (∀ a b, ∃ z : Nat → Nat, z 0 = (t.tileAt n r c).toNat ∧
        (t.product n f a b).tileAt n r c = BitVec.ofNat 32 (z (count 256 / 32)) ∧
        ∀ j < count 256 / 32, run a b 256 32 r c j (z j) (z (j + 1))) ∧
      ∀ (a b : List (List LaneVec)), ∀ i < 4, ∀ j < 4, ∀ u < 3, ∀ w < 3, ∃ z : Nat → Nat,
        let k := count 64 / 32
        z 0 = (t.tileAt n r c).toNat ∧
        (t.quarterTile n f a b i j u w).tileAt n r c = BitVec.ofNat 32 (z (4 * k)) ∧
        ∀ q < 4, ∀ h < k, run (a.getD (4 * i + q) []) (b.getD (4 * q + j) []) 64 24 (48 * u + r) (48 * w + c) h
          (z (k * q + h)) (z (k * q + h + 1)))

/-! ### Copies -/

/-- R208, R213, R176, R210: `xring` registers or removes a ring, with the consumer index as the notify word
holds it; `xseal` seals the open copy batch and writes its number; `xwait` passes once few enough sealed batches
are incomplete. A release store of 8 bytes to the notify word publishes: a producer index beyond the ring traps
QUEUE_FAULT; the entries up to it join the group's open batch in order, those that fail their checks with their
status and nothing registered; then the consumer index and the notify word hold it. R173: while the scoreboard lacks
entries for the next one the store stays at its word; that its slot keeps the index it has to publish is the model's
reading (log entry 39). The removal of a ring waits for a publication under way. -/
def Obligations.CopyWords : Prop :=
  ∀ (s : State) (a b d cnt : Reg) (wa wb : Bool) (count : Nat), s.inRegion s.curG = false →
    let x := s.cur.gval s.curS a.val
    let y := s.cur.gval s.curS b.val
    let base := field x 0 19
    let ntf := field y 0 19
    let ringSet (t : State) (r : Option Ring) : Prop := OnlyOwn s t ∧ MovesOn s t 8 s.cur ∧
      t.curTeam = { s.curTeam with ring := r }
    let left := s.cur.copySealed.filter fun n =>
      (s.copies.any fun c => c.gid == s.curG && c.batch == n) ||
        s.gathers.any fun g => g.gid == s.curG && g.batch == n
    (s.Accepts ⟨[sg a wa, sg b wb], [], false⟩ →
      (count = 0 → (s.publishing (teamOf s.curG) = false →
          Gives (.xring a b wa wb count) s fun t => ringSet t none) ∧
        (s.publishing (teamOf s.curG) = true → Waits (.xring a b wa wb count) s)) ∧
      (0 < count → spaceOf x = 1 → field x 19 43 = 0 → spaceOf y = 1 → field y 19 43 = 0 →
        base % 32 = 0 → ntf % 8 = 0 → base + 32 * count ≤ s.curLaunch.spad → ntf + 8 ≤ s.curLaunch.spad →
        (ntf < base + 32 * count ∧ base < ntf + 8 →
          Traps (.xring a b wa wb count) s .queueFault 0xFFFF) ∧
        (base + 32 * count ≤ ntf ∨ ntf + 8 ≤ base →
          s.scored (teamOf s.curG) ntf (ntf + 8) false = false → s.publishing (teamOf s.curG) = false →
          Gives (.xring a b wa wb count) s fun t => ringSet t
            (some ⟨base, count, ntf, BitVec.ofNat 64 (leNat (bytesAt s.curTeam.spad ntf 8))⟩)))) ∧
    (s.Accepts ⟨[], [dg d], false⟩ →
      (left.length < 128 → Gives (.xseal d) s fun u => ∃ s1,
        Wrote s s1 0 [] [(d.val, BitVec.ofNat 64 s.cur.copyBatch)] 4 0 ∧
        u = s1.setGroup s.curG { s1.cur with
          copyBatch := (s.cur.copyBatch + 1) % 65536, copySealed := left ++ [s.cur.copyBatch] }) ∧
      (128 ≤ left.length → Waits (.xseal d) s)) ∧
    (left.length ≤ cnt.val → exec (.xwait cnt) s = .next (s.next 4)) ∧
    (cnt.val < left.length → Waits (.xwait cnt) s) ∧
    (∀ (m : MemExt) (r : Ring), m.ord = .release → m.wid = .w8 → s.acquiring = false →
      s.Accepts ⟨[sg a wa, sg b wb], [], false⟩ → (s.cur.slot s.curS).pend = [] →
      s.publishing (teamOf s.curG) = false →
      s.released (m.obs.c || m.obs.x || m.obs.m || m.obs.p || m.obs.h) = true → s.curTeam.ring = some r →
      s.OwnSpad x m.off 8 r.notify → s.scored (teamOf s.curG) r.notify (r.notify + 8) true = false →
      let k := (y - r.cons).toNat
      let core := s.coreOf s.curG
      let entry (j : Nat) : List W64 := (List.range 4).map fun i => BitVec.ofNat 64 (leNat (bytesAt
        s.curTeam.spad (r.base + 32 * ((r.cons + BitVec.ofNat 64 j).toNat % r.count) + 8 * i) 8))
      let status (j : Nat) : Nat := s.ceStatus s.curLaunch (entry j)
      let e := entry 0
      let used := (s.score.filter fun z => z.core == core).length
      let interval (h : W64) (n : Nat) (w : Bool) : ScoreEntry := ⟨core, teamOf s.curG,
        field h 0 19 / 32 * 32, (field h 0 19 + n + 31) / 32 * 32, w, s.nextId⟩
      let went (t : State) : Prop :=
        { t.curTeam with spad := [] } = { s.curTeam with spad := [], ring := some { r with cons := y } } ∧
        leNat (bytesAt t.curTeam.spad r.notify 8) = y.toNat ∧
        ∀ i, i < r.notify ∨ r.notify + 8 ≤ i → byteAt t.curTeam.spad i = byteAt s.curTeam.spad i
      (r.count < k → Traps (.gst a b wa wb m) s .queueFault 0xFFFF) ∧
      (k ≤ r.count → (∀ j < k, status j ≠ 0) → Gives (.gst a b wa wb m) s fun t =>
        went t ∧ OnlyOwn s { t with copies := s.copies, nextId := s.nextId } ∧ MovesOn s t 8 s.cur ∧
        ∃ new : List CopyOp, t.copies = s.copies ++ new ∧
          new.map (fun z => (z.gid, z.batch, z.entry, z.status, z.done)) =
            (List.range k).map fun j => (s.curG, s.cur.copyBatch, entry j, status j, true)) ∧
      (k = 1 → 1 ≤ r.count → status 0 = 0 → used + 2 ≤ 96 →
        (spaceOf (ceDst e) = 1 → Gives (.gst a b wa wb m) s fun t => went t ∧ MovesOn s t 8 s.cur ∧
          t.mem.home = s.mem.home ∧
          t.score = s.score ++ (if spaceOf (ceSrc e) = 1 then [interval (ceSrc e) (ceSrcLen e) false] else []) ++
            [interval (ceDst e) (ceDstLen e) true] ∧
          t.copies = s.copies ++
            [⟨s.nextId, s.curG, s.cur.copyBatch, e, 0, none, [], [], false, none, []⟩]) ∧
        (spaceOf (ceDst e) = 2 → ceMc e = false → Gives (.gst a b wa wb m) s fun t => went t ∧
          MovesOn s t 8 s.cur ∧ t.copies = s.copies ++ [⟨s.nextId, s.curG, s.cur.copyBatch, e, 0, none, [],
            [(s.curCluster * 16 + field (ceDst e) 36 4, BitVec.ofNat 16 (field (ceDst e) 20 16))], false, none,
            []⟩]) ∧
        (spaceOf (ceDst e) = 0 →
          let lines := (List.range (((ceDst e).toNat % 256 + ceDstLen e + 255) / 256)).map fun i =>
            (ceDst e).toNat / 256 + i
          (∀ z ∈ lines, s.lineBusy z = false) → Gives (.gst a b wa wb m) s fun t =>
            t.copies = s.copies ++
              [⟨s.nextId, s.curG, s.cur.copyBatch, e, 0, none, lines, [], false, none, []⟩])) ∧
      (k = 1 → 1 ≤ r.count → status 0 = 0 → spaceOf (ceDst e) = 1 → 96 ≤ used →
        Gives (.gst a b wa wb m) s fun t => HeldBack s t ∧ t.copies = s.copies ∧ t.score = s.score ∧
          t.curTeam = s.curTeam ∧ (t.cur.slot s.curS).pend = [y] ∧ (t.cur.slot s.curS).stage = 1))

/-- R173, R174, R179, R180, R207, R212, R314: an entry's scratchpad interval is read or written when its
scoreboard entry retires, a destination line is applied whole at the home, a delivery lands where the
generation still stands and is discarded otherwise, the status word ends the entry. A gather reads its key list
when its R entry retires and lands its rows and statuses. The transfers of a copy with a host page issue through
the translation cache or are held, complete in their order, and are held where their range is invalidated; the
completion of an invalidation waits for those that have issued. A refused transfer ends its entry, but for a read of
which some transfers have issued: what they have read is still written. That an engine reads a side, makes a delivery
or lands a gather in one step is the model's choice (log 60), as is what moves a host page, which no ring entry
of the spec names (log 56). -/
def Obligations.EngineEvents : Prop :=
  ∀ (s : State) (id core line lo hi fn base : Nat) (c : CopyOp),
    let within (h : HostXfer) (from' upto : Nat) : Prop := h.fn = fn ∧ from' < hi ∧ lo < upto
    let waits (x : CopyOp) (h : HostXfer) : Prop := x.host = some h ∧ h.back < h.sent.length ∧
      within h (h.addr + 256 * h.back) (h.addr + 256 * h.sent.length)
    (Gives (.atsInvalidation fn lo hi) s fun t =>
      t.host.ats = s.host.ats.filter (fun e => !(e.fn == fn && decide (e.lo < hi) && decide (lo < e.hi))) ∧
      t.mem = s.mem ∧ t.copies.map (·.id) = s.copies.map (·.id) ∧
      (∀ x ∈ t.copies, ∀ h, x.host = some h →
        within h (h.addr + 256 * h.sent.length)
          (h.addr + 256 * h.sent.length + min 256 (h.len - 256 * h.sent.length)) → h.held = true) ∧
      ((∀ x ∈ s.copies, ∀ h, ¬waits x h) → t.host.invals = s.host.invals ∧
        t.host.invalDone = s.host.invalDone ++ [(fn, lo, hi)]) ∧
      ∀ x ∈ s.copies, ∀ h, waits x h → t.host.invalDone = s.host.invalDone ∧
        ∃ v, t.host.invals = s.host.invals ++ [v] ∧ v.fn = fn ∧ v.lo = lo ∧ v.hi = hi ∧
          (x.id, h.sent.length) ∈ v.waits) ∧
    (∀ g : Gather, s.gathers.find? (fun x => x.id == id) = some g → (s.gathers.map (·.id)).Nodup →
      (s.score.all fun e => e.op != id || scoreFree s.score e) = true → s.orderHeld g.tid = false →
      s.walking (s.coreOf g.gid) (g.tid * 2 ^ 42) = false → g.keys = none → g.desc = (s.table g.tid).dw →
      g.tid < 2 ^ 20 → (∀ k, s.channelShut k = false) → (s.table g.tid).ownw = false →
      (s.group g.gid).status ≠ .draining → (s.table g.tid).poisonDesc = false →
      (s.table g.tid).poisonIndex = false → ∀ off, g.list = .spad (teamOf g.gid) off → g.ty ≤ 16 →
      (∀ i < g.n * g.ty, (off + i) / 32 ∉ (s.team (teamOf g.gid)).spadPoison) →
      let tb := s.table g.tid
      let tk := teamOf g.gid
      let word (j : Nat) : Nat := leNat (bytesAt (s.team tk).spad (off + j * g.ty) g.ty)
      let key (j : Nat) : Int := keyInt tb.keyt (word j)
      let lands (t : State) (j slot st : Nat) : Prop :=
        bytesAt (t.team tk).spad (g.off + j * tb.rowSize) tb.rowSize =
          bytesAt s.mem.home (g.tid * 2 ^ 42 + slot * tb.rowSize) tb.rowSize ∧
        (byteAt (t.team tk).spad (g.off + g.n * tb.rowSize + j)).toNat = st
      (∀ e, s.scoreOf id false = some e → e.core = core → (∀ x ∈ s.copies, x.id ≠ id) →
        Gives (.scoreboardEntryRetire core id false) s fun t => t.teams = s.teams ∧ t.mem = s.mem ∧
          t.score = s.score.filter (fun x => !(x.op == id && x.w == false)) ∧
          ∃ x ∈ t.gathers, x.id = id ∧ x.keys = some ((List.range g.n).map fun j => (word j, false))) ∧
      Gives (.gatherComplete id) s fun t => t.gathers.map (·.id) = (s.gathers.map (·.id)).filter (· != id) ∧
        t.score = s.score.filter (fun e => e.op != id) ∧ t.mem = s.mem ∧
        (∀ k, k < g.off ∨ g.off + g.n * tb.rowSize + g.n ≤ k →
          byteAt (t.team tk).spad k = byteAt (s.team tk).spad k) ∧
        ∀ j < g.n,
          (∀ slot, s.Finds (launchOfTeam tk) tb (key j) slot → tb.usable g.tid = true → slot < tb.slots →
            (∀ i < tb.rowSize, s.unitPoisoned (g.tid * 2 ^ 42 + slot * tb.rowSize + i) = false) →
            lands t j slot 0) ∧
          (s.Misses (launchOfTeam tk) tb (key j) → g.dft = false →
            (∀ i < tb.rowSize, byteAt (t.team tk).spad (g.off + j * tb.rowSize + i) = 0) ∧
            (byteAt (t.team tk).spad (g.off + g.n * tb.rowSize + j)).toNat = 2)) ∧
    (s.copies.find? (fun x => x.id == id) = some c → (s.copies.map (·.id)).Nodup →
      let tk := teamOf c.gid
      let dst := ceOff (ceDst c.entry)
      (∀ h, c.host = some h →
        let next := h.addr + 256 * h.sent.length
        let size := min 256 (h.len - 256 * h.sent.length)
        let now (t : State) (h' : HostXfer) : Prop := ∃ x ∈ t.copies, x.id = id ∧ x.host = some h'
        (h.held = true → (Gives (.atsTranslationResponse id (some base)) s fun t =>
            t.host.ats.head? = some ⟨h.fn, next, h.addr + h.len, base⟩ ∧ now t { h with held := false }) ∧
          (h.write = true ∨ h.sent = [] → Gives (.atsTranslationResponse id none) s fun t =>
            t.score = s.score.filter (fun e => e.op != id) ∧
            ∃ x ∈ t.copies, x.id = id ∧ x.done = true ∧ x.status = max c.status 14 ∧ x.lines = [] ∧
              x.targets = []) ∧
          (h.write = false → h.sent ≠ [] → Gives (.atsTranslationResponse id none) s fun t =>
            t.score = s.score ∧ t.mem = s.mem ∧ t.teams = s.teams ∧
            ∃ x ∈ t.copies, x.id = id ∧ x.done = c.done ∧ x.status = max c.status 14 ∧ x.lines = c.lines ∧
              x.targets = c.targets ∧ x.host = some { h with len := 256 * h.sent.length, held := false } ∧
              (h.back = h.sent.length → ceOp c.entry = 0 → c.got.length ≤ ceLen c.entry →
                x.data = some (c.got.map fun y => (y, false))) ∧
              (h.back ≠ h.sent.length → x.data = c.data))) ∧
        (h.held = false → h.sent.length < (h.len + 255) / 256 → c.done = false →
          (h.write = true → c.data.isSome = true) →
          (∀ a, s.host.translate h.fn next size = some a → Gives (.engineLineApply ⟨id, 1⟩) s fun t =>
            t.teams = s.teams ∧ t.mem = s.mem ∧ now t { h with sent := h.sent ++ [a] }) ∧
          (s.host.translate h.fn next size = none → Gives (.engineLineApply ⟨id, 1⟩) s fun t =>
            t.teams = s.teams ∧ t.mem = s.mem ∧ now t { h with held := true })) ∧
        ∀ a, h.sent[h.back]? = some a →
          let part := min 256 (h.len - 256 * h.back)
          (h.write = false → Gives (.engineLineApply ⟨id, 2⟩) s fun t => t.host.mem = s.host.mem ∧
            t.mem = s.mem ∧ t.teams = s.teams ∧ ∃ x ∈ t.copies, x.id = id ∧
              x.host = some { h with back := h.back + 1 } ∧ x.got = c.got ++ bytesAt s.host.mem a part) ∧
          (h.write = true → ∀ data, c.data = some data → data.length = h.len →
            Gives (.engineLineApply ⟨id, 2⟩) s fun t => t.mem = s.mem ∧ t.teams = s.teams ∧
              now t { h with back := h.back + 1 } ∧
              (∀ i < part, byteAt t.host.mem (a + i) = (data.getD (256 * h.back + i) (0, false)).1) ∧
              ∀ k, k < a ∨ a + part ≤ k → byteAt t.host.mem k = byteAt s.host.mem k)) ∧
      (c.done = false → c.host = none →
        (∀ e, s.scoreOf id false = some e → e.core = core → scoreFree s.score e = true →
          spaceOf (ceSrc c.entry) = 1 → ceOp c.entry = 0 →
          Gives (.scoreboardEntryRetire core id false) s fun t => t.teams = s.teams ∧ t.mem = s.mem ∧
            t.score = s.score.filter (fun x => !(x.op == id && x.w == false)) ∧
            ∃ x ∈ t.copies, x.id = id ∧ x.data = some ((List.range (ceLen c.entry)).map fun i =>
              (byteAt (s.team tk).spad (ceOff (ceSrc c.entry) + i),
                (s.team tk).spadPoison.contains ((ceOff (ceSrc c.entry) + i) / 32)))) ∧
        ∀ data, c.data = some data →
          (∀ e, s.scoreOf id true = some e → e.core = core → scoreFree s.score e = true →
            Gives (.scoreboardEntryRetire core id true) s fun t => t.mem = s.mem ∧
              t.score = s.score.filter (fun x => !(x.op == id && x.w == true)) ∧
              (∀ i < data.length, byteAt (t.team tk).spad (dst + i) = (data.getD i (0, false)).1) ∧
              ∀ k, k < dst ∨ dst + data.length ≤ k →
                byteAt (t.team tk).spad k = byteAt (s.team tk).spad k) ∧
          (line ∈ c.lines → c.lines.head? = some line →
            (∀ x ∈ s.copies, x.id < id → line ∉ x.lines) → s.channelShut (256 * line) = false →
            s.walkingAny (s.coreOf c.gid) (cePages c.entry) = false →
            (∀ i < data.length, s.slotOfKey ((ceDst c.entry).toNat + i) = none) →
            (∀ i < 4, s.regionHolds (4 * line + i) = false) → Gives (.engineLineApply ⟨id, 0⟩) s fun t =>
              (∀ i < data.length, ((ceDst c.entry).toNat + i) / 256 = line →
                byteAt t.mem.home ((ceDst c.entry).toNat + i) = (data.getD i (0, false)).1) ∧
              HomeOutside s t (fun k => k / 256 = line ∧ (ceDst c.entry).toNat ≤ k ∧
                k < (ceDst c.entry).toNat + data.length) ∧
              ∃ x ∈ t.copies, x.id = id ∧ line ∉ x.lines) ∧
          ∀ gen, c.targets.find? (fun t => t.1 == core) = some (core, gen) →
            (s.residentGen core gen = none → Gives (.spadDeliveryArrival id core) s fun t =>
              t.teams = s.teams ∧ t.mem = s.mem ∧
              ∃ x ∈ t.copies, x.id = id ∧ x.status = max c.status 7 ∧ (core, gen) ∉ x.targets) ∧
            ∀ tg, s.residentGen core gen = some tg → launchOfTeam tg = launchOfTeam tk →
              dst + data.length ≤ (s.launch (launchOfTeam tg)).spad →
              Gives (.spadDeliveryArrival id core) s fun t =>
                (∀ i < data.length, byteAt (t.team tg).spad (dst + i) = (data.getD i (0, false)).1) ∧
                (∀ k, k < dst ∨ dst + data.length ≤ k →
                  byteAt (t.team tg).spad k = byteAt (s.team tg).spad k) ∧
                ∃ x ∈ t.copies, x.id = id ∧ x.status = c.status ∧ (core, gen) ∉ x.targets) ∧
      ((∀ h, c.host = some h → h.back = h.sent.length ∧ (c.done = true ∨ h.back = (h.len + 255) / 256)) →
        c.done = true ∨ (c.lines = [] ∧ c.targets = [] ∧ ∀ e ∈ s.score, e.op ≠ id) →
        (s.group c.gid).status ≠ .draining → Gives (.copyEntryComplete id) s fun t =>
          t.copies = s.copies.filter (fun x => x.id != id) ∧ t.mem = s.mem ∧
          let o := ceSoff c.entry
          if ceSts c.entry = true ∧ o % 4 = 0 ∧ o + 4 ≤ (s.launchOf c.gid).spad then
            leNat (bytesAt (t.team tk).spad o 4) = (c.batch % 65536 * 65536 + c.status) % 2 ^ 32 ∧
            ∀ k, k < o ∨ o + 4 ≤ k → byteAt (t.team tk).spad k = byteAt (s.team tk).spad k
          else t.teams = s.teams))

/-! ### Remote calls and broadcast mode -/

/-- R237, R240 to R245, R248: a remote call whose entry and target pass empties its reply group and ships
each active lane's target, payload and sequence number to its executor, a bank where bit 0 of the entry is
set and a service context otherwise; a bad entry traps with HANDLE_FAULT, and a group with 256 calls
outstanding waits. A call starts at the present home of its row, once no call is before it and a context is
free, with the registers of R242; one on a row that moves, or with an unusable target, ends with its code. A
running function performs a word at a time: a register word, a column read at its row's present home (R247), its
return with v15 and STAT 0, or a fault with its word and code. The start at the row's present home, one word a step
and the wait for the rotation's core are the model's choice (log entry 26), and so is that a poisoned word ends with
POISON (log entry 70) and that a word of v15 that is poisoned when the function returns poisons the reply register
that takes it (log entry 80). The reply fills the status and the values and marks the group where the call has T
and STAT is 1; a call over its limit fills STAT 2 and zeros, and its late reply is discarded. -/
def Obligations.RemoteCalls : Prop :=
  ∀ (s : State) (d a b c : Reg) (wa wb wc n may trp : Bool) (nr np : Nat),
    let g := s.cur
    let entry := g.gval s.curS c.val
    let launch := launchOfTeam (teamOf s.curG)
    let goodEntry := spaceOf entry = 0 ∧ tidOf entry = s.curLaunch.codeTable ∧ flag entry 1 = false
    let sent (key : Nat) (lane : Nat) (uniform : Bool) (x : Call) : Prop :=
      x.gid = s.curG ∧ x.launch = launch ∧ x.lane = lane ∧ x.target = key ∧
      x.entry = (entry &&& ~~~3).toNat ∧ x.nr = nr ∧ x.uniform = uniform ∧ x.reply = none ∧
      x.live = true ∧ x.fill = s.nextId ∧
      x.exec = (if flag entry 0 = true ∧ (s.table (tidOfKey key)).ownw = false then
        .bank (s.channelOf (tidOfKey key) (posOfKey key)) (bankOf (posOfKey key))
        else .service (dieOfChannel (s.channelOf (tidOfKey key) (posOfKey key)))) ∧
      (x.inline = true → may = true) ∧
      x.limit = if x.inline then none else some (s.now + g.rcto.toNat)
    let ready (keys : List Nat) : Prop := s.acquiring = false ∧ s.countHeld = false ∧ s.released true = true ∧
      s.softPending s.curG (fun x => (keys.flatMap s.targetSectors).contains x) = false ∧
      s.dirtySectors s.curCluster (fun x => (keys.flatMap s.targetSectors).contains x) = []
    s.inRegion s.curG = false →
    (let i := Instr.rcall d a b c wa wb wc may trp nr np
     let h := g.gval s.curS a.val
     i.wf = true → s.Accepts ⟨[sg a wa, sgs b np wb, sg c wc], [dgs d (nr + 1)], false⟩ →
      (¬goodEntry → Traps i s .handleFault 0) ∧
      (goodEntry → spaceOf h ≠ 0 → Traps i s .handleFault 0) ∧
      (goodEntry → s.InTable h 0 1 h.toNat true false → 256 ≤ s.outstanding s.curG → Waits i s) ∧
      (goodEntry → s.InTable h 0 1 h.toNat true false → s.outstanding s.curG < 256 →
        ready [h.toNat] → Gives i s fun t =>
          Produced s t false (.call d.val nr trp) [⟨0, .tab h.toNat, 0, [], none⟩] [(d.val, nr + 1)] false 8 ∧
          t.cur.callSeq = g.callSeq + 1 ∧ t.cur.pch = s.channelOf (tidOf h) (posOf h) ∧
          ∃ x, t.calls = s.calls ++ [x] ∧ sent h.toNat 0 true x ∧ x.seq = g.callSeq ∧
            x.inline = (may && decide (t.cur.busy < s.curLaunch.rct)) ∧
            x.g = ((List.range np).map fun j => g.gval s.curS (b.val + j)) ∧
            x.words = (List.range np).flatMap fun j =>
              [(g.gval s.curS (b.val + j)).setWidth 32, (g.gval s.curS (b.val + j) >>> 32).setWidth 32])) ∧
    (let i := Instr.rcallv d a b c wa wb wc n may trp nr np
     let act := s.lanesOn n
     i.wf = true → s.Accepts ⟨[svs a 2 wa, svs b np wb, sg c wc], [dvs d (nr + 1)], true⟩ →
      (act = 0 → Gives i s fun t => OnlyGroup s t ∧ MovesOn s t 8 (g.unmarked d.val (nr + 1))) ∧
      (act ≠ 0 → ¬goodEntry → Traps i s .handleFault 0) ∧
      (act ≠ 0 → goodEntry → ready ((lanesOf act).map fun l => (g.vpair a.val l).toNat) →
        s.outstanding s.curG + (lanesOf act).length ≤ 256 →
        (∀ l < 96, act.getLsbD l = true → s.InTable (g.vpair a.val l) 0 1 (g.vpair a.val l).toNat true false) →
        Gives i s fun t =>
          Produced s t true (.call d.val nr trp)
            ((lanesOf act).map fun l => ⟨l, .tab (g.vpair a.val l).toNat, 0, [], none⟩)
            [(d.val, nr + 1)] false 8 ∧
          ∃ xs, t.calls = s.calls ++ xs ∧ xs.map (·.lane) = lanesOf act ∧
            (xs.map (·.seq) = (List.range xs.length).map fun j => g.callSeq + BitVec.ofNat 16 j) ∧
            ∀ x ∈ xs, sent (g.vpair a.val x.lane).toNat x.lane false x ∧ x.g = [] ∧
              x.words = (List.range np).map fun j => g.vval (b.val + j) x.lane)) ∧
    ∀ (id : Nat) (x : Call), s.calls.find? (fun y => y.id == id) = some x →
      let tid := tidOfKey x.target
      let replies (ws : List W32) (st : W32) (bad : BitVec 8) (t : State) : Prop :=
        t.mem.home = s.mem.home ∧ t.groups = s.groups ∧
        ∃ y, t.calls.find? (fun z => z.id == id) = some y ∧ y.reply = some (ws, st) ∧ y.bad = bad
      let ch := s.channelOf tid (posOfKey x.target)
      let ends (ws : List W32) (pc code : Nat) : Prop := Gives (.rcallExecute id) s
        (replies ws (BitVec.ofNat 32 (pc * 65536 + code * 256 + (if code = 0 then 0 else 1))) 0)
      let begins (core : Option Nat) : Prop := Gives (.rcallExecute id) s fun t =>
        t.mem = s.mem ∧ t.groups = s.groups ∧ (∀ k, core = some k → x.inline = false →
          aget t.rotate (k / 160) = some ((k + 1) % 160)) ∧
        ∃ y, t.calls.find? (fun z => z.id == id) = some y ∧ y.reply = none ∧ ∃ r, y.run = some r ∧
          r.core = core ∧ r.pc = 0 ∧ r.words = s.callWords x.entry ∧ r.unit.stack = [] ∧
          (∀ q < 16, r.unit.pois.getD q 0 = 0) ∧ (∀ q < 8, dwAt r.unit.g q = dwAt x.g q) ∧
          ∀ l < 8, r.unit.lane 0 l = BitVec.ofNat 32 x.target ∧
            r.unit.lane 1 l = BitVec.ofNat 32 (x.target % 2 ^ 64 / 2 ^ 32) ∧
            r.unit.lane 2 l = x.words.getD l 0 ∧ r.unit.lane 3 l = x.words.getD (8 + l) 0 ∧
            ∀ q < 16, 4 ≤ q → r.unit.lane q l = 0
      (x.live = true → x.reply = none → x.run = none → s.walking (s.coreOf x.gid) x.target = false →
        s.channelShut x.target = false →
        (∀ y ∈ s.calls, y.id ≠ id → y.reply = none → y.run = none ∧ ¬(y.gid = x.gid ∧ y.id < id)) →
        let moving := (aget s.mem.moving (tid * 2 ^ 42 + posOfKey x.target / (s.table tid).rowSize)).isSome
        (∀ k bk, x.exec = .bank k bk → x.inline = false → ((s.table tid).usable tid = false → ends [] 0 9) ∧
          ((s.table tid).usable tid = true → moving = true → ends [] 0 8) ∧
          ((s.table tid).usable tid = true → moving = false → begins none)) ∧
        (∀ die, x.exec = .service die → x.inline = false → ∀ k, s.serviceCore (dieOfChannel ch) x.ten = some k →
          s.serving k = false → (s.table tid).usable tid = true → begins (some k)) ∧
        (x.inline = true → s.serving (s.coreOf x.gid) = false → (s.table tid).usable tid = true →
          moving = false → begins (some (s.coreOf x.gid)))) ∧
      (∀ r, x.live = true → x.reply = none → x.run = some r →
        (∀ k, r.core = some k → ∀ p ∈ s.spent, p.1 ≠ k) →
        (256 ≤ r.pc → ends [] r.pc 10) ∧
        (r.pc < 255 → (r.words.getD r.pc (some 0) = none → ends [] r.pc 6) ∧
          (r.words.getD r.pc (some 0) = some 0x05000000 →
            Gives (.rcallExecute id) s (replies (r.unit.v.getD 15 []) 0 (r.unit.pois.getD 15 0))) ∧
          ∀ w z : W32, r.words.getD r.pc (some 0) = some w → r.words.getD (r.pc + 1) (some 0) = some z →
            let is (i : Instr) : Prop := decodeWords w.toNat z.toNat = .ok i
            let on (n : Bool) (l : Nat) : Prop := n = true ∨ r.unit.top.getLsbD l = true
            let goes (len : Nat) (d : Reg) (n : Bool) (v : Nat → W32) : Prop :=
              Gives (.rcallExecute id) s fun t => t.mem = s.mem ∧ t.groups = s.groups ∧
                ∃ y, t.calls.find? (fun c => c.id == id) = some y ∧ y.reply = none ∧ ∃ r', y.run = some r' ∧
                  r'.pc = r.pc + len ∧ r'.core = r.core ∧ r'.words = r.words ∧ r'.unit.g = r.unit.g ∧
                  r'.unit.stack = r.unit.stack ∧
                  (∀ l < 8, (on n l → r'.unit.lane d.val l = v l) ∧
                    (¬on n l → r'.unit.lane d.val l = r.unit.lane d.val l)) ∧
                  ∀ q, q ≠ d.val → ∀ l, r'.unit.lane q l = r.unit.lane q l
            r.unit.v.length = 16 →
            (∀ e, decodeWords w.toNat z.toNat = .error e → ends [] r.pc 1) ∧
            (∀ (d : Reg) n imm, is (.ili d n imm) → w.toNat / 2 ^ 24 = 0x9F → d.val < 16 →
              goes 2 d n fun _ => imm) ∧
            (∀ (d a b : Reg) n, is (.iaddI32 d a b false false n) → w.toNat / 2 ^ 24 = 0x80 → d.val < 16 →
              a.val < 16 → b.val < 24 → (∀ q < 16, r.unit.pois.getD q 0 = 0) →
              goes 1 d n fun l => r.unit.lane a.val l +
                (if b.val < 16 then r.unit.lane b.val l else (dwAt r.unit.g (b.val - 16)).setWidth 32)) ∧
            ∀ (d a : Reg) n (m : MemExt), is (.ld d a false n false m) → w.toNat / 2 ^ 24 = 0xC1 →
              d.val < 16 → a.val < 16 → m.wid = .w4 → m.ord = .relaxed → m.hint = .normal →
              m.obs = ⟨false, false, false, false, false⟩ → r.unit.active n ≠ 0 →
              (∀ q < 16, r.unit.pois.getD q 0 = 0) →
              let now : Call := { x with exec := match x.exec with
                | .bank .. => .bank ch (bankOf (posOfKey x.target))
                | .service _ => .service (dieOfChannel ch) }
              (∀ e, s.callColumn now r.unit a m.off (r.unit.active n) false = .error e → ends [] r.pc e.code) ∧
              ∀ k, s.callColumn now r.unit a m.off (r.unit.active n) false = .ok k → s.channelShut k = false →
                (∀ j < 32, s.slotOfKey (k + j) = none) →
                goes 2 d n fun l => BitVec.ofNat 32 (s.homeVal (k + 4 * l) 4))) ∧
      ∀ f, s.fills.find? (fun y => y.id == x.fill) = some f → (aget s.groups f.gid).isSome = true →
        (s.group f.gid).status ≠ .draining → ∀ r tp, f.kind = .call r x.nr tp →
        let gone (t : State) : Prop := t.fills = s.fills.filter (fun y => y.id != x.fill) ∧
          t.mem.home = s.mem.home ∧
          (∀ q < 128, bitOn f.dstV q = true → bitOn (t.group f.gid).emptyV q = false) ∧
          ∀ q < 136, bitOn f.dstG q = true → bitOn (t.group f.gid).emptyG q = false
        let reads (q : Nat) (v : W64) (t : State) : Prop := (t.group f.gid).gval f.slot1 q = v
        (x.live = true → x.lane = 0 → x.uniform = true → f.lane = false → f.items.map (·.lane) = [0] →
          (∀ j ≤ x.nr, ¬isMask (r + j)) →
          (∀ ws st, x.reply = some (ws, st) → Gives (.rcallReply id) s fun t => gone t ∧
            t.calls = s.calls.filter (fun y => y.id != id) ∧
            reads r (BitVec.ofNat 64 (x.seq.toNat * 2 ^ 48 + st.toNat)) t ∧
            (∀ j < x.nr, reads (r + 1 + j) (ws.getD (2 * j + 1) 0 ++ ws.getD (2 * j) 0) t ∧
              (x.bad.getLsbD (2 * j) = true ∨ x.bad.getLsbD (2 * j + 1) = true → r + 1 + j < 128 →
                bitOn (t.group f.gid).poisonG (gBit f.slot1 (r + 1 + j)) = true)) ∧
            (if tp = true ∧ st.toNat % 256 = 1 then (⟨false, r, x.nr⟩ : Mark) ∈ (t.group f.gid).marks
              else ∀ m ∈ (t.group f.gid).marks, m.lane = false → m.d ≠ r)) ∧
          (∀ lim, x.limit = some lim →
            (lim ≤ s.now → Gives (.rcallTimeout id) s fun t => gone t ∧
              reads r (BitVec.ofNat 64 (x.seq.toNat * 2 ^ 48 + 2)) t ∧
              (∀ j < x.nr, reads (r + 1 + j) 0 t) ∧
              ∃ y, t.calls.find? (fun z => z.id == id) = some y ∧ y.live = false) ∧
            (s.now < lim → exec (.rcallTimeout id) s = .next s))) ∧
        (x.live = true → x.uniform = false → f.lane = true → x.lane < 96 →
          ∀ ws st, x.reply = some (ws, st) →
          (f.items.map (·.lane) = [x.lane] → Gives (.rcallReply id) s fun t => gone t ∧
            (t.group f.gid).vval r x.lane = st ∧
            ∀ j < x.nr, (t.group f.gid).vval (r + 1 + j) x.lane = ws.getD j 0 ∧
              (x.bad.getLsbD j = true → r + 1 + j < 128 → bitOn (t.group f.gid).poisonV (r + 1 + j) = true)) ∧
          ((∃ i ∈ f.items, i.lane ≠ x.lane ∧ i.got = none) → Gives (.rcallReply id) s fun t =>
            t.groups = s.groups ∧ t.calls = s.calls.filter fun y => y.id != id)) ∧
        (x.live = false → x.reply.isSome = true → Gives (.rcallReply id) s fun t =>
          t.groups = s.groups ∧ t.fills = s.fills ∧ t.mem = s.mem ∧
          t.calls = s.calls.filter fun y => y.id != id)

/-- R253 to R256: `chmode` arms, enters and leaves broadcast mode in a privileged launch; `aphl` queues a
sweep; a sweep's word runs in the sixteen banks of its channel against the banks' own columns, and the next
word or column follows; an activation alert is counted for the launch, and a second one within 2^20 cycles
halves the step rate. That the Aphids' registers stand at zero at the entry (log 5), and that each column begins
with an empty mask stack (log 45), are the model's choices. -/
def Obligations.BroadcastWords : Prop :=
  ∀ (s : State) (d a b : Reg) (wa wb n : Bool) (imm : W32) (m : MemExt), s.Live →
    (s.curLaunch.priv = false → Traps (.aphl a b wa wb) s .priv 0 ∧
      ∀ md, Traps (.chmode a b wa wb md) s .priv 0) ∧
    (s.curLaunch.priv = true → s.inRegion s.curG = false →
      let x := (s.cur.gval s.curS a.val).toNat
      let c := s.channel x
      let me := launchOfTeam (teamOf s.curG)
      let good := x < 768 ∧ c.retired = false ∧ s.curLaunch.names x = true
      let armed := (s.cur.slot s.curS).stage ≠ 0 ∨ ∃ y ∈ s.cur.arms, y.1 = x ∧ s.now ≤ y.2 + 64
      (s.Accepts ⟨[sg a wa, sg b wb], [], false⟩ →
        let i := Instr.chmode a b wa wb .arm
        (¬good → Traps i s .access 0) ∧
        (good → s.cur.gval s.curS b.val ≠ c.key → Traps i s .access 0) ∧
        (good → s.cur.gval s.curS b.val = c.key → Gives i s fun t => OnlyGroup s t ∧
          MovesOn s t 8 { s.cur with arms := (x, s.now) :: s.cur.arms.filter fun y => y.1 != x })) ∧
      (s.Accepts ⟨[sg a wa], [], false⟩ →
        let go := Instr.chmode a b wa wb .go
        let off := Instr.chmode a b wa wb .off
        (¬good → Traps go s .access 0 ∧ Traps off s .access 0) ∧
        (good → ¬armed → Traps go s .access 0) ∧
        (good → armed → c.holder = none → s.channelBusy x = false → Gives go s fun t =>
          MovesOn s t 8 s.cur ∧ t.mem = s.mem ∧ (∀ y, y ≠ x → t.channel y = s.channel y) ∧
          t.channel x = { c with holder := some me, sweeps := [], half := false, alertAt := none } ∧
          ∀ k < 16, aget t.aphids (16 * x + k) = some Aphid.zero) ∧
        (good → armed → c.holder ≠ some me → c.holder.isSome = true ∨ s.channelBusy x = true →
          exec go s = .next (s.setStage 1).holdBack) ∧
        (good → c.holder ≠ some me → Traps off s .access 0) ∧
        (good → c.holder = some me → c.sweeps ≠ [] → Waits off s) ∧
        (good → c.holder = some me → c.sweeps = [] → Gives off s fun t => MovesOn s t 8 s.cur ∧
          t.mem = s.mem ∧ (t.channel x).holder = none ∧ (t.channel x).sweeps = [] ∧
          (t.channel x).half = false ∧ ∀ y, y ≠ x → t.channel y = s.channel y)) ∧
      (s.Accepts ⟨[sg a wa, sg b wb], [], false⟩ →
        let i := Instr.aphl a b wa wb
        let h := s.cur.gval s.curS b.val
        let o := field h 0 19
        let b0 := bytesAt s.curTeam.spad o 80
        let nw := field (dwOf b0 0) 0 9
        let len := 80 + 4 * nw
        let col := field (dwOf b0 1) 0 32
        let ncol := field (dwOf b0 0) 32 32
        let words := (List.range nw).map fun j => wOf (bytesAt s.curTeam.spad o len) (80 + 4 * j)
        let span := 128 * (s.portion (s.curLaunch.bcast.getD (0, 0, 0)).1 x).length
        (x < 768 → c.holder ≠ some me → Traps i s .access 0) ∧
        (x < 768 → c.holder = some me → spaceOf h = 1 → field h 19 43 = 0 → o % 8 = 0 →
          o + 1104 ≤ s.curLaunch.spad → s.acquiring = false →
          s.imageBusy (.spad (teamOf s.curG) o) 80 = false →
          s.imageBusy (.spad (teamOf s.curG) o) len = false →
          s.imageScored (.spad (teamOf s.curG) o) 80 = false →
          s.imageScored (.spad (teamOf s.curG) o) len = false →
          (∀ j < len, (o + j) / 32 ∉ s.curTeam.spadPoison) →
          (1 ≤ nw ∧ nw ≤ 256 → field (dwOf b0 0) 9 23 = 0 → 1 ≤ ncol → col + ncol ≤ span →
            programOk words 257 0 0 = true → Gives i s fun t => MovesOn s t 4 s.cur ∧ t.mem = s.mem ∧
              t.teams = s.teams ∧ t.channel x = { c with
                sweeps := c.sweeps ++ [⟨ncol, col, (List.range 8).map fun j => dwOf b0 (2 + j), words, 0⟩] }) ∧
          (nw = 0 ∨ 256 < nw ∨ ncol = 0 ∨ span < col + ncol ∨ field (dwOf b0 0) 9 23 ≠ 0 ∨
              programOk words 257 0 0 = false → Traps i s .illegalOpcode 0)))) ∧
    (∀ ch l, (s.channel ch).holder = some l → Gives (.activationAlert ch) s fun t =>
      (t.launch l).alerts = (s.launch l).alerts + 1 ∧ t.mem = s.mem ∧ t.groups = s.groups ∧
      ((t.channel ch).half = true ↔ (s.channel ch).half = true ∨
        ∃ x, (s.channel ch).alertAt = some x ∧ s.now < x + 2 ^ 20) ∧
      (t.channel ch).alertAt = some ((s.channel ch).alertAt.getD s.now)) ∧
    ∀ (ch l : Nat) (sw : Sweep) (rest : List Sweep),
      (s.channel ch).holder = some l → (s.channel ch).sweeps = sw :: rest →
      let tid := ((s.launch l).bcast.getD (0, 0, 0)).1
      let us := s.portion tid ch
      let at' (k : Nat) : Nat := tid * 2 ^ 42 + us.getD (sw.col / 128) 0 * 65536 +
        (sw.col / 64 % 2 * 16 + k) * 2048 + 32 * (sw.col % 64)
      let unit (t : State) (k : Nat) : Aphid := (aget t.aphids (16 * ch + k)).getD Aphid.zero
      let on (k j : Nat) : Prop := n = true ∨ sw.w = 0 ∨ (unit s k).top.getLsbD j = true
      let word (i : Instr) : Prop := decodeWords (sw.words.getD sw.w 0).toNat
        (sw.words.getD (sw.w + 1) 0).toNat = .ok i
      let goesOn (t : State) (len : Nat) : Prop := t.groups = s.groups ∧
        (t.channel ch).sweeps = (if sw.w + len < sw.words.length then { sw with w := sw.w + len } :: rest
          else if 1 < sw.ncol then { sw with w := 0, col := sw.col + 1, ncol := sw.ncol - 1 } :: rest
          else rest)
      let lanes (t : State) (f : Nat → Nat → W32) : Prop := ∀ k < 16, ∀ j < 8,
        (on k j → (unit t k).lane d.val j = f k j) ∧ (¬on k j → (unit t k).lane d.val j = (unit s k).lane d.val j)
      (∀ k < 16, (unit s k).v.length = 16) → d.val < 16 →
      tid < 2 ^ 20 →
      (∀ k < 16, ∀ j < 32, s.slotOfKey (at' k + j) = none) →
      (word (.ili d n imm) → (sw.words.getD sw.w 0).toNat / 2 ^ 24 = 0x9F →
        Gives (.aphidSweepStep ch) s fun t => goesOn t 2 ∧ t.mem = s.mem ∧ lanes t fun _ _ => imm) ∧
      (word (.ld d a wa n false m) → (sw.words.getD sw.w 0).toNat / 2 ^ 24 = 0xC1 →
        Gives (.aphidSweepStep ch) s fun t => goesOn t 2 ∧ t.mem = s.mem ∧
          lanes t fun k j => BitVec.ofNat 32 (s.homeVal (at' k + 4 * j) 4)) ∧
      (word (.st a d wa wb n m) → (sw.words.getD sw.w 0).toNat / 2 ^ 24 = 0xC2 →
        (∀ k < 16, s.regionHolds (sectorOf (at' k)) = false) → Gives (.aphidSweepStep ch) s fun t => goesOn t 2 ∧
          (∀ k < 16, ∀ j < 8, on k j → t.homeVal (at' k + 4 * j) 4 = ((unit s k).lane d.val j).toNat) ∧
          HomeOutside s t fun key => ∃ k < 16, ∃ j < 8, on k j ∧ at' k + 4 * j ≤ key ∧
            key < at' k + 4 * j + 4)

/-! ### Child launches and the end of a stay -/

/-- R295, R296, R330, R158: `lnch` from group 0 of a launch at depth below 10 stamps DEPTH and PARENT into
the record, and its register will fill with the child's number, or with the code of R261 at bit 56; `lwt`
goes on once its child has ended; `yieldp` clears the group's registers and paths, keeps its split stack,
and the team leaves with its last live group, its scratchpad gone and its barriers, queues and ring kept. -/
def Obligations.ChildLaunchWords : Prop :=
  ∀ (s : State) (d a : Reg) (wa : Bool), s.inRegion s.curG = false →
    let h := s.cur.gval s.curS a.val
    let tm := teamOf s.curG
    let me := launchOfTeam tm
    let t0 := s.table (tidOf h)
    let running := s.curTeam.children.filter fun c => (s.launch c).phase != .ended
    (s.Accepts ⟨[sg a wa], [dg d], false⟩ →
      let i := Instr.lnch d a wa
      (groupIdx s.curG ≠ 0 → Traps i s .access 0) ∧
      (groupIdx s.curG = 0 → 10 ≤ s.curLaunch.depth → Traps i s .launchDepth 0) ∧
      (groupIdx s.curG = 0 → s.curLaunch.depth < 10 →
        (spaceOf h ≠ 0 → Traps i s .handleFault 0) ∧
        (s.InTable h 0 1 h.toNat true true → t0.dense = false → Traps i s .handleFault 0) ∧
        (s.InTable h 0 1 h.toNat true true → t0.dense = true → posOf h % 128 ≠ 0 → Traps i s .align 0) ∧
        (s.InTable h 0 1 h.toNat true true → t0.dense = true → posOf h % 128 = 0 → 128 ≤ t0.rowSize →
          (64 ≤ running.length → Waits i s) ∧
          (running.length < 64 → s.acquiring = false → s.countHeld = false → t0.ownw = false →
            s.softPending s.curG (recordSectors h) = false →
            s.dirtySectors s.curCluster (recordSectors h) = [] → s.released true = true →
            s.sectorsHeld s.curCluster [h.toNat / 64, h.toNat / 64 + 1] = false →
            Gives i s fun t => ∃ u v code, Produced u t false (.lnch d.val v) [] [(d.val, 1)] false 4 ∧
              u.groups = s.groups ∧ u.curG = s.curG ∧ u.curS = s.curS ∧ u.mem.l1 = s.mem.l1 ∧
              u.fills = s.fills ∧ code ≤ 9 ∧
              (HomeOutside s u fun k => h.toNat + 88 ≤ k ∧ k < h.toNat + 96) ∧
              (let w := dwOf (bytesAt u.mem.home (h.toNat + 88) 8) 0
               field w 0 32 = me % 2 ^ 32 ∧ field w 32 4 = s.curLaunch.depth + 1 ∧
                field w 36 28 = field (dwOf (bytesAt s.mem.home (h.toNat + 88) 8) 0) 36 28) ∧
              (code ≠ 0 → v = BitVec.ofNat 64 (code * 2 ^ 56) ∧ u.launches = s.launches ∧
                u.teams = s.teams) ∧
              (code = 0 → v = BitVec.ofNat 64 s.dist.nextLaunch ∧
                (u.team tm).children = s.curTeam.children ++ [s.dist.nextLaunch] ∧
                let x := u.launch s.dist.nextLaunch
                x.phase = .accepted ∧ x.parent = some tm ∧ x.depth = s.curLaunch.depth + 1 ∧
                x.ten = s.curLaunch.ten ∧ x.root = s.curLaunch.root ∧
                x.record = u.homeWords h 128 ∧ max x.prio s.curLaunch.eff = x.eff))))) ∧
    (s.Accepts ⟨[sg a wa], [], false⟩ →
      let id := h.toNat % 2 ^ 32
      let i := Instr.lwt a wa
      (id = 0 → exec i s = .next (s.next 4)) ∧
      (id ≠ 0 → (∀ c ∈ s.curTeam.children, c % 2 ^ 32 ≠ id) → Traps i s .access 0) ∧
      (id ≠ 0 → ∀ c ∈ s.curTeam.children, c % 2 ^ 32 = id →
        (∀ c' ∈ s.curTeam.children, c' % 2 ^ 32 = id → c' = c) →
        ((s.launch c).phase = .ended → exec i s = .next (s.next 4)) ∧
        ((s.launch c).phase ≠ .ended → Waits i s))) ∧
    (s.cur.preLive = false → Traps .yieldp s .access 0) ∧
    (s.cur.preLive = true → s.engineQuiet s.curG = false → Waits .yieldp s) ∧
    (s.cur.preLive = true → s.engineQuiet s.curG = true → (s.cur.slot s.curS).stage ≠ 1 →
      s.countHeld = false → s.softPending s.curG (s.yieldSectors s.curG) = false →
      s.dirtySectors s.curCluster (s.yieldSectors s.curG) = [] → s.released true = true →
      groupIdx s.curG < s.curTeam.groups → s.curTeam.resident = true → s.curTeam.retired = false →
      Gives .yieldp s fun t =>
        t.cur.status = .yielded ∧ t.cur.v = [] ∧ t.cur.g = [] ∧ t.cur.s0.path = none ∧
        t.cur.s1.path = none ∧ t.cur.stack = s.cur.stack ∧ t.cur.fpst = s.cur.fpst ∧
        t.cur.window = s.cur.window ∧ t.cur.preLive = true ∧ t.mem = s.mem ∧
        (∀ x, x ≠ s.curG → t.group x = s.group x) ∧
        let others := ∀ j < s.curTeam.groups, j ≠ groupIdx s.curG →
          (s.group (16 * tm + j)).status = .ended ∨ (s.group (16 * tm + j)).status = .yielded
        (others → t.curTeam.resident = false ∧ t.curTeam.spad = [] ∧ t.curTeam.tiles = [] ∧
          t.curTeam.bars = s.curTeam.bars ∧ t.curTeam.queues = s.curTeam.queues ∧
          t.curTeam.ring = s.curTeam.ring) ∧
        (¬others → t.teams = s.teams))

/-! ### Launches -/

/-- R16, R261 to R267, R304, R335, R368: how a host reference is taken or refused, which accepted launch
is dispatched and the step it enters, what unsealing, route loading, a missing probe and stable rails lead
to, when a launch ends, and the completion record that its queue receives. That connected dies answer their
probes at the load, so that the launch goes straight on (log 46), the count of records that the host has
not consumed (log 53), and that a launch with provisional rows which cannot be deleted yet ends once they can
(log 49) are the model's choices. -/
def Obligations.LaunchEvents : Prop :=
  ∀ (s : State) (q l : Nat),
    let x0 := s.launch l
    let after (i : Instr) (p : Launch → Prop) : Prop := Gives i s fun t => p (t.launch l)
    let stays (i : Instr) : Prop := exec i s = .next s
    let ends (i : Instr) (st : Nat) : Prop := after i fun y => y.phase = .ended ∧ y.status = st
    (∀ x ten, aget s.host.queues q = some x → x.ten = some ten →
      let h := dwOf (bytesAt s.host.mem (x.sqbase.toNat + 8 * x.sqhead.toNat) 8) 0
      let rcd := s.homeWords h 128
      let new : Launch := { Launch.absent with record := rcd, ten := ten, queue := some (q, x.taken) }
      let n := s.dist.nextLaunch
      let queued (t : State) (p : HQueue → Prop) : Prop := ∃ y, aget t.host.queues q = some y ∧ p y ∧
        y.sqhead = (if x.sqhead = x.sqn then 0 else x.sqhead + 1) ∧ y.taken = x.taken + 1 ∧
        y.cqtail = x.cqtail
      let may := s.served ten = true ∧ x.en = true ∧ x.sqhead ≠ x.sqtail ∧
        ∀ p, x.prev = some p → if flag (dwAt rcd 1) 62 = true then (s.launch p).phase = .ended
          else (s.launch p).phase ≠ .accepted
      let code := s.recordCheck new (!s.refOk ten h)
      (¬may → stays (.launchReferenceTake q)) ∧
      (may → code ≠ 0 → Gives (.launchReferenceTake q) s fun t => t.launches = s.launches ∧
        queued t fun y => y.refused = x.refused + 1 ∧ y.refpos = x.sqhead ∧
          y.refcode = BitVec.ofNat 8 code ∧ y.open_ = x.open_) ∧
      (may → code = 0 → Gives (.launchReferenceTake q) s fun t =>
        (queued t fun y => y.open_ = x.open_ ++ [n] ∧ y.prev = some n ∧ y.refused = x.refused) ∧
        (∀ m, m ≠ n → t.launch m = s.launch m) ∧
        let y := t.launch n
        y.phase = .accepted ∧ y.record = rcd ∧ y.ten = ten ∧ y.eff = y.prio ∧ y.root = n ∧
        y.parent = none ∧ y.accNo = s.dist.accepted ∧ y.priv = flag (dwAt rcd 1) 63)) ∧
    ((∃ m ∈ s.launches, s.inDispatch m.2 = true) → stays .launchDispatch) ∧
    (∀ o, (∀ m ∈ s.launches, s.inDispatch m.2 = false) → l ∈ s.dispatchable →
      s.dispatchOrigin x0 = some o →
      (∀ m ∈ s.dispatchable, m = l ∨ (s.launch m).eff < x0.eff ∨
        ((s.launch m).eff = x0.eff ∧ x0.accNo < (s.launch m).accNo)) →
      let ds := rectDies o.1 o.2 x0.width x0.height
      let at' (p : LPhase) : Prop := after .launchDispatch fun y =>
        y.phase = p ∧ y.col0 = o.1 ∧ y.row0 = o.2 ∧ y.dispNo = s.dist.dispatched
      (x0.key ≠ 0 → at' .key) ∧
      (x0.key = 0 → x0.parent = none → 2 ≤ ds.length → at' .route) ∧
      (x0.key = 0 → (x0.parent ≠ none ∨ ds.length < 2) → x0.layout = 0 →
        ((∃ d ∈ ds, (s.die d).oph < x0.oph) → at' .rails) ∧
        ((∀ d ∈ ds, x0.oph ≤ (s.die d).oph) → at' .placing ∧
          after .launchDispatch fun y => y.leftNo = s.dist.left))) ∧
    (x0.phase = .key →
      (s.unseal x0 = none → ends (.keyUnseal l) 1) ∧
      ∀ slot kid pair, s.unseal x0 = some (slot, kid, pair) →
        let takes (k : KeySlot) : Prop := Gives (.keyUnseal l) s fun t =>
          (t.launch l).slot = some slot ∧ (t.launch l).phase ≠ .key ∧
          (x0.layout = 0 → aget t.stag.slots slot = some k)
        let loaded : KeySlot := ⟨x0.ten, kid, 1, BitVec.ofNat 512 (leOf pair),
          BitVec.ofNat 256 (leOf (integrityKey pair))⟩
        (aget s.stag.slots slot = none → takes loaded) ∧
        ∀ k, aget s.stag.slots slot = some k → (k.count = 0 → takes loaded) ∧
          (k.count ≠ 0 → k.ten = x0.ten → k.kid = kid → takes { k with count := k.count + 1 }) ∧
          (k.count ≠ 0 → ¬(k.ten = x0.ten ∧ k.kid = kid) → stays (.keyUnseal l))) ∧
    (x0.phase = .route →
      ((∃ d ∈ x0.dies, 16 ≤ (s.die d).routes.length) → ∀ c, stays (.routeLoad l c)) ∧
      ((∀ d ∈ x0.dies, (s.die d).routes.length < 16) → ends (.routeLoad l false) 2 ∧
        (s.connected x0.dies = false → after (.routeLoad l true) fun y => y.phase = .probing ∧
          y.probeAt = s.now) ∧
        (s.connected x0.dies = true → x0.layout = 0 → x0.dies.Nodup →
          (∀ d ∈ x0.dies, x0.oph ≤ (s.die d).oph) → Gives (.routeLoad l true) s fun t =>
            (t.launch l).phase = .placing ∧
            ∀ d, (t.die d).routes = (s.die d).routes ++ if d ∈ x0.dies then [l] else []))) ∧
    (x0.phase = .probing →
      (x0.probeAt + 2 ^ 16 ≤ s.now → ends (.routeProbeTimeout l) 2) ∧
      (s.now < x0.probeAt + 2 ^ 16 → stays (.routeProbeTimeout l))) ∧
    (x0.phase = .rails → Gives (.railsStable l) s fun t => (t.launch l).phase = .placing ∧
      (t.launch l).leftNo = s.dist.left ∧ t.dist.left = s.dist.left + 1 ∧
      ∀ d, (t.die d).oph = if d ∈ x0.dies then max (s.die d).oph x0.oph else (s.die d).oph) ∧
    (x0.phase = .placing →
      (x0.retiredTeams ≠ x0.teams → stays (.launchRetire l)) ∧
      (x0.retiredTeams = x0.teams → s.draftsOf l = [] → s.heldChannels l = [] → ends (.launchRetire l) 0)) ∧
    (x0.phase = .ending → (s.draftsFree l = true → ends (.launchRetire l) x0.status) ∧
      (s.draftsFree l = false → stays (.launchRetire l))) ∧
    ∀ x n rest, aget s.host.queues q = some x → x.open_ = n :: rest →
      let y0 := s.launch n
      let base := x.cqbase.toNat + 32 * x.cqtail.toNat
      (x.en = false ∨ y0.phase ≠ .ended ∨ x.cqn.toNat < x.unread → stays (.completionRecordWrite q)) ∧
      (x.en = true → y0.phase = .ended → x.unread ≤ x.cqn.toNat → y0.status < 256 →
        y0.childStatus < 256 →
        Gives (.completionRecordWrite q) s fun t =>
          let w (i : Nat) : W64 := dwOf (bytesAt t.host.mem base 32) i
          (∀ k, k < base ∨ base + 32 ≤ k → byteAt t.host.mem k = byteAt s.host.mem k) ∧
          w 0 = BitVec.ofNat 64 (n * 2 ^ 32 + (y0.queue.getD (q, 0)).2 % 2 ^ 32) ∧
          field (w 1) 56 8 = y0.status ∧ field (w 1) 48 8 = y0.childStatus ∧
          field (w 1) 32 16 = min y0.alerts 65535 ∧ flag (w 1) 0 = y0.stopped ∧
          w 2 = (if y0.status = 5 ∧ y0.stopped = false then BitVec.ofNat 64 (y0.unit % 2 ^ 16) else 0) ∧
          w 3 = (if x.phase then 1 else 0) ∧
          ∃ z, aget t.host.queues q = some z ∧ z.open_ = rest ∧ z.unread = x.unread + 1 ∧
            z.cqtail = (if x.cqtail = x.cqn then 0 else x.cqtail + 1) ∧
            (z.phase = if z.cqtail = 0 then !x.phase else x.phase) ∧
            z.msix = x.msix + if x.ien then 1 else 0)

/-! ### Placement and pre-emption -/

/-- R268, R269, R10, R57, R278, R28: the best waiting launch's next single team goes to the first core in
order that has room, and starts there with its groups at CODE, all lanes active and registers zero; a gang
starts whole, its members at the places of one scope of its shape; the best launch becomes the candidate;
effective priority rises by one each 2^20 cycles, to at most PRIO + 2. Which places a half-placed gang holds
while it waits is the model's choice (log 47). -/
def Obligations.PlacementEvents : Prop :=
  ∀ (s : State) (l : Nat),
    let x := s.launch l
    (∀ rest cs1 c cs2, s.waiting = l :: rest → s.dist.cand = some l → s.outTeams l = [] →
      x.nextTeam < x.teams → x.gang = 0 → x.gshape = 0 →
      let key := teamKey l x.nextTeam
      aget s.teams key = none → s.windowsFree l 1 = true → s.unitLeaving l [key] = false →
      x.dies.flatMap coresOfDie = cs1 ++ c :: cs2 → (∀ y ∈ cs1, s.coreFits x [] y = false) →
      s.coreFits x [] c = true → Gives .teamPlace s fun t =>
        (t.team key).resident = true ∧ (t.team key).core = c ∧ (t.team key).idx = x.nextTeam ∧
        (t.team key).spad = [] ∧ (t.team key).tiles = [] ∧ (t.core c).gen = (t.team key).gen ∧
        ((t.team key).gen = (s.core c).gen + 1 ∨ (t.team key).gen = (s.core c).gen + 2) ∧
        (t.launch l).nextTeam = x.nextTeam + 1 ∧ t.mem = s.mem ∧
        (∀ i < x.groups, ∃ w, w ∉ s.windowsOf l ∧
          t.group (16 * key + i) = { Group.start x.code with window := some w }) ∧
        ∀ gid, gid / 16 ≠ key → t.group gid = s.group gid) ∧
    (∀ core : Nat, s.coreFits x [] core = true →
      (s.core core).retired = false ∧ (s.die (core / 160)).failed = false ∧
      let used := s.teams.filter fun t => t.2.resident && t.2.core == core
      let sum (f : Launch → Nat) : Nat := ((used.map fun t => f (s.launch (launchOfTeam t.1))).sum) + f x
      used.length < 2 ∧ sum (·.groups) ≤ 32 ∧ sum (fun y => y.rpl * y.groups) ≤ 2048 ∧
      sum (·.spad) ≤ 512 * 1024 ∧
      ∀ t ∈ used, x.rpl ≤ 64 ∧ (s.launch (launchOfTeam t.1)).rpl ≤ 64) ∧
    (∀ m ps, s.pickUnit = some (m, ps) → ps.map (·.1) = s.nextUnit m ∧
      ((s.launch m).gshape = 1 → ∃ cl, ps = (s.nextUnit m).map fun k => (k, 16 * cl + k % 16)) ∧
      ((s.launch m).gshape = 2 → ∃ d, ∀ p ∈ ps, p.2 / 160 = d) ∧
      ((s.launch m).gshape = 3 → ∃ cl, ∀ p ∈ ps, p.2 / 16 = cl) ∧
      ((s.launch m).gang ≠ 0 → (ps.map (·.1)).Nodup → (∀ p ∈ ps, aget s.teams p.1 = none) →
        Gives .gangStart s fun t => ∀ p ∈ ps, (t.team p.1).resident = true ∧ (t.team p.1).core = p.2 ∧
          (t.group (16 * p.1)).status = .running)) ∧
    (s.pickUnit = none → exec .gangStart s =
      .next { s with dist := { s.dist with reserved := s.reservable } }) ∧
    (s.waiting.head? = s.dist.cand → exec .candidateTakeover s = .next s) ∧
    (s.waiting.head? = some l → s.dist.cand ≠ some l →
      s.dist.reserved = [] ∨ (∀ m, s.dist.cand = some m → s.unitPlaces m (s.launch m).dies = none) →
      Gives .candidateTakeover s fun t => t.dist.cand = some l ∧ t.dist.candAt = s.now ∧
        t.dist.reserved = [] ∧ t.dist.victim = (if s.victimGone then none else s.dist.victim) ∧
        t.teams = s.teams ∧ t.groups = s.groups) ∧
    (let due := x.phase ≠ .ended ∧ s.unplaced l = true ∧ x.eff < x.prio + 2 ∧ x.ageFrom + 2 ^ 20 ≤ s.now
     (due → Gives (.priorityAging l) s fun t => (t.launch l).eff = x.eff + 1 ∧
       (t.launch l).ageFrom = x.ageFrom + 2 ^ 20 ∧ ∀ m, m ≠ l → t.launch m = s.launch m) ∧
     (¬due → exec (.priorityAging l) s = .next s))

/-- R271, R276, R328 to R331: a candidate that has waited 2^16 cycles takes a team of the launch of lowest
PRIO below its own, the last dispatched of equals, or a parent team of it that waits in `lwt`, which gives way to it;
the signal reaches every live group of a team whose
launch has a PREH; a group then enters its handler with KIND 2 and CAUSE 19; a team over its deadline ends
its launch with PREEMPT_FAILED; a team placed again enters its resume handlers with CAUSE 21, its split
stacks kept. -/
def Obligations.PreemptionEvents : Prop :=
  ∀ (s : State) (c v l team : Nat),
    let x := s.launch l
    let key := teamKey l team
    (rising s.teams = true → ∀ tm, s.victimTeam v c = some tm → (s.launch v).preh ≠ 0 ∧ launchOfTeam tm = v ∧ v ≠ c ∧
      (s.team tm).resident = true ∧
      ((s.launch v).prio < (s.launch c).prio ∨ tm ∈ s.parentTeams 12 c ∧ s.waitsForChild tm = true)) ∧
    (s.dist.cand = some c → s.now < s.dist.candAt + 2 ^ 16 → exec .victimSelect s = .next s) ∧
    (∀ tm, s.dist.cand = some c → s.unplaced c = true → s.dist.candAt + 2 ^ 16 ≤ s.now →
      s.dist.victim = none → s.unitPlaces c (s.launch c).dies = none → v ∈ akeys s.launches →
      s.victimTeam v c = some tm → rising s.teams = true →
      (∀ m ∈ akeys s.launches, (s.victimTeam m c).isSome = true → m = v ∨
        (s.launch v).prio < (s.launch m).prio ∨
        ((s.launch m).prio = (s.launch v).prio ∧ (s.launch m).dispNo < (s.launch v).dispNo)) →
      Gives .victimSelect s fun t => t.dist.victim = some tm ∧ t.groups = s.groups ∧
        t.team tm = { s.team tm with displaced :=
          (s.parentTeams 12 c).contains tm && s.waitsForChild tm } ∧
        ∀ k, k ≠ tm → t.team k = s.team k) ∧
    (l < 2 ^ 32 → team < 2 ^ 32 →
      (x.preh = 0 → exec (.preemptSignal l team) s = .next s) ∧
      (x.preh ≠ 0 → (s.team key).resident = true → (s.team key).signalAt = none →
        (∀ j < (s.team key).groups, (s.group (16 * key + j)).resuming = false) →
        (s.team key).groups ≤ 16 →
        (∃ j < (s.team key).groups, (s.group (16 * key + j)).status = .running) →
        Gives (.preemptSignal l team) s fun t => (t.team key).signalAt = some s.now ∧
          ∀ j < (s.team key).groups,
            ((t.group (16 * key + j)).signal = true ↔ (s.group (16 * key + j)).signal = true ∨
              (s.group (16 * key + j)).status = .running))) ∧
    (∀ gid, let g := s.group gid
      (g.signal = false → g.entering = none → exec (.preemptEntry gid) s = .next s) ∧
      (g.signal = true → g.status = .running → g.entering = none → s.CanEnter gid true →
        Gives (.preemptEntry gid) s fun t =>
          Entered s t gid g true (s.launchOf gid).preh
            (if g.s0.path.isSome then g.path false else g.path true).fmt 19 0 0 ∧
          (t.group gid).signal = false)) ∧
    (∀ tm a, (s.team tm).signalAt = some a → launchOfTeam tm = l →
      (s.now < a + x.deadl → exec (.preemptDeadlineMiss tm) s = .next s) ∧
      ((s.team tm).resident = true → a + x.deadl ≤ s.now → (aget s.launches l).isSome = true →
        x.phase ≠ .ended → x.phase ≠ .ending → s.draftsOf l = [] → Gives (.preemptDeadlineMiss tm) s fun t =>
          (t.launch l).phase = .ended ∧ (t.launch l).status = 4 ∧ (t.team tm).resident = false ∧
          ∀ gid, launchOfTeam (teamOf gid) = l → (t.group gid).status = .ended)) ∧
    ∀ core, s.pickUnit = some (l, [(key, core)]) → (aget s.teams key).isSome = true →
      (s.team key).isOut = true → team < 2 ^ 32 →
      (∃ j < x.groups, j < (s.team key).groups ∧ (s.group (16 * key + j)).status = .yielded) →
      (∀ j < x.groups, ∀ i < 16, s.slotOfKey (s.frameKey (16 * key + j) true + i) = none) →
      Gives (.teamResume key) s fun t =>
        (t.team key).resident = true ∧ (t.team key).core = core ∧ (t.team key).bars = (s.team key).bars ∧
        (t.team key).queues = (s.team key).queues ∧ t.mem.home = s.mem.home ∧
        ∀ j < x.groups, let gid := 16 * key + j
          ((s.group gid).status ≠ .yielded → t.group gid = s.group gid) ∧
          ((s.group gid).status = .yielded →
            (t.group gid).status = .running ∧ (t.group gid).resuming = true ∧
            (t.group gid).s0.path = some ⟨x.resh, allLanes, allLanes, 0, none, 0⟩ ∧
            (t.group gid).s1.path = none ∧ (t.group gid).stack = (s.group gid).stack ∧
            (t.group gid).fpst = (s.group gid).fpst ∧
            (t.group gid).gval false 0 = BitVec.ofNat 64 (s.saveRow key) ∧
            (t.group gid).gval false 1 = BitVec.ofNat 64 (s.frameKey gid true) ∧
            field ((t.group gid).gval false 2) 8 8 = 21 ∧
            (t.group gid).gval false 3 = dwOf (bytesAt s.mem.home (s.frameKey gid true) 16) 1)

/-! ### Failures, errors and power -/

/-- R15, R38, R170, R318, R336, R337, R258, R333, R334, R373: a failed die, stack, link or core is marked and
measured, with the new channel map where channels go with it; every launch that it reaches ends FAULTED and
the tables with rows there lose VALID; a failed die's copies and links are gone; a retired channel's map
entries name live channels afterwards, memory as before; an uncorrectable error poisons what it hit and is
logged, ends the launch whose control state or frame it hit, or resets the module; a corrected error is
counted; power alarms set and clear. The numbers of dies, stacks, links, cores and channels are the model's
choice (log entry 31). -/
def Obligations.FailureEvents : Prop :=
  ∀ (s : State) (d l ch : Nat),
    let x := s.launch l
    let measured (t : State) (n : Nat) : Prop := ∃ es, t.stag.log = s.stag.log ++ es ∧ es.length = n ∧
      ∀ e ∈ es, e.midx = 6
    let faulted (t : State) (unit : Nat) : Prop := (t.launch l).phase = .ended ∧ (t.launch l).status = 5 ∧
      (t.launch l).unit = unit
    let running := x.phase ≠ .ended ∧ x.phase ≠ .ending ∧ s.draftsOf l = []
    let dead (t : State) (k : Nat) : Prop := ∀ c < 64, (t.channel (64 * k + c)).retired = true
    let lost (t : State) (ks : List Nat) (unit : Nat) : Prop :=
      (∀ tid ∈ s.lostTables ks, (t.table tid).valid = false ∧ .tableLost tid ∈ t.stag.errors) ∧
      (running → (∃ g ∈ x.grants, g.1 ∈ s.lostTables ks) → faulted t unit)
    (d < 4 → (s.die d).failed = false → Gives (.unitFailure .die d) s fun t =>
      (t.die d).failed = true ∧ measured t 2 ∧ dead t (3 * d) ∧ dead t (3 * d + 1) ∧ dead t (3 * d + 2) ∧
      lost t [3 * d, 3 * d + 1, 3 * d + 2] d ∧ (∀ k ∈ dieLinks d, k ∈ t.links) ∧
      (∀ e ∈ t.mem.l1, dieOfCluster (ownerOfCopy e.1) ≠ d) ∧
      (running → x.phase ≠ .accepted → d ∈ x.dies → faulted t d)) ∧
    ((s.die d).failed = true → exec (.unitFailure .die d) s = .next s) ∧
    exec (.dieOvertemp d) s = exec (.unitFailure .die d) s ∧
    (d < 12 → s.stackLive d = true → Gives (.unitFailure .stack d) s fun t => measured t 2 ∧ dead t d ∧
      lost t [d] d) ∧
    (d < 20 → d ∉ s.links → Gives (.unitFailure .link d) s fun t => measured t 1 ∧ d ∈ t.links ∧
      (running → x.phase ≠ .accepted → 2 ≤ x.dies.length →
        ({ s with links := insNum s.links d } : State).connected x.dies = false → faulted t d)) ∧
    (d < 640 → (s.core d).retired = false → Gives (.unitFailure .core d) s fun t => measured t 1 ∧
      (t.core d).retired = true ∧ ∀ tm, (s.team tm).resident = true → (s.team tm).core = d →
        launchOfTeam tm = l → running → faulted t (dieOfCore d)) ∧
    (ch < 768 → (s.channel ch).retired = false → (s.channel ch).holder = none →
      Gives (.pseudoChannelRetire ch) s fun t => (t.channel ch).retired = true ∧ measured t 2 ∧
        t.mem.home = s.mem.home ∧ t.groups = s.groups ∧ t.launches = s.launches ∧
        ((∃ c < 768, c ≠ ch ∧ (s.channel c).retired = false) →
          ∀ i < 4096, t.channelLive (t.mapEntry 0 i) = true)) ∧
    (ch < 768 → (s.channel ch).retired = false → (s.channel ch).holder = some l → running →
      Gives (.pseudoChannelRetire ch) s fun t => (t.channel ch).retired = true ∧ faulted t (ch / 64)) ∧
    (ch < 768 → (s.channel ch).narrowed = false → Gives (.channelNarrow ch) s fun t => measured t 1 ∧
      t.channel ch = { s.channel ch with narrowed := true } ∧ t.mem = s.mem ∧ t.groups = s.groups) ∧
    (∀ key, let u := unitOf key
      exec (.eccUncorrectable (.launchRecord key)) s = exec (.eccUncorrectable (.memUnit key)) s ∧
      (s.frameOwners u = [] → Gives (.eccUncorrectable (.memUnit key)) s fun t =>
        t.mem.home = s.mem.home ∧ t.launches = s.launches ∧ t.groups = s.groups ∧
        t.stag.errors = s.stag.errors ++ [.ecc u] ∧ ∀ y, y ∈ t.mem.poison ↔ y ∈ s.mem.poison ∨ y = u) ∧
      ∀ gid pre, (aget s.groups gid).isSome = true → launchOfTeam (teamOf gid) = l → running →
        (if pre then (s.group gid).preLive else (s.group gid).trapLive) = true →
        s.frameKey gid pre / 32 ≤ u → u < s.frameKey gid pre / 32 + 32 →
        Gives (.eccUncorrectable (.memUnit key)) s fun t =>
          (t.launch l).phase = .ended ∧ (t.launch l).status = 5) ∧
    (∀ gid (r : Reg), (aget s.groups gid).isSome = true →
      (Gives (.eccUncorrectable (.laneReg gid r)) s fun t => ∀ q < 128,
        bitOn (t.group gid).poisonV q = (bitOn (s.group gid).poisonV q || q == r.val)) ∧
      Gives (.eccUncorrectable (.uniReg gid r)) s fun t => ∀ q < 128,
        bitOn (t.group gid).poisonG q = (bitOn (s.group gid).poisonG q || q == r.val)) ∧
    (∀ tm k, (aget s.teams tm).isSome = true →
      (Gives (.eccUncorrectable (.spadUnit tm k)) s fun t => k / 32 ∈ (t.team tm).spadPoison ∧
        (t.team tm).spad = (s.team tm).spad) ∧
      Gives (.eccUncorrectable (.tile tm k)) s fun t => k ∈ (t.team tm).tilePoison ∧
        (t.team tm).tiles = (s.team tm).tiles) ∧
    (∀ tid, (aget s.tables tid).isSome = true →
      (Gives (.eccUncorrectable (.descriptor tid)) s fun t => (t.table tid).poisonDesc = true) ∧
      Gives (.eccUncorrectable (.indexNode tid)) s fun t => (t.table tid).poisonIndex = true) ∧
    (running → Gives (.eccUncorrectable (.control l)) s fun t => faulted t (x.dies.headD 0)) ∧
    (Gives (.eccUncorrectable .stag) s fun t => t.groups = [] ∧ t.launches = [] ∧ t.tables = [] ∧
      t.mem = Mem.reset ∧ t.host.boot = 0 ∧ t.stag.mregs = List.replicate 24 0 ∧ t.stag.log = [] ∧
      t.host.mem = s.host.mem ∧ t.stag.steps = s.stag.steps ∧ t.stag.startGen = s.stag.startGen) ∧
    exec .correctedError s =
      .next { s with host := { s.host with corrected := s.host.corrected + 1 } } ∧
    (Gives .powerAlarmRaise s fun t => t.host.alarm = true ∧ t.mem = s.mem ∧ t.groups = s.groups ∧
      t.host.alarms = s.host.alarms + if s.host.alarm then 0 else 1) ∧
    Gives .powerAlarmClear s fun t => t.host.alarm = false ∧ t.host.alarms = s.host.alarms ∧
      t.mem = s.mem ∧ t.groups = s.groups

/-! ### The Stag -/

/-- R318, R319, R320, R338, R339, R375: a module reset leaves the state of a reset, turns steps that stood begun
into failed ones, extended into mreg5, and begins a start, unless STEP 1 failed before; each part of the start then
verifies and extends one image, whose keys have the ROM's digests and whose composite signature both schemes verify,
or begins or ends one step of one unit, with the alternative that its failures make due, and sets BOOTSTAT; a bad
image or a failed step is extended into mreg5 and stops it with BOOTSTAT F0. R317: a function-level reset ends the
tenant's launches, its tables, its keys and its TDISP state. R315, R316, R303: an IDE failure does so for the
stream's users and sets ERROR, and STOP_INTERFACE does so from RUN; a wrap key is taken only in the secured session
bound to the tenant's TDI. R316, R321: TDISP and SPDM, with ECDHE on secp384r1. The model's choices: the standards of
the signatures and the exchange (log entry 7), the order and codes of TDISP and SPDM (22), the users of a stream
(54), the parts of a start (50), the numbers of units (31) and the event by which digests are supplied (72). -/
def Obligations.StagEvents : Prop :=
  ∀ (s : State) (b : BootInput) (d ten l n : Nat) (key : BitVec 256),
    let stag := s.stag
    let answers (t : State) (code : Nat) (p : List Byte → Prop) : Prop :=
      ∃ x, t.stag.answers = stag.answers ++ [⟨code, x⟩] ∧ p x
    let place (step unit : Nat) : Prop := ∃ e ∈ stag.steps, e.state = 0 ∨ (e.step = step ∧ e.unit = unit)
    let stops (t : State) : Prop := t.host.boot = 0xF0 ∧ t.stag.boot = none
    let fresh (t : State) : Prop := t.stag.log.length = (stag.steps.filter (·.state == 1)).length ∧
      (∀ e ∈ t.stag.log, e.midx = 5) ∧ ∀ i, i < 24 → i ≠ 5 → t.stag.mregs[i]? = some 0
    let failed (t : State) (step unit alt : Nat) : Prop := stops t ∧ (∀ i, i ≠ 5 → t.stag.mregs[i]? = stag.mregs[i]?) ∧
      (∃ x : LogEntry, t.stag.log = stag.log ++ [x] ∧ x.midx = 5 ∧
        x.data = [BitVec.ofNat 8 step, BitVec.ofNat 8 unit, BitVec.ofNat 8 alt]) ∧
      (place step unit → t.entry step unit = (alt, 3))
    let resets (t : State) : Prop :=
      ((s.launch l).phase ≠ .ended → (s.launch l).parent = none → (s.launch l).ten = ten →
        (t.launch l).phase = .ended ∧ ((s.launch l).phase ≠ .ending → (t.launch l).status = 5)) ∧
      (∀ tid, (s.table tid).valid = true → (s.table tid).ten = ten → (t.table tid).valid = false) ∧
      (∀ e ∈ t.mem.l1, let k := keyOfCopy e.1
        isPriv k = true ∨ ¬((s.table (tidOfKey k)).valid = true ∧ (s.table (tidOfKey k)).ten = ten)) ∧
      (∀ k ∈ t.stag.slots, k.2.ten ≠ ten) ∧ aget t.stag.wrap ten = none ∧ aget t.stag.bound ten = none ∧
      .reset ten ∈ t.stag.faults ∧
      ∀ q y, aget t.host.queues q = some y → y.ten = some ten → y.sqhead = y.sqtail ∧ y.open_ = []
    let go := Instr.moduleReset .go
    let mayWrap : Prop := (∃ x, stag.sessions[n]? = some x ∧ x.secured = true) ∧
      aget stag.bound ten = some n ∧ (s.tdi ten = .locked ∨ s.tdi ten = .run)
    ((s.entry 1 0).2 ≠ 1 → (s.entry 1 0).2 ≠ 3 → place 1 0 → Gives (.moduleReset (.reset b)) s fun t =>
      t.host.boot = 1 ∧ t.stag.boot = some ⟨b, 0, bootPlan, false⟩ ∧ t.entry 1 0 = (0, 1) ∧ t.groups = [] ∧
      t.launches = [] ∧ t.tables = [] ∧ t.channels = [] ∧ t.mem = Mem.reset ∧ fresh t ∧
      t.stag.slots = [] ∧ t.stag.startGen = stag.startGen + 1 ∧
      ∀ e ∈ stag.steps, (e.step, e.unit) ≠ (1, 0) → e.state ≠ 0 →
        (if e.state = 1 then { e with state := 3, gen := lo32 (stag.startGen + 1) } else e) ∈ t.stag.steps) ∧
    ((s.entry 1 0).2 = 1 ∨ (s.entry 1 0).2 = 3 → Gives (.moduleReset (.reset b)) s fun t => stops t ∧
      fresh t) ∧
    (stag.boot = none → exec go s = .next s) ∧
    (∀ r, stag.boot = some r → r.image < 5 →
      let nats (b : List Byte) : List Nat := b.map (·.toNat)
      let verified (x : BootImage) : Prop := digestOf x.edKey = stag.rom.1 ∧ digestOf x.mlKey = stag.rom.2 ∧
        x.sig.length = 3375 ∧ x.sig.take 2 = [1, 0] ∧
        edVerify (nats x.edKey) (nats x.bytes) (nats ((x.sig.drop 2).take 64)) = true ∧
        mlVerify (nats x.mlKey) (nats x.bytes) (nats (x.sig.drop 66)) = true
      (∀ x, r.input.images[r.image]? = some x → stag.mregs.length = 24 → Gives go s fun t =>
        (verified x →
          let new := digestOf (digestBytes (stag.mregs.getD r.image 0) ++ digestBytes (digestOf x.bytes))
          t.stag.mregs.getD r.image 0 = new ∧
          (∃ e : LogEntry, t.stag.log = stag.log ++ [e] ∧ e.midx = r.image ∧ e.seq = stag.log.length ∧
            e.etype = r.image + 1 ∧ e.digest = digestOf x.bytes ∧ e.data = x.version.take 4096) ∧
          t.stag.boot = some { r with image := r.image + 1 } ∧ t.mem = s.mem ∧
          (r.image = 0 → t.host.boot = 2 ∧ t.stag.keys = some (Config.identityKeys Config.pufSecret,
            Config.aliasKeys Config.pufSecret new)) ∧
          (r.image = 3 → t.host.limit = r.input.limit) ∧
          (r.image = 4 → place 1 0 → t.entry 1 0 = (0, 2))) ∧
        (¬verified x → failed t 1 0 0)) ∧
      (r.input.images[r.image]? = none → Gives go s fun t => failed t 1 0 0)) ∧
    (∀ r, stag.boot = some r → 5 ≤ r.image → (∀ k < 4, (s.die k).excluded = true) →
      Gives go s fun t => stops t) ∧
    (∀ r, stag.boot = some r → 5 ≤ r.image → (∃ k < 4, (s.die k).excluded = false) →
      (r.plan = [] → Gives go s fun t => t.host.boot = 5 ∧ t.stag.boot = none ∧ t.mem = s.mem ∧
        t.stag.log = stag.log ∧ t.stag.steps = stag.steps) ∧
      ∀ step unit rest, r.plan = (step, unit) :: rest →
        let pass : Prop := (step = 3 ∧ (s.die (unit / 3)).excluded = true) ∨
          (step = 5 ∧ (s.die unit).excluded = true)
        let e := s.entry step unit
        let alt := if e.2 = 3 then min (e.1 + 1) (lastAlt step) else e.1
        let gone (t : State) (k : Nat) : Prop := ∀ c < 64, (t.channel (64 * k + c)).retired = true
        let bad (c : Nat) : Prop := c ∈ r.input.cores ∧ dieOfCore c = unit
        let fails : Prop := (step, unit) ∈ r.input.failed ∨ (step = 5 ∧ e.1 = 0 ∧ ∃ c, bad c)
        let leaves : Prop := (step, e.1) = (2, 1) ∨ (step, e.1) = (3, 2) ∨ (step, e.1) = (4, 1) ∨
          (step, e.1) = (5, 2)
        let extended (t : State) : Prop :=
          ∃ (es : List LogEntry) (x : LogEntry), t.stag.log = stag.log ++ es ++ [x] ∧ x.midx = 5
        (pass → Gives go s fun t => t.stag.boot = some { r with plan := rest } ∧ t.mem = s.mem ∧
          t.stag.steps = stag.steps) ∧
        (¬pass → place step unit →
          (r.begun = false → Gives go s fun t =>
            t.entry step unit = (alt, 1) ∧ t.host.boot = (if step = 5 then 4 else 3) ∧
            t.stag.boot = some { r with begun := true } ∧
            (alt = 0 → t.mem = s.mem ∧ t.stag.log = stag.log) ∧ (alt ≠ 0 → extended t) ∧
            (step = 2 → alt = 1 → (t.die unit).excluded = true ∧ (∀ k < 3, gone t (3 * unit + k)) ∧
              ∀ k ∈ dieLinks unit, k ∈ t.links) ∧
            (step = 3 → alt = 2 → gone t unit) ∧ (step = 4 → alt = 1 → unit ∈ t.links) ∧
            (step = 5 → alt = 1 → ∀ c, bad c → (t.core c).retired = true) ∧
            (step = 5 → alt = 2 → ∀ c k, bad c → clusterOfCore k = clusterOfCore c →
              (t.core k).retired = true)) ∧
          (r.begun = true → fails ∧ ¬leaves → Gives go s fun t => failed t step unit e.1) ∧
          (r.begun = true → ¬fails ∨ leaves → Gives go s fun t => t.host.boot = s.host.boot ∧
            t.stag.boot = some { r with plan := rest, begun := false } ∧
            t.entry step unit = (e.1, 2) ∧
            (step = 3 → e.1 < 2 → ∀ c ∈ r.input.narrow, c < 768 → c / 64 = unit →
              (t.channel c).narrowed = true)))) ∧
    (∀ (i : Nat) (x : BitVec 384), exec (.moduleReset (.supply i x)) s =
      .next (if s.host.boot = 5 ∧ 8 ≤ i ∧ i < 24 then s.extend i x [] else s)) ∧
    (ten < 64 → Gives (.functionLevelReset ten) s fun t => resets t ∧
      t.tdi ten = (if s.tdi ten = .unassigned then .unassigned else .error) ∧
      ∃ fs, t.stag.faults = fs ++ [.reset ten]) ∧
    (64 < d → exec (.ideCheckFailure d) s = .next s) ∧
    (Gives (.ideCheckFailure 0) s fun t => 0 ∈ t.stag.ideErr ∧
      (ten ∈ s.host.enabled → s.tdi ten = .unassigned → resets t ∧ t.tdi ten = .error)) ∧
    (ten < 64 → Gives (.ideCheckFailure (ten + 1)) s fun t => ten + 1 ∈ t.stag.ideErr ∧
      (s.tdi ten = .unassigned → t.tdi ten = .unassigned) ∧
      (s.tdi ten ≠ .unassigned → resets t ∧ t.tdi ten = .error)) ∧
    (mayWrap → exec (.setWrapKey ten ⟨n, key⟩) s =
      .next { s with stag := { stag with wrap := aput stag.wrap ten key } }) ∧
    (¬mayWrap → exec (.setWrapKey ten ⟨n, key⟩) s = .next s) ∧
    (s.tdi ten = .unassigned → exec (.stopInterface ten) s = .next s) ∧
    (s.tdi ten ≠ .unassigned → Gives (.stopInterface ten) s fun t => t.tdi ten = .unlocked ∧
      aget t.stag.bound ten = none ∧ answers t 0x7E (· = [0x07]) ∧ (s.tdi ten = .run → resets t)) ∧
    (s.host.boot = 5 → ten < 64 →
      let moves (m : TdispMsg) (x y : Tdi) : Prop := s.tdi ten = x →
        exec (.tdispRequest ten m) s = .next (s.setTdi ten y)
      let stays (m : TdispMsg) (body : List Byte) : Prop := Gives (.tdispRequest ten m) s fun t =>
        t.stag.tdi = stag.tdi ∧ answers t 0x7E (· = body)
      moves .assign .unassigned .unlocked ∧ moves .unassign .unlocked .unassigned ∧
      (s.tdi ten = .unlocked → Gives (.tdispRequest ten (.lockInterface n)) s fun t =>
        t.tdi ten = .locked ∧ answers t 0x7E (· = [0x03]) ∧
        ((∃ x, stag.sessions[n]? = some x ∧ x.secured = true) → aget t.stag.bound ten = some n)) ∧
      (s.tdi ten = .locked → Gives (.tdispRequest ten .startInterface) s fun t =>
        t.tdi ten = .run ∧ answers t 0x7E (· = [0x06])) ∧
      (s.tdi ten ≠ .unlocked → stays (.lockInterface n) [0x7F]) ∧
      (s.tdi ten ≠ .locked → stays .startInterface [0x7F]) ∧
      (s.tdi ten = .locked ∨ s.tdi ten = .run → stays .interfaceReport (0x04 ::
        ((s.queuesOf ten).flatMap (fun q => leBytes 2 q) ++ leBytes 2 0 ++ leBytes 2 511))) ∧
      stays .interfaceState [0x05, BitVec.ofNat 8 (s.tdi ten).code] ∧ stays .getVersion [0x01, 1, 0x10] ∧
      stays .getCapabilities ([0x02, 0, 0, 0, 0, 0xFE] ++ List.replicate 20 0 ++ [52, 1, 1])) ∧
    (∀ keys msg, ∃ ed ml, composite keys msg = 0x01 :: 0x00 :: (ed ++ ml) ∧ ed.length = 64 ∧
      ml.length = 3309) ∧
    ∀ (nonce : BitVec 256) (peer : BitVec 768) (i : Nat),
      let signs (x body : List Byte) : Prop := x = body ++ s.aliasSign (leBytes 32 nonce.toNat ++ body)
      (s.host.boot ≠ 5 → ∀ w ∈ [Instr.getVersion, .getCapabilities, .negotiateAlgorithms, .getDigests,
        .getCertificate, .challenge nonce, .getMeasurements i nonce, .keyExchange peer, .finish],
        exec w s = .next s) ∧
      (s.host.boot = 5 →
        (Gives .getVersion s fun t => t.stag.version = true ∧ t.stag.algs = false ∧
          t.stag.sessions = [] ∧ t.stag.bound = [] ∧ answers t 0x04 (· = [0, 1, 0x00, 0x14])) ∧
        (stag.version = true → Gives .getCapabilities s fun t => t.stag.caps = true ∧
          answers t 0x61 (· = [0xD6, 0x02, 0, 0])) ∧
        (stag.caps = true → Gives .negotiateAlgorithms s fun t => t.stag.algs = true ∧
          answers t 0x63 (· = [2, 0, 0, 0, 0x10, 0, 1, 0])) ∧
        (stag.algs = true →
          (Gives .getDigests s fun t => answers t 0x01 (· = digestBytes (digestOf s.certificates))) ∧
          (Gives .getCertificate s fun t => answers t 0x02 (· = s.certificates)) ∧
          (Gives (.challenge nonce) s fun t => answers t 0x03 fun x => ∃ body, signs x body) ∧
          (Gives (.getMeasurements 0 nonce) s fun t => answers t 0x60 fun x => signs x [25]) ∧
          (1 ≤ i → i ≤ 24 → Gives (.getMeasurements i nonce) s fun t => answers t 0x60 fun x =>
            signs x (BitVec.ofNat 8 i :: digestBytes (stag.mregs.getD (i - 1) 0))) ∧
          (Gives (.getMeasurements 0xFD nonce) s fun t => answers t 0x60 fun x =>
            signs x (0xFD :: s.logBytes)) ∧
          (∀ p, ecPoint (natLe 96 peer.toNat) = some p → Gives (.keyExchange peer) s fun t =>
            let own := (Config.ecdheKey s.fresh).toNat
            let body : List Byte := (ecPublic own).map (BitVec.ofNat 8)
            answers t 0x64 (· = body ++ s.aliasSign body) ∧
            t.stag.sessions = stag.sessions ++ [⟨BitVec.ofNat 384 (leOf (ecShared own p)), false⟩]) ∧
          (ecPoint (natLe 96 peer.toNat) = none → Gives (.keyExchange peer) s fun t =>
            answers t 0x7F (· = []) ∧ t.stag.sessions = stag.sessions) ∧
          (∀ xs x, stag.sessions = xs ++ [x] → Gives .finish s fun t => answers t 0x65 (· = []) ∧
            t.stag.sessions = xs ++ [{ x with secured := true }]) ∧
          (stag.sessions = [] → Gives .finish s fun t => answers t 0x7F (· = []))) ∧
        (stag.algs = false → Gives (.getMeasurements i nonce) s fun t => answers t 0x7F (· = [])))

/-! ### The host -/

/-- R366, R367, R365, R374: what a doorbell, a queue-index write and a register write change, the start of a
command, link training and function enables. R369, R370, R20, R315: a command that does not run does
nothing; one on an absent table or launch is refused with ABSENT and on another tenant's with NOTOWNER; what
each command does otherwise, with BUSY clear afterwards. The model's choices: FIELD for a HOMEID or a KSLOT that R18
has zero (log entry 17), operands in the order of R369 and no table of the PF (23), the room of the module (24),
FIELD for a HOME that R18 does not list (25), the lowest free id (29), TBL_READ and growth held while a channel of
theirs is in broadcast mode (44), the count of unread records after a CQHEAD write (53), the codes of STOP and QASSIGN (55), a CMD code that R369 does not list (67), and FIELD for a
RESERVE of tenant 64 and up and for a TBL_READ over 1 MiB or past the table (73), BAR0 written in whole doublewords
(75), and the clearing of half units and a moved default row without its key (62). -/
def Obligations.HostEvents : Prop :=
  ∀ (s : State) (fn q val : Nat),
    let b := s.bar0 fn
    let op (i : Nat) : W64 := dwAt b.area i
    let a := (op 0).toNat
    let old := s.table a
    let runs (code : Nat) : Prop := b.busy = true ∧ b.cmd.toNat = code
    let answers (r v : Nat) (t : State) : Prop := t.bar0 fn =
      { b with refuse := BitVec.ofNat 8 r, result := BitVec.ofNat 32 v, busy := false }
    let refuses (i : Instr) (r : Nat) : Prop := Gives i s fun t => answers r 0 t ∧
      t.mem = s.mem ∧ t.tables = s.tables ∧ t.launches = s.launches ∧ t.host.queues = s.host.queues
    let commands : List (Instr × Nat) := [(.tblCreate fn, 1), (.tblModify fn, 2), (.tblDestroy fn, 3),
      (.tblLoad fn, 4), (.tblRead fn, 5), (.tblRebuild fn, 6), (.stop fn, 7), (.chmap fn, 8),
      (.qassign fn, 16), (.masks fn, 17), (.reserve fn, 18), (.clearStart fn, 19)]
    (∀ n x, s.localQueue fn q = some (n, x) → s.present fn = true → val < 2 ^ 16 →
      let set (i : Instr) (y : HQueue) : Prop := Gives i s fun t => aget t.host.queues n = some y ∧
        (∀ m, m ≠ n → aget t.host.queues m = aget s.host.queues m) ∧ t.mem = s.mem
      (val ≤ x.sqn.toNat → set (.sqtailDoorbell fn q val) { x with sqtail := BitVec.ofNat 16 val }) ∧
      (x.sqn.toNat < val → set (.sqtailDoorbell fn q val) x) ∧
      (x.cqhead.toNat ≤ x.cqn.toNat → val ≤ x.cqn.toNat → set (.cqheadWrite fn q val)
        { x with
          cqhead := BitVec.ofNat 16 val
          unread := if x.cqhead.toNat = val ∧ x.unread = x.cqn.toNat + 1 then 0
            else if x.cqhead.toNat ≤ val then x.unread - (val - x.cqhead.toNat)
            else x.unread - (val + (x.cqn.toNat + 1) - x.cqhead.toNat) }) ∧
      (∀ v, (x.en = true → set (.registerWrite fn (0x1000 + 64 * q) v) x) ∧
        (x.en = false → set (.registerWrite fn (0x1000 + 64 * q) v) { x with sqbase := v }))) ∧
    (∀ v j, s.present fn = true → j < 8 → Gives (.registerWrite fn (0x10 + 8 * j) v) s fun t =>
      t.bar0 fn = { b with area := setAt b.area j v } ∧ t.mem = s.mem ∧ t.groups = s.groups) ∧
    (∀ v, s.present fn = true → Gives (.registerWrite fn 0x50 v) s fun t => t.bar0 fn =
      let code := field v 0 16
      if b.busy = false ∧ (1 ≤ code ∧ code ≤ 8 ∨ fn = 0 ∧ 16 ≤ code ∧ code ≤ 19) then
        { b with cmd := BitVec.ofNat 16 code, busy := true } else b) ∧
    (∀ w cxl, 0 < val → val ≤ 128 → 0 < w → w ≤ 16 → exec (.hostLinkTraining val w cxl) s = .next
      { s with host := { s.host with linkRate := val, linkWidth := w, cxl := cxl, trained := true } }) ∧
    (val < 64 →
      (Gives (.vfEnable val true) s fun t => ∀ y, y ∈ t.host.enabled ↔ y ∈ s.host.enabled ∨ y = val) ∧
      Gives (.vfEnable val false) s fun t => ∀ y, y ∈ t.host.enabled ↔ y ∈ s.host.enabled ∧ y ≠ val) ∧
    (∀ x ∈ commands, ¬runs x.2 → exec x.1 s = .next s) ∧
    (∀ x ∈ commands, 2 ≤ x.2 → x.2 ≤ 6 → runs x.2 →
      (2 ^ 20 ≤ a ∨ old.valid = false → refuses x.1 5) ∧
      (a < 2 ^ 20 → old.valid = true → fn = 0 ∨ old.ten ≠ fn - 1 → refuses x.1 4)) ∧
    (∀ tid, runs 1 → 1 ≤ tid → tid < 2 ^ 20 → tid ≤ s.tables.length + 1 →
      (∀ j, 1 ≤ j → j < tid → (s.table j).valid = true) → (s.table tid).valid = false → fn ≠ 0 →
      let img := s.hostWords (op 0) 48
      let t0 : Table := { Table.absent with
        dw := setAt (setAt img 0 (withField (dwAt img 0) 20 20 tid)) 1
          (withField (dwAt img 1) 58 6 (fn - 1))
        page := (op 1).toNat }
      let new := t0.keep (if t0.dense then t0.cap else 0) 0
      let good := t0.page ≤ 4 ∧ new.usable tid = true ∧ new.homeOk = true
      (¬good → refuses (.tblCreate fn) 1) ∧
      (good → s.fits (s.used + new.mapped) = false → refuses (.tblCreate fn) 3) ∧
      (good → s.fits (s.used + new.mapped) = true → Gives (.tblCreate fn) s fun t => answers 0 tid t ∧
        (∃ i, t.table tid = { new with free := (if new.dense then [] else [(1, new.cap)]), index := i } ∧
          (new.home = 0 → s.liveStacks ≠ [] → i ∈ s.liveStacks) ∧
          (new.home ≠ 0 → 3 * (new.homeId % 4) ≤ i ∧ i < 3 * (new.homeId % 4) + 3)) ∧
        (∀ k, k < new.slots * new.rowSize → byteAt t.mem.home (tid * 2 ^ 42 + k) = 0) ∧
        (∀ j, j ≠ tid → t.table j = s.table j) ∧
        HomeOutside s t fun k => tid * 2 ^ 42 ≤ flatKey k ∧
          flatKey k < tid * 2 ^ 42 + (new.slots * new.rowSize + 31) / 32 * 32)) ∧
    (a < 2 ^ 20 → old.valid = true → fn ≠ 0 → old.ten = fn - 1 →
      (runs 2 →
        let t0 : Table := { old with dw := s.hostWords (op 1) 48, poisonDesc := false }
        let new := t0.keep (if t0.dense then t0.cap else old.count) (old.gen + 1)
        let at' (slot : Nat) : Nat := a * 2 ^ 42 + slot * old.rowSize
        new.kind = old.kind → new.keyt = old.keyt → new.k = old.k → new.ten = old.ten →
        new.ownw = old.ownw → new.kslot = old.kslot → old.cap ≤ new.cap → new.usable a = true →
        new.homeOk = true → new.home = old.home → new.homeId = old.homeId →
        s.fits (s.used - old.mapped + new.mapped) = true →
        (old.cap = new.cap → Gives (.tblModify fn) s fun t => answers 0 0 t ∧ t.table a = new ∧
          t.mem = s.mem) ∧
        (s.regions = [] → s.copies = [] → s.channels = [] → old.ownw = false → s.growWaits a old new = false) ∧
        (s.growWaits a old new = true → exec (.tblModify fn) s = .next s) ∧
        (old.cap < new.cap → s.growWaits a old new = false → Gives (.tblModify fn) s fun t => answers 0 0 t ∧
          t.table a = (if new.dense then new else { new with free := old.free ++ [(old.cap, new.cap)] }) ∧
          (old.ownw = false ∨ 32 ≤ old.rowSize →
            (∀ k, at' old.cap ≤ k → k < at' new.cap → byteAt t.mem.home k = 0) ∧
            ∀ k, k < at' old.cap → byteAt t.mem.home k = byteAt s.mem.home k) ∧
          (old.ownw = false → new.dense = true → ∀ i < old.rowSize,
            byteAt t.mem.home (at' new.cap + i) = byteAt s.mem.home (at' old.cap + i)))) ∧
      (runs 3 →
        (s.granted a = true → refuses (.tblDestroy fn) 2) ∧
        (s.granted a = false → Gives (.tblDestroy fn) s fun t => answers 0 0 t ∧
          (t.table a).valid = false ∧ ∀ j, j ≠ a → t.table j = s.table j)) ∧
      (runs 4 → old.slots < (op 1).toNat + (op 2).toNat → refuses (.tblLoad fn) 1) ∧
      (runs 4 → (op 2).toNat = 1 → (op 1).toNat < old.slots → old.dense = true → old.ownw = false →
        old.held = none → s.rowHeld a (op 1).toNat = false → Gives (.tblLoad fn) s fun t =>
          answers 0 1 t ∧ t.tables = s.tables ∧ ∀ i < old.rowSize,
            byteAt t.mem.home (a * 2 ^ 42 + (op 1).toNat * old.rowSize + i) =
              byteAt s.host.mem ((op 3).toNat + i)) ∧
      (runs 5 → 2 ^ 20 < (op 2).toNat ∨ old.slots * old.rowSize < (op 1).toNat + (op 2).toNat →
        refuses (.tblRead fn) 1) ∧
      (runs 5 → (op 2).toNat ≤ 2 ^ 20 → (op 1).toNat + (op 2).toNat ≤ old.slots * old.rowSize →
        old.ownw = false →
        let key (i : Nat) : Nat := a * 2 ^ 42 + (op 1).toNat + i
        ((∃ i < (op 2).toNat, s.channelShut (32 * unitOf (key i)) = true) →
          exec (.tblRead fn) s = .next s) ∧
        ((∀ i < (op 2).toNat, s.channelShut (32 * unitOf (key i)) = false) →
          Gives (.tblRead fn) s fun t => t.mem = s.mem ∧ (t.bar0 fn).busy = false ∧
            (t.bar0 fn).refuse = 0 ∧ ∀ i < (op 2).toNat, byteAt t.host.mem ((op 3).toNat + i) =
              if s.unitPoisoned (key i) then 0 else byteAt s.mem.home (key i))) ∧
      (runs 6 → Gives (.tblRebuild fn) s fun t => answers 0 0 t ∧
        t.table a = { old with poisonIndex := false } ∧ t.mem = s.mem)) ∧
    (runs 7 →
      let l := s.launch a
      (l.phase = .ended → refuses (.stop fn) 5) ∧
      (l.phase ≠ .ended → fn = 0 ∨ l.ten ≠ fn - 1 → refuses (.stop fn) 4) ∧
      (l.phase ≠ .ended → l.phase ≠ .ending → fn ≠ 0 → l.ten = fn - 1 →
        Gives (.stop fn) s fun t => answers 0 0 t ∧
          ((t.launch a).phase = .ended ∨ (t.launch a).phase = .ending) ∧
          (s.draftsOf a = [] → (t.launch a).phase = .ended) ∧ (t.launch a).status = 5 ∧
          (t.launch a).stopped = true)) ∧
    (runs 8 → Gives (.chmap fn) s fun t => answers 0 0 t ∧
      bytesAt t.host.mem a 200 = s.channelsEntry ∧ t.mem = s.mem) ∧
    (runs 16 →
      let ten := (op 1).toNat
      let loc := (op 2).toNat
      let inUse := ∃ x ∈ s.host.queues, x.1 ≠ a ∧ x.2.ten = some ten ∧ x.2.loc = loc
      (256 ≤ a ∨ 64 ≤ ten ∨ 256 ≤ loc ∨ inUse → refuses (.qassign fn) 1) ∧
      (a < 256 → ten < 64 → loc < 256 → ¬inUse →
        (s.queueFree a = false → refuses (.qassign fn) 2) ∧
        (s.queueFree a = true → Gives (.qassign fn) s fun t => answers 0 0 t ∧
          aget t.host.queues a = some (HQueue.fresh ten loc)))) ∧
    (runs 17 → Gives (.masks fn) s fun t => answers 0 0 t ∧ t.host.privMask = op 0 ∧
      t.host.coMask = op 1 ∧ ∃ e, t.stag.log = s.stag.log ++ [e] ∧ e.midx = 7) ∧
    (runs 18 →
      (64 ≤ a → refuses (.reserve fn) 1) ∧
      (∀ m, m = { s.mem with reserve := aput s.mem.reserve a (op 1).toNat } → a < 64 →
        let t0 : State := { s with mem := m }
        (t0.fits t0.used = false → refuses (.reserve fn) 3) ∧
        (t0.fits t0.used = true → Gives (.reserve fn) s fun t => answers 0 0 t ∧ t.mem = m))) ∧
    (runs 19 → Gives (.clearStart fn) s fun t => answers 0 0 t ∧
      t.stag.steps.length = s.stag.steps.length ∧ ∀ e ∈ t.stag.steps, e.alt = 0 ∧ e.state = 0)

/-! ### Steps, encodings, invariants and reset -/

/-- R70, R277, R280: a slot whose turn it is runs the instruction that the bytes at its PC decode to, by
`exec` of it at the state in which the slot issues; what follows the issue marks its pipe as used in this clock
and passes the group's turn on. A path at its rejoin word arrives there; a word that does not decode traps with
ILLEGAL_OPCODE. That the word is read at its home when it issues is the model's choice (log entry 12), and so is
the order in which the agents of one clock move (log entry 1). -/
def Obligations.StepRunsDecodedWord : Prop :=
  ∀ (s : State) (g : Nat) (b : Bool), s.nextSlot = some (g, b) →
    let p := (s.group g).path b
    let s1 : State := { s with curG := g, curS := b }
    let tid := (s.launchOf g).codeTable
    let t := s.table tid
    let op := s.codeOp p.pc
    let n := lengthOf op.toNat
    let word := (s.codeSeen p.pc n).bytes
    let after (pipe : Option Bool) (u : State) : State := u.issued g b (s.coreOf g) pipe
    let pipe : Option Bool := some (decide (0x80 ≤ op.toNat))
    (∀ num, p.rj = some (p.pc, num) → step s =
      onNext (after none) (exec (.pathArrive g (if b then 1 else 0)) s1)) ∧
    ((∀ num, p.rj ≠ some (p.pc, num)) → t.poisonDesc = false → t.usable tid = true → spaceOf p.pc = 0 →
      tidOf p.pc = tid → posOf p.pc / t.rowSize < t.cap → (posOf p.pc + n - 1) / t.rowSize < t.cap →
      s.anyPoison ((List.range n).map fun i => p.pc.toNat + i) = false →
      (∀ i rest, decode word = .ok (i, rest) → step s = onNext (after pipe) (exec i s1)) ∧
      (∀ e, decode word = .error e →
        step s = .next (after pipe (s1.takeTrap .illegalOpcode 0))) ∧
      (t.ownw = false → word = bytesAt s.mem.home p.pc.toNat n ∧
        op = byteAt s.mem.home (p.pc.toNat + 3))) ∧
    ∀ pipe u, aget u.groups g = some (u.group g) → ((u.group g).slot b).waiting = false →
      (after pipe u).spent = u.spent ++ (pipe.map fun x => (s.coreOf g, x)).toList ∧
      ((after pipe u).group g).last1 = b ∧ (after pipe u).mem = u.mem ∧
      ∀ r, ((after pipe u).group g).gval b r = (u.group g).gval b r

/-- R42, R44 to R51, R54, R67, R68: every well-formed instruction word decodes from its own encoding, with
every operand at every value that the encoding admits, and nothing is left over. -/
def Obligations.DecodeEncodeRoundTrip : Prop :=
  ∀ (i : Instr) (bytes : List Byte), i.wf = true → encode i = some bytes → decode bytes = .ok (i, [])

/-- R278, R279, R281, R229 and the canonical form of memory: every step keeps a well-kept state: no path has
an active lane outside its lanes, in a slot, in a split stack or in what a region goes back to. -/
def Obligations.StepKeepsWellKept : Prop :=
  ∀ s t : State, s.WellKept → step s = .next t → t.WellKept

/-- R366, R318, R29, R261: what reset leaves: BOOTSTAT 0, measurement registers zero and an empty log, no
groups, launches, reserves or open work, %launch values from 1; and the state is well kept. That unlisted
memory reads zero is the model's choice (log entry 4). -/
def Obligations.ResetState : Prop :=
  let s := State.reset
  s.WellKept ∧ s.host.boot = 0 ∧ s.stag.mregs = List.replicate 24 0 ∧ s.stag.log = [] ∧ s.groups = [] ∧
  s.teams = [] ∧ s.launches = [] ∧ s.mem.reserve = [] ∧ s.dist.nextLaunch = 1 ∧ s.host.privMask = 0 ∧
  s.host.coMask = 0 ∧ s.writes = [] ∧ s.fills = [] ∧ s.copies = [] ∧ s.regions = [] ∧ s.calls = [] ∧
  (∀ tid, (s.table tid).valid = false) ∧ (∀ c, (s.core c).gen = 0) ∧ (∀ ten, s.tdi ten = .unassigned) ∧
  (∀ fn, s.bar0 fn = ⟨List.replicate 8 0, 0, 0, 0, false⟩) ∧ ∀ k, byteAt s.mem.home k = 0

/-- R42 to R51, R58, R66, R71 and the words written out in R94 to R96, R99, R103, R106, R120, R253, R254,
R287 to R289, R295, R327: words of the spec read as the instructions that it names, and three words that it
calls illegal are refused. -/
def Obligations.DecodeWorkedWords : Prop :=
  let one (w : Nat) (i : Instr) : Prop := decodeTableWord 32 w = some i
  let two (w e : Nat) (i : Instr) : Prop := decodeTableWord 64 (w + e * 2 ^ 32) = some i
  one 0xA0081430 (.faddF32 4 5 6 false false false) ∧ one 0xA0081433 (.faddF32 4 5 6 false true true) ∧
  two 0xC1140800 0x00108280
    (.ld 10 2 false false false ⟨16, ⟨true, false, false, false, false⟩, .acquire, .w4, .normal⟩) ∧
  two 0x03001C00 0x00050009 (.brc 7 false false 5 9) ∧
  two 0x85081430 0x0E000000 (.imadI32 4 5 6 7 false false false false) ∧
  two 0x97061000 0x00020408 (.ibfe 3 4 false false true 8 4) ∧
  two 0xA8081430 0x000A0000 (.faddH2 4 5 6 false false false true) ∧
  two 0xB5122000 0x000B0008 (.cvt 9 8 false false .e4 .f32) ∧
  two 0x07000000 0x17 (.trap 0x17) ∧ one 0x0C0A1C00 (.gsr 5 7) ∧ one 0x0D162000 (.gssr 11 8 false) ∧
  one 0x0E025000 (.wfull true 20 false) ∧ one 0x3B000000 .hret ∧ one 0x3C50A400 (.lnch 40 41 false) ∧
  one 0x48000100 (.mma 0 0 32 false false) ∧ two 0x49000100 7 (.mmac 0 0 32 false false 7) ∧
  two 0x60001028 0 (.chmode 4 5 false false .arm) ∧ one 0x61001030 (.aphl 4 6 false false) ∧
  one 0x4F0C0000 (.fsta 6) ∧
  decodeTableWord 32 0x2B000000 = none ∧ decodeTableWord 32 0x860A1830 = none ∧
  decodeTableWord 32 0x00000001 = none
end

