-- ==== Sys2Proof/Laws/Maps.lean ====
section
/-! SUPPORT. Laws of association lists, of the canonical memory, of lane registers and register sets. -/

namespace Sys2Proof.Machine

/-! ### Association lists -/

theorem aget_adel_self {α : Type} (m : Assoc α) (q : Nat) : aget (adel m q) q = none := by
  induction m with
  | nil => rfl
  | cons e r ih =>
    obtain ⟨k, v⟩ := e
    by_cases h : k = q
    · simp [adel, h, ih]
    · simp [adel, aget, h, ih]

theorem aget_adel_ne {α : Type} (m : Assoc α) {q k : Nat} (h : k ≠ q) :
    aget (adel m q) k = aget m k := by
  induction m with
  | nil => rfl
  | cons e r ih =>
    obtain ⟨a, v⟩ := e
    by_cases ha : a = q
    · subst ha
      simp [adel, aget, ih, Ne.symm h]
    · by_cases hk : a = k
      · subst hk
        simp [adel, aget, h]
      · simp [adel, aget, ha, hk, ih]

theorem aget_ains_self {α : Type} (m : Assoc α) (q : Nat) (x : α) (h : aget m q = none) :
    aget (ains m q x) q = some x := by
  induction m with
  | nil => simp [ains, aget]
  | cons e r ih =>
    obtain ⟨a, v⟩ := e
    by_cases ha : a = q
    · simp [aget, ha] at h
    · by_cases hq : q < a
      · simp [ains, aget, hq]
      · simp [aget, ha] at h
        simp [ains, aget, hq, ha, ih h]

theorem aget_ains_ne {α : Type} (m : Assoc α) {q k : Nat} (x : α) (h : k ≠ q) :
    aget (ains m q x) k = aget m k := by
  induction m with
  | nil => simp [ains, aget, Ne.symm h]
  | cons e r ih =>
    obtain ⟨a, v⟩ := e
    by_cases hq : q < a
    · simp [ains, aget, hq, Ne.symm h]
    · by_cases hk : a = k
      · subst hk
        simp [ains, aget, hq]
      · simp [ains, aget, hq, hk, ih]

@[simp] theorem aget_aput_self {α : Type} (m : Assoc α) (q : Nat) (x : α) :
    aget (aput m q x) q = some x :=
  aget_ains_self _ _ _ (aget_adel_self m q)

theorem aget_aput_ne {α : Type} (m : Assoc α) {q k : Nat} (x : α) (h : k ≠ q) :
    aget (aput m q x) k = aget m k := by
  rw [aput, aget_ains_ne _ _ h, aget_adel_ne _ h]

theorem aget_aput {α : Type} (m : Assoc α) (q k : Nat) (x : α) :
    aget (aput m q x) k = if k = q then some x else aget m k := by
  by_cases h : k = q
  · simp [h]
  · simp [h, aget_aput_ne _ _ h]

theorem adel_of_aget_none {α : Type} (m : Assoc α) (q : Nat) (h : aget m q = none) : adel m q = m := by
  induction m with
  | nil => rfl
  | cons e r ih =>
    obtain ⟨a, v⟩ := e
    by_cases ha : a = q
    · simp [aget, ha] at h
    · simp [aget, ha] at h
      simp [adel, ha, ih h]

theorem adel_ains {α : Type} (m : Assoc α) (q : Nat) (x : α) (h : aget m q = none) :
    adel (ains m q x) q = m := by
  induction m with
  | nil => simp [ains, adel]
  | cons e r ih =>
    obtain ⟨a, v⟩ := e
    by_cases ha : a = q
    · simp [aget, ha] at h
    · simp [aget, ha] at h
      by_cases hq : q < a
      · simp [ains, adel, hq, ha, adel_of_aget_none r q h]
      · simp [ains, adel, hq, ha, ih h]

/-- A second write of a key replaces the first. -/
@[simp] theorem aput_aput {α : Type} (m : Assoc α) (q : Nat) (x y : α) :
    aput (aput m q x) q y = aput m q y := by
  unfold aput
  rw [adel_ains _ _ _ (aget_adel_self m q)]

theorem aupd_of_some {α : Type} {m : Assoc α} {q : Nat} {x : α} (f : α → α) (h : aget m q = some x) :
    aupd m q f = aput m q (f x) := by
  simp [aupd, h]

/-! ### Rising keys -/

/-- Keys strictly rising, as a proposition over pairs. -/
theorem rising_iff {α : Type} (m : Assoc α) :
    rising m = true ↔ m.Pairwise fun a b => a.1 < b.1 := by
  induction m with
  | nil => simp [rising]
  | cons e r ih =>
    obtain ⟨a, x⟩ := e
    cases r with
    | nil => simp [rising]
    | cons f t =>
      obtain ⟨b, y⟩ := f
      rw [rising, Bool.and_eq_true, decide_eq_true_iff, ih, List.pairwise_cons (l := (b, y) :: t)]
      constructor
      · rintro ⟨hab, ht⟩
        refine ⟨fun c hc => ?_, ht⟩
        rcases List.mem_cons.1 hc with rfl | hc
        · exact hab
        · exact lt_trans hab (List.rel_of_pairwise_cons ht hc)
      · rintro ⟨h, ht⟩
        exact ⟨h _ List.mem_cons_self, ht⟩

theorem adel_sublist {α : Type} (m : Assoc α) (q : Nat) : (adel m q).Sublist m := by
  induction m with
  | nil => exact List.Sublist.refl _
  | cons e r ih =>
    obtain ⟨a, v⟩ := e
    by_cases h : a = q
    · simp only [adel, h, if_true]
      exact ih.cons _
    · simp only [adel, h, if_false]
      exact ih.cons_cons _

theorem rising_of_sublist {α : Type} {m n : Assoc α} (h : n.Sublist m) (hm : rising m = true) :
    rising n = true :=
  (rising_iff n).2 (((rising_iff m).1 hm).sublist h)

theorem mem_ains {α : Type} {m : Assoc α} {q : Nat} {x : α} {e : Nat × α} (h : e ∈ ains m q x) :
    e = (q, x) ∨ e ∈ m := by
  induction m with
  | nil => simpa [ains] using h
  | cons f r ih =>
    obtain ⟨a, v⟩ := f
    by_cases hq : q < a
    · simpa [ains, hq] using h
    · simp only [ains, hq, if_false, List.mem_cons] at h ⊢
      rcases h with h | h
      · exact .inr (.inl h)
      · rcases ih h with h | h
        · exact .inl h
        · exact .inr (.inr h)

theorem not_mem_of_aget_none {α : Type} {m : Assoc α} {q : Nat} (h : aget m q = none) :
    ∀ e ∈ m, e.1 ≠ q := by
  induction m with
  | nil => simp
  | cons f r ih =>
    obtain ⟨a, v⟩ := f
    by_cases ha : a = q
    · simp [aget, ha] at h
    · simp only [aget, ha, if_false] at h
      intro e he
      rcases List.mem_cons.1 he with rfl | he
      · exact ha
      · exact ih h e he

theorem rising_ains {α : Type} {m : Assoc α} {q : Nat} (x : α) (h : aget m q = none)
    (hm : rising m = true) : rising (ains m q x) = true := by
  rw [rising_iff] at hm ⊢
  induction m with
  | nil => simp [ains]
  | cons f r ih =>
    obtain ⟨a, v⟩ := f
    have hne := not_mem_of_aget_none h
    have hp := List.pairwise_cons.1 hm
    by_cases hq : q < a
    · simp only [ains, hq, if_true]
      refine List.pairwise_cons.2 ⟨fun e he => ?_, hm⟩
      rcases List.mem_cons.1 he with rfl | he
      · exact hq
      · exact lt_trans hq (hp.1 e he)
    · simp only [ains, hq, if_false, List.pairwise_cons]
      have ha : a ≠ q := hne (a, v) List.mem_cons_self
      have hr : aget r q = none := by simpa [aget, ha] using h
      refine ⟨fun e he => ?_, ih hr hp.2⟩
      rcases mem_ains he with rfl | he
      · exact lt_of_le_of_ne (not_lt.1 hq) ha
      · exact hp.1 e he

theorem rising_adel {α : Type} {m : Assoc α} (q : Nat) (hm : rising m = true) :
    rising (adel m q) = true := rising_of_sublist (adel_sublist m q) hm

theorem rising_aput {α : Type} {m : Assoc α} (q : Nat) (x : α) (hm : rising m = true) :
    rising (aput m q x) = true :=
  rising_ains x (aget_adel_self m q) (rising_adel q hm)

/-! ### The canonical memory -/

theorem wf_iff (m : List Host.Cell) :
    Memory.wf m = true ↔ rising m = true ∧ ∀ c ∈ m, c.2 ≠ blank := by
  simp [Memory.wf]

theorem wf_nil : Memory.wf [] = true := rfl

theorem wf_of_sublist {m n : List Host.Cell} (h : n.Sublist m) (hm : Memory.wf m = true) :
    Memory.wf n = true := by
  rw [wf_iff] at hm ⊢
  exact ⟨rising_of_sublist h hm.1, fun c hc => hm.2 c (h.subset hc)⟩

/-- A filter keeps the canonical form. -/
theorem wf_filter {m : List Host.Cell} (p : Host.Cell → Bool) (hm : Memory.wf m = true) :
    Memory.wf (m.filter p) = true := wf_of_sublist List.filter_sublist hm

/-- A byte write keeps the canonical form. -/
theorem wf_setByte {m : List Host.Cell} (k : Nat) (b : Byte) (hm : Memory.wf m = true) :
    Memory.wf (setByte m k b) = true := by
  unfold setByte
  split
  · exact wf_of_sublist (adel_sublist m k) hm
  · rename_i hb
    rw [wf_iff] at hm ⊢
    refine ⟨rising_aput k b hm.1, fun c hc => ?_⟩
    rcases mem_ains hc with rfl | hc
    · exact hb
    · exact hm.2 c ((adel_sublist m k).subset hc)

/-- Byte writes keep the canonical form. -/
theorem wf_setBytes {m : List Host.Cell} (l : List (Nat × Byte)) (hm : Memory.wf m = true) :
    Memory.wf (setBytes m l) = true := by
  induction l generalizing m with
  | nil => exact hm
  | cons e r ih => exact ih (wf_setByte _ _ hm)

@[simp] theorem byteAt_setByte_self (m : List Host.Cell) (k : Nat) (b : Byte) :
    byteAt (setByte m k b) k = b := by
  unfold byteAt setByte
  split
  · rename_i h
    simp [aget_adel_self, h]
  · simp

theorem byteAt_setByte_ne (m : List Host.Cell) {k a : Nat} (b : Byte) (h : a ≠ k) :
    byteAt (setByte m k b) a = byteAt m a := by
  unfold byteAt setByte
  split
  · rw [aget_adel_ne _ h]
  · rw [aget_aput_ne _ _ h]

/-- A byte that no write of a list names is unchanged. -/
theorem byteAt_setBytes_of_not_mem (m : List Host.Cell) (l : List (Nat × Byte)) {a : Nat}
    (h : ∀ e ∈ l, e.1 ≠ a) : byteAt (setBytes m l) a = byteAt m a := by
  induction l generalizing m with
  | nil => rfl
  | cons e r ih =>
    obtain ⟨k, b⟩ := e
    simp only [setBytes]
    rw [ih _ fun e he => h e (List.mem_cons_of_mem _ he)]
    exact byteAt_setByte_ne _ _ (h (k, b) List.mem_cons_self).symm

theorem mem_runOf {k : Nat} {bs : List Byte} {e : Nat × Byte} (h : e ∈ runOf k bs) :
    k ≤ e.1 ∧ e.1 < k + bs.length := by
  induction bs generalizing k with
  | nil => simp [runOf] at h
  | cons b r ih =>
    rcases List.mem_cons.1 h with rfl | h
    · simp
    · have := ih h
      simp only [List.length_cons]
      omega

/-- A run of bytes written is read back. -/
theorem byteAt_setBytes_runOf (m : List Host.Cell) (k : Nat) (bs : List Byte) {i : Nat}
    (h : i < bs.length) : byteAt (setBytes m (runOf k bs)) (k + i) = bs[i] := by
  induction bs generalizing m k i with
  | nil => simp at h
  | cons b r ih =>
    simp only [runOf, setBytes]
    cases i with
    | zero =>
      rw [byteAt_setBytes_of_not_mem]
      · simp
      · intro e he
        have := (mem_runOf he).1
        omega
    | succ j =>
      have := ih (setByte m k b) (k + 1) (i := j) (by simpa using h)
      simpa [Nat.add_assoc, Nat.add_comm 1 j] using this

theorem byteAt_setBytes_runOf_of_outside (m : List Host.Cell) (k : Nat) (bs : List Byte) {a : Nat}
    (h : a < k ∨ k + bs.length ≤ a) : byteAt (setBytes m (runOf k bs)) a = byteAt m a := by
  apply byteAt_setBytes_of_not_mem
  intro e he
  have := mem_runOf he
  omega

@[simp] theorem bytesAt_length (m : List Host.Cell) (k n : Nat) : (bytesAt m k n).length = n := by
  simp [bytesAt]

/-- A run of bytes written is read back whole. -/
theorem bytesAt_setBytes_runOf (m : List Host.Cell) (k : Nat) (bs : List Byte) :
    bytesAt (setBytes m (runOf k bs)) k bs.length = bs := by
  apply List.ext_getElem (by simp)
  intro i h1 h2
  simp only [bytesAt, List.getElem_map, List.getElem_range]
  exact byteAt_setBytes_runOf m k bs h2

/-! ### Lane registers -/

/-- One lane of a lane register put in a register file. -/
theorem laneAt_aget_putVec_self (m : Assoc LaneVec) (r : Nat) (v : LaneVec) (l : Nat) :
    laneAt ((aget (if v.all (· == 0) then adel m r else aput m r v) r).getD []) l = laneAt v l := by
  split
  · rename_i h
    rw [aget_adel_self]
    simp only [Option.getD_none, laneAt, List.getD_nil]
    by_cases hl : l < v.length
    · have := List.all_eq_true.1 h v[l] (List.getElem_mem hl)
      simp only [beq_iff_eq] at this
      rw [List.getD_eq_getElem _ _ hl, this]
    · rw [List.getD_eq_default _ _ (not_lt.1 hl)]
  · simp

@[simp] theorem laneAt_mkLanes (f : Nat → W32) {l : Nat} (h : l < 96) : laneAt (mkLanes f) l = f l := by
  simp [laneAt, mkLanes, laneNums, List.getD_eq_getElem?_getD, h]

theorem laneAt_mkLanes_ge (f : Nat → W32) {l : Nat} (h : 96 ≤ l) : laneAt (mkLanes f) l = 0 := by
  simp [laneAt, mkLanes, laneNums, List.getD_eq_getElem?_getD, h]

/-! ### Register sets -/

theorem bitOn_regSet_one {n : Nat} (r i : Nat) (hi : i < n) : bitOn (regSet n r 1) i = decide (i = r) := by
  unfold bitOn regSet
  rw [BitVec.getLsbD_ofNat, show (2 ^ 1 - 1) * 2 ^ r = 2 ^ r by omega, Nat.testBit_two_pow]
  simp [hi, eq_comm]

theorem bitOn_or {n : Nat} (a b : BitVec n) (i : Nat) : bitOn (a ||| b) i = (bitOn a i || bitOn b i) := by
  simp [bitOn]

theorem bitOn_and_not_regSet {n : Nat} (a : BitVec n) (r i : Nat) (hi : i < n) :
    bitOn (a &&& ~~~regSet n r 1) i = (bitOn a i && !decide (i = r)) := by
  have h := bitOn_regSet_one (n := n) r i hi
  unfold bitOn at h ⊢
  rw [BitVec.getLsbD_and, BitVec.getLsbD_not, h]
  simp [hi]

end Sys2Proof.Machine
end

