-- ==== Sys2Proof/Laws/State.lean ====
section
/-! SUPPORT. Laws of the updates of the state: for every update, each field that it leaves alone. -/

namespace Sys2Proof.Machine

/-! ### Setters of the maps of the state -/

@[simp] theorem State.setGroup_now (s : State) (k : Nat) (g : Group) : (s.setGroup k g).now = s.now := rfl
@[simp] theorem State.setGroup_inputs (s : State) (k : Nat) (g : Group) : (s.setGroup k g).inputs = s.inputs := rfl
@[simp] theorem State.setGroup_curG (s : State) (k : Nat) (g : Group) : (s.setGroup k g).curG = s.curG := rfl
@[simp] theorem State.setGroup_curS (s : State) (k : Nat) (g : Group) : (s.setGroup k g).curS = s.curS := rfl
@[simp] theorem State.setGroup_fresh (s : State) (k : Nat) (g : Group) : (s.setGroup k g).fresh = s.fresh := rfl
@[simp] theorem State.setGroup_nextId (s : State) (k : Nat) (g : Group) : (s.setGroup k g).nextId = s.nextId := rfl
@[simp] theorem State.setGroup_spent (s : State) (k : Nat) (g : Group) : (s.setGroup k g).spent = s.spent := rfl
@[simp] theorem State.setGroup_teams (s : State) (k : Nat) (g : Group) : (s.setGroup k g).teams = s.teams := rfl
@[simp] theorem State.setGroup_cores (s : State) (k : Nat) (g : Group) : (s.setGroup k g).cores = s.cores := rfl
@[simp] theorem State.setGroup_dies (s : State) (k : Nat) (g : Group) : (s.setGroup k g).dies = s.dies := rfl
@[simp] theorem State.setGroup_links (s : State) (k : Nat) (g : Group) : (s.setGroup k g).links = s.links := rfl
@[simp] theorem State.setGroup_launches (s : State) (k : Nat) (g : Group) : (s.setGroup k g).launches = s.launches := rfl
@[simp] theorem State.setGroup_tables (s : State) (k : Nat) (g : Group) : (s.setGroup k g).tables = s.tables := rfl
@[simp] theorem State.setGroup_mem (s : State) (k : Nat) (g : Group) : (s.setGroup k g).mem = s.mem := rfl
@[simp] theorem State.setGroup_writes (s : State) (k : Nat) (g : Group) : (s.setGroup k g).writes = s.writes := rfl
@[simp] theorem State.setGroup_fills (s : State) (k : Nat) (g : Group) : (s.setGroup k g).fills = s.fills := rfl
@[simp] theorem State.setGroup_flows (s : State) (k : Nat) (g : Group) : (s.setGroup k g).flows = s.flows := rfl
@[simp] theorem State.setGroup_score (s : State) (k : Nat) (g : Group) : (s.setGroup k g).score = s.score := rfl
@[simp] theorem State.setGroup_copies (s : State) (k : Nat) (g : Group) : (s.setGroup k g).copies = s.copies := rfl
@[simp] theorem State.setGroup_gathers (s : State) (k : Nat) (g : Group) : (s.setGroup k g).gathers = s.gathers := rfl
@[simp] theorem State.setGroup_mats (s : State) (k : Nat) (g : Group) : (s.setGroup k g).mats = s.mats := rfl
@[simp] theorem State.setGroup_arrivals (s : State) (k : Nat) (g : Group) : (s.setGroup k g).arrivals = s.arrivals := rfl
@[simp] theorem State.setGroup_regions (s : State) (k : Nat) (g : Group) : (s.setGroup k g).regions = s.regions := rfl
@[simp] theorem State.setGroup_edges (s : State) (k : Nat) (g : Group) : (s.setGroup k g).edges = s.edges := rfl
@[simp] theorem State.setGroup_restores (s : State) (k : Nat) (g : Group) : (s.setGroup k g).restores = s.restores := rfl
@[simp] theorem State.setGroup_calls (s : State) (k : Nat) (g : Group) : (s.setGroup k g).calls = s.calls := rfl
@[simp] theorem State.setGroup_channels (s : State) (k : Nat) (g : Group) : (s.setGroup k g).channels = s.channels := rfl
@[simp] theorem State.setGroup_aphids (s : State) (k : Nat) (g : Group) : (s.setGroup k g).aphids = s.aphids := rfl
@[simp] theorem State.setGroup_rotate (s : State) (k : Nat) (g : Group) : (s.setGroup k g).rotate = s.rotate := rfl
@[simp] theorem State.setGroup_dist (s : State) (k : Nat) (g : Group) : (s.setGroup k g).dist = s.dist := rfl
@[simp] theorem State.setGroup_host (s : State) (k : Nat) (g : Group) : (s.setGroup k g).host = s.host := rfl
@[simp] theorem State.setGroup_stag (s : State) (k : Nat) (g : Group) : (s.setGroup k g).stag = s.stag := rfl

@[simp] theorem State.modGroup_now (s : State) (k : Nat) (f : Group → Group) : (s.modGroup k f).now = s.now := rfl
@[simp] theorem State.modGroup_inputs (s : State) (k : Nat) (f : Group → Group) : (s.modGroup k f).inputs = s.inputs := rfl
@[simp] theorem State.modGroup_curG (s : State) (k : Nat) (f : Group → Group) : (s.modGroup k f).curG = s.curG := rfl
@[simp] theorem State.modGroup_curS (s : State) (k : Nat) (f : Group → Group) : (s.modGroup k f).curS = s.curS := rfl
@[simp] theorem State.modGroup_fresh (s : State) (k : Nat) (f : Group → Group) : (s.modGroup k f).fresh = s.fresh := rfl
@[simp] theorem State.modGroup_nextId (s : State) (k : Nat) (f : Group → Group) : (s.modGroup k f).nextId = s.nextId := rfl
@[simp] theorem State.modGroup_spent (s : State) (k : Nat) (f : Group → Group) : (s.modGroup k f).spent = s.spent := rfl
@[simp] theorem State.modGroup_teams (s : State) (k : Nat) (f : Group → Group) : (s.modGroup k f).teams = s.teams := rfl
@[simp] theorem State.modGroup_cores (s : State) (k : Nat) (f : Group → Group) : (s.modGroup k f).cores = s.cores := rfl
@[simp] theorem State.modGroup_dies (s : State) (k : Nat) (f : Group → Group) : (s.modGroup k f).dies = s.dies := rfl
@[simp] theorem State.modGroup_links (s : State) (k : Nat) (f : Group → Group) : (s.modGroup k f).links = s.links := rfl
@[simp] theorem State.modGroup_launches (s : State) (k : Nat) (f : Group → Group) : (s.modGroup k f).launches = s.launches := rfl
@[simp] theorem State.modGroup_tables (s : State) (k : Nat) (f : Group → Group) : (s.modGroup k f).tables = s.tables := rfl
@[simp] theorem State.modGroup_mem (s : State) (k : Nat) (f : Group → Group) : (s.modGroup k f).mem = s.mem := rfl
@[simp] theorem State.modGroup_writes (s : State) (k : Nat) (f : Group → Group) : (s.modGroup k f).writes = s.writes := rfl
@[simp] theorem State.modGroup_fills (s : State) (k : Nat) (f : Group → Group) : (s.modGroup k f).fills = s.fills := rfl
@[simp] theorem State.modGroup_flows (s : State) (k : Nat) (f : Group → Group) : (s.modGroup k f).flows = s.flows := rfl
@[simp] theorem State.modGroup_score (s : State) (k : Nat) (f : Group → Group) : (s.modGroup k f).score = s.score := rfl
@[simp] theorem State.modGroup_copies (s : State) (k : Nat) (f : Group → Group) : (s.modGroup k f).copies = s.copies := rfl
@[simp] theorem State.modGroup_gathers (s : State) (k : Nat) (f : Group → Group) : (s.modGroup k f).gathers = s.gathers := rfl
@[simp] theorem State.modGroup_mats (s : State) (k : Nat) (f : Group → Group) : (s.modGroup k f).mats = s.mats := rfl
@[simp] theorem State.modGroup_arrivals (s : State) (k : Nat) (f : Group → Group) : (s.modGroup k f).arrivals = s.arrivals := rfl
@[simp] theorem State.modGroup_regions (s : State) (k : Nat) (f : Group → Group) : (s.modGroup k f).regions = s.regions := rfl
@[simp] theorem State.modGroup_edges (s : State) (k : Nat) (f : Group → Group) : (s.modGroup k f).edges = s.edges := rfl
@[simp] theorem State.modGroup_restores (s : State) (k : Nat) (f : Group → Group) : (s.modGroup k f).restores = s.restores := rfl
@[simp] theorem State.modGroup_calls (s : State) (k : Nat) (f : Group → Group) : (s.modGroup k f).calls = s.calls := rfl
@[simp] theorem State.modGroup_channels (s : State) (k : Nat) (f : Group → Group) : (s.modGroup k f).channels = s.channels := rfl
@[simp] theorem State.modGroup_aphids (s : State) (k : Nat) (f : Group → Group) : (s.modGroup k f).aphids = s.aphids := rfl
@[simp] theorem State.modGroup_rotate (s : State) (k : Nat) (f : Group → Group) : (s.modGroup k f).rotate = s.rotate := rfl
@[simp] theorem State.modGroup_dist (s : State) (k : Nat) (f : Group → Group) : (s.modGroup k f).dist = s.dist := rfl
@[simp] theorem State.modGroup_host (s : State) (k : Nat) (f : Group → Group) : (s.modGroup k f).host = s.host := rfl
@[simp] theorem State.modGroup_stag (s : State) (k : Nat) (f : Group → Group) : (s.modGroup k f).stag = s.stag := rfl

@[simp] theorem State.setTeam_now (s : State) (k : Nat) (x : Team) : (s.setTeam k x).now = s.now := rfl
@[simp] theorem State.setTeam_inputs (s : State) (k : Nat) (x : Team) : (s.setTeam k x).inputs = s.inputs := rfl
@[simp] theorem State.setTeam_curG (s : State) (k : Nat) (x : Team) : (s.setTeam k x).curG = s.curG := rfl
@[simp] theorem State.setTeam_curS (s : State) (k : Nat) (x : Team) : (s.setTeam k x).curS = s.curS := rfl
@[simp] theorem State.setTeam_fresh (s : State) (k : Nat) (x : Team) : (s.setTeam k x).fresh = s.fresh := rfl
@[simp] theorem State.setTeam_nextId (s : State) (k : Nat) (x : Team) : (s.setTeam k x).nextId = s.nextId := rfl
@[simp] theorem State.setTeam_spent (s : State) (k : Nat) (x : Team) : (s.setTeam k x).spent = s.spent := rfl
@[simp] theorem State.setTeam_groups (s : State) (k : Nat) (x : Team) : (s.setTeam k x).groups = s.groups := rfl
@[simp] theorem State.setTeam_cores (s : State) (k : Nat) (x : Team) : (s.setTeam k x).cores = s.cores := rfl
@[simp] theorem State.setTeam_dies (s : State) (k : Nat) (x : Team) : (s.setTeam k x).dies = s.dies := rfl
@[simp] theorem State.setTeam_links (s : State) (k : Nat) (x : Team) : (s.setTeam k x).links = s.links := rfl
@[simp] theorem State.setTeam_launches (s : State) (k : Nat) (x : Team) : (s.setTeam k x).launches = s.launches := rfl
@[simp] theorem State.setTeam_tables (s : State) (k : Nat) (x : Team) : (s.setTeam k x).tables = s.tables := rfl
@[simp] theorem State.setTeam_mem (s : State) (k : Nat) (x : Team) : (s.setTeam k x).mem = s.mem := rfl
@[simp] theorem State.setTeam_writes (s : State) (k : Nat) (x : Team) : (s.setTeam k x).writes = s.writes := rfl
@[simp] theorem State.setTeam_fills (s : State) (k : Nat) (x : Team) : (s.setTeam k x).fills = s.fills := rfl
@[simp] theorem State.setTeam_flows (s : State) (k : Nat) (x : Team) : (s.setTeam k x).flows = s.flows := rfl
@[simp] theorem State.setTeam_score (s : State) (k : Nat) (x : Team) : (s.setTeam k x).score = s.score := rfl
@[simp] theorem State.setTeam_copies (s : State) (k : Nat) (x : Team) : (s.setTeam k x).copies = s.copies := rfl
@[simp] theorem State.setTeam_gathers (s : State) (k : Nat) (x : Team) : (s.setTeam k x).gathers = s.gathers := rfl
@[simp] theorem State.setTeam_mats (s : State) (k : Nat) (x : Team) : (s.setTeam k x).mats = s.mats := rfl
@[simp] theorem State.setTeam_arrivals (s : State) (k : Nat) (x : Team) : (s.setTeam k x).arrivals = s.arrivals := rfl
@[simp] theorem State.setTeam_regions (s : State) (k : Nat) (x : Team) : (s.setTeam k x).regions = s.regions := rfl
@[simp] theorem State.setTeam_edges (s : State) (k : Nat) (x : Team) : (s.setTeam k x).edges = s.edges := rfl
@[simp] theorem State.setTeam_restores (s : State) (k : Nat) (x : Team) : (s.setTeam k x).restores = s.restores := rfl
@[simp] theorem State.setTeam_calls (s : State) (k : Nat) (x : Team) : (s.setTeam k x).calls = s.calls := rfl
@[simp] theorem State.setTeam_channels (s : State) (k : Nat) (x : Team) : (s.setTeam k x).channels = s.channels := rfl
@[simp] theorem State.setTeam_aphids (s : State) (k : Nat) (x : Team) : (s.setTeam k x).aphids = s.aphids := rfl
@[simp] theorem State.setTeam_rotate (s : State) (k : Nat) (x : Team) : (s.setTeam k x).rotate = s.rotate := rfl
@[simp] theorem State.setTeam_dist (s : State) (k : Nat) (x : Team) : (s.setTeam k x).dist = s.dist := rfl
@[simp] theorem State.setTeam_host (s : State) (k : Nat) (x : Team) : (s.setTeam k x).host = s.host := rfl
@[simp] theorem State.setTeam_stag (s : State) (k : Nat) (x : Team) : (s.setTeam k x).stag = s.stag := rfl

@[simp] theorem State.modTeam_now (s : State) (k : Nat) (f : Team → Team) : (s.modTeam k f).now = s.now := rfl
@[simp] theorem State.modTeam_inputs (s : State) (k : Nat) (f : Team → Team) : (s.modTeam k f).inputs = s.inputs := rfl
@[simp] theorem State.modTeam_curG (s : State) (k : Nat) (f : Team → Team) : (s.modTeam k f).curG = s.curG := rfl
@[simp] theorem State.modTeam_curS (s : State) (k : Nat) (f : Team → Team) : (s.modTeam k f).curS = s.curS := rfl
@[simp] theorem State.modTeam_fresh (s : State) (k : Nat) (f : Team → Team) : (s.modTeam k f).fresh = s.fresh := rfl
@[simp] theorem State.modTeam_nextId (s : State) (k : Nat) (f : Team → Team) : (s.modTeam k f).nextId = s.nextId := rfl
@[simp] theorem State.modTeam_spent (s : State) (k : Nat) (f : Team → Team) : (s.modTeam k f).spent = s.spent := rfl
@[simp] theorem State.modTeam_groups (s : State) (k : Nat) (f : Team → Team) : (s.modTeam k f).groups = s.groups := rfl
@[simp] theorem State.modTeam_cores (s : State) (k : Nat) (f : Team → Team) : (s.modTeam k f).cores = s.cores := rfl
@[simp] theorem State.modTeam_dies (s : State) (k : Nat) (f : Team → Team) : (s.modTeam k f).dies = s.dies := rfl
@[simp] theorem State.modTeam_links (s : State) (k : Nat) (f : Team → Team) : (s.modTeam k f).links = s.links := rfl
@[simp] theorem State.modTeam_launches (s : State) (k : Nat) (f : Team → Team) : (s.modTeam k f).launches = s.launches := rfl
@[simp] theorem State.modTeam_tables (s : State) (k : Nat) (f : Team → Team) : (s.modTeam k f).tables = s.tables := rfl
@[simp] theorem State.modTeam_mem (s : State) (k : Nat) (f : Team → Team) : (s.modTeam k f).mem = s.mem := rfl
@[simp] theorem State.modTeam_writes (s : State) (k : Nat) (f : Team → Team) : (s.modTeam k f).writes = s.writes := rfl
@[simp] theorem State.modTeam_fills (s : State) (k : Nat) (f : Team → Team) : (s.modTeam k f).fills = s.fills := rfl
@[simp] theorem State.modTeam_flows (s : State) (k : Nat) (f : Team → Team) : (s.modTeam k f).flows = s.flows := rfl
@[simp] theorem State.modTeam_score (s : State) (k : Nat) (f : Team → Team) : (s.modTeam k f).score = s.score := rfl
@[simp] theorem State.modTeam_copies (s : State) (k : Nat) (f : Team → Team) : (s.modTeam k f).copies = s.copies := rfl
@[simp] theorem State.modTeam_gathers (s : State) (k : Nat) (f : Team → Team) : (s.modTeam k f).gathers = s.gathers := rfl
@[simp] theorem State.modTeam_mats (s : State) (k : Nat) (f : Team → Team) : (s.modTeam k f).mats = s.mats := rfl
@[simp] theorem State.modTeam_arrivals (s : State) (k : Nat) (f : Team → Team) : (s.modTeam k f).arrivals = s.arrivals := rfl
@[simp] theorem State.modTeam_regions (s : State) (k : Nat) (f : Team → Team) : (s.modTeam k f).regions = s.regions := rfl
@[simp] theorem State.modTeam_edges (s : State) (k : Nat) (f : Team → Team) : (s.modTeam k f).edges = s.edges := rfl
@[simp] theorem State.modTeam_restores (s : State) (k : Nat) (f : Team → Team) : (s.modTeam k f).restores = s.restores := rfl
@[simp] theorem State.modTeam_calls (s : State) (k : Nat) (f : Team → Team) : (s.modTeam k f).calls = s.calls := rfl
@[simp] theorem State.modTeam_channels (s : State) (k : Nat) (f : Team → Team) : (s.modTeam k f).channels = s.channels := rfl
@[simp] theorem State.modTeam_aphids (s : State) (k : Nat) (f : Team → Team) : (s.modTeam k f).aphids = s.aphids := rfl
@[simp] theorem State.modTeam_rotate (s : State) (k : Nat) (f : Team → Team) : (s.modTeam k f).rotate = s.rotate := rfl
@[simp] theorem State.modTeam_dist (s : State) (k : Nat) (f : Team → Team) : (s.modTeam k f).dist = s.dist := rfl
@[simp] theorem State.modTeam_host (s : State) (k : Nat) (f : Team → Team) : (s.modTeam k f).host = s.host := rfl
@[simp] theorem State.modTeam_stag (s : State) (k : Nat) (f : Team → Team) : (s.modTeam k f).stag = s.stag := rfl

@[simp] theorem State.modCore_now (s : State) (k : Nat) (f : CoreSt → CoreSt) : (s.modCore k f).now = s.now := rfl
@[simp] theorem State.modCore_inputs (s : State) (k : Nat) (f : CoreSt → CoreSt) : (s.modCore k f).inputs = s.inputs := rfl
@[simp] theorem State.modCore_curG (s : State) (k : Nat) (f : CoreSt → CoreSt) : (s.modCore k f).curG = s.curG := rfl
@[simp] theorem State.modCore_curS (s : State) (k : Nat) (f : CoreSt → CoreSt) : (s.modCore k f).curS = s.curS := rfl
@[simp] theorem State.modCore_fresh (s : State) (k : Nat) (f : CoreSt → CoreSt) : (s.modCore k f).fresh = s.fresh := rfl
@[simp] theorem State.modCore_nextId (s : State) (k : Nat) (f : CoreSt → CoreSt) : (s.modCore k f).nextId = s.nextId := rfl
@[simp] theorem State.modCore_spent (s : State) (k : Nat) (f : CoreSt → CoreSt) : (s.modCore k f).spent = s.spent := rfl
@[simp] theorem State.modCore_groups (s : State) (k : Nat) (f : CoreSt → CoreSt) : (s.modCore k f).groups = s.groups := rfl
@[simp] theorem State.modCore_teams (s : State) (k : Nat) (f : CoreSt → CoreSt) : (s.modCore k f).teams = s.teams := rfl
@[simp] theorem State.modCore_dies (s : State) (k : Nat) (f : CoreSt → CoreSt) : (s.modCore k f).dies = s.dies := rfl
@[simp] theorem State.modCore_links (s : State) (k : Nat) (f : CoreSt → CoreSt) : (s.modCore k f).links = s.links := rfl
@[simp] theorem State.modCore_launches (s : State) (k : Nat) (f : CoreSt → CoreSt) : (s.modCore k f).launches = s.launches := rfl
@[simp] theorem State.modCore_tables (s : State) (k : Nat) (f : CoreSt → CoreSt) : (s.modCore k f).tables = s.tables := rfl
@[simp] theorem State.modCore_mem (s : State) (k : Nat) (f : CoreSt → CoreSt) : (s.modCore k f).mem = s.mem := rfl
@[simp] theorem State.modCore_writes (s : State) (k : Nat) (f : CoreSt → CoreSt) : (s.modCore k f).writes = s.writes := rfl
@[simp] theorem State.modCore_fills (s : State) (k : Nat) (f : CoreSt → CoreSt) : (s.modCore k f).fills = s.fills := rfl
@[simp] theorem State.modCore_flows (s : State) (k : Nat) (f : CoreSt → CoreSt) : (s.modCore k f).flows = s.flows := rfl
@[simp] theorem State.modCore_score (s : State) (k : Nat) (f : CoreSt → CoreSt) : (s.modCore k f).score = s.score := rfl
@[simp] theorem State.modCore_copies (s : State) (k : Nat) (f : CoreSt → CoreSt) : (s.modCore k f).copies = s.copies := rfl
@[simp] theorem State.modCore_gathers (s : State) (k : Nat) (f : CoreSt → CoreSt) : (s.modCore k f).gathers = s.gathers := rfl
@[simp] theorem State.modCore_mats (s : State) (k : Nat) (f : CoreSt → CoreSt) : (s.modCore k f).mats = s.mats := rfl
@[simp] theorem State.modCore_arrivals (s : State) (k : Nat) (f : CoreSt → CoreSt) : (s.modCore k f).arrivals = s.arrivals := rfl
@[simp] theorem State.modCore_regions (s : State) (k : Nat) (f : CoreSt → CoreSt) : (s.modCore k f).regions = s.regions := rfl
@[simp] theorem State.modCore_edges (s : State) (k : Nat) (f : CoreSt → CoreSt) : (s.modCore k f).edges = s.edges := rfl
@[simp] theorem State.modCore_restores (s : State) (k : Nat) (f : CoreSt → CoreSt) : (s.modCore k f).restores = s.restores := rfl
@[simp] theorem State.modCore_calls (s : State) (k : Nat) (f : CoreSt → CoreSt) : (s.modCore k f).calls = s.calls := rfl
@[simp] theorem State.modCore_channels (s : State) (k : Nat) (f : CoreSt → CoreSt) : (s.modCore k f).channels = s.channels := rfl
@[simp] theorem State.modCore_aphids (s : State) (k : Nat) (f : CoreSt → CoreSt) : (s.modCore k f).aphids = s.aphids := rfl
@[simp] theorem State.modCore_rotate (s : State) (k : Nat) (f : CoreSt → CoreSt) : (s.modCore k f).rotate = s.rotate := rfl
@[simp] theorem State.modCore_dist (s : State) (k : Nat) (f : CoreSt → CoreSt) : (s.modCore k f).dist = s.dist := rfl
@[simp] theorem State.modCore_host (s : State) (k : Nat) (f : CoreSt → CoreSt) : (s.modCore k f).host = s.host := rfl
@[simp] theorem State.modCore_stag (s : State) (k : Nat) (f : CoreSt → CoreSt) : (s.modCore k f).stag = s.stag := rfl

@[simp] theorem State.modDie_now (s : State) (k : Nat) (f : Die → Die) : (s.modDie k f).now = s.now := rfl
@[simp] theorem State.modDie_inputs (s : State) (k : Nat) (f : Die → Die) : (s.modDie k f).inputs = s.inputs := rfl
@[simp] theorem State.modDie_curG (s : State) (k : Nat) (f : Die → Die) : (s.modDie k f).curG = s.curG := rfl
@[simp] theorem State.modDie_curS (s : State) (k : Nat) (f : Die → Die) : (s.modDie k f).curS = s.curS := rfl
@[simp] theorem State.modDie_fresh (s : State) (k : Nat) (f : Die → Die) : (s.modDie k f).fresh = s.fresh := rfl
@[simp] theorem State.modDie_nextId (s : State) (k : Nat) (f : Die → Die) : (s.modDie k f).nextId = s.nextId := rfl
@[simp] theorem State.modDie_spent (s : State) (k : Nat) (f : Die → Die) : (s.modDie k f).spent = s.spent := rfl
@[simp] theorem State.modDie_groups (s : State) (k : Nat) (f : Die → Die) : (s.modDie k f).groups = s.groups := rfl
@[simp] theorem State.modDie_teams (s : State) (k : Nat) (f : Die → Die) : (s.modDie k f).teams = s.teams := rfl
@[simp] theorem State.modDie_cores (s : State) (k : Nat) (f : Die → Die) : (s.modDie k f).cores = s.cores := rfl
@[simp] theorem State.modDie_links (s : State) (k : Nat) (f : Die → Die) : (s.modDie k f).links = s.links := rfl
@[simp] theorem State.modDie_launches (s : State) (k : Nat) (f : Die → Die) : (s.modDie k f).launches = s.launches := rfl
@[simp] theorem State.modDie_tables (s : State) (k : Nat) (f : Die → Die) : (s.modDie k f).tables = s.tables := rfl
@[simp] theorem State.modDie_mem (s : State) (k : Nat) (f : Die → Die) : (s.modDie k f).mem = s.mem := rfl
@[simp] theorem State.modDie_writes (s : State) (k : Nat) (f : Die → Die) : (s.modDie k f).writes = s.writes := rfl
@[simp] theorem State.modDie_fills (s : State) (k : Nat) (f : Die → Die) : (s.modDie k f).fills = s.fills := rfl
@[simp] theorem State.modDie_flows (s : State) (k : Nat) (f : Die → Die) : (s.modDie k f).flows = s.flows := rfl
@[simp] theorem State.modDie_score (s : State) (k : Nat) (f : Die → Die) : (s.modDie k f).score = s.score := rfl
@[simp] theorem State.modDie_copies (s : State) (k : Nat) (f : Die → Die) : (s.modDie k f).copies = s.copies := rfl
@[simp] theorem State.modDie_gathers (s : State) (k : Nat) (f : Die → Die) : (s.modDie k f).gathers = s.gathers := rfl
@[simp] theorem State.modDie_mats (s : State) (k : Nat) (f : Die → Die) : (s.modDie k f).mats = s.mats := rfl
@[simp] theorem State.modDie_arrivals (s : State) (k : Nat) (f : Die → Die) : (s.modDie k f).arrivals = s.arrivals := rfl
@[simp] theorem State.modDie_regions (s : State) (k : Nat) (f : Die → Die) : (s.modDie k f).regions = s.regions := rfl
@[simp] theorem State.modDie_edges (s : State) (k : Nat) (f : Die → Die) : (s.modDie k f).edges = s.edges := rfl
@[simp] theorem State.modDie_restores (s : State) (k : Nat) (f : Die → Die) : (s.modDie k f).restores = s.restores := rfl
@[simp] theorem State.modDie_calls (s : State) (k : Nat) (f : Die → Die) : (s.modDie k f).calls = s.calls := rfl
@[simp] theorem State.modDie_channels (s : State) (k : Nat) (f : Die → Die) : (s.modDie k f).channels = s.channels := rfl
@[simp] theorem State.modDie_aphids (s : State) (k : Nat) (f : Die → Die) : (s.modDie k f).aphids = s.aphids := rfl
@[simp] theorem State.modDie_rotate (s : State) (k : Nat) (f : Die → Die) : (s.modDie k f).rotate = s.rotate := rfl
@[simp] theorem State.modDie_dist (s : State) (k : Nat) (f : Die → Die) : (s.modDie k f).dist = s.dist := rfl
@[simp] theorem State.modDie_host (s : State) (k : Nat) (f : Die → Die) : (s.modDie k f).host = s.host := rfl
@[simp] theorem State.modDie_stag (s : State) (k : Nat) (f : Die → Die) : (s.modDie k f).stag = s.stag := rfl

@[simp] theorem State.modLaunch_now (s : State) (k : Nat) (f : Launch → Launch) : (s.modLaunch k f).now = s.now := rfl
@[simp] theorem State.modLaunch_inputs (s : State) (k : Nat) (f : Launch → Launch) : (s.modLaunch k f).inputs = s.inputs := rfl
@[simp] theorem State.modLaunch_curG (s : State) (k : Nat) (f : Launch → Launch) : (s.modLaunch k f).curG = s.curG := rfl
@[simp] theorem State.modLaunch_curS (s : State) (k : Nat) (f : Launch → Launch) : (s.modLaunch k f).curS = s.curS := rfl
@[simp] theorem State.modLaunch_fresh (s : State) (k : Nat) (f : Launch → Launch) : (s.modLaunch k f).fresh = s.fresh := rfl
@[simp] theorem State.modLaunch_nextId (s : State) (k : Nat) (f : Launch → Launch) : (s.modLaunch k f).nextId = s.nextId := rfl
@[simp] theorem State.modLaunch_spent (s : State) (k : Nat) (f : Launch → Launch) : (s.modLaunch k f).spent = s.spent := rfl
@[simp] theorem State.modLaunch_groups (s : State) (k : Nat) (f : Launch → Launch) : (s.modLaunch k f).groups = s.groups := rfl
@[simp] theorem State.modLaunch_teams (s : State) (k : Nat) (f : Launch → Launch) : (s.modLaunch k f).teams = s.teams := rfl
@[simp] theorem State.modLaunch_cores (s : State) (k : Nat) (f : Launch → Launch) : (s.modLaunch k f).cores = s.cores := rfl
@[simp] theorem State.modLaunch_dies (s : State) (k : Nat) (f : Launch → Launch) : (s.modLaunch k f).dies = s.dies := rfl
@[simp] theorem State.modLaunch_links (s : State) (k : Nat) (f : Launch → Launch) : (s.modLaunch k f).links = s.links := rfl
@[simp] theorem State.modLaunch_tables (s : State) (k : Nat) (f : Launch → Launch) : (s.modLaunch k f).tables = s.tables := rfl
@[simp] theorem State.modLaunch_mem (s : State) (k : Nat) (f : Launch → Launch) : (s.modLaunch k f).mem = s.mem := rfl
@[simp] theorem State.modLaunch_writes (s : State) (k : Nat) (f : Launch → Launch) : (s.modLaunch k f).writes = s.writes := rfl
@[simp] theorem State.modLaunch_fills (s : State) (k : Nat) (f : Launch → Launch) : (s.modLaunch k f).fills = s.fills := rfl
@[simp] theorem State.modLaunch_flows (s : State) (k : Nat) (f : Launch → Launch) : (s.modLaunch k f).flows = s.flows := rfl
@[simp] theorem State.modLaunch_score (s : State) (k : Nat) (f : Launch → Launch) : (s.modLaunch k f).score = s.score := rfl
@[simp] theorem State.modLaunch_copies (s : State) (k : Nat) (f : Launch → Launch) : (s.modLaunch k f).copies = s.copies := rfl
@[simp] theorem State.modLaunch_gathers (s : State) (k : Nat) (f : Launch → Launch) : (s.modLaunch k f).gathers = s.gathers := rfl
@[simp] theorem State.modLaunch_mats (s : State) (k : Nat) (f : Launch → Launch) : (s.modLaunch k f).mats = s.mats := rfl
@[simp] theorem State.modLaunch_arrivals (s : State) (k : Nat) (f : Launch → Launch) : (s.modLaunch k f).arrivals = s.arrivals := rfl
@[simp] theorem State.modLaunch_regions (s : State) (k : Nat) (f : Launch → Launch) : (s.modLaunch k f).regions = s.regions := rfl
@[simp] theorem State.modLaunch_edges (s : State) (k : Nat) (f : Launch → Launch) : (s.modLaunch k f).edges = s.edges := rfl
@[simp] theorem State.modLaunch_restores (s : State) (k : Nat) (f : Launch → Launch) : (s.modLaunch k f).restores = s.restores := rfl
@[simp] theorem State.modLaunch_calls (s : State) (k : Nat) (f : Launch → Launch) : (s.modLaunch k f).calls = s.calls := rfl
@[simp] theorem State.modLaunch_channels (s : State) (k : Nat) (f : Launch → Launch) : (s.modLaunch k f).channels = s.channels := rfl
@[simp] theorem State.modLaunch_aphids (s : State) (k : Nat) (f : Launch → Launch) : (s.modLaunch k f).aphids = s.aphids := rfl
@[simp] theorem State.modLaunch_rotate (s : State) (k : Nat) (f : Launch → Launch) : (s.modLaunch k f).rotate = s.rotate := rfl
@[simp] theorem State.modLaunch_dist (s : State) (k : Nat) (f : Launch → Launch) : (s.modLaunch k f).dist = s.dist := rfl
@[simp] theorem State.modLaunch_host (s : State) (k : Nat) (f : Launch → Launch) : (s.modLaunch k f).host = s.host := rfl
@[simp] theorem State.modLaunch_stag (s : State) (k : Nat) (f : Launch → Launch) : (s.modLaunch k f).stag = s.stag := rfl

@[simp] theorem State.setTable_now (s : State) (k : Nat) (x : Table) : (s.setTable k x).now = s.now := rfl
@[simp] theorem State.setTable_inputs (s : State) (k : Nat) (x : Table) : (s.setTable k x).inputs = s.inputs := rfl
@[simp] theorem State.setTable_curG (s : State) (k : Nat) (x : Table) : (s.setTable k x).curG = s.curG := rfl
@[simp] theorem State.setTable_curS (s : State) (k : Nat) (x : Table) : (s.setTable k x).curS = s.curS := rfl
@[simp] theorem State.setTable_fresh (s : State) (k : Nat) (x : Table) : (s.setTable k x).fresh = s.fresh := rfl
@[simp] theorem State.setTable_nextId (s : State) (k : Nat) (x : Table) : (s.setTable k x).nextId = s.nextId := rfl
@[simp] theorem State.setTable_spent (s : State) (k : Nat) (x : Table) : (s.setTable k x).spent = s.spent := rfl
@[simp] theorem State.setTable_groups (s : State) (k : Nat) (x : Table) : (s.setTable k x).groups = s.groups := rfl
@[simp] theorem State.setTable_teams (s : State) (k : Nat) (x : Table) : (s.setTable k x).teams = s.teams := rfl
@[simp] theorem State.setTable_cores (s : State) (k : Nat) (x : Table) : (s.setTable k x).cores = s.cores := rfl
@[simp] theorem State.setTable_dies (s : State) (k : Nat) (x : Table) : (s.setTable k x).dies = s.dies := rfl
@[simp] theorem State.setTable_links (s : State) (k : Nat) (x : Table) : (s.setTable k x).links = s.links := rfl
@[simp] theorem State.setTable_launches (s : State) (k : Nat) (x : Table) : (s.setTable k x).launches = s.launches := rfl
@[simp] theorem State.setTable_mem (s : State) (k : Nat) (x : Table) : (s.setTable k x).mem = s.mem := rfl
@[simp] theorem State.setTable_writes (s : State) (k : Nat) (x : Table) : (s.setTable k x).writes = s.writes := rfl
@[simp] theorem State.setTable_fills (s : State) (k : Nat) (x : Table) : (s.setTable k x).fills = s.fills := rfl
@[simp] theorem State.setTable_flows (s : State) (k : Nat) (x : Table) : (s.setTable k x).flows = s.flows := rfl
@[simp] theorem State.setTable_score (s : State) (k : Nat) (x : Table) : (s.setTable k x).score = s.score := rfl
@[simp] theorem State.setTable_copies (s : State) (k : Nat) (x : Table) : (s.setTable k x).copies = s.copies := rfl
@[simp] theorem State.setTable_gathers (s : State) (k : Nat) (x : Table) : (s.setTable k x).gathers = s.gathers := rfl
@[simp] theorem State.setTable_mats (s : State) (k : Nat) (x : Table) : (s.setTable k x).mats = s.mats := rfl
@[simp] theorem State.setTable_arrivals (s : State) (k : Nat) (x : Table) : (s.setTable k x).arrivals = s.arrivals := rfl
@[simp] theorem State.setTable_regions (s : State) (k : Nat) (x : Table) : (s.setTable k x).regions = s.regions := rfl
@[simp] theorem State.setTable_edges (s : State) (k : Nat) (x : Table) : (s.setTable k x).edges = s.edges := rfl
@[simp] theorem State.setTable_restores (s : State) (k : Nat) (x : Table) : (s.setTable k x).restores = s.restores := rfl
@[simp] theorem State.setTable_calls (s : State) (k : Nat) (x : Table) : (s.setTable k x).calls = s.calls := rfl
@[simp] theorem State.setTable_channels (s : State) (k : Nat) (x : Table) : (s.setTable k x).channels = s.channels := rfl
@[simp] theorem State.setTable_aphids (s : State) (k : Nat) (x : Table) : (s.setTable k x).aphids = s.aphids := rfl
@[simp] theorem State.setTable_rotate (s : State) (k : Nat) (x : Table) : (s.setTable k x).rotate = s.rotate := rfl
@[simp] theorem State.setTable_dist (s : State) (k : Nat) (x : Table) : (s.setTable k x).dist = s.dist := rfl
@[simp] theorem State.setTable_host (s : State) (k : Nat) (x : Table) : (s.setTable k x).host = s.host := rfl
@[simp] theorem State.setTable_stag (s : State) (k : Nat) (x : Table) : (s.setTable k x).stag = s.stag := rfl

@[simp] theorem State.modMem_now (s : State) (f : Mem → Mem) : (s.modMem f).now = s.now := rfl
@[simp] theorem State.modMem_inputs (s : State) (f : Mem → Mem) : (s.modMem f).inputs = s.inputs := rfl
@[simp] theorem State.modMem_curG (s : State) (f : Mem → Mem) : (s.modMem f).curG = s.curG := rfl
@[simp] theorem State.modMem_curS (s : State) (f : Mem → Mem) : (s.modMem f).curS = s.curS := rfl
@[simp] theorem State.modMem_fresh (s : State) (f : Mem → Mem) : (s.modMem f).fresh = s.fresh := rfl
@[simp] theorem State.modMem_nextId (s : State) (f : Mem → Mem) : (s.modMem f).nextId = s.nextId := rfl
@[simp] theorem State.modMem_spent (s : State) (f : Mem → Mem) : (s.modMem f).spent = s.spent := rfl
@[simp] theorem State.modMem_groups (s : State) (f : Mem → Mem) : (s.modMem f).groups = s.groups := rfl
@[simp] theorem State.modMem_teams (s : State) (f : Mem → Mem) : (s.modMem f).teams = s.teams := rfl
@[simp] theorem State.modMem_cores (s : State) (f : Mem → Mem) : (s.modMem f).cores = s.cores := rfl
@[simp] theorem State.modMem_dies (s : State) (f : Mem → Mem) : (s.modMem f).dies = s.dies := rfl
@[simp] theorem State.modMem_links (s : State) (f : Mem → Mem) : (s.modMem f).links = s.links := rfl
@[simp] theorem State.modMem_launches (s : State) (f : Mem → Mem) : (s.modMem f).launches = s.launches := rfl
@[simp] theorem State.modMem_tables (s : State) (f : Mem → Mem) : (s.modMem f).tables = s.tables := rfl
@[simp] theorem State.modMem_writes (s : State) (f : Mem → Mem) : (s.modMem f).writes = s.writes := rfl
@[simp] theorem State.modMem_fills (s : State) (f : Mem → Mem) : (s.modMem f).fills = s.fills := rfl
@[simp] theorem State.modMem_flows (s : State) (f : Mem → Mem) : (s.modMem f).flows = s.flows := rfl
@[simp] theorem State.modMem_score (s : State) (f : Mem → Mem) : (s.modMem f).score = s.score := rfl
@[simp] theorem State.modMem_copies (s : State) (f : Mem → Mem) : (s.modMem f).copies = s.copies := rfl
@[simp] theorem State.modMem_gathers (s : State) (f : Mem → Mem) : (s.modMem f).gathers = s.gathers := rfl
@[simp] theorem State.modMem_mats (s : State) (f : Mem → Mem) : (s.modMem f).mats = s.mats := rfl
@[simp] theorem State.modMem_arrivals (s : State) (f : Mem → Mem) : (s.modMem f).arrivals = s.arrivals := rfl
@[simp] theorem State.modMem_regions (s : State) (f : Mem → Mem) : (s.modMem f).regions = s.regions := rfl
@[simp] theorem State.modMem_edges (s : State) (f : Mem → Mem) : (s.modMem f).edges = s.edges := rfl
@[simp] theorem State.modMem_restores (s : State) (f : Mem → Mem) : (s.modMem f).restores = s.restores := rfl
@[simp] theorem State.modMem_calls (s : State) (f : Mem → Mem) : (s.modMem f).calls = s.calls := rfl
@[simp] theorem State.modMem_channels (s : State) (f : Mem → Mem) : (s.modMem f).channels = s.channels := rfl
@[simp] theorem State.modMem_aphids (s : State) (f : Mem → Mem) : (s.modMem f).aphids = s.aphids := rfl
@[simp] theorem State.modMem_rotate (s : State) (f : Mem → Mem) : (s.modMem f).rotate = s.rotate := rfl
@[simp] theorem State.modMem_dist (s : State) (f : Mem → Mem) : (s.modMem f).dist = s.dist := rfl
@[simp] theorem State.modMem_host (s : State) (f : Mem → Mem) : (s.modMem f).host = s.host := rfl
@[simp] theorem State.modMem_stag (s : State) (f : Mem → Mem) : (s.modMem f).stag = s.stag := rfl

@[simp] theorem State.next_now (s : State) (n : Nat) : (s.next n).now = s.now := rfl
@[simp] theorem State.next_inputs (s : State) (n : Nat) : (s.next n).inputs = s.inputs := rfl
@[simp] theorem State.next_curG (s : State) (n : Nat) : (s.next n).curG = s.curG := rfl
@[simp] theorem State.next_curS (s : State) (n : Nat) : (s.next n).curS = s.curS := rfl
@[simp] theorem State.next_fresh (s : State) (n : Nat) : (s.next n).fresh = s.fresh := rfl
@[simp] theorem State.next_nextId (s : State) (n : Nat) : (s.next n).nextId = s.nextId := rfl
@[simp] theorem State.next_spent (s : State) (n : Nat) : (s.next n).spent = s.spent := rfl
@[simp] theorem State.next_teams (s : State) (n : Nat) : (s.next n).teams = s.teams := rfl
@[simp] theorem State.next_cores (s : State) (n : Nat) : (s.next n).cores = s.cores := rfl
@[simp] theorem State.next_dies (s : State) (n : Nat) : (s.next n).dies = s.dies := rfl
@[simp] theorem State.next_links (s : State) (n : Nat) : (s.next n).links = s.links := rfl
@[simp] theorem State.next_launches (s : State) (n : Nat) : (s.next n).launches = s.launches := rfl
@[simp] theorem State.next_tables (s : State) (n : Nat) : (s.next n).tables = s.tables := rfl
@[simp] theorem State.next_mem (s : State) (n : Nat) : (s.next n).mem = s.mem := rfl
@[simp] theorem State.next_writes (s : State) (n : Nat) : (s.next n).writes = s.writes := rfl
@[simp] theorem State.next_fills (s : State) (n : Nat) : (s.next n).fills = s.fills := rfl
@[simp] theorem State.next_flows (s : State) (n : Nat) : (s.next n).flows = s.flows := rfl
@[simp] theorem State.next_score (s : State) (n : Nat) : (s.next n).score = s.score := rfl
@[simp] theorem State.next_copies (s : State) (n : Nat) : (s.next n).copies = s.copies := rfl
@[simp] theorem State.next_gathers (s : State) (n : Nat) : (s.next n).gathers = s.gathers := rfl
@[simp] theorem State.next_mats (s : State) (n : Nat) : (s.next n).mats = s.mats := rfl
@[simp] theorem State.next_arrivals (s : State) (n : Nat) : (s.next n).arrivals = s.arrivals := rfl
@[simp] theorem State.next_regions (s : State) (n : Nat) : (s.next n).regions = s.regions := rfl
@[simp] theorem State.next_edges (s : State) (n : Nat) : (s.next n).edges = s.edges := rfl
@[simp] theorem State.next_restores (s : State) (n : Nat) : (s.next n).restores = s.restores := rfl
@[simp] theorem State.next_calls (s : State) (n : Nat) : (s.next n).calls = s.calls := rfl
@[simp] theorem State.next_channels (s : State) (n : Nat) : (s.next n).channels = s.channels := rfl
@[simp] theorem State.next_aphids (s : State) (n : Nat) : (s.next n).aphids = s.aphids := rfl
@[simp] theorem State.next_rotate (s : State) (n : Nat) : (s.next n).rotate = s.rotate := rfl
@[simp] theorem State.next_dist (s : State) (n : Nat) : (s.next n).dist = s.dist := rfl
@[simp] theorem State.next_host (s : State) (n : Nat) : (s.next n).host = s.host := rfl
@[simp] theorem State.next_stag (s : State) (n : Nat) : (s.next n).stag = s.stag := rfl

@[simp] theorem State.modCur_now (s : State) (f : Group → Group) : (s.modCur f).now = s.now := rfl
@[simp] theorem State.modCur_inputs (s : State) (f : Group → Group) : (s.modCur f).inputs = s.inputs := rfl
@[simp] theorem State.modCur_curG (s : State) (f : Group → Group) : (s.modCur f).curG = s.curG := rfl
@[simp] theorem State.modCur_curS (s : State) (f : Group → Group) : (s.modCur f).curS = s.curS := rfl
@[simp] theorem State.modCur_fresh (s : State) (f : Group → Group) : (s.modCur f).fresh = s.fresh := rfl
@[simp] theorem State.modCur_nextId (s : State) (f : Group → Group) : (s.modCur f).nextId = s.nextId := rfl
@[simp] theorem State.modCur_spent (s : State) (f : Group → Group) : (s.modCur f).spent = s.spent := rfl
@[simp] theorem State.modCur_teams (s : State) (f : Group → Group) : (s.modCur f).teams = s.teams := rfl
@[simp] theorem State.modCur_cores (s : State) (f : Group → Group) : (s.modCur f).cores = s.cores := rfl
@[simp] theorem State.modCur_dies (s : State) (f : Group → Group) : (s.modCur f).dies = s.dies := rfl
@[simp] theorem State.modCur_links (s : State) (f : Group → Group) : (s.modCur f).links = s.links := rfl
@[simp] theorem State.modCur_launches (s : State) (f : Group → Group) : (s.modCur f).launches = s.launches := rfl
@[simp] theorem State.modCur_tables (s : State) (f : Group → Group) : (s.modCur f).tables = s.tables := rfl
@[simp] theorem State.modCur_mem (s : State) (f : Group → Group) : (s.modCur f).mem = s.mem := rfl
@[simp] theorem State.modCur_writes (s : State) (f : Group → Group) : (s.modCur f).writes = s.writes := rfl
@[simp] theorem State.modCur_fills (s : State) (f : Group → Group) : (s.modCur f).fills = s.fills := rfl
@[simp] theorem State.modCur_flows (s : State) (f : Group → Group) : (s.modCur f).flows = s.flows := rfl
@[simp] theorem State.modCur_score (s : State) (f : Group → Group) : (s.modCur f).score = s.score := rfl
@[simp] theorem State.modCur_copies (s : State) (f : Group → Group) : (s.modCur f).copies = s.copies := rfl
@[simp] theorem State.modCur_gathers (s : State) (f : Group → Group) : (s.modCur f).gathers = s.gathers := rfl
@[simp] theorem State.modCur_mats (s : State) (f : Group → Group) : (s.modCur f).mats = s.mats := rfl
@[simp] theorem State.modCur_arrivals (s : State) (f : Group → Group) : (s.modCur f).arrivals = s.arrivals := rfl
@[simp] theorem State.modCur_regions (s : State) (f : Group → Group) : (s.modCur f).regions = s.regions := rfl
@[simp] theorem State.modCur_edges (s : State) (f : Group → Group) : (s.modCur f).edges = s.edges := rfl
@[simp] theorem State.modCur_restores (s : State) (f : Group → Group) : (s.modCur f).restores = s.restores := rfl
@[simp] theorem State.modCur_calls (s : State) (f : Group → Group) : (s.modCur f).calls = s.calls := rfl
@[simp] theorem State.modCur_channels (s : State) (f : Group → Group) : (s.modCur f).channels = s.channels := rfl
@[simp] theorem State.modCur_aphids (s : State) (f : Group → Group) : (s.modCur f).aphids = s.aphids := rfl
@[simp] theorem State.modCur_rotate (s : State) (f : Group → Group) : (s.modCur f).rotate = s.rotate := rfl
@[simp] theorem State.modCur_dist (s : State) (f : Group → Group) : (s.modCur f).dist = s.dist := rfl
@[simp] theorem State.modCur_host (s : State) (f : Group → Group) : (s.modCur f).host = s.host := rfl
@[simp] theorem State.modCur_stag (s : State) (f : Group → Group) : (s.modCur f).stag = s.stag := rfl

/-! ### Slots and paths of a group -/

@[simp] theorem Group.setSlot_v (g : Group) (b : Bool) (x : Slot) : (g.setSlot b x).v = g.v := by
  cases b <;> rfl
@[simp] theorem Group.setSlot_g (g : Group) (b : Bool) (x : Slot) : (g.setSlot b x).g = g.g := by
  cases b <;> rfl
@[simp] theorem Group.setSlot_emptyV (g : Group) (b : Bool) (x : Slot) : (g.setSlot b x).emptyV = g.emptyV := by
  cases b <;> rfl
@[simp] theorem Group.setSlot_emptyG (g : Group) (b : Bool) (x : Slot) : (g.setSlot b x).emptyG = g.emptyG := by
  cases b <;> rfl
@[simp] theorem Group.setSlot_poisonV (g : Group) (b : Bool) (x : Slot) : (g.setSlot b x).poisonV = g.poisonV := by
  cases b <;> rfl
@[simp] theorem Group.setSlot_poisonG (g : Group) (b : Bool) (x : Slot) : (g.setSlot b x).poisonG = g.poisonG := by
  cases b <;> rfl
@[simp] theorem Group.setSlot_marks (g : Group) (b : Bool) (x : Slot) : (g.setSlot b x).marks = g.marks := by
  cases b <;> rfl
@[simp] theorem Group.setSlot_last1 (g : Group) (b : Bool) (x : Slot) : (g.setSlot b x).last1 = g.last1 := by
  cases b <;> rfl
@[simp] theorem Group.setSlot_stack (g : Group) (b : Bool) (x : Slot) : (g.setSlot b x).stack = g.stack := by
  cases b <;> rfl
@[simp] theorem Group.setSlot_preds (g : Group) (b : Bool) (x : Slot) : (g.setSlot b x).preds = g.preds := by
  cases b <;> rfl
@[simp] theorem Group.setSlot_fpst (g : Group) (b : Bool) (x : Slot) : (g.setSlot b x).fpst = g.fpst := by
  cases b <;> rfl
@[simp] theorem Group.setSlot_rcto (g : Group) (b : Bool) (x : Slot) : (g.setSlot b x).rcto = g.rcto := by
  cases b <;> rfl
@[simp] theorem Group.setSlot_pch (g : Group) (b : Bool) (x : Slot) : (g.setSlot b x).pch = g.pch := by
  cases b <;> rfl
@[simp] theorem Group.setSlot_busy (g : Group) (b : Bool) (x : Slot) : (g.setSlot b x).busy = g.busy := by
  cases b <;> rfl
@[simp] theorem Group.setSlot_uwc (g : Group) (b : Bool) (x : Slot) : (g.setSlot b x).uwc = g.uwc := by
  cases b <;> rfl
@[simp] theorem Group.setSlot_copyBatch (g : Group) (b : Bool) (x : Slot) : (g.setSlot b x).copyBatch = g.copyBatch := by
  cases b <;> rfl
@[simp] theorem Group.setSlot_copySealed (g : Group) (b : Bool) (x : Slot) : (g.setSlot b x).copySealed = g.copySealed := by
  cases b <;> rfl
@[simp] theorem Group.setSlot_matBatch (g : Group) (b : Bool) (x : Slot) : (g.setSlot b x).matBatch = g.matBatch := by
  cases b <;> rfl
@[simp] theorem Group.setSlot_matSealed (g : Group) (b : Bool) (x : Slot) : (g.setSlot b x).matSealed = g.matSealed := by
  cases b <;> rfl
@[simp] theorem Group.setSlot_regCode (g : Group) (b : Bool) (x : Slot) : (g.setSlot b x).regCode = g.regCode := by
  cases b <;> rfl
@[simp] theorem Group.setSlot_regAborts (g : Group) (b : Bool) (x : Slot) : (g.setSlot b x).regAborts = g.regAborts := by
  cases b <;> rfl
@[simp] theorem Group.setSlot_trapLive (g : Group) (b : Bool) (x : Slot) : (g.setSlot b x).trapLive = g.trapLive := by
  cases b <;> rfl
@[simp] theorem Group.setSlot_preLive (g : Group) (b : Bool) (x : Slot) : (g.setSlot b x).preLive = g.preLive := by
  cases b <;> rfl
@[simp] theorem Group.setSlot_preLast (g : Group) (b : Bool) (x : Slot) : (g.setSlot b x).preLast = g.preLast := by
  cases b <;> rfl
@[simp] theorem Group.setSlot_window (g : Group) (b : Bool) (x : Slot) : (g.setSlot b x).window = g.window := by
  cases b <;> rfl
@[simp] theorem Group.setSlot_callSeq (g : Group) (b : Bool) (x : Slot) : (g.setSlot b x).callSeq = g.callSeq := by
  cases b <;> rfl
@[simp] theorem Group.setSlot_status (g : Group) (b : Bool) (x : Slot) : (g.setSlot b x).status = g.status := by
  cases b <;> rfl
@[simp] theorem Group.setSlot_signal (g : Group) (b : Bool) (x : Slot) : (g.setSlot b x).signal = g.signal := by
  cases b <;> rfl
@[simp] theorem Group.setSlot_resuming (g : Group) (b : Bool) (x : Slot) : (g.setSlot b x).resuming = g.resuming := by
  cases b <;> rfl
@[simp] theorem Group.setSlot_arms (g : Group) (b : Bool) (x : Slot) : (g.setSlot b x).arms = g.arms := by
  cases b <;> rfl
@[simp] theorem Group.setSlot_barWait (g : Group) (b : Bool) (x : Slot) : (g.setSlot b x).barWait = g.barWait := by
  cases b <;> rfl
@[simp] theorem Group.setSlot_entering (g : Group) (b : Bool) (x : Slot) : (g.setSlot b x).entering = g.entering := by
  cases b <;> rfl

@[simp] theorem Group.modPath_v (g : Group) (b : Bool) (f : Path → Path) :
    (g.modPath b f).v = g.v := by cases b <;> rfl
@[simp] theorem Group.modPath_g (g : Group) (b : Bool) (f : Path → Path) :
    (g.modPath b f).g = g.g := by cases b <;> rfl
@[simp] theorem Group.modPath_emptyV (g : Group) (b : Bool) (f : Path → Path) :
    (g.modPath b f).emptyV = g.emptyV := by cases b <;> rfl
@[simp] theorem Group.modPath_emptyG (g : Group) (b : Bool) (f : Path → Path) :
    (g.modPath b f).emptyG = g.emptyG := by cases b <;> rfl
@[simp] theorem Group.modPath_poisonV (g : Group) (b : Bool) (f : Path → Path) :
    (g.modPath b f).poisonV = g.poisonV := by cases b <;> rfl
@[simp] theorem Group.modPath_poisonG (g : Group) (b : Bool) (f : Path → Path) :
    (g.modPath b f).poisonG = g.poisonG := by cases b <;> rfl
@[simp] theorem Group.modPath_marks (g : Group) (b : Bool) (f : Path → Path) :
    (g.modPath b f).marks = g.marks := by cases b <;> rfl
@[simp] theorem Group.modPath_last1 (g : Group) (b : Bool) (f : Path → Path) :
    (g.modPath b f).last1 = g.last1 := by cases b <;> rfl
@[simp] theorem Group.modPath_stack (g : Group) (b : Bool) (f : Path → Path) :
    (g.modPath b f).stack = g.stack := by cases b <;> rfl
@[simp] theorem Group.modPath_preds (g : Group) (b : Bool) (f : Path → Path) :
    (g.modPath b f).preds = g.preds := by cases b <;> rfl
@[simp] theorem Group.modPath_fpst (g : Group) (b : Bool) (f : Path → Path) :
    (g.modPath b f).fpst = g.fpst := by cases b <;> rfl
@[simp] theorem Group.modPath_rcto (g : Group) (b : Bool) (f : Path → Path) :
    (g.modPath b f).rcto = g.rcto := by cases b <;> rfl
@[simp] theorem Group.modPath_pch (g : Group) (b : Bool) (f : Path → Path) :
    (g.modPath b f).pch = g.pch := by cases b <;> rfl
@[simp] theorem Group.modPath_busy (g : Group) (b : Bool) (f : Path → Path) :
    (g.modPath b f).busy = g.busy := by cases b <;> rfl
@[simp] theorem Group.modPath_uwc (g : Group) (b : Bool) (f : Path → Path) :
    (g.modPath b f).uwc = g.uwc := by cases b <;> rfl
@[simp] theorem Group.modPath_copyBatch (g : Group) (b : Bool) (f : Path → Path) :
    (g.modPath b f).copyBatch = g.copyBatch := by cases b <;> rfl
@[simp] theorem Group.modPath_copySealed (g : Group) (b : Bool) (f : Path → Path) :
    (g.modPath b f).copySealed = g.copySealed := by cases b <;> rfl
@[simp] theorem Group.modPath_matBatch (g : Group) (b : Bool) (f : Path → Path) :
    (g.modPath b f).matBatch = g.matBatch := by cases b <;> rfl
@[simp] theorem Group.modPath_matSealed (g : Group) (b : Bool) (f : Path → Path) :
    (g.modPath b f).matSealed = g.matSealed := by cases b <;> rfl
@[simp] theorem Group.modPath_regCode (g : Group) (b : Bool) (f : Path → Path) :
    (g.modPath b f).regCode = g.regCode := by cases b <;> rfl
@[simp] theorem Group.modPath_regAborts (g : Group) (b : Bool) (f : Path → Path) :
    (g.modPath b f).regAborts = g.regAborts := by cases b <;> rfl
@[simp] theorem Group.modPath_trapLive (g : Group) (b : Bool) (f : Path → Path) :
    (g.modPath b f).trapLive = g.trapLive := by cases b <;> rfl
@[simp] theorem Group.modPath_preLive (g : Group) (b : Bool) (f : Path → Path) :
    (g.modPath b f).preLive = g.preLive := by cases b <;> rfl
@[simp] theorem Group.modPath_preLast (g : Group) (b : Bool) (f : Path → Path) :
    (g.modPath b f).preLast = g.preLast := by cases b <;> rfl
@[simp] theorem Group.modPath_window (g : Group) (b : Bool) (f : Path → Path) :
    (g.modPath b f).window = g.window := by cases b <;> rfl
@[simp] theorem Group.modPath_callSeq (g : Group) (b : Bool) (f : Path → Path) :
    (g.modPath b f).callSeq = g.callSeq := by cases b <;> rfl
@[simp] theorem Group.modPath_status (g : Group) (b : Bool) (f : Path → Path) :
    (g.modPath b f).status = g.status := by cases b <;> rfl
@[simp] theorem Group.modPath_signal (g : Group) (b : Bool) (f : Path → Path) :
    (g.modPath b f).signal = g.signal := by cases b <;> rfl
@[simp] theorem Group.modPath_resuming (g : Group) (b : Bool) (f : Path → Path) :
    (g.modPath b f).resuming = g.resuming := by cases b <;> rfl
@[simp] theorem Group.modPath_arms (g : Group) (b : Bool) (f : Path → Path) :
    (g.modPath b f).arms = g.arms := by cases b <;> rfl
@[simp] theorem Group.modPath_barWait (g : Group) (b : Bool) (f : Path → Path) :
    (g.modPath b f).barWait = g.barWait := by cases b <;> rfl
@[simp] theorem Group.modPath_entering (g : Group) (b : Bool) (f : Path → Path) :
    (g.modPath b f).entering = g.entering := by cases b <;> rfl

@[simp] theorem Group.next_v (g : Group) (b : Bool) (n : Nat) : (g.next b n).v = g.v := by
  cases b <;> rfl
@[simp] theorem Group.next_g (g : Group) (b : Bool) (n : Nat) : (g.next b n).g = g.g := by
  cases b <;> rfl
@[simp] theorem Group.next_emptyV (g : Group) (b : Bool) (n : Nat) : (g.next b n).emptyV = g.emptyV := by
  cases b <;> rfl
@[simp] theorem Group.next_emptyG (g : Group) (b : Bool) (n : Nat) : (g.next b n).emptyG = g.emptyG := by
  cases b <;> rfl
@[simp] theorem Group.next_poisonV (g : Group) (b : Bool) (n : Nat) : (g.next b n).poisonV = g.poisonV := by
  cases b <;> rfl
@[simp] theorem Group.next_poisonG (g : Group) (b : Bool) (n : Nat) : (g.next b n).poisonG = g.poisonG := by
  cases b <;> rfl
@[simp] theorem Group.next_marks (g : Group) (b : Bool) (n : Nat) : (g.next b n).marks = g.marks := by
  cases b <;> rfl
@[simp] theorem Group.next_last1 (g : Group) (b : Bool) (n : Nat) : (g.next b n).last1 = g.last1 := by
  cases b <;> rfl
@[simp] theorem Group.next_stack (g : Group) (b : Bool) (n : Nat) : (g.next b n).stack = g.stack := by
  cases b <;> rfl
@[simp] theorem Group.next_preds (g : Group) (b : Bool) (n : Nat) : (g.next b n).preds = g.preds := by
  cases b <;> rfl
@[simp] theorem Group.next_fpst (g : Group) (b : Bool) (n : Nat) : (g.next b n).fpst = g.fpst := by
  cases b <;> rfl
@[simp] theorem Group.next_rcto (g : Group) (b : Bool) (n : Nat) : (g.next b n).rcto = g.rcto := by
  cases b <;> rfl
@[simp] theorem Group.next_pch (g : Group) (b : Bool) (n : Nat) : (g.next b n).pch = g.pch := by
  cases b <;> rfl
@[simp] theorem Group.next_busy (g : Group) (b : Bool) (n : Nat) : (g.next b n).busy = g.busy := by
  cases b <;> rfl
@[simp] theorem Group.next_uwc (g : Group) (b : Bool) (n : Nat) : (g.next b n).uwc = g.uwc := by
  cases b <;> rfl
@[simp] theorem Group.next_copyBatch (g : Group) (b : Bool) (n : Nat) : (g.next b n).copyBatch = g.copyBatch := by
  cases b <;> rfl
@[simp] theorem Group.next_copySealed (g : Group) (b : Bool) (n : Nat) : (g.next b n).copySealed = g.copySealed := by
  cases b <;> rfl
@[simp] theorem Group.next_matBatch (g : Group) (b : Bool) (n : Nat) : (g.next b n).matBatch = g.matBatch := by
  cases b <;> rfl
@[simp] theorem Group.next_matSealed (g : Group) (b : Bool) (n : Nat) : (g.next b n).matSealed = g.matSealed := by
  cases b <;> rfl
@[simp] theorem Group.next_regCode (g : Group) (b : Bool) (n : Nat) : (g.next b n).regCode = g.regCode := by
  cases b <;> rfl
@[simp] theorem Group.next_regAborts (g : Group) (b : Bool) (n : Nat) : (g.next b n).regAborts = g.regAborts := by
  cases b <;> rfl
@[simp] theorem Group.next_trapLive (g : Group) (b : Bool) (n : Nat) : (g.next b n).trapLive = g.trapLive := by
  cases b <;> rfl
@[simp] theorem Group.next_preLive (g : Group) (b : Bool) (n : Nat) : (g.next b n).preLive = g.preLive := by
  cases b <;> rfl
@[simp] theorem Group.next_preLast (g : Group) (b : Bool) (n : Nat) : (g.next b n).preLast = g.preLast := by
  cases b <;> rfl
@[simp] theorem Group.next_window (g : Group) (b : Bool) (n : Nat) : (g.next b n).window = g.window := by
  cases b <;> rfl
@[simp] theorem Group.next_callSeq (g : Group) (b : Bool) (n : Nat) : (g.next b n).callSeq = g.callSeq := by
  cases b <;> rfl
@[simp] theorem Group.next_status (g : Group) (b : Bool) (n : Nat) : (g.next b n).status = g.status := by
  cases b <;> rfl
@[simp] theorem Group.next_signal (g : Group) (b : Bool) (n : Nat) : (g.next b n).signal = g.signal := by
  cases b <;> rfl
@[simp] theorem Group.next_resuming (g : Group) (b : Bool) (n : Nat) : (g.next b n).resuming = g.resuming := by
  cases b <;> rfl
@[simp] theorem Group.next_arms (g : Group) (b : Bool) (n : Nat) : (g.next b n).arms = g.arms := by
  cases b <;> rfl
@[simp] theorem Group.next_barWait (g : Group) (b : Bool) (n : Nat) : (g.next b n).barWait = g.barWait := by
  cases b <;> rfl
@[simp] theorem Group.next_entering (g : Group) (b : Bool) (n : Nat) : (g.next b n).entering = g.entering := by
  cases b <;> rfl

/-! ### Registers of a group -/

@[simp] theorem Group.setV_g (g : Group) (m : LaneSet) (r : Nat) (f : Nat → W32) :
    (g.setV m r f).g = g.g := rfl
@[simp] theorem Group.setV_emptyG (g : Group) (m : LaneSet) (r : Nat) (f : Nat → W32) :
    (g.setV m r f).emptyG = g.emptyG := rfl
@[simp] theorem Group.setV_poisonG (g : Group) (m : LaneSet) (r : Nat) (f : Nat → W32) :
    (g.setV m r f).poisonG = g.poisonG := rfl
@[simp] theorem Group.setV_s0 (g : Group) (m : LaneSet) (r : Nat) (f : Nat → W32) :
    (g.setV m r f).s0 = g.s0 := rfl
@[simp] theorem Group.setV_s1 (g : Group) (m : LaneSet) (r : Nat) (f : Nat → W32) :
    (g.setV m r f).s1 = g.s1 := rfl
@[simp] theorem Group.setV_last1 (g : Group) (m : LaneSet) (r : Nat) (f : Nat → W32) :
    (g.setV m r f).last1 = g.last1 := rfl
@[simp] theorem Group.setV_stack (g : Group) (m : LaneSet) (r : Nat) (f : Nat → W32) :
    (g.setV m r f).stack = g.stack := rfl
@[simp] theorem Group.setV_preds (g : Group) (m : LaneSet) (r : Nat) (f : Nat → W32) :
    (g.setV m r f).preds = g.preds := rfl
@[simp] theorem Group.setV_fpst (g : Group) (m : LaneSet) (r : Nat) (f : Nat → W32) :
    (g.setV m r f).fpst = g.fpst := rfl
@[simp] theorem Group.setV_rcto (g : Group) (m : LaneSet) (r : Nat) (f : Nat → W32) :
    (g.setV m r f).rcto = g.rcto := rfl
@[simp] theorem Group.setV_pch (g : Group) (m : LaneSet) (r : Nat) (f : Nat → W32) :
    (g.setV m r f).pch = g.pch := rfl
@[simp] theorem Group.setV_busy (g : Group) (m : LaneSet) (r : Nat) (f : Nat → W32) :
    (g.setV m r f).busy = g.busy := rfl
@[simp] theorem Group.setV_uwc (g : Group) (m : LaneSet) (r : Nat) (f : Nat → W32) :
    (g.setV m r f).uwc = g.uwc := rfl
@[simp] theorem Group.setV_copyBatch (g : Group) (m : LaneSet) (r : Nat) (f : Nat → W32) :
    (g.setV m r f).copyBatch = g.copyBatch := rfl
@[simp] theorem Group.setV_copySealed (g : Group) (m : LaneSet) (r : Nat) (f : Nat → W32) :
    (g.setV m r f).copySealed = g.copySealed := rfl
@[simp] theorem Group.setV_matBatch (g : Group) (m : LaneSet) (r : Nat) (f : Nat → W32) :
    (g.setV m r f).matBatch = g.matBatch := rfl
@[simp] theorem Group.setV_matSealed (g : Group) (m : LaneSet) (r : Nat) (f : Nat → W32) :
    (g.setV m r f).matSealed = g.matSealed := rfl
@[simp] theorem Group.setV_regCode (g : Group) (m : LaneSet) (r : Nat) (f : Nat → W32) :
    (g.setV m r f).regCode = g.regCode := rfl
@[simp] theorem Group.setV_regAborts (g : Group) (m : LaneSet) (r : Nat) (f : Nat → W32) :
    (g.setV m r f).regAborts = g.regAborts := rfl
@[simp] theorem Group.setV_trapLive (g : Group) (m : LaneSet) (r : Nat) (f : Nat → W32) :
    (g.setV m r f).trapLive = g.trapLive := rfl
@[simp] theorem Group.setV_preLive (g : Group) (m : LaneSet) (r : Nat) (f : Nat → W32) :
    (g.setV m r f).preLive = g.preLive := rfl
@[simp] theorem Group.setV_preLast (g : Group) (m : LaneSet) (r : Nat) (f : Nat → W32) :
    (g.setV m r f).preLast = g.preLast := rfl
@[simp] theorem Group.setV_window (g : Group) (m : LaneSet) (r : Nat) (f : Nat → W32) :
    (g.setV m r f).window = g.window := rfl
@[simp] theorem Group.setV_callSeq (g : Group) (m : LaneSet) (r : Nat) (f : Nat → W32) :
    (g.setV m r f).callSeq = g.callSeq := rfl
@[simp] theorem Group.setV_status (g : Group) (m : LaneSet) (r : Nat) (f : Nat → W32) :
    (g.setV m r f).status = g.status := rfl
@[simp] theorem Group.setV_signal (g : Group) (m : LaneSet) (r : Nat) (f : Nat → W32) :
    (g.setV m r f).signal = g.signal := rfl
@[simp] theorem Group.setV_resuming (g : Group) (m : LaneSet) (r : Nat) (f : Nat → W32) :
    (g.setV m r f).resuming = g.resuming := rfl
@[simp] theorem Group.setV_arms (g : Group) (m : LaneSet) (r : Nat) (f : Nat → W32) :
    (g.setV m r f).arms = g.arms := rfl
@[simp] theorem Group.setV_barWait (g : Group) (m : LaneSet) (r : Nat) (f : Nat → W32) :
    (g.setV m r f).barWait = g.barWait := rfl
@[simp] theorem Group.setV_entering (g : Group) (m : LaneSet) (r : Nat) (f : Nat → W32) :
    (g.setV m r f).entering = g.entering := rfl

@[simp] theorem Group.setG_v (g : Group) (b : Bool) (r : Nat) (x : W64) :
    (g.setG b r x).v = g.v := by
  unfold Group.setG
  split
  · simp
  · rfl
@[simp] theorem Group.setG_emptyV (g : Group) (b : Bool) (r : Nat) (x : W64) :
    (g.setG b r x).emptyV = g.emptyV := by
  unfold Group.setG
  split
  · simp
  · rfl
@[simp] theorem Group.setG_poisonV (g : Group) (b : Bool) (r : Nat) (x : W64) :
    (g.setG b r x).poisonV = g.poisonV := by
  unfold Group.setG
  split
  · simp
  · rfl
@[simp] theorem Group.setG_last1 (g : Group) (b : Bool) (r : Nat) (x : W64) :
    (g.setG b r x).last1 = g.last1 := by
  unfold Group.setG
  split
  · simp
  · rfl
@[simp] theorem Group.setG_stack (g : Group) (b : Bool) (r : Nat) (x : W64) :
    (g.setG b r x).stack = g.stack := by
  unfold Group.setG
  split
  · simp
  · rfl
@[simp] theorem Group.setG_preds (g : Group) (b : Bool) (r : Nat) (x : W64) :
    (g.setG b r x).preds = g.preds := by
  unfold Group.setG
  split
  · simp
  · rfl
@[simp] theorem Group.setG_fpst (g : Group) (b : Bool) (r : Nat) (x : W64) :
    (g.setG b r x).fpst = g.fpst := by
  unfold Group.setG
  split
  · simp
  · rfl
@[simp] theorem Group.setG_rcto (g : Group) (b : Bool) (r : Nat) (x : W64) :
    (g.setG b r x).rcto = g.rcto := by
  unfold Group.setG
  split
  · simp
  · rfl
@[simp] theorem Group.setG_pch (g : Group) (b : Bool) (r : Nat) (x : W64) :
    (g.setG b r x).pch = g.pch := by
  unfold Group.setG
  split
  · simp
  · rfl
@[simp] theorem Group.setG_busy (g : Group) (b : Bool) (r : Nat) (x : W64) :
    (g.setG b r x).busy = g.busy := by
  unfold Group.setG
  split
  · simp
  · rfl
@[simp] theorem Group.setG_uwc (g : Group) (b : Bool) (r : Nat) (x : W64) :
    (g.setG b r x).uwc = g.uwc := by
  unfold Group.setG
  split
  · simp
  · rfl
@[simp] theorem Group.setG_copyBatch (g : Group) (b : Bool) (r : Nat) (x : W64) :
    (g.setG b r x).copyBatch = g.copyBatch := by
  unfold Group.setG
  split
  · simp
  · rfl
@[simp] theorem Group.setG_copySealed (g : Group) (b : Bool) (r : Nat) (x : W64) :
    (g.setG b r x).copySealed = g.copySealed := by
  unfold Group.setG
  split
  · simp
  · rfl
@[simp] theorem Group.setG_matBatch (g : Group) (b : Bool) (r : Nat) (x : W64) :
    (g.setG b r x).matBatch = g.matBatch := by
  unfold Group.setG
  split
  · simp
  · rfl
@[simp] theorem Group.setG_matSealed (g : Group) (b : Bool) (r : Nat) (x : W64) :
    (g.setG b r x).matSealed = g.matSealed := by
  unfold Group.setG
  split
  · simp
  · rfl
@[simp] theorem Group.setG_regCode (g : Group) (b : Bool) (r : Nat) (x : W64) :
    (g.setG b r x).regCode = g.regCode := by
  unfold Group.setG
  split
  · simp
  · rfl
@[simp] theorem Group.setG_regAborts (g : Group) (b : Bool) (r : Nat) (x : W64) :
    (g.setG b r x).regAborts = g.regAborts := by
  unfold Group.setG
  split
  · simp
  · rfl
@[simp] theorem Group.setG_trapLive (g : Group) (b : Bool) (r : Nat) (x : W64) :
    (g.setG b r x).trapLive = g.trapLive := by
  unfold Group.setG
  split
  · simp
  · rfl
@[simp] theorem Group.setG_preLive (g : Group) (b : Bool) (r : Nat) (x : W64) :
    (g.setG b r x).preLive = g.preLive := by
  unfold Group.setG
  split
  · simp
  · rfl
@[simp] theorem Group.setG_preLast (g : Group) (b : Bool) (r : Nat) (x : W64) :
    (g.setG b r x).preLast = g.preLast := by
  unfold Group.setG
  split
  · simp
  · rfl
@[simp] theorem Group.setG_window (g : Group) (b : Bool) (r : Nat) (x : W64) :
    (g.setG b r x).window = g.window := by
  unfold Group.setG
  split
  · simp
  · rfl
@[simp] theorem Group.setG_callSeq (g : Group) (b : Bool) (r : Nat) (x : W64) :
    (g.setG b r x).callSeq = g.callSeq := by
  unfold Group.setG
  split
  · simp
  · rfl
@[simp] theorem Group.setG_status (g : Group) (b : Bool) (r : Nat) (x : W64) :
    (g.setG b r x).status = g.status := by
  unfold Group.setG
  split
  · simp
  · rfl
@[simp] theorem Group.setG_signal (g : Group) (b : Bool) (r : Nat) (x : W64) :
    (g.setG b r x).signal = g.signal := by
  unfold Group.setG
  split
  · simp
  · rfl
@[simp] theorem Group.setG_resuming (g : Group) (b : Bool) (r : Nat) (x : W64) :
    (g.setG b r x).resuming = g.resuming := by
  unfold Group.setG
  split
  · simp
  · rfl
@[simp] theorem Group.setG_arms (g : Group) (b : Bool) (r : Nat) (x : W64) :
    (g.setG b r x).arms = g.arms := by
  unfold Group.setG
  split
  · simp
  · rfl
@[simp] theorem Group.setG_barWait (g : Group) (b : Bool) (r : Nat) (x : W64) :
    (g.setG b r x).barWait = g.barWait := by
  unfold Group.setG
  split
  · simp
  · rfl
@[simp] theorem Group.setG_entering (g : Group) (b : Bool) (r : Nat) (x : W64) :
    (g.setG b r x).entering = g.entering := by
  unfold Group.setG
  split
  · simp
  · rfl

@[simp] theorem Group.raise_v (g : Group) (x : Flags) : (g.raise x).v = g.v := rfl
@[simp] theorem Group.raise_g (g : Group) (x : Flags) : (g.raise x).g = g.g := rfl
@[simp] theorem Group.raise_emptyV (g : Group) (x : Flags) : (g.raise x).emptyV = g.emptyV := rfl
@[simp] theorem Group.raise_emptyG (g : Group) (x : Flags) : (g.raise x).emptyG = g.emptyG := rfl
@[simp] theorem Group.raise_poisonV (g : Group) (x : Flags) : (g.raise x).poisonV = g.poisonV := rfl
@[simp] theorem Group.raise_poisonG (g : Group) (x : Flags) : (g.raise x).poisonG = g.poisonG := rfl
@[simp] theorem Group.raise_marks (g : Group) (x : Flags) : (g.raise x).marks = g.marks := rfl
@[simp] theorem Group.raise_s0 (g : Group) (x : Flags) : (g.raise x).s0 = g.s0 := rfl
@[simp] theorem Group.raise_s1 (g : Group) (x : Flags) : (g.raise x).s1 = g.s1 := rfl
@[simp] theorem Group.raise_last1 (g : Group) (x : Flags) : (g.raise x).last1 = g.last1 := rfl
@[simp] theorem Group.raise_stack (g : Group) (x : Flags) : (g.raise x).stack = g.stack := rfl
@[simp] theorem Group.raise_preds (g : Group) (x : Flags) : (g.raise x).preds = g.preds := rfl
@[simp] theorem Group.raise_rcto (g : Group) (x : Flags) : (g.raise x).rcto = g.rcto := rfl
@[simp] theorem Group.raise_pch (g : Group) (x : Flags) : (g.raise x).pch = g.pch := rfl
@[simp] theorem Group.raise_busy (g : Group) (x : Flags) : (g.raise x).busy = g.busy := rfl
@[simp] theorem Group.raise_uwc (g : Group) (x : Flags) : (g.raise x).uwc = g.uwc := rfl
@[simp] theorem Group.raise_copyBatch (g : Group) (x : Flags) : (g.raise x).copyBatch = g.copyBatch := rfl
@[simp] theorem Group.raise_copySealed (g : Group) (x : Flags) : (g.raise x).copySealed = g.copySealed := rfl
@[simp] theorem Group.raise_matBatch (g : Group) (x : Flags) : (g.raise x).matBatch = g.matBatch := rfl
@[simp] theorem Group.raise_matSealed (g : Group) (x : Flags) : (g.raise x).matSealed = g.matSealed := rfl
@[simp] theorem Group.raise_regCode (g : Group) (x : Flags) : (g.raise x).regCode = g.regCode := rfl
@[simp] theorem Group.raise_regAborts (g : Group) (x : Flags) : (g.raise x).regAborts = g.regAborts := rfl
@[simp] theorem Group.raise_trapLive (g : Group) (x : Flags) : (g.raise x).trapLive = g.trapLive := rfl
@[simp] theorem Group.raise_preLive (g : Group) (x : Flags) : (g.raise x).preLive = g.preLive := rfl
@[simp] theorem Group.raise_preLast (g : Group) (x : Flags) : (g.raise x).preLast = g.preLast := rfl
@[simp] theorem Group.raise_window (g : Group) (x : Flags) : (g.raise x).window = g.window := rfl
@[simp] theorem Group.raise_callSeq (g : Group) (x : Flags) : (g.raise x).callSeq = g.callSeq := rfl
@[simp] theorem Group.raise_status (g : Group) (x : Flags) : (g.raise x).status = g.status := rfl
@[simp] theorem Group.raise_signal (g : Group) (x : Flags) : (g.raise x).signal = g.signal := rfl
@[simp] theorem Group.raise_resuming (g : Group) (x : Flags) : (g.raise x).resuming = g.resuming := rfl
@[simp] theorem Group.raise_arms (g : Group) (x : Flags) : (g.raise x).arms = g.arms := rfl
@[simp] theorem Group.raise_barWait (g : Group) (x : Flags) : (g.raise x).barWait = g.barWait := rfl
@[simp] theorem Group.raise_entering (g : Group) (x : Flags) : (g.raise x).entering = g.entering := rfl

/-! ### Requests and cluster copies -/

@[simp] theorem State.setStage_now (s : State) (n : Nat) : (s.setStage n).now = s.now := rfl
@[simp] theorem State.setStage_inputs (s : State) (n : Nat) : (s.setStage n).inputs = s.inputs := rfl
@[simp] theorem State.setStage_curG (s : State) (n : Nat) : (s.setStage n).curG = s.curG := rfl
@[simp] theorem State.setStage_curS (s : State) (n : Nat) : (s.setStage n).curS = s.curS := rfl
@[simp] theorem State.setStage_fresh (s : State) (n : Nat) : (s.setStage n).fresh = s.fresh := rfl
@[simp] theorem State.setStage_nextId (s : State) (n : Nat) : (s.setStage n).nextId = s.nextId := rfl
@[simp] theorem State.setStage_spent (s : State) (n : Nat) : (s.setStage n).spent = s.spent := rfl
@[simp] theorem State.setStage_teams (s : State) (n : Nat) : (s.setStage n).teams = s.teams := rfl
@[simp] theorem State.setStage_cores (s : State) (n : Nat) : (s.setStage n).cores = s.cores := rfl
@[simp] theorem State.setStage_dies (s : State) (n : Nat) : (s.setStage n).dies = s.dies := rfl
@[simp] theorem State.setStage_links (s : State) (n : Nat) : (s.setStage n).links = s.links := rfl
@[simp] theorem State.setStage_launches (s : State) (n : Nat) : (s.setStage n).launches = s.launches := rfl
@[simp] theorem State.setStage_tables (s : State) (n : Nat) : (s.setStage n).tables = s.tables := rfl
@[simp] theorem State.setStage_mem (s : State) (n : Nat) : (s.setStage n).mem = s.mem := rfl
@[simp] theorem State.setStage_writes (s : State) (n : Nat) : (s.setStage n).writes = s.writes := rfl
@[simp] theorem State.setStage_fills (s : State) (n : Nat) : (s.setStage n).fills = s.fills := rfl
@[simp] theorem State.setStage_flows (s : State) (n : Nat) : (s.setStage n).flows = s.flows := rfl
@[simp] theorem State.setStage_score (s : State) (n : Nat) : (s.setStage n).score = s.score := rfl
@[simp] theorem State.setStage_copies (s : State) (n : Nat) : (s.setStage n).copies = s.copies := rfl
@[simp] theorem State.setStage_gathers (s : State) (n : Nat) : (s.setStage n).gathers = s.gathers := rfl
@[simp] theorem State.setStage_mats (s : State) (n : Nat) : (s.setStage n).mats = s.mats := rfl
@[simp] theorem State.setStage_arrivals (s : State) (n : Nat) : (s.setStage n).arrivals = s.arrivals := rfl
@[simp] theorem State.setStage_regions (s : State) (n : Nat) : (s.setStage n).regions = s.regions := rfl
@[simp] theorem State.setStage_edges (s : State) (n : Nat) : (s.setStage n).edges = s.edges := rfl
@[simp] theorem State.setStage_restores (s : State) (n : Nat) : (s.setStage n).restores = s.restores := rfl
@[simp] theorem State.setStage_calls (s : State) (n : Nat) : (s.setStage n).calls = s.calls := rfl
@[simp] theorem State.setStage_channels (s : State) (n : Nat) : (s.setStage n).channels = s.channels := rfl
@[simp] theorem State.setStage_aphids (s : State) (n : Nat) : (s.setStage n).aphids = s.aphids := rfl
@[simp] theorem State.setStage_rotate (s : State) (n : Nat) : (s.setStage n).rotate = s.rotate := rfl
@[simp] theorem State.setStage_dist (s : State) (n : Nat) : (s.setStage n).dist = s.dist := rfl
@[simp] theorem State.setStage_host (s : State) (n : Nat) : (s.setStage n).host = s.host := rfl
@[simp] theorem State.setStage_stag (s : State) (n : Nat) : (s.setStage n).stag = s.stag := rfl

@[simp] theorem State.setWrite_now (s : State) (w : PWrite) : (s.setWrite w).now = s.now := rfl
@[simp] theorem State.setWrite_inputs (s : State) (w : PWrite) : (s.setWrite w).inputs = s.inputs := rfl
@[simp] theorem State.setWrite_curG (s : State) (w : PWrite) : (s.setWrite w).curG = s.curG := rfl
@[simp] theorem State.setWrite_curS (s : State) (w : PWrite) : (s.setWrite w).curS = s.curS := rfl
@[simp] theorem State.setWrite_fresh (s : State) (w : PWrite) : (s.setWrite w).fresh = s.fresh := rfl
@[simp] theorem State.setWrite_nextId (s : State) (w : PWrite) : (s.setWrite w).nextId = s.nextId := rfl
@[simp] theorem State.setWrite_spent (s : State) (w : PWrite) : (s.setWrite w).spent = s.spent := rfl
@[simp] theorem State.setWrite_groups (s : State) (w : PWrite) : (s.setWrite w).groups = s.groups := rfl
@[simp] theorem State.setWrite_teams (s : State) (w : PWrite) : (s.setWrite w).teams = s.teams := rfl
@[simp] theorem State.setWrite_cores (s : State) (w : PWrite) : (s.setWrite w).cores = s.cores := rfl
@[simp] theorem State.setWrite_dies (s : State) (w : PWrite) : (s.setWrite w).dies = s.dies := rfl
@[simp] theorem State.setWrite_links (s : State) (w : PWrite) : (s.setWrite w).links = s.links := rfl
@[simp] theorem State.setWrite_launches (s : State) (w : PWrite) : (s.setWrite w).launches = s.launches := rfl
@[simp] theorem State.setWrite_tables (s : State) (w : PWrite) : (s.setWrite w).tables = s.tables := rfl
@[simp] theorem State.setWrite_mem (s : State) (w : PWrite) : (s.setWrite w).mem = s.mem := rfl
@[simp] theorem State.setWrite_fills (s : State) (w : PWrite) : (s.setWrite w).fills = s.fills := rfl
@[simp] theorem State.setWrite_flows (s : State) (w : PWrite) : (s.setWrite w).flows = s.flows := rfl
@[simp] theorem State.setWrite_score (s : State) (w : PWrite) : (s.setWrite w).score = s.score := rfl
@[simp] theorem State.setWrite_copies (s : State) (w : PWrite) : (s.setWrite w).copies = s.copies := rfl
@[simp] theorem State.setWrite_gathers (s : State) (w : PWrite) : (s.setWrite w).gathers = s.gathers := rfl
@[simp] theorem State.setWrite_mats (s : State) (w : PWrite) : (s.setWrite w).mats = s.mats := rfl
@[simp] theorem State.setWrite_arrivals (s : State) (w : PWrite) : (s.setWrite w).arrivals = s.arrivals := rfl
@[simp] theorem State.setWrite_regions (s : State) (w : PWrite) : (s.setWrite w).regions = s.regions := rfl
@[simp] theorem State.setWrite_edges (s : State) (w : PWrite) : (s.setWrite w).edges = s.edges := rfl
@[simp] theorem State.setWrite_restores (s : State) (w : PWrite) : (s.setWrite w).restores = s.restores := rfl
@[simp] theorem State.setWrite_calls (s : State) (w : PWrite) : (s.setWrite w).calls = s.calls := rfl
@[simp] theorem State.setWrite_channels (s : State) (w : PWrite) : (s.setWrite w).channels = s.channels := rfl
@[simp] theorem State.setWrite_aphids (s : State) (w : PWrite) : (s.setWrite w).aphids = s.aphids := rfl
@[simp] theorem State.setWrite_rotate (s : State) (w : PWrite) : (s.setWrite w).rotate = s.rotate := rfl
@[simp] theorem State.setWrite_dist (s : State) (w : PWrite) : (s.setWrite w).dist = s.dist := rfl
@[simp] theorem State.setWrite_host (s : State) (w : PWrite) : (s.setWrite w).host = s.host := rfl
@[simp] theorem State.setWrite_stag (s : State) (w : PWrite) : (s.setWrite w).stag = s.stag := rfl

@[simp] theorem State.putL1_now (s : State) (cl st : Nat) (data : List (Nat × Byte)) : (s.putL1 cl st data).now = s.now := rfl
@[simp] theorem State.putL1_inputs (s : State) (cl st : Nat) (data : List (Nat × Byte)) : (s.putL1 cl st data).inputs = s.inputs := rfl
@[simp] theorem State.putL1_curG (s : State) (cl st : Nat) (data : List (Nat × Byte)) : (s.putL1 cl st data).curG = s.curG := rfl
@[simp] theorem State.putL1_curS (s : State) (cl st : Nat) (data : List (Nat × Byte)) : (s.putL1 cl st data).curS = s.curS := rfl
@[simp] theorem State.putL1_fresh (s : State) (cl st : Nat) (data : List (Nat × Byte)) : (s.putL1 cl st data).fresh = s.fresh := rfl
@[simp] theorem State.putL1_nextId (s : State) (cl st : Nat) (data : List (Nat × Byte)) : (s.putL1 cl st data).nextId = s.nextId := rfl
@[simp] theorem State.putL1_spent (s : State) (cl st : Nat) (data : List (Nat × Byte)) : (s.putL1 cl st data).spent = s.spent := rfl
@[simp] theorem State.putL1_groups (s : State) (cl st : Nat) (data : List (Nat × Byte)) : (s.putL1 cl st data).groups = s.groups := rfl
@[simp] theorem State.putL1_teams (s : State) (cl st : Nat) (data : List (Nat × Byte)) : (s.putL1 cl st data).teams = s.teams := rfl
@[simp] theorem State.putL1_cores (s : State) (cl st : Nat) (data : List (Nat × Byte)) : (s.putL1 cl st data).cores = s.cores := rfl
@[simp] theorem State.putL1_dies (s : State) (cl st : Nat) (data : List (Nat × Byte)) : (s.putL1 cl st data).dies = s.dies := rfl
@[simp] theorem State.putL1_links (s : State) (cl st : Nat) (data : List (Nat × Byte)) : (s.putL1 cl st data).links = s.links := rfl
@[simp] theorem State.putL1_launches (s : State) (cl st : Nat) (data : List (Nat × Byte)) : (s.putL1 cl st data).launches = s.launches := rfl
@[simp] theorem State.putL1_tables (s : State) (cl st : Nat) (data : List (Nat × Byte)) : (s.putL1 cl st data).tables = s.tables := rfl
@[simp] theorem State.putL1_writes (s : State) (cl st : Nat) (data : List (Nat × Byte)) : (s.putL1 cl st data).writes = s.writes := rfl
@[simp] theorem State.putL1_fills (s : State) (cl st : Nat) (data : List (Nat × Byte)) : (s.putL1 cl st data).fills = s.fills := rfl
@[simp] theorem State.putL1_flows (s : State) (cl st : Nat) (data : List (Nat × Byte)) : (s.putL1 cl st data).flows = s.flows := rfl
@[simp] theorem State.putL1_score (s : State) (cl st : Nat) (data : List (Nat × Byte)) : (s.putL1 cl st data).score = s.score := rfl
@[simp] theorem State.putL1_copies (s : State) (cl st : Nat) (data : List (Nat × Byte)) : (s.putL1 cl st data).copies = s.copies := rfl
@[simp] theorem State.putL1_gathers (s : State) (cl st : Nat) (data : List (Nat × Byte)) : (s.putL1 cl st data).gathers = s.gathers := rfl
@[simp] theorem State.putL1_mats (s : State) (cl st : Nat) (data : List (Nat × Byte)) : (s.putL1 cl st data).mats = s.mats := rfl
@[simp] theorem State.putL1_arrivals (s : State) (cl st : Nat) (data : List (Nat × Byte)) : (s.putL1 cl st data).arrivals = s.arrivals := rfl
@[simp] theorem State.putL1_regions (s : State) (cl st : Nat) (data : List (Nat × Byte)) : (s.putL1 cl st data).regions = s.regions := rfl
@[simp] theorem State.putL1_edges (s : State) (cl st : Nat) (data : List (Nat × Byte)) : (s.putL1 cl st data).edges = s.edges := rfl
@[simp] theorem State.putL1_restores (s : State) (cl st : Nat) (data : List (Nat × Byte)) : (s.putL1 cl st data).restores = s.restores := rfl
@[simp] theorem State.putL1_calls (s : State) (cl st : Nat) (data : List (Nat × Byte)) : (s.putL1 cl st data).calls = s.calls := rfl
@[simp] theorem State.putL1_channels (s : State) (cl st : Nat) (data : List (Nat × Byte)) : (s.putL1 cl st data).channels = s.channels := rfl
@[simp] theorem State.putL1_aphids (s : State) (cl st : Nat) (data : List (Nat × Byte)) : (s.putL1 cl st data).aphids = s.aphids := rfl
@[simp] theorem State.putL1_rotate (s : State) (cl st : Nat) (data : List (Nat × Byte)) : (s.putL1 cl st data).rotate = s.rotate := rfl
@[simp] theorem State.putL1_dist (s : State) (cl st : Nat) (data : List (Nat × Byte)) : (s.putL1 cl st data).dist = s.dist := rfl
@[simp] theorem State.putL1_host (s : State) (cl st : Nat) (data : List (Nat × Byte)) : (s.putL1 cl st data).host = s.host := rfl
@[simp] theorem State.putL1_stag (s : State) (cl st : Nat) (data : List (Nat × Byte)) : (s.putL1 cl st data).stag = s.stag := rfl

end Sys2Proof.Machine
end

