-- ==== Sys2Proof/Laws/Registers.lean ====
section
/-! SUPPORT. Laws of the registers of a group and of what a word writes: one law for each shared operation
of the arithmetic words. -/

namespace Sys2Proof.Machine

/-! ### Groups in the state -/

@[simp] theorem State.group_setGroup_self (s : State) (k : Nat) (g : Group) :
    (s.setGroup k g).group k = g := by
  simp [State.group, State.setGroup]

theorem State.group_setGroup_ne (s : State) {k j : Nat} (g : Group) (h : j ≠ k) :
    (s.setGroup k g).group j = s.group j := by
  simp [State.group, State.setGroup, aget_aput_ne _ _ h]

@[simp] theorem State.setGroup_setGroup (s : State) (k : Nat) (g h : Group) :
    (s.setGroup k g).setGroup k h = s.setGroup k h := by
  simp [State.setGroup]

@[simp] theorem State.cur_setGroup (s : State) (g : Group) : (s.setGroup s.curG g).cur = g := by
  simp [State.cur]

theorem State.modCur_eq (s : State) (f : Group → Group) : s.modCur f = s.setGroup s.curG (f s.cur) := rfl

theorem State.next_eq (s : State) (n : Nat) : s.next n = s.setGroup s.curG (s.cur.next s.curS n) := rfl

theorem State.next_modCur (s : State) (f : Group → Group) (n : Nat) :
    (s.modCur f).next n = s.setGroup s.curG ((f s.cur).next s.curS n) := by
  simp [State.modCur_eq, State.next_eq]

theorem State.modCur_next (s : State) (f : Group → Group) (n : Nat) :
    (s.next n).modCur f = s.setGroup s.curG (f (s.cur.next s.curS n)) := by
  simp [State.modCur_eq, State.next_eq]

/-! ### Slots -/

@[simp] theorem Group.slot_setSlot_self (g : Group) (b : Bool) (x : Slot) : (g.setSlot b x).slot b = x := by
  cases b <;> rfl

@[simp] theorem Group.slot_setSlot_not (g : Group) (b : Bool) (x : Slot) :
    (g.setSlot b x).slot (!b) = g.slot (!b) := by
  cases b <;> rfl

@[simp] theorem Group.rest_setSlot (g : Group) (b : Bool) (x : Slot) : (g.setSlot b x).rest = g.rest := by
  cases b <;> rfl

@[simp] theorem Group.slot_next_not (g : Group) (b : Bool) (n : Nat) :
    (g.next b n).slot (!b) = g.slot (!b) := by
  cases b <;> rfl

@[simp] theorem Group.rest_next (g : Group) (b : Bool) (n : Nat) : (g.next b n).rest = g.rest := by
  cases b <;> rfl

theorem Group.slot_next_self (g : Group) (b : Bool) (n : Nat) : (g.next b n).slot b = (g.slot b).next n := by
  cases b <;> rfl

theorem Group.path_of_slot {g : Group} {b : Bool} {p : Path} (h : (g.slot b).path = some p) :
    g.path b = p := by
  simp [Group.path, h]

theorem Group.slot_path_next {g : Group} {b : Bool} {p : Path} (n : Nat) (h : (g.slot b).path = some p) :
    ((g.next b n).slot b).path = some { p with pc := p.pc + BitVec.ofNat 64 n } := by
  rw [Group.slot_next_self]
  simp [Slot.next, h]

@[simp] theorem Group.vval_next (g : Group) (b : Bool) (n r l : Nat) :
    (g.next b n).vval r l = g.vval r l := by
  cases b <;> rfl

/-- The mask of a path does not move with its PC. -/
theorem Group.mask_next (g : Group) (b c : Bool) (n : Nat) :
    ((g.next b n).path c).mask = (g.path c).mask := by
  by_cases h : c = b
  · subst h
    unfold Group.path
    rw [Group.slot_next_self]
    cases hp : (g.slot c).path <;> simp [Slot.next, hp]
  · obtain rfl : c = !b := by cases b <;> cases c <;> simp_all
    simp [Group.path]

@[simp] theorem Group.gval_next (g : Group) (b c : Bool) (n r : Nat) :
    (g.next b n).gval c r = g.gval c r := by
  simp only [Group.gval, Group.mask_next, Group.next_g]

/-! ### Lane registers -/

theorem Group.vval_setV_self (g : Group) (m : LaneSet) (r l : Nat) (f : Nat → W32) (h : l < 96) :
    (g.setV m r f).vval r l = if m.getLsbD l then f l else g.vval r l := by
  unfold Group.setV Group.vval Group.vreg putVec
  rw [laneAt_aget_putVec_self, laneAt_mkLanes _ h]

theorem Group.vval_setV_ne (g : Group) (m : LaneSet) {r k : Nat} (l : Nat) (f : Nat → W32) (h : k ≠ r) :
    (g.setV m r f).vval k l = g.vval k l := by
  unfold Group.setV Group.vval Group.vreg putVec
  dsimp only
  split
  · rw [aget_adel_ne _ h]
  · rw [aget_aput_ne _ _ h]

@[simp] theorem Group.slot_setV (g : Group) (m : LaneSet) (r : Nat) (f : Nat → W32) (b : Bool) :
    (g.setV m r f).slot b = g.slot b := by cases b <;> rfl

@[simp] theorem Group.path_setV (g : Group) (m : LaneSet) (r : Nat) (f : Nat → W32) (b : Bool) :
    (g.setV m r f).path b = g.path b := by cases b <;> rfl

@[simp] theorem Group.gval_setV (g : Group) (m : LaneSet) (r : Nat) (f : Nat → W32) (b : Bool) (k : Nat) :
    (g.setV m r f).gval b k = g.gval b k := by
  simp [Group.gval]

@[simp] theorem Group.rest_setV (g : Group) (m : LaneSet) (r : Nat) (f : Nat → W32) :
    (g.setV m r f).rest = g.rest := rfl

@[simp] theorem Group.rest_raise (g : Group) (x : Flags) : (g.raise x).rest = g.rest := rfl
@[simp] theorem Group.raise_fpst (g : Group) (x : Flags) : (g.raise x).fpst = g.fpst ||| x := rfl
@[simp] theorem Group.slot_raise (g : Group) (x : Flags) (b : Bool) : (g.raise x).slot b = g.slot b := by
  cases b <;> rfl
@[simp] theorem Group.path_raise (g : Group) (x : Flags) (b : Bool) : (g.raise x).path b = g.path b := by
  cases b <;> rfl
@[simp] theorem Group.vval_raise (g : Group) (x : Flags) (r l : Nat) : (g.raise x).vval r l = g.vval r l :=
  rfl
@[simp] theorem Group.gval_raise (g : Group) (x : Flags) (b : Bool) (r : Nat) :
    (g.raise x).gval b r = g.gval b r := by
  simp [Group.gval]

/-! ### Uniform registers -/

@[simp] theorem Group.vval_setG (g : Group) (b : Bool) (r : Nat) (x : W64) (k l : Nat) :
    (g.setG b r x).vval k l = g.vval k l := by
  simp [Group.vval, Group.vreg]

theorem Group.rest_setG (g : Group) (b : Bool) (r : Nat) (x : W64) : (g.setG b r x).rest = g.rest := by
  unfold Group.setG
  split
  · cases b <;> rfl
  · rfl

/-- Lane sets by their lanes. -/
theorem getLsbD_laneSet (f : Nat → Bool) (l : Nat) (h : l < 96) : (laneSet f).getLsbD l = f l := by
  have key : ∀ (ls : List Nat) (m : LaneSet),
      (ls.foldl (fun m l => if f l then m ||| BitVec.twoPow 96 l else m) m).getLsbD l =
        (m.getLsbD l || (ls.contains l && f l)) := by
    intro ls
    induction ls with
    | nil => simp
    | cons a r ih =>
      intro m
      rw [List.foldl_cons, ih]
      by_cases hf : f a
      · by_cases ha : a = l
        · subst ha
          simp [hf, h]
        · have hb : (BitVec.twoPow 96 a).getLsbD l = false := by
            rw [BitVec.getLsbD_twoPow]
            simp [ha]
          simp [hf, hb, Ne.symm ha]
      · by_cases ha : a = l
        · subst ha
          simp [hf]
        · simp [hf, Ne.symm ha]
  rw [laneSet, key]
  simp [laneNums, h]

theorem getLsbD_maskWord (m : LaneSet) (j i : Nat) (hi : i < 64) :
    (maskWord m j).getLsbD i = (decide (i < 32) && m.getLsbD (32 * j + i)) := by
  unfold maskWord
  rw [BitVec.getLsbD_setWidth, BitVec.getLsbD_extractLsb']
  simp [hi]

theorem maskWord_setMaskWord_self (m lanes : LaneSet) (j : Nat) (hj : j < 3) (x : W64) :
    maskWord (setMaskWord m j (x &&& maskWord lanes j)) j = x &&& maskWord lanes j := by
  apply BitVec.eq_of_getLsbD_eq
  intro i hi
  rw [getLsbD_maskWord _ _ _ hi, BitVec.getLsbD_and, getLsbD_maskWord _ _ _ hi]
  by_cases h : i < 32
  · rw [setMaskWord, getLsbD_laneSet _ _ (by omega), show (32 * j + i) / 32 = j by omega,
      show (32 * j + i) % 32 = i by omega, if_pos rfl, BitVec.getLsbD_and, getLsbD_maskWord _ _ _ hi]
    simp [h]
  · simp [h]

theorem maskWord_setMaskWord_ne (m : LaneSet) {j k : Nat} (hk : k < 3) (h : k ≠ j) (x : W64) :
    maskWord (setMaskWord m j x) k = maskWord m k := by
  apply BitVec.eq_of_getLsbD_eq
  intro i hi
  rw [getLsbD_maskWord _ _ _ hi, getLsbD_maskWord _ _ _ hi]
  by_cases hi' : i < 32
  · rw [setMaskWord, getLsbD_laneSet _ _ (by omega), if_neg (by omega)]
  · simp [hi']

/-- The path of a slot after a uniform write: all but its mask is as before. -/
theorem Group.slot_setG (g : Group) (b : Bool) (r : Nat) (x : W64) {p : Path}
    (h : (g.slot b).path = some p) :
    (g.setG b r x).slot b =
      if 120 ≤ r ∧ r ≤ 122 then
        { g.slot b with path := some { p with
            mask := setMaskWord p.mask (r - 120) (x &&& maskWord p.lanes (r - 120)) } }
      else g.slot b := by
  unfold Group.setG
  split
  · cases b <;> simp_all [Group.modPath, Group.setSlot, Group.slot]
  · cases b <;> rfl

@[simp] theorem Group.slot_setG_not (g : Group) (b : Bool) (r : Nat) (x : W64) :
    (g.setG b r x).slot (!b) = g.slot (!b) := by
  unfold Group.setG
  split <;> cases b <;> rfl

/-- A uniform register written reads as the value, mk0 to mk2 within the path's lanes. -/
theorem Group.gval_setG_self (g : Group) (b : Bool) (r : Nat) (x : W64) {p : Path}
    (h : (g.slot b).path = some p) :
    (g.setG b r x).gval b r = if 120 ≤ r ∧ r ≤ 122 then x &&& maskWord p.lanes (r - 120) else x := by
  by_cases hr : 120 ≤ r ∧ r ≤ 122
  · have hs := Group.slot_setG g b r x h
    rw [if_pos hr] at hs
    have hp : (g.setG b r x).path b =
        { p with mask := setMaskWord p.mask (r - 120) (x &&& maskWord p.lanes (r - 120)) } := by
      simp [Group.path, hs]
    rw [Group.gval, if_pos hr, if_pos hr, hp]
    have hj : r - 120 < 3 := by omega
    generalize r - 120 = j at hj
    exact maskWord_setMaskWord_self p.mask p.lanes j hj x
  · rw [Group.gval, if_neg hr, if_neg hr]
    unfold Group.setG
    rw [if_neg hr]
    dsimp only
    split
    · rename_i hx
      rw [aget_adel_self, hx]
      rfl
    · simp

/-- The other uniform registers are as before, in both slots. -/
theorem Group.gval_setG_ne (g : Group) (b c : Bool) {r k : Nat} (x : W64) (hk : k ≠ r) :
    (g.setG b r x).gval c k = g.gval c k := by
  by_cases hr : 120 ≤ r ∧ r ≤ 122
  · by_cases hc : c = b
    · subst hc
      cases h : (g.slot c).path with
      | none =>
        have hs : ((g.setG c r x).slot c).path = none := by
          unfold Group.setG
          rw [if_pos hr]
          cases c <;> simp_all [Group.modPath, Group.setSlot, Group.slot]
        have hg : (g.setG c r x).g = g.g := by
          unfold Group.setG
          simp [if_pos hr]
        simp [Group.gval, Group.path, h, hs, hg]
      | some p =>
        have hs := Group.slot_setG g c r x h
        rw [if_pos hr] at hs
        have hg : (g.setG c r x).g = g.g := by
          unfold Group.setG
          simp [if_pos hr]
        simp only [Group.gval, Group.path, hs, h, hg, Option.getD_some]
        by_cases hk' : 120 ≤ k ∧ k ≤ 122
        · rw [if_pos hk', if_pos hk']
          exact maskWord_setMaskWord_ne _ (by omega) (by omega) _
        · rw [if_neg hk', if_neg hk']
    · obtain rfl : c = !b := by cases b <;> cases c <;> simp_all
      have hg : (g.setG b r x).g = g.g := by
        unfold Group.setG
        simp [if_pos hr]
      simp [Group.gval, Group.path, hg]
  · have hp : (g.setG b r x).path c = g.path c := by
      unfold Group.setG
      rw [if_neg hr]
      cases c <;> rfl
    have hg : aget (g.setG b r x).g k = aget g.g k := by
      unfold Group.setG
      rw [if_neg hr]
      dsimp only
      split
      · exact aget_adel_ne _ hk
      · exact aget_aput_ne _ _ hk
    simp [Group.gval, hp, hg]

end Sys2Proof.Machine
end

