-- ==== Sys2Proof/Laws/Words.lean ====
section
/-! SUPPORT. Laws of the shared parts of a word: its operands that pass, the end of a word, and the register
results of the lane and uniform forms. -/

namespace Sys2Proof.Machine

/-! ### Operands -/

theorem Opd.any_or (o : Opd) (b : Bool) (m n : BitVec 128) (x : BitVec 136)
    (hm : o.any b m x = false) (hn : o.any b n 0 = false) : o.any b (m ||| n) x = false := by
  unfold Opd.any at *
  rw [List.any_eq_false] at *
  intro r hr
  have h1 := hm r hr
  have h2 := hn r hr
  cases hl : o.lane <;> simp [hl, bitOn_or] at * <;> simp_all

/-- A word whose operands pass is not gated (R60 to R64, R70 steps 7 and 8, R244). -/
theorem State.gate_of_accepts {s : State} {u : Uses} (h : s.Accepts u) : s.gate u = none := by
  have h1 : ((u.srcs ++ u.dsts).any fun o => o.lane && decide (s.curLaunch.rpl < o.r + o.n)) = false := by
    rw [List.any_eq_false]
    intro o ho
    cases hl : o.lane
    · simp
    · have := h.inFile o ho hl
      simp only [Bool.true_and, decide_eq_true_eq]
      omega
  have h2 : (u.srcs.any fun o => o.w && o.any s.curS s.cur.emptyV s.cur.emptyG) = false := by
    rw [List.any_eq_false]
    intro o ho
    rw [h.full o (by simp [Uses.all, ho])]
    simp
  have h3 : (u.all.any fun o => o.any s.curS s.cur.emptyV s.cur.emptyG) = false := by
    rw [List.any_eq_false]
    intro o ho
    rw [h.full o (by simp [ho])]
    simp
  have h4 : (u.all.any fun o => o.any s.curS s.cur.poisonV s.cur.poisonG) = false := by
    rw [List.any_eq_false]
    intro o ho
    rw [h.clean o ho]
    simp
  have h5 : (u.dsts.any fun o => o.any s.curS (s.cur.emptyV ||| s.heldOf s.curG) s.cur.emptyG) = false := by
    rw [List.any_eq_false]
    intro o ho
    rw [Opd.any_or _ _ _ _ _ (h.full o (by simp [ho])) (h.unheld o ho)]
    simp
  unfold State.gate
  simp only [h1, h2, h3, h4, h5, h.unmarked]
  rfl

/-- A word whose operands pass goes on with its own effect. -/
theorem State.gated_of_accepts {s : State} {u : Uses} (h : s.Accepts u) (k : Res) : s.gated u k = k := by
  simp [State.gated, State.gate_of_accepts h]

theorem Opd.any_of_or (o : Opd) (b : Bool) (m n : BitVec 128) (x : BitVec 136)
    (h : o.any b (m ||| n) x = false) : o.any b n 0 = false := by
  unfold Opd.any at *
  rw [List.any_eq_false] at *
  intro r hr
  have h1 := h r hr
  cases hl : o.lane <;> simp [hl, bitOn_or] at h1 ⊢ <;> simp_all [bitOn]

theorem Opd.any_of_or_left (o : Opd) (b : Bool) (m n : BitVec 128) (x : BitVec 136)
    (h : o.any b (m ||| n) x = false) : o.any b m x = false := by
  unfold Opd.any at *
  rw [List.any_eq_false] at *
  intro r hr
  have h1 := h r hr
  cases hl : o.lane <;> simp [hl, bitOn_or] at h1 ⊢ <;> simp_all

/-- A word that is not gated accepts its operands. -/
theorem State.accepts_of_gate {s : State} {u : Uses} (live : s.Live) (h : s.gate u = none) : s.Accepts u := by
  unfold State.gate at h
  by_cases h1 : ((u.srcs ++ u.dsts).any fun o => o.lane && decide (s.curLaunch.rpl < o.r + o.n)) = true
  · simp [h1] at h
  by_cases h2 : (u.srcs.any fun o => o.w && o.any s.curS s.cur.emptyV s.cur.emptyG) = true
  · simp [h1, h2] at h
  by_cases h3 : (u.all.any fun o => o.any s.curS s.cur.emptyV s.cur.emptyG) = true
  · simp [h1, h2, h3] at h
  cases h4 : s.cur.markHit u.all with
  | some m => simp [h1, h2, h3, h4] at h
  | none =>
  by_cases h5 : (u.all.any fun o => o.any s.curS s.cur.poisonV s.cur.poisonG) = true
  · simp [h1, h2, h3, h4, h5] at h
  by_cases h6 : (u.dsts.any fun o => o.any s.curS (s.cur.emptyV ||| s.heldOf s.curG) s.cur.emptyG) = true
  · simp [h1, h2, h3, h4, h5, h6] at h
  rw [Bool.not_eq_true, List.any_eq_false] at h1 h3 h5 h6
  refine ⟨live, fun o ho hl => ?_, fun o ho => ?_, fun o ho => by simpa using h5 o ho, h4, fun o ho => ?_⟩
  · have := h1 o ho
    simp [hl] at this
    omega
  · rcases List.mem_append.1 ho with ho | ho
    · simpa using h3 o ho
    · exact Opd.any_of_or_left _ _ _ _ _ (by simpa using h6 o ho)
  · exact Opd.any_of_or _ _ _ _ _ (by simpa using h6 o ho)

@[simp] theorem State.finish_done (s t : State) : s.finish (.done t) = .next t := rfl
@[simp] theorem State.finish_trap (s : State) (c : Cause) (d : W32) :
    s.finish (.trap c d) = .next (s.takeTrap c d) := rfl
@[simp] theorem State.finish_wait (s t : State) : s.finish (.wait t) = .next t.holdBack := rfl

/-! ### Register results -/

/-- A change of the issuing group's registers and flags, then the move to the next word: what it must show
to have written registers and nothing else. -/
theorem wrote_of {s : State} {act : LaneSet} {vd : List (Nat × (Nat → W32))} {gd : List (Nat × W64)}
    {n : Nat} {fl : Flags} (g : Group) {p q : Path}
    (hp : (s.cur.slot s.curS).path = some p) (hq : (g.slot s.curS).path = some q)
    (hpc : q.pc = p.pc) (hlanes : q.lanes = p.lanes) (hfmt : q.fmt = p.fmt) (hrj : q.rj = p.rj)
    (hpd : q.pd = p.pd) (hother : g.slot (!s.curS) = s.cur.slot (!s.curS))
    (lanes : ∀ x ∈ vd, ∀ l < 96, g.vval x.1 l = if act.getLsbD l then x.2 l else s.cur.vval x.1 l)
    (otherLanes : ∀ r, (∀ x ∈ vd, x.1 ≠ r) → ∀ l, g.vval r l = s.cur.vval r l)
    (uniform : ∀ x ∈ gd, g.gval s.curS x.1 = s.seen x.1 x.2)
    (otherUniform : ∀ r, (∀ x ∈ gd, x.1 ≠ r) → ∀ b, g.gval b r = s.cur.gval b r)
    (mask : (∀ x ∈ gd, ¬isMask x.1) → q.mask = p.mask)
    (flags : g.fpst = s.cur.fpst ||| fl)
    (emptyV : ∀ r < 128, bitOn g.emptyV r = (bitOn s.cur.emptyV r && !vd.any fun x => x.1 == r))
    (emptyG : ∀ i < 136, bitOn g.emptyG i =
      (bitOn s.cur.emptyG i && !gd.any fun x => gBit s.curS x.1 == i))
    (poisonV : ∀ r < 128, bitOn g.poisonV r =
      (bitOn s.cur.poisonV r && !(act == allLanes && vd.any fun x => x.1 == r)))
    (poisonG : ∀ i < 136, bitOn g.poisonG i =
      (bitOn s.cur.poisonG i && !gd.any fun x => gBit s.curS x.1 == i))
    (marks : g.marks = s.cur.marks.filter fun m =>
      !((m.lane && vd.any fun x => x.1 == m.d) || (!m.lane && gd.any fun x => x.1 == m.d)))
    (rest : g.rest = s.cur.rest) :
    Wrote s (s.setGroup s.curG (g.next s.curS n)) act vd gd n fl := by
  have hP : s.curPath = p := Group.path_of_slot hp
  have hN := Group.slot_path_next (b := s.curS) n hq
  have hcur : (s.setGroup s.curG (g.next s.curS n)).cur = g.next s.curS n := State.cur_setGroup _ _
  have hQ : (s.setGroup s.curG (g.next s.curS n)).curPath = { q with pc := q.pc + BitVec.ofNat 64 n } := by
    unfold State.curPath
    rw [hcur]
    exact Group.path_of_slot hN
  refine
    { only := ⟨_, rfl⟩
      moved := ?_
      lanes := ?_
      otherLanes := ?_
      uniform := ?_
      otherUniform := ?_
      mask := ?_
      flags := ?_
      emptyV := ?_
      emptyG := ?_
      poisonV := ?_
      poisonG := ?_
      marks := ?_
      rest := ?_ }
  · refine ⟨?_, ?_, ?_, ?_, ?_, ?_, ?_⟩
    · rw [hcur, hN]
      rfl
    · rw [hQ, hP, ← hpc]
    · rw [hQ, hP, ← hlanes]
    · rw [hQ, hP, ← hfmt]
    · rw [hQ, hP, ← hrj]
    · rw [hQ, hP, ← hpd]
    · rw [hcur, Group.slot_next_not, hother]
  · intro x hx l hl
    rw [hcur, Group.vval_next, lanes x hx l hl]
  · intro r hr l
    rw [hcur, Group.vval_next, otherLanes r hr l]
  · intro x hx
    rw [hcur, Group.gval_next, uniform x hx]
  · intro r hr b
    rw [hcur, Group.gval_next, otherUniform r hr b]
  · intro h
    rw [hQ, hP, ← mask h]
  · rw [hcur, Group.next_fpst, flags]
  · intro r hr
    rw [hcur, Group.next_emptyV, emptyV r hr]
  · intro r hr
    rw [hcur, Group.next_emptyG, emptyG r hr]
  · intro r hr
    rw [hcur, Group.next_poisonV, poisonV r hr]
  · intro r hr
    rw [hcur, Group.next_poisonG, poisonG r hr]
  · rw [hcur, Group.next_marks, marks]
  · rw [hcur, Group.rest_next, rest]

theorem Group.setV_emptyV (g : Group) (m : LaneSet) (r : Nat) (f : Nat → W32) :
    (g.setV m r f).emptyV = g.emptyV &&& ~~~regSet 128 r 1 := rfl
theorem Group.setV_poisonV (g : Group) (m : LaneSet) (r : Nat) (f : Nat → W32) :
    (g.setV m r f).poisonV = if m = allLanes then g.poisonV &&& ~~~regSet 128 r 1 else g.poisonV := rfl
theorem Group.setV_marks (g : Group) (m : LaneSet) (r : Nat) (f : Nat → W32) :
    (g.setV m r f).marks = g.marks.filter fun x => !x.lane || x.d != r := rfl
theorem Group.setG_emptyG (g : Group) (b : Bool) (r : Nat) (x : W64) :
    (g.setG b r x).emptyG = g.emptyG &&& ~~~regSet 136 (gBit b r) 1 := by
  unfold Group.setG
  split <;> simp
theorem Group.setG_poisonG (g : Group) (b : Bool) (r : Nat) (x : W64) :
    (g.setG b r x).poisonG = g.poisonG &&& ~~~regSet 136 (gBit b r) 1 := by
  unfold Group.setG
  split <;> simp
theorem Group.setG_marks (g : Group) (b : Bool) (r : Nat) (x : W64) :
    (g.setG b r x).marks = g.marks.filter fun m => m.lane || m.d != r := by
  unfold Group.setG
  split <;> simp

/-- A lane result has written its register in the active lanes, and nothing else. -/
theorem State.laneResult_wrote {s : State} (h : s.Live) (np : Bool) (d : Reg) (n : Nat)
    (f : Nat → W32 × Flags) :
    Wrote s (s.laneResult np d n f) (s.lanesOn np) [(d.val, fun l => (f l).1)] [] n
      (orFlags ((lanesOf (s.lanesOn np)).map fun l => (f l).2)) := by
  obtain ⟨p, hp⟩ := Option.isSome_iff_exists.1 h
  unfold State.laneResult
  rw [State.next_modCur]
  refine wrote_of (p := p) (q := p) _ hp (by simpa using hp) rfl rfl rfl rfl rfl (by simp)
    ?_ ?_ (by simp) (by simp) (fun _ => rfl) rfl ?_ (by simp) ?_ (by simp) ?_ (by simp)
  · intro x hx l hl
    obtain rfl := List.mem_singleton.1 hx
    exact Group.vval_setV_self _ _ _ _ _ hl
  · intro r hr l
    exact Group.vval_setV_ne _ _ _ _ (Ne.symm (hr _ (List.mem_singleton.2 rfl)))
  · intro r hr
    rw [Group.raise_emptyV, Group.setV_emptyV, bitOn_and_not_regSet _ _ _ hr]
    simp [beq_eq_decide, @eq_comm _ r]
  · intro r hr
    rw [Group.raise_poisonV, Group.setV_poisonV]
    change bitOn (if s.lanesOn np = allLanes then _ else _) r = _
    by_cases ha : s.lanesOn np = allLanes
    · rw [if_pos ha, bitOn_and_not_regSet _ _ _ hr]
      simp [ha, beq_eq_decide, @eq_comm _ r]
    · rw [if_neg ha]
      simp [ha]
  · rw [Group.raise_marks, Group.setV_marks]
    congr 1
    funext m
    cases m.lane <;> simp [bne, eq_comm]

/-- A uniform result has written its register, and nothing else. -/
theorem State.uniResult_wrote {s : State} (h : s.Live) (act : LaneSet) (d : Reg) (n : Nat)
    (x : W64 × Flags) : Wrote s (s.uniResult d n x) act [] [(d.val, x.1)] n x.2 := by
  obtain ⟨p, hp⟩ := Option.isSome_iff_exists.1 h
  have hP : s.curPath = p := Group.path_of_slot hp
  have hs := Group.slot_setG s.cur s.curS d.val x.1 hp
  unfold State.uniResult
  rw [State.next_modCur]
  refine wrote_of (p := p) (q := if 120 ≤ d.val ∧ d.val ≤ 122 then
      { p with mask := setMaskWord p.mask (d.val - 120) (x.1 &&& maskWord p.lanes (d.val - 120)) } else p)
    _ hp ?_ ?_ ?_ ?_ ?_ ?_ (by simp) (by simp) (by simp) ?_ ?_ ?_ (by simp) (by simp) ?_ (by simp) ?_ ?_
    (by simp [Group.rest_setG])
  · rw [Group.slot_raise, hs]
    split <;> simp [hp]
  · split <;> rfl
  · split <;> rfl
  · split <;> rfl
  · split <;> rfl
  · split <;> rfl
  · intro y hy
    obtain rfl := List.mem_singleton.1 hy
    rw [Group.gval_raise, Group.gval_setG_self _ _ _ _ hp, State.seen, hP]
  · intro r hr b
    rw [Group.gval_raise]
    exact Group.gval_setG_ne _ _ _ _ (Ne.symm (hr _ (List.mem_singleton.2 rfl)))
  · intro hm
    have := hm _ (List.mem_singleton.2 rfl)
    rw [isMask] at this
    rw [if_neg this]
  · intro i hi
    rw [Group.raise_emptyG, Group.setG_emptyG, bitOn_and_not_regSet _ _ _ hi]
    simp [beq_eq_decide, @eq_comm _ i]
  · intro i hi
    rw [Group.raise_poisonG, Group.setG_poisonG, bitOn_and_not_regSet _ _ _ hi]
    simp [beq_eq_decide, @eq_comm _ i]
  · rw [Group.raise_marks, Group.setG_marks]
    congr 1
    funext m
    cases m.lane <;> simp [bne, eq_comm]

/-- A lane word whose operands pass writes its register (R54, R60). -/
theorem State.laneOp_wrote {s : State} {u : Uses} (h : s.Accepts u) (np : Bool) (d : Reg) (n : Nat)
    (f : Group → Nat → W32 × Flags) :
    ∃ t, s.finish (s.laneOp u np d n f) = .next t ∧
      Wrote s t (s.lanesOn np) [(d.val, fun l => (f s.cur l).1)] [] n
        (orFlags ((lanesOf (s.lanesOn np)).map fun l => (f s.cur l).2)) := by
  refine ⟨_, ?_, State.laneResult_wrote h.live np d n (f s.cur)⟩
  simp [State.laneOp, State.gated_of_accepts h]

/-! ### The shapes of claims about computing words -/

@[simp] theorem lo32_eq_setWidth (x : W64) : lo32 x = x.setWidth 32 := by
  ext i hi
  simp [lo32]

theorem laneWrites_of {s : State} {i : Instr} {u : Uses} {n : Bool} {d : Reg} {len : Nat}
    {f f' : Group → Nat → W32 × Flags} (hi : exec i s = s.finish (s.laneOp u n d len f))
    (hf : f s.cur = f' s.cur) : LaneWrites s i u n d len (f' s.cur) := by
  intro h
  obtain ⟨t, h1, h2⟩ := State.laneOp_wrote h n d len f
  exact ⟨t, hi.trans h1, hf ▸ h2⟩

theorem lane1_of {s : State} {i : Instr} {d a : Reg} {wa n : Bool} {len : Nat} {f f' : W32 → W32 × Flags}
    (hi : exec i s = s.finish (s.lane1 d a wa n len f)) (hf : ∀ x, f x = f' x) :
    Lane1 s i d a wa n len f' := by
  obtain rfl : f = f' := funext hf
  exact laneWrites_of (f' := fun g l => f (g.vval a.val l)) hi rfl

theorem lane2_of {s : State} {i : Instr} {d a b : Reg} {wa wb n : Bool} {len : Nat}
    {f f' : W32 → W32 → W32 × Flags} (hi : exec i s = s.finish (s.lane2 d a b wa wb n len f))
    (hf : ∀ x y, f x y = f' x y) : Lane2 s i d a b wa wb n len f' := by
  obtain rfl : f = f' := funext fun x => funext (hf x)
  exact laneWrites_of (f' := fun g l => f (g.vval a.val l) (g.vval b.val l)) hi rfl

theorem lane3_of {s : State} {i : Instr} {d a b c : Reg} {wa wb wc n : Bool} {len : Nat}
    {f f' : W32 → W32 → W32 → W32 × Flags}
    (hi : exec i s = s.finish (s.lane3 d a b c wa wb wc n len f)) (hf : ∀ x y z, f x y z = f' x y z) :
    Lane3 s i d a b c wa wb wc n len f' := by
  obtain rfl : f = f' := funext fun x => funext fun y => funext (hf x y)
  exact laneWrites_of (f' := fun g l => f (g.vval a.val l) (g.vval b.val l) (g.vval c.val l)) hi rfl

theorem uniWrites_of {s : State} {i : Instr} {u : Uses} {d : Reg} {len : Nat} {x x' : W64 × Flags}
    (hi : exec i s = s.finish (s.gated u (.done (s.uniResult d len x)))) (hx : x = x') :
    UniWrites s i u d len x' := by
  subst hx
  intro h
  refine ⟨_, hi.trans ?_, State.uniResult_wrote h.live 0 d len x⟩
  rw [State.gated_of_accepts h, State.finish_done]

end Sys2Proof.Machine
end

