-- ==== Sys2Proof/Laws/PerInstr.lean ====
section
/-! SUPPORT. The law stated for every instruction: how long its words are. -/

namespace Sys2Proof.Laws

/-- The bytes that an instruction encodes to are those of one word, or of two (R42). -/
def EncodedLength.Statement (i : Instr) : Prop :=
  ∀ b, encode i = some b → b.length = 4 ∨ b.length = 8

/-- The bytes of a list of little-endian bytes are as many as asked for. -/
theorem leBytes_length (n x : Nat) : (leBytes n x).length = n := by
  induction n generalizing x with
  | zero => rfl
  | succ n ih => simp [leBytes, ih]

/-- The law holds of every instruction by the length of its fields' bytes. -/
theorem encoded_length (i : Instr) : EncodedLength.Statement i := by
  intro b h
  simp only [encode] at h
  split at h
  · cases h
    simp only [bytesOfFields]
    split <;> simp [leBytes_length]
  · cases h

theorem EncodedLength.nop : EncodedLength.Statement (.nop) := encoded_length _
theorem EncodedLength.exit : EncodedLength.Statement (.exit) := encoded_length _
theorem EncodedLength.br (toff : BitVec 16) : EncodedLength.Statement (.br toff) := encoded_length _
theorem EncodedLength.brc (a : Reg) (wa n : Bool) (toff joff : BitVec 16) : EncodedLength.Statement (.brc a wa n toff joff) := encoded_length _
theorem EncodedLength.call (d : Reg) (toff : BitVec 16) : EncodedLength.Statement (.call d toff) := encoded_length _
theorem EncodedLength.ret (a : Reg) (wa : Bool) : EncodedLength.Statement (.ret a wa) := encoded_length _
theorem EncodedLength.jmp (a : Reg) (wa : Bool) : EncodedLength.Statement (.jmp a wa) := encoded_length _
theorem EncodedLength.trap (imm : W32) : EncodedLength.Statement (.trap imm) := encoded_length _
theorem EncodedLength.pdp (a : Reg) (wa n : Bool) : EncodedLength.Statement (.pdp a wa n) := encoded_length _
theorem EncodedLength.pdi : EncodedLength.Statement (.pdi) := encoded_length _
theorem EncodedLength.pdo : EncodedLength.Statement (.pdo) := encoded_length _
theorem EncodedLength.fmts (img : BitVec 14) : EncodedLength.Statement (.fmts img) := encoded_length _
theorem EncodedLength.gsr (d sp : Reg) : EncodedLength.Statement (.gsr d sp) := encoded_length _
theorem EncodedLength.gssr (sp a : Reg) (wa : Bool) : EncodedLength.Statement (.gssr sp a wa) := encoded_length _
theorem EncodedLength.wfull (lane : Bool) (a : Reg) (wa : Bool) : EncodedLength.Statement (.wfull lane a wa) := encoded_length _
theorem EncodedLength.gadd (d a b : Reg) (wa wb : Bool) : EncodedLength.Statement (.gadd d a b wa wb) := encoded_length _
theorem EncodedLength.gsub (d a b : Reg) (wa wb : Bool) : EncodedLength.Statement (.gsub d a b wa wb) := encoded_length _
theorem EncodedLength.gmul (d a b : Reg) (wa wb : Bool) : EncodedLength.Statement (.gmul d a b wa wb) := encoded_length _
theorem EncodedLength.gmad (d a b c : Reg) (wa wb wc : Bool) : EncodedLength.Statement (.gmad d a b c wa wb wc) := encoded_length _
theorem EncodedLength.gmulh (d a b : Reg) (wa wb signed : Bool) : EncodedLength.Statement (.gmulh d a b wa wb signed) := encoded_length _
theorem EncodedLength.gand (d a b : Reg) (wa wb : Bool) : EncodedLength.Statement (.gand d a b wa wb) := encoded_length _
theorem EncodedLength.gor (d a b : Reg) (wa wb : Bool) : EncodedLength.Statement (.gor d a b wa wb) := encoded_length _
theorem EncodedLength.gxor (d a b : Reg) (wa wb : Bool) : EncodedLength.Statement (.gxor d a b wa wb) := encoded_length _
theorem EncodedLength.gshl (d a b : Reg) (wa wb : Bool) : EncodedLength.Statement (.gshl d a b wa wb) := encoded_length _
theorem EncodedLength.gshr (d a b : Reg) (wa wb : Bool) : EncodedLength.Statement (.gshr d a b wa wb) := encoded_length _
theorem EncodedLength.gsar (d a b : Reg) (wa wb : Bool) : EncodedLength.Statement (.gsar d a b wa wb) := encoded_length _
theorem EncodedLength.gmin (d a b : Reg) (wa wb : Bool) : EncodedLength.Statement (.gmin d a b wa wb) := encoded_length _
theorem EncodedLength.gminn (d a b : Reg) (wa wb : Bool) : EncodedLength.Statement (.gminn d a b wa wb) := encoded_length _
theorem EncodedLength.gmax (d a b : Reg) (wa wb : Bool) : EncodedLength.Statement (.gmax d a b wa wb) := encoded_length _
theorem EncodedLength.gmaxn (d a b : Reg) (wa wb : Bool) : EncodedLength.Statement (.gmaxn d a b wa wb) := encoded_length _
theorem EncodedLength.gcmp (d a b : Reg) (wa wb : Bool) (cond : Cond) (ty : Ty) : EncodedLength.Statement (.gcmp d a b wa wb cond ty) := encoded_length _
theorem EncodedLength.gsel (d a b c : Reg) (wa wb wc : Bool) : EncodedLength.Statement (.gsel d a b c wa wb wc) := encoded_length _
theorem EncodedLength.gmov (d a : Reg) (wa : Bool) : EncodedLength.Statement (.gmov d a wa) := encoded_length _
theorem EncodedLength.gli (d : Reg) (imm : W32) : EncodedLength.Statement (.gli d imm) := encoded_length _
theorem EncodedLength.glih (d : Reg) (imm : W32) : EncodedLength.Statement (.glih d imm) := encoded_length _
theorem EncodedLength.gcnt (d a : Reg) (wa : Bool) : EncodedLength.Statement (.gcnt d a wa) := encoded_length _
theorem EncodedLength.gclz (d a : Reg) (wa : Bool) : EncodedLength.Statement (.gclz d a wa) := encoded_length _
theorem EncodedLength.gfadd (d a b : Reg) (wa wb : Bool) : EncodedLength.Statement (.gfadd d a b wa wb) := encoded_length _
theorem EncodedLength.gfmul (d a b : Reg) (wa wb : Bool) : EncodedLength.Statement (.gfmul d a b wa wb) := encoded_length _
theorem EncodedLength.gfma (d a b c : Reg) (wa wb wc : Bool) : EncodedLength.Statement (.gfma d a b c wa wb wc) := encoded_length _
theorem EncodedLength.gfcmp (d a b : Reg) (wa wb : Bool) (cond : Cond) : EncodedLength.Statement (.gfcmp d a b wa wb cond) := encoded_length _
theorem EncodedLength.gcvt (d a : Reg) (wa : Bool) (dst src : Ty) : EncodedLength.Statement (.gcvt d a wa dst src) := encoded_length _
theorem EncodedLength.barA (bar b : Reg) (wb : Bool) : EncodedLength.Statement (.barA bar b wb) := encoded_length _
theorem EncodedLength.barW (bar : Reg) : EncodedLength.Statement (.barW bar) := encoded_length _
theorem EncodedLength.barS (bar b : Reg) (wb : Bool) : EncodedLength.Statement (.barS bar b wb) := encoded_length _
theorem EncodedLength.qdef (a q : Reg) (wa : Bool) (wm1 : Fin 8) (depth : Nat) : EncodedLength.Statement (.qdef a q wa wm1 depth) := encoded_length _
theorem EncodedLength.qpsh (a q : Reg) (wa : Bool) : EncodedLength.Statement (.qpsh a q wa) := encoded_length _
theorem EncodedLength.qpop (d q : Reg) : EncodedLength.Statement (.qpop d q) := encoded_length _
theorem EncodedLength.fnc (obs : Obs) (ord : Order) : EncodedLength.Statement (.fnc obs ord) := encoded_length _
theorem EncodedLength.sdef (a b : Reg) (wa wb : Bool) : EncodedLength.Statement (.sdef a b wa wb) := encoded_length _
theorem EncodedLength.sacq (a : Reg) (wa : Bool) : EncodedLength.Statement (.sacq a wa) := encoded_length _
theorem EncodedLength.srel (a : Reg) (wa : Bool) : EncodedLength.Statement (.srel a wa) := encoded_length _
theorem EncodedLength.yieldp : EncodedLength.Statement (.yieldp) := encoded_length _
theorem EncodedLength.hret : EncodedLength.Statement (.hret) := encoded_length _
theorem EncodedLength.lnch (d a : Reg) (wa : Bool) : EncodedLength.Statement (.lnch d a wa) := encoded_length _
theorem EncodedLength.lwt (a : Reg) (wa : Bool) : EncodedLength.Statement (.lwt a wa) := encoded_length _
theorem EncodedLength.xring (a b : Reg) (wa wb : Bool) (count : Nat) : EncodedLength.Statement (.xring a b wa wb count) := encoded_length _
theorem EncodedLength.xseal (d : Reg) : EncodedLength.Statement (.xseal d) := encoded_length _
theorem EncodedLength.xwait (cnt : Reg) : EncodedLength.Statement (.xwait cnt) := encoded_length _
theorem EncodedLength.mseal (d : Reg) : EncodedLength.Statement (.mseal d) := encoded_length _
theorem EncodedLength.mwait (cnt : Reg) : EncodedLength.Statement (.mwait cnt) := encoded_length _
theorem EncodedLength.mzero (t : Reg) : EncodedLength.Statement (.mzero t) := encoded_length _
theorem EncodedLength.mld (t a : Reg) (wa : Bool) : EncodedLength.Statement (.mld t a wa) := encoded_length _
theorem EncodedLength.mst (t a : Reg) (wa : Bool) : EncodedLength.Statement (.mst t a wa) := encoded_length _
theorem EncodedLength.mma (t a b : Reg) (wa wb : Bool) : EncodedLength.Statement (.mma t a b wa wb) := encoded_length _
theorem EncodedLength.mmac (t a b : Reg) (wa wb : Bool) (num : BitVec 16) : EncodedLength.Statement (.mmac t a b wa wb num) := encoded_length _
theorem EncodedLength.tgath (a b c : Reg) (wa wb : Bool) (ty : Ty) (cnt : Fin 512) (dft : Bool) : EncodedLength.Statement (.tgath a b c wa wb ty cnt dft) := encoded_length _
theorem EncodedLength.rcall (d a b c : Reg) (wa wb wc may trp : Bool) (nr np : Nat) : EncodedLength.Statement (.rcall d a b c wa wb wc may trp nr np) := encoded_length _
theorem EncodedLength.fbeg : EncodedLength.Statement (.fbeg) := encoded_length _
theorem EncodedLength.fend : EncodedLength.Statement (.fend) := encoded_length _
theorem EncodedLength.fabt : EncodedLength.Statement (.fabt) := encoded_length _
theorem EncodedLength.fsta (d : Reg) : EncodedLength.Statement (.fsta d) := encoded_length _
theorem EncodedLength.gld (d a : Reg) (wa sx : Bool) (m : MemExt) : EncodedLength.Statement (.gld d a wa sx m) := encoded_length _
theorem EncodedLength.gst (a b : Reg) (wa wb : Bool) (m : MemExt) : EncodedLength.Statement (.gst a b wa wb m) := encoded_length _
theorem EncodedLength.gatm (d a b : Reg) (wa wb : Bool) (op : AtomOp) (m : MemExt) : EncodedLength.Statement (.gatm d a b wa wb op m) := encoded_length _
theorem EncodedLength.gred (a b : Reg) (wa wb : Bool) (op : AtomOp) (m : MemExt) : EncodedLength.Statement (.gred a b wa wb op m) := encoded_length _
theorem EncodedLength.thdl (d a : Reg) (wa : Bool) (mode : ThdlMode) (core : Fin 16) : EncodedLength.Statement (.thdl d a wa mode core) := encoded_length _
theorem EncodedLength.tgetU (d a b c : Reg) (wa wb : Bool) (ty : Ty) (dft acq : Bool) : EncodedLength.Statement (.tgetU d a b c wa wb ty dft acq) := encoded_length _
theorem EncodedLength.tinsU (d a b : Reg) (wa wb : Bool) (tag : BitVec 12) (prov : Bool) : EncodedLength.Statement (.tinsU d a b wa wb tag prov) := encoded_length _
theorem EncodedLength.tdelU (d a b : Reg) (wa wb : Bool) (ty : Ty) : EncodedLength.Statement (.tdelU d a b wa wb ty) := encoded_length _
theorem EncodedLength.trep (d a b : Reg) (wa wb : Bool) : EncodedLength.Statement (.trep d a b wa wb) := encoded_length _
theorem EncodedLength.tcom (d a b : Reg) (wa wb : Bool) (ty : Ty) (tag : BitVec 12) : EncodedLength.Statement (.tcom d a b wa wb ty tag) := encoded_length _
theorem EncodedLength.trbk (d a b : Reg) (wa wb : Bool) (ty : Ty) (tag : BitVec 12) : EncodedLength.Statement (.trbk d a b wa wb ty tag) := encoded_length _
theorem EncodedLength.tinfo (d a : Reg) (wa : Bool) (sel : Fin 11) : EncodedLength.Statement (.tinfo d a wa sel) := encoded_length _
theorem EncodedLength.cwb (a b : Reg) (wa wb : Bool) : EncodedLength.Statement (.cwb a b wa wb) := encoded_length _
theorem EncodedLength.cinv (a b : Reg) (wa wb : Bool) : EncodedLength.Statement (.cinv a b wa wb) := encoded_length _
theorem EncodedLength.cret (d a b : Reg) (wa wb : Bool) (ways : Nat) : EncodedLength.Statement (.cret d a b wa wb ways) := encoded_length _
theorem EncodedLength.cunp (a : Reg) (wa : Bool) : EncodedLength.Statement (.cunp a wa) := encoded_length _
theorem EncodedLength.chmode (a b : Reg) (wa wb : Bool) (mode : ChMode) : EncodedLength.Statement (.chmode a b wa wb mode) := encoded_length _
theorem EncodedLength.aphl (a b : Reg) (wa wb : Bool) : EncodedLength.Statement (.aphl a b wa wb) := encoded_length _
theorem EncodedLength.iaddI32 (d a b : Reg) (wa wb n : Bool) : EncodedLength.Statement (.iaddI32 d a b wa wb n) := encoded_length _
theorem EncodedLength.isubI32 (d a b : Reg) (wa wb n : Bool) : EncodedLength.Statement (.isubI32 d a b wa wb n) := encoded_length _
theorem EncodedLength.imulI32 (d a b : Reg) (wa wb n : Bool) : EncodedLength.Statement (.imulI32 d a b wa wb n) := encoded_length _
theorem EncodedLength.imulhI32 (d a b : Reg) (wa wb n : Bool) : EncodedLength.Statement (.imulhI32 d a b wa wb n) := encoded_length _
theorem EncodedLength.imulhN32 (d a b : Reg) (wa wb n : Bool) : EncodedLength.Statement (.imulhN32 d a b wa wb n) := encoded_length _
theorem EncodedLength.imadI32 (d a b c : Reg) (wa wb wc n : Bool) : EncodedLength.Statement (.imadI32 d a b c wa wb wc n) := encoded_length _
theorem EncodedLength.iaddI64 (d a b : Reg) (wa wb n : Bool) : EncodedLength.Statement (.iaddI64 d a b wa wb n) := encoded_length _
theorem EncodedLength.isubI64 (d a b : Reg) (wa wb n : Bool) : EncodedLength.Statement (.isubI64 d a b wa wb n) := encoded_length _
theorem EncodedLength.iminI32 (d a b : Reg) (wa wb n : Bool) : EncodedLength.Statement (.iminI32 d a b wa wb n) := encoded_length _
theorem EncodedLength.iminN32 (d a b : Reg) (wa wb n : Bool) : EncodedLength.Statement (.iminN32 d a b wa wb n) := encoded_length _
theorem EncodedLength.imaxI32 (d a b : Reg) (wa wb n : Bool) : EncodedLength.Statement (.imaxI32 d a b wa wb n) := encoded_length _
theorem EncodedLength.imaxN32 (d a b : Reg) (wa wb n : Bool) : EncodedLength.Statement (.imaxN32 d a b wa wb n) := encoded_length _
theorem EncodedLength.iabs (d a : Reg) (wa n : Bool) : EncodedLength.Statement (.iabs d a wa n) := encoded_length _
theorem EncodedLength.ineg (d a : Reg) (wa n : Bool) : EncodedLength.Statement (.ineg d a wa n) := encoded_length _
theorem EncodedLength.idivI32 (d a b : Reg) (wa wb n : Bool) : EncodedLength.Statement (.idivI32 d a b wa wb n) := encoded_length _
theorem EncodedLength.idivN32 (d a b : Reg) (wa wb n : Bool) : EncodedLength.Statement (.idivN32 d a b wa wb n) := encoded_length _
theorem EncodedLength.iand (d a b : Reg) (wa wb n : Bool) : EncodedLength.Statement (.iand d a b wa wb n) := encoded_length _
theorem EncodedLength.ior (d a b : Reg) (wa wb n : Bool) : EncodedLength.Statement (.ior d a b wa wb n) := encoded_length _
theorem EncodedLength.ixor (d a b : Reg) (wa wb n : Bool) : EncodedLength.Statement (.ixor d a b wa wb n) := encoded_length _
theorem EncodedLength.inot (d a : Reg) (wa n : Bool) : EncodedLength.Statement (.inot d a wa n) := encoded_length _
theorem EncodedLength.ishl (d a b : Reg) (wa wb n : Bool) : EncodedLength.Statement (.ishl d a b wa wb n) := encoded_length _
theorem EncodedLength.ishr (d a b : Reg) (wa wb n : Bool) : EncodedLength.Statement (.ishr d a b wa wb n) := encoded_length _
theorem EncodedLength.isar (d a b : Reg) (wa wb n : Bool) : EncodedLength.Statement (.isar d a b wa wb n) := encoded_length _
theorem EncodedLength.ibfe (d a : Reg) (wa n signed : Bool) (pos lm1 : Fin 32) : EncodedLength.Statement (.ibfe d a wa n signed pos lm1) := encoded_length _
theorem EncodedLength.ibfi (d a : Reg) (wa n : Bool) (pos lm1 : Fin 32) : EncodedLength.Statement (.ibfi d a wa n pos lm1) := encoded_length _
theorem EncodedLength.icnt (d a : Reg) (wa n : Bool) : EncodedLength.Statement (.icnt d a wa n) := encoded_length _
theorem EncodedLength.iclz (d a : Reg) (wa n : Bool) : EncodedLength.Statement (.iclz d a wa n) := encoded_length _
theorem EncodedLength.icmp (d a b : Reg) (wa wb n : Bool) (cond : Cond) (signed : Bool) : EncodedLength.Statement (.icmp d a b wa wb n cond signed) := encoded_length _
theorem EncodedLength.isel (d a b c : Reg) (wa wb wc n : Bool) : EncodedLength.Statement (.isel d a b c wa wb wc n) := encoded_length _
theorem EncodedLength.ipk (d a b : Reg) (wa wb n : Bool) : EncodedLength.Statement (.ipk d a b wa wb n) := encoded_length _
theorem EncodedLength.imov (d a : Reg) (wa n : Bool) : EncodedLength.Statement (.imov d a wa n) := encoded_length _
theorem EncodedLength.ili (d : Reg) (n : Bool) (imm : W32) : EncodedLength.Statement (.ili d n imm) := encoded_length _
theorem EncodedLength.faddF32 (d a b : Reg) (wa wb n : Bool) : EncodedLength.Statement (.faddF32 d a b wa wb n) := encoded_length _
theorem EncodedLength.fsubF32 (d a b : Reg) (wa wb n : Bool) : EncodedLength.Statement (.fsubF32 d a b wa wb n) := encoded_length _
theorem EncodedLength.fmulF32 (d a b : Reg) (wa wb n : Bool) : EncodedLength.Statement (.fmulF32 d a b wa wb n) := encoded_length _
theorem EncodedLength.fmaF32 (d a b c : Reg) (wa wb wc n : Bool) : EncodedLength.Statement (.fmaF32 d a b c wa wb wc n) := encoded_length _
theorem EncodedLength.fminF32 (d a b : Reg) (wa wb n : Bool) : EncodedLength.Statement (.fminF32 d a b wa wb n) := encoded_length _
theorem EncodedLength.fmaxF32 (d a b : Reg) (wa wb n : Bool) : EncodedLength.Statement (.fmaxF32 d a b wa wb n) := encoded_length _
theorem EncodedLength.fcmpF32 (d a b : Reg) (wa wb n : Bool) (cond : Cond) : EncodedLength.Statement (.fcmpF32 d a b wa wb n cond) := encoded_length _
theorem EncodedLength.fabs (d a : Reg) (wa n : Bool) : EncodedLength.Statement (.fabs d a wa n) := encoded_length _
theorem EncodedLength.faddH2 (d a b : Reg) (wa wb n bf : Bool) : EncodedLength.Statement (.faddH2 d a b wa wb n bf) := encoded_length _
theorem EncodedLength.fmulH2 (d a b : Reg) (wa wb n bf : Bool) : EncodedLength.Statement (.fmulH2 d a b wa wb n bf) := encoded_length _
theorem EncodedLength.fmaH2 (d a b c : Reg) (wa wb wc n bf : Bool) : EncodedLength.Statement (.fmaH2 d a b c wa wb wc n bf) := encoded_length _
theorem EncodedLength.fdp2 (d a b c : Reg) (wa wb wc n bf : Bool) : EncodedLength.Statement (.fdp2 d a b c wa wb wc n bf) := encoded_length _
theorem EncodedLength.frcp (d a : Reg) (wa n : Bool) : EncodedLength.Statement (.frcp d a wa n) := encoded_length _
theorem EncodedLength.frsq (d a : Reg) (wa n : Bool) : EncodedLength.Statement (.frsq d a wa n) := encoded_length _
theorem EncodedLength.fsqrt (d a : Reg) (wa n : Bool) : EncodedLength.Statement (.fsqrt d a wa n) := encoded_length _
theorem EncodedLength.fdivF32 (d a b : Reg) (wa wb n : Bool) : EncodedLength.Statement (.fdivF32 d a b wa wb n) := encoded_length _
theorem EncodedLength.fex2 (d a : Reg) (wa n : Bool) : EncodedLength.Statement (.fex2 d a wa n) := encoded_length _
theorem EncodedLength.flg2 (d a : Reg) (wa n : Bool) : EncodedLength.Statement (.flg2 d a wa n) := encoded_length _
theorem EncodedLength.fsnp (d a : Reg) (wa n : Bool) : EncodedLength.Statement (.fsnp d a wa n) := encoded_length _
theorem EncodedLength.fcsp (d a : Reg) (wa n : Bool) : EncodedLength.Statement (.fcsp d a wa n) := encoded_length _
theorem EncodedLength.ftnh (d a : Reg) (wa n : Bool) : EncodedLength.Statement (.ftnh d a wa n) := encoded_length _
theorem EncodedLength.cvt (d a : Reg) (wa n : Bool) (dst src : Ty) : EncodedLength.Statement (.cvt d a wa n dst src) := encoded_length _
theorem EncodedLength.xpk (d a c : Reg) (wa n x4 : Bool) : EncodedLength.Statement (.xpk d a c wa n x4) := encoded_length _
theorem EncodedLength.xupk (d a c : Reg) (wa wc n x4 : Bool) : EncodedLength.Statement (.xupk d a c wa wc n x4) := encoded_length _
theorem EncodedLength.shfl (d a b : Reg) (wa wb n : Bool) (mode : ShflMode) : EncodedLength.Statement (.shfl d a b wa wb n mode) := encoded_length _
theorem EncodedLength.gtov (d a : Reg) (wa n : Bool) : EncodedLength.Statement (.gtov d a wa n) := encoded_length _
theorem EncodedLength.vtog (d a b : Reg) (wa wb : Bool) : EncodedLength.Statement (.vtog d a b wa wb) := encoded_length _
theorem EncodedLength.vred (d a : Reg) (wa n : Bool) (op : RedOp) (ty : Ty) : EncodedLength.Statement (.vred d a wa n op ty) := encoded_length _
theorem EncodedLength.vscn (d a : Reg) (wa n : Bool) (op : RedOp) (ty : Ty) : EncodedLength.Statement (.vscn d a wa n op ty) := encoded_length _
theorem EncodedLength.vote (d a : Reg) (wa n : Bool) (mode : VoteMode) : EncodedLength.Statement (.vote d a wa n mode) := encoded_length _
theorem EncodedLength.ipfx (d a : Reg) (wa n : Bool) : EncodedLength.Statement (.ipfx d a wa n) := encoded_length _
theorem EncodedLength.rnd (d a : Reg) (wa n : Bool) : EncodedLength.Statement (.rnd d a wa n) := encoded_length _
theorem EncodedLength.samp (d a b c : Reg) (wa wb wc n : Bool) : EncodedLength.Statement (.samp d a b c wa wb wc n) := encoded_length _
theorem EncodedLength.ld (d a : Reg) (wa n sx : Bool) (m : MemExt) : EncodedLength.Statement (.ld d a wa n sx m) := encoded_length _
theorem EncodedLength.st (a b : Reg) (wa wb n : Bool) (m : MemExt) : EncodedLength.Statement (.st a b wa wb n m) := encoded_length _
theorem EncodedLength.atm (d a b : Reg) (wa wb n : Bool) (op : AtomOp) (m : MemExt) : EncodedLength.Statement (.atm d a b wa wb n op m) := encoded_length _
theorem EncodedLength.red (a b : Reg) (wa wb n : Bool) (op : AtomOp) (m : MemExt) : EncodedLength.Statement (.red a b wa wb n op m) := encoded_length _
theorem EncodedLength.trd (d a : Reg) (wa n acq : Bool) (len : Nat) : EncodedLength.Statement (.trd d a wa n acq len) := encoded_length _
theorem EncodedLength.tgetV (d a b c : Reg) (wa wb n : Bool) (ty : Ty) (dft acq : Bool) : EncodedLength.Statement (.tgetV d a b c wa wb n ty dft acq) := encoded_length _
theorem EncodedLength.tinsV (d a b : Reg) (wa wb n : Bool) (tag : BitVec 12) (prov : Bool) : EncodedLength.Statement (.tinsV d a b wa wb n tag prov) := encoded_length _
theorem EncodedLength.tdelV (d a b : Reg) (wa wb n : Bool) (ty : Ty) : EncodedLength.Statement (.tdelV d a b wa wb n ty) := encoded_length _
theorem EncodedLength.tscn (d a b c : Reg) (wa wb wc n : Bool) (ty : Ty) (dsc : Bool) : EncodedLength.Statement (.tscn d a b c wa wb wc n ty dsc) := encoded_length _
theorem EncodedLength.tstp (d a c : Reg) (wa n : Bool) (ty : Ty) (acq : Bool) : EncodedLength.Statement (.tstp d a c wa n ty acq) := encoded_length _
theorem EncodedLength.rcallv (d a b c : Reg) (wa wb wc n may trp : Bool) (nr np : Nat) : EncodedLength.Statement (.rcallv d a b c wa wb wc n may trp nr np) := encoded_length _
theorem EncodedLength.pathArrive (gid slot : Nat) : EncodedLength.Statement (.pathArrive gid slot) := encoded_length _
theorem EncodedLength.registerFill (x : Piece) : EncodedLength.Statement (.registerFill x) := encoded_length _
theorem EncodedLength.handleWalkComplete (die page : Nat) : EncodedLength.Statement (.handleWalkComplete die page) := encoded_length _
theorem EncodedLength.writeAck (x : Piece) : EncodedLength.Statement (.writeAck x) := encoded_length _
theorem EncodedLength.l1Eviction (cluster line : Nat) : EncodedLength.Statement (.l1Eviction cluster line) := encoded_length _
theorem EncodedLength.homeWriteApply (x : Piece) : EncodedLength.Statement (.homeWriteApply x) := encoded_length _
theorem EncodedLength.homeAtomicApply (id : Nat) : EncodedLength.Statement (.homeAtomicApply id) := encoded_length _
theorem EncodedLength.packetArrival (src dst seq : Nat) : EncodedLength.Statement (.packetArrival src dst seq) := encoded_length _
theorem EncodedLength.flushMarkerArrival (src dst seq path : Nat) : EncodedLength.Statement (.flushMarkerArrival src dst seq path) := encoded_length _
theorem EncodedLength.linkRetransmit (src dst seq : Nat) : EncodedLength.Statement (.linkRetransmit src dst seq) := encoded_length _
theorem EncodedLength.scoreboardEntryRetire (core op : Nat) (w : Bool) : EncodedLength.Statement (.scoreboardEntryRetire core op w) := encoded_length _
theorem EncodedLength.engineLineApply (x : Piece) : EncodedLength.Statement (.engineLineApply x) := encoded_length _
theorem EncodedLength.spadDeliveryArrival (id target : Nat) : EncodedLength.Statement (.spadDeliveryArrival id target) := encoded_length _
theorem EncodedLength.copyEntryComplete (id : Nat) : EncodedLength.Statement (.copyEntryComplete id) := encoded_length _
theorem EncodedLength.atsInvalidation (fn lo hi : Nat) : EncodedLength.Statement (.atsInvalidation fn lo hi) := encoded_length _
theorem EncodedLength.atsTranslationResponse (id : Nat) (granted : Option Nat) : EncodedLength.Statement (.atsTranslationResponse id granted) := encoded_length _
theorem EncodedLength.gatherComplete (id : Nat) : EncodedLength.Statement (.gatherComplete id) := encoded_length _
theorem EncodedLength.matrixOpStart (id : Nat) : EncodedLength.Statement (.matrixOpStart id) := encoded_length _
theorem EncodedLength.matrixOpComplete (id : Nat) : EncodedLength.Statement (.matrixOpComplete id) := encoded_length _
theorem EncodedLength.mmacRendezvous (launch gang num : Nat) : EncodedLength.Statement (.mmacRendezvous launch gang num) := encoded_length _
theorem EncodedLength.matrixNarrow (core : Nat) : EncodedLength.Statement (.matrixNarrow core) := encoded_length _
theorem EncodedLength.regionCommit (gid : Nat) : EncodedLength.Statement (.regionCommit gid) := encoded_length _
theorem EncodedLength.regionAbortSource (gid : Nat) : EncodedLength.Statement (.regionAbortSource gid) := encoded_length _
theorem EncodedLength.relocationStart (tid slot stack : Nat) : EncodedLength.Statement (.relocationStart tid slot stack) := encoded_length _
theorem EncodedLength.relocationFlip (tid slot : Nat) : EncodedLength.Statement (.relocationFlip tid slot) := encoded_length _
theorem EncodedLength.rcallExecute (id : Nat) : EncodedLength.Statement (.rcallExecute id) := encoded_length _
theorem EncodedLength.rcallReply (id : Nat) : EncodedLength.Statement (.rcallReply id) := encoded_length _
theorem EncodedLength.rcallTimeout (id : Nat) : EncodedLength.Statement (.rcallTimeout id) := encoded_length _
theorem EncodedLength.aphidSweepStep (ch : Nat) : EncodedLength.Statement (.aphidSweepStep ch) := encoded_length _
theorem EncodedLength.activationAlert (ch : Nat) : EncodedLength.Statement (.activationAlert ch) := encoded_length _
theorem EncodedLength.launchReferenceTake (q : Nat) : EncodedLength.Statement (.launchReferenceTake q) := encoded_length _
theorem EncodedLength.keyUnseal (launch : Nat) : EncodedLength.Statement (.keyUnseal launch) := encoded_length _
theorem EncodedLength.routeLoad (launch : Nat) (crcOk : Bool) : EncodedLength.Statement (.routeLoad launch crcOk) := encoded_length _
theorem EncodedLength.routeProbeTimeout (launch : Nat) : EncodedLength.Statement (.routeProbeTimeout launch) := encoded_length _
theorem EncodedLength.railsStable (launch : Nat) : EncodedLength.Statement (.railsStable launch) := encoded_length _
theorem EncodedLength.priorityAging (launch : Nat) : EncodedLength.Statement (.priorityAging launch) := encoded_length _
theorem EncodedLength.preemptSignal (launch team : Nat) : EncodedLength.Statement (.preemptSignal launch team) := encoded_length _
theorem EncodedLength.preemptEntry (gid : Nat) : EncodedLength.Statement (.preemptEntry gid) := encoded_length _
theorem EncodedLength.preemptDeadlineMiss (team : Nat) : EncodedLength.Statement (.preemptDeadlineMiss team) := encoded_length _
theorem EncodedLength.teamResume (team : Nat) : EncodedLength.Statement (.teamResume team) := encoded_length _
theorem EncodedLength.trapEntry (gid slot code detail : Nat) : EncodedLength.Statement (.trapEntry gid slot code detail) := encoded_length _
theorem EncodedLength.launchRetire (launch : Nat) : EncodedLength.Statement (.launchRetire launch) := encoded_length _
theorem EncodedLength.completionRecordWrite (q : Nat) : EncodedLength.Statement (.completionRecordWrite q) := encoded_length _
theorem EncodedLength.unitFailure (kind : UnitKind) (n : Nat) : EncodedLength.Statement (.unitFailure kind n) := encoded_length _
theorem EncodedLength.pseudoChannelRetire (ch : Nat) : EncodedLength.Statement (.pseudoChannelRetire ch) := encoded_length _
theorem EncodedLength.channelNarrow (ch : Nat) : EncodedLength.Statement (.channelNarrow ch) := encoded_length _
theorem EncodedLength.eccUncorrectable (tgt : EccTarget) : EncodedLength.Statement (.eccUncorrectable tgt) := encoded_length _
theorem EncodedLength.dieOvertemp (die : Nat) : EncodedLength.Statement (.dieOvertemp die) := encoded_length _
theorem EncodedLength.moduleReset (msg : StartMsg) : EncodedLength.Statement (.moduleReset msg) := encoded_length _
theorem EncodedLength.functionLevelReset (tenant : Nat) : EncodedLength.Statement (.functionLevelReset tenant) := encoded_length _
theorem EncodedLength.ideCheckFailure (stream : Nat) : EncodedLength.Statement (.ideCheckFailure stream) := encoded_length _
theorem EncodedLength.stopInterface (tenant : Nat) : EncodedLength.Statement (.stopInterface tenant) := encoded_length _
theorem EncodedLength.tdispRequest (tenant : Nat) (msg : TdispMsg) : EncodedLength.Statement (.tdispRequest tenant msg) := encoded_length _
theorem EncodedLength.setWrapKey (tenant : Nat) (msg : WrapMsg) : EncodedLength.Statement (.setWrapKey tenant msg) := encoded_length _
theorem EncodedLength.challenge (nonce : BitVec 256) : EncodedLength.Statement (.challenge nonce) := encoded_length _
theorem EncodedLength.getMeasurements (index : Nat) (nonce : BitVec 256) : EncodedLength.Statement (.getMeasurements index nonce) := encoded_length _
theorem EncodedLength.keyExchange (peer : BitVec 768) : EncodedLength.Statement (.keyExchange peer) := encoded_length _
theorem EncodedLength.tblCreate (fn : Nat) : EncodedLength.Statement (.tblCreate fn) := encoded_length _
theorem EncodedLength.tblModify (fn : Nat) : EncodedLength.Statement (.tblModify fn) := encoded_length _
theorem EncodedLength.tblDestroy (fn : Nat) : EncodedLength.Statement (.tblDestroy fn) := encoded_length _
theorem EncodedLength.tblLoad (fn : Nat) : EncodedLength.Statement (.tblLoad fn) := encoded_length _
theorem EncodedLength.tblRead (fn : Nat) : EncodedLength.Statement (.tblRead fn) := encoded_length _
theorem EncodedLength.tblRebuild (fn : Nat) : EncodedLength.Statement (.tblRebuild fn) := encoded_length _
theorem EncodedLength.stop (fn : Nat) : EncodedLength.Statement (.stop fn) := encoded_length _
theorem EncodedLength.chmap (fn : Nat) : EncodedLength.Statement (.chmap fn) := encoded_length _
theorem EncodedLength.qassign (fn : Nat) : EncodedLength.Statement (.qassign fn) := encoded_length _
theorem EncodedLength.masks (fn : Nat) : EncodedLength.Statement (.masks fn) := encoded_length _
theorem EncodedLength.reserve (fn : Nat) : EncodedLength.Statement (.reserve fn) := encoded_length _
theorem EncodedLength.clearStart (fn : Nat) : EncodedLength.Statement (.clearStart fn) := encoded_length _
theorem EncodedLength.sqtailDoorbell (fn q val : Nat) : EncodedLength.Statement (.sqtailDoorbell fn q val) := encoded_length _
theorem EncodedLength.cqheadWrite (fn q val : Nat) : EncodedLength.Statement (.cqheadWrite fn q val) := encoded_length _
theorem EncodedLength.registerWrite (fn off : Nat) (val : W64) : EncodedLength.Statement (.registerWrite fn off val) := encoded_length _
theorem EncodedLength.hostLinkTraining (rate width : Nat) (cxl : Bool) : EncodedLength.Statement (.hostLinkTraining rate width cxl) := encoded_length _
theorem EncodedLength.vfEnable (tenant : Nat) (on : Bool) : EncodedLength.Statement (.vfEnable tenant on) := encoded_length _
theorem EncodedLength.launchDispatch : EncodedLength.Statement (.launchDispatch) := encoded_length _
theorem EncodedLength.teamPlace : EncodedLength.Statement (.teamPlace) := encoded_length _
theorem EncodedLength.gangStart : EncodedLength.Statement (.gangStart) := encoded_length _
theorem EncodedLength.candidateTakeover : EncodedLength.Statement (.candidateTakeover) := encoded_length _
theorem EncodedLength.victimSelect : EncodedLength.Statement (.victimSelect) := encoded_length _
theorem EncodedLength.powerAlarmRaise : EncodedLength.Statement (.powerAlarmRaise) := encoded_length _
theorem EncodedLength.powerAlarmClear : EncodedLength.Statement (.powerAlarmClear) := encoded_length _
theorem EncodedLength.getVersion : EncodedLength.Statement (.getVersion) := encoded_length _
theorem EncodedLength.getCapabilities : EncodedLength.Statement (.getCapabilities) := encoded_length _
theorem EncodedLength.negotiateAlgorithms : EncodedLength.Statement (.negotiateAlgorithms) := encoded_length _
theorem EncodedLength.getDigests : EncodedLength.Statement (.getDigests) := encoded_length _
theorem EncodedLength.getCertificate : EncodedLength.Statement (.getCertificate) := encoded_length _
theorem EncodedLength.finish : EncodedLength.Statement (.finish) := encoded_length _
theorem EncodedLength.correctedError : EncodedLength.Statement (.correctedError) := encoded_length _

end Sys2Proof.Laws
end

