-- ==== Sys2Proof/Laws/Signatures.lean ====
section
/-! SUPPORT. What the signature functions of R319 answer on two keys for which no search is needed: the identity of
the curve of Ed25519, and an ML-DSA key whose t1 is 0; and the size of SHAKE256's answers. -/

namespace Sys2Proof.Machine

set_option Elab.async false

/-- The identity of the curve is its own double. -/
theorem identity_multiple : ∀ n e, mulBits edAdd (0, 1) n (0, 1) e = (0, 1)
  | 0, _ => rfl
  | n + 1, e => by
    have h : edAdd (0, 1) (0, 1) = (0, 1) := by decide +kernel
    simp only [mulBits, h, identity_multiple n, ite_self]
theorem zero_multiple (n : Nat) : ∀ x, mulBits edAdd (0, 1) n x 0 = (0, 1) := by
  induction n with
  | zero => exact fun _ => rfl
  | succ n ih => exact fun x => by simp [mulBits, ih]

/-- R319: a signature of the identity's key, whose scalar is 0, verifies on any message. -/
theorem identity_verifies (msg : List Nat) : edVerify (1 :: List.replicate 31 0) msg (1 :: List.replicate 63 0) = true := by
  have hd : edDecode (1 :: List.replicate 31 0) = some (0, 1) := by decide +kernel
  have ht : (1 :: List.replicate 63 0).take 32 = 1 :: List.replicate 31 0 := by decide
  have h : edAdd (0, 1) (0, 1) = (0, 1) := by decide +kernel
  have hl : leOf ((List.replicate 63 0).drop 31 |>.take 32) = 0 := by decide +kernel
  simp only [edVerify, ht, hd, edMul, identity_multiple, h, List.drop_succ_cons, hl, zero_multiple]
  decide +kernel

/-- The polynomial 0. -/
def zeroPoly : Poly := List.replicate 256 0
theorem poly_zero {f : Nat → Nat} (h : ∀ i, f i = 0) : poly f = zeroPoly := by
  rw [funext h]
  exact List.map_const' .. |>.trans (by rw [List.length_range]; rfl)
theorem ntt_zero : ntt zeroPoly = zeroPoly := by
  have h : ∀ (zs : Array Nat) (e n : Nat) (l : List Nat), (∀ x ∈ l, x = 0) →
      (l.foldl (fun (s : Nat × Nat) x => ((s.1 + x * zs.getD (s.2 * e % 512) 0) % mlQ, s.2 + 1)) (0, n)).1 = 0 := by
    intro zs e n l
    induction l generalizing n with
    | nil => exact fun _ => rfl
    | cons a l ih =>
      intro hl
      simp only [List.foldl_cons, hl a (by simp), Nat.zero_mul, Nat.add_zero, Nat.zero_mod]
      exact ih _ fun x hx => hl x (by simp [hx])
  exact poly_zero fun i => h _ _ _ _ fun x hx => List.eq_of_mem_replicate hx
theorem mul_zeros (p : Poly) (n : Nat) :
    List.zipWith (fun a b => a * b % mlQ) p (List.replicate n 0) = List.replicate (min p.length n) 0 := by
  apply List.ext_getElem <;> simp
theorem add_zeros (n m : Nat) : polyAdd (List.replicate n 0) (List.replicate m 0) = List.replicate (min n m) 0 := by
  apply List.ext_getElem <;> simp [polyAdd]
theorem invNtt_zeros (n : Nat) : invNtt (List.replicate n 0) = zeroPoly := by
  have h : ∀ (zs : Array Nat) (j : Nat) (l : List (Nat × Nat)), (∀ x ∈ l, x.1 = 0) →
      l.foldl (fun s x => (s + x.1 * zs.getD ((512 - j * x.2 % 512) % 512) 0) % mlQ) 0 = 0 := by
    intro zs j l hl
    induction l with
    | nil => rfl
    | cons a l ih =>
      simp only [List.foldl_cons, hl a (by simp), Nat.zero_mul, Nat.add_zero, Nat.zero_mod]
      exact ih fun x hx => hl x (by simp [hx])
  refine poly_zero fun i => ?_
  rw [h _ _ _ fun x hx => List.eq_of_mem_replicate (List.of_mem_zip hx).1, Nat.mul_zero,
    Nat.zero_mod]
theorem matrix_zeros (a : List (List Poly)) :
    mlMatrix a (List.replicate 5 zeroPoly) = List.replicate a.length zeroPoly := by
  have h : ∀ (row : List (Poly × Poly)) (n : Nat), (∀ x ∈ row, x.2 = zeroPoly) → ∃ m,
      row.foldl (fun s x => polyAdd s (List.zipWith (fun p q => p * q % mlQ) x.1 x.2)) (List.replicate n 0) =
        List.replicate m 0 := by
    intro row
    induction row with
    | nil => exact fun n _ => ⟨n, rfl⟩
    | cons x row ih =>
      intro n hr
      rw [List.foldl_cons, hr x (by simp), zeroPoly, mul_zeros, add_zeros]
      exact ih _ fun y hy => hr y (by simp [hy])
  simp only [mlMatrix, List.map_replicate, ntt_zero]
  refine List.eq_replicate_iff.2 ⟨List.length_map .., fun p hp => ?_⟩
  obtain ⟨row, -, rfl⟩ := List.mem_map.1 hp
  obtain ⟨m, hm⟩ := h (row.zip (List.replicate 5 zeroPoly)) 256 fun x hx =>
    List.eq_of_mem_replicate (List.of_mem_zip hx).2
  rw [hm, invNtt_zeros]
theorem polyMul_zeros (p : Poly) : polyMul p zeroPoly = zeroPoly := by
  have h : ∀ l : List Nat, (∀ i ∈ l, i < 256) → l.foldl (fun r i =>
      let x := p.getD i 0
      if x = 0 then r
      else polyAdd r (((zeroPoly.drop (256 - i)).map fun y => subMod mlQ 0 (x * y)) ++
        (zeroPoly.take (256 - i)).map fun y => x * y % mlQ)) (List.replicate 256 0) = List.replicate 256 0 := by
    intro l
    induction l with
    | nil => exact fun _ => rfl
    | cons i l ih =>
      intro hl
      have hi := hl i (by simp)
      have : polyAdd (List.replicate 256 0) (((zeroPoly.drop (256 - i)).map fun y => subMod mlQ 0 (p.getD i 0 * y)) ++
        (zeroPoly.take (256 - i)).map fun y => p.getD i 0 * y % mlQ) = List.replicate 256 0 := by
        have e : ((zeroPoly.drop (256 - i)).map fun y => subMod mlQ 0 (p.getD i 0 * y)) ++
          (zeroPoly.take (256 - i)).map (fun y => p.getD i 0 * y % mlQ) = List.replicate 256 0 := by
          refine List.eq_replicate_iff.2 ⟨?_, fun y hy => ?_⟩
          · rw [List.length_append, List.length_map, List.length_map, List.length_drop, List.length_take, zeroPoly,
              List.length_replicate]
            omega
          · rcases List.mem_append.1 hy with h | h <;> obtain ⟨z, hz, rfl⟩ := List.mem_map.1 h
            · rw [List.eq_of_mem_replicate (List.mem_of_mem_drop hz), Nat.mul_zero]
              rfl
            · rw [List.eq_of_mem_replicate (List.mem_of_mem_take hz), Nat.mul_zero]
              rfl
        rw [e, add_zeros]
        rfl
      rw [List.foldl_cons]
      simp only [this, ite_self]
      exact ih fun j hj => hl j (by simp [hj])
  exact h _ fun i hi => List.mem_range.1 hi

theorem natLe_length : ∀ n x, (natLe n x).length = n
  | 0, _ => rfl
  | n + 1, x => congrArg (· + 1) (natLe_length n (x / 256))
theorem natLe_small {b : Nat} : ∀ {n x}, b ∈ natLe n x → b < 256
  | 0, _, h => by cases h
  | n + 1, x, h => by
    rcases List.mem_cons.1 h with rfl | h
    · exact Nat.mod_lt _ (by decide)
    · exact natLe_small h
theorem keccak_length (a : List Nat) : (keccakF a).length = 25 := by
  rw [keccakF, show List.range 24 = List.range 23 ++ [23] from rfl, List.map_append, List.foldl_append]
  exact List.length_map .. |>.trans List.length_range
theorem absorbed_length (rate : Nat) : ∀ (n : Nat) (a m : List Nat), a.length = 25 → (absorb rate n a m).length = 25
  | 0, _, _, h => h
  | n + 1, _, _, _ => absorbed_length rate n _ _ (keccak_length _)
/-- SHAKE256 answers as many bytes as are asked for. -/
theorem shake_bytes (m : List Nat) : (shake256 48 m).length = 48 ∧ ∀ b ∈ shake256 48 m, b < 256 := by
  refine ⟨?_, fun b hb => ?_⟩
  · rw [shake256, List.length_take, shake, squeezed, squeezed, List.append_nil, List.length_take, List.length_flatMap]
    simp only [natLe_length, List.map_const', List.sum_replicate_nat, absorbed_length _ _ _ _ (List.length_replicate ..)]
    decide
  · rw [shake256, shake, squeezed, squeezed, List.append_nil] at hb
    obtain ⟨x, -, hx⟩ := List.mem_flatMap.1 (List.mem_of_mem_take (List.mem_of_mem_take hb))
    exact natLe_small hx

/-- The challenge of the zero vector for a message under the key whose t1 is 0. -/
def zeroChallenge (msg : List Nat) : List Nat :=
  shake256 48 (mlMessage (List.replicate 1952 0) msg ++ mlHigh (List.replicate 6 zeroPoly) noHints)
/-- The packed zero vector, and no hint. -/
def zeroRest : List Nat := (List.replicate 640 [0, 0, 8, 0, 0x80]).flatten ++ List.replicate 61 0
/-- R319: the zero vector is a signature of any message under the ML-DSA key whose t1 is 0. -/
theorem zero_verifies (msg : List Nat) :
    mlVerify (List.replicate 1952 0) msg (zeroChallenge msg ++ zeroRest) = true := by
  have hn : (zeroChallenge msg).length = 48 := (shake_bytes _).1
  have hd (i : Nat) : (zeroChallenge msg ++ zeroRest).drop (48 + i) = zeroRest.drop i := by
    rw [← hn, List.drop_length_add_append]
  have ht : (zeroChallenge msg ++ zeroRest).take 48 = zeroChallenge msg := by rw [← hn, List.take_left]
  have hz : ((List.range 5).map fun i => (unpackBits 20 ((zeroRest.drop (640 * i)).take 640)).map maskCoeff) =
      List.replicate 5 zeroPoly := by decide +kernel
  have h1 : ((List.range 6).map fun i => unpackBits 10 (((List.replicate 1952 0).drop (32 + 320 * i)).take 320)) =
      List.replicate 6 zeroPoly := by decide +kernel
  have hp : zeroPoly.map (fun x => x * 8192 % mlQ) = zeroPoly := by decide +kernel
  have hw : List.zipWith polySub (List.replicate 6 zeroPoly) (List.replicate 6 zeroPoly) =
      List.replicate 6 zeroPoly := by decide +kernel
  have hh : hintOf (zeroRest.drop 3200) = some noHints := by decide +kernel
  have hl : (expandA ((List.replicate 1952 0).take 32)).length = 6 := rfl
  have hs : (zeroChallenge msg ++ zeroRest).length = 3309 := by
    rw [List.length_append, hn]
    decide +kernel
  rw [mlVerify, show (3248 : Nat) = 48 + 3200 from rfl]
  simp only [hd, ht, hz, matrix_zeros, hl, h1, List.map_replicate, hp, polyMul_zeros, hw, hh, hs]
  have hb : ((List.replicate 1952 0).length == 1952 && (3309 == 3309) && (List.replicate 5 zeroPoly).all fun p =>
      decide (polyNorm p < mlGamma1 - mlBeta)) = true := by decide +kernel
  rw [Bool.and_eq_true]
  exact ⟨hb, beq_iff_eq.2 (by rw [zeroChallenge])⟩

/-- Bytes as digits. -/
def bytes8 (l : List Nat) : List Byte := l.map (BitVec.ofNat 8)
theorem bytes8_back {l : List Nat} (h : ∀ b ∈ l, b < 256) : (bytes8 l).map (·.toNat) = l := by
  rw [bytes8, List.map_map]
  exact (List.map_congr_left fun b hb => Nat.mod_eq_of_lt (h b hb)).trans (List.map_id l)

end Sys2Proof.Machine
end

