-- ==== Sys2Proof/Tests/Slice0.lean ====
section
/-! SUPPORT. The model's own tests: ill-formed terms, words from the spec's encodings, single steps, and a
witness for the hypotheses of every statement. -/

open Sys2Proof Sys2Proof.Machine

namespace Sys2Proof.Tests

set_option Elab.async false

/-! ### Ill-formed terms (R44, R67, R70 steps 4 and 5) -/

theorem test_wf_special_register : Instr.wf (.gsr 5 12) = true ∧ Instr.wf (.gsr 5 13) = false := by decide
theorem test_wf_fmt : Instr.wf (.fmts 0xCB) = true ∧ Instr.wf (.fmts 0x1) = false ∧
    Instr.wf (.fmts 0x10) = false ∧ Instr.wf (.fmts 0x200) = false := by decide
theorem test_wf_uniform_compare : Instr.wf (.gcmp 1 2 3 false false .ge .i64) = true ∧
    Instr.wf (.gcmp 1 2 3 false false .un .i64) = false ∧
    Instr.wf (.gcmp 1 2 3 false false .eq .f32) = false := by decide
theorem test_wf_conversion_types : Instr.wf (.gcvt 1 2 false .x8 .f32) = false ∧
    Instr.wf (.cvt 1 2 false false .f32 .x4) = false ∧ Instr.wf (.cvt 1 2 false false .i64 .f32) = false ∧
    Instr.wf (.cvt 2 1 false false .f32 .n64) = false ∧ Instr.wf (.cvt 2 1 false false .i64 .e5) = true := by
  decide
theorem test_wf_barrier_number : Instr.wf (.barA 47 1 false) = true ∧ Instr.wf (.barA 48 1 false) = false ∧
    Instr.wf (.barW 48) = false ∧ Instr.wf (.barS 48 1 false) = false := by decide
theorem test_wf_queue_number : Instr.wf (.qdef 1 15 false 0 4096) = true ∧
    Instr.wf (.qdef 1 16 false 0 4096) = false ∧ Instr.wf (.qdef 1 15 false 0 4097) = false ∧
    Instr.wf (.qpsh 1 16 false) = false ∧ Instr.wf (.qpop 1 16) = false := by decide
theorem test_wf_fence_order : Instr.wf (.fnc ⟨true, false, false, false, false⟩ .relaxed) = false := by decide
theorem test_wf_ring_count : Instr.wf (.xring 1 2 false false 16384) = true ∧
    Instr.wf (.xring 1 2 false false 16385) = false := by decide
theorem test_wf_tile : Instr.wf (.mzero 27) = true ∧ Instr.wf (.mzero 28) = false ∧
    Instr.wf (.mld 28 1 false) = false ∧ Instr.wf (.mst 28 1 false) = false ∧
    Instr.wf (.mma 28 0 32 false false) = false ∧ Instr.wf (.mma 0 1 32 false false) = false ∧
    Instr.wf (.mma 0 0 33 false false) = false ∧ Instr.wf (.mmac 19 0 32 false false 0) = true ∧
    Instr.wf (.mmac 20 0 32 false false 0) = false ∧ Instr.wf (.mmac 0 1 32 false false 0) = false ∧
    Instr.wf (.mmac 0 0 33 false false 0) = false := by decide
theorem test_wf_gather_key : Instr.wf (.tgath 1 2 3 false false .f32 0 false) = false := by decide
theorem test_wf_remote_call : Instr.wf (.rcall 4 5 6 7 false false false false false 4 8) = true ∧
    Instr.wf (.rcall 4 5 6 7 false false false false false 5 8) = false ∧
    Instr.wf (.rcall 4 5 6 7 false false false false false 4 9) = false ∧
    Instr.wf (.rcall 4 5 6 7 false false false false false 4 0) = false ∧
    Instr.wf (.rcall 4 5 0 7 false true false false false 4 0) = false ∧
    Instr.wf (.rcall 124 5 6 7 false false false false false 4 1) = false ∧
    Instr.wf (.rcall 4 5 121 7 false false false false false 1 8) = false := by decide
theorem test_wf_lane_remote_call :
    Instr.wf (.rcallv 4 6 8 7 false false false false false false 2 4) = true ∧
    Instr.wf (.rcallv 4 6 8 7 false false false false false false 3 4) = false ∧
    Instr.wf (.rcallv 4 6 8 7 false false false false false false 2 5) = false ∧
    Instr.wf (.rcallv 4 6 8 7 false false false false false false 2 0) = false ∧
    Instr.wf (.rcallv 5 6 8 7 false false false false false false 1 1) = false ∧
    Instr.wf (.rcallv 4 7 8 7 false false false false false false 1 1) = false ∧
    Instr.wf (.rcallv 126 6 8 7 false false false false false false 2 1) = false ∧
    Instr.wf (.rcallv 4 6 125 7 false false false false false false 1 4) = false := by decide

/-- An observation set with `o=C` alone. -/
def obsC : Obs := ⟨true, false, false, false, false⟩

theorem test_wf_uniform_access :
    Instr.wf (.gld 1 2 false false ⟨0, obsC, .release, .w4, .normal⟩) = false ∧
    Instr.wf (.gld 1 2 false true ⟨0, obsC, .relaxed, .w8, .normal⟩) = false ∧
    Instr.wf (.gld 1 2 false false ⟨0, obsC, .relaxed, .w16, .normal⟩) = false ∧
    Instr.wf (.gst 1 2 false false ⟨0, obsC, .acquire, .w4, .normal⟩) = false ∧
    Instr.wf (.gst 2 1 false false ⟨0, obsC, .relaxed, .w16, .normal⟩) = false := by decide
theorem test_wf_uniform_atomic :
    Instr.wf (.gatm 1 2 3 false false .fadd ⟨0, obsC, .relaxed, .w8, .normal⟩) = false ∧
    Instr.wf (.gatm 1 2 3 false false .add ⟨0, obsC, .relaxed, .w2, .normal⟩) = false ∧
    Instr.wf (.gatm 1 2 3 false false .cas ⟨0, obsC, .relaxed, .w8, .normal⟩) = false ∧
    Instr.wf (.gatm 1 2 4 false false .cas ⟨0, obsC, .relaxed, .w8, .normal⟩) = true ∧
    Instr.wf (.gred 1 2 false false .cas ⟨0, obsC, .relaxed, .w4, .normal⟩) = false ∧
    Instr.wf (.gred 1 2 false false .exch ⟨0, obsC, .relaxed, .w4, .normal⟩) = false ∧
    Instr.wf (.gred 1 2 false false .add ⟨0, obsC, .acquire, .w4, .normal⟩) = false := by decide
theorem test_wf_handle_mode : Instr.wf (.thdl 1 2 false .tab 1) = false ∧
    Instr.wf (.thdl 1 2 false .peer 15) = true := by decide
theorem test_wf_uniform_key : Instr.wf (.tgetU 1 2 3 4 false false .n8 false false) = false ∧
    Instr.wf (.tgetU 1 2 3 4 false false .k128 false false) = false ∧
    Instr.wf (.tdelU 1 2 3 false false .k128) = false ∧ Instr.wf (.tdelU 1 2 3 false false .bf16) = false ∧
    Instr.wf (.tcom 1 2 3 false false .k128 0) = false ∧ Instr.wf (.tcom 1 2 3 false false .i8 0) = false ∧
    Instr.wf (.trbk 1 2 3 false false .k128 0) = false ∧ Instr.wf (.trbk 1 2 3 false false .e4 0) = false := by
  decide
theorem test_wf_insert_tag : Instr.wf (.tinsU 1 2 3 false false 1 false) = false ∧
    Instr.wf (.tinsU 1 2 3 false false 1 true) = true ∧
    Instr.wf (.tinsV 1 2 4 false false false 1 false) = false ∧
    Instr.wf (.tinsV 1 2 3 false false false 0 false) = false := by decide
theorem test_wf_ways : Instr.wf (.cret 1 2 3 false false 8) = true ∧
    Instr.wf (.cret 1 2 3 false false 0) = false ∧ Instr.wf (.cret 1 2 3 false false 9) = false := by decide
theorem test_wf_channel_mode : Instr.wf (.chmode 4 5 false false .arm) = true ∧
    Instr.wf (.chmode 4 5 false false .go) = false ∧ Instr.wf (.chmode 4 0 false true .off) = false := by decide
theorem test_wf_pairs : Instr.wf (.iaddI64 1 2 4 false false false) = false ∧
    Instr.wf (.iaddI64 2 1 4 false false false) = false ∧ Instr.wf (.isubI64 2 4 1 false false false) = false ∧
    Instr.wf (.isubI64 126 4 2 false false false) = true := by decide
theorem test_wf_bit_field : Instr.wf (.ibfe 1 2 false false false 31 0) = true ∧
    Instr.wf (.ibfe 1 2 false false false 31 1) = false ∧ Instr.wf (.ibfi 1 2 false false 1 31) = false := by
  decide
theorem test_wf_integer_condition : Instr.wf (.icmp 1 2 3 false false false .ord true) = false := by decide
theorem test_wf_pack_registers : Instr.wf (.xpk 3 2 3 false false true) = false := by decide
theorem test_wf_reduction_type : Instr.wf (.vred 1 2 false false .and .f32) = false ∧
    Instr.wf (.vscn 1 2 false false .add .f16) = false ∧ Instr.wf (.vscn 1 2 false false .add .f32) = true := by
  decide
theorem test_wf_generator_pair : Instr.wf (.rnd 1 3 false false) = false ∧
    Instr.wf (.samp 3 1 2 4 false false false false) = false ∧
    Instr.wf (.samp 2 1 2 5 false false false false) = false ∧
    Instr.wf (.samp 2 1 2 2 false false false false) = false := by decide
theorem test_wf_lane_access :
    Instr.wf (.ld 1 3 false false false ⟨0, obsC, .relaxed, .w4, .normal⟩) = false ∧
    Instr.wf (.ld 1 2 false false false ⟨0, obsC, .relaxed, .w8, .normal⟩) = false ∧
    Instr.wf (.ld 2 2 false false false ⟨0, obsC, .relaxed, .w16, .normal⟩) = false ∧
    Instr.wf (.ld 1 2 false false true ⟨0, obsC, .relaxed, .w4, .normal⟩) = false ∧
    Instr.wf (.ld 1 2 false false false ⟨0, obsC, .acqRel, .w4, .normal⟩) = false ∧
    Instr.wf (.st 2 1 false false false ⟨0, obsC, .relaxed, .w8, .normal⟩) = false ∧
    Instr.wf (.st 3 1 false false false ⟨0, obsC, .relaxed, .w4, .normal⟩) = false ∧
    Instr.wf (.st 2 1 false false false ⟨0, obsC, .acquire, .w4, .normal⟩) = false := by decide
theorem test_wf_lane_atomic :
    Instr.wf (.atm 1 2 4 false false false .cas ⟨0, obsC, .relaxed, .w4, .normal⟩) = true ∧
    Instr.wf (.atm 1 2 5 false false false .cas ⟨0, obsC, .relaxed, .w4, .normal⟩) = false ∧
    Instr.wf (.atm 2 2 4 false false false .cas ⟨0, obsC, .relaxed, .w8, .normal⟩) = false ∧
    Instr.wf (.atm 1 2 4 false false false .add ⟨0, obsC, .relaxed, .w8, .normal⟩) = false ∧
    Instr.wf (.atm 1 3 4 false false false .add ⟨0, obsC, .relaxed, .w4, .normal⟩) = false ∧
    Instr.wf (.red 2 5 false false false .add ⟨0, obsC, .relaxed, .w8, .normal⟩) = false ∧
    Instr.wf (.red 2 4 false false false .exch ⟨0, obsC, .relaxed, .w4, .normal⟩) = false := by decide
theorem test_wf_row_read : Instr.wf (.trd 64 2 false false false 256) = true ∧
    Instr.wf (.trd 68 2 false false false 256) = false ∧ Instr.wf (.trd 4 2 false false false 0) = false ∧
    Instr.wf (.trd 4 2 false false false 6) = false ∧ Instr.wf (.trd 4 2 false false false 260) = false ∧
    Instr.wf (.trd 2 2 false false false 4) = false ∧ Instr.wf (.trd 4 3 false false false 4) = false := by decide
theorem test_wf_lane_lookup : Instr.wf (.tgetV 2 1 4 6 false false false .n64 false false) = true ∧
    Instr.wf (.tgetV 2 1 4 3 false false false .n64 false false) = false ∧
    Instr.wf (.tgetV 2 1 4 5 false false false .n64 false false) = false ∧
    Instr.wf (.tgetV 3 1 4 6 false false false .n64 false false) = false ∧
    Instr.wf (.tgetV 2 1 5 6 false false false .n64 false false) = false ∧
    Instr.wf (.tgetV 2 1 4 6 false false false .f32 false false) = false ∧
    Instr.wf (.tdelV 2 1 5 false false false .n64) = false ∧
    Instr.wf (.tdelV 2 1 4 false false false .f16) = false := by decide
theorem test_wf_cursor : Instr.wf (.tscn 8 1 16 18 false false false false .n64 false) = true ∧
    Instr.wf (.tscn 4 1 16 18 false false false false .n64 false) = false ∧
    Instr.wf (.tscn 8 1 14 18 false false false false .n64 false) = false ∧
    Instr.wf (.tscn 8 1 16 16 false false false false .n64 false) = false ∧
    Instr.wf (.tscn 8 1 16 19 false false false false .n64 false) = false ∧
    Instr.wf (.tscn 8 1 16 18 false false false false .x8 false) = false ∧
    Instr.wf (.tstp 2 8 4 false false .n64 false) = true ∧ Instr.wf (.tstp 3 8 4 false false .n64 false) = false ∧
    Instr.wf (.tstp 2 4 20 false false .n64 false) = false ∧
    Instr.wf (.tstp 8 8 4 false false .n64 false) = false ∧ Instr.wf (.tstp 2 8 3 false false .n64 false) = false ∧
    Instr.wf (.tstp 2 8 15 false false .n64 false) = false ∧
    Instr.wf (.tstp 2 8 4 false false .bf16 false) = false := by decide

/-! ### Words written out from the spec's encodings, and what they decode to -/

/-- R42: bits [31:24] opcode, [23:17] D, [16:10] A, [9:3] B, 2 and 1 W, 0 N; R98: 0xA0 is `fadd.f32`. -/
theorem test_decode_lane_word : decodeTableWord 32 0b10100000_0000100_0000101_0000110_0_0_0 =
    some (.faddF32 4 5 6 false false false) := by decide
/-- R51: the extension word of `ld` holds OFF, OBS, ORD and WID; `ld.n32.acq.o=C v10, [v2 + 16]`. -/
theorem test_decode_load : decodeTableWord 64 (0xC1140800 + 0x00108280 * 2 ^ 32) =
    some (.ld 10 2 false false false ⟨16, obsC, .acquire, .w4, .normal⟩) := by decide
/-- The words of `brc`, `trap` and `br` with their offsets (R66, R285, R287). -/
theorem test_decode_control : decodeTableWord 64 (0x03001C00 + 0x00050009 * 2 ^ 32) =
    some (.brc 7 false false 5 9) ∧ decodeTableWord 64 (0x07000000 + 0x17 * 2 ^ 32) = some (.trap 0x17) ∧
    decodeTableWord 32 0x01000000 = some .exit := by decide
/-- The words of the special registers and of `wfull` (R288, R289). -/
theorem test_decode_special : decodeTableWord 32 0x0C0A1C00 = some (.gsr 5 7) ∧
    decodeTableWord 32 0x0D162000 = some (.gssr 11 8 false) ∧
    decodeTableWord 32 0x0E025000 = some (.wfull true 20 false) := by decide
/-- Matrix words (R120). -/
theorem test_decode_matrix : decodeTableWord 32 0x48000100 = some (.mma 0 0 32 false false) ∧
    decodeTableWord 64 (0x49000100 + 7 * 2 ^ 32) = some (.mmac 0 0 32 false false 7) ∧
    decodeTableWord 32 0x430E0000 = some (.mseal 7) ∧ decodeTableWord 32 0x44000000 = some (.mwait 0) := by decide
/-- Words of the broadcast mode, of regions and of handlers (R234, R236, R253, R254, R327, R330). -/
theorem test_decode_system : decodeTableWord 64 0x60001028 = some (.chmode 4 5 false false .arm) ∧
    decodeTableWord 64 (0x60001000 + 1 * 2 ^ 32) = some (.chmode 4 0 false false .go) ∧
    decodeTableWord 64 (0x60001000 + 2 * 2 ^ 32) = some (.chmode 4 0 false false .off) ∧
    decodeTableWord 32 0x61001030 = some (.aphl 4 6 false false) ∧
    decodeTableWord 32 0x4F0C0000 = some (.fsta 6) ∧ decodeTableWord 32 0x3B000000 = some .hret ∧
    decodeTableWord 32 0x3A000000 = some .yieldp ∧ decodeTableWord 32 0x3C50A400 = some (.lnch 40 41 false) := by
  decide
/-- Typed lane words, a shuffle, a reduction and the generator (R95 to R111). -/
theorem test_decode_typed : decodeTableWord 64 (0x97061000 + 0x00020408 * 2 ^ 32) =
      some (.ibfe 3 4 false false true 8 4) ∧
    decodeTableWord 64 (0xA8081430 + 0x000A0000 * 2 ^ 32) = some (.faddH2 4 5 6 false false false true) ∧
    decodeTableWord 64 (0xB5122000 + 0x000B0008 * 2 ^ 32) = some (.cvt 9 8 false false .e4 .f32) ∧
    decodeTableWord 64 (0xB8142C60 + 0x00300000 * 2 ^ 32) = some (.shfl 10 11 12 false false false .xor) ∧
    decodeTableWord 64 (0xBB0A1800 + 0x00080000 * 2 ^ 32) = some (.vred 5 6 false false .add .f32) ∧
    decodeTableWord 32 0xBF0CA000 = some (.rnd 6 40 false false) := by decide
/-- An unassigned opcode, an odd register of a pair, and a `nop` with a field that is not zero (R70, R71). -/
theorem test_decode_illegal : decodeTableWord 32 0x2B000000 = none ∧ decodeTableWord 32 0x860A1830 = none ∧
    decodeTableWord 32 0x00000001 = none := by decide
/-- A uniform word, a barrier and a uniform load with OFF −8 and 8-byte width (R42, R50, R67). -/
theorem test_decode_uniform : decodeTableWord 32 0b00010000_0000101_0000110_0000111_0_0_0 =
      some (.gadd 5 6 7 false false) ∧
    decodeTableWord 32 0b00110000_0000000_0101111_0001001_0_1_0 = some (.barA 47 9 true) ∧
    decodeTableWord 64 (0b01010000_0000101_0000110_0000000_0_0_0 +
      0b1111111111111000_00000_00_011_00_0000 * 2 ^ 32) =
      some (.gld 5 6 false false ⟨-8, ⟨false, false, false, false, false⟩, .relaxed, .w8, .normal⟩) := by decide
/-- A ring, a range write-back and table words (R49, R67, R203). -/
theorem test_decode_tables : decodeTableWord 64 (0b01000000_0000000_0000110_0000111_0_0_0 + 16384 * 2 ^ 32) =
      some (.xring 6 7 false false 16384) ∧
    decodeTableWord 32 0b01011100_0000000_0000110_0000111_1_0_0 = some (.cwb 6 7 true false) ∧
    decodeTableWord 64 (0b01011001_0000001_0000010_0000011_0_0_0 +
      0b0000000_0_0000_0111_0000101010111100 * 2 ^ 32) = some (.tcom 1 2 3 false false .n64 0xABC) ∧
    decodeTableWord 64 (0b11000110_0000010_0000001_0000100_0_0_1 +
      0b0000110_0_0000_0011_0000000000000000 * 2 ^ 32) =
      some (.tgetV 2 1 4 6 false false true .i64 false false) := by decide
/-- A remote call with its payload and reply counts (R240). -/
theorem test_decode_remote_call : decodeTableWord 64 (0b01001011_0000100_0000101_0000110_0_0_0 +
    0b0000111_0_0000_0000_000000_1_0_0_100_1000 * 2 ^ 32) =
    some (.rcall 4 5 6 7 false false false true false 4 8) := by decide

/-! ### States of the tests -/

/-- The only group of the module, at the first word of its code. -/
def base : State := { State.reset.withCode [] with curG := 16 * teamKey 1 0 }

/-- The group of `base`. -/
def gid0 : Nat := 16 * teamKey 1 0

/-- `base` with its group changed. -/
def withG (f : Group → Group) : State := base.modCur f

/-- A group with uniform registers set. -/
def uni (l : List (Nat × W64)) (g : Group) : Group := l.foldl (fun g x => g.setG false x.1 x.2) g

/-- A group with lane registers set, the same in all lanes. -/
def lane (l : List (Nat × W32)) (g : Group) : Group := l.foldl (fun g x => g.setV allLanes x.1 fun _ => x.2) g

/-- A scratchpad handle of the own team. -/
def pad (o : Nat) : W64 := BitVec.ofNat 64 (2 ^ 62 + o)

/-- A word's operands pass. -/
theorem ok {s : State} {u : Uses} (live : (s.cur.slot s.curS).path.isSome = true) (h : s.gate u = none) :
    s.Accepts u := State.accepts_of_gate live h

/-- A next state with a property: the shape of a single-step test. -/
def after (i : Instr) (s : State) : State :=
  match exec i s with
  | .next t => t
  | _ => s

/-! ### Single steps on the numbers of the spec's worked examples -/

/-- The own group after a word. -/
def run (w e : Nat) (s : State) : Group :=
  match decodeWords w e with
  | .ok i => (after i s).cur
  | .error _ => s.cur

/-- A group with chosen values in chosen lanes of a lane register, and only these lanes active. -/
def onLanes (r : Nat) (l : List (Nat × W32)) (g : Group) : Group :=
  (l.foldl (fun g x => g.setV (laneSet fun i => i == x.1) r fun _ => x.2) g).modPath false fun p =>
    { p with mask := laneSet fun i => l.any fun x => x.1 == i }

/-- R89, R107: `vred.add.f32 g5, v6` over 2^24, 1.0 and 1.0 in lanes 0, 2 and 5. -/
theorem test_vred : (run 0xBB0A1800 0x00080000
    (withG (onLanes 6 [(0, 0x4B800000), (2, 0x3F800000), (5, 0x3F800000)]))).gval false 5 = 0x4B800000 := by
  decide +kernel
/-- R95: the quotient of the most negative number and −1. -/
theorem test_idiv_wraps : (run 0x8E060410 0 (withG (lane [(1, 0x80000000), (2, 0xFFFFFFFF)]))).vval 3 95 =
    0x80000000 := by decide +kernel
/-- R95: division of a negative number by zero. -/
theorem test_idiv_zero : (run 0x8E060410 0 (withG (lane [(1, 0xFFFFFFFB)]))).vval 3 0 = 0x80000000 := by
  decide +kernel
/-- R94: the magnitude of the most negative number. -/
theorem test_iabs : (run 0x8C060400 0 (withG (lane [(1, 0x80000000)]))).vval 3 0 = 0x80000000 := by
  decide +kernel
/-- R77, R98: infinity less infinity is the canonical NaN and raises NV. -/
theorem test_fsub : let g := run 0xA1060410 0 (withG (lane [(1, 0x7F800000), (2, 0x7F800000)]))
    g.vval 3 0 = 0x7FC00000 ∧ g.fpst = flagNV := by decide +kernel
/-- R83, R102: 300.0 to E4M3 under RNE is 288, inexact. -/
theorem test_cvt_e4 : let g := (after (.cvt 3 1 false false .e4 .f32) (withG (lane [(1, 0x43960000)]))).cur
    g.vval 3 0 = 0x79 ∧ g.fpst = flagNX := by decide +kernel
/-- R83, R102: 500.0 to E4M3 without SAT is NaN, with OF and NX. -/
theorem test_cvt_e4_over : let g := (after (.cvt 3 1 false false .e4 .f32) (withG (lane [(1, 0x43FA0000)]))).cur
    g.vval 3 0 = 0x7F ∧ g.fpst = flagOF ||| flagNX := by decide +kernel
/-- R81, R102: halfway between two BF16 values goes to the even one. -/
theorem test_cvt_bf16 : (after (.cvt 3 1 false false .bf16 .f32) (withG (lane [(1, 0x3F808000)]))).cur.vval 3 0 =
    0x3F80 := by decide +kernel
/-- R112: `rnd v6, g40` with counter and key 0x10. -/
theorem test_rnd : let g := run 0xBF0CA000 0 (withG (uni [(40, 0x10), (41, 0x10)]))
    g.vval 6 0 = 0 ∧ g.gval false 41 = 0x70 := by decide +kernel
/-- R114: the first step of the worked chain of `samp`. -/
theorem test_samp : let g := run 0xC02820F0 0x50000000 (withG fun g =>
      onLanes 8 [(0, 0x3FC00000), (1, 0x40800000), (2, 0x40800000), (3, 0xC0000000)]
        (uni [(20, 0xFF800000), (21, 0xFFFFFFFF), (41, 0x100)] g))
    g.gval false 20 = 0x40800000 ∧ g.gval false 21 = 1 ∧ g.gval false 41 = 0x160 := by decide +kernel
/-- R114: the second step of the chain leaves the pair. -/
theorem test_samp_tie : let g := run 0xC02820F0 0x50000000 (withG fun g =>
      onLanes 8 [(0, 0x40800000), (1, 0x40400000)]
        (uni [(20, 0x40800000), (21, 1), (30, 0x0000006000000000), (41, 0x160)] g))
    g.gval false 20 = 0x40800000 ∧ g.gval false 21 = 1 ∧ g.gval false 41 = 0x1C0 := by decide +kernel
/-- R116: `glih` keeps the low half. -/
theorem test_glih : (run 0x230C0000 0x42 (withG (uni [(6, 0x10000)]))).gval false 6 = 0x0000004200010000 := by
  decide +kernel
/-- R85: the FMT image of the example. -/
theorem test_fmts : ((run 0x0B000000 0x1DD base).path false).fmt = 0x1DD := by decide +kernel
/-- R104: elements of the worked block with EA 0x81 and EB 0x7E. -/
theorem test_xupk : let g := (after (.xupk 3 1 2 false false false false)
      (withG fun g => onLanes 1 [(0, 0x30), (1, 0x9A)] (lane [(2, 0x7E81)] g))).cur
    g.vval 3 0 = 0x40C00000 ∧ g.vval 3 1 = 0x3ED00000 := by decide +kernel
/-- R326: with no trap handler, `trap` halts the group. -/
theorem test_trap_halts : (run 0x07000000 5 base).status = .halted := by decide +kernel

/-! ### Witnesses: lane and uniform words -/

theorem witness_LaneIntegerBinaryResults : base.Accepts ⟨[sv 127 false, sv 0 true], [dv 127], true⟩ :=
  ok (by decide) (by decide)
theorem witness_LaneIntegerUnaryAndFieldResults : base.Accepts ⟨[sv 127 true], [dv 0], true⟩ ∧
    base.Accepts ⟨[], [dv 127], true⟩ ∧ base.Accepts ⟨[sv 1 false, sv 2 false], [dv 2], true⟩ ∧
    base.Accepts ⟨[sv 1 false, sv 2 false, sv 3 true], [dv 1], true⟩ ∧
    (31 : Fin 32).val + (0 : Fin 32).val + 1 ≤ 32 :=
  ⟨ok (by decide) (by decide), ok (by decide) (by decide), ok (by decide) (by decide),
    ok (by decide) (by decide), by decide⟩
theorem witness_LaneDivisionAndPairResults : base.Accepts ⟨[sv 1 false, sv 2 false], [dv 1], true⟩ ∧
    (Instr.iaddI64 126 0 2 false true false).wf = true ∧
    base.Accepts ⟨[svs 0 2 false, svs 2 2 true], [dvs 126 2], true⟩ :=
  ⟨ok (by decide) (by decide), by decide, ok (by decide) (by decide)⟩
theorem witness_LaneFloatResults : base.Accepts ⟨[sv 1 false, sv 2 false], [dv 1], true⟩ ∧
    base.Accepts ⟨[sv 1 false], [dv 127], true⟩ ∧
    base.Accepts ⟨[sv 1 false, sv 2 false, sv 3 true], [dv 1], true⟩ :=
  ⟨ok (by decide) (by decide), ok (by decide) (by decide), ok (by decide) (by decide)⟩
theorem witness_LaneFunctionResults : base.Accepts ⟨[sv 1 false], [dv 127], true⟩ ∧
    base.Accepts ⟨[sv 1 false, sv 2 false], [dv 1], true⟩ :=
  ⟨ok (by decide) (by decide), ok (by decide) (by decide)⟩
/-- An operand of each class for the clauses on values: NaNs, infinities, zeros, 1.0, -1.0, 3.0, 0.5, 2^127. -/
theorem witness_operand_values : let v := fmt32.operand Mode.fixed
    v 0x7F800001 = .nan true ∧ v 0x7FC00000 = .nan false ∧ v 0xFF800000 = .inf true ∧
    v 0 = .fin false 0 (-149) ∧ v 0x3F800000 = .fin false (2 ^ 23) (-23) ∧
    v 0xBF800000 = .fin true (2 ^ 23) (-23) ∧ v 0x40400000 = .fin false (3 * 2 ^ 22) (-22) ∧
    v 0x3F000000 = .fin false (2 ^ 23) (-24) ∧ v 0x7F000000 = .fin false (2 ^ 23) 104 ∧
    2 * 2 ^ 23 = (2 * 0 + 1) * 2 ^ 24 ∧ fmt16.operand Mode.fixed 0x3C00 = .fin false 1024 (-10) ∧
    fmtB16.operand Mode.fixed 0x3F80 = .fin false 128 (-7) := by decide +kernel
/-- -0 is in the order's second case, 1.0 below 3.0 in its first. -/
theorem witness_order : (FVal.fin false (2 ^ 23) (-23)).Below (.fin false (3 * 2 ^ 22) (-22)) ∧
    (fmt32.operand Mode.fixed 0x80000000).isZero = true ∧ (fmt32.operand Mode.fixed 0x80000000).neg = true :=
  ⟨by unfold FVal.Below; decide +kernel, by decide +kernel, by decide +kernel⟩
theorem witness_convert : tyFmt .e4 = some fmtE4 ∧ tyInt .i8 = some (8, true) ∧ tyInt .n64 = some (64, false) :=
  by decide
/-- ∞ − ∞, 0 × ∞ and the root of a negative number are NaNs (R77). -/
theorem witness_NanResultsAreCanonical :
    (fmt32.decode (fAdd fmt32 Mode.fixed 0x7F800000 0xFF800000).1).isNan = true ∧
    (fmt32.decode (fMul fmt32 Mode.fixed 0 0x7F800000).1).isNan = true ∧
    (fmt32.decode (fSqrt Mode.fixed 0xBF800000).1).isNan = true := by decide
theorem witness_RoundingChoosesTheNeighbour : (4 % 2 ^ 1 = 0) ∧ (5 % 2 ^ 1 ≠ 0 ∧ 2 * (5 % 2 ^ 1) = 2 ^ 1) ∧
    (13 % 2 ^ 2 ≠ 0 ∧ 2 * (13 % 2 ^ 2) < 2 ^ 2) ∧ 2 ^ 2 < 2 * (15 % 2 ^ 2) := by decide
theorem witness_ConversionResults : (Instr.cvt 126 5 true false .i64 .f32).wf = true ∧
    base.Accepts ⟨[svs 5 1 true], [dvs 126 2], true⟩ ∧ (3 : Reg) ≠ 2 ∧
    base.Accepts ⟨[sv 1 false], [dv 2, dv 3], true⟩ ∧ base.Accepts ⟨[sv 1 false, sv 2 false], [dv 3], true⟩ :=
  ⟨by decide, ok (by decide) (by decide), by decide, ok (by decide) (by decide), ok (by decide) (by decide)⟩
theorem witness_CrossLaneResults : base.Accepts ⟨[sv 1 false, sv 2 false], [dv 3], true⟩ ∧
    base.Accepts ⟨[sg 127 false], [dv 3], true⟩ ∧ base.Accepts ⟨[sv 1 true], [dv 3], true⟩ ∧
    0xB8142C60 < 2 ^ 32 ∧ 0xB8142C60 / 2 ^ 24 = 0xB8 ∧ 4 ≤ 0x00400000 / 2 ^ 20 % 16 :=
  ⟨ok (by decide) (by decide), ok (by decide) (by decide), ok (by decide) (by decide), by decide, by decide,
    by decide⟩
theorem witness_LaneToUniformResults : base.Accepts ⟨[sv 1 false, sg 2 false], [dg 119], true⟩ ∧
    base.Accepts ⟨[sv 1 false], [dg 120], true⟩ ∧
    (∀ i < 64, (0 : W64).getLsbD i =
      decide (i ∈ (lanesOf (base.lanesOn false)).filter fun l => base.cur.vval 1 l != 0)) ∧
    0xBD142C60 < 2 ^ 32 ∧ 0xBD142C60 / 2 ^ 24 = 0xBD ∧ 5 ≤ 0x00500000 / 2 ^ 20 % 16 :=
  ⟨ok (by decide) (by decide), ok (by decide) (by decide), by decide, by decide, by decide, by decide⟩
theorem witness_RandomAndSamplingResults : (Instr.rnd 6 40 false false).wf = true ∧
    base.Accepts ⟨[sgs 40 2 false], [dv 6, ⟨false, 41, 1, false⟩], true⟩ ∧
    (Instr.samp 2 1 3 4 false false false false).wf = true ∧
    base.Accepts ⟨[sv 1 false, sg 3 false, sgs 4 2 false, sgs 2 2 false],
      [dgs 2 2, ⟨false, 5, 1, false⟩], true⟩ :=
  ⟨by decide, ok (by decide) (by decide), by decide, ok (by decide) (by decide)⟩
theorem witness_UniformIntegerResults : base.Accepts ⟨[sg 1 false, sg 120 true], [dg 122], false⟩ ∧
    base.Accepts ⟨[sg 1 false, sg 2 true, sg 3 false], [dg 1], false⟩ ∧
    base.Accepts ⟨[sg 127 false], [dg 1], false⟩ ∧ base.Accepts ⟨[], [dg 1], false⟩ :=
  ⟨ok (by decide) (by decide), ok (by decide) (by decide), ok (by decide) (by decide),
    ok (by decide) (by decide)⟩
theorem witness_UniformFloatResults : base.Accepts ⟨[sg 1 false, sg 2 true], [dg 1], false⟩ ∧
    base.Accepts ⟨[sg 1 false, sg 2 true, sg 3 false], [dg 1], false⟩ ∧
    base.Accepts ⟨[sg 1 false], [dg 1], false⟩ :=
  ⟨ok (by decide) (by decide), ok (by decide) (by decide), ok (by decide) (by decide)⟩

/-! ### Witnesses: operands that do not pass -/

theorem witness_operands : usesOf (.iaddI32 1 127 3 true false false) =
    some ⟨[sv 127 true, sv 3 false], [dv 1], true⟩ := rfl
/-- A launch of 127 registers per lane has no v127. -/
theorem witness_operand_beyond : (base.modLaunch 1 fun l => { l with
      record := setAt l.record 1 (BitVec.ofNat 64 (127 * 2 ^ 48)) }).curLaunch.rpl < (sv 127 true).r + 1 := by
  decide
theorem witness_operand_empty : ¬base.curLaunch.rpl < (sv 127 true).r + 1 ∧
    (sv 127 true).any false (withG fun g => { g with emptyV := regSet 128 127 1 }).cur.emptyV 0 = true ∧
    (sv 3 false).any false (withG fun g => { g with emptyV := regSet 128 3 1 }).cur.emptyV 0 = true := by decide
theorem witness_operand_marked :
    (withG fun g => { g with marks := [⟨true, 2, 1⟩] }).cur.markHit [sv 127 true, sv 3 false] =
      some ⟨true, 2, 1⟩ := by decide
theorem witness_operand_poisoned :
    (withG fun g => { g with poisonV := regSet 128 3 1 }).cur.markHit [sv 127 true, sv 3 false] = none ∧
    (sv 3 false).any false (withG fun g => { g with poisonV := regSet 128 3 1 }).cur.poisonV 0 = true := by
  decide
theorem witness_operand_busy :
    (dv 1).any false (withG fun g => { g with emptyV := regSet 128 1 1 }).cur.emptyV 0 = true := by decide

/-! ### Witnesses: control -/

/-- A path in one of a group's slots. -/
def onSlot (b : Bool) (p : Path) (g : Group) : Group := g.setPath b p

/-- A path of some lanes at a word of the code table. -/
def path (pos : Nat) (lanes : LaneSet) (rj : Option (W64 × Nat)) (pd : Nat) : Path :=
  ⟨handle 1 pos, lanes, lanes, 0, rj, pd⟩

theorem witness_ControlTransfers : base.Live ∧ base.Accepts ⟨[], [dg 127], false⟩ ∧
    (withG (uni [(5, handle 1 8)])).Accepts ⟨[sg 5 false], [], false⟩ ∧
    (withG (uni [(5, pad 0)])).Accepts ⟨[sg 5 false], [], false⟩ ∧
    (spaceOf (handle 1 8) = 0 ∧ tidOf (handle 1 8) = base.curLaunch.codeTable ∧ posOf (handle 1 8) % 4 = 0) ∧
    (tidOf (handle 1 2) = base.curLaunch.codeTable ∧ posOf (handle 1 2) % 4 ≠ 0) ∧
    spaceOf (pad 0) ≠ 0 ∧
    base.Accepts ⟨[sv 7 false], [], true⟩ ∧ base.cur.takenLanes base.curS false 7 = 0 ∧
    (withG (lane [(7, 1)])).cur.takenLanes false false 7 = base.lanesOn false ∧
    (withG (lane [(7, 1)])).gate ⟨[sv 7 false], [], true⟩ = none :=
  ⟨rfl, ok (by decide) (by decide), ok (by decide) (by decide), ok (by decide) (by decide), by decide,
    by decide, by decide,
    ok (by decide) (by decide), by decide +kernel, by decide +kernel, by decide +kernel⟩

/-- `base` with v7 set in lane 0 alone. -/
def split1 : State := withG fun g => g.setV 1 7 fun _ => 1

theorem witness_DivergentBranchSplits : split1.Accepts ⟨[sv 7 false], [], true⟩ ∧
    split1.cur.takenLanes false false 7 ≠ 0 ∧ split1.cur.takenLanes false false 7 ≠ split1.lanesOn false ∧
    split1.cur.stack.length + 1 ≤ 4096 ∧
    ((split1.modCur (onSlot true (path 4 2 none 0))).cur.slot true).path.isSome ∧
    ((split1.modCur (onSlot true (path 4 2 none 0))).gate ⟨[sv 7 false], [], true⟩ = none) :=
  ⟨ok (by decide +kernel) (by decide +kernel), by decide +kernel, by decide +kernel, by decide +kernel,
    by decide +kernel, by decide +kernel⟩
/-- With 4,095 entries and one live slot, the join entry is the last that fits; with two, one too many. -/
theorem witness_split_bound : ∀ p : Path,
    (List.replicate 4095 (StackEntry.park p)).length + 1 ≤ 4096 ∧
    4096 < (List.replicate 4095 (StackEntry.park p)).length + 2 := by
  intro p
  rw [List.length_replicate]
  omega

/-- A group whose path of lane 0 stands at its rejoin word; the join entry waits for lanes 0 and 1. -/
def arriving (pd : Nat) (arr : LaneSet) : State :=
  withG fun g => { onSlot false (path 8 1 (some (handle 1 8, 1)) pd) g with
    stack := [.join 1 (path 8 3 none 0) arr] }

theorem witness_PathArrival :
    (∀ x ∈ [(1, 0), (0, 2), (0, 0)], let s := arriving x.1 x.2
      ∃ p cont, (s.cur.slot false).path = some p ∧ p.rj = some (p.pc, 1) ∧
        s.cur.join? 1 = some (cont, x.2)) ∧
    (1 : Nat) ≠ (path 8 3 none 0).pd ∧ (2 : LaneSet) ||| 1 = (path 8 3 none 0).lanes ∧
    (0 : LaneSet) ||| 1 ≠ (path 8 3 none 0).lanes := by
  refine ⟨?_, by decide, by decide, by decide⟩
  intro x hx
  simp only [List.mem_cons, List.not_mem_nil, or_false] at hx
  rcases hx with rfl | rfl | rfl <;> exact ⟨_, _, rfl, rfl, rfl⟩

theorem witness_PredicateStack : base.Live ∧ base.cur.preds.length = 8 ∧
    base.Accepts ⟨[sv 1 true], [], false⟩ ∧ base.curPath.pd = 0 ∧
    (∀ n ∈ [1, 7, 8], (withG (onSlot false (path 0 allLanes none n))).gate ⟨[sv 1 true], [], false⟩ = none ∧
      (withG (onSlot false (path 0 allLanes none n))).curPath.pd = n) :=
  ⟨rfl, by decide, ok (by decide) (by decide), by decide, by decide⟩

/-! ### Witnesses: group state, traps and handlers -/

theorem witness_GroupStateWords : base.Live ∧ base.Accepts ⟨[], [dg 5], false⟩ ∧
    base.Accepts ⟨[], [dv 5], true⟩ ∧ base.Accepts ⟨[sg 5 false], [], false⟩ ∧
    fmtOk ((base.cur.gval false 5).setWidth 14) = true ∧ 127 < base.curLaunch.rpl ∧
    (Opd.any ⟨true, 20, 1, true⟩ false base.cur.emptyV 0 = false) ∧
    (Opd.any ⟨true, 20, 1, true⟩ false (withG fun g => { g with emptyV := regSet 128 20 1 }).cur.emptyV 0
      = true) :=
  ⟨rfl, ok (by decide) (by decide), ok (by decide) (by decide), ok (by decide) (by decide), by decide,
    by decide, by decide, by decide⟩

/-- `base` with a trap handler at word 16 of the code table, and table 2 as its save table. -/
def trapping : State :=
  { base.modLaunch 1 fun l => { l with
      record := setAt (setAt (setAt l.record 4 (handle 1 64)) 5 (handle 1 128)) 7
        (BitVec.ofNat 64 (2 * 2 ^ 32 + 100)) } with
    tables := aput base.tables 2 { codeTable with dw := [
      BitVec.ofNat 64 (3 * 2 ^ 56 + 11 * 2 ^ 52 + 2 * 2 ^ 47 + 2 ^ 40 + 2 * 2 ^ 20), 0, 16, 16, 16, 0] } }

/-- A handler can be entered at once. -/
theorem can_enter {s : State} {gid : Nat} {pre : Bool} (h1 : s.fillsOf gid = [])
    (h2 : (s.group gid).midWord = false) (h3 : aget s.restores gid = none) (h4 : s.inRegion gid = false)
    (h5 : s.sectorsHeld (s.clusterOf gid) (frameSectors (s.frameKey gid pre)) = false)
    (h6 : s.frameKey gid pre % 1024 = 0 ∧ s.frameKey gid pre + 1024 ≤ 2 ^ 62)
    (h7 : s.slotOfKey (s.frameKey gid pre) = none) :
    s.CanEnter gid pre := ⟨h1, h2, h3, h4, h5, h6, h7⟩

/-- `pdi` at depth 0 traps (R284). -/
theorem traps_pdi {s : State} (h : s.curPath.pd = 0) : Traps .pdi s .predOvf 0 := by
  simp [Traps, exec, execPdi, h, State.finish, State.after, check]

theorem witness_TrapEntersTheHandler : trapping.Live ∧ Traps .pdi trapping .predOvf 0 ∧
    trapping.CanEnter trapping.curG false ∧ trapping.curLaunch.traph ≠ 0 ∧ trapping.cur.trapLive = false ∧
    Traps .pdi base .predOvf 0 ∧ base.CanEnter base.curG false ∧ base.curLaunch.traph = 0 :=
  ⟨rfl, traps_pdi (by decide), can_enter (by decide) (by decide) (by decide) (by decide) (by decide) (by decide)
      (by decide), by decide,
    by decide, traps_pdi (by decide), can_enter (by decide) (by decide) (by decide) (by decide) (by decide) (by decide)
      (by decide), by decide⟩

/-- An entry that waits for a pending fill, and the same without the fill. -/
def entering (fs : List Fill) : State :=
  { trapping.modCur fun g => { g with entering := some ⟨false, false, 6, 0, handle 1 0⟩ } with fills := fs }

/-- A load of g5 under way. -/
def load5 : Fill :=
  ⟨7, gid0, false, false, .load 5 8 false false, [⟨0, .tab (3 * 2 ^ 42 + 64), 8, [], none⟩], 0, regSet 136 5 1, false, 0⟩

theorem witness_TrapWordAndPendingEntry : trapping.Live ∧ trapping.CanEnter trapping.curG false ∧
    trapping.curLaunch.traph ≠ 0 ∧ trapping.cur.trapLive = false ∧
    (∃ e, ((entering []).group gid0).entering = some e ∧ e.pre = false ∧ e.code < 256 ∧
      (((entering []).group gid0).slot e.s1).path.isSome) ∧
    (entering []).CanEnter gid0 false ∧ ((entering []).launchOf gid0).traph ≠ 0 ∧
    ((entering []).group gid0).trapLive = false ∧ (entering [load5]).fillsOf gid0 ≠ [] ∧
    ((entering [load5]).group gid0).entering.isSome :=
  ⟨rfl, can_enter (by decide) (by decide) (by decide) (by decide) (by decide) (by decide)
      (by decide), by decide, by decide,
    ⟨_, rfl, rfl, by decide, by decide⟩,
    can_enter (by decide) (by decide) (by decide) (by decide) (by decide) (by decide)
      (by decide), by decide, by decide, by decide,
    by decide⟩

/-- `trapping` in its handler, its frame in memory: pre-emption frame or trap frame. -/
def handling (pre : Bool) (kind : Nat) : State :=
  { trapping.modCur fun g => { g with trapLive := !pre, preLive := pre } with
    mem := { trapping.mem with home := setBytes [] (runOf (trapping.frameKey gid0 pre)
      (setAt (trapping.cur.frame ⟨false, pre, 20, 0, handle 1 0⟩ false) 0 (BitVec.ofNat 8 kind))) } }

theorem witness_HandlerReturnRestoresTheFrame : trapping.Live ∧ trapping.inRegion trapping.curG = false ∧
    trapping.restorable = true ∧
    (trapping.modCur fun g => { g with emptyG := regSet 136 3 1 }).restorable = false ∧
    (trapping.cur.trapLive = false ∧ trapping.cur.preLive = false) ∧
    (handling false 1).cur.lastFrame = some false ∧ (handling true 2).cur.lastFrame = some true ∧
    (handling false 1).restorable = true ∧
    (handling false 1).softPending gid0 (fun _ => true) = false ∧
    (handling false 1).sectorsBusy 0 (frameSectors ((handling false 1).frameKey gid0 false)) = false ∧
    (handling false 1).dirtySectors 0 (fun _ => true) = [] ∧ parkedPaths (handling false 1).cur.stack = [] :=
  ⟨rfl, by decide, by decide, by decide, by decide, by decide, by decide, by decide, by decide, by decide +kernel,
    by decide, by decide⟩
/-- The bytes of a trap frame as `hret` sees them. -/
def seenFrame (s : State) : Seen := s.homeSeen ((List.range 1024).map (s.frameKey gid0 false + ·))

/-- A frame that passes the checks of `hret`, one whose KIND is neither 1 nor 2, and a poisoned one. -/
theorem witness_frames :
    (let s := handling false 1
     let b := (seenFrame s).bytes
     (seenFrame s).bad = false ∧
     s.cur.s1.path = none ∧ s.cur.stack.length = field (dwOf b 30) 0 13 ∧
       s.cur.recordOk s.curLaunch (recordPath b 2) = true ∧ s.cur.recordOk s.curLaunch (recordPath b 8) = true ∧
       (recordPath b 8).1 = false ∧ field (dwOf b 0) 0 8 = 1) ∧
    (let b := (seenFrame (handling false 3)).bytes
     ¬(field (dwOf b 0) 0 8 = 1 ∨ field (dwOf b 0) 0 8 = 2)) ∧
    (let s := handling false 1
     (seenFrame (s.poisonUnits [s.frameKey gid0 false / 32])).bad = true) := by decide +kernel

theorem witness_TrapThenReturnResumes : ∃ t, trapping.Live ∧ trapping.CanEnter trapping.curG false ∧
    trapping.curLaunch.traph ≠ 0 ∧ trapping.cur.trapLive = false ∧ trapping.cur.preLive = false ∧
    trapping.cur.preds.length = 8 ∧ trapping.cur.stack.length < 2 ^ 13 ∧ trapping.writes = [] ∧
    (trapping.cur.slot false).path = some (path 0 allLanes none 0) ∧ (trapping.cur.slot true).path = none ∧
    trapping.cur.recordOk trapping.curLaunch (true, path 0 allLanes none 0) = true ∧
    trapping.cur.recordOk trapping.curLaunch (true, trapping.pathAt (trapping.curPath.pc + 8)) = true ∧
    (∀ r < 131, bitOn trapping.cur.emptyG r = false) ∧ (path 0 allLanes none 0).fmt.getLsbD 9 = false ∧
    parkedPaths trapping.cur.stack = [] ∧ exec (.trap 5) trapping = .next t :=
  ⟨_, rfl, can_enter (by decide) (by decide) (by decide) (by decide) (by decide) (by decide)
      (by decide), by decide, by decide,
    by decide, by decide, by decide, by decide, by decide, by decide, by decide, by decide, by decide, by decide,
    by decide, rfl⟩

/-- One path of lane 0 inside a split, beside the path of lane 1, with the lanes that have arrived. -/
def inSplit (arr : LaneSet) : State :=
  withG fun g => { onSlot true (path 8 2 none 0) (onSlot false (path 4 1 (some (handle 1 8, 1)) 0) g) with
    stack := [.join 1 (path 8 3 none 0) arr] }

theorem witness_ExitEndsThePath : base.Live ∧ base.inRegion base.curG = false ∧ base.cur.status = .running ∧
    base.curPath.rj = none ∧ (base.cur.slot true).path = none ∧ parkedPaths base.cur.stack = [] ∧
    ((withG (onSlot true (path 4 2 none 0))).cur.slot true).path.isSome ∧
    1 ∈ joinChain (inSplit 0).cur (inSplit 0).cur.stack.length (inSplit 0).curPath.rj ∧
    (inSplit 0).cur.join? 1 = some (path 8 3 none 0, 0) ∧ (0 : LaneSet) ≠ 3 &&& ~~~1 ∧
    ((inSplit 0).cur.slot true).path.isSome ∧
    ((1 : LaneSet) &&& ~~~1 = 0) ∧
    (inSplit 2).cur.join? 1 = some (path 8 3 none 0, 3 &&& ~~~1) ∧ (3 : LaneSet) &&& ~~~1 ≠ 0 :=
  ⟨rfl, by decide, by decide, by decide, by decide, by decide, by decide, by decide, by decide, by decide, by decide,
    by decide, by decide, by decide⟩

/-! ### Witnesses: barriers, queues, fences and synchronisation objects -/

/-- `base` with a group register g5 and a team. -/
def withT (g5 : W64) (f : Team → Team) : State := (withG (uni [(5, g5)])).modTeam (teamOf gid0) f

theorem witness_BarrierWords : base.Live ∧ base.inRegion base.curG = false ∧ (47 : Reg).val < base.barCount ∧
    ((withT 1 id).Accepts ⟨[sg 5 false], [], false⟩ ∧ ((withT 1 id).cur.gval false 5).toNat ≤
      (withT 1 id).curTeam.groups ∧ ((withT 1 id).bar 47).expect = 0 ∧
      aget ((withT 1 id).bar 47).last 0 ≠ some ((withT 1 id).bar 47).ph) ∧
    ¬0 < (base.cur.gval false 5).toNat ∧ (withT 1 id).released false = true ∧
    ((withT 1 id).modCur fun g => { g with uwc := 1 }).released false = false ∧ base.barPhase 47 = none ∧
    0 ∉ (base.bar 47).owed ∧
    (withG fun g => { g with barWait := [(94, handle 1 0, 5)] }).barPhase 47 = some 5 ∧
    (base.bar 47).ph ≠ 5 :=
  ⟨rfl, by decide, by decide, ⟨ok (by decide) (by decide), by decide, by decide, by decide⟩, by decide,
    by decide, by decide, by decide, by decide, by decide, by decide⟩

/-- A queue of depth 2 with `n` entries of one doubleword, and a base handle in g5. -/
def queue (n : Nat) : State := withT (pad 8) fun t => { t with queues := [(15, ⟨8, 2, 0, 0, n % 2, n, 2 - n⟩)] }

theorem witness_QueueWords : base.Live ∧ base.inRegion base.curG = false ∧ (15 : Reg).val < base.queueCount ∧
    (withT (pad 8) id).Accepts ⟨[sg 5 false], [], false⟩ ∧ base.queueWaited 15 = false ∧
    aget base.curTeam.queues 15 = none ∧ spaceOf (pad 8) = 1 ∧ field (pad 8) 19 43 = 0 ∧
    field (pad 8) 0 19 % 8 = 0 ∧ field (pad 8) 0 19 + 1 * (8 * (0 + 1)) ≤ base.curLaunch.spad ∧
    (queue 2).Accepts ⟨[sgs 5 1 false], [], false⟩ ∧ (queue 1).Accepts ⟨[], [dgs 127 1], false⟩ ∧
    (∀ n < 3, (aget (queue n).curTeam.queues 15).map (fun x => (x.count, x.allow)) = some (n, 2 - n)) ∧
    (queue 1).acquiring = false ∧ (queue 1).released false = true ∧
    (queue 1).scored (teamOf gid0) 8 24 true = false ∧ (queue 1).curTeam.spadPoison = [] :=
  ⟨rfl, by decide, by decide, ok (by decide) (by decide), by decide, by decide, by decide, by decide,
    by decide, by decide, ok (by decide) (by decide), ok (by decide) (by decide), by decide, by decide, by decide,
    by decide, by decide⟩

theorem witness_FenceWord : base.Live ∧ base.inRegion base.curG = false ∧ base.readsBound = true ∧
    base.cur.uwc = 0 ∧ ({ base with fills := [load5], nextId := 8 } : State).readsBound = false ∧
    (withG fun g => { g with uwc := 1 }).cur.uwc ≠ 0 ∧ base.evicting base.curCluster = false :=
  ⟨rfl, by decide, by decide, by decide, by decide, by decide, by decide⟩

/-- A table of 16 slots of 64 bytes with 64-bit keys of a kind, which allows replacing and drafts. -/
def tab (tid kind count : Nat) : Table :=
  { codeTable with dw := [
    BitVec.ofNat 64 (kind * 2 ^ 60 + 1 * 2 ^ 56 + 2 * 2 ^ 52 + 2 ^ 51 + 2 ^ 50 + 2 * 2 ^ 47 + 2 ^ 40 +
      tid * 2 ^ 20), 0, 16, BitVec.ofNat 64 count, 0, 0] }

/-- Table 2, DENSE with 64-bit positions, and table 3, ORD with keys 5 and 9 in slots 1 and 2; key 9 is a
draft of the launch with tag 7. -/
def dense2 : Table :=
  { tab 2 0 16 with dw := setAt (tab 2 0 16).dw 0 (withField (dwAt (tab 2 0 16).dw 0) 56 4 3) }
def ord3 : Table := { tab 3 1 2 with rows := [⟨9, 2, some (7, 1)⟩, ⟨5, 1, none⟩], free := [(3, 16)] }

/-- `base` with both tables granted whole and their first pages in the handle TLB of core 0, and uniform
registers set. -/
def work (rs : List (Nat × W64)) : State :=
  { (base.modLaunch 1 fun l => { l with grants := [(1, true, false), (2, true, true), (3, true, true)] }).modCur
      (uni rs) with
    tables := [(1, codeTable), (2, dense2), (3, ord3)]
    mem := { base.mem with tlb := [(0, 2 * 2 ^ 74), (0, 3 * 2 ^ 74)] } }

/-- `work` with lane registers v4 and v5 holding a handle in every lane, that of lane `l` `step · l` bytes
further on. -/
def laneWork (h : W64) (step : Nat) : State :=
  (work []).modCur fun g =>
    (g.setV allLanes 4 fun l => lo32 (h + BitVec.ofNat 64 (step * l))).setV allLanes 5 fun l =>
      hi32 (h + BitVec.ofNat 64 (step * l))

/-- A handle names own scratchpad bytes, by its checks. -/
theorem own_spad {s : State} {h : W64} {off : BitVec 16} {n o : Nat} (e : W64)
    (h0 : (effective h off).toOption = some e) (h1 : spaceOf e = 1 ∧ field e 19 43 = 0 ∧ field e 0 19 = o)
    (h2 : o + n ≤ s.curLaunch.spad) (h3 : o % n = 0) : s.OwnSpad h off n o := by
  refine ⟨⟨e, ?_, h1⟩, h2, h3⟩
  cases hx : effective h off <;> simp_all [Except.toOption]

/-- A handle names table bytes, by its checks. -/
theorem in_table {s : State} {h : W64} {off : BitVec 16} {n k : Nat} {rd wr : Bool} (e : W64)
    (h0 : (effective h off).toOption = some e) (h1 : spaceOf e = 0 ∧ e.toNat = k)
    (h2 : (s.table (tidOfKey k)).poisonDesc = false)
    (h3 : (s.table (tidOfKey k)).usable (tidOfKey k) = true)
    (h4 : s.curLaunch.reads (tidOfKey k) = true) (h5 : s.curLaunch.writesTo (tidOfKey k) = true)
    (h6 : posOfKey k / (s.table (tidOfKey k)).rowSize < (s.table (tidOfKey k)).slots)
    (h7 : posOfKey k % n = 0) : s.InTable h off n k rd wr := by
  refine ⟨⟨e, ?_, h1⟩, h2, h3, fun _ => h4, fun _ => h5, h6, h7⟩
  cases hx : effective h off <;> simp_all [Except.toOption]

/-- An object handle in g5 and, in g6, its image at offset 64 of the scratchpad: no guarded range. -/
def object : State :=
  (work [(5, handle 2 64), (6, pad 64)]).modTeam (teamOf gid0) fun t => { t with spad := [(72, 2)] }

theorem witness_SynchronisationObjectWords : object.Live ∧ object.inRegion object.curG = false ∧
    object.acquiring = false ∧ object.Accepts ⟨[sg 5 false, sg 6 false], [], false⟩ ∧
    object.Accepts ⟨[sg 5 false], [], false⟩ ∧
    (object.checkImage object.curG (object.cur.gval false 6) 64 8).toOption =
      some (.spad (teamOf gid0) 64) ∧
    (object.imageBusy (.spad (teamOf gid0) 64) 64 || object.imageScored (.spad (teamOf gid0) 64) 64) = false ∧
    (object.readLoc object.curCluster false (.spad (teamOf gid0) 64) 64).2.2 = false ∧
    (object.checkObjectHandle (object.cur.gval false 5)).toOption = some () ∧
    (object.checkObject (object.cur.gval false 5)
      ((List.range 8).map (dwOf (bytesAt object.curTeam.spad 64 64))) fun _ => true).toOption.isSome ∧
    object.curLaunch.writesTo 2 = true ∧ object.objectInside (object.cur.gval false 5) = true ∧
    object.objectHitsKey (object.cur.gval false 5) = false ∧ object.countOk 1 = true ∧
    object.strongBehind object.curG (objectKeys (object.cur.gval false 5)) = false ∧
    (object.table 2).ownw = false ∧ object.writes = [] ∧
    object.pageHeld (object.coreOf object.curG) (object.cur.gval false 5).toNat = true ∧
    object.lineRoom object.curCluster ((object.cur.gval false 5).toNat / 256) = true :=
  ⟨rfl, by decide, by decide, ok (by decide) (by decide), ok (by decide) (by decide), by decide +kernel,
    by decide, by decide +kernel, by decide +kernel, by decide +kernel, by decide, by decide, by decide +kernel,
    by decide, by decide, by decide, by decide, by decide +kernel, by decide +kernel⟩
/-- An object in memory with one guarded range, the first two sectors of table 3, for `sacq` and `srel`. -/
theorem witness_guarded : ∃ gs : List Guard,
    let s := { object with mem := { object.mem with home := setBytes [] (runOf (2 * 2 ^ 42 + 64 + 8)
      [2, 0, 48, 0, 0, 9, 0, 0, 2]) } }
    ((s.guarded (s.cur.gval false 5) false).toOption.map List.length = some 1 ∧
      (s.guarded (s.cur.gval false 5) true).toOption.map List.length = some 1) ∧
    (s.rangeHeld (s.coreOf s.curG) (s.cur.gval false 5).toNat 64 = true ∧
      s.walkingRange (s.coreOf s.curG) (s.cur.gval false 5).toNat 64 = false) ∧
    s.objectBusy (s.cur.gval false 5) = false ∧ (s.cur.slot false).stage = 0 ∧ s.countHeld = false ∧
    s.softPending s.curG (inGuards gs) = false ∧ s.dirtySectors s.curCluster (inGuards gs) = [] ∧
    s.released true = true := ⟨[⟨3, 0, 2⟩], by decide +kernel⟩
/-- Handles on which `sacq` stops: one that is not aligned, one of an absent table, one past its table. -/
theorem witness_objects : posOf (handle 2 32) % 64 ≠ 0 ∧ ((work []).table 9).usable 9 = false ∧
    ((work []).table 2).usable 2 = true ∧ (work []).objectInside (handle 2 (2 ^ 30)) = false := by decide +kernel

/-- A clean and a dirty byte of a cluster copy. -/
def copied (st : Nat) : State :=
  { work [] with mem := { (work []).mem with l1 := [(copyKey 3 (2 * 2 ^ 42 + 64), ⟨7, st⟩)] } }

theorem witness_AcquireDropsCleanCopies : 2 * 2 ^ 42 + 64 < 2 ^ 80 ∧
    (∀ b, aget (copied 0).mem.l1 (copyKey 3 (2 * 2 ^ 42 + 64)) = some b → b.st = 0) ∧
    rising (copied 0).mem.l1 = true := by
  refine ⟨by decide, fun b hb => ?_, by decide⟩
  have : b = ⟨7, 0⟩ := by simpa [copied, aget] using hb.symm
  rw [this]

/-- A range handle in g5 and its length in g6. -/
def range5 (n : W64) : State := work [(5, handle 2 64), (6, n)]

theorem witness_RangeMaintenanceWords : (range5 64).Live ∧ (range5 64).inRegion gid0 = false ∧
    (range5 64).acquiring = false ∧ (range5 64).Accepts ⟨[sg 5 false, sg 6 false], [], false⟩ ∧
    (range5 64).Accepts ⟨[sg 5 false, sg 6 false], [dg 7], false⟩ ∧
    (range5 64).Accepts ⟨[sg 5 false], [], false⟩ ∧
    (∀ wr ∈ [false, true], ((range5 64).checkRange (handle 2 64) 64 wr).toOption = some ()) ∧
    ((range5 64).checkRange (handle 2 64) (2 ^ 42 - 64) false).toOption = some () ∧
    (range5 64).cur.gval false 5 = handle 2 64 ∧ (range5 64).countHeld = false ∧
    (range5 64).softPending gid0 (inRange (handle 2 64) 64) = false ∧ (range5 64).Translated (handle 2 64).toNat 1 ∧
    (range5 64).dirtySectors 0 (inRange (handle 2 64) 64) = [] ∧ spaceOf (pad 0) ≠ 0 ∧
    (let s := { range5 64 with mem := { (range5 64).mem with pins := [⟨0, 1, 2 * 2 ^ 42 + 64, 64, 8⟩] } }
     s.mem.pins = [] ++ ⟨s.dieOf gid0, 1, (s.cur.gval false 5).toNat, 64, 8⟩ :: []) :=
  ⟨rfl, by decide, by decide, ok (by decide) (by decide), ok (by decide) (by decide),
    ok (by decide) (by decide), by decide, by decide, by decide, by decide, by decide,
    ⟨by decide +kernel, by decide +kernel⟩, by decide, by decide, by decide⟩

/-! ### Witnesses: regions -/

/-- `dense2` as a table of a world. -/
def sealed2 : Table :=
  { dense2 with dw := setAt dense2.dw 1 (withField (dwAt dense2.dw 1) 57 1 1) }

/-- A region of the group of `work`, which has written the second sector of table 2. -/
def region (die : Nat) (fend ready : Option Nat) : Region :=
  ⟨gid0, die, [], [], [⟨2 * 2 ^ 36 + 1, List.replicate 64 3, 1, 4⟩], base.cur, fend, ready⟩

/-- `work` in a region of a die, with edges. -/
def regional (r : Region) (es : List Edge) : State :=
  { work [(5, handle 2 64), (6, 7)] with regions := [r], edges := es }

theorem witness_RegionWords : base.Live ∧ base.Accepts ⟨[], [dg 6], false⟩ ∧ base.inRegion gid0 = false ∧
    ((withG (onSlot true (path 4 2 none 0))).cur.s0.path.isSome = true ∧
      (withG (onSlot true (path 4 2 none 0))).cur.s1.path.isSome = true) ∧
    base.cur.s1.path.isSome = false ∧ (withG fun g => { g with uwc := 1 }).released true = false ∧
    base.released true = true ∧ (base.regions.filter fun r => r.die == base.dieOf gid0).length < 128 ∧
    (∃ r, (regional (region 0 none none) []).regionOf gid0 = some r) ∧
    (regional (region 0 none none) []).Settled gid0 :=
  ⟨rfl, ok (by decide) (by decide), by decide, by decide, by decide, by decide, by decide, by decide,
    ⟨_, rfl⟩, ⟨by decide, by decide, by decide⟩⟩
/-- With 128 regions of the die open, the next `fbeg` of the group is refused. -/
theorem witness_region_slots : let r : Region := ⟨0, 0, [], [], [], Group.absent, none, none⟩
    128 ≤ ((List.replicate 128 r).filter fun r => r.die == base.dieOf gid0).length := by decide +kernel

/-- Regions at their `fend`: none asked, free and ready, held by an edge, behind one that came to its `fend` at
point 3 and is ready at the same point. -/
theorem witness_RegionCommitsAndRestores :
    (∀ x ∈ [(none, none), (some 4, none), (some 4, some 6)], let r := region 0 x.1 x.2
      (regional r []).regionOf gid0 = some r ∧ r.whole ∧ (regional r []).regionWaits gid0 = false) ∧
    (regional (region 0 none none) []).curG = gid0 ∧ (regional (region 0 none none) []).Live ∧
    (regional (region 0 none none) []).cur.s1.path = none ∧
    (regional (region 0 none none) []).cur.stack.length = base.cur.stack.length ∧
    ((regional (region 0 none none) []).edges.all fun e => e.dst != gid0) = true ∧
    ((regional (region 0 (some 4) none) [⟨0, gid0, .order⟩]).edges.all fun e => e.dst != gid0) = false ∧
    (∃ x ∈ [region 0 (some 4) (some 6), { region 0 (some 3) (some 6) with gid := 99 }], x.gid ≠ gid0 ∧
      x.ready = some 6 ∧ x.fend.getD 0 < (region 0 (some 4) (some 6)).fend.getD 0) ∧
    (∃ snap, aget ({ base with restores := [(gid0, base.cur)] } : State).restores gid0 = some snap) ∧
    ({ base with restores := [(gid0, base.cur)] } : State).Settled gid0 ∧
    ({ base with restores := [(gid0, base.cur)], fills := [load5] } : State).fillsOf gid0 ≠ [] := by
  refine ⟨?_, by decide, rfl, by decide, by decide, by decide, by decide, by decide +kernel, ⟨_, rfl⟩,
    ⟨by decide, by decide, by decide⟩, by decide⟩
  intro x hx
  simp only [List.mem_cons, List.not_mem_nil, or_false] at hx
  rcases hx with rfl | rfl | rfl <;>
    exact ⟨rfl, ⟨by decide, by decide⟩, by decide⟩

/-- An access of the group's region that meets nothing: at the sector it has written, and at the one after it. -/
theorem witness_region_accesses : ∀ k ∈ [2 * 2 ^ 42 + 64, 2 * 2 ^ 42 + 128],
    (regional (region 0 none none) []).Alone (region 0 none none) k := by
  intro k hk
  simp only [List.mem_cons, List.not_mem_nil, or_false] at hk
  rcases hk with rfl | rfl <;>
    exact ⟨by decide, by decide +kernel, by decide, by decide, by decide +kernel, by decide +kernel,
      fun e he => by simp [regional] at he, by decide +kernel, by decide⟩

/-- The other conditions of those accesses. -/
theorem witness_region_words : let s := regional (region 0 none none) []
    s.Live ∧ s.acquiring = false ∧ s.regionWaits gid0 = false ∧
    s.InTable (s.cur.gval false 5) 0 8 (2 * 2 ^ 42 + 64) true true ∧
    s.hitsKey (.tab (2 * 2 ^ 42 + 64)) 8 = false ∧ (s.cur.slot false).pend = [] ∧
    s.Accepts ⟨[sg 5 false], [dgs 8 1], false⟩ ∧ s.Accepts ⟨[sg 5 false, sgs 6 1 false], [], false⟩ ∧
    s.Accepts ⟨[sg 5 false, sg 6 false], [dg 8], false⟩ ∧ s.mem.poison = [] :=
  ⟨rfl, by decide, by decide,
    in_table (handle 2 64) (by decide) (by decide) (by decide) (by decide) (by decide) (by decide)
      (by decide) (by decide),
    by decide, by decide, ok (by decide) (by decide), ok (by decide) (by decide), ok (by decide) (by decide), rfl⟩

/-- The sector that another region was the last to write, and one homed on another die. -/
theorem witness_region_others : let r : Region := { region 0 none none with writes := [] }
    let x := { region 0 none none with gid := 99 }
    let s := { regional r [] with regions := [r, x] }
    (x ∈ s.regions ∧ x.gid ≠ r.gid ∧ (∃ i ∈ x.writes, i.sector = (2 * 2 ^ 42 + 64) / 64 ∧ i.bytes.length = 64)) ∧
    s.edges = [] ∧ s.homeDie r.die (2 * 2 ^ 42 + 64) = r.die ∧
    s.dirtyClusters (· == (2 * 2 ^ 42 + 64) / 64) = [] ∧ s.channelShut (2 * 2 ^ 42 + 64) = false ∧
    (regional (region 1 none none) []).homeDie 1 (2 * 2 ^ 42 + 64) ≠ 1 ∧
    (regional (region 1 none none) []).Settled gid0 :=
  ⟨⟨by decide +kernel, by decide, by decide +kernel⟩, rfl, by decide +kernel, by decide +kernel, by decide +kernel,
    by decide +kernel, ⟨by decide, by decide, by decide⟩⟩

/-- Lanes 0 and 95 at two sectors of table 2, in a region of the group, alone or beside region `x`. -/
def laneRegion (r : Region) (xs : List Region) (es : List Edge) : State :=
  let s := (laneWork (handle 2 64) 8).modCur fun g => onSlot false (path 0 (BitVec.twoPow 96 95 ||| 1) none 0)
    (uni [(5, handle 2 128)] g)
  { s with regions := r :: xs, edges := es }

/-- Region accesses of lanes that meet nothing (R222, R224). -/
theorem witness_RegionLaneAccesses : let r := region 0 none none
    let s := laneRegion r [] []
    lanesOf (s.lanesOn false) = [0, 95] ∧ s.regionOf gid0 = some r ∧ s.acquiring = false ∧ s.regionWaits gid0 = false ∧
    (∀ l ∈ [0, 95], let k := 2 * 2 ^ 42 + 64 + 8 * l
      s.Alone r k ∧ s.Translated k 8 ∧ s.InTable (s.cur.vpair 4 l) 0 8 k true true ∧
      s.hitsKey (.tab k) 8 = false ∧ s.mem.poison = []) ∧
    s.Accepts ⟨[svs 4 2 false], [dvs 8 2], true⟩ ∧ s.Accepts ⟨[svs 4 2 false, svs 8 2 false], [], true⟩ ∧
    s.Accepts ⟨[svs 4 2 false, svs 8 2 false], [dvs 10 2], true⟩ ∧ s.Accepts ⟨[sg 5 false, sg 6 false], [], false⟩ ∧
    r.reads.length + 2 ≤ 512 ∧ r.writes.length + 2 ≤ 256 := by
  refine ⟨by decide +kernel, rfl, by decide, by decide, ?_, ok (by decide) (by decide), ok (by decide) (by decide),
    ok (by decide) (by decide), ok (by decide) (by decide), by decide, by decide⟩
  intro l hl
  simp only [List.mem_cons, List.not_mem_nil, or_false] at hl
  rcases hl with rfl | rfl <;>
    refine ⟨⟨by decide +kernel, by decide +kernel, by decide +kernel, by decide +kernel, by decide +kernel, by decide +kernel,
        fun e he => (by cases he), by decide +kernel, by decide +kernel⟩,
      ⟨by decide +kernel, by decide +kernel⟩, ?_, by decide +kernel, rfl⟩
  · exact in_table (handle 2 64) (by decide +kernel) (by decide) (by decide) (by decide) (by decide) (by decide)
      (by decide) (by decide)
  · exact in_table (handle 2 824) (by decide +kernel) (by decide) (by decide) (by decide) (by decide) (by decide)
      (by decide) (by decide)

/-- Another region that has read, or has written, sector 2 of table 2. -/
def other (rd : Bool) : Region :=
  { region 0 none none with
    gid := 99
    reads := if rd then [2 * 2 ^ 36 + 2] else []
    readAt := if rd then [(2 * 2 ^ 36 + 2, 3)] else []
    writes := if rd then [] else [⟨2 * 2 ^ 36 + 2, List.replicate 64 9, 1, 5⟩] }

/-- Beside a region that has read the sector: an ordering edge, or a cycle; beside one that has written it, a chain
of four forwarding edges that ends at it. -/
theorem witness_region_edges : let r := region 0 none none
    let k := 2 * 2 ^ 42 + 128
    (∀ rd es, (rd, es) ∈ [(true, []), (true, [(⟨gid0, 99, .order⟩ : Edge)]),
        (false, [⟨11, 12, .forward⟩, ⟨12, 13, .forward⟩, ⟨13, 14, .forward⟩, ⟨14, 99, .forward⟩])] →
      let s := laneRegion r [other rd] es
      s.regionOf gid0 = some r ∧ (∀ y ∈ s.regions, y.gid = r.gid → y = r) ∧ s.regionWaits gid0 = false ∧
      s.homeDie r.die k = r.die ∧ r.own (k / 64) = none ∧ s.dirtyClusters (· == k / 64) = [] ∧
      s.underWay s.curCluster (· == k / 64) = [] ∧ s.channelShut k = false ∧ s.NoWaits r.gid ∧
      s.Translated k 8 ∧ s.InTable (s.cur.gval false 5) 0 8 k true true ∧ s.hitsKey (.tab k) 8 = false ∧
      s.Accepts ⟨[sg 5 false, sgs 6 1 false], [], false⟩ ∧ s.Accepts ⟨[sg 5 false], [dgs 8 1], false⟩ ∧ s.Settled gid0) ∧
    (aget (other true).readAt (k / 64)).isSome = true ∧
    (laneRegion r [other true] []).reaches gid0 99 = false ∧
    (laneRegion r [other true] [⟨gid0, 99, .order⟩]).reaches gid0 99 = true ∧
    (laneRegion r [other false] [⟨11, 12, .forward⟩, ⟨12, 13, .forward⟩, ⟨13, 14, .forward⟩,
      ⟨14, 99, .forward⟩]).reaches gid0 99 = false ∧ ∃ i ∈ (other false).writes, i.sector = k / 64 := by
  refine ⟨?_, by decide +kernel, by decide +kernel, by decide +kernel, by decide +kernel, by decide +kernel⟩
  intro rd es h
  simp only [List.mem_cons, List.not_mem_nil, or_false, Prod.mk.injEq] at h
  rcases h with ⟨rfl, rfl⟩ | ⟨rfl, rfl⟩ | ⟨rfl, rfl⟩ <;>
    refine ⟨by decide +kernel, by decide +kernel, by decide +kernel, by decide +kernel, by decide +kernel,
      by decide +kernel, by decide +kernel, by decide +kernel, ?_, ⟨by decide +kernel, by decide +kernel⟩,
      in_table (handle 2 128) (by decide +kernel) (by decide) (by decide) (by decide) (by decide) (by decide)
        (by decide) (by decide), by decide +kernel, ok (by decide) (by decide), ok (by decide) (by decide),
      ⟨by decide, by decide, by decide⟩⟩ <;>
    intro e he <;> simp [laneRegion] at he
  · subst he
    exact fun h => by simp [region, gid0, teamKey] at h
  · rcases he with rfl | rfl | rfl | rfl <;> exact fun h => by simp [region, gid0, teamKey] at h

/-- A load that waits in a region, over a wait edge or alone. -/
theorem witness_region_fills : let r := region 0 none none
    let f : Fill := ⟨7, gid0, false, false, .load 8 8 false false, [⟨0, .tab (2 * 2 ^ 42 + 64), 8, [], none⟩], 0,
      regSet 136 8 1, false, 0⟩
    ∀ es, es ∈ [[], [(⟨99, gid0, .wait 9⟩ : Edge)]] →
    let s := { laneRegion r [] es with fills := [f] }
    s.fills.find? (fun x => x.id == f.id) = some f ∧ s.regionOf f.gid = some r ∧ (aget s.groups f.gid).isSome = true ∧
      (s.group f.gid).status ≠ .draining ∧ s.walkingRange (s.coreOf f.gid) (2 * 2 ^ 42 + 64) 8 = false ∧
      (es = [] → s.Alone r (2 * 2 ^ 42 + 64)) := by
  intro r f es h
  simp only [List.mem_cons, List.not_mem_nil, or_false] at h
  rcases h with rfl | rfl <;>
    refine ⟨rfl, rfl, by decide +kernel, by decide +kernel, by decide +kernel, fun h => ?_⟩
  · exact ⟨by decide +kernel, by decide +kernel, by decide +kernel, by decide +kernel, by decide +kernel, by decide +kernel,
      fun e he => (by cases he), by decide +kernel, by decide +kernel⟩
  · cases h
/-- A channel that a launch holds in broadcast mode is shut to the keys at it. -/
theorem shut_by {s : State} {k : Nat} {x : Channel} (hp : isPriv k = false) (hx : x.holder.isSome = true) :
    ({ s with channels := [(s.channelOf (tidOfKey k) (posOfKey k), x)] } : State).channelShut k = true := by
  have h (y : Nat) : ({ s with channels := [(y, x)] } : State).channelOf (tidOfKey k) (posOfKey k) =
      s.channelOf (tidOfKey k) (posOfKey k) := rfl
  simp [State.channelShut, h, aget, hp, hx]
theorem witness_shut : let s := regional (region 0 (some 4) (some 6)) []
    let k := 64 * (2 * 2 ^ 36 + 1)
    (∃ c, let t : State := { s with channels := [(c, { s.channel 0 with holder := some 1 })] }
      t.channelShut k = true ∧ t.regionOf gid0 = s.regionOf gid0) ∧
    s.channelShut k = false ∧ s.Translated (2 * 2 ^ 42 + 64) 8 :=
  ⟨⟨_, shut_by (by decide) rfl, rfl⟩, by decide +kernel, by decide +kernel, by decide +kernel⟩

/-! ### Witnesses: loads, stores and atomics -/

/-- Own scratchpad bytes at the top of the team's 512 KB, and the table row behind a handle. -/
theorem witness_uniform_places :
    (work [(5, pad 524272)]).OwnSpad ((work [(5, pad 524272)]).cur.gval false 5) 8 8 524280 ∧
    (work [(5, handle 2 1024)]).InTable ((work [(5, handle 2 1024)]).cur.gval false 5) 56 8
      (2 * 2 ^ 42 + 1080) true true ∧
    (work [(5, handle 3 128)]).InTable ((work [(5, handle 3 128)]).cur.gval false 5) (-64) 4
      (3 * 2 ^ 42 + 64) true true :=
  ⟨own_spad (pad 524280) (by decide) (by decide) (by decide) (by decide),
    in_table (handle 2 1080) (by decide) (by decide) (by decide) (by decide) (by decide) (by decide)
      (by decide) (by decide),
    in_table (handle 3 64) (by decide) (by decide) (by decide) (by decide) (by decide) (by decide)
      (by decide) (by decide)⟩

theorem witness_LoadWords : (work []).acquiring = false ∧ (work []).regionWaits gid0 = false ∧
    (work []).inRegion gid0 = false ∧ (work [(5, pad 524272)]).Accepts ⟨[sg 5 false], [dgs 6 2], false⟩ ∧
    (work []).scored (teamOf gid0) 524280 524288 false = false ∧ (work []).curTeam.spadPoison = [] ∧
    (laneWork (pad 0) 4).Accepts ⟨[svs 4 2 false], [dvs 124 4], true⟩ ∧ (laneWork (pad 0) 4).lanesOn false ≠ 0 ∧
    ((work []).modCur (onSlot false (path 0 0 none 0))).lanesOn false = 0 ∧
    (effective (pad 0) (-1)).toOption = none ∧ (effective (pad 8) (-8)).toOption = some (pad 0) :=
  ⟨by decide, by decide, by decide, ok (by decide) (by decide), by decide, by decide,
    ok (by decide) (by decide), by decide, by decide, by decide, by decide⟩
/-- Handles that stop a load: bits above the scratchpad's offset, an end beyond the scratchpad, a misaligned
offset, an absent table, one without the right, a slot beyond CAP, a misaligned position (R27). -/
theorem witness_load_stops : field (BitVec.ofNat 64 (2 ^ 62 + 2 ^ 19)) 19 43 ≠ 0 ∧
    (work []).curLaunch.spad < field (pad 524284) 0 19 + 8 ∧ field (pad 4) 0 19 % 8 ≠ 0 ∧
    ((work []).table 9).usable 9 = false ∧ ((work []).table 2).usable 2 = true ∧
    base.curLaunch.reads 2 = false ∧ ((work []).table 2).slots ≤ posOf (handle 2 1088) / 64 ∧
    (posOf (handle 2 1084) / 64 < ((work []).table 2).slots ∧ posOf (handle 2 1084) % 8 ≠ 0) := by decide

/-- Every lane's address, by a check of all lanes. -/
theorem lanes_spad {s : State} {a : Nat} {off : BitVec 16} {n : Nat} (o : Nat → Nat)
    (h : (List.range 96).all (fun l => (effective (s.cur.vpair a l) off).toOption.any fun e =>
      spaceOf e == 1 && field e 19 43 == 0 && field e 0 19 == o l && decide (o l + n ≤ s.curLaunch.spad) &&
        o l % n == 0) = true) : ∀ l < 96, s.OwnSpad (s.cur.vpair a l) off n (o l) := by
  intro l hl
  have := List.all_eq_true.1 h l (List.mem_range.2 hl)
  cases hx : effective (s.cur.vpair a l) off with
  | error e => simp [hx, Except.toOption] at this
  | ok e =>
    simp only [hx, Except.toOption, Option.any_some, Bool.and_eq_true, beq_iff_eq, decide_eq_true_eq] at this
    exact ⟨⟨e, hx, this.1.1.1.1, this.1.1.1.2, this.1.1.2⟩, this.1.2, this.2⟩

theorem witness_lane_places : (∀ l < 96, (laneWork (pad 64) 4).OwnSpad ((laneWork (pad 64) 4).cur.vpair 4 l) 0 4
    (64 + 4 * l)) := lanes_spad _ (by decide +kernel)
/-- A row read of 64 bytes in every lane, each lane its own row of the 17. -/
theorem witness_row_reads : (List.range 96).all (fun l =>
    let s := laneWork (handle 2 64) 8
    let k := 2 * 2 ^ 42 + 64 + 8 * l
    (effective (s.cur.vpair 4 l) 0).toOption == some (BitVec.ofNat 64 k) && tidOfKey k == 2 &&
      decide (posOfKey k / 64 < (s.table 2).slots) && decide (posOfKey k % 8 = 0) &&
      decide (posOfKey k % 64 + 8 ≤ (s.table 2).rowSize)) = true := by decide +kernel

theorem witness_StoreWords : (work [(5, pad 0), (6, 7)]).Accepts ⟨[sg 5 false, sgs 6 2 true], [], false⟩ ∧
    ((work []).cur.slot false).pend = [] ∧
    (work []).hitsNotify (.spad (teamOf gid0) 524280) 8 = false ∧
    (work []).scored (teamOf gid0) 524280 524288 true = false ∧
    (work []).hitsKey (.tab (3 * 2 ^ 42 + 64)) 4 = true ∧ (work []).hitsKey (.tab (3 * 2 ^ 42 + 72)) 4 = false ∧
    (work []).hitsKey (.tab (2 * 2 ^ 42 + 1080)) 8 = false ∧ (work []).countOk 96 = true ∧
    (work []).strongBehind gid0 [2 * 2 ^ 42 + 1080] = false ∧ (work []).writes = [] ∧
    ((work []).table 2).ownw = false ∧ (work []).pageHeld 0 (2 * 2 ^ 42 + 1024) = true ∧
    (work []).lineRoom 0 ((2 * 2 ^ 42 + 1080) / 256) = true ∧
    (laneWork (pad 64) 4).Accepts ⟨[svs 4 2 false, svs 8 1 false], [], true⟩ ∧
    (laneWork (pad 64) 4).lanesOn true ≠ 0 :=
  ⟨ok (by decide) (by decide), by decide, by decide, by decide, by decide, by decide, by decide, by decide, by decide,
    by decide, by decide, by decide, by decide, ok (by decide) (by decide), by decide⟩

/-- Lanes that reach the group's private space, with their page allocated, and another team's scratchpad in the
cluster. -/
theorem witness_lane_reaches :
    (let s := laneWork (BitVec.ofNat 64 (3 * 2 ^ 62)) 0
     let t := s.modMem fun m => { m with privPages := [(s.curLaunch.ten, pageOf s.privateBase)] }
     t.Reaches 0 (t.cur.vpair 4 0) 0 4 true true (.priv t.privateBase 0 0) ∧
       t.mem.privPages.contains (t.curLaunch.ten, pageOf ((Loc.priv t.privateBase 0 0).key 3)) = true) ∧
    (let h := BitVec.ofNat 64 (2 * 2 ^ 62 + 1 * 2 ^ 36 + 1 * 2 ^ 20 + 64)
     let s := laneWork h 0
     let t := { s with teams := s.teams ++ [(teamKey 1 1, { codeTeam with core := 1 })] }
     t.Reaches 0 (t.cur.vpair 4 0) 0 4 true true (.spad (teamKey 1 1) 64)) := by
  refine ⟨⟨⟨rfl, rfl, ⟨⟨BitVec.ofNat 64 (3 * 2 ^ 62), rfl, by decide, by decide, by decide⟩, by decide⟩⟩,
    by decide +kernel⟩, ?_⟩
  exact ⟨⟨BitVec.ofNat 64 (2 * 2 ^ 62 + 1 * 2 ^ 36 + 1 * 2 ^ 20 + 64), rfl, by decide, by decide, by decide, by decide,
    by decide +kernel⟩, by decide, by decide, by decide⟩

theorem witness_AtomicWords : (work [(5, pad 0), (6, 7)]).Accepts ⟨[sg 5 false, sgs 6 2 true], [dg 8], false⟩ ∧
    (work [(5, pad 0)]).Accepts ⟨[sg 5 false, sg 6 false], [], false⟩ ∧ AtomOp.add ≠ AtomOp.cas ∧
    (laneWork (pad 64) 8).Accepts ⟨[svs 4 2 false, svs 8 2 false], [dvs 10 2], true⟩ ∧
    (laneWork (pad 64) 8).Accepts ⟨[svs 4 2 false, svs 8 1 false], [], true⟩ ∧
    (∀ l < 96, (laneWork (pad 64) 8).OwnSpad ((laneWork (pad 64) 8).cur.vpair 4 l) 0 8 (64 + 8 * l)) ∧
    (∀ l l' : Nat, l ≠ l' → 64 + 8 * l ≠ 64 + 8 * l') :=
  ⟨ok (by decide) (by decide), ok (by decide) (by decide), by decide, ok (by decide) (by decide),
    ok (by decide) (by decide), lanes_spad _ (by decide +kernel), fun l l' h => by omega⟩
/-- A table of a world (OWNW 1), on which a reduction traps; private space, on which an atomic does. -/
theorem witness_atomic_stops : let s := { work [(5, handle 2 64)] with tables := [(2, sealed2)] }
    s.InTable (s.cur.gval false 5) 0 8 (2 * 2 ^ 42 + 64) false true ∧ (s.table 2).ownw = true ∧
    (Loc.priv 0 0 0).isPrivate = true ∧ (Loc.tab (2 * 2 ^ 42 + 64)).isPrivate = false :=
  ⟨in_table (handle 2 64) (by decide) (by decide) (by decide) (by decide) (by decide) (by decide)
      (by decide) (by decide), by decide, rfl, rfl⟩

/-! ### Witnesses: fills and writes under way -/

/-- `work` with one producer under way. -/
def filling (lane : Bool) (kind : FillKind) (items : List Item) : State :=
  { work [] with fills := [⟨7, gid0, false, lane, kind, items, 0, 0, false, 0⟩] }

/-- What every clause on fills asks of a state; the items of loads and reads may bind, those of lookups run. -/
def fillWitness (s : State) : Bool :=
  match s.fills.find? fun x => x.id == 7 with
  | some f => !s.inRegion f.gid && (aget s.groups f.gid).isSome && (s.group f.gid).status != .draining &&
      if f.isLookup then f.items.all (s.lookupReady f []) else f.items.all (s.itemReady f)
  | none => false

theorem witness_RegisterFills :
    fillWitness (filling false (.load 5 16 false true) (waitingItems 0 16 (.tab (2 * 2 ^ 42 + 64)))) = true ∧
    fillWitness (filling true (.load 8 2 true false) (waitingItems 95 2 (.tab (2 * 2 ^ 42 + 64)))) = true ∧
    fillWitness (filling true (.trd 8 256) [⟨95, .tab (2 * 2 ^ 42), 256, [], none⟩]) = true ∧
    fillWitness (filling false (.tget 5 6 3 true ord3.dw) [⟨0, .tab (3 * 2 ^ 42), 0, [5], none⟩]) = true ∧
    fillWitness (filling true (.tstp 2 8 4 2)
      [⟨0, .tab (3 * 2 ^ 42), 0, [3, 0, 5, 0, 9, 0, 0, 0] ++ ord3.dw, none⟩]) = true ∧
    fillWitness (filling false (.lnch 119 12) []) = true ∧
    (work []).slotOfKey (32 * ((2 * 2 ^ 42 + 64) / 32)) = none ∧ (work []).mem.l1 = [] := by decide +kernel
/-- Keys of table 3: found, missed, and one that does not fit a 32-bit key. -/
theorem witness_lookups : (work []).Finds 1 ord3 5 1 ∧ (work []).Finds 1 ord3 9 2 ∧ (work []).Misses 1 ord3 7 ∧
    (work []).Misses 2 ord3 9 ∧ uniKey ord3 [5] = some 5 ∧
    uniKey { ord3 with dw := setAt ord3.dw 0 (withField (dwAt ord3.dw 0) 56 4 2) } [2 ^ 32] = none := by
  refine ⟨?_, ?_, ?_, ?_, by decide, by decide⟩
  · rw [State.Finds, if_neg (by decide)]
    exact ⟨by decide, ⟨5, 1, none⟩, by decide, rfl, rfl, rfl⟩
  · rw [State.Finds, if_neg (by decide)]
    exact ⟨by decide, ⟨9, 2, some (7, 1)⟩, by decide, rfl, by decide, rfl⟩
  · rw [State.Misses, if_neg (by decide)]
    decide
  · rw [State.Misses, if_neg (by decide)]
    decide
/-- A cursor over keys 5 to 9 that reaches key 5 first, and one over 10 to 20 that reaches none. -/
theorem witness_cursors : ord3.held = none ∧ ord3.dense = false ∧ ord3.keyt = 1 ∧ field (3 : W64) 0 20 = 3 ∧
    (flag (3 : W64) 20 = false ∧ flag (3 : W64) 22 = false) ∧
    (⟨5, 1, none⟩ ∈ ord3.rows ∧ (work []).sees 1 ⟨5, 1, none⟩ = true ∧
      ∀ x ∈ ord3.rows, (5 : Int) < x.key ∨ x = ⟨5, 1, none⟩) ∧
    (∀ r ∈ ord3.rows, ¬(10 : W64).toInt ≤ r.key) := by decide

/-- A request of the group of `work`. -/
def request (kind : WKind) (data : List (Nat × Byte)) (stage : Nat) (flow : Option Packet) : PWrite :=
  ⟨9, gid0, 0, kind, data, 0, stage, true, none, flow, false, none, true, false, false, []⟩

/-- `work` with one request under way. -/
def writing (kind : WKind) (data : List (Nat × Byte)) (stage : Nat) : State :=
  { work [] with writes := [request kind data stage none] }

theorem witness_WritesOnTheirWay :
    (copied 0).dirtySectors 3 (fun x => x / 4 == (2 * 2 ^ 42 + 64) / 256) = [] ∧
    (copied 1).dirtySectors 3 (fun x => x / 4 == (2 * 2 ^ 42 + 64) / 256) = [(2 * 2 ^ 42 + 64) / 64] ∧
    ((work []).group gid0).status ≠ .draining ∧ (aget (work []).groups gid0).isSome = true ∧
    (let s := writing .l1 [(2 * 2 ^ 42 + 64, 3)] 0
     s.writes.all (fun w => s.mayLand w && (s.slotOfKey (2 * 2 ^ 42 + 64)).isNone &&
       !s.isKeyByte (2 * 2 ^ 42 + 64)) = true) ∧
    (let s := writing (.spad (teamOf gid0)) [(524287, 3)] 0
     s.writes.all (fun w => !s.ownBefore w && (s.team (teamOf gid0)).resident) = true) ∧
    (let s := writing .home [(2 * 2 ^ 42 + 64, 3), (2 * 2 ^ 42 + 65, 4)] 1
     s.writes.all (fun w => s.mayPerform w && decide ((w.data.map (·.1)).Nodup)) = true) ∧
    (let s := writing (.atom ⟨.add, 4, 1, 0, none⟩)
        ((List.range 4).map fun i => (2 * 2 ^ 42 + 64 + i, 0)) 1
     s.writes.all (fun w => s.mayPerform w && !s.ownBefore w &&
        (s.presence (fun x => x == (2 * 2 ^ 42 + 64) / 256)).isEmpty &&
        !s.unitPoisoned (2 * 2 ^ 42 + 64) &&
        (List.range 4).all fun i => !s.isKeyByte (2 * 2 ^ 42 + 64 + i)) = true) ∧
    ((regional (region 0 none none) []).regionHolds (2 * 2 ^ 36 + 1) = true) ∧
    (∃ p ∈ [(⟨0, 1, 2 * 2 ^ 42 + 64, 64, 8⟩ : Pin)], p.die = 40 - 40 ∧ p.lo / 256 ≤ (2 * 2 ^ 42 + 64) / 256 ∧
      (2 * 2 ^ 42 + 64) / 256 ≤ (p.lo + p.len - 1) / 256) := by decide +kernel

theorem witness_PacketsWalksAndMoves :
    (let s : State := { work [] with writes := [request .home [(2 * 2 ^ 42, 1)] 0 (some ⟨0, 1, 5, 0, 3⟩)] }
     (s.writes.any fun w => w.isPacket 0 1 5) = true ∧ s.pathLive 0 1 0 = true ∧ s.pathBefore 0 1 0 3 = false ∧
       s.pathBefore 0 1 0 4 = true) ∧
    (let s : State := { base with flows := [⟨0, 1, 6, [], [⟨4, 0, 0, 2⟩], [5]⟩] }
     5 ∈ (s.flow 0 1).copies ∧ (s.writes.any fun w => w.isPacket 0 1 5) = false ∧
       (BitVec.ofNat 32 5).toNat = 5 ∧ (5 : BitVec 32) ≠ (s.flow 0 1).next ∧
       ((s.flow 0 1).next - (5 : BitVec 32)).toNat < 2 ^ 31 ∧
       (s.flow 0 1).sent.find? (fun x => x.num == 4 && x.forPath == 0) = some ⟨4, 0, 0, 2⟩ ∧
       s.pathLive 0 1 0 = true ∧ s.pathBefore 0 1 0 2 = false) ∧
    ((([⟨3, 17, [0]⟩] : List Walk).filter fun w => w.die == 3).take 64).find? (fun w => w.page == 17) =
      some ⟨3, 17, [0]⟩ := by decide +kernel
/-- A row of a table without a home policy can move to a stack that it is not on; and a move under way. -/
theorem witness_moves : ∃ stack : Nat, stack < 12 ∧
    (let t0 := { dense2 with dw := setAt dense2.dw 0 (withField (dwAt dense2.dw 0) 47 2 0) }
     let s : State := { base with tables := [(2, t0)] }
     (s.table 2).usable 2 = true ∧ (s.table 2).live 16 = true ∧ (s.table 2).home = 0 ∧
       s.stackLive stack = true ∧ s.channelOf 2 (16 * (s.table 2).rowSize) / 64 ≠ stack ∧
       aget s.mem.moving (2 * 2 ^ 42 + 16) = none ∧ s.redirects (s.firstStack 2 16) (2 * 2 ^ 42 + 16) < 16384 ∧
       s.callOn (2 * 2 ^ 42 + 16) = false ∧ s.regions = []) := by
  by_cases h : ({ base with tables := [(2, { dense2 with
      dw := setAt dense2.dw 0 (withField (dwAt dense2.dw 0) 47 2 0) })] } : State).channelOf 2 (16 * 64) / 64 = 0
  · exact ⟨1, by decide, by decide, by decide, by decide, by decide, fun x => by
      have : (0 : Nat) = 1 := h.symm.trans x
      omega, by decide, by decide, by decide, rfl⟩
  · exact ⟨0, by decide, by decide, by decide, by decide, by decide, h, by decide, by decide, by decide, rfl⟩
/-- A move under way whose row no call runs against, and one against which a call runs. -/
theorem witness_flips : let s := (work []).modMem fun m => { m with moving := [(2 * 2 ^ 42 + 16, 3)] }
    aget s.mem.moving (2 * 2 ^ 42 + 16) = some 3 ∧ s.callOn (2 * 2 ^ 42 + 16) = false ∧
    ({ s with calls := [⟨7, gid0, 1, 0, 6, 1, 3, 2 * 2 ^ 42 + 16 * 64, 100, [], [], .bank 5 2, false, 2, false,
      some ⟨none, 0, ⟨[], [], [], []⟩, []⟩, none, 0, some 1000, true⟩] } : State).callOn (2 * 2 ^ 42 + 16) = true := by
  decide +kernel

/-! ### Witnesses: tables -/

/-- A handle names a table whole, by its checks. -/
theorem on_table {s : State} {h : W64} {tid : Nat} {rd wr : Bool} {kinds : List Nat} {w : Option Nat}
    (h1 : h.toNat = tid * 2 ^ 42 ∧ tid < 2 ^ 20)
    (h2 : (s.table tid).poisonDesc = false ∧ (s.table tid).poisonIndex = false)
    (h3 : (s.table tid).usable tid = true) (h4 : s.curLaunch.reads tid = true)
    (h5 : s.curLaunch.writesTo tid = true) (h6 : (s.table tid).kind ∈ kinds)
    (h7 : w.getD (s.table tid).keyBytes = (s.table tid).keyBytes) : s.OnTable h tid rd wr kinds w :=
  ⟨h1.1, h1.2, h2, h3, fun _ => h4, fun _ => h5, h6, fun x hx => by subst hx; exact h7⟩

theorem witness_TableReadingWords : (work []).acquiring = false ∧ (work []).inRegion gid0 = false ∧
    (work [(5, 2 ^ 20)]).Accepts ⟨[sg 5 false], [dg 6], false⟩ ∧
    (work []).OnTable (handle 3 0) 3 true true [0, 1, 2, 3] (some (tyWidth .i64)) ∧
    (work []).OnTable (handle 3 0) 3 true false [0, 1, 3] (some (tyWidth .n64)) ∧
    (work [(5, handle 3 0)]).Accepts ⟨[sg 5 false, sgs 6 1 false], [dg 7, dg 8], false⟩ ∧
    (work [(5, handle 3 0)]).Accepts ⟨[sg 5 false, svs 6 2 false], [dvs 8 2, dv 10], true⟩ ∧
    (work [(5, handle 3 0)]).Accepts ⟨[sg 5 false, svs 4 2 false, svs 6 2 false], [dvs 8 8], true⟩ ∧
    (work []).lanesOn false ≠ 0 ∧ posOf (handle 3 64) ≠ 0 ∧ tyWidth .n32 ≠ ord3.keyBytes ∧
    (pad 524287 ≠ 0 ∧ field (pad 524287) 0 19 < (work []).curLaunch.spad) ∧
    (work []).teamOn 1 0 = some (teamOf gid0) ∧ (work []).teamOn 1 1 = none :=
  ⟨by decide, by decide, ok (by decide) (by decide),
    on_table (by decide) (by decide) (by decide) (by decide) (by decide) (by decide) (by decide),
    on_table (by decide) (by decide) (by decide) (by decide) (by decide) (by decide) (by decide),
    ok (by decide) (by decide), ok (by decide) (by decide), ok (by decide) (by decide), by decide, by decide,
    by decide, by decide, by decide, by decide⟩

/-- A cursor over table 3 in v8 to v15 of every lane. -/
def cursor : State := (work []).modCur (lane [(8, 3), (10, 5), (12, 9)])

theorem witness_cursor_step : cursor.Accepts ⟨[svs 8 8 false], [dvs 2 2, dv 4, dvs 8 8], true⟩ ∧
    cursor.lanesOn false ≠ 0 ∧ (List.range 96).all (fun l =>
      let e0 := cursor.cur.cursorElem 8 l 2 0
      decide (e0 < 2 ^ 23) && decide (cursor.cur.cursorElem 8 l 2 3 < 2 ^ 32) &&
        (cursor.table (e0 % 2 ^ 20)).usable (e0 % 2 ^ 20) && cursor.curLaunch.reads (e0 % 2 ^ 20) &&
        (cursor.table (e0 % 2 ^ 20)).kind != 2 && tyWidth .i64 == (cursor.table (e0 % 2 ^ 20)).keyBytes) = true :=
  ⟨ok (by decide) (by decide), by decide, by decide +kernel⟩
/-- A gather of 512 keys whose list and destination fill the scratchpad's top; and a full scoreboard. -/
theorem witness_gather : (work [(5, handle 3 0), (6, pad 65536), (7, pad 131072)]).Accepts
      ⟨[sg 5 false, sg 6 false, sg 7 false], [], false⟩ ∧
    spaceOf (pad 65536) = 1 ∧ field (pad 65536) 19 43 = 0 ∧
    field (pad 65536) 0 19 + 512 * 8 ≤ (work []).curLaunch.spad ∧ field (pad 131072) 0 19 % 32 = 0 ∧
    field (pad 131072) 0 19 + (512 * 64 + 512) ≤ (work []).curLaunch.spad ∧
    (work []).score.length + 2 ≤ 96 ∧
    96 < ((List.replicate 95 (⟨0, 0, 0, 32, false, 1⟩ : ScoreEntry)).filter fun x =>
      x.core == (work []).coreOf gid0).length + 2 :=
  ⟨ok (by decide) (by decide), by decide, by decide, by decide, by decide, by decide, by decide,
    by decide +kernel⟩

/-- `work` with a row image for key 7 at offset 64 of the scratchpad, one active lane, and room in table 3
for `room` rows beside its two. -/
def changing (room : Nat) : State :=
  let s := (work [(5, handle 3 0), (6, pad 64), (7, handle 3 64)]).modCur fun g =>
    (onSlot false (path 0 (BitVec.twoPow 96 95) none 0) (lane [(4, 64), (5, 0x40000000), (6, 5)] g))
  let s1 := s.modTeam (teamOf gid0) fun t => { t with spad := [(64, 7)] }
  { s1 with tables := [(1, codeTable), (2, dense2), (3, { ord3 with
      dw := setAt ord3.dw 2 (BitVec.ofNat 64 (3 + room)), free := [(3, 3 + room)] })] }

theorem witness_TableChangeWords : (changing 1).acquiring = false ∧ (changing 1).inRegion gid0 = false ∧
    (changing 1).mem.l1 = [] ∧ ((changing 1).table 3).held = none ∧
    (((changing 1).table 3).ownw = false ∧ (changing 1).pageHeld 0 (3 * 2 ^ 42 + 64) = true ∧
      (changing 1).mem.walks = []) ∧
    (changing 1).OnTable (handle 3 0) 3 false true [1, 2, 3] (some (tyWidth .i64)) ∧
    (changing 1).Accepts ⟨[sg 5 false, sg 6 false], [dg 8], false⟩ ∧
    (changing 1).Accepts ⟨[sg 7 false, sg 6 false], [dg 8], false⟩ ∧
    (changing 1).Accepts ⟨[sg 5 false, svs 4 2 false], [dv 8], true⟩ ∧
    lanesOf ((changing 1).lanesOn false) = [95] ∧ (changing 1).cur.vpair 4 95 = pad 64 ∧
    (spaceOf (pad 64) = 1 ∧ field (pad 64) 19 43 = 0 ∧ 64 + ((changing 1).table 3).rowSize ≤
      (changing 1).curLaunch.spad ∧ (changing 1).imageBusy (.spad (teamOf gid0) 64) 64 = false ∧
      (changing 1).scored (teamOf gid0) 64 128 false = false ∧ (changing 1).curTeam.spadPoison = []) ∧
    ((changing 1).table 3).provOk = true ∧ ((changing 1).table 3).replOk = true :=
  ⟨by decide, by decide, by decide, by decide, by decide,
    on_table (by decide) (by decide) (by decide) (by decide) (by decide) (by decide) (by decide),
    ok (by decide) (by decide), ok (by decide) (by decide), ok (by decide) (by decide), by decide +kernel,
    by decide +kernel, by decide, by decide, by decide⟩
/-- Inserting finds the key absent, present, or no room; deleting and replacing find live rows and no row;
committing finds one draft. -/
theorem witness_changes : ((changing 1).table 3).hasRow 7 = false ∧ ((changing 1).table 3).hasRow 5 = true ∧
    ((changing 1).table 3).count + 1 ≠ ((changing 1).table 3).cap ∧
    ((changing 0).table 3).count + 1 = ((changing 0).table 3).cap ∧
    popFree ((changing 1).table 3).free = some (3, []) ∧ (changing 1).slotBusy 3 3 = false ∧
    ((changing 1).table 3).live 1 = true ∧ ((changing 1).table 3).live 3 = false ∧
    (((changing 1).table 3).rows.map (·.slot)).Nodup ∧ uniKey ((changing 1).table 3) [9] = some 9 ∧
    ((changing 1).table 3).rows.countP (fun r => r.prov == some (7, 1) && (changing 1).sees 1 r) = 1 ∧
    ((changing 1).cur.slot false).stage = 0 ∧ (changing 1).Translated (handle 3 0).toNat 1 :=
  ⟨by decide, by decide, by decide, by decide, by decide, by decide, by decide, by decide, by decide, by decide,
    by decide, by decide, ⟨by decide +kernel, by decide +kernel⟩⟩
/-- A `tcom` under way that has one draft to commit up to key 9, and one whose limit lies below it. -/
theorem witness_held : ∀ lim ∈ [(9 : Int), 8],
    let h : Held := ⟨2 * gid0, true, 7, lim⟩
    let t0 : Table := { ord3 with held := some h }
    let s : State := { (work []).setStage 1 with tables := [(3, t0)] }
    h.who = 2 * s.curG + (if s.curS then 1 else 0) ∧ t0.usable 3 = true ∧ (s.cur.slot s.curS).stage = 0 + 1 ∧
      (s.tables.find? fun t => match t.2.held with
        | some y => y.who == s.who
        | none => false) = some (3, t0) ∧
      (⟨9, 2, some (7, 1)⟩ ∈ t0.rows ∧ s.sees 1 ⟨9, 2, some (7, 1)⟩ = true) ∧
      s.rowHeld 3 2 = false := by decide +kernel

/-! ### Witnesses: the matrix unit -/

/-- `work` with the path's FMT and some queued operations of the core. -/
def matrix (fmt : BitVec 14) (ops : List MatOp) : State :=
  { (work [(5, pad 515072)]).modCur (fun g => onSlot false { path 0 allLanes none 0 with fmt := fmt } g) with
    mats := ops }

/-- A queued operation of the group. -/
def op (id : Nat) (kind : MatKind) (started : Bool) : MatOp := ⟨id, gid0, 0, 0, kind, 27, 1, 0, 0, started⟩

theorem witness_MatrixWords : (matrix 0 []).Live ∧ (27 : Reg).val < 28 ∧ 72 ≤ (matrix 0 []).curLaunch.rpl ∧
    ¬(27 : Reg).val < 14 ∧ ¬72 ≤ (base.modLaunch 1 fun l => { l with
      record := setAt l.record 1 (BitVec.ofNat 64 (71 * 2 ^ 48)) }).curLaunch.rpl ∧
    (matrix 0 []).Accepts ⟨[sg 5 false], [], false⟩ ∧ field (pad 515072) 0 19 % 32 = 0 ∧
    field (pad 515072) 0 19 + 9216 ≤ (matrix 0 []).curLaunch.spad ∧
    (matrix 0 []).Accepts ⟨[svs 0 36 false, svs 92 36 false], [], true⟩ ∧
    ((matrix 0 []).curPath.mask = allLanes ∧ (matrix 0 []).cur.top (matrix 0 []).curPath = allLanes) ∧
    (withG (onSlot false (path 0 3 none 0))).curPath.mask ≠ allLanes ∧
    ((0x1EE : BitVec 14).getLsbD 8 = true ∧ (0x1EE : BitVec 14).toNat % 16 = 14 ∧
      (0x1EE : BitVec 14).toNat / 16 % 16 = 14) ∧
    ((0x1BE : BitVec 14).toNat % 16 = 14 ∧ (0x1BE : BitVec 14).toNat / 16 % 16 = 11) ∧
    (matrix 0 []).Accepts ⟨[], [dg 9], false⟩ ∧
    ((List.replicate 15 (op 1 .zero false)).filter fun m => m.core == 0 && !m.started).length < 16 ∧
    ¬((List.replicate 16 (op 1 .zero false)).filter fun m => m.core == 0 && !m.started).length < 16 ∧
    (matrix 0 []).gangHere = false :=
  ⟨rfl, by decide, by decide, by decide, by decide, ok (by decide) (by decide), by decide, by decide,
    ok (by decide) (by decide), by decide, by decide, by decide, by decide, ok (by decide) (by decide),
    by decide, by decide, by decide⟩

/-- A gang of sixteen teams on the sixteen cores of cluster 0, all of them at an `mmac` under number 3. -/
def gang (fmt : Nat → BitVec 14) : State :=
  { base.modLaunch 1 (fun l => { l with
      record := setAt l.record 1 (BitVec.ofNat 64 (128 * 2 ^ 48 + 3 * 2 ^ 42 + 15 * 2 ^ 32 + 15)) }) with
    teams := (List.range 16).map fun c => (teamKey 1 c, { codeTeam with idx := c, core := c })
    arrivals := (List.range 16).map fun c => ⟨1, 0, 3, c, 16 * teamKey 1 c, false, 0, fmt c, 0, 32⟩ }

theorem witness_gang : (gang fun _ => 0).gangHere = true ∧
    ((gang fun _ => 0).gathered 1 0 3).map (fun xs => (xs.length, xs.map (·.core))) =
      some (16, List.range 16) ∧
    (((gang fun _ => 0).gathered 1 0 3).getD []).all (fun x =>
      (((gang fun _ => 0).group x.gid).poisonV &&& x.held == 0) &&
        (((gang fun _ => 0).group x.gid).emptyV &&& x.held == 0)) = true ∧
    ((((gang fun _ => 0).gathered 1 0 3).getD []).map (·.gid)).Nodup ∧
    (((gang fun c => if c = 5 then 9 else 0).gathered 1 0 3).getD []).any (fun x => x.fmt.toNat % 512 != 0) = true := by
  decide +kernel

theorem witness_MatrixEvents : ({ base with host := { base.host with alarm := true } } : State).host.alarm = true ∧
    (∀ k ∈ [MatKind.zero, .ld 0, .st 0, .mma [] [], .mmac [] []],
      (matrix 0 [op 1 k false]).matReady (op 1 k false) = true ∧ (op 1 k true).started = true) ∧
    ((∃ x ∈ (matrix 0 [op 1 .zero true, op 2 .zero false]).matsBefore (op 2 .zero false),
      x.meets (op 2 .zero false) = true)) ∧
    ((matrix 0 []).group gid0).status ≠ .draining ∧ (matrix 0 []).score = [] ∧
    (matrix 0 []).mats.any ((matrix 0 []).unread 1 0) = false ∧
    (let s := matrix 0 [{ op 1 (.mmac [] []) false with held := regSet 128 0 24 }]
     s.mats.any (s.unread 1 0) = true) :=
  ⟨by decide, by
    intro k hk
    simp only [List.mem_cons, List.not_mem_nil, or_false] at hk
    rcases hk with rfl | rfl | rfl | rfl | rfl <;> decide, ⟨op 1 .zero true, by decide, by decide⟩, by decide, by decide,
    by decide, by decide⟩

theorem witness_IntegerProductIsExact : (0x200 : BitVec 14).toNat % 512 = 0 ∧
    ((0x1EE : BitVec 14).getLsbD 8 = true ∧ (0x1EE : BitVec 14).toNat % 16 = 14 ∧
      (0x1EE : BitVec 14).toNat / 16 % 16 = 14) ∧
    ((0x1BB : BitVec 14).getLsbD 8 = true ∧ (0x1BB : BitVec 14).toNat % 16 = 11) ∧
    ((0x19A : BitVec 14).toNat % 16 = 10 ∧ (0x19A : BitVec 14).toNat / 16 % 16 = 9) := by decide

/-! ### Witnesses: copies -/

theorem witness_CopyWords : base.inRegion gid0 = false ∧
    (work [(5, pad 0), (6, pad 524280)]).Accepts ⟨[sg 5 false, sg 6 false], [], false⟩ ∧
    (spaceOf (pad 0) = 1 ∧ field (pad 0) 0 19 % 32 = 0 ∧ 0 + 32 * 16383 ≤ base.curLaunch.spad ∧
      524280 % 8 = 0 ∧ 524280 + 8 ≤ base.curLaunch.spad) ∧
    (0 + 32 * 16383 ≤ 524280 ∨ 524280 + 8 ≤ 0) ∧ (524280 < 0 + 32 * 16384 ∧ 0 < 524280 + 8) ∧
    base.scored (teamOf gid0) 524280 524288 false = false ∧ base.Accepts ⟨[], [dg 5], false⟩ ∧
    (base.cur.copySealed.length < 128) ∧ base.copies = [] :=
  ⟨by decide, ok (by decide) (by decide), by decide, by decide, by decide, by decide,
    ok (by decide) (by decide), by decide, by decide⟩
/-- A group with 128 sealed batches that are not complete: `xseal` and `xwait 127` wait. -/
theorem witness_sealed : (withG fun g => { g with copySealed := List.range 128 }).cur.copySealed.length = 128 ∧
    (withG fun g => { g with matSealed := List.range 128 }).cur.matSealed.length = 128 := by
  constructor <;> rfl

/-- A copy of 8 bytes: plain, between two handles, with a status word at offset 1024. -/
def copy (src dst : W64) (data : Option (List (Byte × Bool))) (lines : List Nat) (tg : List (Nat × BitVec 16))
    (done : Bool) (host : Option HostXfer) : CopyOp :=
  ⟨3, gid0, 0, [BitVec.ofNat 64 (2 ^ 8 + 1024 * 2 ^ 16), src, dst, 8], 0, data, lines, tg, done, host, []⟩

/-- `work` with one copy in work and its scoreboard entries. -/
def copying (c : CopyOp) (es : List ScoreEntry) : State := { work [] with copies := [c], score := es }

/-- Eight bytes read. -/
def eight : List (Byte × Bool) := List.replicate 8 (5, false)

theorem witness_EngineEvents :
    (let e : ScoreEntry := ⟨0, teamOf gid0, 64, 96, false, 3⟩
     let s := copying (copy (pad 64) (handle 2 64) none [] [] false none) [e]
     s.scoreOf 3 false = some e ∧ scoreFree s.score e = true ∧ e.core = 0 ∧
       s.copies.all (fun c => spaceOf (ceSrc c.entry) == 1 && ceOp c.entry == 0 && !c.done && c.host.isNone &&
         c.data.isNone && c.id == 3 && ceLen c.entry == 8 && ceSts c.entry && ceSoff c.entry % 4 == 0 &&
         decide (ceSoff c.entry + 4 ≤ (s.launchOf c.gid).spad)) = true) ∧
    (let e : ScoreEntry := ⟨0, teamOf gid0, 64, 96, true, 3⟩
     let s := copying (copy (handle 2 64) (pad 64) (some eight) [] [] false none) [e]
     s.scoreOf 3 true = some e ∧ scoreFree s.score e = true) ∧
    (let line := (2 * 2 ^ 42 + 64) / 256
     let s := copying (copy (pad 64) (handle 2 64) (some eight) [line] [] false none) []
     s.copies.all (fun c => c.lines.head? == some line && c.data == some eight &&
       !s.walkingAny (s.coreOf c.gid) (cePages c.entry)) = true ∧
       (s.copies.map (·.id)).Nodup ∧ (∀ i < 4, s.regionHolds (4 * line + i) = false) ∧
       s.channelShut (256 * line) = false ∧ ∀ i < 8, s.slotOfKey (2 * 2 ^ 42 + 64 + i) = none) ∧
    (let s := copying (copy (pad 64) (pad 128) (some eight) [] [(0, 1), (0, 9)] false none) []
     s.copies.all (fun c => c.targets.find? (fun t => t.1 == 0) == some (0, 1)) = true ∧
       s.residentGen 0 1 = some (teamOf gid0) ∧ s.residentGen 0 9 = none ∧
       128 + eight.length ≤ (s.launch (launchOfTeam (teamOf gid0))).spad) ∧
    ((work []).group gid0).status ≠ .draining := by decide +kernel
/-- A ring of four entries at offset 1024 with its notify word at 64; the index to publish is `y`. -/
def ringed (y : W64) (entry : List W64) : State :=
  (work [(5, pad 64), (6, y)]).modTeam (teamOf gid0) fun t => { t with
    ring := some ⟨1024, 4, 64, 0⟩
    spad := setBytes [] (entry.zipIdx.flatMap fun x => runOf (1024 + 8 * x.2) ((List.range 8).map fun i =>
      BitVec.ofNat 8 (x.1.toNat / 2 ^ (8 * i)))) }

/-- A release store of 8 bytes. -/
def relStore : MemExt := ⟨0, ⟨false, false, false, false, false⟩, .release, .w8, .normal⟩

/-- What every clause on a publication asks of a state. -/
def publishes (s : State) : Bool :=
  s.acquiring == false && (s.cur.slot s.curS).pend == [] && !s.publishing (teamOf s.curG) && s.released false &&
    s.curTeam.ring.isSome && !s.scored (teamOf s.curG) 64 72 true

/-- Publications past the ring, of a bad entry, of copies to the own scratchpad, to another core, to a table. -/
theorem witness_publications :
    publishes (ringed 5 []) = true ∧ (ringed 5 []).Accepts ⟨[sg 5 false, sg 6 false], [], false⟩ ∧
    (ringed 5 []).OwnSpad (pad 64) 0 8 64 ∧ (4 : Nat) < ((5 : W64) - 0).toNat ∧
    (ringed 1 [9]).ceStatus (ringed 1 [9]).curLaunch [9, 0, 0, 0] ≠ 0 ∧
    (let e := [0, pad 256, pad 512, 8]
     (ringed 1 e).ceStatus (ringed 1 e).curLaunch e = 0 ∧ spaceOf (ceDst e) = 1 ∧
       (List.range 4).map (fun i => BitVec.ofNat 64 (leNat (bytesAt (ringed 1 e).curTeam.spad (1024 + 8 * i) 8))) = e) ∧
    (let e := [0, pad 256, BitVec.ofNat 64 (2 ^ 63 + 2 ^ 36 + 2 ^ 20 + 512), 8]
     (ringed 1 e).ceStatus (ringed 1 e).curLaunch e = 0 ∧ spaceOf (ceDst e) = 2 ∧ ceMc e = false) ∧
    (let e := [0, pad 256, handle 2 64, 8]
     (ringed 1 e).ceStatus (ringed 1 e).curLaunch e = 0 ∧ spaceOf (ceDst e) = 0 ∧
       (ringed 1 e).lineBusy (2 ^ 35) = false) ∧
    (({ ringed 1 [] with score := List.replicate 95 ⟨0, 1, 0, 32, true, 5⟩ } : State).score.filter
      fun z => z.core == 0).length + 2 > 96 :=
  ⟨by decide +kernel, ok (by decide) (by decide),
    own_spad (pad 64) (by decide) (by decide) (by decide) (by decide), by decide, by decide +kernel,
    by decide +kernel, by decide +kernel, by decide +kernel, by decide +kernel⟩
/-- Copies from a host page: one transfer to issue, with and without a translation; one complete; one that
waits for its translation; and an invalidation that meets the transfer issued. -/
theorem witness_host_transfers :
    (let h : HostXfer := ⟨1, false, 4096, 300, [], 0, false⟩
     let s := copying (copy (handle 2 0) (pad 64) none [] [] false (some h)) []
     let s1 : State := { s with host := { s.host with ats := [⟨1, 4096, 8192, 65536⟩] } }
     s.copies.any (fun x => x.host == some h && !x.done) = true ∧ h.sent.length < (h.len + 255) / 256 ∧
       s.host.translate 1 4096 256 = none ∧ s1.host.translate 1 4096 256 = some 65536) ∧
    (let h : HostXfer := ⟨1, true, 4096, 8, [65536], 0, false⟩
     let c := copy (pad 64) (handle 2 0) (some eight) [] [] false (some h)
     h.sent[h.back]? = some 65536 ∧ c.data = some eight ∧ eight.length = h.len ∧ h.fn = 1 ∧
       h.back < h.sent.length ∧ h.addr + 256 * h.back < 8192) ∧
    (({ fn := 1, write := false, addr := 0, len := 8, sent := [], back := 0, held := true } : HostXfer).held = true) ∧
    (let h : HostXfer := ⟨1, true, 4096, 8, [65536], 1, false⟩
     h.back = h.sent.length ∧ h.back = (h.len + 255) / 256) := by decide +kernel
/-- A gather of keys 5 and 7 of table 3 whose list stands at offset 0: the first is found, the second not. -/
theorem witness_gather_lands :
    let g : Gather := ⟨4, gid0, 0, 3, ord3.dw, .spad (teamOf gid0) 0, 64, 8, 2, false, none⟩
    let s : State := { (work []).modTeam (teamOf gid0) (fun t => { t with spad := [(0, 5), (8, 7)] }) with
      gathers := [g], score := [⟨0, teamOf gid0, 0, 32, false, 4⟩, ⟨0, teamOf gid0, 64, 256, true, 4⟩] }
    s.gathers.find? (fun x => x.id == 4) = some g ∧ (s.gathers.map (·.id)).Nodup ∧
      (s.score.all fun e => e.op != 4 || scoreFree s.score e) = true ∧ s.orderHeld 3 = false ∧
      s.walking (s.coreOf gid0) (3 * 2 ^ 42) = false ∧ g.desc = (s.table 3).dw ∧ s.channels = [] ∧
      (s.table 3).ownw = false ∧ (s.table 3).poisonDesc = false ∧ (s.table 3).poisonIndex = false ∧
      (s.team (teamOf gid0)).spadPoison = [] ∧ (s.scoreOf 4 false).isSome = true ∧ s.copies = [] ∧
      keyInt 1 (leNat (bytesAt (s.team (teamOf gid0)).spad (0 + 0 * 8) 8)) = 5 ∧
      keyInt 1 (leNat (bytesAt (s.team (teamOf gid0)).spad (0 + 1 * 8) 8)) = 7 ∧
      (s.table 3).usable 3 = true ∧ 1 < (s.table 3).slots ∧
      ∀ i < 64, s.unitPoisoned (3 * 2 ^ 42 + 1 * 64 + i) = false := by decide +kernel
/-- No channel without a holder is shut to a key. -/
theorem witness_open_channels (k : Nat) : ({ work [] with channels := [] } : State).channelShut k = false := by
  simp [State.channelShut, aget]

/-! ### Witnesses: remote calls and broadcast mode -/

/-- A target row of table 2 in g5 and in v4 and v5, and the entry word at offset 64 of the code in g7. -/
def calling (entry : W64) : State :=
  { laneWork (handle 2 64) 0 with curS := false }.modCur (uni [(5, handle 2 64), (7, entry)])

theorem witness_RemoteCalls : (Instr.rcall 8 5 6 7 false false false true true 4 1).wf = true ∧
    (calling (handle 1 64)).Accepts ⟨[sg 5 false, sgs 6 1 false, sg 7 false], [dgs 8 5], false⟩ ∧
    (Instr.rcallv 8 4 6 7 false false false false false true 2 1).wf = true ∧
    (calling (handle 1 64)).Accepts ⟨[svs 4 2 false, svs 6 1 false, sg 7 false], [dvs 8 3], true⟩ ∧
    (spaceOf (handle 1 64) = 0 ∧ tidOf (handle 1 64) = (calling 0).curLaunch.codeTable ∧
      flag (handle 1 64) 1 = false ∧ flag (handle 1 65) 0 = true ∧ flag (handle 1 66) 1 = true) ∧
    (calling (handle 1 64)).InTable ((calling (handle 1 64)).cur.gval false 5) 0 1 (2 * 2 ^ 42 + 64) true false ∧
    (calling 0).outstanding gid0 < 256 ∧ spaceOf (pad 0) ≠ 0 ∧
    ((calling 0).acquiring = false ∧ (calling 0).countHeld = false ∧ (calling 0).released true = true ∧
      (calling 0).writes = [] ∧ (calling 0).mem.l1 = []) ∧
    (calling 0).lanesOn false ≠ 0 ∧ (calling 0).outstanding gid0 + 96 ≤ 256 ∧ (calling 0).inRegion gid0 = false :=
  ⟨by decide, ok (by decide) (by decide), by decide, ok (by decide) (by decide), by decide,
    in_table (handle 2 64) (by decide) (by decide) (by decide) (by decide) (by decide) (by decide)
      (by decide) (by decide), by decide, by decide, by decide, by decide, by decide, by decide⟩

/-- A call under way and its producer. -/
def called (x : Call → Call) (lane : Bool) (items : List Item) : State :=
  { work [] with
    calls := [x ⟨20, gid0, 1, 0, 21, 0, 6, 2 * 2 ^ 42 + 64, 2 ^ 42, [], [], .bank 0 0, false, 1, true, none, none, 0, some 100,
      true⟩]
    fills := [⟨21, gid0, false, lane, .call 8 1 true, items, 0, 0, false, 0⟩]
    mem := { (work []).mem with home := [(2 ^ 42 + 3, 5)] } }

theorem witness_call_events :
    (let s := called id false [⟨0, .tab 0, 0, [], none⟩]
     (s.channel 0).retired = false ∧ s.walking (s.coreOf gid0) (2 * 2 ^ 42 + 64) = false ∧
       s.channelShut (2 * 2 ^ 42 + 64) = false ∧ (s.table 2).usable 2 = true ∧
       ({ s with tables := [] } : State).table 2 = Table.absent ∧ Table.absent.usable 2 = false ∧
       aget s.mem.moving (2 * 2 ^ 42 + 1) = none ∧ s.serviceCore 0 0 = some 0 ∧ s.serving 0 = false ∧ (s.callWords (2 ^ 42)).head? = some (some 0x05000000) ∧
       (s.fills.find? fun y => y.id == 21).isSome ∧ (s.group gid0).status ≠ .draining ∧
       (aget s.groups gid0).isSome = true ∧ s.spent = [] ∧ s.now < 100 ∧ 100 ≤ ({ s with now := 100 } : State).now) ∧
    (let s := called (fun x => { x with reply := some ([1, 2], 0), bad := 2 }) false [⟨0, .tab 0, 0, [], none⟩]
     s.calls.all (fun x => x.live && x.lane == 0 && x.uniform && x.reply.isSome) = true) ∧
    (let s := called (fun x => { x with uniform := false, lane := 95, reply := some ([1], 257) }) true
        [⟨94, .tab 0, 0, [], none⟩, ⟨95, .tab 0, 0, [], none⟩]
     (s.fills.all fun f => f.items.any fun i => i.lane != 95 && i.got.isNone) = true) ∧
    (let s := called (fun x => { x with live := false, reply := some ([1], 0) }) false []
     s.calls.all (fun x => !x.live && x.reply.isSome) = true) := by decide +kernel

/-- Words of a run: `ret`, `ili v1, 7`, `iadd v1, v2, v3`, a load, a word that the decoder rejects. -/
theorem witness_call_words :
    (decodeWords 0x9F020000 7).toOption = some (.ili 1 false 7) ∧
    (decodeWords 0x80020818 0).toOption.isSome = true ∧
    (decodeWords 0xC1020000 0x80).toOption = some (.ld 1 0 false false false
      ⟨0, ⟨false, false, false, false, false⟩, .relaxed, .w4, .normal⟩) ∧
    (decodeWords 0xFF000000 0).toOption = none ∧
    (let s := called (fun x => { x with run := some ⟨none, 0, ⟨List.replicate 16 (List.replicate 8 0), [], [], []⟩,
        [some 0x05000000, none]⟩ }) false []
     s.calls.all (fun x => x.live && x.reply.isNone && x.run.any fun r => r.pc == 0 && r.unit.v.length == 16 &&
       r.words.getD 1 (some 0) == none && r.unit.active true != 0)) = true := by decide +kernel

/-- A privileged launch whose broadcast layout names channel 0, with a program header at offset 64 of the
scratchpad: `words` words, `cols` columns. -/
def broadcast (words cols : Nat) (c : Channel → Channel) (g : Group → Group) : State :=
  let s := (work [(5, 0), (6, pad 64)]).modCur g
  let s1 := s.modLaunch 1 fun l => { l with priv := true, bcast := some (2, 0, 1) }
  let s2 := s1.modTeam (teamOf gid0) fun t => { t with
    spad := setBytes [] ([(64, BitVec.ofNat 8 words), (68, BitVec.ofNat 8 cols)] ++ runOf 144 [0, 0, 0, 0x9F]) }
  s2.setChannel 0 (c (s2.channel 0))

theorem witness_BroadcastWords : base.Live ∧ base.curLaunch.priv = false ∧
    (let s := broadcast 2 128 id id
     s.Live ∧ s.curLaunch.priv = true ∧ s.inRegion gid0 = false ∧ s.curLaunch.names 0 = true ∧
       s.curLaunch.names 1 = false ∧ (s.channel 0).retired = false ∧ (s.channel 0).holder = none ∧
       s.channelBusy 0 = false ∧ (s.cur.slot false).stage = 0) ∧
    (broadcast 2 128 id id).Accepts ⟨[sg 5 false, sg 6 false], [], false⟩ ∧
    (broadcast 2 128 id id).Accepts ⟨[sg 5 false], [], false⟩ ∧
    (broadcast 2 128 (fun c => { c with key := pad 64 }) id).cur.gval false 6 = pad 64 ∧
    ((broadcast 2 128 id fun g => { g with arms := [(0, 0)] }).cur.arms = [(0, 0)] ∧
      (broadcast 2 128 id id).now ≤ 0 + 64) ∧
    ((broadcast 2 128 (fun c => { c with holder := some 9 }) id).channel 0).holder.isSome = true ∧
    ((broadcast 2 128 (fun c => { c with holder := some 1 }) id).channel 0).holder = some 1 :=
  ⟨rfl, by decide, ⟨rfl, by decide, by decide, by decide, by decide, by decide, by decide, by decide, by decide⟩,
    ok (by decide) (by decide), ok (by decide) (by decide), by decide +kernel, by decide +kernel,
    by decide +kernel, by decide +kernel⟩
/-- Programs for `aphl`: one that passes, to the last of its 128 columns; one column too many; no word. -/
theorem witness_programs :
    (let s := broadcast 2 128 (fun c => { c with holder := some 1 }) id
     let b := bytesAt s.curTeam.spad 64 88
     let words := (List.range 2).map fun j => wOf b (80 + 4 * j)
     field (pad 64) 0 19 + 1104 ≤ s.curLaunch.spad ∧ field (dwOf b 0) 0 9 = 2 ∧ field (dwOf b 0) 9 23 = 0 ∧
       field (dwOf b 0) 32 32 = 128 ∧ (s.portion 2 0).length = 1 ∧ programOk words 257 0 0 = true ∧
       s.imageBusy (.spad (teamOf gid0) 64) 88 = false ∧ s.imageScored (.spad (teamOf gid0) 64) 88 = false) ∧
    128 * 1 < 0 + 129 ∧ programOk [0x9F000000] 257 0 0 = false ∧ (9 : Nat) ≠ 1 := by decide +kernel
/-- A sweep whose next word is `ili v1, 7`, `ld` or `st`, held by no region. -/
theorem witness_sweeps :
    (decodeWords 0x9F020000 7).toOption = some (.ili 1 false 7) ∧ 0x9F020000 / 2 ^ 24 = 0x9F ∧
    (decodeWords 0xC1020000 0x80).toOption.isSome ∧ (decodeWords 0xC2000010 0x80).toOption.isSome ∧
    (let sw : Sweep := ⟨1, 0, List.replicate 8 0, [0x9F020000, 7], 0⟩
     let s := broadcast 2 128 (fun c => { c with holder := some 1, sweeps := [sw] }) id
     (s.channel 0).sweeps = [sw] ∧ (∀ k < 16, s.regionHolds (sectorOf (2 * 2 ^ 42 + k * 2048)) = false) ∧
       ∀ k < 16, ((aget s.aphids (16 * 0 + k)).getD Aphid.zero).v.length = 16) := by decide +kernel

/-! ### Witnesses: child launches and launches -/

/-- A record of one floating team of one group, with CODE in table 1 and one grant, of table 1 to be read,
that stands behind it at offset 128. -/
def record : List W64 :=
  [handle 1 0, BitVec.ofNat 64 (128 * 2 ^ 48), BitVec.ofNat 64 (2 ^ 36 + 512), 0, 0, 0, 0, 0, handle 2 256, 1, 0,
    0, 0, 0, 0, 0]

/-- A DENSE table of 256-byte rows whose slot 0 holds the record, and its grant list in slot 1. -/
def records : State :=
  { work [(5, handle 2 0)] with
    tables := [(1, codeTable), (2, { dense2 with dw := setAt dense2.dw 0 (withField (dwAt dense2.dw 0) 52 4 4) }),
      (3, ord3)]
    mem := { (work []).mem with
      home := setBytes [] (runOf (2 * 2 ^ 42) (record.flatMap dwBytes) ++ [(2 * 2 ^ 42 + 256, 1),
        (2 * 2 ^ 42 + 258, 0x10)]) } }

theorem witness_ChildLaunchWords : base.inRegion gid0 = false ∧ groupIdx gid0 = 0 ∧ groupIdx (gid0 + 15) ≠ 0 ∧
    records.Accepts ⟨[sg 5 false], [dg 6], false⟩ ∧ records.curLaunch.depth < 10 ∧
    records.InTable (records.cur.gval false 5) 0 1 (2 * 2 ^ 42) true true ∧ (records.table 2).dense = true ∧
    posOf (records.cur.gval false 5) % 128 = 0 ∧ posOf (handle 2 64) % 128 ≠ 0 ∧ 128 ≤ (records.table 2).rowSize ∧
    (records.table 3).dense = false ∧ spaceOf (pad 0) ≠ 0 ∧
    (records.regionHolds (2 * 2 ^ 42 / 64 + 1) = false ∧ records.ownedLine (lineOf (2 * 2 ^ 42)) = false ∧
      records.acquiring = false ∧ records.countHeld = false ∧ records.writes = [] ∧ records.released true = true ∧
      records.mem.l1 = [] ∧ (records.table 2).ownw = false ∧
      records.sectorsHeld records.curCluster [2 * 2 ^ 36, 2 * 2 ^ 36 + 1] = false) ∧
    records.curTeam.children = [] :=
  ⟨by decide, by decide, by decide, ok (by decide) (by decide), by decide,
    in_table (handle 2 0) (by decide) (by decide) (by decide) (by decide) (by decide) (by decide) (by decide)
      (by decide), by decide, by decide, by decide, by decide, by decide, by decide, by decide, by decide⟩
/-- The record passes the checks of R261, and one without its grant does not; a child waited for. -/
theorem witness_records :
    records.recordCheck { Launch.absent with record := records.homeWords (handle 2 0) 128 }
        (!records.refOk 0 (handle 2 0)) = 0 ∧
    records.recordCheck { Launch.absent with record := setAt record 9 0 } false ≠ 0 ∧
    (let s := (work [(5, 3 * 2 ^ 32 + 2)]).modTeam (teamOf gid0) fun t => { t with children := [2] }
     s.Live ∧ lo32 (s.cur.gval false 5) = 2 ∧ s.curTeam.children = [2] ∧ (s.launch 2).phase = .ended ∧
       ((s.modLaunch 2 fun l => { l with phase := .placing }).launch 2).phase ≠ .ended) := by
  refine ⟨by decide +kernel, by decide +kernel, rfl, by decide, by decide, by decide, by decide⟩

/-- `base` in its pre-emption handler. -/
def preempted : State := withG fun g => { g with preLive := true }

theorem witness_yieldp : base.cur.preLive = false ∧ preempted.cur.preLive = true ∧
    preempted.engineQuiet gid0 = true ∧ (preempted.cur.slot false).stage ≠ 1 ∧
    preempted.softPending gid0 (preempted.yieldSectors gid0) = false ∧ ({ preempted with mats := [op 1 .zero false] } : State).engineQuiet gid0 = false ∧
    (preempted.cur.slot false).releasing = none ∧ preempted.countHeld = false ∧ preempted.writes = [] ∧
    preempted.mem.l1 = [] ∧ preempted.released true = true ∧ groupIdx gid0 < preempted.curTeam.groups ∧
    preempted.curTeam.resident = true ∧ preempted.curTeam.retired = false ∧
    (∀ j < preempted.curTeam.groups, j ≠ groupIdx gid0 → (preempted.group (gid0 + j)).status = .ended) ∧
    ¬(∀ j < 2, j ≠ 0 → ((preempted.setGroup (gid0 + 1) base.cur).group (gid0 + j)).status = .ended) := by decide

/-- A started module with a queue of tenant 0 that holds one reference to the record. -/
def posted (c : HQueue → HQueue) : State :=
  { records with host := { records.host with
      boot := 5, enabled := [0], mem := setBytes [] (runOf 4096 (dwBytes (handle 2 0)))
      queues := [(7, c { HQueue.fresh 0 0 with sqbase := 4096, cqbase := 8192, en := true, sqn := 3, cqn := 3, sqtail := 1 })] } }

theorem witness_references :
    (let s := posted id
     s.host.queues.all (fun q => q.2.ten == some 0 && s.served 0 && q.2.en && q.2.sqhead != q.2.sqtail &&
       q.2.prev.isNone) = true ∧
     dwOf (bytesAt s.host.mem 4096 8) 0 = handle 2 0 ∧
     s.recordCheck { Launch.absent with record := s.homeWords (handle 2 0) 128, ten := 0, queue := some (7, 0) }
       (!s.refOk 0 (handle 2 0)) = 0 ∧
     ({ s with tables := [] } : State).recordCheck
       { Launch.absent with record := s.homeWords (handle 2 0) 128, ten := 0, queue := some (7, 0) }
       (!({ s with tables := [] } : State).refOk 0 (handle 2 0)) ≠ 0) ∧
    (posted fun q => { q with sqtail := 0 }).host.queues.all (fun q => q.2.sqhead == q.2.sqtail) = true ∧
    (let s := (posted fun q => { q with open_ := [1] }).modLaunch 1 fun l => { l with phase := .ended, status := 5 }
     (s.launch 1).phase = .ended ∧ (s.launch 1).status < 256 ∧ (s.launch 1).childStatus < 256 ∧
       s.host.queues.all (fun q => q.2.en && decide (q.2.unread ≤ q.2.cqn.toNat) && q.2.open_ == [1]) = true) := by
  decide +kernel

/-- A launch of the record in a phase of R16, on dies from (0, 0) on. -/
def launching (p : LPhase) (f : Launch → Launch) : State :=
  { base with launches := [(1, f { Launch.absent with record := record, phase := p, root := 1 })] }

/-- A record of two dies that asks for OPH 3 or less. -/
def wide (oph : Nat) (l : Launch) : Launch :=
  { l with
    record := setAt (setAt l.record 2 (BitVec.ofNat 64 (2 ^ 36 + 2 ^ 26 + 512))) 1
      (BitVec.ofNat 64 (oph * 2 ^ 59 + 128 * 2 ^ 48)) }

theorem witness_dispatch :
    (let s := launching .accepted id
     (∀ m ∈ s.launches, s.inDispatch m.2 = false) ∧ s.dispatchable = [1] ∧
       s.dispatchOrigin (s.launch 1) = some (0, 0) ∧ (s.launch 1).key = 0 ∧ (s.launch 1).parent = none ∧
       (s.launch 1).layout = 0 ∧ (rectDies 0 0 (s.launch 1).width (s.launch 1).height).length < 2 ∧
       ∀ d ∈ rectDies 0 0 (s.launch 1).width (s.launch 1).height, (s.launch 1).oph ≤ (s.die d).oph) ∧
    (let s := launching .accepted (wide 3)
     2 ≤ (rectDies 0 0 (s.launch 1).width (s.launch 1).height).length ∧
       ∃ d ∈ rectDies 0 0 (s.launch 1).width (s.launch 1).height, (s.die d).oph < (s.launch 1).oph) ∧
    (let s := launching .accepted fun l => { l with record := setAt l.record 3 (handle 2 0) }
     (s.launch 1).key ≠ 0) ∧
    (let s := launching .probing id
     ∃ m ∈ s.launches, s.inDispatch m.2 = true) := by decide +kernel
theorem witness_routes :
    (let s := launching .route (wide 0)
     (s.launch 1).phase = .route ∧ (∀ d ∈ (s.launch 1).dies, (s.die d).routes.length < 16) ∧
       s.connected (s.launch 1).dies = true ∧ (s.launch 1).layout = 0 ∧ (s.launch 1).dies.Nodup ∧
       (∀ d ∈ (s.launch 1).dies, (s.launch 1).oph ≤ (s.die d).oph) ∧
       ({ s with links := [0, 1, 2, 3] } : State).connected (s.launch 1).dies = false ∧
       ∃ d ∈ (s.launch 1).dies, 16 ≤ (List.range 16).length) ∧
    (let s := launching .ending id
     (s.launch 1).phase = .ending ∧ s.draftsFree 1 = true) ∧
    (let s := launching .probing id
     (s.launch 1).phase = .probing ∧ s.now < (s.launch 1).probeAt + 2 ^ 16 ∧
       (s.launch 1).probeAt + 2 ^ 16 ≤ ({ s with now := 65536 } : State).now) ∧
    ((launching .rails id).launch 1).phase = .rails ∧
    (let s := launching .placing fun l => { l with retiredTeams := 1 }
     (s.launch 1).phase = .placing ∧ (s.launch 1).retiredTeams = (s.launch 1).teams ∧ s.draftsOf 1 = [] ∧
       s.heldChannels 1 = [] ∧ ((launching .placing id).launch 1).retiredTeams ≠ (s.launch 1).teams) := by
  decide +kernel
/-- A launch whose key row cannot be read; whether a wrapped key unwraps is left open by the spec. -/
theorem witness_keys : ((launching .key id).launch 1).phase = .key ∧
    (launching .key id).unseal ((launching .key id).launch 1) = none ∧
    aget (launching .key id).stag.slots 3 = none := by decide +kernel

/-! ### Witnesses: placement and pre-emption -/

/-- The launch of the record placed on die 0, with none of its teams started; it is the candidate. -/
def placing (f : Launch → Launch) : State :=
  { launching .placing f with groups := [], teams := [], dist := { base.dist with cand := some 1 } }

theorem witness_placement :
    (let s := placing id
     s.waiting = [1] ∧ s.dist.cand = some 1 ∧ s.outTeams 1 = [] ∧ (s.launch 1).nextTeam < (s.launch 1).teams ∧
       (s.launch 1).gang = 0 ∧ (s.launch 1).gshape = 0 ∧ aget s.teams (teamKey 1 0) = none ∧
       s.windowsFree 1 1 = true ∧ s.unitLeaving 1 [teamKey 1 0] = false ∧ s.coreFits (s.launch 1) [] 0 = true ∧
       s.pickUnit = some (1, [(teamKey 1 0, 0)]) ∧
       (∃ cs, (s.launch 1).dies.flatMap coresOfDie = [] ++ 0 :: cs)) := by
  refine ⟨by decide +kernel, by decide, by decide, by decide, by decide, by decide, by decide, by decide, by decide,
    by decide +kernel, by decide +kernel, ⟨(coresOfDie 0).tail, by decide +kernel⟩⟩
theorem witness_gangs :
    (let s := placing fun l => { l with
       record := setAt l.record 1 (BitVec.ofNat 64 (64 * 2 ^ 48 + 3 * 2 ^ 42 + 2 ^ 32 + 1)) }
     (s.launch 1).gang = 2 ∧ (s.launch 1).gshape = 3 ∧
       s.pickUnit = some (1, [(teamKey 1 0, 0), (teamKey 1 1, 1)])) ∧
    base.pickUnit = none ∧ base.waiting.head? = base.dist.cand ∧
    (let s : State := { placing id with dist := base.dist }
     s.waiting.head? = some 1 ∧ s.dist.cand ≠ some 1 ∧ s.dist.reserved = []) := by decide +kernel
theorem witness_aging :
    (let s : State := { placing id with now := 2 ^ 20 }
     (s.launch 1).phase ≠ .ended ∧ s.unplaced 1 = true ∧ (s.launch 1).eff < (s.launch 1).prio + 2 ∧
       (s.launch 1).ageFrom + 2 ^ 20 ≤ s.now) ∧
    ¬((placing id).launch 1).ageFrom + 2 ^ 20 ≤ (placing id).now := by decide +kernel

/-- A low launch 1 with a handler, that runs on core 0, the one live core of its die, and a candidate 2. -/
def contended : State :=
  let low : Launch := { codeLaunch with record := setAt codeLaunch.record 5 (handle 1 128) }
  let high : Launch := { Launch.absent with
    record := setAt record 1 (BitVec.ofNat 64 (2 ^ 56 + 128 * 2 ^ 48))
    phase := .placing, root := 2 }
  { base with
    cores := (List.range 159).map fun i => (i + 1, { CoreSt.fresh with retired := true })
    launches := [(1, low), (2, high)], dist := { base.dist with cand := some 2 }, now := 2 ^ 16 }

theorem witness_victims : rising contended.teams = true ∧ contended.victimTeam 1 2 = some (teamOf gid0) ∧
    contended.dist.cand = some 2 ∧ contended.unplaced 2 = true ∧ contended.dist.candAt + 2 ^ 16 ≤ contended.now ∧
    contended.dist.victim = none ∧ 1 ∈ akeys contended.launches ∧
    (∀ m ∈ akeys contended.launches, (contended.victimTeam m 2).isSome = true → m = 1) ∧
    ({ contended with now := 2 ^ 16 - 1 } : State).now < contended.dist.candAt + 2 ^ 16 := by decide +kernel
/-- The candidate finds no place on its die. -/
theorem witness_no_place : contended.unitPlaces 2 (contended.launch 2).dies = none := by decide +kernel

/-- `trapping` with a pre-emption signal that has reached its team at cycle 0. -/
def signalled : State :=
  (trapping.modCur fun g => { g with signal := true }).modTeam (teamOf gid0) fun t => { t with signalAt := some 0 }

theorem witness_PreemptionEvents : (base.launch 1).preh = 0 ∧ (trapping.launch 1).preh ≠ 0 ∧
    (trapping.team (teamKey 1 0)).resident = true ∧ (trapping.team (teamKey 1 0)).signalAt = none ∧
    (∀ j < (trapping.team (teamKey 1 0)).groups,
      (trapping.group (16 * teamKey 1 0 + j)).resuming = false ∧
        (trapping.group (16 * teamKey 1 0 + j)).status = .running) ∧
    (signalled.group gid0).signal = true ∧ (signalled.group gid0).status = .running ∧
    (signalled.group gid0).entering = none ∧ signalled.CanEnter gid0 true ∧
    (signalled.team (teamOf gid0)).signalAt = some 0 ∧ launchOfTeam (teamOf gid0) = 1 ∧
    signalled.now < 0 + (signalled.launch 1).deadl ∧
    0 + (signalled.launch 1).deadl ≤ ({ signalled with now := 100 } : State).now ∧
    (aget signalled.launches 1).isSome = true ∧ (signalled.launch 1).phase = .placing ∧
    signalled.draftsOf 1 = [] :=
  ⟨by decide, by decide, by decide, by decide, by decide, by decide, by decide, by decide,
    can_enter (by decide) (by decide) (by decide) (by decide) (by decide) (by decide) (by decide), by decide, by decide, by decide,
    by decide, by decide, by decide⟩
/-- A team that is out, and the core where its next unit goes. -/
theorem witness_resume :
    let s := (placing id).setTeam (teamKey 1 0) { codeTeam with resident := false }
    let s := s.setGroup gid0 { base.cur with status := .yielded }
    let s1 : State := s.modLaunch 1 fun l => { l with nextTeam := 1 }
    s1.pickUnit = some (1, [(teamKey 1 0, 0)]) ∧ (aget s1.teams (teamKey 1 0)).isSome = true ∧
      (s1.team (teamKey 1 0)).isOut = true ∧
      (s1.group (16 * teamKey 1 0)).status = .yielded ∧ (s1.launch 1).groups = 1 ∧
      ∀ i < 16, s1.slotOfKey (s1.frameKey (16 * teamKey 1 0) true + i) = none := by decide +kernel

/-! ### Witnesses: failures -/

theorem witness_FailureEvents : (base.die 3).failed = false ∧
    ((base.modDie 3 fun x => { x with failed := true }).die 3).failed = true ∧ base.stackLive 11 = true ∧
    19 ∉ base.links ∧ (base.core 639).retired = false ∧ (base.channel 767).retired = false ∧
    (base.channel 767).holder = none ∧ (∃ c < 768, c ≠ 767 ∧ (base.channel c).retired = false) ∧
    (base.launch 1).phase ≠ .ended ∧ (base.launch 1).phase ≠ .accepted ∧ 0 ∈ (base.launch 1).dies ∧
    (broadcast 2 128 (fun c => { c with holder := some 1 }) id).curLaunch.phase ≠ .ended ∧
    (base.channel 767).narrowed = false ∧ (aget base.groups gid0).isSome = true ∧
    (aget base.teams (teamOf gid0)).isSome = true ∧ (aget base.tables 1).isSome = true ∧
    (base.team (teamOf gid0)).resident = true ∧ (base.team (teamOf gid0)).core = 0 ∧ (base.core 0).retired = false ∧
    base.draftsOf 1 = [] ∧ (base.launch 1).phase ≠ .ending ∧ base.frameOwners (2 ^ 37) = [] :=
  ⟨by decide, by decide, by decide, by decide, by decide, by decide, by decide, ⟨0, by decide, by decide, by decide⟩,
    by decide, by decide, by decide, by decide +kernel, by decide, by decide, by decide, by decide, by decide,
    by decide, by decide, by decide +kernel, by decide, by decide +kernel⟩
/-- A launch on two dies that a failed link parts, one that holds a table with rows on a failed stack, and a
group in its trap handler whose frame is hit. -/
theorem witness_reached :
    (let s := launching .placing (wide 0)
     2 ≤ (s.launch 1).dies.length ∧ s.draftsOf 1 = [] ∧ (s.launch 1).phase ≠ .accepted ∧
       ({ s with links := [1, 2, 3] } : State).connected (s.launch 1).dies = true ∧
       ({ s with links := insNum [1, 2, 3] 0 } : State).connected (s.launch 1).dies = false) ∧
    2 ∈ (work []).lostTables [0] ∧ ((work []).launch 1).grants.any (fun g => (work []).lostTables [0] |>.contains g.1) =
      true ∧
    (let s := handling false 1
     (aget s.groups gid0).isSome = true ∧ launchOfTeam (teamOf gid0) = 1 ∧ (s.group gid0).trapLive = true ∧
       (s.launch 1).phase = .placing ∧ s.draftsOf 1 = []) := by decide +kernel

/-! ### Witnesses: the Stag -/

/-- The Ed25519 and the ML-DSA key of the images of these tests. -/
def edKey7 : List Byte := bytes8 (1 :: List.replicate 31 0)
def mlKey7 : List Byte := bytes8 (List.replicate 1952 0)
/-- An image of one byte, signed under both keys, or with a composite of another form. -/
def image (good : Bool) : BootImage :=
  ⟨[7], [1, 0], edKey7, mlKey7, (if good then [1, 0] else [2, 0]) ++ bytes8 (1 :: List.replicate 63 0) ++
    bytes8 (zeroChallenge [7] ++ zeroRest)⟩
/-- R319: the image verifies, or does not. -/
theorem witness_image : let nats (b : List Byte) : List Nat := b.map (·.toNat)
    let x := image true
    x.sig.length = 3375 ∧ x.sig.take 2 = [1, 0] ∧
      edVerify (nats x.edKey) (nats x.bytes) (nats ((x.sig.drop 2).take 64)) = true ∧
      mlVerify (nats x.mlKey) (nats x.bytes) (nats (x.sig.drop 66)) = true ∧ (image false).sig.take 2 ≠ [1, 0] := by
  have hs : ∀ b ∈ zeroChallenge [7] ++ zeroRest, b < 256 := by
    intro b hb
    rcases List.mem_append.1 hb with h | h
    · exact (shake_bytes _).2 b h
    · have : ∀ b ∈ zeroRest, b < 256 := by decide +kernel
      exact this b h
  have hl : (zeroChallenge [7] ++ zeroRest).length = 3309 := by
    rw [List.length_append, zeroChallenge, (shake_bytes _).1]
    decide +kernel
  refine ⟨?_, rfl, ?_, ?_, by decide⟩
  · rw [image, List.length_append, bytes8, bytes8, List.length_map, hl]
    rfl
  · show edVerify (edKey7.map (·.toNat)) _ ((bytes8 (1 :: List.replicate 63 0)).map (·.toNat)) = true
    rw [edKey7, bytes8_back (by decide), bytes8_back (by decide)]
    exact identity_verifies _
  · show mlVerify (mlKey7.map (·.toNat)) [7] (((image true).sig.drop 66).map (·.toNat)) = true
    rw [image, List.drop_left' (by decide), mlKey7, bytes8_back (by decide +kernel), bytes8_back hs]
    exact zero_verifies _

/-- Five images, with the verdict on the third; step 5 of die 0 finds core 3 bad, step 4 of link 1 fails. -/
def boot (third : Bool) : BootInput :=
  ⟨[image true, image true, image third, image true, image true], [(4, 1)], [3], [5], 4000⟩

/-- A start at image `n`, or, from 5 on, at its first step not begun or begun. -/
def starting (third : Bool) (n : Nat) (plan : List (Nat × Nat)) (begun : Bool) : State :=
  { State.reset with stag := { Stag.reset with
      boot := some ⟨boot third, n, plan, begun⟩, rom := (digestOf edKey7, digestOf mlKey7) } }

/-- A start record in which a step has failed or has begun. -/
def record1 (e : StartStep) : State :=
  { State.reset with stag := { Stag.reset with steps := e :: List.replicate 63 ⟨0, 0, 0, 0, 0⟩ } }

theorem witness_starts :
    ((State.reset.entry 1 0).2 = 0 ∧ ∃ e ∈ State.reset.stag.steps, e.state = 0) ∧
    ((record1 ⟨0, 0, 1, 0, 1⟩).entry 1 0).2 = 1 ∧ ((record1 ⟨0, 0, 3, 0, 1⟩).entry 1 0).2 = 3 ∧
    (record1 ⟨0, 0, 3, 3, 2⟩).entry 2 3 = (0, 3) ∧
    (∀ good, let s := starting good 2 bootPlan false
     (∃ r, s.stag.boot = some r ∧ r.image < 5 ∧ r.input.images[r.image]? = some (image good)) ∧
       s.stag.mregs.length = 24 ∧ digestOf (image true).edKey = s.stag.rom.1 ∧
       digestOf (image true).mlKey = s.stag.rom.2) ∧
    (∃ r, (starting true 2 bootPlan false).stag.boot = some r ∧ ({ r with image := 4 } : BootRun).image < 5 ∧
      (⟨[image true], [], [], [], 0⟩ : BootInput).images[4]? = none) ∧
    (let s := starting true 5 [] false
     (∃ k < 4, (s.die k).excluded = false) ∧
       let none' := List.foldl (fun a d => State.modDie a d fun x => { x with excluded := true }) s [0, 1, 2, 3]
       ∀ k < 4, (none'.die k).excluded = true) :=
  ⟨by decide +kernel, by decide, by decide, by decide, fun _ => ⟨⟨_, rfl, (by decide : 2 < 5), rfl⟩, rfl, rfl, rfl⟩,
    ⟨_, rfl, by decide, rfl⟩, by decide +kernel⟩
/-- Steps that pass over an excluded die, fail, leave something out, and narrow a channel. -/
theorem witness_start_steps :
    (let s := (starting true 5 bootPlan false).modDie 0 fun x => { x with excluded := true }
     s.stag.boot.any (fun r => r.plan.head? == some (2, 0) && !r.begun) = true ∧ (s.die (2 / 3)).excluded = true) ∧
    (4, 1) ∈ (boot true).failed ∧ (starting true 5 [(4, 1)] true).entry 4 1 = (0, 0) ∧
    (record1 ⟨0, 1, 3, 1, 4⟩).entry 4 1 = (1, 3) ∧ min (1 + 1) (lastAlt 4) = 1 ∧
    (3 ∈ (boot true).cores ∧ dieOfCore 3 = 0 ∧ 5 ∈ (boot true).narrow ∧ 5 / 64 = 0) := by decide +kernel

/-- `base` with a tenant's TDISP state, and the Stag's SPDM state at its furthest. -/
def spdm (t : Tdi) : State :=
  { base with
    host := { base.host with boot := 5, enabled := [63] }
    stag := { base.stag with
      tdi := if t = .unassigned then [] else [(63, t)]
      version := true, caps := true, algs := true, sessions := [⟨9, true⟩], bound := [(63, 0)] } }

theorem witness_StagEvents : (spdm .unassigned).host.boot = 5 ∧ base.host.boot ≠ 5 ∧
    (spdm .unassigned).tdi 63 = .unassigned ∧ (spdm .unlocked).tdi 63 = .unlocked ∧
    (spdm .locked).tdi 63 = .locked ∧ (spdm .run).tdi 63 = .run ∧ 63 ∈ (spdm .run).host.enabled ∧
    ((spdm .run).stag.sessions[0]?).any (·.secured) = true ∧ aget (spdm .run).stag.bound 63 = some 0 ∧
    (spdm .run).stag.version = true ∧ (spdm .run).stag.caps = true ∧
    (spdm .run).stag.algs = true ∧ base.stag.algs = false ∧ base.stag.sessions = [] ∧
    (base.launch 1).phase ≠ .ended ∧ (base.launch 1).parent = none ∧ (base.launch 1).ten = 0 ∧
    (base.table 1).valid = true ∧ (base.table 1).ten = 0 ∧
    aget (posted id).host.queues 7 = some ((aget (posted id).host.queues 7).getD (HQueue.fresh 1 1)) := by
  decide +kernel

/-! ### Witnesses: the host -/

/-- `work` with a command and its first operands in the PF (0) or in the VF of tenant 0 (1). -/
def command (fn code : Nat) (area : List W64) : State :=
  { work [] with host := { base.host with
      boot := 5, enabled := [0], bars := [(fn, ⟨area ++ List.replicate 4 0, BitVec.ofNat 16 code, 0, 0, true⟩)] } }

theorem witness_host_queues :
    (let s := posted id
     (s.localQueue 1 0).isSome ∧ s.present 1 = true ∧ 3 < 2 ^ 16 ∧
       s.host.queues.all (fun q => decide (3 ≤ q.2.sqn.toNat) && decide (q.2.sqn.toNat < 4) &&
         decide (q.2.cqhead.toNat ≤ 3) && decide (3 ≤ q.2.cqn.toNat) && q.2.en) = true) ∧
    (posted fun q => { q with en := false }).host.queues.all (fun q => !q.2.en) = true ∧
    (command 0 16 []).present 0 = true ∧ ((command 1 1 []).bar0 1).busy = true ∧ (base.bar0 0).busy = false := by
  decide +kernel

theorem witness_host_commands :
    (∀ code ∈ [2, 3, 4, 5, 6], let s := command 1 code [3, 0, 0, 0]
      (s.bar0 1).busy = true ∧ (s.bar0 1).cmd.toNat = code) ∧
    (dwAt ((command 1 2 [2 ^ 20, 0, 0, 0]).bar0 1).area 0).toNat = 2 ^ 20 ∧
    ((work []).table 9).valid = false ∧ ((work []).table 3).valid = true ∧ ((work []).table 3).ten = 1 - 1 ∧
    ((work []).table 3).ten ≠ 2 - 1 ∧ (work []).granted 3 = true ∧
    ((work []).modLaunch 1 fun l => { l with grants := [] }).granted 3 = false ∧
    ((work []).table 2).slots < 16 + 2 ∧ ((work []).table 2).dense = true ∧ 16 < ((work []).table 2).slots ∧
    ((work []).table 2).ownw = false ∧ ((work []).table 2).held = none ∧ (work []).rowHeld 2 16 = false ∧
    1024 + 64 ≤ ((work []).table 2).slots * ((work []).table 2).rowSize ∧ 1088 ≤ 2 ^ 20 := by decide +kernel

/-- `work` with a descriptor image at host address 4096. -/
def described (t : Table) (code : Nat) (area : List W64) : State :=
  let s := command 1 code area
  { s with host := { s.host with mem := setBytes [] (runOf 4096 (t.dw.flatMap dwBytes)) } }

theorem witness_tbl_create :
    (let s := described (tab 0 1 0) 1 [4096, 0, 0, 0]
     (∀ j, 1 ≤ j → j < 4 → (s.table j).valid = true) ∧ (s.table 4).valid = false ∧ 4 ≤ s.tables.length + 1 ∧
       (let img := s.hostWords 4096 48
        let t0 : Table := { Table.absent with
          dw := setAt (setAt img 0 (withField (dwAt img 0) 20 20 4)) 1 (withField (dwAt img 1) 58 6 (1 - 1))
          page := 0 }
        let new := t0.keep (if t0.dense then t0.cap else 0) 0
        t0.page ≤ 4 ∧ new.usable 4 = true ∧ new.homeOk = true ∧ s.fits (s.used + new.mapped) = true ∧
          s.fits (960000000001) = false)) := by
  have h : ∀ j < 4, 1 ≤ j → ((described (tab 0 1 0) 1 [4096, 0, 0, 0]).table j).valid = true := by decide +kernel
  exact ⟨fun j h1 h2 => h j h2 h1, by decide +kernel⟩
theorem witness_tbl_modify : (∀ cap ∈ [16, 17],
    let t1 : Table := { tab 3 1 2 with dw := setAt (tab 3 1 2).dw 2 (BitVec.ofNat 64 cap) }
    let s := described t1 2 [3, 4096, 0, 0]
    let old := s.table 3
    let t0 : Table := { old with dw := s.hostWords 4096 48, poisonDesc := false }
    let new := t0.keep (if t0.dense then t0.cap else old.count) (old.gen + 1)
    new.kind = old.kind ∧ new.keyt = old.keyt ∧ new.k = old.k ∧ new.ten = old.ten ∧ new.ownw = old.ownw ∧
      new.kslot = old.kslot ∧ old.cap ≤ new.cap ∧ new.usable 3 = true ∧ new.homeOk = true ∧
      new.home = old.home ∧ new.homeId = old.homeId ∧ new.cap = cap ∧ old.cap = 16 ∧
      s.fits (s.used - old.mapped + new.mapped) = true) := by decide +kernel
theorem witness_pf_commands :
    ((command 1 7 [1, 0, 0, 0]).launch 1).phase ≠ .ended ∧ ((command 1 7 [1, 0, 0, 0]).launch 1).ten = 1 - 1 ∧
    ((command 1 7 [2, 0, 0, 0]).launch 2).phase = .ended ∧ ((command 3 7 [1, 0, 0, 0]).launch 1).ten ≠ 3 - 1 ∧
    ((command 1 8 [4096, 0, 0, 0]).bar0 1).cmd.toNat = 8 ∧
    (let s := command 0 16 [255, 63, 255, 0]
     (dwAt (s.bar0 0).area 0).toNat < 256 ∧ (dwAt (s.bar0 0).area 1).toNat < 64 ∧
       (dwAt (s.bar0 0).area 2).toNat < 256 ∧ s.host.queues = [] ∧ s.queueFree 255 = true) ∧
    (posted id).queueFree 7 = false ∧ ((command 0 17 [5, 6, 0, 0]).bar0 0).cmd.toNat = 17 ∧
    (let s := command 0 18 [63, 1, 0, 0]
     let m := { s.mem with reserve := aput s.mem.reserve 63 1 }
     ({ s with mem := m } : State).fits ({ s with mem := m } : State).used = true) ∧
    ((command 0 19 []).bar0 0).cmd.toNat = 19 := by decide +kernel

/-! ### Witnesses: further clauses -/

/-- Operands 0.75 and ±512.0 as real numbers: 0.75 is no integer, no half of one and no power of two. -/
theorem witness_ElementaryFunctionsNearExact :
    (fmt32.operand Mode.fixed 0x3F400000).Is (3 / 4) ∧ (fmt32.operand Mode.fixed 0x44000000).Is 512 ∧
    (fmt32.operand Mode.fixed 0xC4000000).Is (-512) ∧ (∀ i : Int, (3 / 4 : ℝ) ≠ i) ∧
    (∀ i : Int, 2 * (3 / 4 : ℝ) ≠ i) ∧ (∀ i : Int, (3 / 4 : ℝ) ≠ (2 : ℝ) ^ i) ∧
    (2 : ℝ) ^ (-50 : Int) ≤ |(3 / 4 : ℝ)| ∧ |(3 / 4 : ℝ)| < 256 := by
  refine ⟨⟨false, 12582912, -24, by decide +kernel, ?_⟩, ⟨false, 8388608, -14, by decide +kernel, ?_⟩,
    ⟨true, 8388608, -14, by decide +kernel, ?_⟩, ?_, ?_, ?_, ?_, ?_⟩
  · norm_num [signed]
  · norm_num [signed]
  · norm_num [signed]
  · intro i h
    have : (4 * i : Int) = 3 := by
      have : (4 * i : ℝ) = 3 := by rw [← h]; norm_num
      exact_mod_cast this
    omega
  · intro i h
    have : (2 * i : Int) = 3 := by
      have : (2 * i : ℝ) = 3 := by rw [← h]; norm_num
      exact_mod_cast this
    omega
  · intro i h
    rcases lt_or_ge i 0 with hi | hi
    · have : (2 : ℝ) ^ i ≤ (2 : ℝ) ^ (-1 : Int) := zpow_le_zpow_right₀ (by norm_num) (by omega)
      rw [← h] at this
      norm_num at this
    · have : (2 : ℝ) ^ (0 : Int) ≤ (2 : ℝ) ^ i := zpow_le_zpow_right₀ (by norm_num) hi
      rw [← h] at this
      norm_num at this
  · norm_num
  · norm_num

/-- Blocks with a NaN, of zeros alone, and with a largest magnitude of exponent 2. -/
theorem witness_PackedBlockValues : (fmt32.decode 0x7FC00000).isNan = true ∧ (fmt32.decode 0x80000000).isZero = true ∧
    fmt32.decode 0x40C00000 = .fin false 12582912 (-21) ∧ (-21 : Int) + Nat.log2 12582912 = 2 := by decide +kernel
/-- Scores with invT zero and not, and a logit that is no number. -/
theorem witness_SamplingValues : (fmt32.operand Mode.fixed 0).isZero = true ∧
    (fmt32.operand Mode.fixed 0x3F800000).isZero = false ∧ (fmt32.operand Mode.fixed 0x7FC00000).isNan = true := by
  decide +kernel

/-- A dirty byte of table 3 in the cluster copy, inside what the object of `witness_guarded` guards. -/
def dirtyObject : State :=
  { object with mem := { object.mem with
      home := setBytes [] (runOf (2 * 2 ^ 42 + 64 + 8) [2, 0, 48, 0, 0, 9, 0, 0, 2])
      l1 := [(copyKey 0 (3 * 2 ^ 42), ⟨7, 1⟩)] } }
theorem witness_dirty_guarded : let s := dirtyObject
    (s.cur.slot false).stage = 0 ∧ s.countHeld = false ∧ s.softPending s.curG (inGuards [⟨3, 0, 2⟩]) = false ∧
    s.dirtySectors s.curCluster (inGuards [⟨3, 0, 2⟩]) ≠ [] ∧
    s.cur.uwc + (s.dirtySectors s.curCluster (inGuards [⟨3, 0, 2⟩])).length ≤ 65535 ∧
    (s.guarded (s.cur.gval false 5) true).toOption.map List.length = some 1 ∧
    ((object.setStage 2).cur.slot false).stage = 2 ∧ (object.setStage 2).released true = true ∧
    ((object.setStage 2).modCur fun g => { g with uwc := 1 }).released true = false := by decide +kernel
/-- Object images that do not fit, name an absent table, name one without the right, and are right. -/
theorem witness_object_images : let d : W64 := BitVec.ofNat 64 (1 * 2 ^ 40 + 2 * 2 ^ 20 + 3)
    (object.table 2).managed = false ∧
    (object.checkObject (object.cur.gval false 5) [0, BitVec.ofNat 64 (7 * 2 ^ 40), 0, 0, 0, 0, 0, 0] fun _ => true).toOption.isNone = true ∧
    (object.checkObject (object.cur.gval false 5) [0, d, 2 ^ 28 + 2, 0, 0, 0, 0, 0] fun _ => true).toOption.map
      (fun gs => gs.map fun g => (g.tid, g.first, g.count)) = some [(3, 1, 2)] ∧ (object.table 9).usable 9 = false ∧
    (object.checkObject (object.cur.gval false 5) [0, d, 2 ^ 28 + 2, 0, 0, 0, 0, 0] fun _ => false).toOption.isNone = true := by
  decide +kernel
/-- A range with a dirty byte, with room for its request and without; ranges that trap. -/
theorem witness_dirty_range :
    let s := (range5 64).modMem fun m => { m with l1 := [(copyKey 0 (2 * 2 ^ 42 + 64), ⟨7, 1⟩)] }
    s.countHeld = false ∧ s.softPending gid0 (inRange (handle 2 64) 64) = false ∧
    (s.dirtySectors s.curCluster (inRange (handle 2 64) 64)).length = 1 ∧ s.cur.uwc + 1 ≤ 65535 ∧
    (let t := s.modCur fun g => { g with uwc := 65535 }
     t.countHeld = false ∧ t.cur.uwc ≤ 65535 ∧ 65535 < t.cur.uwc + 1) ∧
    ((range5 64).table 9).usable 9 = false ∧ ((range5 64).modLaunch 1 fun l => { l with grants := [] }).curLaunch.writesTo 2 = false ∧
    2 ^ 42 < posOf (handle 2 64) + (2 ^ 42 - 63) ∧ (0 : Nat) ≤ 2 ^ 42 := by decide +kernel

/-- An observation set by which an atomic asks its home. -/
def atHome : MemExt := ⟨0, obsC, .relaxed, .w8, .normal⟩
/-- Named atomics, uniform and of every lane, as producers. -/
theorem witness_named_atomics : (atHome.obs.c || atHome.obs.x) = true ∧
    (let s := work [(5, handle 2 64), (6, 7)]
     s.Accepts ⟨[sg 5 false, sgs 6 1 false], [dg 8], false⟩ ∧
       s.InTable (s.cur.gval false 5) 0 8 (2 * 2 ^ 42 + 64) true true ∧
       s.hitsKey (.tab (2 * 2 ^ 42 + 64)) 8 = false ∧ (s.table 2).ownw = false ∧
       s.strongBehind gid0 ((List.range 8).map (2 * 2 ^ 42 + 64 + ·)) = false ∧ s.countOk 1 = true) ∧
    (let s := laneWork (handle 2 64) 8
     s.Accepts ⟨[svs 4 2 false, svs 8 2 false], [dvs 10 2], true⟩ ∧ s.countOk 96 = true ∧
       lanesOf (s.lanesOn false) ≠ []) ∧
    (laneWork (handle 2 64) 8).strongBehind gid0 ((List.range 96).flatMap fun l =>
      (List.range 8).map (2 * 2 ^ 42 + 64 + 8 * l + ·)) = false :=
  ⟨rfl, ⟨ok (by decide) (by decide), in_table (handle 2 64) (by decide) (by decide) (by decide) (by decide) (by decide)
      (by decide) (by decide) (by decide), by decide, by decide, by decide, by decide⟩,
    ⟨ok (by decide) (by decide), by decide, by decide⟩, by decide +kernel⟩

/-- Fills of private space, of another scratchpad, and of atomics: bound at the home, at the cluster copy, at another
scratchpad. -/
theorem witness_other_fills : let a : Atom := ⟨.add, 8, 1, 0, none⟩
    let other (s : State) : State := { s with teams := s.teams ++ [(teamKey 1 1, { codeTeam with core := 1 })] }
    fillWitness (filling false (.load 5 16 false false) (waitingItems 0 16 (.priv (2 ^ 62) 0 64))) = true ∧
    (2 ^ 62 % 4 = 0 ∧ 64 % 16 = 0) ∧
    fillWitness (other (filling true (.load 8 8 false false) (waitingItems 95 8 (.spad (teamKey 1 1) 64)))) = true ∧
    fillWitness (filling false (.atm 5 a true)
      [⟨0, .tab (2 * 2 ^ 42 + 64), 8, [1, 0], some (List.replicate 8 3, false)⟩]) = true ∧
    fillWitness (filling true (.atm 8 a true)
      [⟨0, .tab (2 * 2 ^ 42 + 64), 8, [1, 0], some (List.replicate 8 3, false)⟩,
        ⟨95, .tab (2 * 2 ^ 42 + 72), 8, [1, 0], some (List.replicate 8 4, false)⟩]) = true ∧
    fillWitness (filling false (.atm 5 a false) [⟨0, .tab (2 * 2 ^ 42 + 64), 8, [1, 0], none⟩]) = true ∧
    fillWitness (other (filling false (.atm 5 a false) [⟨0, .spad (teamKey 1 1) 64, 8, [1, 0], none⟩])) = true ∧
    (work []).slotOfKey (2 * 2 ^ 42 + 64) = none ∧ (work []).isKeyByte (2 * 2 ^ 42 + 64) = false := by decide +kernel

/-- A strong write of two elements that is still in its core: it may leave, or waits for its page. -/
theorem witness_unsent : let w : PWrite := { request .home ((List.range 8).map fun i => (2 * 2 ^ 42 + 64 + i, 3)) 0 none with
      ew := 4, gone := false, page := some (0, 2 * 2 ^ 74) }
    let s : State := { work [] with writes := [w] }
    s.writes.find? (fun x => x.id == 9) = some w ∧ s.maySend w = true ∧ w.clears = false ∧
      (w.data.map (·.1)).Nodup ∧ (w.data.drop (1 * w.ew)).take w.ew ≠ [] ∧ w.ew < w.data.length ∧
      w.data.all (fun p => decide (p.1 < 2 ^ 110) && (s.slotOfKey p.1).isNone && !s.isKeyByte p.1) = true ∧
      (s.modMem fun m => { m with walks := [⟨0, 2 * 2 ^ 74, [0]⟩] }).maySend w = false := by decide +kernel

/-- A publication under way, on which the removal of a ring waits. -/
theorem witness_publishing :
    (withG fun g => { g with s1 := { g.s1 with pend := [5] } }).publishing (teamOf gid0) = true ∧
    base.publishing (teamOf gid0) = false := by decide +kernel
/-- A refused read of which one transfer has issued, complete or not, and one of which none has. -/
theorem witness_refused : let h (sent : List Nat) (back : Nat) : HostXfer := ⟨1, false, 4096, 300, sent, back, true⟩
    (h [] 0).sent = [] ∧ (h [65536] 1).back = (h [65536] 1).sent.length ∧ (h [65536] 0).back ≠ (h [65536] 0).sent.length ∧
    ceOp (copy (handle 2 0) (pad 64) none [] [] false (some (h [65536] 1))).entry = 0 := by decide +kernel

/-- Growing tables: of a channel in broadcast mode, and of an encrypted table whose default row's key is absent. -/
theorem witness_growth :
    let new : Table := { dense2 with dw := setAt dense2.dw 2 17 }
    (work []).growWaits 2 dense2 new = false ∧ (work []).regions = [] ∧ (work []).copies = [] ∧ (work []).channels = [] ∧
    (let r : Region := { region 0 none none with writes := [⟨2 * 2 ^ 36 + 16, List.replicate 64 3, 1, 4⟩] }
     (regional r []).growWaits 2 dense2 new = true) := by decide +kernel
/-- A full ring whose records one write of CQHEAD consumes, and writes of CQHEAD below and above the old one. -/
theorem witness_cqhead :
    (∀ x ∈ [(4, 2), (2, 1), (1, 3)], let s := posted fun q => { q with cqhead := BitVec.ofNat 16 x.2, unread := x.1 }
      s.host.queues.all (fun q => decide (q.2.cqhead.toNat ≤ q.2.cqn.toNat) && decide (2 ≤ q.2.cqn.toNat)) = true) ∧
    (posted fun q => { q with cqhead := 2, unread := 4 }).host.queues.all (fun q =>
      q.2.cqhead.toNat == 2 && q.2.unread == q.2.cqn.toNat + 1) = true := by decide +kernel

/-- A peer's point on the curve, and 96 bytes that are none. -/
theorem witness_peers : (∃ p, ecPoint (natLe 96 (BitVec.ofNat 768 (leOf (ecBytes ecBase))).toNat) = some p) ∧
    ecPoint (natLe 96 (0 : BitVec 768).toNat) = none := by
  exact ⟨⟨ecBase.getD (0, 0), by decide +kernel⟩, by decide +kernel⟩

/-! ### Witnesses: steps, encodings and invariants -/

/-- `exit` as the next word of the module's only group. -/
def atExit : State := State.reset.withFetchWord 32 0x01000000

theorem witness_StepRunsDecodedWord : atExit.nextSlot = some (gid0, false) ∧
    (let p := (atExit.group gid0).path false
     let t := atExit.table (atExit.launchOf gid0).codeTable
     let n := lengthOf (atExit.codeOp p.pc).toNat
     p.rj = none ∧ t.poisonDesc = false ∧ t.usable 1 = true ∧ spaceOf p.pc = 0 ∧ t.ownw = false ∧
       tidOf p.pc = (atExit.launchOf gid0).codeTable ∧ (posOf p.pc + n - 1) / t.rowSize < t.cap ∧
       atExit.anyPoison ((List.range n).map fun i => p.pc.toNat + i) = false ∧
       (decode (atExit.codeSeen p.pc n).bytes).toOption = some (.exit, []) ∧
       aget atExit.groups gid0 = some (atExit.group gid0) ∧ ((atExit.group gid0).slot false).waiting = false) ∧
    (let s := State.reset.withFetchWord 32 0x2B000000
     let p := (s.group gid0).path false
     (decode (s.codeSeen p.pc 4).bytes).toOption = none) ∧
    (let s := arriving 0 0
     s.nextSlot = some (gid0, false) ∧ ((s.group gid0).path false).rj = some (((s.group gid0).path false).pc, 1)) := by
  decide +kernel

theorem witness_DecodeEncodeRoundTrip : (Instr.trd 64 2 true true true 256).wf = true ∧
    (encode (.trd 64 2 true true true 256)).isSome = true ∧ (Instr.exit).wf = true ∧
    encode .exit = some [0, 0, 0, 1] := by decide

theorem witness_StepKeepsWellKept : State.reset.WellKept ∧ ∃ t, step State.reset = .next t := by
  refine ⟨⟨by decide, ?_, ?_, ?_⟩, _, rfl⟩ <;> intro x hx <;> cases hx
/-- The state with one running group is well kept too. -/
theorem witness_well_kept : atExit.WellKept := by
  refine ⟨by decide +kernel, ?_, ?_, ?_⟩
  · intro x hx
    obtain rfl : x = (gid0, { Group.start (handle 1 0) with window := some 0 }) := by
      simpa [atExit, State.withFetchWord, State.withCode, gid0] using hx
    refine ⟨rfl, fun b p hp => ?_, fun e he => by cases he⟩
    cases b
    · obtain rfl : Path.start (handle 1 0) = p := by simpa [Group.slot, Group.start] using hp
      unfold Path.kept
      decide
    · simp [Group.slot, Group.start, Slot.free] at hp
  · intro x hx
    cases hx
  · intro x hx
    cases hx

end Sys2Proof.Tests
end

section
/-! SUPPORT. What memory traffic leaves alone. -/

namespace Sys2Proof.Machine

/-! ### What memory traffic leaves alone -/

/-- Memory traffic only: launches, tables, units, the host and the event log are as before. -/
structure OnlyTraffic (s t : State) : Prop where
  launches : t.launches = s.launches
  tables : t.tables = s.tables
  channels : t.channels = s.channels
  dies : t.dies = s.dies
  cores : t.cores = s.cores
  links : t.links = s.links
  dist : t.dist = s.dist
  host : t.host = s.host
  log : t.stag.log = s.stag.log

namespace OnlyTraffic

theorem refl (s : State) : OnlyTraffic s s := by constructor <;> rfl

theorem trans {s t u : State} (h : OnlyTraffic s t) (h' : OnlyTraffic t u) : OnlyTraffic s u where
  launches := h'.launches.trans h.launches
  tables := h'.tables.trans h.tables
  channels := h'.channels.trans h.channels
  dies := h'.dies.trans h.dies
  cores := h'.cores.trans h.cores
  links := h'.links.trans h.links
  dist := h'.dist.trans h.dist
  host := h'.host.trans h.host
  log := h'.log.trans h.log

theorem ite {s t u : State} {c : Prop} [Decidable c] (h : OnlyTraffic s t) (h' : OnlyTraffic s u) :
    OnlyTraffic s (if c then t else u) := by
  split
  · exact h
  · exact h'

theorem foldl {α : Type} {f : State → α → State} (h : ∀ s a, OnlyTraffic s (f s a)) (l : List α) (s : State) :
    OnlyTraffic s (l.foldl f s) :=
  List.foldlRecOn l f (motive := OnlyTraffic s) (refl s) fun b hb a _ => hb.trans (h b a)

end OnlyTraffic

theorem onlyTraffic_modMem (s : State) (f : Mem → Mem) : OnlyTraffic s (s.modMem f) := by constructor <;> rfl

theorem onlyTraffic_choosePath (s : State) (a b : Nat) : OnlyTraffic s (s.choosePath a b).1 := by
  unfold State.choosePath
  split <;> constructor <;> rfl

theorem onlyTraffic_packet (s : State) (a b : Nat) : OnlyTraffic s (s.packet a b).1 := by
  unfold State.packet
  split
  · exact .refl s
  · exact (onlyTraffic_choosePath s a b).trans (by constructor <;> rfl)

theorem onlyTraffic_route (s : State) (w : PWrite) : OnlyTraffic s (s.route w).1 := by
  unfold State.route
  refine OnlyTraffic.trans ?_ (onlyTraffic_packet _ _ _)
  split <;> constructor <;> rfl

theorem onlyTraffic_writeBack (s : State) (gid cl sec : Nat) (count : Bool) :
    OnlyTraffic s (s.writeBack gid cl sec count) := by
  have sent (t : State) (w : PWrite) : OnlyTraffic t { (t.route w).1 with writes := (t.route w).1.writes ++ [(t.route w).2] } :=
    (onlyTraffic_route t w).trans (by constructor <;> rfl)
  have passed (d : List (Nat × Byte)) (p : Nat → Bool) (n : Nat) : OnlyTraffic s
      { (s.cleanDirty cl p).passVisitor (dieOfCluster cl) d with nextId := n } := by constructor <;> rfl
  refine .ite (.refl s) (.ite ?_ ((passed _ _ _).trans (sent _ _)))
  exact ((passed _ _ _).trans (sent _ _)).trans (by constructor <;> rfl)

theorem onlyTraffic_flushBytes (s : State) (cl : Nat) (data : List (Nat × Byte)) :
    OnlyTraffic s (s.flushBytes cl data) := by
  have stored (t : State) : OnlyTraffic t (t.applyStores data) := by constructor <;> rfl
  have passed (t : State) (n : Nat) : OnlyTraffic t (t.passVisitor n data) := by constructor <;> rfl
  have clean : OnlyTraffic s (s.cleanKeys cl (data.map (·.1))) := by constructor <;> rfl
  exact .ite (.refl s) ((clean.trans (passed _ _)).trans (stored _))

theorem onlyTraffic_recallSectors (s : State) (p : Nat → Bool) : OnlyTraffic s (s.recallSectors p) :=
  .foldl (fun a c => (onlyTraffic_flushBytes a c _).trans
    (.foldl (fun b sec => onlyTraffic_writeBack b 0 c sec false) _ _)) _ s

theorem onlyTraffic_clearHalf (s : State) (key : Nat) : OnlyTraffic s (s.clearHalf key) := by
  refine .ite (onlyTraffic_modMem s _) (.ite (.refl s) (.ite (onlyTraffic_modMem s _) (onlyTraffic_modMem s _)))

theorem onlyTraffic_clearBytes (s : State) (lo n : Nat) : OnlyTraffic s (s.clearBytes lo n) := by
  have half (c : Prop) [Decidable c] (t : State) (k : Nat) : OnlyTraffic t (if c then t.clearHalf k else t) :=
    .ite (onlyTraffic_clearHalf t k) (.refl t)
  exact ((onlyTraffic_modMem s _).trans (half _ _ _)).trans (half _ _ _)

theorem onlyTraffic_bumpRows (s : State) (rows : List Nat) : OnlyTraffic s (s.bumpRows rows) :=
  onlyTraffic_modMem s _

theorem onlyTraffic_clearSlot (s : State) (tid slot : Nat) : OnlyTraffic s (s.clearSlot tid slot) :=
  (onlyTraffic_clearBytes s _ _).trans (onlyTraffic_bumpRows _ _)

theorem onlyTraffic_logTags (s : State) (us : List Nat) : OnlyTraffic s (s.logTags us) :=
  .ite (.refl s) (by constructor <;> rfl)

theorem onlyTraffic_logRead (s : State) (l : Launch) (h : W64) (n al : Nat) : OnlyTraffic s (s.logRead l h n al) :=
  .ite (onlyTraffic_logTags _ _) (.refl s)

theorem onlyTraffic_logRecord (s : State) (l : Launch) (h : W64) (code : Nat) :
    OnlyTraffic s (s.logRecord l h code) := by
  have read := onlyTraffic_logRead s l h 128 128
  have grants := read.trans (onlyTraffic_logRead _ l (l.dw 8) (4 * field (l.dw 9) 0 12) 4)
  have key := grants.trans (.ite (c := l.key = 0) (.refl _) (onlyTraffic_logRead _ l l.key 128 128))
  exact .ite read (.ite grants (.ite key (key.trans (onlyTraffic_logRead _ l l.layout 16 8))))

theorem onlyTraffic_markReady (s : State) : OnlyTraffic s s.markReady :=
  .ite (by constructor <;> rfl) (.refl s)

theorem onlyTraffic_closeRegion (s : State) (gid : Nat) : OnlyTraffic s (s.closeRegion gid) :=
  .trans (by constructor <;> rfl) (onlyTraffic_markReady _)

theorem onlyTraffic_dropRegion (s : State) (gid code : Nat) : OnlyTraffic s (s.dropRegion gid code) := by
  unfold State.dropRegion
  split
  · exact .refl s
  · exact (onlyTraffic_closeRegion s gid).trans (by constructor <;> rfl)

theorem onlyTraffic_abortFrom (n : Nat) (s : State) (gid code : Nat) : OnlyTraffic s (s.abortFrom n gid code) := by
  induction n generalizing s gid code with
  | zero => exact onlyTraffic_dropRegion s gid code
  | succ n ih => exact (onlyTraffic_dropRegion s gid code).trans (.foldl (fun a d => ih a d _) _ _)

theorem onlyTraffic_abortRegion (s : State) (gid code : Nat) : OnlyTraffic s (s.abortRegion gid code) :=
  onlyTraffic_abortFrom 4 s gid code

theorem onlyTraffic_scrubPrivate (s : State) (l : Nat) : OnlyTraffic s (s.scrubPrivate l) := by constructor <;> rfl

theorem onlyTraffic_loseDie (s : State) (d : Nat) : OnlyTraffic s (s.loseDie d) := by constructor <;> rfl

end Sys2Proof.Machine
end

section
/-! SUPPORT. What the actions at the end of a launch leave alone: its relations, and one lemma per action. -/

namespace Sys2Proof.Machine

/-! ### Entries of the maps of the state -/

theorem mem_of_aget {α : Type} {m : Assoc α} {q : Nat} {x : α} (h : aget m q = some x) : (q, x) ∈ m := by
  induction m with
  | nil => simp [aget] at h
  | cons e r ih =>
    obtain ⟨a, v⟩ := e
    by_cases ha : a = q
    · simp_all [aget]
    · simp only [aget, ha, if_false] at h
      exact List.mem_cons_of_mem _ (ih h)

/-- An entry of a list with a key set is the new one or an old one. -/
theorem mem_aput {α : Type} {m : Assoc α} {q : Nat} {x : α} {e : Nat × α} (h : e ∈ aput m q x) :
    e = (q, x) ∨ e ∈ m :=
  (mem_ains h).imp_right fun h => (adel_sublist m q).subset h

theorem State.launch_modLaunch (s : State) (l m : Nat) (f : Launch → Launch) :
    (s.modLaunch l f).launch m = if m = l then f (s.launch l) else s.launch m := by
  unfold State.launch State.modLaunch
  rw [aget_aput]
  split <;> rfl

theorem State.die_modDie (s : State) (d e : Nat) (f : Die → Die) :
    (s.modDie d f).die e = if e = d then f (s.die d) else s.die e := by
  unfold State.die State.modDie
  rw [aget_aput]
  split <;> rfl

theorem State.channel_setChannel (s : State) (c k : Nat) (x : Channel) :
    (s.setChannel c x).channel k = if k = c then x else s.channel k := by
  unfold State.channel State.setChannel
  rw [aget_aput]
  split <;> rfl

theorem State.table_setTable (s : State) (t k : Nat) (x : Table) :
    (s.setTable t x).table k = if k = t then x else s.table k := by
  unfold State.table State.setTable
  rw [aget_aput]
  split <;> rfl

/-- A launch that has not ended is listed. -/
theorem State.launch_listed {s : State} {l : Nat} (h : (s.launch l).phase ≠ .ended) : (l, s.launch l) ∈ s.launches := by
  unfold State.launch at h ⊢
  cases hl : aget s.launches l with
  | none => rw [hl] at h; exact absurd rfl h
  | some x => exact mem_of_aget hl

/-! ### What the end of a launch leaves alone -/

/-- No provisional row is the launch's. -/
theorem State.draftsOf_eq_nil_iff {s : State} {l : Nat} :
    s.draftsOf l = [] ↔ ∀ t ∈ s.tables, ∀ r ∈ t.2.rows, ∀ tag, r.prov ≠ some (tag, l) := by
  simp only [State.draftsOf, List.flatMap_eq_nil_iff, List.map_eq_nil_iff, List.filter_eq_nil_iff]
  refine forall₂_congr fun t _ => forall₂_congr fun r _ => ?_
  rcases r.prov with _ | ⟨tag, owner⟩ <;> simp

/-- The rows of every table are among those of a table before. -/
theorem State.draftsOf_nil_of_rows {s t : State} {l : Nat}
    (h : ∀ x ∈ t.tables, ∀ r ∈ x.2.rows, ∃ y ∈ s.tables, r ∈ y.2.rows) (hs : s.draftsOf l = []) : t.draftsOf l = [] := by
  rw [State.draftsOf_eq_nil_iff] at hs ⊢
  intro x hx r hr tag
  obtain ⟨y, hy, hr⟩ := h x hx r hr
  exact hs y hy r hr tag

/-- The units of the module stand as before, the event log too, and a launch without provisional rows has got none. -/
structure SameUnits (s t : State) : Prop where
  log : t.stag.log = s.stag.log
  links : t.links = s.links
  cores : t.cores = s.cores
  failed : ∀ d, (t.die d).failed = (s.die d).failed
  retired : ∀ c, (t.channel c).retired = (s.channel c).retired
  drafts : ∀ l, s.draftsOf l = [] → t.draftsOf l = []

namespace SameUnits

theorem refl (s : State) : SameUnits s s := ⟨rfl, rfl, rfl, fun _ => rfl, fun _ => rfl, fun _ h => h⟩

theorem trans {s t u : State} (h : SameUnits s t) (h' : SameUnits t u) : SameUnits s u where
  log := h'.log.trans h.log
  links := h'.links.trans h.links
  cores := h'.cores.trans h.cores
  failed d := (h'.failed d).trans (h.failed d)
  retired c := (h'.retired c).trans (h.retired c)
  drafts l hl := h'.drafts l (h.drafts l hl)

end SameUnits

theorem OnlyTraffic.sameUnits {s t : State} (h : OnlyTraffic s t) : SameUnits s t where
  log := h.log
  links := h.links
  cores := h.cores
  failed d := by rw [State.die, h.dies, ← State.die]
  retired c := by rw [State.channel, h.channels, ← State.channel]
  drafts l hl := by rw [State.draftsOf, h.tables, ← State.draftsOf, hl]

theorem OnlyTraffic.launch {s t : State} (h : OnlyTraffic s t) (l : Nat) : t.launch l = s.launch l := by
  rw [State.launch, h.launches, ← State.launch]

/-- How a launch stands: its phase, its status, its failed unit and its key slot. -/
def Launch.standing (x : Launch) : LPhase × Nat × Nat × Option Nat := (x.phase, x.status, x.unit, x.slot)

/-- Every launch but those of a set stands as before, and so do the units. -/
structure SameBut (p : Nat → Prop) (s t : State) : Prop extends SameUnits s t where
  standing : ∀ l, ¬p l → (t.launch l).standing = (s.launch l).standing

/-- Every launch stands as before, and so do the units. -/
abbrev SameEnds (s t : State) : Prop := SameBut (fun _ => False) s t

namespace SameBut

theorem refl (p : Nat → Prop) (s : State) : SameBut p s s := ⟨.refl s, fun _ _ => rfl⟩

theorem trans {p : Nat → Prop} {s t u : State} (h : SameBut p s t) (h' : SameBut p t u) : SameBut p s u :=
  ⟨h.toSameUnits.trans h'.toSameUnits, fun l hl => (h'.standing l hl).trans (h.standing l hl)⟩

theorem mono {p q : Nat → Prop} {s t : State} (h : SameBut p s t) (hpq : ∀ l, p l → q l) : SameBut q s t :=
  ⟨h.toSameUnits, fun l hl => h.standing l (mt (hpq l) hl)⟩

theorem ite {p : Nat → Prop} {s t u : State} {c : Prop} [Decidable c] (h : SameBut p s t) (h' : SameBut p s u) :
    SameBut p s (if c then t else u) := by
  split
  · exact h
  · exact h'

theorem foldl {α : Type} {p : Nat → Prop} {f : State → α → State} {l : List α} (s : State)
    (h : ∀ s, ∀ a ∈ l, SameBut p s (f s a)) : SameBut p s (l.foldl f s) :=
  List.foldlRecOn l f (motive := SameBut p s) (refl p s) fun b hb a ha => hb.trans (h b a ha)

end SameBut

theorem OnlyTraffic.sameEnds {s t : State} (h : OnlyTraffic s t) : SameEnds s t :=
  ⟨h.sameUnits, fun l _ => by rw [h.launch]⟩

/-- A change of launches alone. -/
theorem sameBut_modLaunch {p : Nat → Prop} (s : State) (l : Nat) (f : Launch → Launch)
    (h : ¬p l → (f (s.launch l)).standing = (s.launch l).standing) : SameBut p s (s.modLaunch l f) := by
  refine ⟨⟨rfl, rfl, rfl, fun _ => rfl, fun _ => rfl, fun _ h => h⟩, fun m hm => ?_⟩
  rw [State.launch_modLaunch]
  split
  · next hml => subst hml; exact h hm
  · rfl

/-- A change of a die that leaves its mark. -/
theorem sameEnds_modDie (s : State) (d : Nat) (f : Die → Die) (h : (f (s.die d)).failed = (s.die d).failed) :
    SameEnds s (s.modDie d f) := by
  refine ⟨⟨rfl, rfl, rfl, fun e => ?_, fun _ => rfl, fun _ h => h⟩, fun _ _ => rfl⟩
  rw [State.die_modDie]
  split
  · next he => rw [he, h]
  · rfl

theorem sameEnds_leaveMode (s : State) (ch : Nat) : SameEnds s (s.leaveMode ch) := by
  unfold State.leaveMode
  split
  · exact .refl _ s
  · next c hc =>
    refine ⟨⟨rfl, rfl, rfl, fun _ => rfl, fun k => ?_, fun _ h => h⟩, fun _ _ => rfl⟩
    unfold State.channel
    rw [aget_aput]
    split
    · next hk => subst hk; simp [hc]
    · rfl

theorem sameEnds_releaseSlot (s : State) (slot : Nat) : SameEnds s (s.releaseSlot slot) := by
  unfold State.releaseSlot
  split <;> exact ⟨⟨rfl, rfl, rfl, fun _ => rfl, fun _ => rfl, fun _ h => h⟩, fun _ _ => rfl⟩

theorem sameEnds_deleteRow (s : State) (tid slot : Nat) : SameEnds s (s.deleteRow tid slot) := by
  have rows {x : Table} (hx : x.rows = (s.table tid).rows.filter fun r => r.slot != slot) :
      SameEnds s (s.setTable tid x) := by
    refine ⟨⟨rfl, rfl, rfl, fun _ => rfl, fun _ => rfl, fun l => State.draftsOf_nil_of_rows fun y hy r hr => ?_⟩,
      fun _ _ => rfl⟩
    rcases mem_aput hy with rfl | hy
    · rw [hx] at hr
      have hr := (List.mem_filter.1 hr).1
      unfold State.table at hr
      cases ht : aget s.tables tid with
      | none => rw [ht] at hr; exact absurd hr (List.not_mem_nil)
      | some z => rw [ht] at hr; exact ⟨_, mem_of_aget ht, hr⟩
    · exact ⟨y, hy, hr⟩
  unfold State.deleteRow
  exact (rows rfl).trans ((onlyTraffic_clearSlot _ tid slot).trans (onlyTraffic_modMem _ _)).sameEnds

theorem sameEnds_dropDrafts (s : State) (rows : List (Nat × Nat)) : SameEnds s (s.dropDrafts rows) :=
  .foldl s fun a r _ => (onlyTraffic_recallSectors a _).sameEnds.trans (sameEnds_deleteRow _ r.1 r.2)

theorem sameEnds_modTeam (s : State) (k : Nat) (f : Team → Team) : SameEnds s (s.modTeam k f) :=
  ⟨⟨rfl, rfl, rfl, fun _ => rfl, fun _ => rfl, fun _ h => h⟩, fun _ _ => rfl⟩

theorem sameEnds_leaveTeam (s : State) (t : Nat) : SameEnds s (s.leaveTeam t) := by
  refine SameBut.trans ?_ (sameEnds_modTeam _ _ _)
  split
  · exact .refl _ s
  · exact sameBut_modLaunch s _ _ fun _ => rfl

theorem sameEnds_retireTeam (s : State) (t : Nat) : SameEnds s (s.retireTeam t) := by
  have gone : SameEnds s { s with groups := s.groups.filter fun g => teamOf g.1 != t } :=
    ⟨⟨rfl, rfl, rfl, fun _ => rfl, fun _ => rfl, fun _ h => h⟩, fun _ _ => rfl⟩
  unfold State.retireTeam
  exact (gone.trans (sameEnds_modTeam _ _ _)).trans (sameBut_modLaunch _ _ _ fun _ => rfl)

theorem sameEnds_settleTeam (s : State) (t : Nat) : SameEnds s (s.settleTeam t) := by
  have leave (c : Prop) [Decidable c] : SameEnds s (if c then s.leaveTeam t else s) :=
    .ite (sameEnds_leaveTeam s t) (.refl _ s)
  exact .ite (.refl _ s) (.ite (.ite (sameEnds_retireTeam s t) (leave _)) (leave _))

end Sys2Proof.Machine
end

section
/-! SUPPORT. The end of a launch and a stop (R16 step 9, R336): who has ended, and how. -/

namespace Sys2Proof.Machine

/-! ### The end of a launch and a stop -/

/-- The end of a launch marks it as ended with its status, and changes how nothing else stands (R16 step 9). -/
theorem endLaunch_between (s : State) (l status : Nat) : ∃ u, SameEnds s u ∧
    SameEnds (u.modLaunch l fun y => { y with phase := .ended, status := status }) (s.endLaunch l status) := by
  have dist (t : State) (d : Dist) : SameEnds t { t with dist := d } :=
    ⟨⟨rfl, rfl, rfl, fun _ => rfl, fun _ => rfl, fun _ h => h⟩, fun _ _ => rfl⟩
  have dies (t : State) : SameEnds t ((s.launch l).dies.foldl (fun a d =>
      a.modDie d fun y => { y with routes := y.routes.filter (· != l), oph := a.ophOf d }) t) :=
    .foldl t fun a d _ => sameEnds_modDie a d _ rfl
  have modes (t : State) : SameEnds t ((t.heldChannels l).foldl State.leaveMode t) :=
    .foldl t fun a c _ => sameEnds_leaveMode a c
  have before := ((sameEnds_dropDrafts s (s.draftsOf l)).trans (modes _)).trans (onlyTraffic_scrubPrivate _ l).sameEnds
  have pins (t : State) (f : Mem → Mem) : SameEnds t (t.modMem f) := (onlyTraffic_modMem t f).sameEnds
  cases hp : (s.launch l).parent with
  | none =>
    cases hk : (s.launch l).slot with
    | none =>
      simp only [State.endLaunch, hp, hk]
      exact ⟨_, before.trans (pins _ _), (dies _).trans (dist _ _)⟩
    | some k =>
      simp only [State.endLaunch, hp, hk]
      exact ⟨_, (before.trans (sameEnds_releaseSlot _ k)).trans (pins _ _), (dies _).trans (dist _ _)⟩
  | some p =>
    simp only [State.endLaunch, hp]
    exact ⟨_, before.trans (pins _ _), (((dies _).trans (dist _ _)).trans
      (sameBut_modLaunch _ _ _ fun _ => rfl)).trans (sameEnds_settleTeam _ p)⟩

theorem sameBut_endLaunch (s : State) (l status : Nat) : SameBut (· = l) s (s.endLaunch l status) := by
  obtain ⟨u, hu, ht⟩ := endLaunch_between s l status
  refine SameBut.trans ?_ (ht.mono fun _ => False.elim)
  exact (hu.mono fun _ => False.elim).trans (sameBut_modLaunch u l _ fun h => absurd rfl h)

theorem standing_endLaunch (s : State) (l status : Nat) :
    ((s.endLaunch l status).launch l).standing = (.ended, status, (s.launch l).unit, (s.launch l).slot) := by
  obtain ⟨u, hu, ht⟩ := endLaunch_between s l status
  have h := hu.standing l not_false
  rw [ht.standing l not_false, State.launch_modLaunch, if_pos rfl]
  simp only [Launch.standing, Prod.mk.injEq] at h ⊢
  exact ⟨trivial, trivial, h.2.2⟩

/-- A launch closed ends at once where it has no provisional rows (R230). -/
theorem closeLaunch_of_no_drafts {s : State} {l : Nat} (h : s.draftsOf l = []) (status : Nat) :
    s.closeLaunch l status = s.endLaunch l status := by
  simp [State.closeLaunch, State.draftsFree, h]

theorem sameBut_closeLaunch (s : State) (l status : Nat) : SameBut (· = l) s (s.closeLaunch l status) :=
  .ite (sameBut_endLaunch s l status) (sameBut_modLaunch s l _ fun h => absurd rfl h)

theorem sameEnds_killTeams (s : State) (ls : List Nat) : SameEnds s (s.killTeams ls) := by
  refine SameBut.trans (t := (s.regions.filter fun r => ls.contains (launchOfTeam (teamOf r.gid))).foldl
      (fun a r => a.abortRegion r.gid rgSource) s)
    (.foldl s fun a r _ => (onlyTraffic_abortRegion a r.gid rgSource).sameEnds) ?_
  refine ⟨⟨rfl, rfl, rfl, fun _ => rfl, fun _ => rfl, fun l => State.draftsOf_nil_of_rows fun x hx r hr => ?_⟩,
    fun _ _ => rfl⟩
  obtain ⟨y, hy, rfl⟩ := List.mem_map.1 hx
  refine ⟨y, hy, ?_⟩
  dsimp only at hr
  split at hr
  · split at hr <;> exact hr
  · exact hr

/-- A launch that has neither ended nor is ending is among those that a stop of it reaches. -/
theorem State.mem_family_self {s : State} {l : Nat} (h : (s.launch l).phase ≠ .ended)
    (h' : (s.launch l).phase ≠ .ending) : l ∈ s.family l := by
  refine List.mem_map.2 ⟨_, List.mem_filter.2 ⟨State.launch_listed h, ?_⟩, rfl⟩
  simp [State.descends, h, h']

/-- A launch of a list, closed with all of them: it has ended with the status. -/
theorem standing_close_all {ls : List Nat} {l : Nat} (hl : l ∈ ls) (status : Nat) (s : State)
    (h : s.draftsOf l = []) : ((ls.foldl (fun a x => a.closeLaunch x status) s).launch l).standing =
      (.ended, status, (s.launch l).unit, (s.launch l).slot) := by
  induction ls generalizing s with
  | nil => exact absurd hl List.not_mem_nil
  | cons x r ih =>
    have hd := (sameBut_closeLaunch s x status).drafts l h
    have hs : (((s.closeLaunch x status).launch l).unit, ((s.closeLaunch x status).launch l).slot) =
        ((s.launch l).unit, (s.launch l).slot) := by
      by_cases hx : x = l
      · subst hx
        rw [closeLaunch_of_no_drafts h]
        exact congrArg (·.2.2) (standing_endLaunch s x status)
      · exact congrArg (·.2.2) ((sameBut_closeLaunch s x status).standing l (Ne.symm hx))
    rw [List.foldl_cons]
    by_cases hr : l ∈ r
    · rw [ih hr _ hd]
      simpa using hs
    · obtain rfl : l = x := (List.mem_cons.1 hl).resolve_right hr
      have rest : SameBut (· ∈ r) (s.closeLaunch l status) (r.foldl (fun a x => a.closeLaunch x status) _) :=
        .foldl _ fun a y hy => (sameBut_closeLaunch a y status).mono fun m hm => hm ▸ hy
      rw [rest.standing l hr, closeLaunch_of_no_drafts h, standing_endLaunch]

/-- A stop, up to the marks of the launches that it reaches. -/
theorem stopLaunch_eq (s : State) (m status : Nat) (stop : Bool) (unit : Nat) : ∃ u, SameEnds s u ∧
    s.stopLaunch m status stop unit = (s.family m).foldl (fun a x => a.closeLaunch x status)
      ((s.family m).foldl (fun a x => a.modLaunch x fun y => { y with stopped := stop, unit := unit }) u) :=
  ⟨_, (sameEnds_killTeams s _).trans (.foldl _ fun a c _ => sameEnds_leaveMode a c), rfl⟩

/-- A stop leaves the units and every launch that it does not reach. -/
theorem sameBut_stopLaunch (s : State) (m status : Nat) (stop : Bool) (unit : Nat) :
    SameBut (· ∈ s.family m) s (s.stopLaunch m status stop unit) := by
  obtain ⟨u, hu, h⟩ := stopLaunch_eq s m status stop unit
  rw [h]
  refine ((hu.mono fun _ => False.elim).trans (.foldl u fun a x hx => ?_)).trans (.foldl _ fun a x hx => ?_)
  · exact sameBut_modLaunch a x _ fun h => absurd hx h
  · exact (sameBut_closeLaunch a x status).mono fun l hl => hl ▸ hx

/-- The failed unit of a launch that a list of marks names. -/
theorem unit_mark_all {ls : List Nat} {l : Nat} (hl : l ∈ ls) (stop : Bool) (unit : Nat) (s : State) :
    ((ls.foldl (fun a x => a.modLaunch x fun y => { y with stopped := stop, unit := unit }) s).launch l).unit = unit := by
  induction ls using List.reverseRecOn with
  | nil => exact absurd hl List.not_mem_nil
  | append_singleton r x ih =>
    rw [List.foldl_append, List.foldl_cons, List.foldl_nil, State.launch_modLaunch]
    split
    · rfl
    · next h => exact ih ((List.mem_append.1 hl).resolve_right fun h' => h (List.mem_singleton.1 h'))

/-- A launch without provisional rows that a stop reaches has ended with the status, and its unit is the failed one
(R336). -/
theorem stopLaunch_ends {s : State} {m l : Nat} (hl : l ∈ s.family m) (hd : s.draftsOf l = []) (status : Nat)
    (stop : Bool) (unit : Nat) : let x := (s.stopLaunch m status stop unit).launch l
    x.phase = .ended ∧ x.status = status ∧ x.unit = unit := by
  obtain ⟨u, hu, h⟩ := stopLaunch_eq s m status stop unit
  have marks : SameBut (· ∈ s.family m) u ((s.family m).foldl (fun a x => a.modLaunch x fun y =>
      { y with stopped := stop, unit := unit }) u) :=
    .foldl u fun a x hx => sameBut_modLaunch a x _ fun h => absurd hx h
  have hs := standing_close_all hl status _ (marks.drafts l (hu.drafts l hd))
  rw [unit_mark_all hl, ← h] at hs
  simp only [Launch.standing, Prod.mk.injEq] at hs
  exact ⟨hs.1, hs.2.1, hs.2.2.1⟩

/-! ### Failed units and the launches that they reach -/

/-- A launch runs, and its provisional rows are all committed or deleted. -/
def State.Runs (s : State) (l : Nat) : Prop :=
  (s.launch l).phase ≠ .ended ∧ (s.launch l).phase ≠ .ending ∧ s.draftsOf l = []

/-- A launch has ended FAULTED, with a unit of which `p` holds. -/
def State.Faulted (s : State) (l : Nat) (p : Nat → Prop) : Prop :=
  (s.launch l).phase = .ended ∧ (s.launch l).status = 5 ∧ p (s.launch l).unit

/-- A launch without provisional rows runs, or has ended FAULTED. -/
def State.RunsOrFaulted (s : State) (l : Nat) (p : Nat → Prop) : Prop :=
  s.draftsOf l = [] ∧ (s.Runs l ∨ s.Faulted l p)

theorem State.Runs.orFaulted {s : State} {l : Nat} (h : s.Runs l) (p : Nat → Prop) : s.RunsOrFaulted l p :=
  ⟨h.2.2, .inl h⟩

/-- What the standing of a launch says of it is kept where its standing is. -/
theorem SameBut.runsOrFaulted {q p : Nat → Prop} {s t : State} {l : Nat} (h : SameBut q s t) (hq : ¬q l) :
    (s.Runs l → t.Runs l) ∧ (s.Faulted l p → t.Faulted l p) := by
  have hs := h.standing l hq
  simp only [Launch.standing, Prod.mk.injEq] at hs
  obtain ⟨hp, hst, hu, -⟩ := hs
  unfold State.Runs State.Faulted
  rw [hp, hst, hu]
  exact ⟨fun ⟨a, b, c⟩ => ⟨a, b, h.drafts l c⟩, id⟩

/-- A stop of any launch for a failed unit: a launch that runs goes on or ends FAULTED, and one that has ended
FAULTED stays so. -/
theorem State.RunsOrFaulted.stopLaunch {s : State} {l unit : Nat} {p : Nat → Prop} (h : s.RunsOrFaulted l p)
    (hp : p unit) (m : Nat) : let t := s.stopLaunch m lsFaulted false unit
    t.RunsOrFaulted l p ∧ (l ∈ s.family m ∨ s.Faulted l p → t.Faulted l p) := by
  have same := sameBut_stopLaunch s m lsFaulted false unit
  by_cases hl : l ∈ s.family m
  · obtain ⟨h1, h2, h3⟩ := stopLaunch_ends hl h.1 lsFaulted false unit
    have hf : (s.stopLaunch m lsFaulted false unit).Faulted l p := ⟨h1, h2, h3.symm ▸ hp⟩
    exact ⟨⟨same.drafts l h.1, .inr hf⟩, fun _ => hf⟩
  · have keep := same.runsOrFaulted (p := p) hl
    exact ⟨⟨same.drafts l h.1, h.2.imp keep.1 keep.2⟩, fun h => keep.2 (h.resolve_left hl)⟩

/-- One step of a list of stops. -/
theorem State.RunsOrFaulted.stopStep {s : State} {l unit : Nat} {p : Nat → Prop} (h : s.RunsOrFaulted l p)
    (hp : p unit) (m : Nat) :
    let t := if (s.launch m).phase == .ended then s else s.stopLaunch m lsFaulted false unit
    t.RunsOrFaulted l p ∧ (m = l ∨ s.Faulted l p → t.Faulted l p) := by
  dsimp only
  have stop := h.stopLaunch hp m
  split
  · next he =>
    refine ⟨h, fun hf => hf.elim (fun hm => ?_) id⟩
    subst hm
    exact h.2.resolve_left fun hr => hr.1 (by simpa using he)
  · refine ⟨stop.1, fun hf => stop.2 (hf.elim (fun hm => ?_) .inr)⟩
    subst hm
    exact h.2.imp (fun hr => State.mem_family_self hr.1 hr.2.1) id

/-- After the stops of a list of launches for a failed unit, a launch of the list has ended FAULTED, and so has one
that had before. -/
theorem State.RunsOrFaulted.stopAll {s : State} {l unit : Nat} {p : Nat → Prop} (h : s.RunsOrFaulted l p)
    (hp : p unit) (ls : List Nat) : (s.stopAll ls unit).RunsOrFaulted l p ∧
      (l ∈ ls ∨ s.Faulted l p → (s.stopAll ls unit).Faulted l p) := by
  induction ls generalizing s with
  | nil => exact ⟨h, fun hf => hf.elim (fun hl => absurd hl List.not_mem_nil) id⟩
  | cons m r ih =>
    have one := h.stopStep hp m
    have rest := ih one.1
    refine ⟨rest.1, fun hf => rest.2 ?_⟩
    rcases hf with hf | hf
    · exact (List.mem_cons.1 hf).symm.imp_right fun hm => one.2 (.inl hm.symm)
    · exact .inr (one.2 (.inr hf))

theorem sameUnits_stopAll (s : State) (ls : List Nat) (unit : Nat) : SameUnits s (s.stopAll ls unit) :=
  (SameBut.foldl (p := fun _ => True) s fun a m _ => .ite (.refl _ a)
    ((sameBut_stopLaunch a m lsFaulted false unit).mono fun _ _ => trivial)).toSameUnits

end Sys2Proof.Machine
end

section
/-! SUPPORT. Routes of packets and the maps of R38 once they are rewritten. -/

namespace Sys2Proof.Machine

/-! ### Routes and maps -/

/-- Only paths and maps have changed: the homes, the copies, the groups and the Stag are as before. -/
structure OnlyRoutes (s t : State) : Prop extends OnlyTraffic s t where
  stag : t.stag = s.stag
  groups : t.groups = s.groups
  home : t.mem.home = s.mem.home
  l1 : t.mem.l1 = s.mem.l1

namespace OnlyRoutes

theorem refl (s : State) : OnlyRoutes s s := ⟨.refl s, rfl, rfl, rfl, rfl⟩

theorem trans {s t u : State} (h : OnlyRoutes s t) (h' : OnlyRoutes t u) : OnlyRoutes s u :=
  ⟨h.toOnlyTraffic.trans h'.toOnlyTraffic, h'.stag.trans h.stag, h'.groups.trans h.groups, h'.home.trans h.home,
    h'.l1.trans h.l1⟩

theorem foldl {α : Type} {f : State → α → State} (h : ∀ s a, OnlyRoutes s (f s a)) (l : List α) (s : State) :
    OnlyRoutes s (l.foldl f s) :=
  List.foldlRecOn l f (motive := OnlyRoutes s) (refl s) fun b hb a _ => hb.trans (h b a)

theorem table {s t : State} (h : OnlyRoutes s t) (k : Nat) : t.table k = s.table k := by
  rw [State.table, h.tables, ← State.table]

end OnlyRoutes

theorem onlyRoutes_choosePath (s : State) (a b : Nat) : OnlyRoutes s (s.choosePath a b).1 := by
  refine ⟨onlyTraffic_choosePath s a b, ?_, ?_, ?_, ?_⟩ <;> unfold State.choosePath <;> split <;> rfl

theorem onlyRoutes_resend (s : State) : OnlyRoutes s s.resend := by
  have num (t : State) (n : Nat) : OnlyRoutes t { t with nextId := n } :=
    ⟨by constructor <;> rfl, rfl, rfl, rfl, rfl⟩
  have write (t : State) (w : PWrite) : OnlyRoutes t (t.setWrite w) := ⟨by constructor <;> rfl, rfl, rfl, rfl, rfl⟩
  have flow (t : State) (f : Flow) : OnlyRoutes t (t.setFlow f) := ⟨by constructor <;> rfl, rfl, rfl, rfl, rfl⟩
  have fix (a b : State) (src dst path : Nat) (p : Option (Nat × Nat))
      (h : (if a.pathLive src dst path then (a, none) else
        ({ (a.choosePath src dst).1 with nextId := (a.choosePath src dst).1.nextId + 1 },
          some ((a.choosePath src dst).2, (a.choosePath src dst).1.nextId))) = (b, p)) : OnlyRoutes a b := by
    split at h
    · exact (Prod.mk.inj h).1 ▸ .refl a
    · exact (Prod.mk.inj h).1 ▸ (onlyRoutes_choosePath a src dst).trans (num _ _)
  unfold State.resend
  refine OnlyRoutes.trans (.foldl (fun a w => ?_) _ s) (.foldl (fun a f => .foldl (fun b c => ?_) _ a) _ _)
  · split
    · split
      · split
        · next h => exact (fix _ _ _ _ _ _ h).trans (write _ _)
        · next h => exact fix _ _ _ _ _ _ h
      · exact .refl a
    · exact .refl a
  · split
    · next h => exact (fix _ _ _ _ _ _ h).trans (flow _ _)
    · next h => exact fix _ _ _ _ _ _ h

/-- One entry of a home map after a rewrite of another or of itself. -/
theorem mapEntry_rewritten (s : State) (m i n map j : Nat) :
    (s.modMem fun x => { x with homeMap := aput x.homeMap (4096 * m + i) n }).mapEntry map j =
      if 4096 * map + j = 4096 * m + i then n else s.mapEntry map j := by
  simp only [State.mapEntry, State.modMem, aget_aput]
  split <;> rfl

/-- A channel that firmware chooses in a stack is live (R38). -/
theorem spareIn_live {s : State} {stack i n : Nat} (h : s.spareIn stack i = some n) : s.channelLive n = true :=
  List.find?_some h

/-- A channel that firmware chooses is live (R38). -/
theorem spareFor_live {s : State} {stks : List Nat} {stack i n : Nat} (h : s.spareFor stks stack i = some n) :
    s.channelLive n = true := by
  unfold State.spareFor at h
  split at h
  · next c hc => exact spareIn_live ((Option.some.inj h) ▸ hc)
  · obtain ⟨x, -, hx⟩ := List.exists_of_findSome?_eq_some h
    exact spareIn_live hx

/-- A stack with a live channel has one that firmware can choose. -/
theorem spareIn_isSome {s : State} {c : Nat} (i : Nat) (h : s.channelLive c = true) :
    (s.spareIn (c / 64) i).isSome = true := by
  refine List.find?_isSome.2 ⟨c, List.mem_map.2 ⟨(c % 64 + 64 - (Config.spareChannel (c / 64) i).val % 64) % 64, ?_, ?_⟩, h⟩
  · exact List.mem_range.2 (Nat.mod_lt _ (by decide))
  · omega

/-- A module with a live channel has one that firmware can choose for any entry of the module's map. -/
theorem spareFor_isSome {s : State} {c : Nat} (hc : c < 768) (h : s.channelLive c = true) (stack i : Nat) :
    (s.spareFor (List.range 12) stack i).isSome = true := by
  unfold State.spareFor
  split
  · rfl
  · next hn =>
    have hs : c / 64 ≠ stack := fun he => by
      have := spareIn_isSome i h
      rw [he, hn] at this
      exact absurd this (by decide)
    refine List.findSome?_isSome_iff.2 ⟨c / 64, ?_, spareIn_isSome i h⟩
    simp only [List.mem_filter, List.mem_append, List.mem_range, bne_iff_ne, decide_eq_true_eq]
    omega

/-- The step of a map's rewriting at one entry. -/
def State.rewriteEntry (s : State) (stks : List Nat) (map i : Nat) : State :=
  let c := s.mapEntry map i
  if s.channelLive c then s
  else
    match s.spareFor stks (c / 64) i with
    | some n => s.modMem fun m => { m with homeMap := aput m.homeMap (4096 * map + i) n }
    | none => s

theorem rewriteMap_eq (s : State) (map : Nat) : s.rewriteMap map = (List.range 4096).foldl
    (fun a i => a.rewriteEntry (if map = 0 then List.range 12 else (List.range 3).map fun i => 3 * (map - 1) + i) map i) s :=
  rfl

theorem onlyRoutes_rewriteEntry (s : State) (stks : List Nat) (map i : Nat) :
    OnlyRoutes s (s.rewriteEntry stks map i) := by
  unfold State.rewriteEntry
  dsimp only
  split
  · exact .refl s
  · split
    · exact ⟨onlyTraffic_modMem s _, rfl, rfl, rfl, rfl⟩
    · exact .refl s

theorem OnlyRoutes.channelLive {s t : State} (h : OnlyRoutes s t) (c : Nat) : t.channelLive c = s.channelLive c := by
  rw [State.channelLive, State.channel, h.channels, ← State.channel, ← State.channelLive]

/-- A rewriting of one entry leaves no entry that named a live channel without one. -/
theorem rewriteEntry_keeps {s : State} {map j : Nat} (h : s.channelLive (s.mapEntry map j) = true) (stks : List Nat)
    (m i : Nat) : (s.rewriteEntry stks m i).channelLive ((s.rewriteEntry stks m i).mapEntry map j) = true := by
  rw [(onlyRoutes_rewriteEntry s stks m i).channelLive]
  unfold State.rewriteEntry
  dsimp only
  split
  · exact h
  · split
    · next n hn =>
      rw [mapEntry_rewritten]
      split
      · exact spareFor_live hn
      · exact h
    · exact h

/-- A rewriting of an entry of the module's map leaves it with a live channel, where there is one. -/
theorem rewriteEntry_live {s : State} {c : Nat} (hc : c < 768) (h : s.channelLive c = true) (i : Nat) :
    (s.rewriteEntry (List.range 12) 0 i).channelLive ((s.rewriteEntry (List.range 12) 0 i).mapEntry 0 i) = true := by
  rw [(onlyRoutes_rewriteEntry s _ 0 i).channelLive]
  unfold State.rewriteEntry
  dsimp only
  split
  · next hl => exact hl
  · obtain ⟨n, hn⟩ := Option.isSome_iff_exists.1 (spareFor_isSome hc h (s.mapEntry 0 i / 64) i)
    rw [hn]
    dsimp only
    rw [mapEntry_rewritten, if_pos rfl]
    exact spareFor_live hn

theorem rewriteEntries_keep {s : State} {map j : Nat} (h : s.channelLive (s.mapEntry map j) = true) (stks is : List Nat)
    (m : Nat) : let t := is.foldl (fun a i => a.rewriteEntry stks m i) s
    t.channelLive (t.mapEntry map j) = true :=
  List.foldlRecOn is _ (motive := fun t : State => t.channelLive (t.mapEntry map j) = true) h
    fun _ hb i _ => rewriteEntry_keeps hb stks m i

/-- Each entry of a list of entries of the module's map names a live channel once they are rewritten. -/
theorem rewriteEntries_live {c : Nat} (hc : c < 768) {is : List Nat} {i : Nat} (hi : i ∈ is) {s : State}
    (h : s.channelLive c = true) : let t := is.foldl (fun a i => a.rewriteEntry (List.range 12) 0 i) s
    t.channelLive (t.mapEntry 0 i) = true := by
  induction is generalizing s with
  | nil => exact absurd hi List.not_mem_nil
  | cons j r ih =>
    rcases List.mem_cons.1 hi with rfl | hi
    · exact rewriteEntries_keep (rewriteEntry_live hc h i) _ r 0
    · exact ih hi (((onlyRoutes_rewriteEntry s _ 0 j).channelLive c).trans h)

theorem onlyRoutes_rewriteMap (s : State) (map : Nat) : OnlyRoutes s (s.rewriteMap map) := by
  rw [rewriteMap_eq]
  exact .foldl (fun a i => onlyRoutes_rewriteEntry a _ map i) _ s

/-- Only routes have changed, and no home map. -/
def OnlyChannelMaps (s t : State) : Prop := OnlyRoutes s t ∧ t.mem.homeMap = s.mem.homeMap

theorem OnlyChannelMaps.foldl {α : Type} {f : State → α → State} (h : ∀ s a, OnlyChannelMaps s (f s a)) (l : List α)
    (s : State) : OnlyChannelMaps s (l.foldl f s) :=
  List.foldlRecOn l f (motive := OnlyChannelMaps s) ⟨.refl s, rfl⟩ fun b hb a _ =>
    ⟨hb.1.trans (h b a).1, (h b a).2.trans hb.2⟩

theorem OnlyChannelMaps.mapEntry {s t : State} (h : OnlyChannelMaps s t) (map i : Nat) :
    t.mapEntry map i = s.mapEntry map i := by
  unfold State.mapEntry
  rw [h.2]

/-- A stack's channel map is no home map. -/
theorem onlyChannelMaps_rewriteChannels (s : State) (stack : Nat) : OnlyChannelMaps s (s.rewriteChannels stack) := by
  refine .foldl (fun a i => ?_) _ s
  split
  · exact ⟨.refl a, rfl⟩
  · split
    · exact ⟨⟨onlyTraffic_modMem a _, rfl, rfl, rfl, rfl⟩, rfl⟩
    · exact ⟨.refl a, rfl⟩

theorem onlyRoutes_rewriteMaps (s : State) : OnlyRoutes s s.rewriteMaps :=
  .trans (.foldl onlyRoutes_rewriteMap _ s) (OnlyChannelMaps.foldl onlyChannelMaps_rewriteChannels _ _).1

theorem rewriteMap_keeps {s : State} {map j : Nat} (h : s.channelLive (s.mapEntry map j) = true) (m : Nat) :
    (s.rewriteMap m).channelLive ((s.rewriteMap m).mapEntry map j) = true := by
  rw [rewriteMap_eq]
  exact rewriteEntries_keep h _ _ m

theorem rewriteMap_live {s : State} {c i : Nat} (hc : c < 768) (h : s.channelLive c = true) (hi : i < 4096) :
    (s.rewriteMap 0).channelLive ((s.rewriteMap 0).mapEntry 0 i) = true := by
  rw [rewriteMap_eq]
  exact rewriteEntries_live hc (List.mem_range.2 hi) h

theorem foldl_range_five {α : Type} (f : α → Nat → α) (a : α) :
    (List.range 5).foldl f a = f (f (f (f (f a 0) 1) 2) 3) 4 := rfl

/-- After the maps are rewritten each entry of the module's map names a live channel, where there is one (R38). -/
theorem rewriteMaps_live {s : State} {c i : Nat} (hc : c < 768) (h : s.channelLive c = true) (hi : i < 4096) :
    s.rewriteMaps.channelLive (s.rewriteMaps.mapEntry 0 i) = true := by
  have maps := rewriteMap_keeps (rewriteMap_keeps (rewriteMap_keeps (rewriteMap_keeps
    (rewriteMap_live hc h hi) 1) 2) 3) 4
  have hm := OnlyChannelMaps.foldl onlyChannelMaps_rewriteChannels (List.range 12)
    (((((s.rewriteMap 0).rewriteMap 1).rewriteMap 2).rewriteMap 3).rewriteMap 4)
  rw [State.rewriteMaps, foldl_range_five, hm.mapEntry]
  exact (hm.1.channelLive _).trans maps

end Sys2Proof.Machine
end

section
/-! SUPPORT. The steps of a part fault (R336, R337). -/

namespace Sys2Proof.Machine

/-! ### What a part fault takes away (R336, R337) -/

/-- Launches, channels, units and the event log are as before. -/
structure KeepsUnits (s t : State) : Prop where
  launches : t.launches = s.launches
  channels : t.channels = s.channels
  dies : t.dies = s.dies
  cores : t.cores = s.cores
  links : t.links = s.links
  log : t.stag.log = s.stag.log

namespace KeepsUnits

theorem refl (s : State) : KeepsUnits s s := by constructor <;> rfl

theorem trans {s t u : State} (h : KeepsUnits s t) (h' : KeepsUnits t u) : KeepsUnits s u :=
  ⟨h'.launches.trans h.launches, h'.channels.trans h.channels, h'.dies.trans h.dies, h'.cores.trans h.cores,
    h'.links.trans h.links, h'.log.trans h.log⟩

theorem foldl {α : Type} {f : State → α → State} (h : ∀ s a, KeepsUnits s (f s a)) (l : List α) (s : State) :
    KeepsUnits s (l.foldl f s) :=
  List.foldlRecOn l f (motive := KeepsUnits s) (refl s) fun b hb a _ => hb.trans (h b a)

end KeepsUnits

/-- A descriptor without VALID (R337). -/
def Table.revoked (t : Table) : Table := { t with dw := setAt t.dw 0 (withField (t.d 0) 40 1 0) }

theorem flag_withField_zero (x : W64) : flag (withField x 40 1 0) 40 = false := by
  have := x.isLt
  simp only [flag, withField, field, BitVec.toNat_ofNat, beq_eq_false_iff_ne]
  omega

theorem Table.revoked_valid (t : Table) : t.revoked.valid = false := by
  unfold Table.valid Table.revoked Table.d
  cases t.dw with
  | nil => exact (by decide : flag 0 40 = false)
  | cons x r => exact flag_withField_zero x

/-- A descriptor's loss of VALID changes tables and redirects alone. -/
theorem invalidate_spec (s : State) (tids : List Nat) :
    KeepsUnits s (s.invalidate tids) ∧ (s.invalidate tids).mem.l1 = s.mem.l1 ∧
      ∀ tid ∈ tids, ((s.invalidate tids).table tid).valid = false := by
  refine ⟨.foldl (fun a t => by constructor <;> rfl) _ s, ?_, ?_⟩
  · exact List.foldlRecOn tids _ (motive := fun t : State => t.mem.l1 = s.mem.l1) rfl fun _ hb _ _ => hb
  · induction tids using List.reverseRecOn with
    | nil => exact fun _ h => absurd h List.not_mem_nil
    | append_singleton r x ih =>
      intro tid ht
      have step : (s.invalidate (r ++ [x])).table tid =
          ((s.invalidate r).setTable x ((s.invalidate r).table x).revoked).table tid := by
        rw [State.invalidate, List.foldl_append]
        rfl
      rw [step, State.table_setTable]
      split
      · exact Table.revoked_valid _
      · next h => exact ih tid ((List.mem_append.1 ht).resolve_right fun h' => h (List.mem_singleton.1 h'))

/-- The copies of failed dies are gone. -/
theorem loseDies_spec (s : State) (ds : List Nat) : KeepsUnits s (ds.foldl State.loseDie s) ∧
    ∀ d ∈ ds, ∀ e ∈ (ds.foldl State.loseDie s).mem.l1, dieOfCluster (ownerOfCopy e.1) ≠ d := by
  refine ⟨.foldl (fun a d => by constructor <;> rfl) _ s, ?_⟩
  induction ds using List.reverseRecOn with
  | nil => exact fun _ h => absurd h List.not_mem_nil
  | append_singleton r x ih =>
    intro d hd e he
    rw [List.foldl_append] at he
    obtain ⟨he, hx⟩ := List.mem_filter.1 he
    rcases List.mem_append.1 hd with hd | hd
    · exact ih d hd e he
    · rw [List.mem_singleton.1 hd]
      simpa using hx

/-- The lost tables are in the module error log. -/
theorem logLost_spec (s : State) (tids : List Nat) :
    let t := tids.foldl (fun a t => a.logError (.tableLost t)) s
    KeepsUnits s t ∧ t.tables = s.tables ∧ t.mem = s.mem ∧ ∀ tid ∈ tids, .tableLost tid ∈ t.stag.errors := by
  refine ⟨.foldl (fun a d => by constructor <;> rfl) _ s, ?_, ?_, ?_⟩
  · exact List.foldlRecOn tids _ (motive := fun t : State => t.tables = s.tables) rfl fun _ hb _ _ => hb
  · exact List.foldlRecOn tids _ (motive := fun t : State => t.mem = s.mem) rfl fun _ hb _ _ => hb
  · induction tids using List.reverseRecOn with
    | nil => exact fun _ h => absurd h List.not_mem_nil
    | append_singleton r x ih =>
      intro tid ht
      rw [List.foldl_append]
      refine List.mem_append.2 ?_
      rcases List.mem_append.1 ht with ht | ht
      · exact .inl (ih tid ht)
      · exact .inr (List.mem_singleton.2 (congrArg ErrLog.tableLost (List.mem_singleton.1 ht)))

/-- Channels retired one after the other. -/
theorem retire_all (f : Nat → Nat) (cs : List Nat) (s : State) :
    let t := cs.foldl (fun b c => b.setChannel (f c) { b.channel (f c) with retired := true }) s
    (∃ x, t = { s with channels := x }) ∧ (∀ k, (s.channel k).retired = true → (t.channel k).retired = true) ∧
      ∀ c ∈ cs, (t.channel (f c)).retired = true := by
  induction cs generalizing s with
  | nil => exact ⟨⟨_, rfl⟩, fun _ h => h, fun _ h => absurd h List.not_mem_nil⟩
  | cons c r ih =>
    obtain ⟨⟨x, hx⟩, keep, all⟩ := ih (s.setChannel (f c) { s.channel (f c) with retired := true })
    refine ⟨⟨x, hx⟩, fun k hk => keep k ?_, fun k hk => ?_⟩
    · rw [State.channel_setChannel]
      split
      · rfl
      · exact hk
    · rcases List.mem_cons.1 hk with rfl | hk
      · exact keep _ (by rw [State.channel_setChannel, if_pos rfl])
      · exact all k hk

/-- The channels of one stack are gone. -/
def State.loseStack (s : State) (k : Nat) : State :=
  (List.range 64).foldl (fun b c => b.setChannel (64 * k + c) { b.channel (64 * k + c) with retired := true }) s

theorem loseStacks_eq (s : State) (ks : List Nat) : s.loseStacks ks = ks.foldl State.loseStack s := rfl

/-- The channels of lost stacks are retired, and nothing else is changed. -/
theorem loseStacks_spec (s : State) (ks : List Nat) : (∃ x, s.loseStacks ks = { s with channels := x }) ∧
    (∀ c, (s.channel c).retired = true → ((s.loseStacks ks).channel c).retired = true) ∧
      ∀ k ∈ ks, ∀ c < 64, ((s.loseStacks ks).channel (64 * k + c)).retired = true := by
  rw [loseStacks_eq]
  induction ks generalizing s with
  | nil => exact ⟨⟨_, rfl⟩, fun _ h => h, fun _ h => absurd h List.not_mem_nil⟩
  | cons k r ih =>
    obtain ⟨⟨y, hy⟩, keepOne, one⟩ := retire_all (64 * k + ·) (List.range 64) s
    obtain ⟨⟨x, hx⟩, keep, all⟩ := ih (s.loseStack k)
    rw [List.foldl_cons]
    refine ⟨⟨x, hx.trans ?_⟩, fun c hc => keep c (keepOne c hc), fun j hj c hc => ?_⟩
    · rw [State.loseStack, hy]
    · rcases List.mem_cons.1 hj with rfl | hj
      · exact keep _ (one c (List.mem_range.2 hc))
      · exact all j hj c hc

/-- So many measurements of retirements have been added to the event log, in register 6 (R318). -/
def State.Measured (s t : State) (n : Nat) : Prop :=
  ∃ es, t.stag.log = s.stag.log ++ es ∧ es.length = n ∧ ∀ e ∈ es, e.midx = 6

theorem State.measured_measure (s : State) (data : List Byte) : s.Measured (s.measure 6 data) 1 :=
  ⟨_, rfl, rfl, fun e he => by rw [List.mem_singleton.1 he]⟩

theorem State.measured_of_log {s t : State} (h : t.stag.log = s.stag.log) : s.Measured t 0 :=
  ⟨[], by rw [h, List.append_nil], rfl, fun _ h => absurd h List.not_mem_nil⟩

theorem State.Measured.add {s t u : State} {n m : Nat} (h : s.Measured t n) (h' : t.Measured u m) :
    s.Measured u (n + m) := by
  obtain ⟨es, hlog, hlen, hidx⟩ := h
  obtain ⟨fs, hlog', hlen', hidx'⟩ := h'
  refine ⟨es ++ fs, by rw [hlog', hlog, List.append_assoc], by rw [List.length_append, hlen, hlen'], fun e he => ?_⟩
  exact (List.mem_append.1 he).elim (hidx e) (hidx' e)

/-- What a loss is told by is as before: launches, tables, copies, dies, cores and the module error log. -/
structure SameLoss (s t : State) : Prop where
  launches : t.launches = s.launches
  tables : t.tables = s.tables
  l1 : t.mem.l1 = s.mem.l1
  dies : t.dies = s.dies
  cores : t.cores = s.cores
  errors : t.stag.errors = s.stag.errors

theorem sameLoss_measure (s : State) (data : List Byte) : SameLoss s (s.measure 6 data) := by constructor <;> rfl

/-- What the steps of R336 and R337 have done once a unit is marked as failed. -/
structure PartLost (s : State) (x : Loss) (unit : Nat) (t : State) : Prop where
  cores : t.cores = s.cores
  failed : ∀ d, (t.die d).failed = (s.die d).failed
  tables : ∀ tid ∈ x.tables, (t.table tid).valid = false ∧ .tableLost tid ∈ t.stag.errors
  copies : ∀ d ∈ x.dies, ∀ e ∈ t.mem.l1, dieOfCluster (ownerOfCopy e.1) ≠ d
  faulted : ∀ l, s.Runs l → s.affected x l = true → t.Faulted l (· = unit)

theorem PartLost.of_same {s t u : State} {x : Loss} {unit : Nat} (h : PartLost s x unit t) (hu : SameLoss t u) :
    PartLost s x unit u where
  cores := hu.cores.trans h.cores
  failed d := by rw [State.die, hu.dies, ← State.die, h.failed]
  tables tid ht := by rw [State.table, hu.tables, ← State.table, hu.errors]; exact h.tables tid ht
  copies d hd := by rw [hu.l1]; exact h.copies d hd
  faulted l hl ha := by
    unfold State.Faulted State.launch
    rw [hu.launches]
    exact h.faulted l hl ha

/-- The steps of R336 and R337 up to the loss of the stacks. -/
def State.loseParts (s : State) (x : Loss) (unit : Nat) : State :=
  x.tables.foldl (fun a t => a.logError (.tableLost t))
    ((x.dies.foldl State.loseDie (s.stopAll ((akeys s.launches).filter (s.affected x)) unit)).invalidate x.tables)

theorem partFault_eq (s : State) (x : Loss) (unit : Nat) : s.partFault x unit =
    if x.stks.isEmpty then s.loseParts x unit
    else ((s.loseParts x unit).loseStacks x.stks).rewriteMaps.measure 6
      ((s.loseParts x unit).loseStacks x.stks).rewriteMaps.liveMap := rfl

theorem loseParts_spec (s : State) (x : Loss) (unit : Nat) : PartLost s x unit (s.loseParts x unit) ∧
    (s.loseParts x unit).stag.log = s.stag.log ∧ (s.loseParts x unit).links = s.links := by
  let ls := (akeys s.launches).filter (s.affected x)
  have units := sameUnits_stopAll s ls unit
  obtain ⟨keep1, copies⟩ := loseDies_spec (s.stopAll ls unit) x.dies
  obtain ⟨keep2, l1, invalid⟩ := invalidate_spec (x.dies.foldl State.loseDie (s.stopAll ls unit)) x.tables
  obtain ⟨keep3, tables, mem, logged⟩ :=
    logLost_spec ((x.dies.foldl State.loseDie (s.stopAll ls unit)).invalidate x.tables) x.tables
  have keep : KeepsUnits _ (s.loseParts x unit) := (keep1.trans keep2).trans keep3
  refine ⟨⟨keep.cores.trans units.cores, fun d => ?_, fun tid ht => ⟨?_, logged tid ht⟩, fun d hd => ?_,
    fun l hl ha => ?_⟩, keep.log.trans units.log, keep.links.trans units.links⟩
  · rw [State.die, keep.dies]
    exact units.failed d
  · rw [State.loseParts, State.table, tables]
    exact invalid tid ht
  · rw [State.loseParts, mem, l1]
    exact copies d hd
  · unfold State.Faulted State.launch
    rw [keep.launches]
    have listed : l ∈ ls := List.mem_filter.2 ⟨List.mem_map_of_mem (f := (·.1)) (State.launch_listed hl.1), ha⟩
    exact ((hl.orFaulted (· = unit)).stopAll (unit := unit) rfl ls).2 (.inl listed)

/-- A part fault is done: its loss is taken, so many measurements are made (R318), and the channels of the failed
stacks are retired. -/
structure PartDone (s : State) (x : Loss) (unit n : Nat) (t : State) : Prop extends PartLost s x unit t where
  links : t.links = s.links
  measured : s.Measured t n
  dead : ∀ k ∈ x.stks, ∀ c < 64, (t.channel (64 * k + c)).retired = true

/-- The loss of stacks and the maps rewritten after it. -/
theorem partDone_of_maps {s p u : State} {x : Loss} {unit : Nat} (lost : PartLost s x unit p)
    (log : p.stag.log = s.stag.log) (links : p.links = s.links) (maps : OnlyRoutes (p.loseStacks x.stks) u)
    (data : List Byte) : PartDone s x unit 1 (u.measure 6 data) := by
  obtain ⟨⟨cs, hcs⟩, -, dead⟩ := loseStacks_spec p x.stks
  rw [hcs] at maps dead
  have same : SameLoss p u :=
    ⟨maps.launches, maps.tables, maps.l1, maps.dies, maps.cores, congrArg Stag.errors maps.stag⟩
  have measured := State.measured_of_log (maps.log.trans log)
  refine ⟨(lost.of_same same).of_same (sameLoss_measure u _), maps.links.trans links,
    measured.add (u.measured_measure _), fun k hk c hc => ?_⟩
  have h := dead k hk c hc
  rwa [State.channel, ← maps.channels] at h

theorem partFault_of_no_stacks {s : State} {x : Loss} (unit : Nat) (h : x.stks = []) :
    PartDone s x unit 0 (s.partFault x unit) := by
  obtain ⟨lost, log, links⟩ := loseParts_spec s x unit
  rw [partFault_eq, if_pos (by rw [h]; rfl)]
  exact ⟨lost, links, State.measured_of_log log, fun k hk => absurd (h ▸ hk) List.not_mem_nil⟩

theorem partFault_of_stacks {s : State} {x : Loss} (unit : Nat) (h : x.stks ≠ []) :
    PartDone s x unit 1 (s.partFault x unit) := by
  obtain ⟨lost, log, links⟩ := loseParts_spec s x unit
  rw [partFault_eq, if_neg (by rwa [List.isEmpty_iff])]
  exact partDone_of_maps lost log links (onlyRoutes_rewriteMaps _) _

end Sys2Proof.Machine
end

section
/-! SUPPORT. Failed dies, stacks, links and cores. -/

namespace Sys2Proof.Machine

/-! ### The events of failed units -/

/-- The launches that a part fault reaches (R336 step 2). -/
theorem State.Runs.affected {s : State} {l : Nat} {x : Loss} (h : s.Runs l)
    (hx : s.runsOn l x = true ∨
      ((s.launch l).phase ≠ .accepted ∧ 2 ≤ (s.launch l).dies.length ∧ s.connected (s.launch l).dies = false) ∨
      (∃ g ∈ (s.launch l).grants, g.1 ∈ x.tables) ∨ (s.launch l).rectHit x.dies = true) : s.affected x l = true := by
  obtain ⟨he, hn, -⟩ := h
  simp only [State.affected, Bool.and_eq_true, Bool.or_eq_true, bne_iff_ne, ne_eq, he, hn, not_false_eq_true, true_and,
    decide_eq_true_eq, Bool.not_eq_true', List.any_eq_true, List.contains_iff_mem]
  rcases hx with hx | ⟨ha, hl, hc⟩ | hg | hr
  · exact .inl (.inl (.inl (.inl hx)))
  · exact .inl (.inl (.inl (.inr ⟨⟨ha, hl⟩, hc⟩)))
  · exact .inl (.inl (.inr hg))
  · exact .inr hr

theorem Launch.rectHit_of_dispatched {x : Launch} {d : Nat} (h : x.phase ≠ .accepted) (hd : d ∈ x.dies) :
    x.rectHit [d] = true := by
  simp only [Launch.rectHit, beq_iff_eq, h, if_false, List.any_eq_true]
  exact ⟨d, hd, by simp⟩

theorem mem_insNum {l : List Nat} {x y : Nat} : y ∈ insNum l x ↔ y = x ∨ y ∈ l := by
  induction l with
  | nil => simp [insNum]
  | cons a r ih =>
    unfold insNum
    split
    · next h => simp [h]
    · split
      · simp
      · simp only [List.mem_cons, ih]
        tauto

theorem mem_foldl_insNum {xs l : List Nat} {y : Nat} : y ∈ xs.foldl insNum l ↔ y ∈ xs ∨ y ∈ l := by
  induction xs generalizing l with
  | nil => simp
  | cons x r ih =>
    rw [List.foldl_cons, ih, mem_insNum, List.mem_cons]
    tauto

/-- Links lost: they are marked, and of the rest only the paths of packets have changed. -/
theorem loseLinks_spec (s : State) (ks : List Nat) :
    OnlyRoutes { s with links := ks.foldl insNum s.links } (s.loseLinks ks) ∧
      ∀ k ∈ ks, k ∈ (s.loseLinks ks).links := by
  have h := onlyRoutes_resend { s with links := ks.foldl insNum s.links }
  refine ⟨h, fun k hk => ?_⟩
  rw [State.loseLinks, h.links]
  exact mem_foldl_insNum.2 (.inl hk)

/-- The failed unit's tables have lost VALID and stand in the error log, and every launch with a grant on one has
ended FAULTED (R337). -/
def State.Lost (s t : State) (l : Nat) (ks : List Nat) (unit : Nat) : Prop :=
  (∀ tid ∈ s.lostTables ks, (t.table tid).valid = false ∧ .tableLost tid ∈ t.stag.errors) ∧
    (s.Runs l → (∃ g ∈ (s.launch l).grants, g.1 ∈ s.lostTables ks) → t.Faulted l (· = unit))

theorem PartLost.lost {s t : State} {x : Loss} {unit : Nat} {ks : List Nat} (h : PartLost s x unit t)
    (hx : x.tables = s.lostTables ks) (l : Nat) : s.Lost t l ks unit :=
  ⟨fun tid ht => h.tables tid (hx ▸ ht), fun hl hg => h.faulted l hl (hl.affected (.inr (.inr (.inl (hx ▸ hg)))))⟩

/-- The channels of a stack are retired. -/
def State.DeadStack (t : State) (k : Nat) : Prop := ∀ c < 64, (t.channel (64 * k + c)).retired = true

/-- Which tables a loss of stacks reaches depends on the directory and on memory alone. -/
theorem lostTables_congr {s t : State} (h : t.tables = s.tables) (h' : t.mem = s.mem) (ks : List Nat) :
    t.lostTables ks = s.lostTables ks := by
  unfold State.lostTables State.onStack State.unitChannel State.chanEntry State.table
  rw [h, h']

/-- The loss is told from a state with the same launches, tables and memory. -/
theorem State.Lost.of_marked {s s' t : State} {l unit : Nat} {ks : List Nat} (h : s'.Lost t l ks unit)
    (hl : s'.launches = s.launches) (ht : s'.tables = s.tables) (hm : s'.mem = s.mem) : s.Lost t l ks unit := by
  unfold State.Lost State.Runs State.launch State.draftsOf at h
  rw [lostTables_congr ht hm, hl, ht] at h
  exact h

/-- A die marked as failed and measured. -/
def State.markDie (s : State) (d : Nat) : State :=
  (s.modDie d fun x => { x with failed := true }).measure 6 [BitVec.ofNat 8 (unitCode .die), BitVec.ofNat 8 d]

/-- What the failure of a die takes away. -/
def State.dieLoss (s : State) (d : Nat) : Loss :=
  ⟨[d], [], [3 * d, 3 * d + 1, 3 * d + 2], s.lostTables [3 * d, 3 * d + 1, 3 * d + 2]⟩

theorem failDie_eq {s : State} {d : Nat} (h4 : d < 4) (hf : (s.die d).failed = false) :
    s.failDie d = ((s.markDie d).partFault ((s.markDie d).dieLoss d) d).loseLinks (dieLinks d) := by
  rw [State.failDie, if_neg (by simp [hf, h4])]
  rfl

/-- What the failure of a die leaves (R336), with `l` a launch. -/
structure DieLost (s : State) (d l : Nat) (t : State) : Prop where
  failed : (t.die d).failed = true
  measured : s.Measured t 2
  dead : ∀ k ∈ [3 * d, 3 * d + 1, 3 * d + 2], t.DeadStack k
  lost : s.Lost t l [3 * d, 3 * d + 1, 3 * d + 2] d
  links : ∀ k ∈ dieLinks d, k ∈ t.links
  copies : ∀ e ∈ t.mem.l1, dieOfCluster (ownerOfCopy e.1) ≠ d
  faulted : s.Runs l → (s.launch l).phase ≠ .accepted → d ∈ (s.launch l).dies → t.Faulted l (· = d)

theorem dieLost_of_partDone {s p : State} {d : Nat} (l : Nat)
    (done : PartDone (s.markDie d) ((s.markDie d).dieLoss d) d 1 p) : DieLost s d l (p.loseLinks (dieLinks d)) := by
  obtain ⟨routes, links⟩ := loseLinks_spec p (dieLinks d)
  have lost := done.toPartLost.of_same (u := p.loseLinks (dieLinks d))
    ⟨routes.launches, routes.tables, routes.l1, routes.dies, routes.cores, congrArg Stag.errors routes.stag⟩
  have first : s.Measured (s.markDie d) 1 := State.measured_measure (s.modDie d _) _
  have mark : ((s.markDie d).die d).failed = true := by
    have h := State.die_modDie s d d fun x => { x with failed := true }
    rw [if_pos rfl] at h
    exact congrArg Die.failed h
  refine ⟨(lost.failed d).trans mark, (first.add done.measured).add (State.measured_of_log routes.log), fun k hk c hc => ?_,
    (lost.lost rfl l).of_marked rfl rfl rfl, links, lost.copies d (List.mem_singleton.2 rfl), fun hl ha hd => ?_⟩
  · rw [State.channel, routes.channels]
    exact done.dead k hk c hc
  · exact lost.faulted l hl (State.Runs.affected hl (.inr (.inr (.inr (Launch.rectHit_of_dispatched ha hd)))))

theorem failDie_dieLost {s : State} {d : Nat} (l : Nat) (h4 : d < 4) (hf : (s.die d).failed = false) :
    DieLost s d l (s.failDie d) := by
  rw [failDie_eq h4 hf]
  exact dieLost_of_partDone l (partFault_of_stacks d (List.cons_ne_nil _ _))

/-- A failed unit measured. -/
def State.noteUnit (s : State) (kind : UnitKind) (n : Nat) : State :=
  s.measure 6 [BitVec.ofNat 8 (unitCode kind), BitVec.ofNat 8 n, BitVec.ofNat 8 (n / 256)]

theorem exec_stackFailure {s : State} {n : Nat} (h : n < 12) (hs : s.stackLive n = true) :
    exec (.unitFailure .stack n) s = .next ((s.noteUnit .stack n).partFault
      ⟨[], [], [n], (s.noteUnit .stack n).lostTables [n]⟩ n) :=
  congrArg Host.Outcome.next (if_neg (by simp [hs, h]))

theorem exec_linkFailure {s : State} {n : Nat} (h : n < 20) (hs : n ∉ s.links) :
    exec (.unitFailure .link n) s =
      .next (((s.noteUnit .link n).loseLinks [n]).partFault ⟨[], [], [], []⟩ n) :=
  congrArg Host.Outcome.next (if_neg (by simp [hs, h]))

theorem exec_coreFailure {s : State} {n : Nat} (h : n < 640) (hs : (s.core n).retired = false) :
    exec (.unitFailure .core n) s = .next (((s.noteUnit .core n).modCore n fun c => { c with retired := true }).partFault
      ⟨[], [n], [], []⟩ (dieOfCore n)) :=
  congrArg Host.Outcome.next (if_neg (by simp [hs, h]))

/-- R337: a failed stack. -/
theorem unitFailure_stack {s : State} {d : Nat} (l : Nat) (h12 : d < 12) (hs : s.stackLive d = true) :
    Gives (.unitFailure .stack d) s fun t => s.Measured t 2 ∧ t.DeadStack d ∧ s.Lost t l [d] d := by
  refine ⟨_, exec_stackFailure h12 hs, ?_⟩
  have first : s.Measured (s.noteUnit .stack d) 1 := s.measured_measure _
  have done := partFault_of_stacks (s := s.noteUnit .stack d)
    (x := ⟨[], [], [d], (s.noteUnit .stack d).lostTables [d]⟩) d (List.cons_ne_nil _ _)
  exact ⟨first.add done.measured, done.dead d (List.mem_singleton.2 rfl), (done.lost rfl l).of_marked rfl rfl rfl⟩

theorem State.dieLive_congr {s t : State} (h : t.dies = s.dies) (d : Nat) : t.dieLive d = s.dieLive d := by
  unfold State.dieLive State.die
  rw [h]

/-- Whether dies are connected depends on the dies and links alone. -/
theorem connected_congr {s t : State} (hd : t.dies = s.dies) (hl : t.links = s.links) (ds : List Nat) :
    t.connected ds = s.connected ds := by
  have spread (n : Nat) (xs : List Nat) : t.spread n xs = s.spread n xs := by
    induction n generalizing xs with
    | zero => rfl
    | succ n ih => simp only [State.spread, ih, hl, State.dieLive_congr hd]
  unfold State.connected
  cases ds with
  | nil => rfl
  | cons d r => simp only [spread]

/-- A launch as it runs, told from a state with the same launches and tables. -/
theorem State.runs_congr {s t : State} (hl : t.launches = s.launches) (ht : t.tables = s.tables) (l : Nat) :
    t.Runs l ↔ s.Runs l := by
  unfold State.Runs State.launch State.draftsOf
  rw [hl, ht]

/-- R15, R170: a failed link. -/
theorem unitFailure_link {s : State} {d : Nat} (l : Nat) (h20 : d < 20) (hd : d ∉ s.links) :
    Gives (.unitFailure .link d) s fun t => s.Measured t 1 ∧ d ∈ t.links ∧
      (s.Runs l → (s.launch l).phase ≠ .accepted → 2 ≤ (s.launch l).dies.length →
        ({ s with links := insNum s.links d } : State).connected (s.launch l).dies = false →
          t.Faulted l (· = d)) := by
  refine ⟨_, exec_linkFailure h20 hd, ?_⟩
  have first : s.Measured (s.noteUnit .link d) 1 := s.measured_measure _
  obtain ⟨routes, links⟩ := loseLinks_spec (s.noteUnit .link d) [d]
  generalize (s.noteUnit .link d).loseLinks [d] = p at routes links ⊢
  have done := partFault_of_no_stacks (s := p) (x := ⟨[], [], [], []⟩) d rfl
  refine ⟨first.add ((State.measured_of_log routes.log).add done.measured), ?_, fun hl ha hn hc => ?_⟩
  · rw [done.links]
    exact links d (List.mem_singleton.2 rfl)
  · have launch : p.launch l = s.launch l := by rw [State.launch, routes.launches]; rfl
    refine done.faulted l ((State.runs_congr routes.launches routes.tables l).2 hl) (State.Runs.affected
      ((State.runs_congr routes.launches routes.tables l).2 hl) (.inr (.inl ?_)))
    rw [launch]
    exact ⟨ha, hn, (connected_congr routes.dies routes.links _).trans hc⟩

/-- A team that is resident is listed. -/
theorem State.team_listed {s : State} {k : Nat} (h : (s.team k).resident = true) : (k, s.team k) ∈ s.teams := by
  unfold State.team at h ⊢
  cases ht : aget s.teams k with
  | none => rw [ht] at h; exact absurd h (by decide)
  | some x => exact mem_of_aget ht

/-- R15, R336: a failed core. -/
theorem unitFailure_core {s : State} {d : Nat} (l : Nat) (h640 : d < 640) (hd : (s.core d).retired = false) :
    Gives (.unitFailure .core d) s fun t => s.Measured t 1 ∧ (t.core d).retired = true ∧
      ∀ tm, (s.team tm).resident = true → (s.team tm).core = d → launchOfTeam tm = l → s.Runs l →
        t.Faulted l (· = dieOfCore d) := by
  refine ⟨_, exec_coreFailure h640 hd, ?_⟩
  have first : s.Measured ((s.noteUnit .core d).modCore d fun c => { c with retired := true }) 1 := s.measured_measure _
  have done := partFault_of_no_stacks (s := (s.noteUnit .core d).modCore d fun c => { c with retired := true })
    (x := ⟨[], [d], [], []⟩) (dieOfCore d) rfl
  refine ⟨first.add done.measured, ?_, fun tm hr hc hl hrun => ?_⟩
  · rw [State.core, done.cores, State.modCore, aget_aput_self]
    rfl
  · refine done.faulted l hrun (State.Runs.affected (s := (s.noteUnit .core d).modCore d fun c => { c with retired := true })
      hrun (.inl ?_))
    simp only [State.runsOn, Bool.or_eq_true, List.any_eq_true]
    refine .inl ⟨_, State.team_listed (s := s) hr, ?_⟩
    simp [hr, hc, hl, State.descends]

end Sys2Proof.Machine
end

section
/-! The events of failures (O53). -/

namespace Sys2Proof.Machine

/-! ### Retired channels -/

/-- A channel retired, the maps rewritten and both measured (R38, R318). -/
def State.retireChannel (s : State) (ch : Nat) : State :=
  let t := (s.setChannel ch { s.channel ch with retired := true }).rewriteMaps
  (t.measure 6 [4, BitVec.ofNat 8 ch, BitVec.ofNat 8 (ch / 256)]).measure 6 t.liveMap

/-- What the retirement of a channel leaves. -/
structure ChannelRetired (s : State) (ch : Nat) (t : State) : Prop where
  retired : (t.channel ch).retired = true
  measured : s.Measured t 2
  home : t.mem.home = s.mem.home
  groups : t.groups = s.groups
  launches : t.launches = s.launches
  tables : t.tables = s.tables
  live : (∃ c < 768, c ≠ ch ∧ (s.channel c).retired = false) → ∀ i < 4096, t.channelLive (t.mapEntry 0 i) = true

theorem channelRetired_of_maps {s u : State} {ch : Nat}
    (maps : OnlyRoutes (s.setChannel ch { s.channel ch with retired := true }) u)
    (live : ∀ c < 768, (s.setChannel ch { s.channel ch with retired := true }).channelLive c = true → ∀ i < 4096,
      u.channelLive (u.mapEntry 0 i) = true) (a b : List Byte) :
    ChannelRetired s ch ((u.measure 6 a).measure 6 b) where
  retired := by
    have h := s.channel_setChannel ch ch { s.channel ch with retired := true }
    rw [if_pos rfl] at h
    have hu : u.channel ch = (s.setChannel ch { s.channel ch with retired := true }).channel ch := by
      rw [State.channel, maps.channels, ← State.channel]
    exact congrArg Channel.retired (hu.trans h)
  measured := ((State.measured_of_log maps.log).add (u.measured_measure a)).add (State.measured_measure _ b)
  home := maps.home
  groups := maps.groups
  launches := maps.launches
  tables := maps.tables
  live := fun ⟨c, hc, hne, hl⟩ i hi => live c hc (by
    rw [State.channelLive, State.channel_setChannel, if_neg hne, hl]
    rfl) i hi

theorem retireChannel_spec (s : State) (ch : Nat) : ChannelRetired s ch (s.retireChannel ch) :=
  channelRetired_of_maps (onlyRoutes_rewriteMaps _) (fun _ hc h _ hi => rewriteMaps_live hc h hi) _ _

theorem exec_retire_free {s : State} {ch : Nat} (h768 : ch < 768) (hr : (s.channel ch).retired = false)
    (hh : (s.channel ch).holder = none) : exec (.pseudoChannelRetire ch) s = .next (s.retireChannel ch) := by
  change execPseudoChannelRetire ch s = _
  rw [execPseudoChannelRetire, if_neg (by simp [hr, h768])]
  simp only [hh]
  rfl

theorem exec_retire_held {s : State} {ch l : Nat} (h768 : ch < 768) (hr : (s.channel ch).retired = false)
    (hh : (s.channel ch).holder = some l) :
    exec (.pseudoChannelRetire ch) s = .next (((s.leaveMode ch).retireChannel ch).stopAll [l] (ch / 64)) := by
  change execPseudoChannelRetire ch s = _
  rw [execPseudoChannelRetire, if_neg (by simp [hr, h768])]
  simp only [hh]
  rfl

/-- R38, R257: a channel retired while a launch holds it in broadcast mode. -/
theorem retire_held {s : State} {ch l : Nat} (h768 : ch < 768) (hr : (s.channel ch).retired = false)
    (hh : (s.channel ch).holder = some l) (hl : s.Runs l) : Gives (.pseudoChannelRetire ch) s fun t =>
      (t.channel ch).retired = true ∧ t.Faulted l (· = ch / 64) := by
  refine ⟨_, exec_retire_held h768 hr hh, ?_⟩
  have gone := retireChannel_spec (s.leaveMode ch) ch
  generalize (s.leaveMode ch).retireChannel ch = p at gone ⊢
  have left := ((sameEnds_leaveMode s ch).runsOrFaulted (p := (· = ch / 64)) not_false).1 hl
  have runs := (State.runs_congr gone.launches gone.tables l).2 left
  refine ⟨((sameUnits_stopAll p _ _).retired ch).trans gone.retired, ?_⟩
  exact ((runs.orFaulted (· = ch / 64)).stopAll (unit := ch / 64) rfl [l]).2 (.inl (List.mem_singleton.2 rfl))

theorem exec_narrow {s : State} {ch : Nat} (h768 : ch < 768) (hn : (s.channel ch).narrowed = false) :
    exec (.channelNarrow ch) s = .next (s.narrowChannel ch) :=
  congrArg Host.Outcome.next (if_neg (by simp [hn, h768]))

/-- R258: a channel goes on in half-width mode. -/
theorem narrow_spec {s : State} {ch : Nat} (h768 : ch < 768) (hn : (s.channel ch).narrowed = false) :
    Gives (.channelNarrow ch) s fun t => s.Measured t 1 ∧
      t.channel ch = { s.channel ch with narrowed := true } ∧ t.mem = s.mem ∧ t.groups = s.groups := by
  refine ⟨_, exec_narrow h768 hn, ?_, ?_, rfl, rfl⟩
  · exact State.measured_measure (s.setChannel ch _) _
  · have h := s.channel_setChannel ch ch { s.channel ch with narrowed := true }
    rwa [if_pos rfl] at h

/-! ### Uncorrectable errors -/

/-- Launches stopped one after the other, each for a unit that may depend on the state. -/
theorem State.RunsOrFaulted.stopEach {s : State} {l : Nat} {p : Nat → Prop} (h : s.RunsOrFaulted l p)
    {unit : State → Nat → Nat} (hp : ∀ a m, p (unit a m)) (ms : List Nat) (hl : l ∈ ms) :
    (ms.foldl (fun a m => a.stopAll [m] (unit a m)) s).Faulted l p := by
  have keep (r : List Nat) (a : State) (ha : a.RunsOrFaulted l p) (hf : a.Faulted l p) :
      (r.foldl (fun a m => a.stopAll [m] (unit a m)) a).Faulted l p := by
    refine (List.foldlRecOn r _ (motive := fun a : State => a.RunsOrFaulted l p ∧ a.Faulted l p) ⟨ha, hf⟩
      fun b hb m _ => ?_).2
    have one := hb.1.stopAll (hp b m) [m]
    exact ⟨one.1, one.2 (.inr hb.2)⟩
  induction ms generalizing s with
  | nil => exact absurd hl List.not_mem_nil
  | cons m r ih =>
    have one := h.stopAll (hp s m) [m]
    rcases List.mem_cons.1 hl with rfl | hl
    · exact keep r _ one.1 (one.2 (.inl (List.mem_singleton.2 rfl)))
    · exact ih one.1 hl

theorem mem_dedup_iff {l : List Nat} {x : Nat} : x ∈ dedup l ↔ x ∈ l := by
  induction l with
  | nil => simp [dedup]
  | cons y r ih =>
    simp only [dedup, List.mem_cons, List.mem_filter, ih, bne_iff_ne]
    tauto

/-- The launch of a group owns every unit of its live frames (R334). -/
theorem mem_frameOwners {s : State} {gid u : Nat} {pre : Bool} (hg : (aget s.groups gid).isSome = true)
    (hlive : (if pre then (s.group gid).preLive else (s.group gid).trapLive) = true)
    (hlo : s.frameKey gid pre / 32 ≤ u) (hhi : u < s.frameKey gid pre / 32 + 32) :
    launchOfTeam (teamOf gid) ∈ s.frameOwners u := by
  obtain ⟨g, hg⟩ := Option.isSome_iff_exists.1 hg
  rw [State.group, hg, Option.getD_some] at hlive
  refine mem_dedup_iff.2 (List.mem_map.2 ⟨(gid, g), List.mem_filter.2 ⟨mem_of_aget hg, ?_⟩, rfl⟩)
  refine List.any_eq_true.2 ⟨pre, by cases pre <;> simp, ?_⟩
  simp [hlive, hlo, hhi]

/-- A unit of memory poisoned and logged (R333). -/
def State.poisonUnit (s : State) (u : Nat) : State := (s.poisonUnits [u]).logError (.ecc u)

theorem exec_memUnit (s : State) (key : Nat) : exec (.eccUncorrectable (.memUnit key)) s =
    .next ((s.frameOwners (unitOf key)).foldl (fun a l => a.stopAll [l] ((a.launch l).dies.headD 0))
      (s.poisonUnit (unitOf key))) := rfl

theorem memUnit_no_frame {s : State} {key : Nat} (h : s.frameOwners (unitOf key) = []) :
    Gives (.eccUncorrectable (.memUnit key)) s fun t =>
      t.mem.home = s.mem.home ∧ t.launches = s.launches ∧ t.groups = s.groups ∧
      t.stag.errors = s.stag.errors ++ [.ecc (unitOf key)] ∧
      ∀ y, y ∈ t.mem.poison ↔ y ∈ s.mem.poison ∨ y = unitOf key := by
  refine ⟨_, exec_memUnit s key, ?_⟩
  rw [h]
  exact ⟨rfl, rfl, rfl, rfl, fun y => mem_insNum.trans or_comm⟩

theorem memUnit_frame {s : State} {key gid l : Nat} {pre : Bool} (hg : (aget s.groups gid).isSome = true)
    (hgl : launchOfTeam (teamOf gid) = l) (hl : s.Runs l)
    (hlive : (if pre then (s.group gid).preLive else (s.group gid).trapLive) = true)
    (hlo : s.frameKey gid pre / 32 ≤ unitOf key) (hhi : unitOf key < s.frameKey gid pre / 32 + 32) :
    Gives (.eccUncorrectable (.memUnit key)) s fun t => (t.launch l).phase = .ended ∧ (t.launch l).status = 5 := by
  refine ⟨_, exec_memUnit s key, ?_⟩
  have runs : (s.poisonUnit (unitOf key)).Runs l := (State.runs_congr rfl rfl l).2 hl
  have hf := (runs.orFaulted fun _ => True).stopEach (unit := fun a m => (a.launch m).dies.headD 0)
    (fun _ _ => trivial) _ (hgl ▸ mem_frameOwners hg hlive hlo hhi)
  exact ⟨hf.1, hf.2.1⟩

/-- A group changed where it is listed. -/
theorem group_aupd {s : State} {gid : Nat} (f : Group → Group) (h : (aget s.groups gid).isSome = true) :
    ({ s with groups := aupd s.groups gid f } : State).group gid = f (s.group gid) := by
  obtain ⟨g, hg⟩ := Option.isSome_iff_exists.1 h
  simp only [State.group, aupd_of_some f hg, aget_aput_self, hg, Option.getD_some]

theorem team_aupd {s : State} {t : Nat} (f : Team → Team) (h : (aget s.teams t).isSome = true) :
    ({ s with teams := aupd s.teams t f } : State).team t = f (s.team t) := by
  obtain ⟨x, hx⟩ := Option.isSome_iff_exists.1 h
  simp only [State.team, aupd_of_some f hx, aget_aput_self, hx, Option.getD_some]

theorem table_aupd {s : State} {t : Nat} (f : Table → Table) (h : (aget s.tables t).isSome = true) :
    ({ s with tables := aupd s.tables t f } : State).table t = f (s.table t) := by
  obtain ⟨x, hx⟩ := Option.isSome_iff_exists.1 h
  simp only [State.table, aupd_of_some f hx, aget_aput_self, hx, Option.getD_some]

/-- The poison bits of a register set with one register more. -/
theorem bitOn_or_regSet {n : Nat} (x : BitVec n) (r q : Nat) (hq : q < n) :
    bitOn (x ||| regSet n r 1) q = (bitOn x q || q == r) := by
  rw [bitOn_or, bitOn_regSet_one r q hq]
  rfl

theorem laneReg_poisoned {s : State} {gid : Nat} (r : Reg) (h : (aget s.groups gid).isSome = true) :
    Gives (.eccUncorrectable (.laneReg gid r)) s fun t => ∀ q < 128,
      bitOn (t.group gid).poisonV q = (bitOn (s.group gid).poisonV q || q == r.val) := by
  refine ⟨_, rfl, fun q hq => ?_⟩
  rw [group_aupd _ h]
  exact bitOn_or_regSet _ _ _ hq

theorem uniReg_poisoned {s : State} {gid : Nat} (r : Reg) (h : (aget s.groups gid).isSome = true) :
    Gives (.eccUncorrectable (.uniReg gid r)) s fun t => ∀ q < 128,
      bitOn (t.group gid).poisonG q = (bitOn (s.group gid).poisonG q || q == r.val) := by
  refine ⟨_, rfl, fun q hq => ?_⟩
  rw [group_aupd _ h]
  exact bitOn_or_regSet _ _ _ (Nat.lt_trans hq (by decide))

theorem spadUnit_poisoned {s : State} {tm : Nat} (k : Nat) (h : (aget s.teams tm).isSome = true) :
    Gives (.eccUncorrectable (.spadUnit tm k)) s fun t =>
      k / 32 ∈ (t.team tm).spadPoison ∧ (t.team tm).spad = (s.team tm).spad := by
  refine ⟨_, rfl, ?_⟩
  dsimp only
  rw [team_aupd _ h]
  exact ⟨mem_insNum.2 (.inl rfl), rfl⟩

theorem tile_poisoned {s : State} {tm : Nat} (k : Nat) (h : (aget s.teams tm).isSome = true) :
    Gives (.eccUncorrectable (.tile tm k)) s fun t =>
      k ∈ (t.team tm).tilePoison ∧ (t.team tm).tiles = (s.team tm).tiles := by
  refine ⟨_, rfl, ?_⟩
  dsimp only
  rw [team_aupd _ h]
  exact ⟨mem_insNum.2 (.inl rfl), rfl⟩

theorem descriptor_poisoned {s : State} {tid : Nat} (h : (aget s.tables tid).isSome = true) :
    Gives (.eccUncorrectable (.descriptor tid)) s fun t => (t.table tid).poisonDesc = true := by
  refine ⟨_, rfl, ?_⟩
  dsimp only
  rw [table_aupd _ h]

theorem indexNode_poisoned {s : State} {tid : Nat} (h : (aget s.tables tid).isSome = true) :
    Gives (.eccUncorrectable (.indexNode tid)) s fun t => (t.table tid).poisonIndex = true := by
  refine ⟨_, rfl, ?_⟩
  dsimp only
  rw [table_aupd _ h]

/-- R334: an error in the control state of a launch. -/
theorem control_faulted {s : State} {l : Nat} (hl : s.Runs l) : Gives (.eccUncorrectable (.control l)) s fun t =>
    t.Faulted l (· = (s.launch l).dies.headD 0) :=
  ⟨_, rfl, ((hl.orFaulted (· = (s.launch l).dies.headD 0)).stopAll (unit := (s.launch l).dies.headD 0) rfl [l]).2
    (.inl (List.mem_singleton.2 rfl))⟩

theorem powerAlarmRaise_spec (s : State) : Gives .powerAlarmRaise s fun t => t.host.alarm = true ∧ t.mem = s.mem ∧
    t.groups = s.groups ∧ t.host.alarms = s.host.alarms + if s.host.alarm then 0 else 1 := by
  refine ⟨_, rfl, ?_⟩
  cases ha : s.host.alarm <;> simp [ha]

/-- Settles O53: a failure marks its unit, stops the launches that it reaches one after the other, takes the tables
and copies there and rewrites the maps; each stop keeps every other launch as it stands or ends it FAULTED. -/
theorem failureEvents : Obligations.FailureEvents := by
  intro s d l ch
  refine ⟨fun h4 hf => ⟨_, rfl, ?_⟩, fun hf => ?_, rfl, unitFailure_stack l, unitFailure_link l, unitFailure_core l,
    fun h768 hr hh => ⟨_, exec_retire_free h768 hr hh, ?_⟩, fun h768 hr hh hl => retire_held h768 hr hh hl,
    fun h768 hn => narrow_spec h768 hn, fun key => ⟨rfl, memUnit_no_frame, fun gid pre hg hgl hl hlive hlo hhi =>
      memUnit_frame hg hgl hl hlive hlo hhi⟩, fun gid r hg => ⟨laneReg_poisoned r hg, uniReg_poisoned r hg⟩,
    fun tm k ht => ⟨spadUnit_poisoned k ht, tile_poisoned k ht⟩,
    fun tid ht => ⟨descriptor_poisoned ht, indexNode_poisoned ht⟩, control_faulted,
    ⟨_, rfl, rfl, rfl, rfl, rfl, rfl, rfl, rfl, rfl, rfl, rfl⟩, rfl, powerAlarmRaise_spec s, ⟨_, rfl, rfl, rfl, rfl, rfl⟩⟩
  · have h := failDie_dieLost l h4 hf
    exact ⟨h.failed, h.measured, h.dead _ (by simp), h.dead _ (by simp), h.dead _ (by simp), h.lost, h.links, h.copies,
      h.faulted⟩
  · exact congrArg Host.Outcome.next (if_pos (.inr hf))
  · have h := retireChannel_spec s ch
    exact ⟨h.retired, h.measured, h.home, h.groups, h.launches, h.live⟩

end Sys2Proof.Machine
end

section
/-! SUPPORT. Steps of R16 from dispatch to placement. -/

namespace Sys2Proof.Machine

/-! ### Steps of R16 -/

/-- The end of a launch, as its completion record will tell it. -/
theorem endLaunch_ended (s : State) (l status : Nat) : ((s.endLaunch l status).launch l).phase = .ended ∧
    ((s.endLaunch l status).launch l).status = status := by
  have h := standing_endLaunch s l status
  simp only [Launch.standing, Prod.mk.injEq] at h
  exact ⟨h.1, h.2.1⟩

theorem State.launch_enterPlacing (s : State) (l : Nat) :
    (s.enterPlacing l).launch l = { s.launch l with phase := .placing, leftNo := s.dist.left } := by
  have h := s.launch_modLaunch l l fun x => { x with phase := .placing, leftNo := s.dist.left }
  rw [if_pos rfl] at h
  exact h

/-- R267: a launch that raises the point of a die waits for the rails. -/
theorem toRails_of_rise {s : State} {l : Nat} (h : ∃ d ∈ (s.launch l).dies, (s.die d).oph < (s.launch l).oph) :
    s.toRails l = s.modLaunch l fun y => { y with phase := .rails } :=
  if_pos (List.any_eq_true.2 (by simpa using h))

theorem toRails_of_steady {s : State} {l : Nat} (h : ∀ d ∈ (s.launch l).dies, (s.launch l).oph ≤ (s.die d).oph) :
    s.toRails l = s.enterPlacing l := by
  refine if_neg fun ha => ?_
  obtain ⟨d, hd, hlt⟩ := List.any_eq_true.1 ha
  exact absurd (of_decide_eq_true hlt) (Nat.not_lt.2 (h d hd))

theorem toLayout_of_none {s : State} {l : Nat} (h : (s.launch l).layout = 0) : s.toLayout l = s.toRails l := if_pos h

/-- R266: a host launch on two or more dies loads routes. -/
theorem toRoute_of_host {s : State} {l : Nat} (hp : (s.launch l).parent = none) (h2 : 2 ≤ (s.launch l).dies.length) :
    s.toRoute l = s.modLaunch l fun y => { y with phase := .route } :=
  if_pos (by simp [hp, h2])

theorem toRoute_of_other {s : State} {l : Nat} (h : (s.launch l).parent ≠ none ∨ (s.launch l).dies.length < 2) :
    s.toRoute l = s.toLayout l := by
  refine if_neg fun hc => ?_
  simp only [Bool.and_eq_true, Option.isNone_iff_eq_none, decide_eq_true_eq] at hc
  exact h.elim (absurd hc.1) (absurd hc.2 ∘ Nat.not_le.2)

/-- A launch that goes on after step 3 of R16 has left it, with the slot that it had. -/
structure PastKey (s : State) (l : Nat) (t : State) : Prop where
  slot : (t.launch l).slot = (s.launch l).slot
  phase : (t.launch l).phase ≠ .key

theorem pastKey_modLaunch (s : State) (l : Nat) {f : Launch → Launch} (hs : (f (s.launch l)).slot = (s.launch l).slot)
    (hp : (f (s.launch l)).phase ≠ .key) : PastKey s l (s.modLaunch l f) := by
  have h := s.launch_modLaunch l l f
  rw [if_pos rfl] at h
  exact ⟨by rw [h, hs], by rwa [h]⟩

theorem pastKey_enterPlacing (s : State) (l : Nat) : PastKey s l (s.enterPlacing l) := by
  constructor <;> rw [State.launch_enterPlacing]
  exact LPhase.noConfusion

theorem pastKey_toRails (s : State) (l : Nat) : PastKey s l (s.toRails l) := by
  unfold State.toRails
  dsimp only
  split
  · exact pastKey_modLaunch s l rfl LPhase.noConfusion
  · exact pastKey_enterPlacing s l

theorem PastKey.of_slot {s s' t : State} {l : Nat} (h : PastKey s' l t)
    (hs : (s'.launch l).slot = (s.launch l).slot) : PastKey s l t := ⟨h.slot.trans hs, h.phase⟩

theorem pastKey_endLaunch (s : State) (l status : Nat) : PastKey s l (s.endLaunch l status) := by
  have h := standing_endLaunch s l status
  simp only [Launch.standing, Prod.mk.injEq] at h
  exact ⟨h.2.2.2, by rw [h.1]; exact LPhase.noConfusion⟩

theorem pastKey_toLayout (s : State) (l : Nat) : PastKey s l (s.toLayout l) := by
  unfold State.toLayout
  dsimp only
  split
  · exact pastKey_toRails s l
  · have read := onlyTraffic_logRead s (s.launch l) (s.launch l).layout 16 8
    split
    · exact (pastKey_endLaunch _ l _).of_slot (by rw [read.launch])
    · refine (pastKey_toRails _ l).of_slot ?_
      rw [State.launch_modLaunch, if_pos rfl, read.launch]

theorem pastKey_toRoute (s : State) (l : Nat) : PastKey s l (s.toRoute l) := by
  unfold State.toRoute
  dsimp only
  split
  · exact pastKey_modLaunch s l rfl LPhase.noConfusion
  · exact pastKey_toLayout s l

/-- Without a broadcast layout the steps after the key leave the Stag as it is. -/
theorem stag_toRoute {s : State} {l : Nat} (h : (s.launch l).layout = 0) : (s.toRoute l).stag = s.stag := by
  unfold State.toRoute
  dsimp only
  split
  · rfl
  · rw [toLayout_of_none h, State.toRails]
    split <;> rfl

/-! ### Dispatch (R263 to R265) -/

/-- A launch is dispatched before another (R263). -/
def State.Before (s : State) (l m : Nat) : Prop :=
  (s.launch m).eff < (s.launch l).eff ∨ ((s.launch m).eff = (s.launch l).eff ∧ (s.launch l).accNo < (s.launch m).accNo)

theorem dispatchFirst_left {s : State} {l m : Nat} (h : m = l ∨ s.Before l m) : s.dispatchFirst l m = l := by
  unfold State.dispatchFirst
  dsimp only
  split
  · next hc =>
    refine h.elim id fun hb => ?_
    unfold State.Before at hb
    omega
  · rfl

theorem dispatchFirst_right {s : State} {l m : Nat} (h : m = l ∨ s.Before l m) : s.dispatchFirst m l = l := by
  unfold State.dispatchFirst
  dsimp only
  split
  · rfl
  · next hc =>
    refine h.elim id fun hb => absurd ?_ hc
    unfold State.Before at hb
    omega

theorem dispatchFirst_mem (s : State) (a b : Nat) : s.dispatchFirst a b = a ∨ s.dispatchFirst a b = b := by
  unfold State.dispatchFirst
  dsimp only
  split
  · exact .inr rfl
  · exact .inl rfl

/-- The launch that comes before all others is the one that is dispatched. -/
theorem foldl_dispatchFirst {s : State} {l a : Nat} {r : List Nat} (hl : l ∈ a :: r)
    (h : ∀ m ∈ a :: r, m = l ∨ s.Before l m) : r.foldl s.dispatchFirst a = l := by
  induction r generalizing a with
  | nil => exact (List.mem_singleton.1 hl).symm
  | cons b r ih =>
    obtain ⟨ha, hr⟩ := List.forall_mem_cons.1 h
    obtain ⟨hb, hr⟩ := List.forall_mem_cons.1 hr
    refine ih ?_ (List.forall_mem_cons.2 ⟨?_, hr⟩)
    · rcases List.mem_cons.1 hl with rfl | hl
      · exact List.mem_cons.2 (.inl (dispatchFirst_left hb).symm)
      rcases List.mem_cons.1 hl with rfl | hl
      · exact List.mem_cons.2 (.inl (dispatchFirst_right ha).symm)
      · exact List.mem_cons_of_mem _ hl
    · rcases dispatchFirst_mem s a b with h | h <;> rw [h]
      · exact ha
      · exact hb

/-- The launch with its place and its dispatch number. -/
def State.dispatched (s : State) (l : Nat) (o : Nat × Nat) : State :=
  let s0 := s.modLaunch l fun x => { x with col0 := o.1, row0 := o.2, dispNo := s.dist.dispatched }
  { s0 with dist := { s0.dist with dispatched := s.dist.dispatched + 1 } }

theorem State.launch_dispatched (s : State) (l : Nat) (o : Nat × Nat) : (s.dispatched l o).launch l =
    { s.launch l with col0 := o.1, row0 := o.2, dispNo := s.dist.dispatched } := by
  have h := s.launch_modLaunch l l fun x => { x with col0 := o.1, row0 := o.2, dispNo := s.dist.dispatched }
  rw [if_pos rfl] at h
  exact h

/-- R263, R264: the first launch is dispatched once no other stands in dispatch. -/
theorem exec_dispatch {s : State} {l : Nat} {o : Nat × Nat} (hn : ∀ m ∈ s.launches, s.inDispatch m.2 = false)
    (hl : l ∈ s.dispatchable) (ho : s.dispatchOrigin (s.launch l) = some o)
    (hb : ∀ m ∈ s.dispatchable, m = l ∨ s.Before l m) : exec .launchDispatch s =
      .next (if (s.launch l).key = 0 then (s.dispatched l o).toRoute l
        else (s.dispatched l o).modLaunch l fun x => { x with phase := .key }) := by
  have hno : (s.launches.any fun m => s.inDispatch m.2) = false := List.any_eq_false.2 fun m hm => by simp [hn m hm]
  change execLaunchDispatch s = _
  rw [execLaunchDispatch, if_neg (by simp [hno])]
  cases hd : s.dispatchable with
  | nil => rw [hd] at hl; exact absurd hl List.not_mem_nil
  | cons a r =>
    rw [hd] at hl hb
    have hf := foldl_dispatchFirst hl hb
    dsimp only
    rw [hf, ho]
    rfl

end Sys2Proof.Machine
end

section
/-! SUPPORT. Steps of R16 from the key to the end of a launch. -/

namespace Sys2Proof.Machine

/-! ### Dispatch: the step that a launch enters -/

section
variable {s : State} {l : Nat} {o : Nat × Nat}

/-- A launch stands at a step of R16, with the place that it took and its dispatch number. -/
def State.DispatchedAt (s : State) (l : Nat) (o : Nat × Nat) (t : State) (p : LPhase) : Prop :=
  (t.launch l).phase = p ∧ (t.launch l).col0 = o.1 ∧ (t.launch l).row0 = o.2 ∧ (t.launch l).dispNo = s.dist.dispatched

theorem dispatchedAt_modLaunch {f : Launch → Launch} {p : LPhase}
    (hf : ∀ x, (f x).phase = p ∧ (f x).col0 = x.col0 ∧ (f x).row0 = x.row0 ∧ (f x).dispNo = x.dispNo) :
    s.DispatchedAt l o ((s.dispatched l o).modLaunch l f) p := by
  unfold State.DispatchedAt
  rw [State.launch_modLaunch, if_pos rfl, State.launch_dispatched]
  exact hf _

theorem dispatchedAt_key : s.DispatchedAt l o ((s.dispatched l o).modLaunch l fun x => { x with phase := .key }) .key :=
  dispatchedAt_modLaunch fun _ => ⟨rfl, rfl, rfl, rfl⟩

theorem dispatchedAt_route (hp : (s.launch l).parent = none)
    (h2 : 2 ≤ (rectDies o.1 o.2 (s.launch l).width (s.launch l).height).length) :
    s.DispatchedAt l o ((s.dispatched l o).toRoute l) .route := by
  rw [toRoute_of_host (by rw [State.launch_dispatched]; exact hp) (by rw [State.launch_dispatched]; exact h2)]
  exact dispatchedAt_modLaunch fun _ => ⟨rfl, rfl, rfl, rfl⟩

/-- A launch that loads no route and has no layout goes on to the rails. -/
theorem toRoute_dispatched
    (h : (s.launch l).parent ≠ none ∨ (rectDies o.1 o.2 (s.launch l).width (s.launch l).height).length < 2)
    (hl : (s.launch l).layout = 0) : (s.dispatched l o).toRoute l = (s.dispatched l o).toRails l := by
  rw [toRoute_of_other (by rw [State.launch_dispatched]; exact h),
    toLayout_of_none (by rw [State.launch_dispatched]; exact hl)]

theorem dispatchedAt_rails
    (h : (s.launch l).parent ≠ none ∨ (rectDies o.1 o.2 (s.launch l).width (s.launch l).height).length < 2)
    (hl : (s.launch l).layout = 0) (hd : ∃ d ∈ rectDies o.1 o.2 (s.launch l).width (s.launch l).height,
      (s.die d).oph < (s.launch l).oph) : s.DispatchedAt l o ((s.dispatched l o).toRoute l) .rails := by
  rw [toRoute_dispatched h hl, toRails_of_rise (by rw [State.launch_dispatched]; exact hd)]
  exact dispatchedAt_modLaunch fun _ => ⟨rfl, rfl, rfl, rfl⟩

theorem dispatchedAt_placing
    (h : (s.launch l).parent ≠ none ∨ (rectDies o.1 o.2 (s.launch l).width (s.launch l).height).length < 2)
    (hl : (s.launch l).layout = 0) (hd : ∀ d ∈ rectDies o.1 o.2 (s.launch l).width (s.launch l).height,
      (s.launch l).oph ≤ (s.die d).oph) : s.DispatchedAt l o ((s.dispatched l o).toRoute l) .placing ∧
        (((s.dispatched l o).toRoute l).launch l).leftNo = s.dist.left := by
  rw [toRoute_dispatched h hl, toRails_of_steady (by rw [State.launch_dispatched]; exact hd)]
  unfold State.DispatchedAt
  rw [State.launch_enterPlacing, State.launch_dispatched]
  exact ⟨⟨rfl, rfl, rfl, rfl⟩, rfl⟩

end

/-! ### Keys (R304) -/

theorem keyUnseal_waits {s : State} {l : Nat} (hp : (s.launch l).phase = .key)
    (hk : s.keyState (s.launch l) = .waits) : exec (.keyUnseal l) s = .next s := by
  change execKeyUnseal l s = _
  rw [execKeyUnseal, if_neg (by simp [hp]), hk]

theorem keyUnseal_bad {s : State} {l : Nat} (hp : (s.launch l).phase = .key)
    (hk : s.keyState (s.launch l) = .bad) : Gives (.keyUnseal l) s fun t =>
      (t.launch l).phase = .ended ∧ (t.launch l).status = 1 := by
  refine ⟨(s.logRead (s.launch l) (s.launch l).key 128 128).endLaunch l lsAccess, ?_, endLaunch_ended _ l lsAccess⟩
  change execKeyUnseal l s = _
  rw [execKeyUnseal, if_neg (by simp [hp]), hk]

/-- A key slot taken: the launch has it and has left step 3. -/
theorem keyUnseal_takes {s : State} {l slot : Nat} {k : KeySlot} (hp : (s.launch l).phase = .key)
    (hk : s.keyState (s.launch l) = .ok slot k) : Gives (.keyUnseal l) s fun t =>
      (t.launch l).slot = some slot ∧ (t.launch l).phase ≠ .key ∧
        ((s.launch l).layout = 0 → aget t.stag.slots slot = some k) := by
  let u : State := { s with stag := { s.stag with slots := aput s.stag.slots slot k } }
  have exe : exec (.keyUnseal l) s = .next ((u.modLaunch l fun x => { x with slot := some slot }).toRoute l) := by
    change execKeyUnseal l s = _
    rw [execKeyUnseal, if_neg (by simp [hp]), hk]
  have hu : (u.modLaunch l fun x => { x with slot := some slot }).launch l = { s.launch l with slot := some slot } := by
    rw [State.launch_modLaunch, if_pos rfl]
    rfl
  have past := pastKey_toRoute (u.modLaunch l fun x => { x with slot := some slot }) l
  refine ⟨_, exe, past.slot.trans (by rw [hu]), past.phase, fun hl => ?_⟩
  rw [stag_toRoute (by rw [hu]; exact hl)]
  exact aget_aput_self _ _ _

/-! ### Routes and rails (R266, R267) -/

/-- Changes of dies leave the launches and the distributor. -/
theorem foldl_modDie_keeps (f : Die → Die) (ds : List Nat) (s : State) :
    let t := ds.foldl (fun a d => a.modDie d f) s
    (∀ l, t.launch l = s.launch l) ∧ t.dist = s.dist :=
  List.foldlRecOn ds _ (motive := fun t : State => (∀ l, t.launch l = s.launch l) ∧ t.dist = s.dist)
    ⟨fun _ => rfl, rfl⟩ fun _ hb _ _ => hb

/-- The same change of several dies, each of them named once or left alone by a second change. -/
theorem die_foldl_modDie (f : Die → Die) (ds : List Nat) (h : ds.Nodup ∨ ∀ x, f (f x) = f x) (s : State) (d : Nat) :
    (ds.foldl (fun a d => a.modDie d f) s).die d = if d ∈ ds then f (s.die d) else s.die d := by
  induction ds generalizing s with
  | nil => rfl
  | cons e r ih =>
    rw [List.foldl_cons, ih (h.imp_left fun h => (List.nodup_cons.1 h).2), State.die_modDie]
    by_cases he : d = e
    · subst he
      by_cases hr : d ∈ r
      · have hf := h.resolve_left fun h => (List.nodup_cons.1 h).1 hr
        simp [hr, hf]
      · simp [hr]
    · simp [he]

theorem exec_routeLoad {s : State} {l : Nat} (hp : (s.launch l).phase = .route)
    (hr : ∀ d ∈ (s.launch l).dies, (s.die d).routes.length < 16) (ok : Bool) : exec (.routeLoad l ok) s =
      .next (if !ok then s.endLaunch l lsRouteCheck
        else
          let t := (s.launch l).dies.foldl (fun a d => a.modDie d fun x => { x with routes := x.routes ++ [l] }) s
          if s.connected (s.launch l).dies then t.toLayout l
          else t.modLaunch l fun x => { x with phase := .probing, probeAt := s.now }) := by
  have hw : s.routeWaits (s.launch l) = false :=
    List.any_eq_false.2 fun d hd => by simpa using hr d hd
  change execRouteLoad l ok s = _
  rw [execRouteLoad, if_neg (by simp [hp, hw])]
  cases ok <;> rfl

theorem routeLoad_full {s : State} {l : Nat} (hr : ∃ d ∈ (s.launch l).dies, 16 ≤ (s.die d).routes.length) (ok : Bool) :
    exec (.routeLoad l ok) s = .next s := by
  have hw : s.routeWaits (s.launch l) = true := List.any_eq_true.2 (by simpa using hr)
  exact if_pos (by simp [hw])

theorem routeLoad_bad {s : State} {l : Nat} (hp : (s.launch l).phase = .route)
    (hr : ∀ d ∈ (s.launch l).dies, (s.die d).routes.length < 16) : Gives (.routeLoad l false) s fun t =>
      (t.launch l).phase = .ended ∧ (t.launch l).status = 2 :=
  ⟨_, exec_routeLoad hp hr false, endLaunch_ended s l lsRouteCheck⟩

theorem routeLoad_probing {s : State} {l : Nat} (hp : (s.launch l).phase = .route)
    (hr : ∀ d ∈ (s.launch l).dies, (s.die d).routes.length < 16) (hc : s.connected (s.launch l).dies = false) :
    Gives (.routeLoad l true) s fun t => (t.launch l).phase = .probing ∧ (t.launch l).probeAt = s.now := by
  refine ⟨_, exec_routeLoad hp hr true, ?_⟩
  simp only [Bool.not_true, Bool.false_eq_true, if_false, hc, State.launch_modLaunch, if_true, and_self]

/-- R266, log 46: the probes of connected dies return at the load. -/
theorem routeLoad_placing {s : State} {l : Nat} (hp : (s.launch l).phase = .route)
    (hr : ∀ d ∈ (s.launch l).dies, (s.die d).routes.length < 16) (hc : s.connected (s.launch l).dies = true)
    (hl : (s.launch l).layout = 0) (hn : (s.launch l).dies.Nodup)
    (ho : ∀ d ∈ (s.launch l).dies, (s.launch l).oph ≤ (s.die d).oph) : Gives (.routeLoad l true) s fun t =>
      (t.launch l).phase = .placing ∧
        ∀ d, (t.die d).routes = (s.die d).routes ++ if d ∈ (s.launch l).dies then [l] else [] := by
  refine ⟨_, exec_routeLoad hp hr true, ?_⟩
  have die := die_foldl_modDie (fun x => { x with routes := x.routes ++ [l] }) _ (.inl hn) s
  obtain ⟨launch, -⟩ := foldl_modDie_keeps (fun x => { x with routes := x.routes ++ [l] }) (s.launch l).dies s
  simp only [Bool.not_true, Bool.false_eq_true, if_false, hc, if_true]
  generalize (s.launch l).dies.foldl _ s = u at die launch ⊢
  have oph (d : Nat) : (u.die d).oph = (s.die d).oph := by
    rw [die]
    split <;> rfl
  have steady : ∀ d ∈ (u.launch l).dies, (u.launch l).oph ≤ (u.die d).oph := by
    rw [launch]
    exact fun d hd => (ho d hd).trans_eq (oph d).symm
  rw [toLayout_of_none (by rw [launch]; exact hl), toRails_of_steady steady, State.launch_enterPlacing]
  refine ⟨rfl, fun d => ?_⟩
  have h : (u.enterPlacing l).die d = _ := die d
  rw [h]
  split <;> simp

theorem routeProbeTimeout_late {s : State} {l : Nat} (hp : (s.launch l).phase = .probing)
    (h : (s.launch l).probeAt + 2 ^ 16 ≤ s.now) : Gives (.routeProbeTimeout l) s fun t =>
      (t.launch l).phase = .ended ∧ (t.launch l).status = 2 :=
  ⟨_, congrArg Host.Outcome.next (if_pos (by rw [hp, decide_eq_true h]; rfl)), endLaunch_ended s l lsRouteCheck⟩

theorem routeProbeTimeout_early {s : State} {l : Nat} (h : s.now < (s.launch l).probeAt + 2 ^ 16) :
    exec (.routeProbeTimeout l) s = .next s :=
  congrArg Host.Outcome.next (if_neg (by rw [decide_eq_false (Nat.not_le.2 h), Bool.and_false]; decide))

/-- R267: the rails of the launch's dies are stable at its point. -/
theorem railsStable_placing {s : State} {l : Nat} (hp : (s.launch l).phase = .rails) : Gives (.railsStable l) s fun t =>
    (t.launch l).phase = .placing ∧ (t.launch l).leftNo = s.dist.left ∧ t.dist.left = s.dist.left + 1 ∧
      ∀ d, (t.die d).oph =
        if d ∈ (s.launch l).dies then max (s.die d).oph (s.launch l).oph else (s.die d).oph := by
  have exe : exec (.railsStable l) s = .next (((s.launch l).dies.foldl (fun a d =>
      a.modDie d fun x => { x with oph := max x.oph (s.launch l).oph }) s).enterPlacing l) :=
    if_neg (by simp [hp])
  refine ⟨_, exe, ?_⟩
  have die := die_foldl_modDie (fun x => { x with oph := max x.oph (s.launch l).oph }) (s.launch l).dies
    (.inr fun x => by simp) s
  obtain ⟨launch, dist⟩ := foldl_modDie_keeps (fun x => { x with oph := max x.oph (s.launch l).oph }) (s.launch l).dies s
  generalize (s.launch l).dies.foldl _ s = u at die launch dist ⊢
  dsimp only
  rw [State.launch_enterPlacing, dist]
  refine ⟨rfl, rfl, congrArg (·.left + 1) dist, fun d => ?_⟩
  have h : (u.enterPlacing l).die d = _ := die d
  rw [h]
  split <;> rfl

/-! ### The end of a launch (R16 step 9) -/

theorem launchRetire_early {s : State} {l : Nat} (hp : (s.launch l).phase = .placing)
    (h : (s.launch l).retiredTeams ≠ (s.launch l).teams) : exec (.launchRetire l) s = .next s := by
  change execLaunchRetire l s = _
  simp [execLaunchRetire, hp, h]

theorem launchRetire_completed {s : State} {l : Nat} (hp : (s.launch l).phase = .placing)
    (h : (s.launch l).retiredTeams = (s.launch l).teams) (hd : s.draftsOf l = []) (hc : s.heldChannels l = []) :
    Gives (.launchRetire l) s fun t => (t.launch l).phase = .ended ∧ (t.launch l).status = 0 := by
  refine ⟨s.endLaunch l lsCompleted, ?_, endLaunch_ended s l lsCompleted⟩
  change execLaunchRetire l s = _
  simp [execLaunchRetire, State.draftsFree, hp, h, hd, hc]

theorem launchRetire_ending {s : State} {l : Nat} (hp : (s.launch l).phase = .ending) (hf : s.draftsFree l = true) :
    Gives (.launchRetire l) s fun t => (t.launch l).phase = .ended ∧ (t.launch l).status = (s.launch l).status := by
  refine ⟨s.endLaunch l (s.launch l).status, ?_, endLaunch_ended s l _⟩
  change execLaunchRetire l s = _
  simp [execLaunchRetire, hp, hf]

theorem launchRetire_held {s : State} {l : Nat} (hf : s.draftsFree l = false) : exec (.launchRetire l) s = .next s :=
  if_pos (by simp [hf])

end Sys2Proof.Machine
end

section
/-! SUPPORT. References and completion records (R261, R262, R335, R368). -/

namespace Sys2Proof.Machine

/-! ### References (R261, R262, R335) -/

/-- The reference that a queue gives next, the record that it names and the launch that it asks for. -/
def State.nextRef (s : State) (x : HQueue) : W64 := dwOf (bytesAt s.host.mem (x.sqbase.toNat + 8 * x.sqhead.toNat) 8) 0
def State.refRecord (s : State) (x : HQueue) : List W64 := s.homeWords (s.nextRef x) 128
def State.refLaunch (s : State) (q ten : Nat) (x : HQueue) : Launch :=
  { Launch.absent with record := s.refRecord x, ten := ten, queue := some (q, x.taken) }
/-- The code with which the reference is refused, 0 where it is taken. -/
def State.refCode (s : State) (q ten : Nat) (x : HQueue) : Nat :=
  s.recordCheck (s.refLaunch q ten x) (!s.refOk ten (s.nextRef x))

/-- The queue's next reference may be taken (R262). -/
def State.MayTake (s : State) (ten : Nat) (x : HQueue) : Prop :=
  s.served ten = true ∧ x.en = true ∧ x.sqhead ≠ x.sqtail ∧
    ∀ p, x.prev = some p → if flag (dwAt (s.refRecord x) 1) 62 = true then (s.launch p).phase = .ended
      else (s.launch p).phase ≠ .accepted

theorem eligible_iff {s : State} {x : HQueue} {serial : Bool} : s.eligible x serial = true ↔
    ∀ p, x.prev = some p → if serial = true then (s.launch p).phase = .ended else (s.launch p).phase ≠ .accepted := by
  unfold State.eligible
  cases x.prev with
  | none => simp
  | some p => cases serial <;> simp

theorem mayTake_iff {s : State} {ten : Nat} {x : HQueue} : s.MayTake ten x ↔
    (!s.served ten || !x.en || x.sqhead == x.sqtail || !s.eligible x (flag (dwAt (s.refRecord x) 1) 62)) = false := by
  unfold State.MayTake
  rw [← eligible_iff]
  simp [and_assoc]

/-- The queue after a reference of it is taken or refused. -/
def HQueue.advanced (x : HQueue) : HQueue := { x with sqhead := ringNext x.sqn x.sqhead, taken := x.taken + 1 }

theorem launch_accept_ne (s : State) (l : Launch) (eff : Nat) {m : Nat} (h : m ≠ s.dist.nextLaunch) :
    (s.accept l eff).1.launch m = s.launch m :=
  congrArg (·.getD Launch.absent) (aget_aput_ne s.launches _ h)

/-- A host launch as it is accepted (R261, R263). -/
theorem launch_accept_host (s : State) {l : Launch} (hp : l.parent = none) (eff : Nat) :
    (s.accept l eff).1.launch s.dist.nextLaunch =
      { l with
        grants := (s.grantList l).getD []
        root := s.dist.nextLaunch
        phase := .accepted
        eff := max l.prio eff
        ageFrom := s.now
        accNo := s.dist.accepted
        priv := flag (l.dw 1) 63
        slot := none } := by
  simp only [State.accept, State.launch, aget_aput_self, hp, Option.getD_some]

section
variable {s : State} {q ten : Nat} {x : HQueue} (hx : aget s.host.queues q = some x) (ht : x.ten = some ten)
include hx ht

theorem exec_reference : exec (.launchReferenceTake q) s =
    if !s.served ten || !x.en || x.sqhead == x.sqtail || !s.eligible x (flag (dwAt (s.refRecord x) 1) 62) then .next s
    else
      let u := s.logRecord (s.refLaunch q ten x) (s.nextRef x) (s.refCode q ten x)
      if s.refCode q ten x ≠ 0 then
        .next (u.setHostQueue q { x.advanced with
          refused := x.refused + 1, refpos := x.sqhead, refcode := BitVec.ofNat 8 (s.refCode q ten x) })
      else .next ((u.accept (s.refLaunch q ten x) 0).1.setHostQueue q { x.advanced with
        prev := some (u.accept (s.refLaunch q ten x) 0).2
        open_ := x.open_ ++ [(u.accept (s.refLaunch q ten x) 0).2] }) := by
  change execLaunchReferenceTake q s = _
  rw [execLaunchReferenceTake, hx]
  dsimp only
  split
  · next h => cases ht.symm.trans h
  · next h =>
    cases ht.symm.trans h
    rfl

theorem reference_waits (h : ¬s.MayTake ten x) : exec (.launchReferenceTake q) s = .next s := by
  rw [exec_reference hx ht]
  exact if_pos (by rwa [mayTake_iff, Bool.not_eq_false] at h)

/-- What a queue shows after a reference is taken or refused, with what else is said of it. -/
def Queued (q : Nat) (x : HQueue) (t : State) (p : HQueue → Prop) : Prop := ∃ y, aget t.host.queues q = some y ∧ p y ∧
  y.sqhead = (if x.sqhead = x.sqn then 0 else x.sqhead + 1) ∧ y.taken = x.taken + 1 ∧ y.cqtail = x.cqtail

theorem reference_refused (h : s.MayTake ten x) (hc : s.refCode q ten x ≠ 0) : Gives (.launchReferenceTake q) s fun t =>
    t.launches = s.launches ∧ Queued q x t fun y => y.refused = x.refused + 1 ∧ y.refpos = x.sqhead ∧
      y.refcode = BitVec.ofNat 8 (s.refCode q ten x) ∧ y.open_ = x.open_ := by
  have logged := onlyTraffic_logRecord s (s.refLaunch q ten x) (s.nextRef x) (s.refCode q ten x)
  have exe := exec_reference hx ht
  rw [if_neg (by rw [mayTake_iff.1 h]; decide)] at exe
  dsimp only at exe
  rw [if_pos hc] at exe
  exact ⟨_, exe, logged.launches, _, aget_aput_self _ _ _, ⟨rfl, rfl, rfl, rfl⟩, rfl, rfl, rfl⟩

theorem reference_taken (h : s.MayTake ten x) (hc : s.refCode q ten x = 0) : Gives (.launchReferenceTake q) s fun t =>
    (Queued q x t fun y => y.open_ = x.open_ ++ [s.dist.nextLaunch] ∧ y.prev = some s.dist.nextLaunch ∧
      y.refused = x.refused) ∧
    (∀ m, m ≠ s.dist.nextLaunch → t.launch m = s.launch m) ∧
    let y := t.launch s.dist.nextLaunch
    y.phase = .accepted ∧ y.record = s.refRecord x ∧ y.ten = ten ∧ y.eff = y.prio ∧ y.root = s.dist.nextLaunch ∧
      y.parent = none ∧ y.accNo = s.dist.accepted ∧ y.priv = flag (dwAt (s.refRecord x) 1) 63 := by
  have logged := onlyTraffic_logRecord s (s.refLaunch q ten x) (s.nextRef x) (s.refCode q ten x)
  have exe := exec_reference hx ht
  rw [if_neg (by rw [mayTake_iff.1 h]; decide)] at exe
  generalize s.logRecord _ _ _ = u at logged exe
  dsimp only at exe
  rw [if_neg (not_not.2 hc)] at exe
  have number : u.dist.nextLaunch = s.dist.nextLaunch := by rw [logged.dist]
  refine ⟨_, exe, ⟨_, aget_aput_self _ _ _, ⟨?_, ?_, rfl⟩, rfl, rfl, rfl⟩, fun m hm => ?_, ?_⟩
  · exact congrArg (fun n => x.open_ ++ [n]) number
  · exact congrArg some number
  · exact (launch_accept_ne u _ 0 (number ▸ hm)).trans (logged.launch m)
  · have y := launch_accept_host u (l := s.refLaunch q ten x) rfl 0
    rw [number, logged.dist] at y
    refine y ▸ ⟨rfl, rfl, rfl, Nat.max_zero _, rfl, rfl, rfl, rfl⟩

end

/-! ### Completion records (R368) -/

theorem leNat_leBytes (n x : Nat) : leNat (leBytes n x) = x % 256 ^ n := by
  induction n generalizing x with
  | zero => simp [leBytes, leNat, Nat.mod_one]
  | succ n ih =>
    rw [Nat.pow_succ', Nat.mod_mul, leBytes, leNat, ih, BitVec.toNat_ofNat]

/-- A doubleword read from the bytes of several. -/
theorem dwOf_flatMap_dwBytes (ws : List W64) {i : Nat} (h : i < ws.length) : dwOf (ws.flatMap dwBytes) i = ws[i] := by
  have len (x : W64) : (dwBytes x).length = 8 := Sys2Proof.Laws.leBytes_length 8 _
  induction ws generalizing i with
  | nil => exact absurd h (Nat.not_lt_zero i)
  | cons w r ih =>
    rw [List.flatMap_cons]
    cases i with
    | zero =>
      rw [dwOf, Nat.mul_zero, List.drop_zero, List.take_left' (len w), dwBytes, leNat_leBytes]
      exact BitVec.eq_of_toNat_eq (by simp [Nat.mod_eq_of_lt w.isLt])
    | succ i =>
      have hd : (dwBytes w ++ r.flatMap dwBytes).drop (8 * (i + 1)) = (r.flatMap dwBytes).drop (8 * i) := by
        rw [show 8 * (i + 1) = (dwBytes w).length + 8 * i by rw [len]; omega, ← List.drop_drop, List.drop_left]
      rw [dwOf, hd, ← dwOf]
      exact ih (Nat.lt_of_succ_lt_succ h)

theorem length_flatMap_dwBytes (ws : List W64) : (ws.flatMap dwBytes).length = 8 * ws.length := by
  induction ws with
  | nil => rfl
  | cons w r ih =>
    rw [List.flatMap_cons, List.length_append, ih, dwBytes, Sys2Proof.Laws.leBytes_length, List.length_cons]
    omega

/-- The fields of the second doubleword of a completion record. -/
theorem completion_fields {st cs al : Nat} (h1 : st < 256) (h2 : cs < 256) (b : Bool) :
    let w : W64 := BitVec.ofNat 64 (st * 2 ^ 56 + cs * 2 ^ 48 + min al 65535 * 2 ^ 32 + bnat b)
    field w 56 8 = st ∧ field w 48 8 = cs ∧ field w 32 16 = min al 65535 ∧ flag w 0 = b := by
  have hm : min al 65535 ≤ 65535 := Nat.min_le_right _ _
  generalize min al 65535 = a at hm
  cases b <;> simp only [field, flag, bnat, BitVec.toNat_ofNat] <;> refine ⟨?_, ?_, ?_, ?_⟩ <;> simp <;> omega

/-- The bytes of the record of an open launch of a queue, and the queue once it is written. -/
def State.completionBytes (s : State) (q n : Nat) (x : HQueue) : List Byte :=
  ((s.launch n).completion n ((s.launch n).queue.getD (q, 0)).2 x.phase).flatMap dwBytes
def HQueue.completed (x : HQueue) (rest : List Nat) : HQueue :=
  { x with
    open_ := rest
    cqtail := ringNext x.cqn x.cqtail
    phase := x.phase != (ringNext x.cqn x.cqtail == 0)
    unread := x.unread + 1
    msix := if x.ien then x.msix + 1 else x.msix }

/-- R262, R335: the queue's first open launch has its record once it has ended and the ring has room. -/
theorem exec_completion {s : State} {q n : Nat} {x : HQueue} {rest : List Nat} (hx : aget s.host.queues q = some x)
    (ho : x.open_ = n :: rest) : exec (.completionRecordWrite q) s =
      if !x.en || (s.launch n).phase != .ended || decide (x.cqn.toNat + 1 ≤ x.unread) then .next s
      else
        let s1 : State := { s with host := { s.host with mem := setBytes s.host.mem (runOf
          (x.cqbase.toNat + 32 * x.cqtail.toNat) (s.completionBytes q n x)) } }
        .next (s1.setHostQueue q (x.completed rest)) := by
  change execCompletionRecordWrite q s = _
  rw [execCompletionRecordWrite, hx]
  dsimp only
  rw [ho]
  rfl

theorem completion_waits {s : State} {q n : Nat} {x : HQueue} {rest : List Nat} (hx : aget s.host.queues q = some x)
    (ho : x.open_ = n :: rest) (h : x.en = false ∨ (s.launch n).phase ≠ .ended ∨ x.cqn.toNat < x.unread) :
    exec (.completionRecordWrite q) s = .next s := by
  rw [exec_completion hx ho]
  exact if_pos (by simpa [or_assoc] using h)

theorem HQueue.completed_fields (x : HQueue) (rest : List Nat) : let z := x.completed rest
    z.open_ = rest ∧ z.unread = x.unread + 1 ∧ z.cqtail = (if x.cqtail = x.cqn then 0 else x.cqtail + 1) ∧
      (z.phase = if z.cqtail = 0 then !x.phase else x.phase) ∧ z.msix = x.msix + if x.ien then 1 else 0 := by
  refine ⟨rfl, rfl, rfl, ?_, ?_⟩
  · change (x.phase != (ringNext x.cqn x.cqtail == 0)) = if ringNext x.cqn x.cqtail = 0 then !x.phase else x.phase
    split
    · next h => rw [h]; exact Bool.xor_true _
    · next h => rw [beq_false_of_ne h]; exact Bool.xor_false _
  · change (if x.ien then x.msix + 1 else x.msix) = _
    cases x.ien <;> rfl

/-- The bytes of a completion record. -/
theorem completion_words (l : Launch) (n pos : Nat) (phase : Bool) (h1 : l.status < 256) (h2 : l.childStatus < 256) :
    let w (i : Nat) : W64 := dwOf ((l.completion n pos phase).flatMap dwBytes) i
    w 0 = BitVec.ofNat 64 (n * 2 ^ 32 + pos % 2 ^ 32) ∧
      field (w 1) 56 8 = l.status ∧ field (w 1) 48 8 = l.childStatus ∧
      field (w 1) 32 16 = min l.alerts 65535 ∧ flag (w 1) 0 = l.stopped ∧
      w 2 = (if l.status = 5 ∧ l.stopped = false then BitVec.ofNat 64 (l.unit % 2 ^ 16) else 0) ∧
      w 3 = if phase then 1 else 0 := by
  have w (i : Nat) (hi : i < 4) := dwOf_flatMap_dwBytes (l.completion n pos phase) (i := i) hi
  dsimp only
  rw [w 0 (by decide), w 1 (by decide), w 2 (by decide), w 3 (by decide)]
  obtain ⟨status, child, alerts, stopped⟩ := completion_fields (al := l.alerts) h1 h2 l.stopped
  refine ⟨rfl, status, child, alerts, stopped, ?_, ?_⟩
  · change BitVec.ofNat 64 (if l.status = 5 ∧ !l.stopped then l.unit % 2 ^ 16 else 0) = _
    rw [apply_ite (BitVec.ofNat 64)]
    simp
  · change BitVec.ofNat 64 (bnat phase) = _
    cases phase <;> rfl

theorem completionRecordWrite_gives {s : State} {q n : Nat} {x : HQueue} {rest : List Nat}
    (hx : aget s.host.queues q = some x) (ho : x.open_ = n :: rest) (he : x.en = true)
    (hp : (s.launch n).phase = .ended) (hr : x.unread ≤ x.cqn.toNat) :
    let base := x.cqbase.toNat + 32 * x.cqtail.toNat
    Gives (.completionRecordWrite q) s fun t =>
      (∀ k, k < base ∨ base + 32 ≤ k → byteAt t.host.mem k = byteAt s.host.mem k) ∧
      bytesAt t.host.mem base 32 = s.completionBytes q n x ∧ aget t.host.queues q = some (x.completed rest) := by
  have exe := exec_completion hx ho
  rw [if_neg (by simpa [he, hp] using hr)] at exe
  have len : (s.completionBytes q n x).length = 32 := length_flatMap_dwBytes _
  refine ⟨_, exe, fun k hk => ?_, ?_, aget_aput_self _ _ _⟩
  · exact byteAt_setBytes_runOf_of_outside _ _ _ (by rwa [len])
  · exact len ▸ bytesAt_setBytes_runOf _ _ (s.completionBytes q n x)

end Sys2Proof.Machine
end

section
/-! The events of launches (O50). -/

namespace Sys2Proof.Machine

/-! ### The states of a key slot (R304) -/

section
variable {s : State} {x : Launch}

theorem keyState_bad (h : s.unseal x = none) : s.keyState x = .bad := by
  rw [State.keyState, h]

variable {slot : Nat} {kid : W64} {pair : List Nat} (hu : s.unseal x = some (slot, kid, pair))
include hu

theorem keyState_unused (h : aget s.stag.slots slot = none) :
    s.keyState x = .ok slot (KeySlot.loaded x.ten kid pair) := by
  simp only [State.keyState, hu, h]

variable {k : KeySlot} (hk : aget s.stag.slots slot = some k)
include hk

theorem keyState_free (h : k.count = 0) : s.keyState x = .ok slot (KeySlot.loaded x.ten kid pair) := by
  simp only [State.keyState, hu, hk, if_pos h]

theorem keyState_shared (h : k.count ≠ 0) (ht : k.ten = x.ten) (hi : k.kid = kid) :
    s.keyState x = .ok slot { k with count := k.count + 1 } := by
  simp only [State.keyState, hu, hk, if_neg h, if_pos (And.intro ht hi)]

theorem keyState_waits (h : k.count ≠ 0) (ho : ¬(k.ten = x.ten ∧ k.kid = kid)) : s.keyState x = .waits := by
  simp only [State.keyState, hu, hk, if_neg h, if_neg ho]

end

/-! ### The events of launches -/

/-- R264: a launch in steps 3 to 6 holds the dispatcher. -/
theorem dispatch_waits {s : State} (h : ∃ m ∈ s.launches, s.inDispatch m.2 = true) :
    exec .launchDispatch s = .next s :=
  if_pos (List.any_eq_true.2 h)

/-- Settles O50: one lemma per event and case, in the order of the steps of R16. -/
theorem launchEvents : Obligations.LaunchEvents := by
  intro s q l
  dsimp only
  refine ⟨fun x ten hx ht => ⟨reference_waits hx ht, reference_refused hx ht, reference_taken hx ht⟩,
    dispatch_waits, fun o hn hl ho hb => ?_, fun hp => ⟨?_, fun slot kid pair hu => ?_⟩,
    fun hp => ⟨routeLoad_full, fun hr => ⟨routeLoad_bad hp hr, routeLoad_probing hp hr, routeLoad_placing hp hr⟩⟩,
    fun hp => ⟨routeProbeTimeout_late hp, routeProbeTimeout_early⟩, railsStable_placing,
    fun hp => ⟨launchRetire_early hp, launchRetire_completed hp⟩,
    fun hp => ⟨launchRetire_ending hp, launchRetire_held⟩,
    fun x n rest hx ho => ⟨completion_waits hx ho, fun he hp hr h1 h2 => ?_⟩⟩
  case refine_1 =>
    have exe := exec_dispatch hn hl ho hb
    refine ⟨fun hk => ?_, fun hk hpar h2 => ?_, fun hk hone hlay => ⟨fun hd => ?_, fun hd => ?_⟩⟩
    · exact ⟨_, exe.trans (by rw [if_neg hk]), dispatchedAt_key⟩
    · exact ⟨_, exe.trans (by rw [if_pos hk]), dispatchedAt_route hpar h2⟩
    · exact ⟨_, exe.trans (by rw [if_pos hk]), dispatchedAt_rails hone hlay hd⟩
    · obtain ⟨placing, left⟩ := dispatchedAt_placing hone hlay hd
      exact ⟨⟨_, exe.trans (by rw [if_pos hk]), placing⟩, _, exe.trans (by rw [if_pos hk]), left⟩
  case refine_2 => exact fun hu => keyUnseal_bad hp (keyState_bad hu)
  case refine_3 =>
    refine ⟨fun h => keyUnseal_takes hp (keyState_unused hu h), fun k hk => ⟨fun h => ?_, fun h ht hi => ?_, fun h ho => ?_⟩⟩
    · exact keyUnseal_takes hp (keyState_free hu hk h)
    · exact keyUnseal_takes hp (keyState_shared hu hk h ht hi)
    · exact keyUnseal_waits hp (keyState_waits hu hk h ho)
  case refine_4 =>
    obtain ⟨t, exe, outside, bytes, queue⟩ := completionRecordWrite_gives hx ho he hp hr
    have words := completion_words (s.launch n) n ((s.launch n).queue.getD (q, 0)).2 x.phase h1 h2
    dsimp only at words
    rw [← State.completionBytes, ← bytes] at words
    obtain ⟨w0, status, child, alerts, stopped, w2, w3⟩ := words
    exact ⟨t, exe, outside, w0, status, child, alerts, stopped, w2, w3, _, queue, x.completed_fields rest⟩

end Sys2Proof.Machine
end

section
/-! SUPPORT. The fields of the words, joined and cut again. -/

namespace Sys2Proof

/-! ### Bits and registers -/

theorem bit_of_toNat {w i : Nat} {b : Bool} (h : w / 2 ^ i % 2 = b.toNat) : bit w i = b := by
  rw [bit, h]
  cases b <;> rfl

theorem regAt_of_val {w i : Nat} {r : Reg} (h : w / 2 ^ i % 128 = r.val) : regAt w i = r :=
  Fin.ext h

/-! ### Codes of R50 to R53 and of the instructions' own fields -/

@[simp] theorem Order.ofCode_code (o : Order) : Order.ofCode o.code = o := by cases o <;> rfl
@[simp] theorem Hint.ofCode_code (h : Hint) : Hint.ofCode h.code = h := by cases h <;> rfl
@[simp] theorem Width.ofCode?_code (w : Width) : Width.ofCode? w.code = some w := by cases w <;> rfl
@[simp] theorem Ty.ofCode_code (t : Ty) : Ty.ofCode t.code = t := by cases t <;> rfl
@[simp] theorem Cond.ofCode?_code (c : Cond) : Cond.ofCode? c.code = some c := by cases c <;> rfl
@[simp] theorem AtomOp.ofCode?_code (o : AtomOp) : AtomOp.ofCode? o.code = some o := by cases o <;> rfl
@[simp] theorem RedOp.ofCode?_code (o : RedOp) : RedOp.ofCode? o.code = some o := by cases o <;> rfl
@[simp] theorem ShflMode.ofCode?_code (m : ShflMode) : ShflMode.ofCode? m.code = some m := by cases m <;> rfl
@[simp] theorem VoteMode.ofCode?_code (m : VoteMode) : VoteMode.ofCode? m.code = some m := by cases m <;> rfl
@[simp] theorem ThdlMode.ofCode?_code (m : ThdlMode) : ThdlMode.ofCode? m.code = some m := by cases m <;> rfl
@[simp] theorem ChMode.ofCode?_code (m : ChMode) : ChMode.ofCode? m.code = some m := by cases m <;> rfl

@[simp] theorem Order.code_lt (o : Order) : o.code < 4 := by cases o <;> decide
@[simp] theorem Hint.code_lt (h : Hint) : h.code < 4 := by cases h <;> decide
@[simp] theorem Width.code_lt (w : Width) : w.code < 8 := by cases w <;> decide
@[simp] theorem Ty.code_lt (t : Ty) : t.code < 16 := by cases t <;> decide
@[simp] theorem Cond.code_lt (c : Cond) : c.code < 16 := by cases c <;> decide
@[simp] theorem AtomOp.code_lt (o : AtomOp) : o.code < 16 := by cases o <;> decide
@[simp] theorem RedOp.code_lt (o : RedOp) : o.code < 16 := by cases o <;> decide
@[simp] theorem ShflMode.code_lt (m : ShflMode) : m.code < 16 := by cases m <;> decide
@[simp] theorem VoteMode.code_lt (m : VoteMode) : m.code < 16 := by cases m <;> decide
@[simp] theorem ThdlMode.code_lt (m : ThdlMode) : m.code < 16 := by cases m <;> decide
@[simp] theorem ChMode.code_lt (m : ChMode) : m.code < 16 := by cases m <;> decide

/-! ### The base word and the extension words -/

theorem joinBase_lt {f : Base} (h : f.op < 256) : joinBase f < 2 ^ 32 := by
  have hd := f.d.isLt; have ha := f.a.isLt; have hb := f.b.isLt
  have hwa := f.wa.toNat_lt; have hwb := f.wb.toNat_lt; have hn := f.n.toNat_lt
  rw [joinBase]
  omega

theorem joinBase_op (f : Base) : joinBase f / 2 ^ 24 = f.op := by
  have hd := f.d.isLt; have ha := f.a.isLt; have hb := f.b.isLt
  have hwa := f.wa.toNat_lt; have hwb := f.wb.toNat_lt; have hn := f.n.toNat_lt
  rw [joinBase]
  omega

theorem splitBase_joinBase {f : Base} (h : f.op < 256) : splitBase (joinBase f) = f := by
  obtain ⟨op, d, a, b, wa, wb, n⟩ := f
  have hd := d.isLt; have ha := a.isLt; have hb := b.isLt
  have hwa := wa.toNat_lt; have hwb := wb.toNat_lt; have hn := n.toNat_lt
  have hop : op < 256 := h
  rw [splitBase, Base.mk.injEq]
  refine ⟨?_, regAt_of_val ?_, regAt_of_val ?_, regAt_of_val ?_, bit_of_toNat ?_, bit_of_toNat ?_,
    bit_of_toNat ?_⟩ <;> simp only [joinBase] <;> omega

/-- The fields of an EXT-C lie in their bits (R49). -/
structure ExtC.Fits (x : ExtC) : Prop where
  cond : x.cond < 16
  ty : x.ty < 16
  spec : x.spec < 2 ^ 16

theorem joinC_lt {x : ExtC} (h : x.Fits) : joinC x < 2 ^ 32 := by
  have hc := x.c.isLt; have hwc := x.wc.toNat_lt
  obtain ⟨hcond, hty, hspec⟩ := h
  rw [joinC]
  omega

theorem splitC_joinC {x : ExtC} (h : x.Fits) : splitC (joinC x) = x := by
  obtain ⟨c, wc, cond, ty, spec⟩ := x
  have hc := c.isLt; have hwc := wc.toNat_lt
  obtain ⟨hcond, hty, hspec⟩ := h
  simp only at hcond hty hspec
  rw [splitC, ExtC.mk.injEq]
  refine ⟨regAt_of_val ?_, bit_of_toNat ?_, ?_, ?_, ?_⟩ <;> simp only [joinC] <;> omega

theorem joinM_lt {m : MemExt} {spec : Nat} (h : spec < 16) : joinM m spec < 2 ^ 32 := by
  have hoff := m.off.isLt; have hord := m.ord.code_lt; have hwid := m.wid.code_lt; have hhint := m.hint.code_lt
  have hc := m.obs.c.toNat_lt; have hx := m.obs.x.toNat_lt; have hm := m.obs.m.toNat_lt
  have hp := m.obs.p.toNat_lt; have hh := m.obs.h.toNat_lt
  rw [joinM]
  omega

theorem splitM_joinM {m : MemExt} {spec : Nat} (h : spec < 16) : splitM (joinM m spec) = some (m, spec) := by
  obtain ⟨off, ⟨c, x, p, q, o⟩, ord, wid, hint⟩ := m
  have hoff := off.isLt; have hord := ord.code_lt; have hwid := wid.code_lt; have hhint := hint.code_lt
  have hc := c.toNat_lt; have hx := x.toNat_lt; have hp := p.toNat_lt; have hq := q.toNat_lt
  have ho := o.toNat_lt
  have width : joinM ⟨off, ⟨c, x, p, q, o⟩, ord, wid, hint⟩ spec / 2 ^ 6 % 8 = wid.code := by
    simp only [joinM]; omega
  have order : joinM ⟨off, ⟨c, x, p, q, o⟩, ord, wid, hint⟩ spec / 2 ^ 9 % 4 = ord.code := by
    simp only [joinM]; omega
  have hints : joinM ⟨off, ⟨c, x, p, q, o⟩, ord, wid, hint⟩ spec / 2 ^ 4 % 4 = hint.code := by
    simp only [joinM]; omega
  have offset : BitVec.ofNat 16 (joinM ⟨off, ⟨c, x, p, q, o⟩, ord, wid, hint⟩ spec / 2 ^ 16) = off := by
    apply BitVec.eq_of_toNat_eq
    simp only [joinM, BitVec.toNat_ofNat]; omega
  rw [splitM, width, order, hints, offset]
  simp only [Width.ofCode?_code, Order.ofCode_code, Hint.ofCode_code, Option.some.injEq, Prod.mk.injEq,
    MemExt.mk.injEq, Obs.mk.injEq, true_and, and_true]
  refine ⟨⟨bit_of_toNat ?_, bit_of_toNat ?_, bit_of_toNat ?_, bit_of_toNat ?_, bit_of_toNat ?_⟩, ?_⟩ <;>
    simp only [joinM] <;> omega

/-! ### From the bytes to the fields -/

theorem decodeWords_join {f : Base} {e : Nat} (hop : f.op < 256) (he : e < 2 ^ 32) :
    decodeWords (joinBase f) e = decodeFields f e := by
  rw [decodeWords, splitBase_joinBase hop, Nat.mod_eq_of_lt he]

theorem leNat_word {x : Nat} (h : x < 2 ^ 32) : leNat (leBytes 4 x) = x := by
  rw [Machine.leNat_leBytes]
  exact Nat.mod_eq_of_lt h

theorem decode_short {b : Nat} {i : Instr} (hb : b < 2 ^ 32) (hx : hasExt (b / 2 ^ 24) = false)
    (h : decodeWords b 0 = .ok i) : decode (leBytes 4 b) = .ok (i, []) := by
  have base := leNat_word hb
  simp only [leBytes] at base
  simp only [leBytes, decode, base, hx, h, Bool.false_eq_true, if_false]

theorem decode_long {b e : Nat} {i : Instr} (hb : b < 2 ^ 32) (he : e < 2 ^ 32) (hx : hasExt (b / 2 ^ 24) = true)
    (h : decodeWords b e = .ok i) : decode (leBytes 4 b ++ leBytes 4 e) = .ok (i, []) := by
  have base := leNat_word hb
  have ext := leNat_word he
  simp only [leBytes] at base ext
  simp only [leBytes, List.cons_append, List.nil_append, decode, base, ext, hx, h, if_true]

theorem decode_bytesOfFields {f : Base} {e : Nat} {i : Instr} (hop : f.op < 256) (he : e < 2 ^ 32)
    (hx : hasExt f.op = false → e = 0) (h : decodeFields f e = .ok i) :
    decode (bytesOfFields f e) = .ok (i, []) := by
  have hb := joinBase_lt hop
  have op := joinBase_op f
  rw [← decodeWords_join hop he] at h
  cases hh : hasExt f.op with
  | true =>
    rw [bytesOfFields, hh, if_pos rfl]
    exact decode_long hb he (op ▸ hh) h
  | false =>
    rw [bytesOfFields, hh, if_neg Bool.false_ne_true, List.append_nil]
    exact decode_short hb (op ▸ hh) (hx hh ▸ h)

/-! ### Fields inside SPEC and EXT-I -/

section
variable (p q : Bool)

/-- SPEC of `tget`: the default and the acquire bit. -/
theorem flags_low : bit (p.toNat * 2 + q.toNat) 0 = q ∧ bit (p.toNat * 2 + q.toNat) 1 = p ∧
    (p.toNat * 2 + q.toNat) / 4 = 0 := by
  cases p <;> cases q <;> decide

/-- A tag under the bit that provides it, in SPEC of `tins`. -/
theorem tag_fields (t : BitVec 12) : BitVec.ofNat 12 (p.toNat * 2 ^ 12 + t.toNat) = t ∧
    bit (p.toNat * 2 ^ 12 + t.toNat) 12 = p ∧ (p.toNat * 2 ^ 12 + t.toNat) / 2 ^ 13 = 0 := by
  have ht := t.isLt; have hp := p.toNat_lt
  refine ⟨BitVec.eq_of_toNat_eq ?_, bit_of_toNat ?_, ?_⟩
  · rw [BitVec.toNat_ofNat]; omega
  · omega
  · omega

/-- SPEC of the remote calls: the numbers of results and parameters and two flags. -/
theorem call_fields {nr np : Nat} (hr : nr ≤ 4) (hp : np ≤ 8) :
    let x := p.toNat * 2 ^ 9 + q.toNat * 2 ^ 8 + nr * 16 + np
    x / 2 ^ 10 = 0 ∧ bit x 7 = false ∧ bit x 9 = p ∧ bit x 8 = q ∧ x / 16 % 8 = nr ∧ x % 16 = np := by
  have hp := p.toNat_lt; have hq := q.toNat_lt
  exact ⟨by omega, bit_of_toNat (by rw [Bool.toNat_false]; omega), bit_of_toNat (by omega), bit_of_toNat (by omega),
    by omega, by omega⟩

/-- SPEC of `tgath`: a count below 512 under the default bit. -/
theorem gather_fields (n : Fin 512) : Fin.ofNat 512 (p.toNat * 2 ^ 9 + n.val) = n ∧
    bit (p.toNat * 2 ^ 9 + n.val) 9 = p ∧ (p.toNat * 2 ^ 9 + n.val) / 2 ^ 10 = 0 := by
  have hn := n.isLt; have hp := p.toNat_lt
  refine ⟨Fin.ext ?_, bit_of_toNat ?_, ?_⟩
  · rw [Fin.val_ofNat]; omega
  · omega
  · omega

/-- EXT-I of `trd`: a length below 512 under the acquire bit. -/
theorem read_fields {n : Nat} (h : n ≤ 256) :
    (p.toNat * 2 ^ 9 + n) / 2 ^ 10 = 0 ∧ bit (p.toNat * 2 ^ 9 + n) 9 = p ∧
    (p.toNat * 2 ^ 9 + n) % 512 = n := by
  have hp := p.toNat_lt
  refine ⟨?_, bit_of_toNat ?_, ?_⟩ <;> omega

end

/-- SPEC of the bit-field instructions: a position and a length minus 1, 5 bits each. -/
theorem bitField_fields (l p : Fin 32) : Fin.ofNat 32 (l.val * 2 ^ 8 + p.val) = p ∧
    Fin.ofNat 32 ((l.val * 2 ^ 8 + p.val) / 2 ^ 8) = l ∧ (l.val * 2 ^ 8 + p.val) / 2 ^ 13 = 0 ∧
    (l.val * 2 ^ 8 + p.val) / 32 % 8 = 0 := by
  have hl := l.isLt; have hp := p.isLt
  refine ⟨Fin.ext ?_, Fin.ext ?_, ?_, ?_⟩
  · rw [Fin.val_ofNat]; omega
  · rw [Fin.val_ofNat]; omega
  · omega
  · omega

/-- EXT-I of `thdl`: a mode and a core, with a gap. -/
theorem mode_fields (m : ThdlMode) (c : Fin 16) : ThdlMode.ofCode? ((c.val * 2 ^ 8 + m.code) % 16) = some m ∧
    (c.val * 2 ^ 8 + m.code) / 16 % 16 = 0 ∧ (c.val * 2 ^ 8 + m.code) / 2 ^ 12 = 0 ∧
    Fin.ofNat 16 ((c.val * 2 ^ 8 + m.code) / 2 ^ 8) = c := by
  have hc := c.isLt; have hm := m.code_lt
  refine ⟨?_, ?_, ?_, Fin.ext ?_⟩
  · rw [show (c.val * 2 ^ 8 + m.code) % 16 = m.code by omega, ThdlMode.ofCode?_code]
  · omega
  · omega
  · rw [Fin.val_ofNat]; omega

/-- EXT-I of `qdef`: a depth below the width minus 1. -/
theorem queue_fields (w : Fin 8) {n : Nat} (h : n ≤ 4096) : (w.val * 2 ^ 16 + n) % 2 ^ 16 = n ∧
    Fin.ofNat 8 ((w.val * 2 ^ 16 + n) / 2 ^ 16) = w ∧ (w.val * 2 ^ 16 + n) / 2 ^ 19 = 0 := by
  have hw := w.isLt
  refine ⟨by omega, Fin.ext ?_, by omega⟩
  rw [Fin.val_ofNat]; omega

/-- EXT-I of the branches: a target and a rejoin offset, 16 bits each (R51). -/
theorem halves_fields (h l : BitVec 16) : BitVec.ofNat 16 ((h.toNat * 2 ^ 16 + l.toNat) / 2 ^ 16) = h ∧
    BitVec.ofNat 16 (h.toNat * 2 ^ 16 + l.toNat) = l := by
  have hh := h.isLt; have hl := l.isLt
  constructor <;> refine BitVec.eq_of_toNat_eq ?_ <;> rw [BitVec.toNat_ofNat] <;> omega

/-! ### The forms of the base word (R67, R68) -/

section
variable {op : Nat} {d a b : Reg} {wa wb n : Bool} {k : Dec}

@[simp] theorem uDAB_word : uDAB ⟨op, d, a, b, wa, wb, false⟩ k = k := rfl
@[simp] theorem fDA_uni : fDA false ⟨op, d, a, 0, wa, false, false⟩ k = k := rfl
@[simp] theorem fDA_lane : fDA true ⟨op, d, a, 0, wa, false, n⟩ k = k := rfl
@[simp] theorem fD_uni : fD false ⟨op, d, 0, 0, false, false, false⟩ k = k := rfl
@[simp] theorem fD_lane : fD true ⟨op, d, 0, 0, false, false, n⟩ k = k := rfl
@[simp] theorem fA_uni : fA false ⟨op, 0, a, 0, wa, false, false⟩ k = k := rfl
@[simp] theorem fA_lane : fA true ⟨op, 0, a, 0, wa, false, n⟩ k = k := rfl
@[simp] theorem fLit_word : fLit ⟨op, 0, a, 0, false, false, false⟩ k = k := rfl
@[simp] theorem fAB_uni : fAB false ⟨op, 0, a, b, wa, wb, false⟩ k = k := rfl
@[simp] theorem fAB_lane : fAB true ⟨op, 0, a, b, wa, wb, n⟩ k = k := rfl
@[simp] theorem f0_word : f0 ⟨op, 0, 0, 0, false, false, false⟩ k = k := rfl

end

@[simp] theorem zeroes_true (k : Dec) : zeroes true k = k := rfl
@[simp] theorem legal_true (k : Dec) : legal true k = k := rfl
@[simp] theorem named_some {α : Type} (x : α) (k : α → Dec) : named (some x) k = k x := rfl

theorem withM_joinM {m : MemExt} {spec : Nat} (h : spec < 16) (k : MemExt → Nat → Dec) :
    withM (joinM m spec) k = k m spec := by
  rw [withM, splitM_joinM h]

/-! ### Instructions in their fields -/

/-- What makes a round trip: fields that fit their words, no extension where the opcode has none, and a decoder
of the fields that gives the instruction back. -/
structure RoundTrips (i : Instr) (f : Base) (e : Nat) : Prop where
  op : f.op < 256
  ext : e < 2 ^ 32
  short : hasExt f.op = false → e = 0
  decodes : decodeFields f e = .ok i

section
variable {i : Instr} {f : Base} (w : i.wf = true) (op : f.op < 256)
include w op

theorem roundTrips_of_base (dec : decodeFields f 0 = checked i) : RoundTrips i f 0 :=
  ⟨op, by decide, fun _ => rfl, dec.trans (if_pos w)⟩

theorem roundTrips_of_ext {e : Nat} (hx : hasExt f.op = true) (he : e < 2 ^ 32)
    (dec : decodeFields f e = checked i) : RoundTrips i f e :=
  ⟨op, he, fun h => absurd (h.symm.trans hx) Bool.false_ne_true, dec.trans (if_pos w)⟩

theorem roundTrips_of_extC {x : ExtC} (hx : hasExt f.op = true) (fits : x.Fits)
    (dec : splitC (joinC x) = x → decodeFields f (joinC x) = checked i) : RoundTrips i f (joinC x) :=
  roundTrips_of_ext w op hx (joinC_lt fits) (dec (splitC_joinC fits))

theorem roundTrips_of_extM {m : MemExt} {spec : Nat} (hx : hasExt f.op = true) (hs : spec < 16)
    (dec : (∀ k, withM (joinM m spec) k = k m spec) → decodeFields f (joinM m spec) = checked i) :
    RoundTrips i f (joinM m spec) :=
  roundTrips_of_ext w op hx (joinM_lt hs) (dec (withM_joinM hs))

end

/-- Every well-formed word makes a round trip, by the formats of R47 to R51: no extension, EXT-C, EXT-M, EXT-I;
events have no fields. -/
theorem roundTrips (i : Instr) (w : i.wf = true) (f : Base) (e : Nat) (h : encodeFields i = some (f, e)) :
    RoundTrips i f e := by
  cases i
  -- no extension
  case wfull lane a wa =>
    cases h
    exact roundTrips_of_base w (by simp) (by cases lane <;> simp [decodeFields, decode0])
  case nop | exit | ret | jmp | pdp | pdi | pdo | gsr | gssr | gadd | gsub | gmul | gand | gor | gxor | gshl | gshr |
      gsar | gmin | gminn | gmax | gmaxn | gmov | gcnt | gclz | gfadd | gfmul | barA | barW | barS | qpsh | qpop |
      sdef | sacq | srel | yieldp | hret | lnch | lwt | xseal | xwait | mseal | mwait | mzero | mld | mst | mma | fbeg
      | fend | fabt | fsta | trep | cwb | cinv | cunp | aphl | iaddI32 | isubI32 | imulI32 | imulhI32 | imulhN32 |
      iaddI64 | isubI64 | iminI32 | iminN32 | imaxI32 | imaxN32 | iabs | ineg | idivI32 | idivN32 | iand | ior | ixor
      | inot | ishl | ishr | isar | icnt | iclz | ipk | imov | faddF32 | fsubF32 | fmulF32 | fminF32 | fmaxF32 | fabs
      | frcp | frsq | fsqrt | fdivF32 | fex2 | flg2 | fsnp | fcsp | ftnh | gtov | vtog | ipfx | rnd =>
    cases h
    exact roundTrips_of_base w (by simp) (by
      simp [decodeFields, decode0, decode1, decode2, decode3, decode4, decode5, decode6, decode8, decode9, decodeA,
        decodeB])
  -- EXT-C
  case gmad | gsel | gfma | imadI32 | isel | fmaF32 | samp =>
    cases h
    exact roundTrips_of_extC w (by simp) rfl ⟨by simp, by simp, by simp⟩ fun x => by
      simp [decodeFields, decode1, decode2, decode8, decode9, decodeA, decodeC, x, noCTS]
  case gcmp | gfcmp | fcmpF32 | shfl | vred | vscn | vote | tdelU | tdelV =>
    cases h
    exact roundTrips_of_extC w (by simp) rfl ⟨by simp, by simp, by simp⟩ fun x => by
      simp [decodeFields, decode1, decode2, decode5, decodeA, decodeB, decodeC, x, noC]
  case gcvt d a wa dst src | cvt d a wa n dst src =>
    cases h
    have hs := src.code_lt
    exact roundTrips_of_extC w (by simp) rfl ⟨by simp, by simp, hs.trans (by decide)⟩ fun x => by
      simp [decodeFields, decode2, decodeB, x, noC, Nat.div_eq_of_lt hs]
  case gmulh d a b wa wb c | icmp d a b wa wb n cond c | faddH2 d a b wa wb n c | fmulH2 d a b wa wb n c |
      fmaH2 d a b r wa wb wr n c | fdp2 d a b r wa wb wr n c | xpk d a r wa n c | xupk d a r wa wr n c =>
    cases h
    exact roundTrips_of_extC w (by simp) rfl ⟨by simp, by cases c <;> simp, by simp⟩ fun x => by
      simp only [decodeFields, decode1, decode9, decodeA, decodeB, x]
      cases c <;> simp [noC]
  case tgath a b c wa wb ty n dft =>
    cases h
    obtain ⟨count, flag, rest⟩ := gather_fields dft n
    exact roundTrips_of_extC w (by simp) rfl ⟨by simp, by simp, by simp; omega⟩ fun x => by
      simp only [decodeFields, decode4, x, count, flag, rest]
      simp
  case rcall d a b c wa wb wc may trp nr np | rcallv d a b c wa wb wc n may trp nr np =>
    cases h
    have small : nr ≤ 4 ∧ np ≤ 8 := by simp [Instr.wf] at w; omega
    obtain ⟨rest, seven, nine, eight, results, params⟩ := call_fields may trp small.1 small.2
    exact roundTrips_of_extC w (by simp) rfl ⟨by simp, by simp, by simp; omega⟩ fun x => by
      simp only [decodeFields, decode4, decodeC, x, rest, seven, nine, eight, results, params]
      simp
  case tgetU d a b c wa wb ty p q | tgetV d a b c wa wb n ty p q =>
    cases h
    obtain ⟨low, high, rest⟩ := flags_low q p
    exact roundTrips_of_extC w (by simp) rfl ⟨by simp, by simp, by simp; omega⟩ fun x => by
      simp only [decodeFields, decode5, decodeC, x, low, high, rest]
      simp
  case tinsU d a b wa wb tag prov | tinsV d a b wa wb n tag prov =>
    cases h
    obtain ⟨number, flag, rest⟩ := tag_fields prov tag
    exact roundTrips_of_extC w (by simp) rfl ⟨by simp, by simp, by simp; omega⟩ fun x => by
      simp only [decodeFields, decode5, decodeC, x, number, flag, rest]
      simp [noC]
  case tcom d a b wa wb ty tag | trbk d a b wa wb ty tag =>
    cases h
    have ht := tag.isLt
    exact roundTrips_of_extC w (by simp) rfl ⟨by simp, by simp, ht.trans (by decide)⟩ fun x => by
      simp [decodeFields, decode5, x, noC, Nat.div_eq_of_lt ht]
  case ibfe d a wa n c pos lm1 =>
    cases h
    obtain ⟨low, high, rest, gap⟩ := bitField_fields lm1 pos
    exact roundTrips_of_extC w (by simp) rfl ⟨by simp, by cases c <;> simp, by simp; omega⟩ fun x => by
      simp only [decodeFields, decode9, x, low, high, rest, gap]
      cases c <;> simp [noC]
  case ibfi d a wa n pos lm1 =>
    cases h
    obtain ⟨low, high, rest, gap⟩ := bitField_fields lm1 pos
    exact roundTrips_of_extC w (by simp) rfl ⟨by simp, by simp, by simp; omega⟩ fun x => by
      simp only [decodeFields, decode9, x, low, high, rest, gap]
      simp [noC]
  case tscn d a b c wa wb wc n ty p | tstp d a c wa n ty p =>
    cases h
    exact roundTrips_of_extC w (by simp) rfl ⟨by simp, by simp, by cases p <;> simp⟩ fun x => by
      simp only [decodeFields, decodeC, x]
      cases p <;> simp
  -- EXT-M
  case fnc | gst | gatm | gred | st | atm | red =>
    cases h
    exact roundTrips_of_extM w (by simp) rfl (by simp) fun x => by
      simp only [decodeFields, decode3, decode5, decodeC, x]
      simp
  case gld d a wa sx m | ld d a wa n sx m =>
    cases h
    exact roundTrips_of_extM w (by simp) rfl (by cases sx <;> simp) fun x => by
      simp only [decodeFields, decode5, decodeC, x]
      cases sx <;> simp
  -- EXT-I
  case br t | call d t =>
    cases h
    have ht := t.isLt
    exact roundTrips_of_ext w (by simp) rfl (by omega) (by simp [decodeFields, decode0])
  case brc a wa n t j =>
    cases h
    have ht := t.isLt; have hj := j.isLt
    obtain ⟨high, low⟩ := halves_fields t j
    exact roundTrips_of_ext w (by simp) rfl (by omega) (by
      simp only [decodeFields, decode0, high, low, fA_lane])
  case trap | gli | glih | ili =>
    cases h
    exact roundTrips_of_ext w (by simp) rfl (BitVec.isLt _) (by simp [decodeFields, decode0, decode2, decode9])
  case fmts img =>
    cases h
    have hi := img.isLt
    exact roundTrips_of_ext w (by simp) rfl (by omega) (by simp [decodeFields, decode0, Nat.div_eq_of_lt hi])
  case mmac t a b wa wb num =>
    cases h
    have hn := num.isLt
    exact roundTrips_of_ext w (by simp) rfl (by omega) (by simp [decodeFields, decode4, Nat.div_eq_of_lt hn])
  case tinfo d a wa sel =>
    cases h
    have hs := sel.isLt
    exact roundTrips_of_ext w (by simp) rfl (by omega) (by simp [decodeFields, decode5])
  case xring a b wa wb count =>
    have hc : count ≤ 16384 := by simpa [Instr.wf] using w
    cases h
    exact roundTrips_of_ext w (by simp) rfl (by omega) (by simp [decodeFields, decode4])
  case cret d a b wa wb ways =>
    have hw : 1 ≤ ways ∧ ways ≤ 8 := by simpa [Instr.wf] using w
    cases h
    exact roundTrips_of_ext w (by simp) rfl (by omega) (by simp [decodeFields, decode5])
  case chmode a b wa wb mode =>
    cases h
    have hm := mode.code_lt
    exact roundTrips_of_ext w (by simp) rfl (by omega) (by simp [decodeFields, decode6])
  case thdl d a wa mode core =>
    cases h
    have hm := mode.code_lt; have hc := core.isLt
    obtain ⟨low, gap, rest, high⟩ := mode_fields mode core
    exact roundTrips_of_ext w (by simp) rfl (by omega) (by
      simp only [decodeFields, decode5, low, gap, rest, high]
      simp)
  case qdef a q wa wm1 depth =>
    cases h
    have hm := wm1.isLt
    have hd : depth ≤ 4096 := by simp [Instr.wf] at w; exact w.2
    obtain ⟨low, high, rest⟩ := queue_fields wm1 hd
    exact roundTrips_of_ext w (by simp) rfl (by omega) (by
      simp only [decodeFields, decode3, low, high, rest]
      simp)
  case trd d a wa n acq len =>
    cases h
    have hl : len ≤ 256 := by simp [Instr.wf] at w; omega
    have ha := acq.toNat_lt
    obtain ⟨rest, flag, low⟩ := read_fields acq hl
    exact roundTrips_of_ext w (by simp) rfl (by omega) (by
      simp only [decodeFields, decodeC, low, flag, rest]
      simp)
  -- events
  all_goals cases h

/-- Settles O57: the bytes give back the words, the words their fields, and the fields the instruction. -/
theorem decodeEncodeRoundTrip : Obligations.DecodeEncodeRoundTrip := by
  intro i bytes w h
  rw [encode] at h
  cases hf : encodeFields i with
  | none => simp [hf] at h
  | some fe =>
    obtain ⟨f, e⟩ := fe
    obtain rfl : bytesOfFields f e = bytes := by simpa [hf] using h
    obtain ⟨op, ext, short, decodes⟩ := roundTrips i w f e hf
    exact decode_bytesOfFields op ext short decodes

/-- Settles O60: the decoder computes on each of the spec's words. -/
theorem decodeWorkedWords : Obligations.DecodeWorkedWords := by
  unfold Obligations.DecodeWorkedWords
  decide

end Sys2Proof
end

section
/-! Operands that do not pass (O18). -/

namespace Sys2Proof.Machine

/-! ### The gate of a word, check by check -/

theorem Opd.any_or_iff (o : Opd) (b : Bool) (m n : BitVec 128) (x : BitVec 136) :
    o.any b (m ||| n) x = true ↔ o.any b m x = true ∨ o.any b n 0 = true := by
  refine ⟨fun h => ?_, fun h => ?_⟩
  · by_contra none
    simp only [not_or, Bool.not_eq_true] at none
    rw [Opd.any_or o b m n x none.1 none.2] at h
    exact Bool.false_ne_true h
  · by_contra none
    rw [Bool.not_eq_true] at none
    rw [Opd.any_of_or_left o b m n x none, Opd.any_of_or o b m n x none] at h
    exact h.elim Bool.false_ne_true Bool.false_ne_true

section
variable (s : State) (u : Uses)

/-- A lane register at or beyond the launch's registers per lane (R70 step 7). -/
def State.Beyond : Prop := ∃ o ∈ u.srcs ++ u.dsts, o.lane = true ∧ s.curLaunch.rpl < o.r + o.n
/-- An operand with an empty register (R60). -/
def State.Empty (o : Opd) : Prop := o.any s.curS s.cur.emptyV s.cur.emptyG = true
/-- An empty source with W set (R61). -/
def State.EmptyW : Prop := ∃ o ∈ u.srcs, o.w = true ∧ s.Empty o
/-- An empty source (R61). -/
def State.EmptySrc : Prop := ∃ o ∈ u.all, s.Empty o
/-- A poisoned source (R64). -/
def State.Poisoned : Prop := ∃ o ∈ u.all, o.any s.curS s.cur.poisonV s.cur.poisonG = true
/-- A destination that is empty or held by the matrix unit (R62, R63). -/
def State.Busy : Prop := ∃ o ∈ u.dsts, s.Empty o ∨ o.any s.curS (s.heldOf s.curG) 0 = true

open Classical in
/-- The gate of a word with its checks as propositions, in their order. -/
theorem State.gate_eq : s.gate u =
    if s.Beyond u then some (.trap .access 0)
    else if s.EmptyW u then some (.trap .emptyRead 0)
    else if s.EmptySrc u then some (.wait s)
    else match s.cur.markHit u.all with
      | some m => some (.trap .remoteFault (s.cur.markStatus m))
      | none =>
        if s.Poisoned u then some (.trap .poison 0) else if s.Busy u then some (.wait s) else none := by
  simp only [State.gate, State.Beyond, State.EmptyW, State.EmptySrc, State.Poisoned, State.Busy, State.Empty,
    List.any_eq_true, Bool.and_eq_true, decide_eq_true_eq, Opd.any_or_iff]
  cases s.cur.markHit u.all with
  | some m => congr
  | none => dsimp only; congr

end

/-! ### From the gate to the word -/

/-- A word that computes in registers is its operand checks, then its own effect. -/
theorem exec_gated {i : Instr} {u : Uses} (h : usesOf i = some u) (s : State) :
    ∃ k, exec i s = s.finish (s.gated u k) := by
  cases i
  all_goals cases h
  all_goals exact ⟨_, rfl⟩

section
variable {i : Instr} {u : Uses} (h : usesOf i = some u) {s : State}
include h

theorem traps_of_gate {c : Cause} {d : W32} (hg : s.gate u = some (.trap c d)) : Traps i s c d := by
  obtain ⟨k, exe⟩ := exec_gated h s
  rw [Traps, exe, State.gated, hg, State.finish_trap]

theorem waits_of_gate (hg : s.gate u = some (.wait s)) : Waits i s := by
  obtain ⟨k, exe⟩ := exec_gated h s
  rw [Waits, exe, State.gated, hg, State.finish_wait]

end

/-- Settles O18: a word that computes in registers goes by its gate, and each clause is one check of the gate. -/
theorem operandsThatDoNotPass : Obligations.OperandsThatDoNotPass := by
  intro i s u h
  have gate := s.gate_eq u
  have full : ¬s.EmptySrc u → ¬s.EmptyW u := fun he ⟨o, ho, _, hx⟩ => he ⟨o, List.mem_append_left _ ho, hx⟩
  refine ⟨fun (hb : s.Beyond u) => traps_of_gate h ?_,
    fun (hb : ¬s.Beyond u) (hw : s.EmptyW u) => traps_of_gate h ?_,
    fun (hb : ¬s.Beyond u) (hw : ¬s.EmptyW u) (he : s.EmptySrc u) => waits_of_gate h ?_,
    fun (hb : ¬s.Beyond u) (he : ¬s.EmptySrc u) m hm => traps_of_gate h ?_,
    fun (hb : ¬s.Beyond u) (he : ¬s.EmptySrc u) hm (hp : s.Poisoned u) => traps_of_gate h ?_,
    fun (hb : ¬s.Beyond u) (he : ¬s.EmptySrc u) hm (hp : ¬s.Poisoned u) (hd : s.Busy u) => waits_of_gate h ?_⟩
  · rw [gate, if_pos hb]
  · rw [gate, if_neg hb, if_pos hw]
  · rw [gate, if_neg hb, if_neg hw, if_pos he]
  · rw [gate, if_neg hb, if_neg (full he), if_neg he, hm]
  · rw [gate, if_neg hb, if_neg (full he), if_neg he, hm]
    exact if_pos hp
  · rw [gate, if_neg hb, if_neg (full he), if_neg he, hm]
    exact (if_neg hp).trans (if_pos hd)

end Sys2Proof.Machine
end

section
/-! SUPPORT. Bytes as a reader finds them, and the word that a slot fetches. -/

namespace Sys2Proof.Machine

/-! ### Units of bytes and what a reader sees of them (R305, R306) -/

theorem mem_squeeze {l : List Nat} {x : Nat} : x ∈ squeeze l ↔ x ∈ l := by
  induction l with
  | nil => rfl
  | cons y r ih =>
    rw [squeeze]
    split
    · next h =>
      have hy : y ∈ r := List.mem_of_mem_head? h
      rw [ih, List.mem_cons]
      exact ⟨.inr, fun hx => hx.elim (· ▸ hy) id⟩
    · rw [List.mem_cons, ih, List.mem_cons]

theorem mem_unitsOf {keys : List Nat} {u : Nat} : u ∈ unitsOf keys ↔ ∃ k ∈ keys, unitOf k = u := by
  rw [unitsOf, mem_dedup_iff, mem_squeeze, List.mem_map]

theorem unitOf_unitOf (k : Nat) : unitOf (32 * unitOf k) = unitOf k := by
  simp only [unitOf, flatKey, sideBase]
  omega

theorem aget_map_of_mem {α : Type} (f : Nat → α) {us : List Nat} {u : Nat} (h : u ∈ us) :
    aget (us.map fun v => (v, f v)) u = some (f u) := by
  induction us with
  | nil => cases h
  | cons v r ih =>
    by_cases hv : v = u
    · simp [aget, hv]
    · simpa [aget, hv] using ih ((List.mem_cons.1 h).resolve_left (Ne.symm hv))

section
variable (s : State) (rd : Nat → Byte) (keys : List Nat)

theorem State.see_bytes : (s.see rd keys).bytes =
    keys.map fun k => (s.openUnit rd (unitOf k)).1.getD (k % 32) 0 := by
  refine List.map_congr_left fun k hk => ?_
  rw [aget_map_of_mem _ (mem_unitsOf.2 ⟨k, hk, rfl⟩), Option.getD_some]

theorem State.see_bad : (s.see rd keys).bad = true ↔
    ∃ k ∈ keys, (s.openUnit rd (unitOf k)).2 = true ∨ s.mem.poison.contains (unitOf k) = true := by
  have units : (s.see rd keys).bad = true ↔
      ∃ u ∈ unitsOf keys, (s.openUnit rd u).2 = true ∨ s.mem.poison.contains u = true := by
    simp only [Seen.bad, State.see, Bool.not_eq_true', List.isEmpty_eq_false_iff, ne_eq, List.map_eq_nil_iff,
      List.filter_eq_nil_iff, List.forall_mem_map, Bool.or_eq_true, not_forall, not_not, exists_prop]
  rw [units]
  constructor
  · rintro ⟨u, hu, h⟩
    obtain ⟨k, hk, rfl⟩ := mem_unitsOf.1 hu
    exact ⟨k, hk, h⟩
  · rintro ⟨k, hk, h⟩
    exact ⟨unitOf k, mem_unitsOf.2 ⟨k, hk, rfl⟩, h⟩

theorem State.anyPoison_eq : s.anyPoison keys = (s.homeSeen keys).bad := by
  rw [Bool.eq_iff_iff, State.homeSeen, State.see_bad, State.anyPoison, List.any_eq_true]
  constructor
  · rintro ⟨u, hu, h⟩
    obtain ⟨k, hk, rfl⟩ := mem_unitsOf.1 hu
    rw [State.unitPoisoned, unitOf_unitOf, Bool.or_eq_true] at h
    exact ⟨k, hk, h.symm⟩
  · rintro ⟨k, hk, h⟩
    refine ⟨unitOf k, mem_unitsOf.2 ⟨k, hk, rfl⟩, ?_⟩
    rw [State.unitPoisoned, unitOf_unitOf, Bool.or_eq_true]
    exact h.symm

variable {s rd keys}

theorem State.see_bad_mono {keys' : List Nat} (hk : keys ⊆ keys') (h : (s.see rd keys').bad = false) :
    (s.see rd keys).bad = false := by
  rw [← Bool.not_eq_true, State.see_bad] at h ⊢
  rintro ⟨k, hk', hb⟩
  exact h ⟨k, hk hk', hb⟩

/-- A byte of memory that is not encrypted reads as it is stored. -/
theorem State.openUnit_plain {k : Nat} (hk : k < sideBase) (h : s.slotOfKey (32 * unitOf k) = none) :
    (s.openUnit rd (unitOf k)).1.getD (k % 32) 0 = rd k := by
  have hlt : k % 32 < 32 := Nat.mod_lt _ (by decide)
  have hu : 32 * unitOf k + k % 32 = k := by
    rw [unitOf, flatKey, Nat.mod_eq_of_lt hk]
    omega
  rw [State.openUnit, h]
  simp only [unitKeys, List.map_map, List.getD_eq_getElem?_getD, List.getElem?_map, List.getElem?_range hlt]
  simp [hu]

end

/-- The units of a table that is not owner-written are not encrypted (R305). -/
theorem State.slotOfKey_unit {s : State} {tid pos : Nat} (ht : tid < 2 ^ 20) (hp : pos < 2 ^ 42)
    (ho : (s.table tid).ownw = false) : s.slotOfKey (32 * unitOf (tid * 2 ^ 42 + pos)) = none := by
  have flat : flatKey (32 * unitOf (tid * 2 ^ 42 + pos)) = tid * 2 ^ 42 + pos / 32 * 32 := by
    simp only [unitOf, flatKey, sideBase]
    omega
  have priv : isPriv (32 * unitOf (tid * 2 ^ 42 + pos)) = false := by
    rw [isPriv, flat, privBase, decide_eq_false_iff_not]
    omega
  have tab : tidOfKey (32 * unitOf (tid * 2 ^ 42 + pos)) = tid := by
    rw [tidOfKey, flat]
    omega
  simp only [State.slotOfKey, priv, tab, ho, Bool.false_eq_true, if_false]

/-! ### The code of a launch (R70 step 1) -/

/-- The PC names a usable code table, and the `n` bytes of the word there lie in its rows. -/
structure State.InCode (s : State) (tid : Nat) (pc : W64) (n : Nat) : Prop where
  sound : (s.table tid).poisonDesc = false
  usable : (s.table tid).usable tid = true
  space : spaceOf pc = 0
  table : tidOf pc = tid
  first : posOf pc / (s.table tid).rowSize < (s.table tid).cap
  last : (posOf pc + n - 1) / (s.table tid).rowSize < (s.table tid).cap
  clean : s.anyPoison ((List.range n).map fun i => pc.toNat + i) = false

theorem four_le_lengthOf (op : Nat) : 4 ≤ lengthOf op := by
  unfold lengthOf
  split <;> decide

section
variable {s : State} {tid : Nat} {pc : W64} (h : s.InCode tid pc (lengthOf (s.codeOp pc).toNat))
include h

theorem State.InCode.seen : (s.codeSeen pc (lengthOf (s.codeOp pc).toNat)).bad = false ∧
    (s.codeSeen pc 4).bad = false := by
  have all : (s.codeSeen pc (lengthOf (s.codeOp pc).toNat)).bad = false := (s.anyPoison_eq _).symm.trans h.clean
  refine ⟨all, State.see_bad_mono (fun k hk => ?_) all⟩
  obtain ⟨i, hi, rfl⟩ := List.mem_map.1 hk
  exact List.mem_map_of_mem (List.mem_range.2 (Nat.lt_of_lt_of_le (List.mem_range.1 hi) (four_le_lengthOf _)))

/-- A word that decodes is fetched. -/
theorem State.InCode.fetchWord_ok {i : Instr} {rest : List Byte}
    (hd : decode (s.codeSeen pc (lengthOf (s.codeOp pc).toNat)).bytes = .ok (i, rest)) :
    s.fetchWord tid pc = .word i := by
  obtain ⟨seenAll, seen⟩ := h.seen
  obtain ⟨sound, usable, space, table, first, last, -⟩ := h
  have op : ((s.codeSeen pc 4).bytes.getD 3 0) = s.codeOp pc := rfl
  simp only [State.fetchWord, sound, usable, space, table, Table.inCode, first, last, seen, seenAll, op, hd]
  simp

/-- A word that does not decode faults (R69). -/
theorem State.InCode.fetchWord_error {e : DecodeErr}
    (hd : decode (s.codeSeen pc (lengthOf (s.codeOp pc).toNat)).bytes = .error e) :
    s.fetchWord tid pc = .fault .illegalOpcode [] := by
  obtain ⟨seenAll, seen⟩ := h.seen
  obtain ⟨sound, usable, space, table, first, last, -⟩ := h
  have op : ((s.codeSeen pc 4).bytes.getD 3 0) = s.codeOp pc := rfl
  simp only [State.fetchWord, sound, usable, space, table, Table.inCode, first, last, seen, seenAll, op, hd]
  simp

/-- The bytes of the word lie in the key range of the code table. -/
theorem State.InCode.keys : pc.toNat = tid * 2 ^ 42 + posOf pc ∧ tid < 2 ^ 20 ∧
    posOf pc + lengthOf (s.codeOp pc).toNat - 1 < 2 ^ 42 := by
  obtain ⟨-, usable, space, table, -, last, -⟩ := h
  have slots : (s.table tid).slots * (s.table tid).rowSize ≤ 2 ^ 42 := by
    simp only [Table.usable, Bool.and_eq_true, decide_eq_true_eq] at usable
    exact usable.2
  have room : (s.table tid).cap * (s.table tid).rowSize ≤ 2 ^ 42 := by
    refine Nat.le_trans (Nat.mul_le_mul_right _ ?_) slots
    unfold Table.slots
    split <;> omega
  have hpc := pc.isLt
  simp only [spaceOf, tidOf, field] at space table
  refine ⟨?_, by omega, Nat.lt_of_lt_of_le ((Nat.div_lt_iff_lt_mul (Nat.two_pow_pos _)).1 last) room⟩
  simp only [posOf, field]
  omega

/-- Code that is not owner-written is not encrypted: its bytes are those at the home. -/
theorem State.InCode.code_plain (ho : (s.table tid).ownw = false) {n : Nat}
    (hn : n ≤ lengthOf (s.codeOp pc).toNat) : (s.codeSeen pc n).bytes = bytesAt s.mem.home pc.toNat n := by
  obtain ⟨key, small, inside⟩ := h.keys
  rw [State.codeSeen, State.homeSeen, State.see_bytes, bytesAt, List.map_map]
  refine List.map_congr_left fun i hi => ?_
  have hi := List.mem_range.1 hi
  have place : pc.toNat + i = tid * 2 ^ 42 + (posOf pc + i) := by omega
  have hp : posOf pc + i < 2 ^ 42 := by omega
  refine State.openUnit_plain (k := pc.toNat + i) ?_ ?_
  · rw [sideBase]
    omega
  · rw [place]
    exact State.slotOfKey_unit small hp ho

end

/-! ### A slot issues (R277, R280) -/

theorem step_of_nextSlot {s : State} {g : Nat} {b : Bool} (h : s.nextSlot = some (g, b)) :
    step s = s.runSlot g b := by
  simp only [step, State.cycle, State.turn, h]

section
variable {s : State} {g : Nat} {b : Bool}

theorem runSlot_arrives {num : Nat} (hr : ((s.group g).path b).rj = some (((s.group g).path b).pc, num)) :
    s.runSlot g b = onNext (fun u => u.issued g b (s.coreOf g) none)
      (exec (.pathArrive g (bnat b)) (s.issuing g b)) := by
  simp [State.runSlot, State.fetch, State.fetchPath, State.pipeOf, hr]

theorem fetch_of_no_arrival (hr : ∀ num, ((s.group g).path b).rj ≠ some (((s.group g).path b).pc, num)) :
    s.fetch g b = s.fetchWord (s.launchOf g).codeTable ((s.group g).path b).pc ∧
    s.pipeOf ((s.group g).path b) = some (decide (0x80 ≤ (s.codeOp ((s.group g).path b).pc).toNat)) := by
  rw [State.fetch, State.fetchPath, State.pipeOf]
  cases hj : ((s.group g).path b).rj with
  | none => exact ⟨rfl, rfl⟩
  | some j =>
    obtain ⟨addr, num⟩ := j
    have away : ((s.group g).path b).pc ≠ addr := fun h => hr num (by rw [hj, h])
    exact ⟨if_neg away, if_neg away⟩

end

/-- What the issue leaves: the pipe has issued, the turn has passed, memory and registers are as before. -/
theorem issued_spec {u : State} {g : Nat} {x : Group} {b : Bool} (core : Nat) (pipe : Option Bool)
    (hx : aget u.groups g = some x) (hw : (x.slot b).waiting = false) :
    let t := u.issued g b core pipe
    t.spent = u.spent ++ (pipe.map fun l => (core, l)).toList ∧ (t.group g).last1 = b ∧ t.mem = u.mem ∧
    ∀ r, (t.group g).gval b r = x.gval b r := by
  have eq : u.issued g b core pipe = { u with
      groups := aput u.groups g (x.issued b u.now pipe.isSome)
      spent := u.spent ++ (pipe.map fun l => (core, l)).toList } := by
    simp only [State.issued, hx, hw, Bool.false_eq_true, if_false]
  have group : (u.issued g b core pipe).group g = x.issued b u.now pipe.isSome := by
    rw [eq, State.group, aget_aput_self, Option.getD_some]
  refine ⟨by rw [eq], by rw [group]; rfl, by rw [eq], fun r => ?_⟩
  rw [group]
  cases b <;> rfl

/-- Settles O56: the slot whose turn it is fetches, and what it fetches runs. -/
theorem stepRunsDecodedWord : Obligations.StepRunsDecodedWord := by
  intro s g b hs
  dsimp only
  refine ⟨fun num hr => ?_, fun hr hd hu hp ht hf hl ha => ⟨fun i rest hi => ?_, fun e he => ?_, fun ho => ?_⟩,
    fun pipe u hg hw => issued_spec _ pipe hg hw⟩
  · exact (step_of_nextSlot hs).trans (runSlot_arrives hr)
  all_goals have code := State.InCode.mk hd hu hp ht hf hl ha
  · obtain ⟨fetch, pipe⟩ := fetch_of_no_arrival hr
    rw [step_of_nextSlot hs, State.runSlot, fetch, pipe, code.fetchWord_ok hi]
    rfl
  · obtain ⟨fetch, pipe⟩ := fetch_of_no_arrival hr
    rw [step_of_nextSlot hs, State.runSlot, fetch, pipe, code.fetchWord_error he]
    rfl
  · refine ⟨code.code_plain ho le_rfl, ?_⟩
    have four := code.code_plain ho (four_le_lengthOf _)
    rw [State.codeOp, four]
    rfl

end Sys2Proof.Machine
end

section
/-! A load of a lane's own space (R29) whose second element finds no place for its line (O37). -/

namespace Sys2Proof.Machine

/-! ### The keys of an association list -/

theorem mem_akeys_iff {α : Type} {m : Assoc α} {q : Nat} : q ∈ akeys m ↔ aget m q ≠ none := by
  induction m with
  | nil => simp [akeys, aget]
  | cons e r ih =>
    by_cases h : e.1 = q
    · simp [akeys, aget, h]
    · rw [akeys] at ih
      simp [akeys, aget, h, Ne.symm h, ← ih]

theorem mem_akeys_aput {α : Type} {m : Assoc α} {k q : Nat} {x : α} :
    q ∈ akeys (aput m k x) ↔ q = k ∨ q ∈ akeys m := by
  simp only [mem_akeys_iff, aget_aput]
  by_cases h : q = k <;> simp [h]

/-! ### Lines of a cluster copy (R8, R160) -/

theorem mem_ownedLines {keys : List Nat} {cl x : Nat} :
    x ∈ ownedLines keys cl ↔ ∃ q ∈ keys, ownerOfCopy q = cl ∧ lineOf (keyOfCopy q) = x := by
  simp [ownedLines, mem_dedup_iff, and_assoc]

theorem length_dedup_le (l : List Nat) : (dedup l).length ≤ l.length := by
  induction l with
  | nil => exact Nat.le_refl 0
  | cons x r ih => exact Nat.succ_le_succ (Nat.le_trans (List.length_filter_le _ _) ih)

theorem length_ownedLines_le (keys : List Nat) (cl : Nat) : (ownedLines keys cl).length ≤ keys.length := by
  refine Nat.le_trans (length_dedup_le _) ?_
  rw [List.length_map]
  exact List.length_filter_le _ _

/-- A copy that holds `n` lines has no place for another one. -/
theorem roomIn_full {keys lines : List Nat} {cl n x : Nat} (hd : lines.Nodup) (hn : n ≤ lines.length)
    (hl : ∀ y ∈ lines, y ∈ ownedLines keys cl) (hx : x ∉ ownedLines keys cl) : roomIn keys n cl x = false := by
  have many : n ≤ (ownedLines keys cl).length := Nat.le_trans hn (List.subperm_of_subset hd hl).length_le
  have long := Nat.le_trans many (length_ownedLines_le keys cl)
  simp [roomIn, hx, Nat.not_lt.2 many, Nat.not_lt.2 long]

section
variable {s : State} {cl q : Nat}

/-- The keys that a run of insertions leaves. -/
theorem mem_akeys_foldl {α : Type} {put : Assoc α → Nat → Assoc α}
    (hput : ∀ l k, q ∈ akeys (put l k) ↔ q = copyKey cl k ∨ q ∈ akeys l) {ks : List Nat} {l : Assoc α} :
    q ∈ akeys (ks.foldl put l) ↔ (∃ k ∈ ks, q = copyKey cl k) ∨ q ∈ akeys l := by
  induction ks generalizing l with
  | nil => simp
  | cons k r ih => simp only [List.foldl_cons, ih, hput, List.exists_mem_cons_iff, or_left_comm, or_assoc]

theorem mem_akeys_fetchSector {sec : Nat} : q ∈ akeys (s.fetchSector cl sec).mem.l1 ↔
    (∃ k ∈ s.sectorKeys sec, q = copyKey cl k) ∨ q ∈ akeys s.mem.l1 := by
  simp only [State.fetchSector, State.modMem]
  refine mem_akeys_foldl fun l k => ?_
  split
  · next b hk =>
    have held : copyKey cl k ∈ akeys l := mem_akeys_iff.2 (by rw [hk]; exact Option.some_ne_none b)
    exact ⟨.inr, fun h => h.elim (· ▸ held) id⟩
  · exact mem_akeys_aput

end

/-! ### A crowded cluster copy -/

/-- One byte of each of 16,383 lines of table space in the copy of cluster 0. -/
def crowdedCopy : Assoc L1Byte := (List.range 16383).map fun j => (copyKey 0 (256 * j), ⟨0, 0⟩)

/-- A load of 8 bytes of a lane's own space (R29) into g5, in two elements of 4 (R142). -/
def privateLoad : Fill :=
  ⟨1, 0, false, false, .load 5 8 false false, waitingItems 0 8 (.priv privBase 0 0), 0, 0, false, 0⟩

/-- Group 0 waits for that load, in a cluster whose copy holds 16,383 other lines. -/
def crowded : State :=
  { State.reset with
    groups := [(0, Group.start 0)]
    fills := [privateLoad]
    mem := { Mem.reset with l1 := crowdedCopy } }

/-- The two elements of the load. -/
def element (i : Nat) : Item := ⟨0, .priv privBase 0 (4 * i), 4, [], none⟩

theorem privateLoad_items : privateLoad.items = [element 0, element 1] := by decide

theorem isPriv_of_mem_element {i k : Nat} (hi : i < 2) (hk : k ∈ (element i).loc.keys 4) : isPriv k = true := by
  obtain rfl | rfl : i = 0 ∨ i = 1 := by omega
  · revert k; decide
  · revert k; decide

/-- Without launches, bytes of the lanes' own space are in a copy without side bytes (R306). -/
theorem slotOfKey_priv {s : State} {k : Nat} (idle : s.launches = []) (priv : isPriv k = true) :
    s.slotOfKey k = none := by
  rw [State.slotOfKey, if_pos priv, State.launch, idle]; rfl

theorem validKeys_priv {s : State} {cl : Nat} {keys : List Nat} (idle : s.launches = [])
    (priv : ∀ k ∈ keys, isPriv k = true) :
    s.validKeys cl keys = true ↔ ∀ k ∈ keys, copyKey cl k ∈ akeys s.mem.l1 := by
  have needed : s.neededKeys keys = keys := by
    rw [State.neededKeys, List.flatMap_congr fun k hk => by rw [slotOfKey_priv idle (priv k hk)]]
    simp
  simp only [State.validKeys, needed, List.all_eq_true, mem_akeys_iff, Option.isSome_iff_ne_none]

/-- A fetch of the lanes' own bytes waits, when nothing is written, only for a place for a line. -/
theorem fetchWaits_priv {s : State} {cl : Nat} {keys : List Nat} (priv : ∀ k ∈ keys, isPriv k = true)
    (quiet : s.writes = []) :
    s.fetchWaits cl keys = keys.any fun k => !s.validKeys cl [k] && !s.lineRoom cl (lineOf k) := by
  unfold State.fetchWaits
  rw [Bool.eq_iff_iff, List.any_eq_true, List.any_eq_true]
  refine exists_congr fun k => and_congr_right fun hk => ?_
  simp [State.channelShut, State.homeWaits, State.homeDie, priv k hk, quiet]

/-- An element of the load waits for its fetch alone. -/
theorem itemReady_element {s : State} {i : Nat} (quiet : s.writes = []) (alone : s.fills = [privateLoad])
    (bare : s.teams = []) :
    s.itemReady privateLoad (element i) = !s.fetchWaits 0 ((element i).loc.keys 4) := by
  have place : s.clusterOf 0 = 0 := by
    rw [State.clusterOf, State.coreOf, State.team, bare]
    rfl
  simp [State.itemReady, State.writeBefore, State.readBefore, State.itemHeld, quiet, alone, place, element,
    privateLoad, Loc.isSpad]

theorem crowded_room (line : Nat) : crowded.lineRoom 0 line = true := by
  have short : (akeys crowded.mem.l1).length < 16384 := by simp [crowded, crowdedCopy, akeys]
  simp [State.lineRoom, roomIn, short]

theorem crowded_ready : ∀ i ∈ privateLoad.items, crowded.itemReady privateLoad i = true := by
  have one (i : Nat) (hi : i < 2) : crowded.itemReady privateLoad (element i) = true := by
    rw [itemReady_element rfl rfl rfl, fetchWaits_priv (fun k hk => isPriv_of_mem_element hi hk) rfl]
    simp [crowded_room]
  simp [privateLoad_items, one]

/-! ### What the first element takes -/

/-- The crowded copy after the first element has fetched its sector. -/
def filledUp (us : List Nat) : State := (crowded.fetchSector 0 (2 ^ 56)).logTags us

theorem copyKey_zero (k : Nat) : copyKey 0 k = k := by simp [copyKey]

theorem mem_crowded {q : Nat} : q ∈ akeys crowded.mem.l1 ↔ ∃ j < 16383, q = 256 * j := by
  have copy : crowded.mem.l1 = crowdedCopy := by rw [crowded]
  simp [copy, akeys, crowdedCopy, copyKey_zero, eq_comm]

theorem element_first_keys : (element 0).loc.keys 4 = [2 ^ 62, 2 ^ 62 + 1, 2 ^ 62 + 2, 2 ^ 62 + 3] := by decide

theorem element_second_keys :
    (element 1).loc.keys 4 = [2 ^ 62 + 384, 2 ^ 62 + 385, 2 ^ 62 + 386, 2 ^ 62 + 387] := by decide

theorem crowded_lacks_first : crowded.validKeys 0 ((element 0).loc.keys 4) = false := by
  rw [Bool.eq_false_iff, ne_eq, validKeys_priv rfl fun k => isPriv_of_mem_element (by decide)]
  intro valid
  have held := valid (2 ^ 62) (by simp [element_first_keys])
  rw [copyKey_zero, mem_crowded] at held
  omega

theorem bindItem_first : ∃ us i, crowded.bindItem privateLoad (element 0) = (filledUp us, i) := by
  have ready := crowded_ready (element 0) (by simp [privateLoad_items])
  have sectors : dedup (((element 0).loc.keys 4).map sectorOf) = [2 ^ 56] := by decide
  have whole : ((element 0).loc.keys 4).filter (fun k => sectorOf k == 2 ^ 56) = (element 0).loc.keys 4 := by decide
  have reads : (crowded.readLoc 0 false (element 0).loc 4).1 =
      filledUp (crowded.see (crowded.readByte 0) ((element 0).loc.keys 4)).tags := by
    have kind : (element 0).loc = .priv privBase 0 (4 * 0) := rfl
    rw [kind, State.readLoc, ← kind]
    · simp only [sectors, List.foldl_cons, List.foldl_nil, whole, crowded_lacks_first, Bool.false_eq_true, if_false,
        filledUp]
    · exact nofun
  refine ⟨(crowded.see (crowded.readByte 0) ((element 0).loc.keys 4)).tags,
    { element 0 with got := some (crowded.readLoc 0 false (element 0).loc 4).2 }, ?_⟩
  rw [← reads, State.bindItem, ready]
  rfl

/-- The lines of the copy after the first fetch: those of the crowd and that of the first element. -/
def filledLines : List Nat := 2 ^ 54 :: List.range 16383

theorem filledUp_l1 (us : List Nat) : (filledUp us).mem.l1 = (crowded.fetchSector 0 (2 ^ 56)).mem.l1 := by
  rw [filledUp, State.logTags]
  split <;> rfl

theorem mem_filledUp {us : List Nat} {q : Nat} :
    q ∈ akeys (filledUp us).mem.l1 ↔ (∃ i < 64, q = 2 ^ 62 + i) ∨ ∃ j < 16383, q = 256 * j := by
  have sector : crowded.sectorKeys (2 ^ 56) = (List.range 64).map fun i => 2 ^ 62 + i := by
    rw [State.sectorKeys, slotOfKey_priv rfl (by decide)]
    simp
  rw [filledUp_l1, mem_akeys_fetchSector, sector]
  simp only [copyKey_zero, List.mem_map, List.mem_range, exists_exists_and_eq_and, mem_crowded]

/-- After the first fetch the copy is full: its 16,384 lines leave no place for that of the second element. -/
theorem filledUp_full (us : List Nat) : (filledUp us).lineRoom 0 (2 ^ 54 + 1) = false := by
  refine roomIn_full (lines := filledLines) (by simp [filledLines, List.nodup_range]) (by simp [filledLines]) ?_ ?_
  · intro y hy
    obtain rfl | hy : y = 2 ^ 54 ∨ y < 16383 := by simpa [filledLines] using hy
    · exact mem_ownedLines.2 ⟨2 ^ 62, mem_filledUp.2 (.inl ⟨0, by omega, by omega⟩), by decide, by decide⟩
    · refine mem_ownedLines.2 ⟨256 * y, mem_filledUp.2 (.inr ⟨y, hy, rfl⟩), ?_, ?_⟩
      · simp only [ownerOfCopy]; omega
      · simp only [lineOf, keyOfCopy, flatKey, sideBase]; omega
  · intro owned
    obtain ⟨q, hq, -, line⟩ := mem_ownedLines.1 owned
    simp only [lineOf, keyOfCopy, flatKey, sideBase] at line
    obtain ⟨i, hi, rfl⟩ | ⟨j, hj, rfl⟩ := mem_filledUp.1 hq <;> omega

theorem filledUp_waits (us : List Nat) : (filledUp us).itemReady privateLoad (element 1) = false := by
  have other : (filledUp us).writes = [] ∧ (filledUp us).fills = [privateLoad] ∧ (filledUp us).teams = [] ∧
      (filledUp us).launches = [] := by
    rw [filledUp, State.logTags]
    split <;> exact ⟨rfl, rfl, rfl, rfl⟩
  obtain ⟨quiet, alone, bare, idle⟩ := other
  rw [itemReady_element quiet alone bare, fetchWaits_priv (fun k => isPriv_of_mem_element (by decide)) quiet,
    Bool.not_eq_false', List.any_eq_true]
  have line : lineOf (2 ^ 62 + 384) = 2 ^ 54 + 1 := by decide
  refine ⟨2 ^ 62 + 384, by simp [element_second_keys], ?_⟩
  have invalid : (filledUp us).validKeys 0 [2 ^ 62 + 384] = false := by
    rw [Bool.eq_false_iff, ne_eq, validKeys_priv idle (by decide)]
    intro valid
    have held := valid (2 ^ 62 + 384) (by simp)
    rw [copyKey_zero, mem_filledUp] at held
    omega
  rw [line, filledUp_full, invalid]
  rfl

theorem bindItem_second (us : List Nat) :
    (filledUp us).bindItem privateLoad (element 1) = (filledUp us, element 1) := by
  rw [State.bindItem, filledUp_waits]
  rfl

/-- The load stays, with one element taken. -/
theorem crowded_keeps : ∃ t, exec (.registerFill ⟨1, 0⟩) crowded = .next t ∧ t.fills ≠ [] := by
  obtain ⟨us, i, first⟩ := bindItem_first
  have bound : crowded.bindSome privateLoad (fun _ => true) = .ok (filledUp us) [i, element 1] := by
    have plain : privateLoad.isLookup = false ∧ crowded.inRegion privateLoad.gid = false := ⟨rfl, rfl⟩
    simp only [State.bindSome, plain, privateLoad_items, State.bindItems, first, bindItem_second, if_true,
      Bool.false_eq_true, if_false]
  have unbound : ([i, element 1].all fun i => i.got.isSome) = false := by simp [element]
  have fills : (filledUp us).fills = [privateLoad] := by
    rw [filledUp, State.logTags]
    split <;> rfl
  refine ⟨crowded.complete privateLoad (fun _ => true) true, rfl, ?_⟩
  simp [State.complete, bound, unbound, State.keepFill, fills]

end Sys2Proof.Machine

namespace Sys2Proof
open Machine

/-- Refutes O37: a load of a lane's own space may have two elements in different lines. Each of them may bind while
the cluster copy has one place left (16,384 lines), but the first takes that place and the second waits for another, so
the producer stays with one element taken. -/
theorem not_registerFills : ¬ Obligations.RegisterFills := by
  unfold Obligations.RegisterFills
  intro h
  obtain ⟨_, load, _⟩ := h crowded 1 privateLoad rfl rfl rfl (by decide)
  obtain ⟨t, exe, ⟨fills, _⟩, _⟩ :=
    load 5 8 false false (.priv privBase 0 0) rfl (by decide) rfl (by decide) crowded_ready rfl
  obtain ⟨u, exe', kept⟩ := crowded_keeps
  obtain rfl : t = u := by simpa [exe] using exe'
  exact kept fills

end Sys2Proof
end

section
/-! SUPPORT. Values, and the encodings of a floating-point format (R76, R77): what they decode to, and their order. -/

namespace Sys2Proof.Machine

/-! ### Values by their form -/

@[simp] theorem FVal.isNan_nan (s : Bool) : (FVal.nan s).isNan = true := rfl
@[simp] theorem FVal.isNan_inf (n : Bool) : (FVal.inf n).isNan = false := rfl
@[simp] theorem FVal.isNan_fin (n : Bool) (m : Nat) (e : Int) : (FVal.fin n m e).isNan = false := rfl
@[simp] theorem FVal.isSnan_nan (s : Bool) : (FVal.nan s).isSnan = s := rfl
@[simp] theorem FVal.isSnan_inf (n : Bool) : (FVal.inf n).isSnan = false := rfl
@[simp] theorem FVal.isSnan_fin (n : Bool) (m : Nat) (e : Int) : (FVal.fin n m e).isSnan = false := rfl
@[simp] theorem FVal.isInf_nan (s : Bool) : (FVal.nan s).isInf = false := rfl
@[simp] theorem FVal.isInf_inf (n : Bool) : (FVal.inf n).isInf = true := rfl
@[simp] theorem FVal.isInf_fin (n : Bool) (m : Nat) (e : Int) : (FVal.fin n m e).isInf = false := rfl
@[simp] theorem FVal.isZero_nan (s : Bool) : (FVal.nan s).isZero = false := rfl
@[simp] theorem FVal.isZero_inf (n : Bool) : (FVal.inf n).isZero = false := rfl
@[simp] theorem FVal.isZero_fin (n : Bool) (m : Nat) (e : Int) : (FVal.fin n m e).isZero = (m == 0) := rfl
@[simp] theorem FVal.neg_nan (s : Bool) : (FVal.nan s).neg = false := rfl
@[simp] theorem FVal.neg_inf (n : Bool) : (FVal.inf n).neg = n := rfl
@[simp] theorem FVal.neg_fin (n : Bool) (m : Nat) (e : Int) : (FVal.fin n m e).neg = n := rfl
@[simp] theorem FVal.opp_nan (s : Bool) : (FVal.nan s).opp = .nan s := rfl
@[simp] theorem FVal.opp_inf (n : Bool) : (FVal.inf n).opp = .inf !n := rfl
@[simp] theorem FVal.opp_fin (n : Bool) (m : Nat) (e : Int) : (FVal.fin n m e).opp = .fin (!n) m e := rfl

/-! ### The fields of an encoding -/

/-- A format with at least one exponent and one fraction bit, as the five of R76 are. -/
def Fmt.Sound (f : Fmt) : Prop := 0 < f.ebits ∧ 0 < f.pbits

theorem sound_fmt32 : fmt32.Sound := ⟨by decide, by decide⟩
theorem sound_fmt16 : fmt16.Sound := ⟨by decide, by decide⟩
theorem sound_fmtB16 : fmtB16.Sound := ⟨by decide, by decide⟩

theorem Fmt.signBit_eq (f : Fmt) : f.signBit = 2 ^ f.ebits * 2 ^ f.pbits := by
  rw [Fmt.signBit, Nat.pow_add]

theorem Fmt.two_mul_signBit (f : Fmt) : 2 * f.signBit = 2 ^ (1 + f.ebits + f.pbits) := by
  rw [Fmt.signBit, ← Nat.pow_succ']
  congr 1
  omega

theorem Fmt.enc_lt (f : Fmt) (neg : Bool) {x : Nat} (h : x < f.signBit) :
    f.enc neg x < 2 ^ (1 + f.ebits + f.pbits) := by
  rw [← f.two_mul_signBit, Fmt.enc]
  cases neg <;> simp <;> omega

theorem Fmt.enc_frac (f : Fmt) (neg : Bool) (x : Nat) : f.enc neg x % 2 ^ f.pbits = x % 2 ^ f.pbits := by
  cases neg <;> simp [Fmt.enc, Fmt.signBit_eq]

theorem Fmt.enc_exp (f : Fmt) (neg : Bool) {x : Nat} (h : x < f.signBit) :
    f.enc neg x / 2 ^ f.pbits % 2 ^ f.ebits = x / 2 ^ f.pbits := by
  have small : x / 2 ^ f.pbits < 2 ^ f.ebits := Nat.div_lt_of_lt_mul (by rwa [Nat.mul_comm, ← f.signBit_eq])
  cases neg
  · simp [Fmt.enc, Nat.mod_eq_of_lt small]
  · simp [Fmt.enc, Fmt.signBit_eq, Nat.add_comm _ x, Nat.add_mul_div_right, Nat.mod_eq_of_lt small]

theorem Fmt.enc_sign (f : Fmt) (neg : Bool) {x : Nat} (h : x < f.signBit) :
    (f.enc neg x / f.signBit % 2 == 1) = neg := by
  have pos : 0 < f.signBit := by omega
  cases neg
  · simp [Fmt.enc, Nat.div_eq_of_lt h]
  · simp [Fmt.enc, Nat.add_div_left _ pos, Nat.div_eq_of_lt h]

theorem Fmt.two_le_pow {f : Fmt} (hf : f.Sound) : 2 ≤ 2 ^ f.ebits ∧ 2 ≤ 2 ^ f.pbits :=
  ⟨Nat.le_self_pow (Nat.ne_of_gt hf.1) 2, Nat.le_self_pow (Nat.ne_of_gt hf.2) 2⟩

/-- The encoding of an infinity, without its sign, is a magnitude. -/
theorem Fmt.infinity_lt (f : Fmt) : f.emask * 2 ^ f.pbits < f.signBit := by
  rw [f.signBit_eq]
  exact Nat.mul_lt_mul_of_pos_right (Nat.sub_lt (Nat.two_pow_pos _) one_pos) (Nat.two_pow_pos _)

theorem Fmt.maxEnc_lt {f : Fmt} (hf : f.Sound) : f.maxEnc < f.signBit := by
  obtain ⟨he, hp⟩ := Fmt.two_le_pow hf
  have inf := f.infinity_lt
  rw [Fmt.maxEnc]
  split
  · have whole : f.signBit = f.emask * 2 ^ f.pbits + 2 ^ f.pbits := by
      rw [f.signBit_eq, Fmt.emask, ← Nat.succ_mul]
      congr 1
      omega
    omega
  · omega

theorem Fmt.decode_infinity {f : Fmt} (h : f.e4 = false) (neg : Bool) :
    f.decode (f.enc neg (f.emask * 2 ^ f.pbits)) = .inf neg := by
  rw [Fmt.decode, f.enc_frac, f.enc_exp neg f.infinity_lt, f.enc_sign neg f.infinity_lt]
  simp [h]

/-! ### Finite values -/

/-- The significand of an unsigned encoding. -/
def Fmt.signif (f : Fmt) (x : Nat) : Nat := if x / 2 ^ f.pbits = 0 then x else 2 ^ f.pbits + x % 2 ^ f.pbits

/-- The magnitude of an unsigned encoding in units of the smallest subnormal. -/
def Fmt.magnitude (f : Fmt) (x : Nat) : Nat := f.signif x * 2 ^ (x / 2 ^ f.pbits - 1)

/-- An encoding up to that of the largest finite magnitude decodes to the finite value of its fields. -/
theorem Fmt.decode_finite {f : Fmt} (hf : f.Sound) (neg : Bool) {x : Nat} (hx : x ≤ f.maxEnc) :
    f.decode (f.enc neg x) = .fin neg (f.signif x) (f.qmin + (x / 2 ^ f.pbits - 1 : Nat)) := by
  have hlt : x < f.signBit := Nat.lt_of_le_of_lt hx (Fmt.maxEnc_lt hf)
  obtain ⟨he, hp⟩ := Fmt.two_le_pow hf
  have split := Nat.div_add_mod' x (2 ^ f.pbits)
  have noNan : (f.e4 && x / 2 ^ f.pbits == f.emask && x % 2 ^ f.pbits == 2 ^ f.pbits - 1) = false := by
    rw [Bool.eq_false_iff]
    intro h
    simp only [Bool.and_eq_true, beq_iff_eq] at h
    obtain ⟨⟨e4, exp⟩, frac⟩ := h
    rw [Fmt.maxEnc, if_pos e4] at hx
    rw [exp] at split
    omega
  have noInf : (!f.e4 && x / 2 ^ f.pbits == f.emask) = false := by
    rw [Bool.eq_false_iff]
    intro h
    simp only [Bool.and_eq_true, Bool.not_eq_true', beq_iff_eq] at h
    obtain ⟨e4, exp⟩ := h
    have pos : 0 < f.emask * 2 ^ f.pbits := Nat.mul_pos (by rw [Fmt.emask]; omega) (Nat.two_pow_pos _)
    rw [Fmt.maxEnc, e4, if_neg Bool.false_ne_true] at hx
    rw [exp] at split
    omega
  rw [Fmt.decode, f.enc_frac, f.enc_exp neg hlt, f.enc_sign neg hlt]
  simp only [noNan, noInf, Bool.false_eq_true, if_false, Fmt.signif]
  by_cases zero : x / 2 ^ f.pbits = 0
  · have small : x % 2 ^ f.pbits = x := by rw [zero] at split; omega
    simp [zero, small]
  · rw [if_neg zero, if_neg zero]
    congr 1
    generalize x / 2 ^ f.pbits = k at zero ⊢
    omega

/-- A magnitude below 2^(p+1) units of the exponent field k, which has its leading bit unless k is 0, is what its fields
make of it; a carry out of the fraction goes to the exponent. -/
theorem Fmt.magnitude_fields (f : Fmt) {k r : Nat} (normal : k = 0 ∨ 2 ^ f.pbits ≤ r)
    (small : r ≤ 2 ^ (f.pbits + 1)) : f.magnitude (k * 2 ^ f.pbits + r) = r * 2 ^ k := by
  have pos : 0 < 2 ^ f.pbits := Nat.two_pow_pos _
  rw [Nat.pow_succ] at small
  rw [Fmt.magnitude, Fmt.signif, Nat.add_comm, Nat.add_mul_div_right _ _ pos, Nat.add_mul_mod_self_right]
  obtain low | same | carry : r < 2 ^ f.pbits ∨ (2 ^ f.pbits ≤ r ∧ r < 2 ^ f.pbits * 2) ∨ r = 2 ^ f.pbits * 2 := by
    omega
  · obtain rfl : k = 0 := normal.resolve_right (by omega)
    simp [Nat.div_eq_of_lt low]
  · have one : r / 2 ^ f.pbits = 1 := Nat.div_eq_of_lt_le (by omega) (by omega)
    have rest := Nat.div_add_mod' r (2 ^ f.pbits)
    rw [one, one_mul] at rest
    rw [one, if_neg (by omega), rest, Nat.add_sub_cancel_left]
  · rw [carry, Nat.mul_div_cancel_left _ pos, Nat.mul_mod_right, if_neg (by omega),
      show 2 + k - 1 = k + 1 by omega, Nat.pow_succ]
    ring

theorem Fmt.magnitude_strictMono (f : Fmt) : StrictMono f.magnitude := by
  refine strictMono_nat_of_lt_succ fun x => ?_
  obtain ⟨k, r, rfl, normal, small⟩ : ∃ k r, x = k * 2 ^ f.pbits + r ∧ (k = 0 ∨ 2 ^ f.pbits ≤ r) ∧
      r < 2 ^ (f.pbits + 1) := by
    have split := Nat.div_add_mod' x (2 ^ f.pbits)
    have frac := Nat.mod_lt x (Nat.two_pow_pos f.pbits)
    have half := Nat.pow_succ (n := 2) (m := f.pbits)
    cases exp : x / 2 ^ f.pbits with
    | zero =>
      rw [exp] at split
      exact ⟨0, x, by omega, .inl rfl, by omega⟩
    | succ k =>
      rw [exp, Nat.succ_mul] at split
      exact ⟨k, 2 ^ f.pbits + x % 2 ^ f.pbits, by omega, .inr (by omega), by omega⟩
  rw [f.magnitude_fields normal small.le, Nat.add_assoc, f.magnitude_fields (normal.imp_right (by omega)) small]
  exact Nat.mul_lt_mul_of_pos_right (Nat.lt_succ_self r) (Nat.two_pow_pos k)

/-- The encoding of a finite magnitude, with its sign, holds it. -/
theorem Fmt.holds_enc {f : Fmt} (hf : f.Sound) (neg : Bool) {x : Nat} (hx : x ≤ f.maxEnc) :
    f.Holds neg (f.magnitude x) (f.enc neg x) :=
  ⟨f.enc_lt neg (Nat.lt_of_le_of_lt hx (Fmt.maxEnc_lt hf)), _, _, Fmt.decode_finite hf neg hx, by omega,
    by rw [add_sub_cancel_left, Int.toNat_natCast]; rfl⟩

theorem Fmt.holds_zero {f : Fmt} (hf : f.Sound) (neg : Bool) : f.Holds neg 0 (f.enc neg 0) := by
  simpa [Fmt.magnitude, Fmt.signif] using Fmt.holds_enc hf neg (Nat.zero_le f.maxEnc)

/-- The largest finite magnitude, as the claims about rounded results write it. -/
theorem Fmt.units_maxEnc {f : Fmt} (hf : f.Sound) :
    ((f.decode f.maxEnc).units f.qmin).toNat = f.magnitude f.maxEnc := by
  have positive : f.enc false f.maxEnc = f.maxEnc := by simp [Fmt.enc]
  rw [← positive, Fmt.decode_finite hf false le_rfl, positive, FVal.units, add_sub_cancel_left, Int.toNat_natCast]
  simp only [signed, Bool.false_eq_true, if_false]
  exact_mod_cast rfl

end Sys2Proof.Machine
end

section
/-! SUPPORT. Rounding (R81 to R83): to a multiple, and once into a format. -/

namespace Sys2Proof.Machine

/-! ### Rounding to a multiple -/

/-- Twice what a magnitude has beyond its lower neighbour, in the units of the magnitude, with one for a part below
these units: its place between the neighbours, which are 2^(d+1) apart in this measure. -/
def restOf (m d : Nat) (st : Bool) : Nat := 2 * (m % 2 ^ d) + (if st then 1 else 0)

/-- The upper neighbour is taken (R81). -/
def roundsUp (rm : Nat) (neg : Bool) (lo rest d : Nat) : Bool :=
  match rm with
  | 0 => decide (2 ^ d < rest ∨ (rest = 2 ^ d ∧ lo % 2 = 1))
  | 1 => false
  | 2 => decide (rest ≠ 0) && !neg
  | _ => decide (rest ≠ 0) && neg

theorem roundAt_of_le (rm : Nat) (neg : Bool) (m : Nat) {e q : Int} (st : Bool) (h : q ≤ e) :
    roundAt rm neg m e st q = (m * 2 ^ (e - q).toNat, st) := if_pos h

theorem restOf_ne_zero (m d : Nat) (st : Bool) : decide (restOf m d st ≠ 0) = (m % 2 ^ d != 0 || st) := by
  cases st <;> simp [restOf, bne, beq_eq_decide]

/-- The test of round to nearest even, against half of the distance between the neighbours. -/
theorem nearest_up (m lo : Nat) (st : Bool) {d : Nat} (hd : 0 < d) :
    decide (2 ^ d < restOf m d st ∨ (restOf m d st = 2 ^ d ∧ lo % 2 = 1)) =
      (decide (2 ^ (d - 1) < m % 2 ^ d) || (m % 2 ^ d == 2 ^ (d - 1) && (st || lo % 2 == 1))) := by
  obtain ⟨k, rfl⟩ : ∃ k, d = k + 1 := ⟨d - 1, by omega⟩
  have half : 2 ^ (k + 1) = 2 * 2 ^ k := Nat.pow_succ'
  rw [Bool.eq_iff_iff]
  cases st <;> simp [restOf] <;> omega

/-- Rounding to a multiple of 2^(e+d), d > 0: one of the two neighbours, inexact where something is left. -/
theorem roundAt_add (rm : Nat) (neg : Bool) (m : Nat) (e : Int) (st : Bool) {d : Nat} (hd : 0 < d) :
    roundAt rm neg m e st (e + d) =
      (if roundsUp rm neg (m / 2 ^ d) (restOf m d st) d = true then m / 2 ^ d + 1 else m / 2 ^ d,
        decide (restOf m d st ≠ 0)) := by
  have shift : (e + d - e).toNat = d := by omega
  rw [roundAt, if_neg (by omega), shift]
  match rm with
  | 0 => rw [roundsUp, nearest_up m _ st hd, restOf_ne_zero]; rfl
  | 1 => rw [restOf_ne_zero]; rfl
  | 2 => rw [roundsUp, restOf_ne_zero]; rfl
  | k + 3 =>
    rw [show roundsUp (k + 3) neg (m / 2 ^ d) (restOf m d st) d = (decide (restOf m d st ≠ 0) && neg) from rfl,
      restOf_ne_zero]
    rfl

theorem roundAt_add_bounds (rm : Nat) (neg : Bool) (m : Nat) (e : Int) (st : Bool) {d : Nat} (hd : 0 < d) :
    m / 2 ^ d ≤ (roundAt rm neg m e st (e + d)).1 ∧ (roundAt rm neg m e st (e + d)).1 ≤ m / 2 ^ d + 1 := by
  rw [roundAt_add rm neg m e st hd]
  split <;> simp

/-- In a unit that leaves at most p bits after the leading one, a rounded magnitude has at most p + 1 bits, or is the
next power of two. -/
theorem roundAt_le (rm : Nat) (neg : Bool) (m : Nat) {e q : Int} (st : Bool) {p : Nat}
    (h : e + Nat.log2 m - p ≤ q) : (roundAt rm neg m e st q).1 ≤ 2 ^ (p + 1) := by
  have top : m < 2 ^ (Nat.log2 m + 1) := Nat.lt_log2_self
  by_cases le : q ≤ e
  · rw [roundAt_of_le rm neg m st le]
    calc m * 2 ^ (e - q).toNat ≤ 2 ^ (Nat.log2 m + 1) * 2 ^ (e - q).toNat := Nat.mul_le_mul_right _ top.le
      _ = 2 ^ (Nat.log2 m + 1 + (e - q).toNat) := (Nat.pow_add ..).symm
      _ ≤ 2 ^ (p + 1) := Nat.pow_le_pow_right two_pos (by omega)
  · obtain ⟨d, rfl⟩ : ∃ d : Nat, q = e + d := ⟨(q - e).toNat, by omega⟩
    have below : m / 2 ^ d < 2 ^ (p + 1) := by
      refine Nat.div_lt_of_lt_mul (top.trans_le ?_)
      rw [← Nat.pow_add]
      exact Nat.pow_le_pow_right two_pos (by omega)
    have := (roundAt_add_bounds rm neg m e st (d := d) (by omega)).2
    omega

/-- In the unit that leaves p bits after the leading one, a rounded magnitude keeps its leading bit. -/
theorem le_roundAt (rm : Nat) (neg : Bool) {m : Nat} {e q : Int} (st : Bool) {p : Nat} (hm : m ≠ 0)
    (h : q = e + Nat.log2 m - p) : 2 ^ p ≤ (roundAt rm neg m e st q).1 := by
  have lead : 2 ^ Nat.log2 m ≤ m := Nat.log2_self_le hm
  by_cases le : q ≤ e
  · rw [roundAt_of_le rm neg m st le]
    calc 2 ^ p = 2 ^ Nat.log2 m * 2 ^ (e - q).toNat := by rw [← Nat.pow_add]; congr 1; omega
      _ ≤ m * 2 ^ (e - q).toNat := Nat.mul_le_mul_right _ lead
  · obtain ⟨d, rfl⟩ : ∃ d : Nat, q = e + d := ⟨(q - e).toNat, by omega⟩
    have above : 2 ^ p ≤ m / 2 ^ d := by
      rw [Nat.le_div_iff_mul_le (Nat.two_pow_pos d), ← Nat.pow_add]
      exact (Nat.pow_le_pow_right two_pos (by omega)).trans lead
    exact above.trans (roundAt_add_bounds rm neg m e st (by omega)).1

/-! ### Rounding into a format -/

/-- The magnitude rounds below the smallest normal with the exponent range unbounded (R82). -/
theorem tiny_iff {a p : Nat} {top emin : Int} (lo : 2 ^ p ≤ a) (hi : a ≤ 2 ^ (p + 1)) :
    (if a = 2 ^ (p + 1) then top + 1 else top) < emin ↔
      a * 2 ^ (top - emin).toNat < 2 ^ p * 2 ^ (emin - top).toNat := by
  have pos : 0 < 2 ^ p := Nat.two_pow_pos p
  by_cases above : emin ≤ top
  · rw [show (emin - top).toNat = 0 by omega, pow_zero, mul_one]
    refine iff_of_false (by split <;> omega) (not_lt.2 (lo.trans ?_))
    exact Nat.le_mul_of_pos_right a (Nat.two_pow_pos _)
  · obtain ⟨k, hk⟩ : ∃ k : Nat, emin - top = k + 1 := ⟨(emin - top - 1).toNat, by omega⟩
    rw [show (top - emin).toNat = 0 by omega, pow_zero, mul_one, hk, show ((k : Int) + 1).toNat = k + 1 by omega,
      ← Nat.pow_add]
    by_cases carry : a = 2 ^ (p + 1)
    · rw [if_pos carry, carry, Nat.pow_lt_pow_iff_right one_lt_two]
      omega
    · rw [if_neg carry]
      refine iff_of_true (by omega) ((lt_of_le_of_ne hi carry).trans_le ?_)
      exact Nat.pow_le_pow_right two_pos (by omega)

/-- An overflow gives the largest finite magnitude or an infinity, of the value's sign, or the NaN of E4M3 (R83). -/
theorem overflow_most {f : Fmt} (hf : f.Sound) {md : Mode} {neg : Bool}
    (h : md.sat = true ∨ md.rm = 1 ∨ (md.rm = 2 ∧ neg = true) ∨ (md.rm = 3 ∧ neg = false)) :
    f.Holds neg (f.magnitude f.maxEnc) (overflow f md neg) := by
  have toMax : (md.sat || md.rm == 1 || (md.rm == 2 && neg) || (md.rm == 3 && !neg)) = true := by
    simpa [or_assoc] using h
  rw [overflow, if_pos toMax]
  exact Fmt.holds_enc hf neg le_rfl

theorem overflow_infinite {f : Fmt} {md : Mode} {neg : Bool}
    (h : ¬(md.sat = true ∨ md.rm = 1 ∨ (md.rm = 2 ∧ neg = true) ∨ (md.rm = 3 ∧ neg = false))) :
    if f.e4 then overflow f md neg = 0x7F else f.decode (overflow f md neg) = .inf neg := by
  have toMax : ¬(md.sat || md.rm == 1 || (md.rm == 2 && neg) || (md.rm == 3 && !neg)) = true := by
    simpa [or_assoc] using h
  rw [overflow, if_neg toMax]
  cases e4 : f.e4
  · simpa using Fmt.decode_infinity e4 neg
  · simp [Fmt.nanEnc, e4]

/-- The unit of a rounded magnitude: p bits after the leading one, and not below the smallest subnormal (R81). -/
def Fmt.unit (f : Fmt) (m : Nat) (e : Int) : Int := max (e + Nat.log2 m - f.pbits) f.qmin

/-- The unsigned encoding of a rounded magnitude, before a check for overflow. -/
def Fmt.placed (f : Fmt) (rm : Nat) (neg : Bool) (m : Nat) (e : Int) (st : Bool) : Nat :=
  (f.unit m e - f.qmin).toNat * 2 ^ f.pbits + (roundAt rm neg m e st (f.unit m e)).1

/-- The magnitude is tiny: rounded with the exponent range unbounded, it lies below the smallest normal (R82). -/
def Fmt.isTiny (f : Fmt) (rm : Nat) (neg : Bool) (m : Nat) (e : Int) (st : Bool) : Bool :=
  decide ((if (roundAt rm neg m e st (e + Nat.log2 m - f.pbits)).1 = 2 ^ (f.pbits + 1) then e + Nat.log2 m + 1
    else e + Nat.log2 m) < 1 - f.bias)

section
variable {f : Fmt} {md : Mode} {neg : Bool} {m : Nat} {e : Int} {st : Bool}

theorem roundTo_of_flushed (hm : m ≠ 0 ∨ st = true) (tiny : f.isTiny md.rm neg m e st = true) (ftz : md.ftz = true) :
    roundTo f md neg m e st = (f.enc neg 0, flagUF ||| flagNX) := by
  rw [roundTo, if_neg (by simpa [imp_iff_not_or] using hm)]
  exact if_pos (Bool.and_eq_true_iff.2 ⟨tiny, ftz⟩)

theorem roundTo_of_overflow (hm : m ≠ 0 ∨ st = true) (kept : ¬(f.isTiny md.rm neg m e st = true ∧ md.ftz = true))
    (above : f.maxEnc < f.placed md.rm neg m e st) :
    roundTo f md neg m e st = (overflow f md neg, flagOF ||| flagNX) := by
  rw [roundTo, if_neg (by simpa [imp_iff_not_or] using hm)]
  refine (if_neg (mt Bool.and_eq_true_iff.1 kept)).trans ?_
  exact if_pos above

theorem roundTo_of_within (hm : m ≠ 0 ∨ st = true) (kept : ¬(f.isTiny md.rm neg m e st = true ∧ md.ftz = true))
    (within : f.placed md.rm neg m e st ≤ f.maxEnc) :
    roundTo f md neg m e st = (f.enc neg (f.placed md.rm neg m e st),
      if (roundAt md.rm neg m e st (f.unit m e)).2 = true then
        if f.isTiny md.rm neg m e st = true then flagUF ||| flagNX else flagNX
      else 0) := by
  rw [roundTo, if_neg (by simpa [imp_iff_not_or] using hm)]
  refine (if_neg (mt Bool.and_eq_true_iff.1 kept)).trans ?_
  exact if_neg (not_lt.2 within)

theorem isTiny_iff (hm : m ≠ 0) : f.isTiny md.rm neg m e st = true ↔
    (roundAt md.rm neg m e st (e + Nat.log2 m - f.pbits)).1 * 2 ^ (e + Nat.log2 m - f.pbits - f.qmin).toNat <
      2 ^ f.pbits * 2 ^ (f.qmin - (e + Nat.log2 m - f.pbits)).toNat := by
  have lo := le_roundAt md.rm neg st hm (e := e) (q := e + Nat.log2 m - f.pbits) rfl
  have hi := roundAt_le md.rm neg m st (e := e) (q := e + Nat.log2 m - f.pbits) le_rfl
  rw [Fmt.isTiny, decide_eq_true_eq, tiny_iff lo hi]
  have up : e + Nat.log2 m - f.pbits - f.qmin = e + Nat.log2 m - (1 - f.bias) := by rw [Fmt.qmin]; omega
  have down : f.qmin - (e + Nat.log2 m - f.pbits) = 1 - f.bias - (e + Nat.log2 m) := by rw [Fmt.qmin]; omega
  rw [up, down]

theorem magnitude_placed {rm : Nat} (hm : m ≠ 0) : f.magnitude (f.placed rm neg m e st) =
    (roundAt rm neg m e st (f.unit m e)).1 * 2 ^ (f.unit m e - f.qmin).toNat := by
  refine f.magnitude_fields ?_ (roundAt_le rm neg m st (le_max_left _ _))
  obtain sub | normal := le_total (e + Nat.log2 m - f.pbits) f.qmin
  · exact .inl (by rw [Fmt.unit, max_eq_right sub, sub_self, Int.toNat_zero])
  · exact .inr (le_roundAt rm neg st hm (max_eq_left normal))

/-- A nonzero magnitude is rounded into a format as R81 to R83 say. -/
theorem roundTo_rounds (hf : f.Sound) (hm : m ≠ 0) : RoundsTo f md neg m e st (roundTo f md neg m e st) := by
  have above : f.magnitude f.maxEnc < f.magnitude (f.placed md.rm neg m e st) ↔
      f.maxEnc < f.placed md.rm neg m e st := f.magnitude_strictMono.lt_iff_lt
  rw [RoundsTo, Fmt.units_maxEnc hf, ← isTiny_iff hm, ← Fmt.unit, ← magnitude_placed hm]
  refine ⟨fun ⟨tiny, ftz⟩ => ?_, fun kept => ⟨fun most => ?_, fun most => ?_⟩⟩
  · rw [roundTo_of_flushed (.inl hm) tiny ftz]
    exact ⟨Fmt.holds_zero hf neg, rfl⟩
  · rw [roundTo_of_overflow (.inl hm) kept (above.1 most)]
    exact ⟨rfl, overflow_most hf, overflow_infinite⟩
  · have within := not_lt.1 (mt above.2 (not_lt.2 most))
    rw [roundTo_of_within (.inl hm) kept within]
    refine ⟨Fmt.holds_enc hf neg within, fun exact => ?_, fun inexact tiny => ?_, fun inexact tiny => ?_⟩
    · simp [exact]
    · simp [inexact, tiny]
    · simp [inexact, tiny]

/-- A rounded result is a finite encoding, or that of an overflow. -/
theorem roundTo_value (f : Fmt) (md : Mode) (neg : Bool) (m : Nat) (e : Int) (st : Bool) :
    (∃ x ≤ f.maxEnc, (roundTo f md neg m e st).1 = f.enc neg x) ∨
      (roundTo f md neg m e st).1 = overflow f md neg := by
  by_cases zero : m = 0 ∧ st = false
  · exact .inl ⟨0, Nat.zero_le _, by rw [roundTo, if_pos zero]⟩
  have hm : m ≠ 0 ∨ st = true := by simpa [imp_iff_not_or] using zero
  by_cases flush : f.isTiny md.rm neg m e st = true ∧ md.ftz = true
  · exact .inl ⟨0, Nat.zero_le _, by rw [roundTo_of_flushed hm flush.1 flush.2]⟩
  obtain above | within := lt_or_ge f.maxEnc (f.placed md.rm neg m e st)
  · exact .inr (by rw [roundTo_of_overflow hm flush above])
  · exact .inl ⟨_, within, by rw [roundTo_of_within hm flush within]⟩

end

/-- The rounded value of zero (R81). -/
theorem roundTo_zero (f : Fmt) (md : Mode) (neg : Bool) (e : Int) : roundTo f md neg 0 e false = (f.enc neg 0, 0) :=
  if_pos ⟨rfl, rfl⟩

theorem roundTo_product {f : Fmt} (hf : f.Sound) (md : Mode) (neg : Bool) (m : Nat) (e : Int) :
    ProductRounds f md neg m e (roundTo f md neg m e false) :=
  ⟨roundTo_rounds hf, fun zero => by rw [zero, roundTo_zero]⟩

end Sys2Proof.Machine
end

section
/-! SUPPORT. Sums and products of values, rounded once (R76, R81, R98 to R100). -/

namespace Sys2Proof.Machine

/-! ### Infinities and NaNs among terms -/

theorem isInf_and_pos {x : FVal} : (x.isInf && !x.neg) = true ↔ x = .inf false := by
  cases x <;> simp

theorem isInf_and_neg {x : FVal} : (x.isInf && x.neg) = true ↔ x = .inf true := by
  cases x <;> simp

theorem any_inf_pos (xs : List FVal) : (xs.any fun x => x.isInf && !x.neg) = decide (.inf false ∈ xs) := by
  rw [Bool.eq_iff_iff]
  simp only [List.any_eq_true, isInf_and_pos, exists_eq_right, decide_eq_true_eq]

theorem any_inf_neg (xs : List FVal) : (xs.any fun x => x.isInf && x.neg) = decide (.inf true ∈ xs) := by
  rw [Bool.eq_iff_iff]
  simp only [List.any_eq_true, isInf_and_neg, exists_eq_right, decide_eq_true_eq]

section
variable {f : Fmt} {md : Mode} {nv : Bool} {xs : List FVal}

/-- A NaN, an invalid product or opposite infinities among the terms make the sum NaN (R77, R98). -/
theorem sumTo_of_nan
    (h : xs.any FVal.isNan = true ∨ nv = true ∨ (.inf false ∈ xs ∧ .inf true ∈ xs)) :
    sumTo f md nv xs = nanResult f (nv || decide (.inf false ∈ xs ∧ .inf true ∈ xs)) := by
  rw [sumTo, any_inf_pos, any_inf_neg]
  refine (if_pos ?_).trans (by rw [Bool.decide_and])
  simpa [or_assoc] using h

/-- Infinities of one sign among the terms are the sum, exactly. -/
theorem sumTo_of_inf {n : Bool} (nan : xs.any FVal.isNan = false) (valid : nv = false) (mem : .inf n ∈ xs)
    (other : .inf (!n) ∉ xs) : sumTo f md nv xs = (f.enc n (f.emask * 2 ^ f.pbits), 0) := by
  rw [sumTo, any_inf_pos, any_inf_neg, nan, valid]
  cases n <;> simp_all

end

/-! ### Finite terms -/

/-- A finite value by its sign, its magnitude and the exponent of its unit, as the claims list them. -/
def finOf (u : Bool × Nat × Int) : FVal := .fin u.1 u.2.1 u.2.2

@[simp] theorem isNan_finOf (u : Bool × Nat × Int) : (finOf u).isNan = false := rfl
@[simp] theorem isInf_finOf (u : Bool × Nat × Int) : (finOf u).isInf = false := rfl
@[simp] theorem neg_finOf (u : Bool × Nat × Int) : (finOf u).neg = u.1 := rfl
@[simp] theorem exp_finOf (u : Bool × Nat × Int) : (finOf u).exp = u.2.2 := rfl

theorem signed_mul (n : Bool) (a b : Nat) : signed n (a * b) = signed n a * b := by
  cases n <;> simp [signed]

theorem units_finOf (q : Int) (u : Bool × Nat × Int) :
    (finOf u).units q = signed u.1 (u.2.1 * 2 ^ (u.2.2 - q).toNat) := by
  rw [signed_mul]
  push_cast
  rfl

/-- The least unit of finite terms, or that of an integer. -/
def minExp (us : List (Bool × Nat × Int)) : Int := us.foldl (fun a x => min a x.2.2) 0

/-- The exact sum of finite terms in units of 2^q. -/
def total (us : List (Bool × Nat × Int)) (q : Int) : Int :=
  us.foldl (fun a x => a + signed x.1 (x.2.1 * 2 ^ (x.2.2 - q).toNat)) 0

/-- The sign of an exact zero (R81). -/
def zeroSign (md : Mode) (us : List (Bool × Nat × Int)) : Bool :=
  if us.all (·.1) then true else if us.any (·.1) then md.rm == 3 else false

theorem exps_finOf (us : List (Bool × Nat × Int)) :
    (us.map finOf).foldl (fun a x => min a x.exp) 0 = minExp us := by
  rw [List.foldl_map]
  rfl

theorem total_finOf (us : List (Bool × Nat × Int)) (q : Int) :
    (us.map finOf).foldl (fun a x => a + x.units q) 0 = total us q := by
  simp only [List.foldl_map, units_finOf]
  rfl

theorem sumTo_finOf (f : Fmt) (md : Mode) (us : List (Bool × Nat × Int)) : sumTo f md false (us.map finOf) =
    if total us (minExp us) = 0 then (f.enc (zeroSign md us) 0, 0)
    else roundTo f md (decide (total us (minExp us) < 0)) (total us (minExp us)).natAbs (minExp us) false := by
  have none : (us.any fun _ => false) = false := by simp
  simp only [sumTo, exps_finOf, total_finOf, List.any_map, List.all_map, Function.comp_def, isNan_finOf,
    isInf_finOf, neg_finOf, Bool.false_and, none, Bool.or_self, Bool.false_eq_true, if_false]
  rfl

/-- A sum of finite terms is exact and rounded once. -/
theorem sumTo_finite {f : Fmt} (hf : f.Sound) (md : Mode) (us : List (Bool × Nat × Int)) :
    SumRounds f md us (sumTo f md false (us.map finOf)) := by
  rw [sumTo_finOf]
  refine ⟨fun nonzero => ?_, fun zero => if_pos zero⟩
  exact (if_neg nonzero).symm ▸ roundTo_rounds hf (Int.natAbs_ne_zero.2 nonzero)

/-! ### Results as encodings -/

section
variable {f : Fmt} {md : Mode}

theorem nanEnc_lt (hf : f.Sound) (e4 : f.e4 = false) : f.nanEnc < f.signBit := by
  have half : 2 ^ (f.pbits - 1) < 2 ^ f.pbits := Nat.pow_lt_pow_right one_lt_two (Nat.sub_lt hf.2 one_pos)
  have whole : f.signBit = f.emask * 2 ^ f.pbits + 2 ^ f.pbits := by
    rw [f.signBit_eq, Fmt.emask, ← Nat.succ_mul, Nat.succ_eq_add_one, Nat.sub_add_cancel (Nat.one_le_two_pow)]
  rw [Fmt.nanEnc, e4, if_neg Bool.false_ne_true]
  omega

theorem nanEnc_fits (hf : f.Sound) (e4 : f.e4 = false) : f.nanEnc < 2 ^ (1 + f.ebits + f.pbits) := by
  rw [← f.two_mul_signBit]
  have := nanEnc_lt hf e4
  omega

theorem roundTo_fits (hf : f.Sound) (e4 : f.e4 = false) (neg : Bool) (m : Nat) (e : Int) (st : Bool) :
    (roundTo f md neg m e st).1 < 2 ^ (1 + f.ebits + f.pbits) := by
  have most := Fmt.maxEnc_lt hf
  obtain ⟨x, hx, eq⟩ | eq := roundTo_value f md neg m e st
  · rw [eq]
    exact f.enc_lt neg (hx.trans_lt most)
  · rw [eq, overflow, e4]
    split
    · exact f.enc_lt neg most
    · exact f.enc_lt neg f.infinity_lt

theorem sumTo_fits (hf : f.Sound) (e4 : f.e4 = false) (nv : Bool) (xs : List FVal) :
    (sumTo f md nv xs).1 < 2 ^ (1 + f.ebits + f.pbits) := by
  have zero : (0 : Nat) < f.signBit := Nat.two_pow_pos _
  rw [sumTo]
  split
  · exact nanEnc_fits hf e4
  split
  · exact f.enc_lt _ f.infinity_lt
  dsimp only
  split
  · exact f.enc_lt _ zero
  · exact roundTo_fits hf e4 _ _ _ _

theorem fMul_fits (hf : f.Sound) (e4 : f.e4 = false) (a b : Nat) :
    (fMul f md a b).1 < 2 ^ (1 + f.ebits + f.pbits) := by
  rw [fMul]
  split
  · exact nanEnc_fits hf e4
  · exact f.enc_lt _ f.infinity_lt
  · exact roundTo_fits hf e4 _ _ _ _

end

end Sys2Proof.Machine
end

section
/-! The neighbours that rounding chooses, and sums and products rounded once (O7). -/

namespace Sys2Proof.Machine

/-! ### The four modes -/

section
variable {neg st : Bool} {m d : Nat} {e : Int} (hd : 0 < d)
include hd

theorem roundAt_exact (rm : Nat) (rest : restOf m d st = 0) :
    roundAt rm neg m e st (e + d) = (m / 2 ^ d, false) := by
  have stays : roundsUp rm neg (m / 2 ^ d) 0 d = false := by
    match rm with
    | 0 => simp [roundsUp, (Nat.two_pow_pos d).ne]
    | 1 | 2 | k + 3 => rfl
  rw [roundAt_add rm neg m e st hd, rest, stays]
  rfl

theorem roundAt_inexact (rm : Nat) (rest : restOf m d st ≠ 0) :
    roundAt rm neg m e st (e + d) =
      (if roundsUp rm neg (m / 2 ^ d) (restOf m d st) d = true then m / 2 ^ d + 1 else m / 2 ^ d, true) := by
  rw [roundAt_add rm neg m e st hd, decide_eq_true rest]

end

/-- Rounding to a multiple chooses the neighbour that R81 names for the mode. -/
theorem roundAt_neighbour (neg st : Bool) (m : Nat) {d : Nat} (e : Int) (hd : 0 < d) :
    let lo := m / 2 ^ d
    let rest := restOf m d st
    (∀ rm, rest = 0 → roundAt rm neg m e st (e + d) = (lo, false)) ∧
    (rest ≠ 0 →
      (rest < 2 ^ d → roundAt 0 neg m e st (e + d) = (lo, true)) ∧
      (2 ^ d < rest → roundAt 0 neg m e st (e + d) = (lo + 1, true)) ∧
      (rest = 2 ^ d → roundAt 0 neg m e st (e + d) = (if lo % 2 = 0 then lo else lo + 1, true)) ∧
      roundAt 1 neg m e st (e + d) = (lo, true) ∧
      roundAt 2 neg m e st (e + d) = (if neg then lo else lo + 1, true) ∧
      roundAt 3 neg m e st (e + d) = (if neg then lo + 1 else lo, true)) := by
  refine ⟨fun rm => roundAt_exact hd rm, fun rest => ?_⟩
  simp only [roundAt_inexact hd _ rest, roundsUp]
  refine ⟨fun below => ?_, fun above => ?_, fun tie => ?_, rfl, ?_, ?_⟩
  · simp [below.le, below.ne]
  · simp [above]
  · obtain even | odd := Nat.mod_two_eq_zero_or_one (m / 2 ^ d) <;> simp [*]
  · cases neg <;> simp [rest]
  · cases neg <;> simp [rest]

/-! ### Sums, products and dot products of finite values -/

section
variable {f : Fmt} {md : Mode} {a b c : Nat} {n n' n'' : Bool} {m m' m'' : Nat} {e e' e'' : Int} (hf : f.Sound)
  (ha : f.operand md a = .fin n m e) (hb : f.operand md b = .fin n' m' e')
include hf ha hb

theorem fAdd_finite : SumRounds f md [(n, m, e), (n', m', e')] (fAdd f md a b) := by
  rw [fAdd, ha, hb]
  exact sumTo_finite hf md [(n, m, e), (n', m', e')]

theorem fSub_finite : SumRounds f md [(n, m, e), (!n', m', e')] (fSub f md a b) := by
  rw [fSub, ha, hb]
  exact sumTo_finite hf md [(n, m, e), (!n', m', e')]

theorem fMul_finite : ProductRounds f md (n != n') (m * m') (e + e') (fMul f md a b) := by
  rw [fMul, ha, hb]
  exact roundTo_product hf md _ _ _

theorem fFma_finite (hc : f.operand md c = .fin n'' m'' e'') :
    SumRounds f md [(n != n', m * m', e + e'), (n'', m'', e'')] (fFma f md a b c) := by
  have valid : badMul (.fin n m e) (.fin n' m' e') = false := by simp [badMul]
  rw [fFma, ha, hb, hc, valid]
  exact sumTo_finite hf md [(n != n', m * m', e + e'), (n'', m'', e'')]

end

theorem fDot2_finite {f : Fmt} {md : Mode} {a b a' b' c : Nat} {x y x' y' z : Bool × Nat × Int}
    (ha : f.operand md a = finOf x) (hb : f.operand md b = finOf y) (ha' : f.operand md a' = finOf x')
    (hb' : f.operand md b' = finOf y') (hc : fmt32.operand md c = finOf z) :
    SumRounds fmt32 md [z, (x.1 != y.1, x.2.1 * y.2.1, x.2.2 + y.2.2),
      (x'.1 != y'.1, x'.2.1 * y'.2.1, x'.2.2 + y'.2.2)] (fDot2 f md a b a' b' c) := by
  have valid (u v : Bool × Nat × Int) : badMul (finOf u) (finOf v) = false := by simp [badMul]
  rw [fDot2, ha, hb, ha', hb', hc, valid, valid]
  exact sumTo_finite sound_fmt32 md [z, (x.1 != y.1, x.2.1 * y.2.1, x.2.2 + y.2.2),
    (x'.1 != y'.1, x'.2.1 * y'.2.1, x'.2.2 + y'.2.2)]

/-! ### Lane words -/

theorem half_zero (x : W32) : half x 0 = (x.extractLsb' 0 16).toNat := by
  simp [half, BitVec.extractLsb'_toNat]

theorem half_one (x : W32) : half x 1 = (x.extractLsb' 16 16).toNat := by
  simp [half, BitVec.extractLsb'_toNat, Nat.shiftRight_eq_div_pow]

/-- A packed pair holds its two results in its halves (R99). -/
theorem pairUp_halves {u v : Nat × Flags} (h : u.1 < 2 ^ 16) :
    pairUp u v = (BitVec.ofNat 16 v.1 ++ BitVec.ofNat 16 u.1, u.2 ||| v.2) := by
  refine Prod.ext (BitVec.eq_of_toNat_eq ?_) rfl
  rw [BitVec.toNat_append, BitVec.toNat_ofNat, BitVec.toNat_ofNat, Nat.mod_eq_of_lt h, Nat.shiftLeft_eq,
    Nat.mul_comm, ← Nat.two_pow_add_eq_or_of_lt h]
  simp only [pairUp, BitVec.toNat_ofNat]
  omega

theorem sound_halfFmt (bf : Bool) : (halfFmt bf).Sound := by cases bf <;> exact ⟨by decide, by decide⟩
theorem halfFmt_e4 (bf : Bool) : (halfFmt bf).e4 = false := by cases bf <;> rfl
theorem halfFmt_bits (bf : Bool) : 1 + (halfFmt bf).ebits + (halfFmt bf).pbits = 16 := by cases bf <;> rfl

theorem sumTo_half (bf : Bool) (md : Mode) (nv : Bool) (xs : List FVal) : (sumTo (halfFmt bf) md nv xs).1 < 2 ^ 16 :=
  halfFmt_bits bf ▸ sumTo_fits (sound_halfFmt bf) (halfFmt_e4 bf) nv xs

theorem fMul_half (bf : Bool) (md : Mode) (a b : Nat) : (fMul (halfFmt bf) md a b).1 < 2 ^ 16 :=
  halfFmt_bits bf ▸ fMul_fits (sound_halfFmt bf) (halfFmt_e4 bf) a b

theorem maxEnc_values :
    fmt32.decode fmt32.maxEnc = .fin false (2 ^ 24 - 1) 104 ∧ fmt16.decode fmt16.maxEnc = .fin false 2047 5 ∧
    fmtB16.decode fmtB16.maxEnc = .fin false 255 120 ∧ fmtE4.decode fmtE4.maxEnc = .fin false 14 5 ∧
    fmtE5.decode fmtE5.maxEnc = .fin false 7 13 := by decide

theorem sound_of_mem {f : Fmt} (h : f ∈ [fmt32, fmt16, fmtB16]) : f.Sound := by
  simp only [List.mem_cons, List.not_mem_nil, or_false] at h
  obtain rfl | rfl | rfl := h
  exacts [sound_fmt32, sound_fmt16, sound_fmtB16]

/-- Settles O7: the mode's neighbour by its place between the two, and each operation as one rounded sum or product. -/
theorem roundingChoosesTheNeighbour : Obligations.RoundingChoosesTheNeighbour := by
  unfold Obligations.RoundingChoosesTheNeighbour
  refine ⟨fun neg st m d e hd => roundAt_neighbour neg st m e hd, maxEnc_values, ?_, ?_, ?_⟩
  · intro f mem md a b c n n' n'' m m' m'' e e' e'' ha hb
    have hf := sound_of_mem mem
    exact ⟨fAdd_finite hf ha hb, fSub_finite hf ha hb, fMul_finite hf ha hb, fFma_finite hf ha hb⟩
  · intro f _ md a b a' b' c x y x' y' z is ha hb ha' hb' hc
    exact fDot2_finite ha hb ha' hb' hc
  · intro md a b c word
    refine ⟨rfl, rfl, rfl, rfl, fun _ => rfl, fun bf => ?_⟩
    simp only [← half_zero, ← half_one]
    exact ⟨pairUp_halves (sumTo_half ..), pairUp_halves (fMul_half ..), pairUp_halves (sumTo_half ..), rfl⟩

end Sys2Proof.Machine
end

section
/-! NaN results, infinities and the order of values (O6; R77, R98). -/

namespace Sys2Proof.Machine

/-! ### Results that are not NaN -/

section
variable {f : Fmt} (e4 : f.e4 = false) (hf : f.Sound)
include e4

theorem maxEnc_le : f.maxEnc ≤ f.emask * 2 ^ f.pbits := by
  rw [Fmt.maxEnc, e4, if_neg Bool.false_ne_true]
  omega

include hf

theorem decode_enc_isNan (neg : Bool) {x : Nat} (hx : x ≤ f.emask * 2 ^ f.pbits) :
    (f.decode (f.enc neg x)).isNan = false := by
  obtain below | rfl := Nat.lt_or_eq_of_le hx
  · rw [Fmt.decode_finite hf neg (by rw [Fmt.maxEnc, e4, if_neg Bool.false_ne_true]; omega)]
    rfl
  · rw [Fmt.decode_infinity e4]
    rfl

theorem roundTo_isNan (md : Mode) (neg : Bool) (m : Nat) (e : Int) (st : Bool) :
    (f.decode (roundTo f md neg m e st).1).isNan = false := by
  have most := maxEnc_le e4
  obtain ⟨x, hx, eq⟩ | eq := roundTo_value f md neg m e st
  · rw [eq]
    exact decode_enc_isNan e4 hf neg (hx.trans most)
  · rw [eq, overflow, e4]
    split
    · exact decode_enc_isNan e4 hf neg most
    · exact decode_enc_isNan e4 hf neg le_rfl

end

/-- A result is the canonical NaN if it is a NaN (R77). -/
def Fmt.Canonical (f : Fmt) (r : Nat × Flags) : Prop := (f.decode r.1).isNan = true → r.1 = f.nanEnc

theorem canonical_of_not_nan {f : Fmt} {r : Nat × Flags} (h : (f.decode r.1).isNan = false) : f.Canonical r :=
  fun nan => absurd nan (by simp [h])

theorem canonical_nanResult (f : Fmt) (nv : Bool) : f.Canonical (nanResult f nv) := fun _ => rfl

section
variable {md : Mode}

theorem canonical_enc (neg : Bool) {x : Nat} (hx : x ≤ 0x7F800000) (fl : Flags) :
    fmt32.Canonical (fmt32.enc neg x, fl) :=
  canonical_of_not_nan (decode_enc_isNan rfl sound_fmt32 neg hx)

theorem canonical_roundTo (neg : Bool) (m : Nat) (e : Int) (st : Bool) :
    fmt32.Canonical (roundTo fmt32 md neg m e st) := canonical_of_not_nan (roundTo_isNan rfl sound_fmt32 md neg m e st)

theorem canonical_sumTo (nv : Bool) (xs : List FVal) : fmt32.Canonical (sumTo fmt32 md nv xs) := by
  rw [sumTo]
  split
  · exact canonical_nanResult _ _
  split
  · exact canonical_enc _ le_rfl _
  dsimp only
  split
  · exact canonical_enc _ (Nat.zero_le _) _
  · exact canonical_roundTo _ _ _ _

theorem canonical_fMul (a b : Nat) : fmt32.Canonical (fMul fmt32 md a b) := by
  rw [fMul]
  split
  · exact canonical_nanResult _ _
  · exact canonical_enc _ le_rfl _
  · exact canonical_roundTo _ _ _ _

theorem canonical_fDiv (a b : Nat) : fmt32.Canonical (fDiv md a b) := by
  have infinite (neg : Bool) (fl : Flags) : fmt32.Canonical (fmt32.enc neg 0x7F800000, fl) :=
    canonical_enc neg le_rfl fl
  have zero (neg : Bool) : fmt32.Canonical (fmt32.enc neg 0, 0) := canonical_enc neg (Nat.zero_le _) 0
  rw [fDiv]
  split
  · exact canonical_nanResult _ _
  next number =>
  cases ha : fmt32.operand md a <;> cases hb : fmt32.operand md b <;> simp [ha, hb] at number
  case inf.inf => exact canonical_nanResult _ _
  case inf.fin => exact infinite _ _
  case fin.inf => exact zero _
  case fin.fin =>
    dsimp only
    split
    · split
      · exact canonical_nanResult _ _
      · exact infinite _ _
    · split
      · exact zero _
      · exact canonical_roundTo _ _ _ _

theorem canonical_fSqrt (a : Nat) : fmt32.Canonical (fSqrt md a) := by
  rw [fSqrt]
  split
  · exact canonical_nanResult _ _
  · split
    · exact canonical_nanResult _ _
    · exact canonical_of_not_nan (by decide)
  · split
    · exact canonical_enc _ (Nat.zero_le _) _
    split
    · exact canonical_nanResult _ _
    · dsimp only
      exact canonical_roundTo _ _ _ _

end

/-! ### Operands that are returned -/

@[simp] theorem operand_isNan (f : Fmt) (md : Mode) (x : Nat) : (f.operand md x).isNan = (f.decode x).isNan := by
  rw [Fmt.operand]
  split
  · next h => rw [h]; split <;> rfl
  · rfl

theorem flushed_isNan {md : Mode} {x : Nat} (h : (fmt32.operand md x).isNan = false) :
    (fmt32.decode (flushed md x)).isNan = false := by
  rw [flushed]
  split
  · exact decode_enc_isNan rfl sound_fmt32 _ (Nat.zero_le _)
  · rwa [operand_isNan] at h

theorem canonical_fMinMax (mx : Bool) (md : Mode) (a b : Nat) : fmt32.Canonical (fMinMax mx md a b) := by
  rw [fMinMax]
  cases ha : (fmt32.operand md a).isNan <;> cases hb : (fmt32.operand md b).isNan <;> dsimp only
  case true.true => exact fun _ => rfl
  case true.false => exact canonical_of_not_nan (flushed_isNan hb)
  case false.true => exact canonical_of_not_nan (flushed_isNan ha)
  case false.false =>
    refine canonical_of_not_nan ?_
    simp only [Bool.false_and, Bool.false_eq_true, if_false]
    split
    · exact flushed_isNan ha
    · exact flushed_isNan hb

/-- The unsigned fields of an FP32 word. -/
theorem and_signBit (c : W32) : (c &&& 0x80000000).toNat = c.toNat / 2 ^ 31 % 2 * 2 ^ 31 := by
  rw [BitVec.toNat_and]
  change c.toNat &&& 2 ^ 31 = _
  rw [Nat.and_two_pow, Nat.testBit_eq_decide_div_mod_eq]
  obtain h | h := Nat.mod_two_eq_zero_or_one (c.toNat / 2 ^ 31) <;> rw [h] <;> rfl

theorem and_magnitude (c : W32) : (c &&& 0x7FFFFFFF).toNat = c.toNat % 2 ^ 31 := by
  rw [BitVec.toNat_and]
  exact Nat.and_two_pow_sub_one_eq_mod c.toNat 31

theorem exponent_eq_zero (c : W32) : c.extractLsb' 23 8 = 0 ↔ c.toNat / 2 ^ 23 % 2 ^ 8 = 0 := by
  rw [← BitVec.toNat_inj, BitVec.extractLsb'_toNat, Nat.shiftRight_eq_div_pow]
  rfl

theorem subnormal_of_normal (f : Fmt) {x : Nat} (h : x / 2 ^ f.pbits % 2 ^ f.ebits ≠ 0) :
    f.subnormal (f.decode x) = false := by
  rw [Fmt.decode]
  split_ifs <;> simp [Fmt.subnormal]

theorem decode_of_small {c : W32} (h : c.toNat / 2 ^ 23 % 2 ^ 8 = 0) :
    fmt32.decode c.toNat = .fin (c.toNat / 2 ^ 31 % 2 == 1) (c.toNat % 2 ^ 23) (-149) := by
  have e : c.toNat / 2 ^ fmt32.pbits % 2 ^ fmt32.ebits = 0 := h
  rw [Fmt.decode, e]
  rfl

/-- What an operand that is returned keeps: under FTZ a subnormal keeps its sign alone (R82). -/
theorem flushed_word (md : Mode) (c : W32) : flushed md c.toNat =
    if md.ftz = true ∧ c.extractLsb' 23 8 = 0 then (c &&& 0x80000000).toNat else c.toNat := by
  have whole : c.toNat < 2 ^ 32 := c.isLt
  by_cases ftz : md.ftz = true
  swap
  · rw [flushed, if_neg (by simp [ftz]), if_neg (by simp [ftz])]
  by_cases exp : c.toNat / 2 ^ 23 % 2 ^ 8 = 0
  swap
  · rw [flushed, subnormal_of_normal fmt32 exp, Bool.and_false, if_neg Bool.false_ne_true,
      if_neg (fun h => exp ((exponent_eq_zero c).1 h.2))]
  rw [if_pos (⟨ftz, (exponent_eq_zero c).2 exp⟩ : md.ftz = true ∧ c.extractLsb' 23 8 = 0), and_signBit, flushed, ftz,
    Bool.true_and, decode_of_small exp]
  by_cases frac : c.toNat % 2 ^ 23 = 0
  · rw [frac, if_neg (by simp [Fmt.subnormal])]
    omega
  · have small : c.toNat % 2 ^ 23 < 2 ^ 23 := Nat.mod_lt _ (Nat.two_pow_pos _)
    have sub : fmt32.subnormal (.fin (c.toNat / 2 ^ 31 % 2 == 1) (c.toNat % 2 ^ 23) (-149)) = true := by
      simp only [Fmt.subnormal, Bool.and_eq_true, bne_iff_ne, decide_eq_true_eq, beq_iff_eq]
      exact ⟨⟨frac, rfl⟩, small⟩
    have sign : fmt32.signBit = 2 ^ 31 := by decide
    rw [if_pos sub, FVal.neg_fin, Fmt.enc, sign]
    obtain h | h := Nat.mod_two_eq_zero_or_one (c.toNat / 2 ^ 31) <;> rw [h] <;> simp

/-! ### Terms of a sum that are NaN or infinite -/

theorem eq_inf_of_isInf {x : FVal} (h : x.isInf = true) : x = .inf x.neg := by
  cases x <;> simp_all

theorem isSnan_of_not_nan {x : FVal} (h : x.isNan = false) : x.isSnan = false := by
  cases x <;> simp_all

theorem mul_isNan (x y : FVal) : (x.mul y).isNan = (x.isNan || y.isNan || badMul x y) := by
  cases x <;> cases y <;> simp [FVal.mul, badMul]
  case inf.fin n k m e => by_cases h : m = 0 <;> simp [h]
  case fin.inf n m e k => by_cases h : m = 0 <;> simp [h]

theorem mul_of_inf {x y : FVal} (h : (!x.isNan && !y.isNan && !badMul x y && (x.isInf || y.isInf)) = true) :
    x.mul y = .inf (x.neg != y.neg) := by
  cases x <;> cases y <;> simp_all [FVal.mul, badMul]

/-- Opposite infinities (R98). -/
def clashing (x y : FVal) : Bool := x.isInf && y.isInf && x.neg != y.neg

theorem clashing_iff (x y : FVal) :
    decide (FVal.inf false ∈ [x, y] ∧ FVal.inf true ∈ [x, y]) = clashing x y := by
  cases x <;> cases y <;> simp [clashing]
  next a b => cases a <;> cases b <;> simp

theorem clashing_opp (x y : FVal) : clashing x y.opp = (x.isInf && y.isInf && x.neg == y.neg) := by
  cases y <;> simp [clashing]
  next n => cases x.neg <;> cases n <;> simp

theorem not_clashing_of_nan {x y : FVal} (h : (x.isNan || y.isNan) = true) : clashing x y = false := by
  cases x <;> cases y <;> simp_all [clashing]

section
variable {f : Fmt} {md : Mode} {nv : Bool} {x y : FVal}

theorem sum_of_nan (h : (x.isNan || y.isNan || nv || clashing x y) = true) :
    sumTo f md nv [x, y] = nanResult f (nv || clashing x y) := by
  rw [← clashing_iff x y] at h ⊢
  exact sumTo_of_nan (by simpa [or_assoc, and_assoc] using h)

theorem sum_of_inf {n : Bool} (hx : x = .inf n) (hy : y.isNan = false) (valid : nv = false)
    (clash : clashing x y = false) : sumTo f md nv [x, y] = (f.enc n (f.emask * 2 ^ f.pbits), 0) := by
  subst hx
  refine sumTo_of_inf (by simp [hy]) valid (by simp) ?_
  cases y <;> simp_all [clashing]

theorem sum_of_inf_right {n : Bool} (hx : x.isNan = false) (hy : y = .inf n) (valid : nv = false)
    (clash : clashing x y = false) : sumTo f md nv [x, y] = (f.enc n (f.emask * 2 ^ f.pbits), 0) := by
  subst hy
  refine sumTo_of_inf (by simp [hx]) valid (by simp) ?_
  cases x <;> simp_all [clashing]

end

/-! ### NaN and infinite results of the four operations (R77, R98) -/

/-- A result is the infinity of a sign, exactly. -/
def Fmt.Infinite (f : Fmt) (n : Bool) (r : Nat × Flags) : Prop := f.decode r.1 = .inf n ∧ r.2 = 0

theorem infinite_of_eq {f : Fmt} (e4 : f.e4 = false) {n : Bool} {r : Nat × Flags}
    (h : r = (f.enc n (f.emask * 2 ^ f.pbits), 0)) : f.Infinite n r := by
  rw [h]
  exact ⟨Fmt.decode_infinity e4 n, rfl⟩

section
variable {f : Fmt} {md : Mode} {a b c : Nat} {n : Bool}

theorem fAdd_nan (h : ((f.operand md a).isNan || (f.operand md b).isNan ||
      clashing (f.operand md a) (f.operand md b)) = true) :
    fAdd f md a b = nanResult f ((f.operand md a).isSnan || (f.operand md b).isSnan ||
      clashing (f.operand md a) (f.operand md b)) := by
  refine sum_of_nan ?_
  simp only [Bool.or_eq_true] at h ⊢
  tauto

theorem fSub_nan (h : ((f.operand md a).isNan || (f.operand md b).isNan ||
      clashing (f.operand md a) (f.operand md b).opp) = true) :
    fSub f md a b = nanResult f ((f.operand md a).isSnan || (f.operand md b).isSnan ||
      clashing (f.operand md a) (f.operand md b).opp) := by
  have opp (y : FVal) : y.opp.isNan = y.isNan := by cases y <;> rfl
  refine sum_of_nan ?_
  rw [opp]
  simp only [Bool.or_eq_true] at h ⊢
  tauto

theorem fAdd_inf (ha : f.operand md a = .inf n) (hb : (f.operand md b).isNan = false)
    (clash : clashing (f.operand md a) (f.operand md b) = false) :
    fAdd f md a b = (f.enc n (f.emask * 2 ^ f.pbits), 0) :=
  sum_of_inf ha hb (by simp [ha, isSnan_of_not_nan hb]) clash

theorem fAdd_inf_right (hb : f.operand md b = .inf n) (ha : (f.operand md a).isNan = false)
    (clash : clashing (f.operand md a) (f.operand md b) = false) :
    fAdd f md a b = (f.enc n (f.emask * 2 ^ f.pbits), 0) :=
  sum_of_inf_right ha hb (by simp [hb, isSnan_of_not_nan ha]) clash

theorem fMul_nan (h : ((f.operand md a).isNan || (f.operand md b).isNan ||
      badMul (f.operand md a) (f.operand md b)) = true) :
    fMul f md a b = nanResult f ((f.operand md a).isSnan || (f.operand md b).isSnan ||
      badMul (f.operand md a) (f.operand md b)) := by
  rw [← mul_isNan] at h
  rw [fMul]
  split
  · rfl
  · next eq => simp [eq] at h
  · next eq => simp [eq] at h

/-- A product with an infinite factor and no zero and no NaN (R98). -/
def infiniteProduct (x y : FVal) : Bool := !x.isNan && !y.isNan && !badMul x y && (x.isInf || y.isInf)

theorem infiniteProduct_valid {x y : FVal} (h : infiniteProduct x y = true) :
    x.isSnan = false ∧ y.isSnan = false ∧ badMul x y = false := by
  simp only [infiniteProduct, Bool.and_eq_true, Bool.not_eq_true'] at h
  obtain ⟨⟨⟨hx, hy⟩, valid⟩, -⟩ := h
  exact ⟨isSnan_of_not_nan hx, isSnan_of_not_nan hy, valid⟩

theorem fMul_inf (h : infiniteProduct (f.operand md a) (f.operand md b) = true) :
    fMul f md a b = (f.enc ((f.operand md a).neg != (f.operand md b).neg) (f.emask * 2 ^ f.pbits), 0) := by
  rw [fMul, mul_of_inf h]

theorem fFma_nan (h : ((f.operand md a).isNan || (f.operand md b).isNan || (f.operand md c).isNan ||
      badMul (f.operand md a) (f.operand md b)) = true) :
    fFma f md a b c = nanResult f ((f.operand md a).isSnan || (f.operand md b).isSnan ||
      (f.operand md c).isSnan || badMul (f.operand md a) (f.operand md b)) := by
  have nan : (((f.operand md a).mul (f.operand md b)).isNan || (f.operand md c).isNan) = true := by
    rw [mul_isNan]
    simp only [Bool.or_eq_true] at h ⊢
    tauto
  have quiet := not_clashing_of_nan nan
  refine (sum_of_nan (by simp only [nan, Bool.true_or])).trans ?_
  rw [quiet, Bool.or_false]

theorem fFma_clash (h : infiniteProduct (f.operand md a) (f.operand md b) = true)
    (hc : (f.operand md c).isInf = true)
    (sign : (f.operand md c).neg ≠ ((f.operand md a).neg != (f.operand md b).neg)) :
    fFma f md a b c = nanResult f true := by
  have clash : clashing ((f.operand md a).mul (f.operand md b)) (f.operand md c) = true := by
    rw [mul_of_inf h, clashing, hc]
    exact bne_iff_ne.2 sign.symm
  refine (sum_of_nan (by simp only [clash, Bool.or_true])).trans ?_
  rw [clash, Bool.or_true]

theorem fFma_inf (h : infiniteProduct (f.operand md a) (f.operand md b) = true)
    (hc : (f.operand md c).isNan = false)
    (sign : (f.operand md c).isInf = true →
      (f.operand md c).neg = ((f.operand md a).neg != (f.operand md b).neg)) :
    fFma f md a b c = (f.enc ((f.operand md a).neg != (f.operand md b).neg) (f.emask * 2 ^ f.pbits), 0) := by
  obtain ⟨hx, hy, valid⟩ := infiniteProduct_valid h
  refine sum_of_inf (mul_of_inf h) hc (by simp only [hx, hy, isSnan_of_not_nan hc, valid, Bool.or_self]) ?_
  rw [mul_of_inf h, clashing, Bool.eq_false_iff]
  intro clash
  simp only [FVal.isInf_inf, FVal.neg_inf, Bool.true_and, Bool.and_eq_true, bne_iff_ne] at clash
  exact clash.2 (sign clash.1).symm

theorem fFma_inf_addend (ha : (f.operand md a).isNan = false) (hb : (f.operand md b).isNan = false)
    (ha' : (f.operand md a).isInf = false) (hb' : (f.operand md b).isInf = false)
    (hc : (f.operand md c).isInf = true) :
    fFma f md a b c = (f.enc (f.operand md c).neg (f.emask * 2 ^ f.pbits), 0) := by
  have valid : badMul (f.operand md a) (f.operand md b) = false := by simp [badMul, ha', hb']
  have eq := eq_inf_of_isInf hc
  have finite : ((f.operand md a).mul (f.operand md b)).isInf = false := by
    revert ha hb ha' hb'
    cases f.operand md a <;> cases f.operand md b <;> simp [FVal.mul]
  refine sum_of_inf_right (by simp [mul_isNan, ha, hb, valid]) eq ?_ (by simp [clashing, finite])
  rw [isSnan_of_not_nan ha, isSnan_of_not_nan hb, valid, eq]
  rfl

end

/-! ### The order of values -/

theorem lt_iff_below (x y : FVal) : x.lt y = true ↔ x.Below y := by
  cases x <;> cases y
  case fin.fin n m e n' m' e' =>
    simp only [FVal.lt, FVal.Below, decide_eq_true_eq]
    rw [signed_mul, signed_mul]
    push_cast
    rfl
  all_goals simp [FVal.lt, FVal.Below]

theorem not_below_of_below {x y : FVal} (h : x.Below y) : ¬y.Below x := by
  cases x <;> cases y <;> simp_all [FVal.Below]
  case fin.fin => rw [min_comm]; exact h.le

theorem not_below_of_zeros {x y : FVal} (hx : x.isZero = true) (hy : y.isZero = true) : ¬x.Below y := by
  cases x <;> cases y <;> simp_all [FVal.Below, signed]

theorem eqv_iff (x y : FVal) :
    x.eqv y = true ↔ (x.isNan || y.isNan) = false ∧ ¬x.Below y ∧ ¬y.Below x := by
  rw [← lt_iff_below, ← lt_iff_below]
  simp [FVal.eqv, and_assoc]

theorem not_eqv_iff (x y : FVal) :
    (!x.eqv y) = true ↔ (x.isNan || y.isNan) = true ∨ x.Below y ∨ y.Below x := by
  rw [Bool.not_eq_true', ← Bool.not_eq_true, eqv_iff, ← Bool.not_eq_true]
  tauto

theorem ordered_lt_iff (un : Bool) (x y : FVal) : (!un && x.lt y) = true ↔ un = false ∧ x.Below y := by
  rw [Bool.and_eq_true, Bool.not_eq_true', lt_iff_below]

theorem ordered_not_lt_iff (un : Bool) (x y : FVal) : (!un && !x.lt y) = true ↔ un = false ∧ ¬x.Below y := by
  rw [Bool.and_eq_true, Bool.not_eq_true', Bool.not_eq_true', ← lt_iff_below, Bool.not_eq_true]

/-- The first of two operands counts as the lesser: below, or −0 against +0 (R77). -/
def lesser (x y : FVal) : Prop := x.Below y ∨ (x.isZero = true ∧ y.isZero = true ∧ x.neg = true ∧ y.neg = false)

section
variable {md : Mode} {a b : Nat}

theorem fMinMax_flags (mx : Bool) : (fMinMax mx md a b).2 =
    if (fmt32.operand md a).isSnan || (fmt32.operand md b).isSnan then flagNV else 0 := by
  rw [fMinMax]
  split_ifs <;> rfl

theorem fMinMax_nan (mx : Bool) (ha : (fmt32.operand md a).isNan = true) :
    (fMinMax mx md a b).1 = if (fmt32.operand md b).isNan then 0x7FC00000 else flushed md b := by
  rw [fMinMax, ha]
  cases (fmt32.operand md b).isNan <;> rfl

theorem fMinMax_nan_right (mx : Bool) (ha : (fmt32.operand md a).isNan = false)
    (hb : (fmt32.operand md b).isNan = true) : (fMinMax mx md a b).1 = flushed md a := by
  rw [fMinMax, ha, hb]
  rfl

theorem fMinMax_number (mx : Bool) (number : ((fmt32.operand md a).isNan || (fmt32.operand md b).isNan) = false) :
    (fMinMax mx md a b).1 = if ((fmt32.operand md a).lt (fmt32.operand md b) ||
      ((fmt32.operand md a).eqv (fmt32.operand md b) && (fmt32.operand md a).neg && !(fmt32.operand md b).neg)) != mx
      then flushed md a else flushed md b := by
  obtain ⟨ha, hb⟩ := Bool.or_eq_false_iff.1 number
  rw [fMinMax, ha, hb]
  rfl

theorem fMinMax_lesser (mx : Bool) (number : ((fmt32.operand md a).isNan || (fmt32.operand md b).isNan) = false)
    (h : lesser (fmt32.operand md a) (fmt32.operand md b)) :
    (fMinMax mx md a b).1 = (if mx then flushed md b else flushed md a) ∧
    (fMinMax mx md b a).1 = (if mx then flushed md b else flushed md a) := by
  rw [fMinMax_number mx number, fMinMax_number mx (by rwa [Bool.or_comm])]
  generalize fmt32.operand md a = x at h number ⊢
  generalize fmt32.operand md b = y at h number ⊢
  have first : (x.lt y || (x.eqv y && x.neg && !y.neg)) = true := by
    obtain below | ⟨hx, hy, neg, pos⟩ := h
    · simp [(lt_iff_below x y).2 below]
    · have eqv := (eqv_iff x y).2 ⟨number, not_below_of_zeros hx hy, not_below_of_zeros hy hx⟩
      simp [eqv, neg, pos]
  have second : (y.lt x || (y.eqv x && y.neg && !x.neg)) = false := by
    rw [Bool.eq_false_iff]
    intro less
    simp only [Bool.or_eq_true, Bool.and_eq_true, lt_iff_below, eqv_iff, Bool.not_eq_true'] at less
    obtain below | ⟨hx, hy, neg, pos⟩ := h
    · exact less.elim (not_below_of_below below) fun ⟨⟨⟨_, _, not⟩, _⟩, _⟩ => not below
    · exact less.elim (not_below_of_zeros hy hx) fun ⟨⟨_, neg'⟩, _⟩ => by simp [pos] at neg'
  rw [first, second]
  cases mx <;> exact ⟨rfl, rfl⟩

end

theorem fAbs_word (md : Mode) (a : W32) :
    fAbs md a.toNat = if (fmt32.operand md a.toNat).isNan then
      (0x7FC00000, if (fmt32.operand md a.toNat).isSnan then flagNV else 0)
    else (flushed md (a &&& 0x7FFFFFFF).toNat, 0) := by
  have unsigned : flushed md a.toNat % 2 ^ 31 = flushed md (a &&& 0x7FFFFFFF).toNat := by
    have exp : (a &&& 0x7FFFFFFF).extractLsb' 23 8 = a.extractLsb' 23 8 := by
      rw [BitVec.extractLsb'_and]
      exact BitVec.and_allOnes
    rw [flushed_word, flushed_word, exp, apply_ite (· % 2 ^ 31), and_signBit, and_signBit, and_magnitude]
    congr 1
    · omega
  rw [fAbs]
  cases fmt32.operand md a.toNat with
  | nan s => rfl
  | inf n => exact congrArg (·, 0) unsigned
  | fin n m e => exact congrArg (·, 0) unsigned

/-- Settles O6: NaN results by the shape of each operation, then NaN and infinite operands, then the order of values. -/
theorem nanResultsAreCanonical : Obligations.NanResultsAreCanonical := by
  unfold Obligations.NanResultsAreCanonical
  refine ⟨fun md mx a b c => ?_, ?_, ?_⟩
  · exact ⟨canonical_sumTo _ _, canonical_sumTo _ _, canonical_fMul _ _, canonical_sumTo _ _, canonical_fDiv _ _,
      canonical_fSqrt _, canonical_fMinMax _ _ _ _⟩
  · intro p hp md a b c
    obtain ⟨e4, enc⟩ : p.1.e4 = false ∧ p.2 = p.1.nanEnc := by
      simp only [List.mem_cons, List.not_mem_nil, or_false] at hp
      obtain rfl | rfl | rfl := hp <;> exact ⟨rfl, by decide⟩
    have isNan {nv : Bool} {r : Nat × Flags} (h : r = nanResult p.1 nv) :
        r = (p.2, if nv then flagNV else 0) := by rw [h, enc]; rfl
    refine ⟨fun h => isNan (fAdd_nan h), fun h => isNan ?_,
      fun n hx hy clash => infinite_of_eq e4 (fAdd_inf hx hy clash),
      fun n hy hx clash => infinite_of_eq e4 (fAdd_inf_right hy hx clash),
      fun h => isNan (fMul_nan h), fun h => infinite_of_eq e4 (fMul_inf h), fun h => isNan (fFma_nan h),
      fun h hz sign => isNan (fFma_clash h hz sign),
      fun h hz sign => infinite_of_eq e4 (fFma_inf h hz sign),
      fun hx hy hx' hy' hz => infinite_of_eq e4 (fFma_inf_addend hx hy hx' hy' hz)⟩
    rw [← clashing_opp] at h ⊢
    exact fSub_nan h
  · intro md a b
    refine ⟨fun mx => ⟨fMinMax_flags mx, fun ha hb => ?_, fun ha hb => ?_, fun ha hb => ?_⟩, fun number h => ?_, ?_,
      ?_⟩
    · rw [fMinMax_nan mx ha, if_pos hb]
    · rw [fMinMax_nan mx ha, hb, if_neg Bool.false_ne_true, flushed_word]
    · rw [fMinMax_nan_right mx ha hb, flushed_word]
    · simp only [← flushed_word]
      obtain ⟨least, least'⟩ := fMinMax_lesser false number h
      obtain ⟨most, most'⟩ := fMinMax_lesser true number h
      exact ⟨least, most, least', most'⟩
    · rw [fAbs_word, flushed_word]
    · exact ⟨⟨ordered_lt_iff .., rfl⟩, ⟨ordered_lt_iff .., rfl⟩, ⟨ordered_not_lt_iff .., rfl⟩,
        ⟨ordered_not_lt_iff .., rfl⟩, ⟨eqv_iff .., rfl⟩, ⟨not_eqv_iff .., rfl⟩, ⟨Iff.rfl, rfl⟩,
        ⟨iff_of_eq (Bool.not_eq_true' _), rfl⟩⟩

end Sys2Proof.Machine
end

section
/-! Conversions, and the words that convert, pack and unpack (O8; R80, R83, R102 to R104). -/

namespace Sys2Proof.Machine

/-! ### Integers of a type -/

/-- The value of the low bits of an operand, as an integer of a type. -/
def intOf (w : Nat) (sg : Bool) (x : Nat) : Int :=
  if sg then (BitVec.ofNat w x).toInt else ((BitVec.ofNat w x).toNat : Int)

/-- The ends of an integer type's range. -/
def lowest (w : Nat) (sg : Bool) : Int := if sg then -(2 : Int) ^ (w - 1) else 0
def highest (w : Nat) (sg : Bool) : Int := if sg then (2 : Int) ^ (w - 1) - 1 else (2 : Int) ^ w - 1

/-- An integer held to the range of its type (R83). -/
def held (w : Nat) (sg : Bool) (v : Int) : Int := max (lowest w sg) (min (highest w sg) v)

theorem two_pow_pred {w : Nat} (hw : 0 < w) : 2 ^ w = 2 * 2 ^ (w - 1) := by
  rw [← Nat.pow_succ', Nat.succ_eq_add_one, Nat.sub_add_cancel hw]

theorem readInt_eq {w : Nat} (hw : 0 < w) (sg : Bool) (x : Nat) : readInt w sg x = intOf w sg x := by
  have half := two_pow_pred hw
  have small : x % 2 ^ w < 2 ^ w := Nat.mod_lt _ (Nat.two_pow_pos w)
  cases sg
  · simp [readInt, intOf]
  rw [readInt, intOf, if_pos rfl, BitVec.toInt_eq_toNat_cond, BitVec.toNat_ofNat]
  simp only [Bool.true_and, beq_iff_eq]
  generalize x % 2 ^ w = v at small ⊢
  by_cases low : v < 2 ^ (w - 1)
  · rw [if_neg (by rw [Nat.div_eq_of_lt low]; omega), if_pos (by omega)]
  · rw [if_pos (Nat.div_eq_of_lt_le (by omega) (by omega)), if_neg (by omega)]

theorem lowest_le_highest {w : Nat} (sg : Bool) : lowest w sg ≤ highest w sg := by
  have pos (k : Nat) : (0 : Int) < 2 ^ k := by positivity
  have := pos w
  have := pos (w - 1)
  cases sg <;> simp only [lowest, highest, if_true, Bool.false_eq_true, if_false] <;> omega

theorem clampInt_eq (w : Nat) (sg : Bool) (v : Int) :
    clampInt w sg v = (held w sg v, decide (held w sg v ≠ v)) := by
  have ends := lowest_le_highest (w := w) sg
  have clamp : clampInt w sg v =
      if v < lowest w sg then (lowest w sg, true)
      else if highest w sg < v then (highest w sg, true) else (v, false) := by
    simp only [clampInt, lowest, highest]
    push_cast
    rfl
  rw [clamp, held]
  generalize lowest w sg = lo at ends ⊢
  generalize highest w sg = hi at ends ⊢
  split
  · rw [min_eq_right (by omega), max_eq_left (by omega), decide_eq_true (by omega)]
  split
  · rw [min_eq_left (by omega), max_eq_right (by omega), decide_eq_true (by omega)]
  · rw [min_eq_right (by omega), max_eq_right (by omega), decide_eq_false (by simp)]

theorem held_infinite {w : Nat} (hw : w ≤ 64) (sg n : Bool) :
    held w sg (if n then -(2 ^ 80 : Nat) else (2 ^ 80 : Nat)) = if n then lowest w sg else highest w sg := by
  have ends := lowest_le_highest (w := w) sg
  have bound {k : Nat} (hk : k ≤ 64) : (2 : Int) ^ k ≤ 2 ^ 64 := pow_le_pow_right₀ (by norm_num) hk
  have := bound hw
  have := bound (k := w - 1) (by omega)
  have lo : -(2 : Int) ^ 80 ≤ lowest w sg := by
    cases sg <;> simp only [lowest, if_true, Bool.false_eq_true, if_false] <;> omega
  have hi : highest w sg ≤ (2 : Int) ^ 80 := by
    cases sg <;> simp only [highest, if_true, Bool.false_eq_true, if_false] <;> omega
  rw [Nat.cast_pow, Nat.cast_ofNat]
  cases n <;> simp only [held, if_true, Bool.false_eq_true, if_false]
  · rw [min_eq_left hi, max_eq_right ends]
  · rw [min_eq_right (by omega), max_eq_left lo]

/-! ### The four kinds of conversion (R102) -/

theorem sound_of_tyFmt {t : Ty} {f : Fmt} (h : tyFmt t = some f) : f.Sound := by
  cases t <;> simp only [tyFmt, Option.some.injEq, reduceCtorEq] at h <;> subst h <;> exact ⟨by decide, by decide⟩

theorem width_of_tyInt {t : Ty} {w : Nat} {sg : Bool} (h : tyInt t = some (w, sg)) :
    0 < w ∧ w ≤ 64 ∧ tyFmt t = none := by
  cases t <;> simp only [tyInt, Option.some.injEq, Prod.mk.injEq, reduceCtorEq] at h <;> obtain ⟨rfl, -⟩ := h <;>
    exact ⟨by decide, by decide, rfl⟩

section
variable {md : Mode} {dst src : Ty} {bits x : Nat} {df sf : Fmt} {w w' : Nat} {sg sg' : Bool}

theorem convert_float_float (hd : tyFmt dst = some df) (hs : tyFmt src = some sf) :
    convert dst src md bits x = cvtFF df sf md x := by
  rw [convert, hd, hs]

theorem convert_int_float (hd : tyFmt dst = some df) (hs : tyInt src = some (w, sg)) :
    convert dst src md bits x = roundTo df md (decide (intOf w sg x < 0)) (intOf w sg x).natAbs 0 false := by
  obtain ⟨pos, -, notFloat⟩ := width_of_tyInt hs
  rw [convert, hd, notFloat, hs, ← readInt_eq pos]

theorem convert_float_int (hd : tyInt dst = some (w, sg)) (hs : tyFmt src = some sf) :
    convert dst src md bits x = (((cvtFI w sg sf md x).1 % (2 : Int) ^ bits).toNat, (cvtFI w sg sf md x).2) := by
  obtain ⟨-, -, notFloat⟩ := width_of_tyInt hd
  rw [convert, notFloat, hs, hd]
  push_cast
  rfl

theorem convert_int_int (hd : tyInt dst = some (w, sg)) (hs : tyInt src = some (w', sg')) :
    convert dst src md bits x = ((held w sg (intOf w' sg' x) % (2 : Int) ^ bits).toNat, 0) := by
  obtain ⟨-, -, notFloat⟩ := width_of_tyInt hd
  obtain ⟨pos, -, notFloat'⟩ := width_of_tyInt hs
  rw [convert, notFloat, notFloat', hd, hs]
  simp only [clampInt_eq, readInt_eq pos, Nat.cast_pow, Nat.cast_ofNat]

end

/-! ### A float converted to a float -/

section
variable {df sf : Fmt} {md : Mode} {x : Nat}

theorem cvtFF_nan {g : Bool} (h : sf.operand md (x % 2 ^ (1 + sf.ebits + sf.pbits)) = .nan g) :
    cvtFF df sf md x = nanResult df g := by
  rw [cvtFF, sf.two_mul_signBit, h]

theorem cvtFF_inf {n : Bool} (h : sf.operand md (x % 2 ^ (1 + sf.ebits + sf.pbits)) = .inf n) :
    cvtFF df sf md x =
      if df.e4 || df.pbits == 2 then
        if md.sat then (df.enc n df.maxEnc, 0)
        else if df.e4 then nanResult df true else (df.enc n (df.emask * 2 ^ df.pbits), 0)
      else (df.enc n (df.emask * 2 ^ df.pbits), 0) := by
  rw [cvtFF, sf.two_mul_signBit, h]

theorem cvtFF_fin {n : Bool} {m : Nat} {e : Int} (hf : df.Sound)
    (h : sf.operand md (x % 2 ^ (1 + sf.ebits + sf.pbits)) = .fin n m e) :
    ProductRounds df md n m e (cvtFF df sf md x) := by
  rw [cvtFF, sf.two_mul_signBit, h]
  exact roundTo_product hf md n m e

/-- An infinity stays one in the formats that have it, but for E5M2 with SAT; E4M3 has none (R83). -/
theorem cvtFF_inf_cases {dst : Ty} {n : Bool} (hd : tyFmt dst = some df)
    (h : sf.operand md (x % 2 ^ (1 + sf.ebits + sf.pbits)) = .inf n) :
    if dst = .e4 ∨ dst = .e5 then
      (md.sat = true → cvtFF df sf md x = (df.enc n df.maxEnc, 0)) ∧
      (md.sat = false → if dst = .e4 then cvtFF df sf md x = (0x7F, flagNV) else df.Infinite n (cvtFF df sf md x))
    else df.Infinite n (cvtFF df sf md x) := by
  rw [cvtFF_inf h]
  cases dst <;> simp only [tyFmt, Option.some.injEq, reduceCtorEq] at hd <;> subst hd
  case f32 | f16 | bf16 => exact infinite_of_eq rfl rfl
  case e4 => exact ⟨fun sat => by rw [sat]; rfl, fun sat => by rw [sat]; rfl⟩
  case e5 => exact ⟨fun sat => by rw [sat]; rfl, fun sat => by rw [sat]; exact infinite_of_eq rfl rfl⟩

end

/-! ### A float converted to an integer -/

section
variable {w : Nat} {sg : Bool} {sf : Fmt} {md : Mode} {x : Nat}

theorem cvtFI_nan (h : (sf.operand md (x % 2 ^ (1 + sf.ebits + sf.pbits))).isNan = true) :
    cvtFI w sg sf md x = (0, flagNV) := by
  rw [cvtFI, sf.two_mul_signBit]
  cases eq : sf.operand md (x % 2 ^ (1 + sf.ebits + sf.pbits)) <;> simp [eq] at h
  rfl

theorem cvtFI_inf {n : Bool} (hw : w ≤ 64) (h : sf.operand md (x % 2 ^ (1 + sf.ebits + sf.pbits)) = .inf n) :
    cvtFI w sg sf md x = (if n then lowest w sg else highest w sg, flagNV) := by
  rw [cvtFI, sf.two_mul_signBit, h]
  dsimp only
  rw [clampInt_eq, held_infinite hw]

theorem cvtFI_fin {n : Bool} {m : Nat} {e : Int}
    (h : sf.operand md (x % 2 ^ (1 + sf.ebits + sf.pbits)) = .fin n m e) :
    cvtFI w sg sf md x = (held w sg (signed n (roundAt md.rm n m e false 0).1),
      if held w sg (signed n (roundAt md.rm n m e false 0).1) ≠ signed n (roundAt md.rm n m e false 0).1 then flagNV
      else if (roundAt md.rm n m e false 0).2 then flagNX else 0) := by
  rw [cvtFI, sf.two_mul_signBit, h]
  simp only [clampInt_eq, decide_eq_true_eq]

end

/-! ### Words that write one or two registers -/

/-- Two lane registers written in the active lanes, and nothing else. -/
theorem State.twoResults_wrote {s : State} (h : s.Live) (act : LaneSet) {d e : Nat} (ne : d ≠ e) (f g : Nat → W32)
    (fl : Flags) (n : Nat) :
    Wrote s ((s.modCur fun x => ((x.setV act d f).setV act e g).raise fl).next n) act [(d, f), (e, g)] [] n fl := by
  obtain ⟨p, hp⟩ := Option.isSome_iff_exists.1 h
  rw [State.next_modCur]
  refine wrote_of (p := p) (q := p) _ hp (by simpa using hp) rfl rfl rfl rfl rfl (by simp)
    ?_ ?_ (by simp) (by simp) (fun _ => rfl) rfl ?_ (by simp) ?_ (by simp) ?_ (by simp)
  · intro x hx l hl
    obtain rfl | rfl : x = (d, f) ∨ x = (e, g) := by simpa using hx
    · rw [Group.vval_raise, Group.vval_setV_ne _ _ _ _ ne, Group.vval_setV_self _ _ _ _ _ hl]
    · rw [Group.vval_raise, Group.vval_setV_self _ _ _ _ _ hl, Group.vval_setV_ne _ _ _ _ ne.symm]
  · intro r hr l
    rw [Group.vval_raise, Group.vval_setV_ne _ _ _ _ (hr (e, g) (by simp)).symm,
      Group.vval_setV_ne _ _ _ _ (hr (d, f) (by simp)).symm]
  · intro r hr
    rw [Group.raise_emptyV, Group.setV_emptyV, Group.setV_emptyV, bitOn_and_not_regSet _ _ _ hr,
      bitOn_and_not_regSet _ _ _ hr]
    simp [beq_eq_decide, @eq_comm _ r, Bool.and_assoc]
  · intro r hr
    rw [Group.raise_poisonV, Group.setV_poisonV, Group.setV_poisonV]
    by_cases all : act = allLanes
    · rw [if_pos all, if_pos all, bitOn_and_not_regSet _ _ _ hr, bitOn_and_not_regSet _ _ _ hr]
      simp [all, beq_eq_decide, @eq_comm _ r, Bool.and_assoc]
    · rw [if_neg all, if_neg all]
      simp [all]
  · rw [Group.raise_marks, Group.setV_marks, Group.setV_marks, List.filter_filter]
    congr 1
    funext m
    cases m.lane <;> simp [bne, beq_eq_decide, @eq_comm _ m.d, Bool.and_comm]

theorem cvt_wrote {s : State} {d a : Reg} {wa n : Bool} {dst src : Ty}
    (h : s.Accepts ⟨[svs a src.regs wa], [dvs d dst.regs], true⟩) :
    Gives (.cvt d a wa n dst src) s fun t =>
      let r (l : Nat) := convert dst src s.curMode (32 * dst.regs) (s.cur.cvtSource src a.val l)
      let word (k l : Nat) : W32 := BitVec.ofNat 32 ((r l).1 / 2 ^ (32 * k))
      Wrote s t (s.lanesOn n) ((List.range dst.regs).map fun k => (d.val + k, word k)) [] 8
        (orFlags ((lanesOf (s.lanesOn n)).map fun l => (r l).2)) := by
  refine ⟨_, congrArg s.finish (State.gated_of_accepts h _), ?_⟩
  by_cases two : dst.regs = 2
  · have pair (word : Nat → Nat → W32) : (List.range dst.regs).map (fun k => (d.val + k, word k)) =
        [(d.val, word 0), (d.val + 1, word 1)] := by rw [two]; rfl
    simp only [pair, if_pos two, Nat.mul_zero, Nat.pow_zero, Nat.div_one]
    exact State.twoResults_wrote h.live _ (by omega) _ _ _ _
  · have single (word : Nat → Nat → W32) : (List.range dst.regs).map (fun k => (d.val + k, word k)) =
        [(d.val, word 0)] := by
      have one : dst.regs = 1 := by
        revert two
        cases dst <;> simp [Ty.regs]
      rw [one]
      rfl
    simp only [single, if_neg two, Nat.mul_zero, Nat.pow_zero, Nat.div_one]
    exact State.laneResult_wrote h.live n d 8 fun l =>
      (BitVec.ofNat 32 (convert dst src s.curMode (32 * dst.regs) (s.cur.cvtSource src a.val l)).1,
        (convert dst src s.curMode (32 * dst.regs) (s.cur.cvtSource src a.val l)).2)

/-- The block of a lane's beat, as `xpk` finds it in the list of the three beats. -/
theorem blocks_getD {α : Type} (f : Nat → α) (z : α) {l : Nat} (hl : l < 96) :
    ((List.range 3).map f).getD (l / 32) z = f (l / 32) := by
  have beat : l / 32 < 3 := by omega
  rw [List.getD_eq_getElem?_getD, List.getElem?_map, List.getElem?_range beat]
  rfl

theorem Wrote.congr {s t : State} {act : LaneSet} {d e : Nat} {f f' g g' : Nat → W32} {n : Nat} {fl : Flags}
    (h : Wrote s t act [(d, f), (e, g)] [] n fl) (hf : ∀ l < 96, f l = f' l) (hg : ∀ l < 96, g l = g' l) :
    Wrote s t act [(d, f'), (e, g')] [] n fl := by
  obtain ⟨only, moved, lanes, otherLanes, uniform, otherUniform, mask, flags, emptyV, emptyG, poisonV, poisonG, marks,
    rest⟩ := h
  refine ⟨only, moved, fun p hp l hl => ?_, fun r hr => otherLanes r ?_, uniform, otherUniform, mask, flags, emptyV,
    emptyG, poisonV, poisonG, marks, rest⟩
  · obtain rfl | rfl : p = (d, f') ∨ p = (e, g') := by simpa using hp
    · simpa [hf l hl] using lanes (d, f) (by simp) l hl
    · simpa [hg l hl] using lanes (e, g) (by simp) l hl
  · simpa using hr

theorem xpk_wrote {s : State} {d a c : Reg} {wa n x4 : Bool} (ne : c ≠ d)
    (h : s.Accepts ⟨[sv a wa], [dv d, dv c], true⟩) :
    Gives (.xpk d a c wa n x4) s fun t =>
      let block (l : Nat) := s.cur.packBeat x4 (s.lanesOn n) a.val (l / 32)
      Wrote s t (s.lanesOn n)
        [(d.val, fun l => BitVec.ofNat 32 ((block l).2.2.1.getD (l % 32) 0)),
          (c.val, fun l => BitVec.ofNat 32 ((block l).2.1 * 2 ^ 8 + (block l).1))] [] 8
        (orFlags ((beatsOf (s.lanesOn n)).map fun b => (block (32 * b)).2.2.2)) := by
  refine ⟨_, congrArg s.finish (State.gated_of_accepts h _), ?_⟩
  have flags : (beatsOf (s.lanesOn n)).map (fun b => (((List.range 3).map fun b =>
        s.cur.packBeat x4 (s.lanesOn n) a.val b).getD (32 * b / 32) (0, 0, [], 0)).2.2.2) =
      (beatsOf (s.lanesOn n)).map fun b => (s.cur.packBeat x4 (s.lanesOn n) a.val (32 * b / 32)).2.2.2 := by
    refine List.map_congr_left fun b hb => ?_
    have beat : b < 3 := List.mem_range.1 (List.mem_filter.1 hb).1
    rw [blocks_getD _ _ (by omega)]
  dsimp only
  rw [← flags]
  refine (State.twoResults_wrote h.live _ (fun eq => ne (Fin.ext eq.symm)) _ _ _ _).congr (fun l hl => ?_)
    fun l hl => ?_
  · rw [blocks_getD _ _ hl]
    rfl
  · rw [blocks_getD _ _ hl]
    rfl

theorem xupk_writes (s : State) (d a c : Reg) (wa wc n x4 : Bool) :
    LaneWrites s (.xupk d a c wa wc n x4) ⟨[sv a wa, sv c wc], [dv d], true⟩ n d 8 (fun l =>
      let e := s.cur.vval c.val l
      (BitVec.ofNat 32 (pxUnpack x4 (e.extractLsb' 0 8).toNat (e.extractLsb' 8 8).toNat
        ((s.cur.vval a.val l).extractLsb' 0 (if x4 then 4 else 8)).toNat), 0)) := by
  refine laneWrites_of (f' := fun g l =>
    let e := g.vval c.val l
    (BitVec.ofNat 32 (pxUnpack x4 (e.extractLsb' 0 8).toNat (e.extractLsb' 8 8).toNat
      ((g.vval a.val l).extractLsb' 0 (if x4 then 4 else 8)).toNat), 0)) rfl ?_
  funext l
  cases x4 <;> simp [plain, BitVec.extractLsb'_toNat, Nat.shiftRight_eq_div_pow]

/-- Settles O8: one lemma for each kind of conversion and each of the three words. -/
theorem conversionResults : Obligations.ConversionResults := by
  unfold Obligations.ConversionResults
  refine ⟨fun md dst src bits x => ?_, fun s d a c wa wc n x4 dst src =>
    ⟨fun _ => cvt_wrote, xpk_wrote, xupk_writes s d a c wa wc n x4⟩⟩
  refine ⟨fun df sf hd hs => ?_, fun df w sg hd hs => ?_, fun sf w sg hd hs => ?_, fun w sg w' sg' hd hs => ?_,
    rfl, rfl, rfl, rfl, rfl⟩
  · rw [convert_float_float hd hs]
    exact ⟨fun g h => cvtFF_nan h, fun n h => cvtFF_inf_cases hd h, fun n m e h => cvtFF_fin (sound_of_tyFmt hd) h⟩
  · rw [convert_int_float hd hs]
    exact roundTo_product (sound_of_tyFmt hd) md _ _ _
  · obtain ⟨-, narrow, -⟩ := width_of_tyInt hd
    rw [convert_float_int hd hs]
    refine ⟨fun h => ?_, fun n h => ?_, fun n m e h => ?_⟩
    · simp [cvtFI_nan h]
    · rw [cvtFI_inf narrow h]
      rfl
    · rw [cvtFI_fin h]
      rfl
  · exact convert_int_int hd hs

end Sys2Proof.Machine
end

section
/-! The reduction tree over 96 places (O11; R89, R107). -/

namespace Sys2Proof.Machine

/-! ### Levels of the tree -/

/-- A pair of places combined: an absent member yields the other (R89). -/
def joinPlaces {α : Type} (f : α → α → α) (a b : Option α) : Option α :=
  match a, b with
  | some u, some v => some (f u v)
  | some u, none => some u
  | none, v => v

theorem treeLevel_cons {α : Type} (f : α → α → α) (a b : Option α) (r : List (Option α)) :
    treeLevel f (a :: b :: r) = joinPlaces f a b :: treeLevel f r := by
  cases a <;> cases b <;> rfl

/-- One level over an even number of places takes neighbours in pairs. -/
theorem treeLevel_range {α : Type} (f : α → α → α) (n : Nat) (x : Nat → Option α) :
    treeLevel f ((List.range (2 * n)).map x) =
      (List.range n).map fun j => joinPlaces f (x (2 * j)) (x (2 * j + 1)) := by
  induction n generalizing x with
  | zero => rfl
  | succ n ih =>
    have places : (List.range (2 * (n + 1))).map x =
        x 0 :: x 1 :: (List.range (2 * n)).map fun k => x (k + 2) := by
      simp [Nat.mul_succ, List.range_succ_eq_map, Function.comp_def]
    rw [places, treeLevel_cons, ih, List.range_succ_eq_map]
    simp [Function.comp_def, Nat.mul_succ]

/-- The value of node j on level k over places that hold `x`, each pair combined by `g`. -/
def treeNode {β : Type} (g : β → β → β) (x : Nat → β) : Nat → Nat → β
  | 0, j => x j
  | k + 1, j => g (treeNode g x k (2 * j)) (treeNode g x k (2 * j + 1))

theorem treeNode_eq_rec {β : Type} (g : β → β → β) (x : Nat → β) (k : Nat) : treeNode g x k =
    Nat.rec (motive := fun _ => Nat → β) x (fun _ y j => g (y (2 * j)) (y (2 * j + 1))) k := by
  induction k with
  | zero => rfl
  | succ k ih =>
    funext j
    rw [treeNode, ih]

theorem treeNode_some {α : Type} (f : α → α → α) (x : Nat → α) (k j : Nat) :
    treeNode (joinPlaces f) (fun i => some (x i)) k j = some (treeNode f x k j) := by
  induction k generalizing j with
  | zero => rfl
  | succ k ih => rw [treeNode, ih, ih]; rfl

/-- The tree over the 96 lanes: the roots of three trees of five levels, combined as (x0 ∘ x1) ∘ x2. -/
theorem tree_lanes {α : Type} (f : α → α → α) (x : Nat → Option α) :
    let root := treeNode (joinPlaces f) x 5
    tree f (laneNums.map x) = joinPlaces f (joinPlaces f (root 0) (root 1)) (root 2) := by
  intro root
  have level (k n : Nat) : treeLevel f ((List.range (2 * n)).map (treeNode (joinPlaces f) x k)) =
      (List.range n).map (treeNode (joinPlaces f) x (k + 1)) := treeLevel_range f n _
  have five : treeLevel f (treeLevel f (treeLevel f (treeLevel f (treeLevel f (laneNums.map x))))) =
      [root 0, root 1, root 2] := by
    rw [laneNums, show (List.range 96).map x = (List.range (2 * 48)).map (treeNode (joinPlaces f) x 0) from rfl,
      level 0 48, level 1 24, level 2 12, level 3 6, level 4 3]
    rfl
  have last : treeLevel f [root 2] = [root 2] := rfl
  rw [tree, five, treeLevel_cons, last, treeLevel_cons]

/-! ### What a pair combines to (R107) -/

theorem minMax_false (sg : Bool) (a b : W32) :
    minMax false sg a b = if (if sg then a.slt b else a.ult b) then a else b := by
  rw [minMax, Bool.bne_false]

theorem minMax_true (sg : Bool) (a b : W32) :
    minMax true sg a b = if (if sg then a.slt b else a.ult b) then b else a := by
  rw [minMax]
  cases (if sg then a.slt b else a.ult b) <;> rfl

/-- The integer operations raise no flag of their own. -/
theorem redOp_int {ty : Ty} (h : ty = .i32 ∨ ty = .n32) (md : Mode) (x y : W32) (f g : Flags) :
    let less := if ty = .i32 then x.slt y else x.ult y
    let one (op : RedOp) (z : W32) : Prop := redOp op ty md (x, f) (y, g) = (z, f ||| g ||| 0)
    one .add (x + y) ∧ one .min (if less then x else y) ∧ one .max (if less then y else x) ∧
      one .and (x &&& y) ∧ one .or (x ||| y) ∧ one .xor (x ^^^ y) := by
  have none : f ||| g ||| 0 = f ||| g := BitVec.or_zero
  simp only [none]
  obtain rfl | rfl := h
  · exact ⟨rfl, congrArg (·, f ||| g) (minMax_false true x y), congrArg (·, f ||| g) (minMax_true true x y), rfl, rfl,
      rfl⟩
  · exact ⟨rfl, congrArg (·, f ||| g) (minMax_false false x y), congrArg (·, f ||| g) (minMax_true false x y), rfl, rfl,
      rfl⟩

theorem redResult_some (op : RedOp) (ty : Ty) (x : W32) (f : Flags) : redResult op ty (some (x, f)) =
    (if ty = .f32 ∧ (fmt32.decode x.toNat).isNan = true then 0x7FC00000 else x, f) := by
  simp [redResult]

/-- Settles O11: five levels of pairs and the three roots, then each operation and type by its line of R107. -/
theorem reductionTreeOrder : Obligations.ReductionTreeOrder := by
  unfold Obligations.ReductionTreeOrder
  refine ⟨fun f x => ?_, fun f x => ?_, fun ty md x y f g hty => ?_⟩
  · simp only [tree_lanes, treeNode_some, treeNode_eq_rec, joinPlaces]
  · intro pair rec'
    have same : joinPlaces f = pair := by
      funext a b
      cases a <;> cases b <;> rfl
    rw [tree_lanes, same, treeNode_eq_rec]
  · intro one asFp less
    refine ⟨fun float => ?_, fun notFloat => redOp_int (by tauto) md x y f g, by cases ty <;> rfl, ?_, ?_, ?_, ?_, ?_,
      fun op => redResult_some op ty x f⟩
    · subst float
      exact ⟨rfl, rfl, rfl⟩
    all_goals obtain rfl | rfl | rfl := hty <;> rfl

end Sys2Proof.Machine
end

section
/-! Paired-exponent blocks (O14; R78, R80, R103, R104). -/

namespace Sys2Proof.Machine

/-! ### The greatest exponent -/

/-- A value is finite, not zero, and its leading bit has the exponent t. -/
def FVal.Leads (v : FVal) (t : Int) : Prop := ∃ n m e, v = .fin n m e ∧ m ≠ 0 ∧ e + Nat.log2 m = t

/-- The exponent of the leading bit of a finite value that is not zero, or a lower bound. -/
def leadMax (a : Int) : FVal → Int
  | .fin _ m e => if m = 0 then a else max a (e + Nat.log2 m)
  | _ => a

theorem topExp_eq (xs : List FVal) : topExp xs = xs.foldl leadMax (-1000) := by
  rw [topExp]
  rfl

theorem leadMax_cases (a : Int) (v : FVal) :
    (leadMax a v = a ∨ v.Leads (leadMax a v)) ∧ a ≤ leadMax a v ∧ ∀ t, v.Leads t → t ≤ leadMax a v := by
  cases v with
  | nan s => exact ⟨.inl rfl, le_rfl, fun t ⟨_, _, _, eq, _⟩ => by cases eq⟩
  | inf n => exact ⟨.inl rfl, le_rfl, fun t ⟨_, _, _, eq, _⟩ => by cases eq⟩
  | fin n m e =>
    by_cases zero : m = 0
    · rw [leadMax, if_pos zero]
      exact ⟨.inl rfl, le_rfl, fun t ⟨_, _, _, eq, nonzero, _⟩ => by cases eq; exact absurd zero nonzero⟩
    · rw [leadMax, if_neg zero]
      refine ⟨(max_choice a (e + Nat.log2 m)).imp id fun eq => ⟨n, m, e, rfl, zero, eq.symm⟩, le_max_left _ _, ?_⟩
      rintro t ⟨_, _, _, eq, _, rfl⟩
      cases eq
      exact le_max_right _ _

theorem foldl_leadMax (xs : List FVal) (a : Int) :
    (xs.foldl leadMax a = a ∨ ∃ v ∈ xs, v.Leads (xs.foldl leadMax a)) ∧ a ≤ xs.foldl leadMax a ∧
      ∀ v ∈ xs, ∀ t, v.Leads t → t ≤ xs.foldl leadMax a := by
  induction xs generalizing a with
  | nil => simp
  | cons x xs ih =>
    obtain ⟨chosen, above, bound⟩ := leadMax_cases a x
    obtain ⟨reached, le, most⟩ := ih (leadMax a x)
    rw [List.foldl_cons]
    refine ⟨?_, above.trans le, fun v hv t lead => ?_⟩
    · obtain same | ⟨v, hv, lead⟩ := reached
      · rw [same]
        exact chosen.imp id fun lead => ⟨x, by simp, lead⟩
      · exact .inr ⟨v, by simp [hv], lead⟩
    · obtain rfl | hv := List.mem_cons.1 hv
      · exact (bound t lead).trans le
      · exact most v hv t lead

theorem topExp_of_leads {xs : List FVal} {top : Int} (most : ∀ v ∈ xs, ∀ t, v.Leads t → t ≤ top)
    (reached : ∃ v ∈ xs, v.Leads top) (high : -1000 ≤ top) : topExp xs = top := by
  obtain ⟨v, hv, lead⟩ := reached
  obtain ⟨attained, -, bound⟩ := foldl_leadMax xs (-1000)
  have above := bound v hv top lead
  rw [topExp_eq]
  obtain same | ⟨w, hw, lead'⟩ := attained
  · omega
  · exact le_antisymm (most w hw _ lead') above

/-! ### The range of FP32 values -/

theorem decode_fin_range {f : Fmt} (e4 : f.e4 = false) {x : Nat} {n : Bool} {m : Nat} {e : Int}
    (h : f.decode x = .fin n m e) :
    f.qmin ≤ e ∧ (e = f.qmin ∨ e + 2 ≤ f.qmin + f.emask) ∧ m < 2 ^ (f.pbits + 1) := by
  have frac : x % 2 ^ f.pbits < 2 ^ f.pbits := Nat.mod_lt _ (Nat.two_pow_pos _)
  have expo : x / 2 ^ f.pbits % 2 ^ f.ebits < 2 ^ f.ebits := Nat.mod_lt _ (Nat.two_pow_pos _)
  have twice : 2 ^ (f.pbits + 1) = 2 * 2 ^ f.pbits := Nat.pow_succ'
  rw [Fmt.decode, e4] at h
  generalize x / 2 ^ f.pbits % 2 ^ f.ebits = k at expo h
  generalize x % 2 ^ f.pbits = r at frac h
  simp only [Bool.false_and, Bool.false_eq_true, if_false, Bool.not_false, Bool.true_and, beq_iff_eq] at h
  by_cases all : k = f.emask
  · rw [if_pos all] at h
    split_ifs at h
  rw [if_neg all] at h
  have below : k < f.emask := by rw [Fmt.emask] at all ⊢; omega
  by_cases sub : k = 0
  · rw [if_pos sub] at h
    cases h
    exact ⟨le_rfl, .inl rfl, by omega⟩
  · rw [if_neg sub] at h
    cases h
    exact ⟨by omega, .inr (by omega), by omega⟩

theorem lead_range {x : Nat} {t : Int} (h : (fmt32.decode x).Leads t) : -149 ≤ t ∧ t ≤ 127 := by
  obtain ⟨n, m, e, eq, nonzero, rfl⟩ := h
  obtain ⟨lo, hi, small⟩ := decode_fin_range rfl eq
  have sub : fmt32.qmin = -149 := by decide
  have all : fmt32.emask = 255 := by decide
  have lead : Nat.log2 m < 24 := (Nat.log2_lt nonzero).2 small
  rw [sub] at lo
  rw [sub, all] at hi
  omega

/-! ### Elements -/

theorem pxElem_eq (x4 sel n : Bool) (m : Nat) : pxElem x4 sel n m =
    (if sel then 2 * (if x4 then 4 else 64) else 0) + (if n then (if x4 then 4 else 64) else 0) + m := by
  cases x4 <;> cases sel <;> cases n <;> rfl

theorem pxValue_elem (x4 sel n : Bool) {m : Nat} (hm : m < pxLimit x4) (ea eb : Nat) :
    pxValue x4 ea eb (pxElem x4 sel n m) =
      if (if sel then eb else ea) = 255 then .nan false
      else .fin n m (((if sel then eb else ea : Nat) : Int) - pxShift x4) := by
  have fields : (pxElem x4 sel n m / (if x4 then 8 else 128) % 2 == 1) = sel ∧
      (pxElem x4 sel n m / (if x4 then 4 else 64) % 2 == 1) = n ∧ pxElem x4 sel n m % pxLimit x4 = m := by
    cases x4 <;> cases sel <;> cases n <;> simp only [pxElem, bnat, pxLimit, if_true, if_false, Bool.false_eq_true,
      beq_iff_eq, beq_eq_false_iff_ne, ne_eq] at hm ⊢ <;> omega
  obtain ⟨hsel, hneg, hmag⟩ := fields
  rw [pxValue, hsel, hneg, hmag]

/-! ### Values as real numbers -/

theorem units_real (q : Int) {n : Bool} {m : Nat} {e : Int} (hq : q ≤ e) :
    (((FVal.fin n m e).units q : Int) : ℝ) * (2 : ℝ) ^ q = (signed n m : ℝ) * (2 : ℝ) ^ e := by
  have split : (2 : ℝ) ^ e = (2 : ℝ) ^ (e - q).toNat * (2 : ℝ) ^ q := by
    rw [← zpow_natCast, ← zpow_add₀ two_ne_zero]
    congr 1
    omega
  rw [FVal.units, split]
  push_cast
  ring

theorem lt_iff_real (n n' : Bool) (m m' : Nat) (e e' : Int) : (FVal.fin n m e).lt (.fin n' m' e') = true ↔
    (signed n m : ℝ) * (2 : ℝ) ^ e < (signed n' m' : ℝ) * (2 : ℝ) ^ e' := by
  have pos : (0 : ℝ) < (2 : ℝ) ^ min e e' := by positivity
  rw [FVal.lt, decide_eq_true_eq, ← units_real _ (min_le_left e e'), ← units_real _ (min_le_right e e'),
    mul_lt_mul_iff_left₀ pos, Int.cast_lt]

theorem eqv_iff_real (n : Bool) (m m' : Nat) (e e' : Int) : (FVal.fin n m e).eqv (.fin n m' e') = true ↔
    (m' : ℝ) * (2 : ℝ) ^ e' = (m : ℝ) * (2 : ℝ) ^ e := by
  have signs : ((FVal.fin n m e).eqv (.fin n m' e') = true) ↔
      (signed n m : ℝ) * (2 : ℝ) ^ e = (signed n m' : ℝ) * (2 : ℝ) ^ e' := by
    rw [@le_antisymm_iff ℝ, ← not_lt, ← not_lt, ← lt_iff_real, ← lt_iff_real]
    simp [FVal.eqv, and_comm]
  rw [signs]
  cases n <;> simp [signed, eq_comm]

/-! ### Packing a block (R80, R103) -/

/-- The magnitude of a value in units of 2^(E − c), rounded to nearest even. -/
def pxUnits (x4 : Bool) (E : Int) (m : Nat) (e : Int) : Nat := (roundAt 0 false m e false (E - pxShift x4)).1

/-- The element of a value under a pair of exponents: the finer one where the rounded magnitude fits (R80). That of a
NaN or an infinity is not used. -/
def pxPick (x4 : Bool) (ea eb : Int) : FVal → Nat
  | .fin n m e =>
    if pxUnits x4 eb m e < pxLimit x4 then pxElem x4 true n (pxUnits x4 eb m e)
    else pxElem x4 false n (min (pxUnits x4 ea m e) (pxLimit x4 - 1))
  | _ => 0

/-- What an element of a finite value decodes to. -/
theorem pxValue_pick (x4 n : Bool) (m : Nat) (e : Int) {ea eb : Nat} (ha : ea ≠ 255) (hb : eb ≠ 255) :
    pxValue x4 ea eb (pxPick x4 ea eb (.fin n m e)) =
      if pxUnits x4 eb m e < pxLimit x4 then .fin n (pxUnits x4 eb m e) (eb - pxShift x4)
      else .fin n (min (pxUnits x4 ea m e) (pxLimit x4 - 1)) (ea - pxShift x4) := by
  have pos : 0 < pxLimit x4 := by cases x4 <;> decide
  rw [pxPick]
  split
  · next finer => exact (pxValue_elem x4 true n finer ea eb).trans (if_neg hb)
  · exact (pxValue_elem x4 false n (by omega) ea eb).trans (if_neg ha)

/-- A block from its exponents and the elements that `g` gives (R80). -/
def pxBlock (x4 : Bool) (vs : List FVal) (ea eb : Int) (g : FVal → Nat) : Nat × Nat × List Nat × Flags :=
  (ea.toNat, eb.toNat, vs.map g,
    if ((vs.zip (vs.map g)).all fun p => p.1.eqv (pxValue x4 ea.toNat eb.toNat p.2)) = true then 0 else flagNX)

theorem pxPack_of_special {x4 : Bool} {xs : List Nat}
    (h : ∃ v ∈ xs.map fmt32.decode, v.isNan = true ∨ v.isInf = true) :
    pxPack x4 xs = (255, 255, xs.map fun _ => 0,
      if (xs.map fmt32.decode).any fun v => v.isInf || v.isSnan then flagNV else 0) := by
  have special : ((xs.map fmt32.decode).any fun v => v.isNan || v.isInf) = true := by
    simpa only [List.any_eq_true, Bool.or_eq_true] using h
  rw [pxPack, if_pos special]

theorem pxPack_of_zeros {x4 : Bool} {xs : List Nat} (h : ∀ v ∈ xs.map fmt32.decode, v.isZero = true) :
    pxPack x4 xs = (0, 0, xs.map fun _ => 0, 0) := by
  have number : ¬((xs.map fmt32.decode).any fun v => v.isNan || v.isInf) = true := by
    simp only [List.any_eq_true, Bool.or_eq_true, not_exists, not_and, not_or]
    intro v hv
    have zero := h v hv
    cases v <;> simp at zero ⊢
  rw [pxPack, if_neg number, if_pos (List.all_eq_true.2 h)]

theorem pxPack_of_finite {x4 : Bool} {xs : List Nat}
    (number : ∀ v ∈ xs.map fmt32.decode, v.isNan = false ∧ v.isInf = false)
    (nonzero : ∃ v ∈ xs.map fmt32.decode, v.isZero = false) :
    let vs := xs.map fmt32.decode
    let ea := max (topExp vs + 127) 3
    pxPack x4 xs = pxBlock x4 vs ea (ea - 3) (pxPick x4 ea (ea - 3)) := by
  have noSpecial : ¬((xs.map fmt32.decode).any fun v => v.isNan || v.isInf) = true := by
    simp only [List.any_eq_true, Bool.or_eq_true, not_exists, not_and, not_or, Bool.not_eq_true]
    exact number
  have notZeros : ¬(xs.map fmt32.decode).all FVal.isZero = true := by
    obtain ⟨v, hv, hz⟩ := nonzero
    exact fun all => by simp [List.all_eq_true.1 all v hv] at hz
  intro vs ea
  rw [pxPack, if_neg noSpecial, if_neg notZeros]
  refine congrArg (pxBlock x4 vs ea (ea - 3)) (funext fun v => ?_)
  cases v <;> rfl

theorem pxBlock_flags (x4 : Bool) (vs : List FVal) (ea eb : Int) (g : FVal → Nat) :
    ((pxBlock x4 vs ea eb g).2.2.2 = flagNX ∨ (pxBlock x4 vs ea eb g).2.2.2 = 0) ∧
    ((pxBlock x4 vs ea eb g).2.2.2 = flagNX ↔
      ∃ v ∈ vs, ¬v.eqv (pxValue x4 ea.toNat eb.toNat (g v)) = true) := by
  have differ : (0 : Flags) ≠ flagNX := by decide
  have paired : ((vs.zip (vs.map g)).all fun p => p.1.eqv (pxValue x4 ea.toNat eb.toNat p.2)) =
      vs.all fun v => v.eqv (pxValue x4 ea.toNat eb.toNat (g v)) := by
    induction vs with
    | nil => rfl
    | cons v vs ih => simp only [List.map_cons, List.zip_cons_cons, List.all_cons, ih]
  rw [pxBlock, paired]
  dsimp only
  by_cases same : (vs.all fun v => v.eqv (pxValue x4 ea.toNat eb.toNat (g v))) = true
  · rw [if_pos same]
    rw [List.all_eq_true] at same
    exact ⟨.inr rfl, fun h => absurd h differ, fun ⟨v, hv, ne⟩ => absurd (same v hv) ne⟩
  · rw [if_neg same]
    rw [List.all_eq_true] at same
    push Not at same
    exact ⟨.inl rfl, fun _ => same, fun _ => rfl⟩

/-- The block of finite values, not all zero, by its greatest exponent. -/
theorem pxPack_finite {x4 : Bool} {xs : List Nat} {top : Int}
    (number : ∀ v ∈ xs.map fmt32.decode, v.isNan = false ∧ v.isInf = false)
    (most : ∀ v ∈ xs.map fmt32.decode, ∀ t, v.Leads t → t ≤ top)
    (reached : ∃ v ∈ xs.map fmt32.decode, v.Leads top) :
    3 ≤ max (top + 127) 3 ∧ max (top + 127) 3 < 255 ∧
    pxPack x4 xs = pxBlock x4 (xs.map fmt32.decode) (max (top + 127) 3) (max (top + 127) 3 - 3)
      (pxPick x4 (max (top + 127) 3) (max (top + 127) 3 - 3)) := by
  obtain ⟨v, hv, lead⟩ := reached
  obtain ⟨lo, hi⟩ : -149 ≤ top ∧ top ≤ 127 := by
    obtain ⟨x, -, rfl⟩ := List.mem_map.1 hv
    exact lead_range lead
  have greatest : topExp (xs.map fmt32.decode) = top := topExp_of_leads most ⟨v, hv, lead⟩ (by omega)
  have nonzero : v.isZero = false := by
    obtain ⟨n, m, e, rfl, ne, -⟩ := lead
    simpa using ne
  refine ⟨le_max_right _ _, by omega, ?_⟩
  rw [pxPack_of_finite number ⟨v, hv, nonzero⟩, greatest]

/-! ### Unpacking an element (R104) -/

/-- A magnitude whose bits all lie in the range of FP32 is rounded to itself. -/
theorem roundTo_exact {md : Mode} {n : Bool} {m : Nat} {e : Int} (hm : m ≠ 0) (ftz : md.ftz = false)
    (low : -149 ≤ e) (width : Nat.log2 m ≤ 23) (top : e + Nat.log2 m ≤ 127) :
    fmt32.Holds n (m * 2 ^ (e + 149).toNat) (roundTo fmt32 md n m e false).1 := by
  have sub : fmt32.qmin = -149 := by decide
  have most : fmt32.maxEnc = 255 * 2 ^ 23 - 1 := by decide
  have bits : fmt32.pbits = 23 := rfl
  have unit : fmt32.unit m e = max (e + Nat.log2 m - 23) (-149) := by rw [Fmt.unit, sub, bits]; rfl
  have exact : (roundAt md.rm n m e false (fmt32.unit m e)).1 = m * 2 ^ (e - fmt32.unit m e).toNat := by
    rw [roundAt_of_le _ _ _ _ (by omega)]
  have short : m * 2 ^ (e - fmt32.unit m e).toNat < 2 ^ 24 := by
    calc m * 2 ^ (e - fmt32.unit m e).toNat < 2 ^ (Nat.log2 m + 1) * 2 ^ (e - fmt32.unit m e).toNat :=
          Nat.mul_lt_mul_of_pos_right Nat.lt_log2_self (Nat.two_pow_pos _)
      _ = 2 ^ (Nat.log2 m + 1 + (e - fmt32.unit m e).toNat) := (Nat.pow_add ..).symm
      _ ≤ 2 ^ 24 := Nat.pow_le_pow_right two_pos (by omega)
  have within : fmt32.placed md.rm n m e false ≤ fmt32.maxEnc := by
    rw [Fmt.placed, exact, sub, bits, most]
    have : (fmt32.unit m e - -149).toNat ≤ 253 := by omega
    omega
  have holds := Fmt.holds_enc sound_fmt32 n within
  rw [magnitude_placed hm, exact, sub, Nat.mul_assoc, ← Nat.pow_add,
    show (e - fmt32.unit m e).toNat + (fmt32.unit m e - -149).toNat = (e + 149).toNat by omega] at holds
  rwa [roundTo_of_within (.inl hm) (by simp [ftz]) within]

theorem units_eq_real {q e : Int} (m : Nat) (hq : q ≤ e) :
    (m : ℝ) * (2 : ℝ) ^ e = ((m * 2 ^ (e - q).toNat : Nat) : ℝ) * (2 : ℝ) ^ q := by
  have units := units_real q (n := false) (m := m) hq
  simp only [FVal.units, signed, Bool.false_eq_true, if_false, Int.cast_natCast] at units
  rw [← units]
  push_cast
  ring

/-- An encoding that holds a magnitude has its value. -/
theorem holds_value {n : Bool} {m y : Nat} {e : Int} (low : -149 ≤ e) (h : fmt32.Holds n (m * 2 ^ (e + 149).toNat) y) :
    y < 2 ^ 32 ∧ ∃ k e', fmt32.decode y = .fin n k e' ∧ (k : ℝ) * (2 : ℝ) ^ e' = (m : ℝ) * (2 : ℝ) ^ e := by
  have sub : fmt32.qmin = -149 := by decide
  obtain ⟨small, a, k, dec, le, mag⟩ := h
  rw [sub] at le mag
  refine ⟨small, a, k, dec, ?_⟩
  rw [units_eq_real a le, units_eq_real m low, mag, sub_neg_eq_add]

theorem pxUnpack_elem (x4 sel n : Bool) {ea eb m : Nat} (ha : ea < 256) (hb : eb < 256) (hm : m < pxLimit x4) :
    ((if sel then eb else ea) = 255 → pxUnpack x4 ea eb (pxElem x4 sel n m) = 0x7FC00000) ∧
    ((if sel then eb else ea) ≠ 255 → pxUnpack x4 ea eb (pxElem x4 sel n m) < 2 ^ 32 ∧
      ∃ k e, fmt32.decode (pxUnpack x4 ea eb (pxElem x4 sel n m)) = .fin n k e ∧
        (k : ℝ) * (2 : ℝ) ^ e = (m : ℝ) * (2 : ℝ) ^ (((if sel then eb else ea : Nat) : Int) - pxShift x4)) := by
  have bound : (if sel then eb else ea) < 256 := by split <;> assumption
  rw [pxUnpack, pxValue_elem x4 sel n hm]
  generalize (if sel then eb else ea) = E at bound ⊢
  refine ⟨fun special => by rw [if_pos special]; rfl, fun finite => ?_⟩
  rw [if_neg finite]
  have shift : (x4 = true ∧ pxShift x4 = 128 ∧ m < 4) ∨ (x4 = false ∧ pxShift x4 = 132 ∧ m < 64) := by
    cases x4
    · exact .inr ⟨rfl, rfl, hm⟩
    · exact .inl ⟨rfl, rfl, hm⟩
  have low : -149 ≤ (E : Int) - pxShift x4 := by omega
  refine holds_value low ?_
  by_cases zero : m = 0
  · subst zero
    dsimp only
    rw [roundTo_zero, zero_mul]
    exact Fmt.holds_zero sound_fmt32 n
  · have log : (m < 4 → Nat.log2 m < 2) ∧ (m < 64 → Nat.log2 m < 6) :=
      ⟨(Nat.log2_lt zero (k := 2)).2, (Nat.log2_lt zero (k := 6)).2⟩
    exact roundTo_exact zero rfl low (by omega) (by omega)

theorem pxPack_workedBlock :
    let xs := [0x40C00000, 0x3ECCCCCD, 0xBFA66666, 0xC0FF0A3D, 0x3F7F7CEE] ++ List.replicate 27 0
    pxPack false xs = (0x81, 0x7E, [0x30, 0x9A, 0x4A, 0x7F, 0x08] ++ List.replicate 27 0x80, flagNX) ∧
    [0x30, 0x9A, 0x4A, 0x7F, 0x08].map (pxUnpack false 0x81 0x7E) =
      [0x40C00000, 0x3ED00000, 0xBFA00000, 0xC0FC0000, 0x3F800000] := by
  decide

/-- NX is raised exactly where an element of a finite block differs from its value (R103). -/
theorem pick_differs_iff (x4 n : Bool) (m : Nat) (e : Int) {ea eb : Nat} (ha : ea ≠ 255) (hb : eb ≠ 255) :
    ¬(FVal.fin n m e).eqv (pxValue x4 ea eb (pxPick x4 ea eb (.fin n m e))) = true ↔
      (if pxUnits x4 eb m e < pxLimit x4 then (pxUnits x4 eb m e : ℝ) * (2 : ℝ) ^ ((eb : Int) - pxShift x4)
        else (min (pxUnits x4 ea m e) (pxLimit x4 - 1) : Nat) * (2 : ℝ) ^ ((ea : Int) - pxShift x4)) ≠
        (m : ℝ) * (2 : ℝ) ^ e := by
  rw [pxValue_pick x4 n m e ha hb, not_iff_not]
  split <;> exact eqv_iff_real ..

/-- Settles O14: the block of special values, of zeros, and of finite values by the greatest exponent; each element's
value; the worked block. -/
theorem packedBlockValues : Obligations.PackedBlockValues := by
  unfold Obligations.PackedBlockValues
  refine ⟨fun x4 xs => ⟨pxPack_of_special, pxPack_of_zeros, fun top number most reached => ?_⟩, ?_, pxPack_workedBlock⟩
  · have most' : ∀ v ∈ xs.map fmt32.decode, ∀ t, v.Leads t → t ≤ top := by
      rintro v hv t ⟨n, m, e, rfl, nonzero, rfl⟩
      exact most n m e hv nonzero
    have reached' : ∃ v ∈ xs.map fmt32.decode, v.Leads top := by
      obtain ⟨n, m, e, hv, nonzero, eq⟩ := reached
      exact ⟨_, hv, n, m, e, rfl, nonzero, eq⟩
    obtain ⟨low, high, block⟩ := pxPack_finite (x4 := x4) number most' reached'
    rw [block]
    generalize max (top + 127) 3 = ea at low high ⊢
    obtain ⟨A, rfl⟩ : ∃ A : Nat, ea = A := ⟨ea.toNat, by omega⟩
    obtain ⟨B, hB⟩ : ∃ B : Nat, (A : Int) - 3 = B := ⟨A - 3, by omega⟩
    dsimp only
    rw [hB]
    obtain ⟨raised, inexact⟩ := pxBlock_flags x4 (xs.map fmt32.decode) A B (pxPick x4 A B)
    refine ⟨rfl, rfl, by simp [pxBlock], fun i n m e hi => ?_, raised, inexact.trans ⟨?_, ?_⟩⟩
    · rw [pxBlock, List.getElem?_map, hi, Option.map_some, pxPick, pxElem_eq, pxElem_eq]
      rfl
    · rintro ⟨v, hv, differs⟩
      obtain ⟨i, hi⟩ := List.mem_iff_getElem?.1 hv
      obtain ⟨notNan, notInf⟩ := number v hv
      cases v with
      | nan s => simp at notNan
      | inf n => simp at notInf
      | fin n m e => exact ⟨i, n, m, e, hi, (pick_differs_iff x4 n m e (by omega) (by omega)).1 differs⟩
    · rintro ⟨i, n, m, e, hi, differs⟩
      exact ⟨_, List.mem_of_getElem? hi, (pick_differs_iff x4 n m e (by omega) (by omega)).2 differs⟩
  · intro x4 sel n ea eb m ha hb lim c E hm
    have limit : pxLimit x4 = lim := rfl
    have elem := pxElem_eq x4 sel n m
    have spec := pxUnpack_elem x4 sel n ha hb (m := m) hm
    rw [elem] at spec
    exact spec

end Sys2Proof.Machine
end

section
/-! SUPPORT. Exact sums of runs, and a tile as it reads after a product (R88, R126). -/

namespace Sys2Proof.Machine

/-! ### The exact sum of a run (R88) -/

theorem runSum_of_nan {xs : List FVal} (h : xs.any FVal.isNan = true ∨ (.inf false ∈ xs ∧ .inf true ∈ xs)) :
    runSum xs = .nan false := by
  rw [runSum, any_inf_pos, any_inf_neg]
  exact if_pos (by simpa using h)

theorem runSum_of_inf {xs : List FVal} {n : Bool} (nan : xs.any FVal.isNan = false) (mem : .inf n ∈ xs)
    (other : .inf (!n) ∉ xs) : runSum xs = .inf n := by
  rw [runSum, any_inf_pos, any_inf_neg, nan]
  cases n <;> simp_all

/-- The exact sum of finite terms as one term; a zero is −0 where every term is negative. -/
def sumTerm (us : List (Bool × Nat × Int)) : Bool × Nat × Int :=
  (if total us (minExp us) = 0 then us.all (·.1) else decide (total us (minExp us) < 0),
    (total us (minExp us)).natAbs, minExp us)

theorem runSum_finOf (us : List (Bool × Nat × Int)) : runSum (us.map finOf) = finOf (sumTerm us) := by
  have none : (us.any fun _ => false) = false := by simp
  simp only [runSum, exps_finOf, total_finOf, List.any_map, List.all_map, Function.comp_def, isNan_finOf, isInf_finOf,
    neg_finOf, Bool.false_and, none, Bool.or_self, Bool.false_eq_true, if_false]
  rfl

/-- Terms hold a NaN or opposite infinities, or infinities of one sign, or finite values alone. -/
theorem terms_cases (xs : List FVal) :
    (xs.any FVal.isNan = true ∨ (.inf false ∈ xs ∧ .inf true ∈ xs)) ∨
    (∃ n, xs.any FVal.isNan = false ∧ .inf n ∈ xs ∧ .inf (!n) ∉ xs) ∨
    ∃ us : List (Bool × Nat × Int), xs = us.map finOf := by
  by_cases nan : xs.any FVal.isNan = true
  · exact .inl (.inl nan)
  rw [Bool.not_eq_true] at nan
  by_cases pos : .inf false ∈ xs
  · by_cases neg : .inf true ∈ xs
    · exact .inl (.inr ⟨pos, neg⟩)
    · exact .inr (.inl ⟨false, nan, pos, neg⟩)
  by_cases neg : .inf true ∈ xs
  · exact .inr (.inl ⟨true, nan, neg, pos⟩)
  have finite : ∀ x ∈ xs, x ∈ Set.range finOf := by
    intro x hx
    cases x with
    | nan s => exact absurd (List.any_eq_false.1 nan _ hx) (by simp)
    | inf n => cases n <;> contradiction
    | fin n m e => exact ⟨(n, m, e), rfl⟩
  refine .inr (.inr ?_)
  obtain ⟨us, hus⟩ := (Set.range_list_map finOf ▸ finite : xs ∈ Set.range (List.map finOf))
  exact ⟨us, hus.symm⟩

/-! ### A run added to an accumulator at once -/

theorem foldl_min_min (us : List (Bool × Nat × Int)) (a b : Int) :
    us.foldl (fun a x => min a x.2.2) (min a b) = min b (us.foldl (fun a x => min a x.2.2) a) := by
  induction us generalizing a with
  | nil => exact min_comm a b
  | cons u us ih => rw [List.foldl_cons, List.foldl_cons, min_right_comm, ih]

theorem minExp_cons (u : Bool × Nat × Int) (us : List (Bool × Nat × Int)) :
    minExp (u :: us) = min u.2.2 (minExp us) := foldl_min_min us 0 u.2.2

theorem minExp_le {us : List (Bool × Nat × Int)} {u : Bool × Nat × Int} (h : u ∈ us) : minExp us ≤ u.2.2 := by
  induction us with
  | nil => cases h
  | cons v us ih =>
    rw [minExp_cons]
    obtain rfl | h := List.mem_cons.1 h
    · exact min_le_left _ _
    · exact (min_le_right _ _).trans (ih h)

theorem minExp_nonpos (us : List (Bool × Nat × Int)) : minExp us ≤ 0 := by
  induction us with
  | nil => exact le_rfl
  | cons v us ih => rw [minExp_cons]; exact (min_le_right _ _).trans ih

/-- A term in units of 2^q. -/
def termAt (q : Int) (u : Bool × Nat × Int) : Int := signed u.1 (u.2.1 * 2 ^ (u.2.2 - q).toNat)

theorem foldl_add_sum {β : Type} (l : List β) (g : β → Int) (a : Int) :
    l.foldl (fun x k => x + g k) a = a + (l.map g).sum := by
  induction l generalizing a with
  | nil => simp
  | cons b l ih => rw [List.foldl_cons, ih, List.map_cons, List.sum_cons, add_assoc]

theorem total_eq_sum (us : List (Bool × Nat × Int)) (q : Int) : total us q = (us.map (termAt q)).sum :=
  (foldl_add_sum us (termAt q) 0).trans (zero_add _)

theorem total_cons (u : Bool × Nat × Int) (us : List (Bool × Nat × Int)) (q : Int) :
    total (u :: us) q = termAt q u + total us q := by
  simp only [total_eq_sum, List.map_cons, List.sum_cons]

theorem termAt_scale {q r : Int} {u : Bool × Nat × Int} (hr : r ≤ u.2.2) (hq : q ≤ r) :
    termAt q u = termAt r u * 2 ^ (r - q).toNat := by
  rw [termAt, termAt, show (u.2.2 - q).toNat = (u.2.2 - r).toNat + (r - q).toNat by omega, Nat.pow_add, ← Nat.mul_assoc,
    signed_mul]
  push_cast
  rfl

/-- The sum in a finer unit. -/
theorem total_scale {us : List (Bool × Nat × Int)} {q r : Int} (hr : ∀ u ∈ us, r ≤ u.2.2) (hq : q ≤ r) :
    total us q = total us r * 2 ^ (r - q).toNat := by
  rw [total_eq_sum, total_eq_sum, ← List.sum_map_mul_right]
  exact congrArg List.sum (List.map_congr_left fun u hu => termAt_scale (hr u hu) hq)

theorem signed_natAbs (t : Int) (s : Bool) : signed (if t = 0 then s else decide (t < 0)) t.natAbs = t := by
  rcases lt_trichotomy t 0 with neg | rfl | pos
  · rw [if_neg neg.ne, decide_eq_true neg, signed, if_pos rfl]
    omega
  · cases s <;> rfl
  · rw [if_neg pos.ne', decide_eq_false (by omega), signed, if_neg Bool.false_ne_true]
    omega

theorem termAt_sumTerm {us : List (Bool × Nat × Int)} {q : Int} (hq : q ≤ minExp us) :
    termAt q (sumTerm us) = total us q := by
  rw [termAt, signed_mul]
  simp only [sumTerm]
  rw [signed_natAbs, total_scale (fun u hu => minExp_le hu) hq]
  push_cast
  rfl

theorem termAt_sign (q : Int) (u : Bool × Nat × Int) :
    (u.1 = true → termAt q u ≤ 0) ∧ (u.1 = false → 0 ≤ termAt q u) := by
  constructor <;> intro h <;> simp [termAt, signed, h]

theorem total_nonpos {us : List (Bool × Nat × Int)} (h : us.all (·.1) = true) (q : Int) : total us q ≤ 0 := by
  induction us with
  | nil => exact le_rfl
  | cons u us ih =>
    simp only [List.all_cons, Bool.and_eq_true] at h
    rw [total_cons]
    have := (termAt_sign q u).1 h.1
    have := ih h.2
    omega

theorem zeroSign_fixed (us : List (Bool × Nat × Int)) : zeroSign Mode.fixed us = us.all (·.1) := by
  rw [zeroSign, show (Mode.fixed.rm == 3) = false from rfl]
  cases us.all (·.1) <;> simp

/-- A zero sum has the same sign whether the run is summed first or with the accumulator. -/
theorem zero_sign_run {u : Bool × Nat × Int} {us : List (Bool × Nat × Int)}
    (zero : total (u :: us) (minExp (u :: us)) = 0) :
    [u, sumTerm us].all (·.1) = (u :: us).all (·.1) := by
  have le : minExp (u :: us) ≤ minExp us := by rw [minExp_cons]; exact min_le_right _ _
  rw [total_cons, total_scale (fun v hv => minExp_le hv) le] at zero
  have pos : (0 : Int) < 2 ^ (minExp us - minExp (u :: us)).toNat := by positivity
  obtain ⟨neg, nonneg⟩ := termAt_sign (minExp (u :: us)) u
  simp only [List.all_cons, List.all_nil, Bool.and_true]
  by_cases run : total us (minExp us) = 0
  · rw [sumTerm, if_pos run]
  · cases hu : u.1
    · rfl
    · have above : 0 < total us (minExp us) := by
        have := neg hu
        by_contra le
        have := mul_neg_of_neg_of_pos (lt_of_le_of_ne (not_lt.1 le) run) pos
        omega
      have some : ¬us.all (·.1) = true := fun all => absurd (total_nonpos all (minExp us)) (by omega)
      rw [sumTerm, if_neg run, decide_eq_false (by omega), Bool.eq_false_iff.2 some]

section
variable {u : Bool × Nat × Int} {us : List (Bool × Nat × Int)}

theorem minExp_run : minExp [u, sumTerm us] = minExp (u :: us) := by
  rw [minExp_cons, minExp_cons, minExp_cons]
  congr 1
  exact min_eq_left (minExp_nonpos us)

theorem total_run {q : Int} (hq : q ≤ minExp us) : total [u, sumTerm us] q = total (u :: us) q := by
  rw [total_cons, total_cons, total_cons, termAt_sumTerm hq]
  exact congrArg _ (add_zero _)

/-- Finite terms: the run first, or all at once. -/
theorem sumTo_run_finite : (sumTo fmt32 Mode.fixed false [finOf u, finOf (sumTerm us)]) =
    sumTo fmt32 Mode.fixed false (finOf u :: us.map finOf) := by
  have le : minExp (u :: us) ≤ minExp us := by rw [minExp_cons]; exact min_le_right _ _
  refine (sumTo_finOf _ _ [u, sumTerm us]).trans (Eq.trans ?_ (sumTo_finOf _ _ (u :: us)).symm)
  rw [minExp_run, total_run le, zeroSign_fixed, zeroSign_fixed]
  by_cases zero : total (u :: us) (minExp (u :: us)) = 0
  · rw [if_pos zero, if_pos zero, zero_sign_run zero]
  · rw [if_neg zero, if_neg zero]

end

theorem sumTo_nan_value {xs : List FVal} (h : xs.any FVal.isNan = true ∨ (.inf false ∈ xs ∧ .inf true ∈ xs)) :
    (sumTo fmt32 Mode.fixed false xs).1 = 0x7FC00000 :=
  congrArg Prod.fst (sumTo_of_nan (f := fmt32) (h.imp id .inr))

theorem sumTo_inf_value {xs : List FVal} {n : Bool} (nan : xs.any FVal.isNan = false) (mem : .inf n ∈ xs)
    (other : .inf (!n) ∉ xs) : (sumTo fmt32 Mode.fixed false xs).1 = if n then 0xFF800000 else 0x7F800000 := by
  rw [sumTo_of_inf nan rfl mem other]
  cases n <;> decide

/-- To sum a run exactly and then add it gives what the sum of all the terms at once gives. -/
theorem sumTo_runSum (a : FVal) (xs : List FVal) :
    (sumTo fmt32 Mode.fixed false [a, runSum xs]).1 = (sumTo fmt32 Mode.fixed false (a :: xs)).1 := by
  obtain special | ⟨n, nan, mem, other⟩ | ⟨us, rfl⟩ := terms_cases xs
  · rw [runSum_of_nan special, sumTo_nan_value (.inl (by simp)), sumTo_nan_value]
    simp only [List.any_cons, Bool.or_eq_true, List.mem_cons]
    tauto
  · rw [runSum_of_inf nan mem other]
    cases a with
    | nan s => rw [sumTo_nan_value (.inl (by simp)), sumTo_nan_value (.inl (by simp))]
    | inf k =>
      by_cases same : k = n
      · subst same
        rw [sumTo_inf_value (by simp) (n := k) (by simp) (by simp), sumTo_inf_value (by simpa using nan) (n := k)
          (by simp) (by simpa using other)]
      · obtain rfl : k = !n := by cases k <;> cases n <;> simp_all
        rw [sumTo_nan_value (.inr (by cases n <;> simp)), sumTo_nan_value (.inr (by cases n <;> simp_all))]
    | fin k m e =>
      rw [sumTo_inf_value (by simp) (n := n) (by simp) (by simp), sumTo_inf_value (by simpa using nan)
        (by simpa using mem) (by simpa using other)]
  · rw [runSum_finOf]
    cases a with
    | nan s => rw [sumTo_nan_value (.inl (by simp)), sumTo_nan_value (.inl (by simp))]
    | inf k =>
      rw [sumTo_inf_value (by simp) (n := k) (by simp) (by simp [finOf]),
        sumTo_inf_value (by simp) (n := k) (by simp) (by simp [finOf])]
    | fin k m e => exact congrArg Prod.fst (sumTo_run_finite (u := (k, m, e)))

/-! ### A tile as it reads once it is set (R126) -/

theorem aget_append {α : Type} (l m : Assoc α) (q : Nat) : aget (l ++ m) q = (aget l q).or (aget m q) := by
  induction l with
  | nil => rfl
  | cons e l ih =>
    by_cases h : e.1 = q
    · simp [aget, h]
    · simp [aget, h, ih]

theorem aget_filter_none {α : Type} {l : Assoc α} {p : Nat × α → Bool} {q : Nat}
    (h : ∀ x, p (q, x) = false) : aget (l.filter p) q = none := by
  by_contra some
  obtain ⟨⟨k, x⟩, mem, rfl⟩ := List.mem_map.1 (mem_akeys_iff.2 some)
  exact absurd (List.mem_filter.1 mem).2 (by simp [h])

/-- The listed elements of a tile: an element is found by the key of its place, unless it is zero. -/
theorem aget_places {α : Type} [DecidableEq α] (z : α) {ps : List (Nat × Nat)} {key : Nat × Nat → Nat}
    (f : Nat × Nat → α) {p : Nat × Nat} (inj : ∀ p' ∈ ps, key p' = key p → p' = p) :
    aget (ps.filterMap fun p => if f p = z then none else some (key p, f p)) (key p) =
      if p ∈ ps ∧ f p ≠ z then some (f p) else none := by
  induction ps with
  | nil => simp [aget]
  | cons q ps ih =>
    have rest := ih fun p' hp => inj p' (List.mem_cons_of_mem _ hp)
    by_cases zero : f q = z
    · rw [List.filterMap_cons_none (by simp [zero]), rest]
      by_cases eq : p = q
      · simp [eq, zero]
      · simp [eq]
    · rw [List.filterMap_cons_some (b := (key q, f q)) (by simp [zero]), aget]
      by_cases eq : key q = key p
      · obtain rfl := inj q (by simp) eq
        simp [zero]
      · have ne : p ≠ q := fun h => eq (by rw [h])
        simp [eq, rest, ne]

theorem mem_tilePlaces {r c : Nat} : (r, c) ∈ tilePlaces ↔ r < 48 ∧ c < 48 := by
  simp [tilePlaces]

theorem tileAt_setTile (t : Team) (n : Nat) (f : Nat → Nat → W32) {r c : Nat} (hr : r < 48) (hc : c < 48) :
    (t.setTile n f).tileAt n r c = f r c := by
  have inj : ∀ p ∈ tilePlaces, 2304 * n + 48 * p.1 + p.2 = 2304 * n + 48 * r + c → p = (r, c) := by
    rintro ⟨r', c'⟩ mem eq
    have := mem_tilePlaces.1 mem
    ext <;> omega
  have below : aget (t.tiles.filter fun e => decide (e.1 < 2304 * n)) (2304 * n + 48 * r + c) = none :=
    aget_filter_none fun x => decide_eq_false (by omega)
  have above : aget (t.tiles.filter fun e => decide (2304 * (n + 1) ≤ e.1)) (2304 * n + 48 * r + c) = none :=
    aget_filter_none fun x => decide_eq_false (by dsimp only; omega)
  have listed := aget_places 0 (key := fun p => 2304 * n + 48 * p.1 + p.2) (fun p => f p.1 p.2) (p := (r, c)) inj
  rw [Team.tileAt, Team.setTile, aget_append, aget_append, below, above, Option.none_or, Option.or_none]
  refine (congrArg (Option.getD · 0) listed).trans ?_
  by_cases zero : f r c = 0
  · rw [if_neg (fun h => h.2 zero), zero]
    rfl
  · rw [if_pos ⟨mem_tilePlaces.2 ⟨hr, hc⟩, zero⟩]
    rfl

end Sys2Proof.Machine
end

section
/-! The products of every matrix format (O44; R88, R121, R122, R125, R126, R135, R137). -/

namespace Sys2Proof.Machine

/-! ### Fragments (R121, R122, R125) -/

/-- Byte `i` of a stream laid across lane registers. -/
def streamByte (x : List LaneVec) (i : Nat) : BitVec 8 :=
  (laneAt (x.getD (i / 384) []) (i % 384 / 4)).extractLsb' (8 * (i % 4)) 8

theorem fragByte_eq (x : List LaneVec) (i : Nat) : fragByte x i = (streamByte x i).toNat := by
  rw [streamByte, BitVec.extractLsb'_toNat, Nat.shiftRight_eq_div_pow]
  rfl

theorem toSigned_byte (b : BitVec 8) : toSigned 8 b.toNat = b.toInt := by
  have small := b.isLt
  rw [toSigned, BitVec.toInt_eq_toNat_cond]
  simp only [Nat.mod_eq_of_lt small]
  by_cases low : b.toNat < 128
  · rw [if_pos (by omega), if_pos (by omega), Int.emod_eq_of_lt (by omega) (by omega)]
  · rw [if_neg (by omega), if_neg (by omega)]

/-- Element k of row r of a fragment of a floating-point format whose rows have `rb` bytes and whose exponents begin
`ex` registers on. -/
def fragValue (fc : Nat) (x : List LaneVec) (rb ex r k : Nat) : FVal :=
  let byte := (streamByte x (rb * r + k)).toNat
  let pair := (streamByte x (rb * r + 2 * k)).toNat + 256 * (streamByte x (rb * r + 2 * k + 1)).toNat
  let nib := (streamByte x (rb * r + k / 2)).toNat / (if k % 2 = 0 then 1 else 16) % 16
  let expo (b i : Nat) : Nat := (streamByte (x.drop ex) (2 * b + i)).toNat
  let px (x4 : Bool) (b y : Nat) : FVal := pxValue x4 (expo b 0) (expo b 1) y
  if fc = 9 then fmt16.decode pair else if fc = 10 then fmtB16.decode pair
  else if fc = 11 then fmtE4.decode byte else if fc = 12 then fmtE5.decode byte
  else if fc = 13 then px false (rb / 32 * r + k / 32) byte else px true (rb / 16 * r + k / 32) nib

theorem fragElem_eq {fc rb ex : Nat} (h : fc ∈ [9, 10, 11, 12, 13, 14]) (hex : ex = if rb = 256 then 32 else 24)
    (x : List LaneVec) (r k : Nat) : fragElem fc x rb r k = fragValue fc x rb ex r k := by
  simp only [List.mem_cons, List.not_mem_nil, or_false] at h
  obtain rfl | rfl | rfl | rfl | rfl | rfl := h <;>
    simp only [fragElem, fragValue, fragByte_eq, hex, Nat.mul_comm r] <;> rfl

/-! ### Integer runs -/

/-- The exact product of two signed bytes as a term: its sign, its magnitude, and an integer's unit. -/
def byteProduct (a b : BitVec 8) : Bool × Nat × Int :=
  (decide (128 ≤ a.toNat) != decide (128 ≤ b.toNat), a.toInt.natAbs * b.toInt.natAbs, 0)

theorem signed_byte (b : BitVec 8) : signed (decide (128 ≤ b.toNat)) b.toInt.natAbs = b.toInt := by
  have small := b.isLt
  rw [BitVec.toInt_eq_toNat_cond]
  by_cases low : b.toNat < 128
  · rw [decide_eq_false (by omega), if_pos (by omega), signed, if_neg Bool.false_ne_true]
    rfl
  · rw [decide_eq_true (by omega), if_neg (by omega), signed, if_pos rfl]
    omega

theorem signed_mul_signed (s t : Bool) (a b : Nat) : signed (s != t) (a * b) = signed s a * signed t b := by
  cases s <;> cases t <;> simp [signed]

theorem termAt_byteProduct (a b : BitVec 8) : termAt 0 (byteProduct a b) = a.toInt * b.toInt := by
  have whole : (byteProduct a b).2.2 - 0 = 0 := rfl
  rw [termAt, whole, Int.toNat_zero, pow_zero, mul_one, byteProduct, signed_mul_signed, signed_byte, signed_byte]

theorem fragElem_int (x y : List LaneVec) (rb r c k : Nat) :
    (fragElem 0 x rb r k).mul (fragElem 0 y rb c k) =
      finOf (byteProduct (streamByte x (rb * r + k)) (streamByte y (rb * c + k))) := by
  simp only [fragElem, fragByte_eq, toSigned_byte]
  rfl

/-- A run of integer products is added exactly, modulo 2^32. -/
theorem addRun_int (acc : Nat) (us : List (Bool × Nat × Int)) (whole : ∀ u ∈ us, u.2.2 = 0) :
    BitVec.ofNat 32 (addRun false acc (us.map finOf)) = BitVec.ofNat 32 acc + BitVec.ofInt 32 (total us 0) := by
  have unit : minExp us = 0 := by
    refine le_antisymm (minExp_nonpos us) ?_
    induction us with
    | nil => exact le_rfl
    | cons u us ih =>
      rw [minExp_cons, whole u (by simp)]
      exact le_min le_rfl (ih fun v hv => whole v (by simp [hv]))
  have units : (finOf (sumTerm us)).units 0 = total us 0 := by
    rw [units_finOf]
    exact termAt_sumTerm unit.ge
  rw [addRun, runSum_finOf, units, if_neg Bool.false_ne_true, ← BitVec.ofInt_natCast, ← BitVec.ofInt_natCast,
    ← BitVec.ofInt_add]
  refine BitVec.eq_of_toNat_eq ?_
  simp only [BitVec.toNat_ofInt]
  omega

theorem addRun_bytes {β : Type} (acc : Nat) (l : List β) (g h : β → BitVec 8) :
    BitVec.ofNat 32 (addRun false acc (l.map fun i => finOf (byteProduct (g i) (h i)))) =
      BitVec.ofNat 32 acc + BitVec.ofInt 32 (l.map fun i => (g i).toInt * (h i).toInt).sum := by
  have run := addRun_int acc (l.map fun i => byteProduct (g i) (h i)) (by simp [byteProduct])
  rw [total_eq_sum, List.map_map, List.map_map] at run
  simpa only [Function.comp_def, termAt_byteProduct] using run

theorem sum_range_blocks (g : Nat → Int) (w n : Nat) :
    ((List.range n).map fun j => ((List.range w).map fun i => g (w * j + i)).sum).sum =
      ((List.range (w * n)).map g).sum := by
  induction n with
  | zero => rfl
  | succ n ih =>
    rw [List.range_succ, List.map_append, List.sum_append, ih, Nat.mul_succ, List.range_add, List.map_append,
      List.sum_append, List.map_map]
    simp [Function.comp_def]

/-- Steps that each add an integer modulo 2^32 add their sum. -/
theorem foldl_ofNat {β : Type} (l : List β) {step : Nat → β → Nat} {h : β → Int}
    (adds : ∀ x j, BitVec.ofNat 32 (step x j) = BitVec.ofNat 32 x + BitVec.ofInt 32 (h j)) (acc : Nat) :
    BitVec.ofNat 32 (l.foldl step acc) = BitVec.ofNat 32 acc + BitVec.ofInt 32 (l.map h).sum := by
  induction l generalizing acc with
  | nil => simp
  | cons b l ih => rw [List.foldl_cons, ih, adds, List.map_cons, List.sum_cons, BitVec.ofInt_add, BitVec.add_assoc]

/-- The sum of the products of the signed bytes of two rows. -/
def dotOf (a b : List LaneVec) (rb r c : Nat) : Int :=
  (List.range rb).foldl
    (fun x k => x + (streamByte a (rb * r + k)).toInt * (streamByte b (rb * c + k)).toInt) 0

section
variable {f : BitVec 14} (hA : fmtA f = 0) (hB : fmtB f = 0) (hacc : fmtAcc f = false)
include hA hB hacc

theorem dotRuns_int (a b : List LaneVec) (n r c acc : Nat) : BitVec.ofNat 32 (dotRuns f a b (32 * n) r c acc) =
    BitVec.ofNat 32 acc + BitVec.ofInt 32 (dotOf a b (32 * n) r c) := by
  have count : kCount 0 (32 * n) / 32 = n := by simp [kCount]
  have run (x j : Nat) : BitVec.ofNat 32 (addRun false x ((List.range 32).map fun i =>
        (fragElem 0 a (32 * n) r (32 * j + i)).mul (fragElem 0 b (32 * n) c (32 * j + i)))) =
      BitVec.ofNat 32 x + BitVec.ofInt 32 ((List.range 32).map fun i =>
        (streamByte a (32 * n * r + (32 * j + i))).toInt * (streamByte b (32 * n * c + (32 * j + i))).toInt).sum := by
    simp only [fragElem_int]
    exact addRun_bytes x (List.range 32) (fun i => streamByte a (32 * n * r + (32 * j + i)))
      fun i => streamByte b (32 * n * c + (32 * j + i))
  rw [dotRuns, hA, hB, hacc, count, foldl_ofNat _ run, dotOf, foldl_add_sum, zero_add]
  congr 2
  exact sum_range_blocks (fun k => (streamByte a (32 * n * r + k)).toInt * (streamByte b (32 * n * c + k)).toInt) 32 n

theorem product_int (t : Team) (n : Nat) (a b : List LaneVec) {r c : Nat} (hr : r < 48) (hc : c < 48) :
    (t.product n f a b).tileAt n r c = t.tileAt n r c + BitVec.ofInt 32 (dotOf a b 256 r c) := by
  rw [Team.product, tileAt_setTile t n _ hr hc]
  exact (dotRuns_int hA hB hacc a b 8 r c _).trans (by rw [BitVec.ofNat_toNat, BitVec.setWidth_eq])

theorem quarterTile_int (t : Team) (n : Nat) (a b : List (List LaneVec)) (i j u w : Nat) {r c : Nat} (hr : r < 48)
    (hc : c < 48) : (t.quarterTile n f a b i j u w).tileAt n r c = t.tileAt n r c + BitVec.ofInt 32
      ((List.range 4).foldl (fun x q =>
        x + dotOf (a.getD (4 * i + q) []) (b.getD (4 * q + j) []) 64 (48 * u + r) (48 * w + c)) 0) := by
  have quarter (x q : Nat) : BitVec.ofNat 32 (dotRuns f (a.getD (4 * i + q) []) (b.getD (4 * q + j) []) 64
        (48 * u + r) (48 * w + c) x) = BitVec.ofNat 32 x +
      BitVec.ofInt 32 (dotOf (a.getD (4 * i + q) []) (b.getD (4 * q + j) []) 64 (48 * u + r) (48 * w + c)) :=
    dotRuns_int hA hB hacc _ _ 2 _ _ x
  rw [Team.quarterTile, tileAt_setTile t n _ hr hc, foldl_add_sum, zero_add, foldl_ofNat _ quarter, BitVec.ofNat_toNat,
    BitVec.setWidth_eq]

end

/-! ### Floating-point runs (R88) -/

/-- A run of exact products takes an accumulator from y to z: NaN and infinities first, otherwise the exact sum, rounded
once. -/
def RunTakes (ps : List FVal) (y z : Nat) : Prop :=
  let xs := fmt32.decode y :: ps
  let nan : Prop := xs.any FVal.isNan = true ∨ (.inf true ∈ xs ∧ .inf false ∈ xs)
  (nan → z = 0x7FC00000) ∧ (¬nan → .inf false ∈ xs → z = 0x7F800000) ∧ (¬nan → .inf true ∈ xs → z = 0xFF800000) ∧
  (∀ us : List (Bool × Nat × Int), xs = us.map finOf → ∃ fl, SumRounds fmt32 Mode.fixed us (z, fl))

theorem runTakes_addRun (ps : List FVal) (y : Nat) : RunTakes ps y (addRun true y ps) := by
  have once : addRun true y ps = (sumTo fmt32 Mode.fixed false (fmt32.decode y :: ps)).1 := sumTo_runSum _ ps
  rw [RunTakes, once]
  generalize fmt32.decode y :: ps = xs
  have number (h : ¬(xs.any FVal.isNan = true ∨ (.inf true ∈ xs ∧ .inf false ∈ xs))) :
      xs.any FVal.isNan = false ∧ ∀ n, .inf n ∈ xs → .inf (!n) ∉ xs := by
    obtain ⟨nan, clash⟩ := not_or.1 h
    refine ⟨Bool.eq_false_iff.2 nan, fun n mem other => clash ?_⟩
    cases n
    · exact ⟨other, mem⟩
    · exact ⟨mem, other⟩
  refine ⟨fun h => sumTo_nan_value (h.imp id And.symm), fun h mem => ?_, fun h mem => ?_, ?_⟩
  · exact sumTo_inf_value (number h).1 mem ((number h).2 _ mem)
  · exact sumTo_inf_value (number h).1 mem ((number h).2 _ mem)
  · rintro us rfl
    exact ⟨_, sumTo_finite sound_fmt32 Mode.fixed us⟩

/-- The exact products of run j of a row of A and a column of B. -/
def runProducts (f : BitVec 14) (a b : List LaneVec) (rb ex r c j : Nat) : List FVal :=
  (List.range 32).map fun i =>
    (fragValue (fmtA f) a rb ex r (32 * j + i)).mul (fragValue (fmtB f) b rb ex c (32 * j + i))

/-- An accumulator after n steps. -/
def accAfter (step : Nat → Nat → Nat) (acc n : Nat) : Nat := (List.range n).foldl step acc

theorem accAfter_succ (step : Nat → Nat → Nat) (acc n : Nat) :
    accAfter step acc (n + 1) = step (accAfter step acc n) n := by
  rw [accAfter, List.range_succ, List.foldl_append]
  rfl

/-- Steps in groups of k, one after the other. -/
theorem accAfter_groups (step : Nat → Nat → Nat → Nat) {k : Nat} (hk : 0 < k) (acc n : Nat) :
    (List.range n).foldl (fun x q => accAfter (step q) x k) acc =
      accAfter (fun x i => step (i / k) x (i % k)) acc (k * n) := by
  induction n with
  | zero => rfl
  | succ n ih =>
    rw [List.range_succ, List.foldl_append, ih, List.foldl_cons, List.foldl_nil]
    simp only [accAfter]
    rw [Nat.mul_succ, List.range_add, List.foldl_append, List.foldl_map]
    refine List.foldl_ext _ _ _ fun x h hh => ?_
    have small : h < k := List.mem_range.1 hh
    rw [Nat.mul_add_div hk, Nat.div_eq_of_lt small, Nat.add_zero, Nat.mul_add_mod, Nat.mod_eq_of_lt small]

/-- The formats of the floating-point rows of R86. -/
def floatRow (f : BitVec 14) : Prop :=
  (fmtA f ∈ [11, 12, 13] ∧ fmtB f ∈ [11, 12, 13]) ∨ (fmtA f = 14 ∧ fmtB f = 14) ∨
    (fmtA f ∈ [9, 10] ∧ fmtB f ∈ [9, 10])

section
variable {f : BitVec 14} (hacc : fmtAcc f = true) (row : floatRow f)
include hacc row

theorem dotRuns_float (a b : List LaneVec) {rb ex : Nat} (hex : ex = if rb = 256 then 32 else 24) (r c acc : Nat) :
    dotRuns f a b rb r c acc =
      accAfter (fun x j => addRun true x (runProducts f a b rb ex r c j)) acc (kCount (fmtA f) rb / 32) := by
  have hA : fmtA f ∈ [9, 10, 11, 12, 13, 14] := by
    simp only [floatRow, List.mem_cons, List.not_mem_nil, or_false] at row ⊢
    omega
  have hB : fmtB f ∈ [9, 10, 11, 12, 13, 14] := by
    simp only [floatRow, List.mem_cons, List.not_mem_nil, or_false] at row ⊢
    omega
  simp only [dotRuns, hacc, fragElem_eq hA hex, fragElem_eq hB hex]
  rfl

theorem product_float (t : Team) (n : Nat) {r c : Nat} (hr : r < 48) (hc : c < 48) (a b : List LaneVec) :
    ∃ z : Nat → Nat, z 0 = (t.tileAt n r c).toNat ∧
      (t.product n f a b).tileAt n r c = BitVec.ofNat 32 (z (kCount (fmtA f) 256 / 32)) ∧
      ∀ j < kCount (fmtA f) 256 / 32, RunTakes (runProducts f a b 256 32 r c j) (z j) (z (j + 1)) := by
  refine ⟨accAfter (fun x j => addRun true x (runProducts f a b 256 32 r c j)) (t.tileAt n r c).toNat, rfl, ?_,
    fun j _ => ?_⟩
  · rw [Team.product, tileAt_setTile t n _ hr hc, dotRuns_float hacc row a b (ex := 32) rfl]
  · rw [accAfter_succ]
    exact runTakes_addRun _ _

theorem quarterTile_float (t : Team) (n : Nat) {r c : Nat} (hr : r < 48) (hc : c < 48) (a b : List (List LaneVec))
    (i j u w : Nat) :
    ∃ z : Nat → Nat,
      let k := kCount (fmtA f) 64 / 32
      z 0 = (t.tileAt n r c).toNat ∧ (t.quarterTile n f a b i j u w).tileAt n r c = BitVec.ofNat 32 (z (4 * k)) ∧
      ∀ q < 4, ∀ h < k, RunTakes
        (runProducts f (a.getD (4 * i + q) []) (b.getD (4 * q + j) []) 64 24 (48 * u + r) (48 * w + c) h)
        (z (k * q + h)) (z (k * q + h + 1)) := by
  have pos : 0 < kCount (fmtA f) 64 / 32 := by rw [kCount]; split_ifs <;> decide
  let step (q x h : Nat) : Nat := addRun true x
    (runProducts f (a.getD (4 * i + q) []) (b.getD (4 * q + j) []) 64 24 (48 * u + r) (48 * w + c) h)
  generalize hk : kCount (fmtA f) 64 / 32 = k at pos
  refine ⟨accAfter (fun x i => step (i / k) x (i % k)) (t.tileAt n r c).toNat, rfl, ?_, fun q _ h small => ?_⟩
  · rw [Team.quarterTile, tileAt_setTile t n _ hr hc, Nat.mul_comm 4 k, ← accAfter_groups step pos]
    simp only [dotRuns_float hacc row _ _ (rb := 64) (ex := 24) rfl, hk]
    rfl
  · rw [accAfter_succ, Nat.mul_add_div pos, Nat.div_eq_of_lt small, Nat.add_zero, Nat.mul_add_mod,
      Nat.mod_eq_of_lt small]
    exact runTakes_addRun _ _

end

/-- Settles O44: an integer run adds its exact sum modulo 2^32, a floating-point run is one rounded sum with the
accumulator; runs follow one another in the order of K and of the quarters. -/
theorem integerProductIsExact : Obligations.IntegerProductIsExact := by
  unfold Obligations.IntegerProductIsExact
  intro t n f
  refine ⟨fun int r hr c hc => ?_, fun acc row r hr c hc => ?_⟩
  · have hA : fmtA f = 0 := by rw [fmtA]; omega
    have hB : fmtB f = 0 := by rw [fmtB]; omega
    have hacc : fmtAcc f = false := by
      rw [fmtAcc, BitVec.getLsbD, Nat.testBit_eq_decide_div_mod_eq]
      exact decide_eq_false (by omega)
    exact ⟨fun a b => product_int hA hB hacc t n a b hr hc,
      fun a b i _ j _ u _ w _ => quarterTile_int hA hB hacc t n a b i j u w hr hc⟩
  · exact ⟨fun a b => product_float acc row t n hr hc a b,
      fun a b i _ j _ u _ w _ => quarterTile_float acc row t n hr hc a b i j u w⟩

end Sys2Proof.Machine
end

section
/-! SUPPORT. The integer operations of lanes and of uniform values, as the claims write them (R53, R94 to R97, R116). -/

namespace Sys2Proof.Machine

/-! ### High halves and shifts (R94, R96) -/

/-- The upper half of an integer taken modulo 2^2n. -/
theorem extractLsb'_ofInt (n : Nat) (z : Int) :
    (BitVec.ofInt (n + n) z).extractLsb' n n = BitVec.ofInt n (z / (2 ^ n : Nat)) := by
  have pos : (0 : Int) < (2 ^ n : Nat) := by positivity
  have upper : z % (2 ^ (n + n) : Nat) / (2 ^ n : Nat) = z / (2 ^ n : Nat) % (2 ^ n : Nat) := by
    rw [Nat.pow_add, Nat.cast_mul, Int.emod_def, Int.emod_def, ← Int.ediv_ediv_of_nonneg pos.le, mul_assoc,
      Int.sub_mul_ediv_left _ _ pos.ne']
  have whole : 0 ≤ z % (2 ^ (n + n) : Nat) := Int.emod_nonneg _ (by positivity)
  refine BitVec.eq_of_toNat_eq (Int.natCast_inj.1 ?_)
  rw [BitVec.extractLsb'_toNat, Nat.shiftRight_eq_div_pow, BitVec.toNat_ofInt, BitVec.toNat_ofInt, Int.natCast_emod,
    Int.natCast_ediv, Int.toNat_of_nonneg whole, upper, Int.emod_emod_of_dvd _ dvd_rfl,
    Int.toNat_of_nonneg (Int.emod_nonneg _ pos.ne')]

theorem mulHigh_signed {n : Nat} (a b : BitVec n) :
    mulHigh true a b = (a.signExtend (n + n) * b.signExtend (n + n)).extractLsb' n n := by
  have product : a.signExtend (n + n) * b.signExtend (n + n) = BitVec.ofInt (n + n) (a.toInt * b.toInt) :=
    (BitVec.ofInt_mul a.toInt b.toInt).symm
  rw [product, extractLsb'_ofInt]
  rfl

theorem mulHigh_unsigned {n : Nat} (a b : BitVec n) :
    mulHigh false a b = (a.setWidth (n + n) * b.setWidth (n + n)).extractLsb' n n := by
  refine BitVec.eq_of_toNat_eq ?_
  have small : a.toNat * b.toNat < 2 ^ (n + n) := by
    rw [Nat.pow_add]
    exact Nat.mul_lt_mul'' a.isLt b.isLt
  have wide (x : BitVec n) : x.toNat % 2 ^ (n + n) = x.toNat :=
    Nat.mod_eq_of_lt (x.isLt.trans_le (Nat.pow_le_pow_right two_pos (Nat.le_add_left n n)))
  simp [mulHigh, BitVec.extractLsb'_toNat, Nat.shiftRight_eq_div_pow, wide, Nat.mod_eq_of_lt small]

/-- A shift by the width or more leaves nothing but the sign (R96, R116). -/
theorem shiftLeft_eq {n : Nat} (a b : BitVec n) : shiftLeft a b = a <<< b.toNat := by
  rw [shiftLeft]
  split
  · rfl
  · next far => exact (BitVec.shiftLeft_eq_zero (not_lt.1 far)).symm

theorem shiftRight_eq {n : Nat} (a b : BitVec n) : shiftRight a b = a >>> b.toNat := by
  rw [shiftRight]
  split
  · rfl
  · next far => exact (BitVec.ushiftRight_eq_zero (not_lt.1 far)).symm

theorem shiftArith_eq {n : Nat} (a b : BitVec n) : shiftArith a b = a.sshiftRight b.toNat := by
  rw [shiftArith]
  split
  · rfl
  · next far =>
    ext i hi
    rw [BitVec.getElem_sshiftRight, dif_neg (by omega)]
    cases a.msb <;> simp

/-! ### Comparisons, lesser and greater (R53, R94) -/

theorem minMax_lesser {n : Nat} (sg : Bool) (a b : BitVec n) :
    minMax false sg a b = if (if sg then a.slt b else a.ult b) then a else b := by
  rw [minMax, Bool.bne_false]

theorem minMax_greater {n : Nat} (sg : Bool) (a b : BitVec n) :
    minMax true sg a b = if (if sg then a.slt b else a.ult b) then b else a := by
  rw [minMax]
  cases (if sg then a.slt b else a.ult b) <;> rfl

theorem minMax_unsigned_lesser {n : Nat} (a b : BitVec n) : minMax false false a b = if a < b then a else b := by
  rw [minMax_lesser]
  simp only [Bool.false_eq_true, if_false, BitVec.ult, decide_eq_true_eq, BitVec.lt_def]

theorem minMax_unsigned_greater {n : Nat} (a b : BitVec n) : minMax true false a b = if a < b then b else a := by
  rw [minMax_greater]
  simp only [Bool.false_eq_true, if_false, BitVec.ult, decide_eq_true_eq, BitVec.lt_def]

/-- A condition of R53 between integers. -/
def condHolds (cond : Cond) (x y : Int) : Bool :=
  match cond with
  | .eq => x == y
  | .ne => x != y
  | .lt => decide (x < y)
  | .le => decide (x ≤ y)
  | .gt => decide (y < x)
  | .ge => decide (y ≤ x)
  | .un | .ord => false

theorem intCmp_signed {n : Nat} (cond : Cond) (a b : BitVec n) :
    intCmp cond true a b = condHolds cond a.toInt b.toInt := by
  have same : (a == b) = (a.toInt == b.toInt) := by simp only [beq_eq_decide, BitVec.toInt_inj]
  cases cond
  case eq => exact same
  case ne => exact congrArg (!·) same
  all_goals rfl

theorem intCmp_unsigned {n : Nat} (cond : Cond) (a b : BitVec n) :
    intCmp cond false a b = condHolds cond a.toNat b.toNat := by
  have same : (a == b) = ((a.toNat : Int) == b.toNat) := by simp only [beq_eq_decide, Int.natCast_inj, BitVec.toNat_inj]
  cases cond
  case eq => exact same
  case ne => exact congrArg (!·) same
  case un | ord => rfl
  case lt | gt => exact decide_eq_decide.2 Int.ofNat_lt.symm
  case le | ge => exact decide_eq_decide.2 Int.ofNat_le.symm

/-! ### Counts of bits (R96) -/

theorem popCount_eq {n : Nat} (x : BitVec n) : popCount x = (List.range n).countP fun i => x.getLsbD i :=
  List.countP_eq_length_filter.symm

/-- The leading zeros are the bits before the first one, counted from the top. -/
theorem leadZeros_eq {n : Nat} (x : BitVec n) :
    leadZeros x = ((List.range n).takeWhile fun i => !x.getMsbD i).length := by
  rw [leadZeros]
  split
  · next zero =>
    obtain rfl : x = 0 := BitVec.eq_of_toNat_eq zero
    have all : ∀ i ∈ List.range n, (!(0 : BitVec n).getMsbD i) = true := by simp
    rw [List.takeWhile_eq_self_iff.2 all, List.length_range]
  · next nonzero =>
    have top : Nat.log2 x.toNat < n := (Nat.log2_lt nonzero).2 x.isLt
    obtain ⟨j, hj⟩ : ∃ j, n = j + (Nat.log2 x.toNat + 1) := ⟨n - 1 - Nat.log2 x.toNat, by omega⟩
    have above : ∀ i ∈ List.range j, (!x.getMsbD i) = true := by
      intro i hi
      have := List.mem_range.1 hi
      rw [BitVec.getMsbD_eq_getLsbD, BitVec.getLsbD, Nat.testBit_lt_two_pow]
      · simp
      · exact (Nat.log2_lt nonzero).1 (by omega)
    have first : x.getMsbD j = true := by
      rw [BitVec.getMsbD_eq_getLsbD, BitVec.getLsbD, show n - 1 - j = Nat.log2 x.toNat by omega,
        Nat.testBit_log2 nonzero]
      simp
      omega
    have places : List.range n = List.range j ++ (j :: (List.range (Nat.log2 x.toNat)).map fun i => j + (i + 1)) := by
      rw [congrArg List.range hj, List.range_add, List.range_succ_eq_map]
      simp
    rw [places, List.takeWhile_append_of_pos above, List.takeWhile_cons_of_neg (by simp [first])]
    simp
    omega

/-! ### Division (R95) -/

theorem divSigned_eq (a b : W32) : divSigned a b =
    if b = 0 then (if a.toInt < 0 then 0x80000000 else 0x7FFFFFFF) else a.sdiv b := by
  have quotient : BitVec.ofInt 32 (a.toInt.tdiv b.toInt) = a.sdiv b :=
    BitVec.eq_of_toInt_eq (by rw [BitVec.toInt_ofInt, BitVec.toInt_sdiv])
  rw [divSigned, quotient, BitVec.msb_eq_toInt]
  simp only [decide_eq_true_eq]

theorem divUnsigned_eq (a b : W32) : divUnsigned a b = if b = 0 then 0xFFFFFFFF else a.udiv b := by
  have quotient : BitVec.ofNat 32 (a.toNat / b.toNat) = a.udiv b := by
    refine BitVec.eq_of_toNat_eq ?_
    rw [BitVec.toNat_ofNat, Nat.mod_eq_of_lt (Nat.lt_of_le_of_lt (Nat.div_le_self _ _) a.isLt)]
    rfl
  rw [divUnsigned, quotient]

/-! ### Halves and fields (R96, R97) -/

theorem absW_eq (a : W32) : absW a = if a.toInt < 0 then -a else a := by
  rw [absW, BitVec.msb_eq_toInt]
  simp only [decide_eq_true_eq]

theorem packPair_eq (a b : W32) : packPair a b = a &&& 0xFFFF ||| b <<< 16 := by
  have low : a &&& (0xFFFF : Nat) = BitVec.ofNat 32 (a.toNat % 2 ^ 16) :=
    BitVec.eq_of_toNat_eq ((Nat.and_two_pow_sub_one_eq_mod a.toNat 16).trans (by simp; omega))
  have high : b.toNat * 2 ^ 16 % 2 ^ 32 = b.toNat % 2 ^ 16 * 2 ^ 16 := by omega
  refine BitVec.eq_of_toNat_eq ?_
  rw [low, packPair, BitVec.toNat_append, BitVec.extractLsb'_toNat, BitVec.extractLsb'_toNat, BitVec.toNat_or,
    BitVec.toNat_shiftLeft, Nat.shiftLeft_eq, Nat.shiftLeft_eq, high, Nat.or_comm, BitVec.toNat_ofNat,
    Nat.mod_eq_of_lt (by omega : a.toNat % 2 ^ 16 < 2 ^ 32)]
  rfl

theorem testBit_field (x pos len i : Nat) :
    (x / 2 ^ pos % 2 ^ len).testBit i = (decide (i < len) && x.testBit (pos + i)) := by
  rw [Nat.testBit_mod_two_pow, Nat.testBit_div_two_pow, Nat.add_comm i]

/-- The word that `ibfi` makes: the bits of D above the field, the low bits of A, and the bits of D below it. -/
theorem fieldInsert_value (pos k : Nat) (d a : W32) : fieldInsert pos (k + 1) d a = BitVec.ofNat 32
    (2 ^ pos * (2 ^ (k + 1) * (d.toNat / 2 ^ pos / 2 ^ (k + 1)) + a.toNat % 2 ^ (k + 1)) + d.toNat % 2 ^ pos) := by
  have high := Nat.div_add_mod (d.toNat / 2 ^ pos) (2 ^ (k + 1))
  have low := Nat.div_add_mod d.toNat (2 ^ pos)
  rw [fieldInsert]
  congr 1
  generalize d.toNat / 2 ^ pos / 2 ^ (k + 1) = h at high ⊢
  generalize d.toNat / 2 ^ pos % 2 ^ (k + 1) = f at high ⊢
  rw [← high] at low
  generalize d.toNat % 2 ^ pos = r at low ⊢
  rw [← low, Nat.mul_add, Nat.mul_add, Nat.mul_comm f, Nat.mul_comm (_ % _)]
  omega

section
variable {pos k : Nat} (fits : pos + k ≤ 31)
include fits

/-- The bits of the field of k + 1 bits that `ibfe` takes, moved to the top of the word. -/
theorem getLsbD_fieldTop (x : W32) {i : Nat} (hi : i ≤ k) :
    (x <<< (31 - (pos + k))).getLsbD (31 - k + i) = x.toNat.testBit (pos + i) := by
  rw [BitVec.getLsbD_shiftLeft, show 31 - k + i - (31 - (pos + k)) = pos + i by omega, decide_eq_true (by omega),
    decide_eq_false (by omega)]
  rfl

theorem fieldExtract_unsigned (x : W32) :
    fieldExtract false pos (k + 1) x = x <<< (31 - (pos + k)) >>> (31 - k) := by
  refine BitVec.eq_of_getLsbD_eq fun i hi => ?_
  have plain : fieldExtract false pos (k + 1) x = BitVec.ofNat 32 (x.toNat / 2 ^ pos % 2 ^ (k + 1)) := rfl
  rw [BitVec.getLsbD_ushiftRight, plain, BitVec.getLsbD_ofNat, testBit_field, decide_eq_true hi, Bool.true_and]
  by_cases inside : i ≤ k
  · rw [getLsbD_fieldTop fits x inside, decide_eq_true (by omega), Bool.true_and]
  · rw [BitVec.getLsbD_of_ge _ _ (by omega), decide_eq_false (by omega), Bool.false_and]

/-- A field filled up with its sign: bits above the field are its highest one. -/
theorem getLsbD_fieldExtract_signed (x : W32) {i : Nat} (hi : i < 32) :
    (fieldExtract true pos (k + 1) x).getLsbD i = x.toNat.testBit (pos + min i k) := by
  have small : x.toNat / 2 ^ pos % 2 ^ (k + 1) < 2 ^ (k + 1) := Nat.mod_lt _ (Nat.two_pow_pos _)
  have field := testBit_field x.toNat pos (k + 1)
  have sign : (x.toNat / 2 ^ pos % 2 ^ (k + 1) / 2 ^ k == 1) = x.toNat.testBit (pos + k) := by
    have bit := field k
    rw [decide_eq_true (Nat.lt_succ_self k), Bool.true_and, Nat.testBit_eq_decide_div_mod_eq,
      Nat.mod_eq_of_lt (Nat.div_lt_of_lt_mul (by rwa [← Nat.pow_succ]))] at bit
    rw [← bit, beq_eq_decide]
  have ones : 2 ^ 32 - 2 ^ (k + 1) = 2 ^ (k + 1) * (2 ^ (31 - k) - 1) := by
    rw [Nat.mul_sub_one, ← Nat.pow_add, show k + 1 + (31 - k) = 32 by omega]
  rw [fieldExtract, Bool.true_and, Nat.add_sub_cancel, sign, ones]
  generalize x.toNat / 2 ^ pos % 2 ^ (k + 1) = f at small field
  cases top : x.toNat.testBit (pos + k)
  · rw [if_neg Bool.false_ne_true, BitVec.getLsbD_ofNat, field]
    by_cases inside : i ≤ k
    · simp [hi, inside]
    · simp [inside, Nat.lt_succ_iff, min_eq_right (not_le.1 inside).le, top]
  · rw [if_pos rfl, BitVec.getLsbD_ofNat, Nat.testBit_two_pow_mul_add _ small, Nat.testBit_two_pow_sub_one, field]
    by_cases inside : i ≤ k
    · simp [hi, inside]
    · rw [if_neg (by omega), min_eq_right (not_le.1 inside).le, top, decide_eq_true hi, decide_eq_true (by omega)]
      rfl

theorem fieldExtract_signed (x : W32) :
    fieldExtract true pos (k + 1) x = (x <<< (31 - (pos + k))).sshiftRight (31 - k) := by
  have sign : (x <<< (31 - (pos + k))).msb = x.toNat.testBit (pos + k) := by
    rw [BitVec.msb_eq_getLsbD_last, ← getLsbD_fieldTop fits x le_rfl]
    congr 1
    omega
  refine BitVec.eq_of_getLsbD_eq fun i hi => ?_
  rw [getLsbD_fieldExtract_signed fits x hi, BitVec.getLsbD_sshiftRight, sign, decide_eq_false (by omega)]
  by_cases inside : i ≤ k
  · rw [if_pos (by omega), getLsbD_fieldTop fits x inside, min_eq_left inside]
    rfl
  · rw [if_neg (by omega), min_eq_right (by omega)]
    rfl

theorem fieldInsert_eq (d a : W32) : fieldInsert pos (k + 1) d a =
    d &&& ~~~(BitVec.allOnes 32 >>> (31 - k) <<< pos) ||| a <<< pos &&& BitVec.allOnes 32 >>> (31 - k) <<< pos := by
  refine BitVec.eq_of_getLsbD_eq fun i hi => ?_
  have mask : (BitVec.allOnes 32 >>> (31 - k) <<< pos).getLsbD i = decide (pos ≤ i ∧ i ≤ pos + k) := by
    rw [BitVec.getLsbD_shiftLeft, BitVec.getLsbD_ushiftRight, BitVec.getLsbD_allOnes, Bool.eq_iff_iff]
    simp
    omega
  have below : d.toNat % 2 ^ pos < 2 ^ pos := Nat.mod_lt _ (Nat.two_pow_pos _)
  have within : a.toNat % 2 ^ (k + 1) < 2 ^ (k + 1) := Nat.mod_lt _ (Nat.two_pow_pos _)
  rw [BitVec.getLsbD_or, BitVec.getLsbD_and, BitVec.getLsbD_and, BitVec.getLsbD_not, mask, BitVec.getLsbD_shiftLeft,
    fieldInsert_value, BitVec.getLsbD_ofNat, Nat.testBit_two_pow_mul_add _ below, Nat.testBit_two_pow_mul_add _ within]
  obtain low | inside | high : i < pos ∨ (pos ≤ i ∧ i ≤ pos + k) ∨ pos + k < i := by omega
  · rw [if_pos low, Nat.testBit_mod_two_pow]
    simp [low, hi, BitVec.getLsbD]
  · rw [if_neg (by omega), if_pos (by omega), Nat.testBit_mod_two_pow,
      decide_eq_true (show i - pos < k + 1 by omega), decide_eq_true inside]
    simp [inside.1, hi, BitVec.getLsbD]
  · rw [if_neg (by omega), if_neg (by omega), Nat.testBit_div_two_pow, Nat.testBit_div_two_pow,
      show i - pos - (k + 1) + (k + 1) + pos = i by omega]
    simp [hi, BitVec.getLsbD, not_le.2 high]

end

end Sys2Proof.Machine
end

section
/-! Lane integer words (O1, O2, O3; R94 to R97). -/

namespace Sys2Proof.Machine

/-- A literal or a result that is the same for every source raises no flag. -/
theorem plain_eq {x y : W32} (h : x = y) : plain x = (y, 0) := by rw [plain, h]

theorem orFlags_none (ls : List Nat) : orFlags (ls.map fun _ => (0 : Flags)) = 0 := by
  induction ls with
  | nil => rfl
  | cons l ls ih =>
    rw [List.map_cons, orFlags, List.foldl_cons, BitVec.or_self]
    exact ih

/-- Settles O1: every word is the lane form of two sources; its operation is that of the claim. -/
theorem laneIntegerBinaryResults : Obligations.LaneIntegerBinaryResults := by
  unfold Obligations.LaneIntegerBinaryResults
  intro s d a b wa wb n cond sg
  refine ⟨lane2_of rfl fun x y => rfl, lane2_of rfl fun x y => rfl, lane2_of rfl fun x y => rfl,
    lane2_of rfl fun x y => plain_eq (mulHigh_signed x y), lane2_of rfl fun x y => plain_eq (mulHigh_unsigned x y),
    lane2_of rfl fun x y => plain_eq (minMax_lesser true x y),
    lane2_of rfl fun x y => plain_eq (minMax_unsigned_lesser x y),
    lane2_of rfl fun x y => plain_eq (minMax_greater true x y),
    lane2_of rfl fun x y => plain_eq (minMax_unsigned_greater x y),
    lane2_of rfl fun x y => rfl, lane2_of rfl fun x y => rfl, lane2_of rfl fun x y => rfl,
    lane2_of rfl fun x y => plain_eq (shiftLeft_eq x y), lane2_of rfl fun x y => plain_eq (shiftRight_eq x y),
    lane2_of rfl fun x y => plain_eq (shiftArith_eq x y), lane2_of rfl fun x y => plain_eq (packPair_eq x y),
    lane2_of rfl fun x y => plain_eq ?_⟩
  cases cond <;> rfl

/-- Settles O2: the words of one source, of a literal, of a field and of three sources, each by its operation. -/
theorem laneIntegerUnaryAndFieldResults : Obligations.LaneIntegerUnaryAndFieldResults := by
  unfold Obligations.LaneIntegerUnaryAndFieldResults
  intro s d a b c wa wb wc n sg pos lm1 imm
  refine ⟨lane1_of rfl fun x => plain_eq (absW_eq x), lane1_of rfl fun x => plain_eq (BitVec.zero_sub x).symm,
    lane1_of rfl fun x => rfl, lane1_of rfl fun x => rfl,
    lane1_of rfl fun x => plain_eq (by rw [popCount_eq]), lane1_of rfl fun x => plain_eq (by rw [leadZeros_eq]),
    laneWrites_of (f' := fun _ _ => (imm, 0)) rfl rfl, fun fits => ⟨?_, ?_⟩,
    lane3_of rfl fun x y z => rfl, lane3_of rfl fun x y z => rfl⟩
  · refine lane1_of rfl fun x => plain_eq ?_
    cases sg
    · exact fieldExtract_unsigned (by omega) x
    · exact fieldExtract_signed (by omega) x
  · exact laneWrites_of (f' := fun g l =>
      (let m := BitVec.allOnes 32 >>> (31 - lm1.val) <<< pos.val
       g.vval d.val l &&& ~~~m ||| g.vval a.val l <<< pos.val &&& m, 0)) rfl
      (funext fun l => plain_eq (fieldInsert_eq (by omega) _ _))

/-- A 64-bit lane word whose operands pass writes both registers of its pair (R54, R94). -/
theorem State.pair2_wrote {s : State} {d a b : Reg} {wa wb : Bool}
    (h : s.Accepts ⟨[svs a 2 wa, svs b 2 wb], [dvs d 2], true⟩) (n : Bool) (f : W64 → W64 → W64) :
    ∃ t, s.finish (s.pair2 d a b wa wb n f) = .next t ∧
      Wrote s t (s.lanesOn n)
        [(d.val, fun l => (f (s.cur.vpair a.val l) (s.cur.vpair b.val l)).extractLsb' 0 32),
          (d.val + 1, fun l => (f (s.cur.vpair a.val l) (s.cur.vpair b.val l)).extractLsb' 32 32)] [] 4 0 := by
  have wrote := State.twoResults_wrote h.live (s.lanesOn n) (Nat.ne_of_lt (Nat.lt_succ_self d.val))
    (fun l => (f (s.cur.vpair a.val l) (s.cur.vpair b.val l)).extractLsb' 0 32)
    (fun l => (f (s.cur.vpair a.val l) (s.cur.vpair b.val l)).extractLsb' 32 32)
    (orFlags ((lanesOf (s.lanesOn n)).map fun _ => 0)) 4
  refine ⟨_, congrArg s.finish (State.gated_of_accepts h _), ?_⟩
  rw [orFlags_none] at wrote
  rw [State.pairResult, orFlags_none]
  exact wrote

/-- Settles O3: the two divisions by their edge cases, and the words on register pairs. -/
theorem laneDivisionAndPairResults : Obligations.LaneDivisionAndPairResults := by
  unfold Obligations.LaneDivisionAndPairResults
  intro s d a b wa wb n pair word
  exact ⟨lane2_of rfl fun x y => plain_eq (divSigned_eq x y), lane2_of rfl fun x y => plain_eq (divUnsigned_eq x y),
    fun _ h => State.pair2_wrote h n (· + ·), fun _ h => State.pair2_wrote h n (· - ·)⟩

end Sys2Proof.Machine
end

section
/-! Uniform words and lane floating-point words (O4, O16, O17; R98 to R100, R116, R117). -/

namespace Sys2Proof.Machine

/-! ### The shapes of claims about uniform words -/

section
variable {s : State} {i : Instr} {d a b c : Reg} {wa wb wc : Bool} {len : Nat}

theorem uni1_of {f f' : W64 → W64 × Flags} (hi : exec i s = s.finish (s.uni1 d a wa len f))
    (hf : ∀ x, f x = f' x) : Uni1 s i d a wa len f' := uniWrites_of hi (hf _)

theorem uni2_of {f f' : W64 → W64 → W64 × Flags} (hi : exec i s = s.finish (s.uni2 d a b wa wb len f))
    (hf : ∀ x y, f x y = f' x y) : Uni2 s i d a b wa wb len f' := uniWrites_of hi (hf _ _)

theorem uni3_of {f f' : W64 → W64 → W64 → W64 × Flags}
    (hi : exec i s = s.finish (s.uni3 d a b c wa wb wc len f)) (hf : ∀ x y z, f x y z = f' x y z) :
    Uni3 s i d a b c wa wb wc len f' := uniWrites_of hi (hf _ _ _)

end

theorem plain64_eq {x y : W64} (h : x = y) : plain64 x = (y, 0) := by rw [plain64, h]

theorem bit64_eq {p q : Bool} (h : p = q) : plain64 (bit64 p) = (if q then 1 else 0, 0) := by rw [h]; rfl

theorem widen64_eq {r q : W32 × Flags} (h : r = q) : widen64 r = (q.1.setWidth 64, q.2) := by rw [h]; rfl

/-- Settles O16: every word is the uniform form of its sources; its operation is that of the claim. -/
theorem uniformIntegerResults : Obligations.UniformIntegerResults := by
  unfold Obligations.UniformIntegerResults
  intro s d a b c wa wb wc sgn imm cond holds
  have named (x y : Int) : condHolds cond x y = holds x y := by cases cond <;> rfl
  refine ⟨uni2_of rfl fun x y => rfl, uni2_of rfl fun x y => rfl, uni2_of rfl fun x y => rfl,
    uni3_of rfl fun x y z => rfl, uni2_of rfl fun x y => plain64_eq ?_, uni2_of rfl fun x y => rfl,
    uni2_of rfl fun x y => rfl, uni2_of rfl fun x y => rfl, uni2_of rfl fun x y => plain64_eq (shiftLeft_eq x y),
    uni2_of rfl fun x y => plain64_eq (shiftRight_eq x y), uni2_of rfl fun x y => plain64_eq (shiftArith_eq x y),
    uni2_of rfl fun x y => plain64_eq (minMax_lesser true x y),
    uni2_of rfl fun x y => plain64_eq (minMax_unsigned_lesser x y),
    uni2_of rfl fun x y => plain64_eq (minMax_greater true x y),
    uni2_of rfl fun x y => plain64_eq (minMax_unsigned_greater x y),
    uni2_of rfl fun x y => bit64_eq ((intCmp_signed cond x y).trans (named _ _)),
    uni2_of rfl fun x y => bit64_eq ((intCmp_unsigned cond x y).trans (named _ _)),
    uni2_of rfl fun x y => bit64_eq ?_, uni2_of rfl fun x y => bit64_eq ?_, uni3_of rfl fun x y z => rfl,
    uni1_of rfl fun x => rfl, uniWrites_of rfl rfl, uniWrites_of rfl (plain64_eq ?_),
    uni1_of rfl fun x => plain64_eq (by rw [popCount_eq]), uni1_of rfl fun x => plain64_eq (by rw [leadZeros_eq])⟩
  · cases sgn
    · exact mulHigh_unsigned x y
    · exact mulHigh_signed x y
  · have low : gcmpBits cond .i32 x y = intCmp cond true (lo32 x) (lo32 y) := rfl
    rw [low, intCmp_signed, named, lo32_eq_setWidth, lo32_eq_setWidth]
  · have low : gcmpBits cond .n32 x y = intCmp cond false (lo32 x) (lo32 y) := rfl
    rw [low, intCmp_unsigned, named, lo32_eq_setWidth, lo32_eq_setWidth]
  · rw [join64, lo32_eq_setWidth]

/-- Settles O17: every word is the uniform form of its FP32 operation on the low halves. -/
theorem uniformFloatResults : Obligations.UniformFloatResults := by
  unfold Obligations.UniformFloatResults
  intro s d a b c wa wb wc cond dst src wide low
  have half (x : W64) : lo32 x = low x := lo32_eq_setWidth x
  refine ⟨uni2_of rfl fun x y => widen64_eq ?_, uni2_of rfl fun x y => widen64_eq ?_,
    uni3_of rfl fun x y z => widen64_eq ?_, uni2_of rfl fun x y => widen64_eq ?_, uni1_of rfl fun x => rfl⟩
  all_goals simp only [half]

/-- Settles O4: every word is the lane form of its operation in the FMT of the path. -/
theorem laneFloatResults : Obligations.LaneFloatResults := by
  unfold Obligations.LaneFloatResults
  intro s d a b c wa wb wc n bf cond
  exact ⟨lane2_of rfl fun x y => rfl, lane2_of rfl fun x y => rfl, lane2_of rfl fun x y => rfl,
    lane3_of rfl fun x y z => rfl, lane2_of rfl fun x y => rfl, lane2_of rfl fun x y => rfl,
    lane2_of rfl fun x y => rfl, lane1_of rfl fun x => rfl, lane2_of rfl fun x y => rfl,
    lane2_of rfl fun x y => rfl, lane3_of rfl fun x y z => rfl, lane3_of rfl fun x y z => rfl⟩

end Sys2Proof.Machine
end

section
/-! Words across lanes, and those that write uniform registers from the lanes (O9, O10, O12; R105 to R113). -/

namespace Sys2Proof.Machine

/-! ### Results that are the same in the 96 lanes -/

theorem Wrote.congr_lanes {s t : State} {act : LaneSet} {d : Nat} {f f' : Nat → W32} {gd : List (Nat × W64)} {n : Nat}
    {fl : Flags} (h : Wrote s t act [(d, f)] gd n fl) (hf : ∀ l < 96, f l = f' l) :
    Wrote s t act [(d, f')] gd n fl := by
  obtain ⟨only, moved, lanes, otherLanes, uniform, otherUniform, mask, flags, emptyV, emptyG, poisonV, poisonG, marks,
    rest⟩ := h
  refine ⟨only, moved, fun p hp l hl => ?_, fun r hr => otherLanes r (by simpa using hr), uniform, otherUniform, mask,
    flags, emptyV, emptyG, poisonV, poisonG, marks, rest⟩
  obtain rfl := List.mem_singleton.1 hp
  simpa [hf l hl] using lanes (d, f) (by simp) l hl

theorem mem_lanesOf {m : LaneSet} {l : Nat} : l ∈ lanesOf m ↔ l < 96 ∧ m.getLsbD l = true := by
  simp [lanesOf, laneNums]

/-- A lane word by what it writes in the 96 lanes. -/
theorem laneWrites_of_lanes {s : State} {i : Instr} {u : Uses} {n : Bool} {d : Reg} {len : Nat}
    {f : Group → Nat → W32 × Flags} {f' : Nat → W32 × Flags} (hi : exec i s = s.finish (s.laneOp u n d len f))
    (hf : ∀ l < 96, f s.cur l = f' l) : LaneWrites s i u n d len f' := by
  intro h
  obtain ⟨t, next, wrote⟩ := State.laneOp_wrote h n d len f
  have flags : (lanesOf (s.lanesOn n)).map (fun l => (f s.cur l).2) = (lanesOf (s.lanesOn n)).map fun l => (f' l).2 :=
    List.map_congr_left fun l hl => by rw [hf l (mem_lanesOf.1 hl).1]
  rw [flags] at wrote
  exact ⟨t, hi.trans next, wrote.congr_lanes fun l hl => by rw [hf l hl]⟩

/-! ### shfl, vscn and ipfx (R105, R108) -/

theorem shflLane_eq (mode : ShflMode) {l : Nat} (hl : l < 96) (k : Nat) : shflLane mode l k =
    match mode with
    | .idx => if k < 96 then k else l
    | .up => if k ≤ l then l - k else l
    | .dn => if l + k < 96 then l + k else l
    | .xor => if l ^^^ k < 96 then l ^^^ k else l := by
  unfold shflLane
  cases mode <;> dsimp only <;> split_ifs <;> omega

theorem present_below (g : Group) (act : LaneSet) (a l : Nat) :
    g.present (act &&& laneSet fun i => decide (i ≤ l)) a = laneNums.map fun i =>
      if act.getLsbD i && decide (i ≤ l) then some (g.vval a i, 0) else none := by
  refine List.map_congr_left fun i hi => ?_
  rw [BitVec.getLsbD_and, getLsbD_laneSet _ _ (List.mem_range.1 hi)]

/-- A COND code that names no mode is an error of the extension word, whatever the rest of the words holds. -/
theorem decodeWords_shfl {w e : Nat} (op : w / 2 ^ 24 = 0xB8) (cond : 4 ≤ e / 2 ^ 20 % 16) :
    ∃ r, decodeWords w e = .error r := by
  have code : ∀ k, 4 ≤ k → ShflMode.ofCode? k = none := by
    intro k hk
    match k, hk with
    | k + 4, _ => rfl
  have field : (splitC (e % 2 ^ 32)).cond = e / 2 ^ 20 % 16 := by
    change e % 2 ^ 32 / 2 ^ 20 % 16 = _
    omega
  have opcode : (splitBase w).op = 0xB8 := by
    change w / 2 ^ 24 % 256 = _
    omega
  simp only [decodeWords, decodeFields, opcode, decodeB, field, code _ cond, named, legal]
  split <;> exact ⟨_, rfl⟩

theorem decodeWords_vote {w e : Nat} (op : w / 2 ^ 24 = 0xBD) (cond : 5 ≤ e / 2 ^ 20 % 16) :
    ∃ r, decodeWords w e = .error r := by
  have code : ∀ k, 5 ≤ k → VoteMode.ofCode? k = none := by
    intro k hk
    match k, hk with
    | k + 5, _ => rfl
  have field : (splitC (e % 2 ^ 32)).cond = e / 2 ^ 20 % 16 := by
    change e % 2 ^ 32 / 2 ^ 20 % 16 = _
    omega
  have opcode : (splitBase w).op = 0xBD := by
    change w / 2 ^ 24 % 256 = _
    omega
  simp only [decodeWords, decodeFields, opcode, decodeB, field, code _ cond, named, legal, fDA, zeroes]
  split_ifs <;> exact ⟨_, rfl⟩

/-- Settles O9: each word is a lane form; its source lanes are those of its rule in the 96 lanes. -/
theorem crossLaneResults : Obligations.CrossLaneResults := by
  unfold Obligations.CrossLaneResults
  intro s d a b wa wb n mode op ty
  refine ⟨laneWrites_of_lanes rfl fun l hl => ?_,
    laneWrites_of (f' := fun g _ => ((g.gval s.curS a.val).setWidth 32, 0)) rfl
      (funext fun _ => plain_eq (lo32_eq_setWidth _)),
    laneWrites_of_lanes rfl fun l _ => ?_, laneWrites_of_lanes rfl fun l _ => ?_, fun w e _ => decodeWords_shfl⟩
  · rw [shflLane_eq mode hl]
    rfl
  · rw [present_below]
    rfl
  · refine plain_eq ?_
    rw [List.sum_eq_foldl, List.foldl_map]
    rfl

/-! ### vtog, vred and vote (R106, R107, R109) -/

/-- The bits of a sum of rising powers of two, on top of a smaller number. -/
theorem testBit_foldl_powers (xs : List Nat) {x : Nat} (rising : xs.Pairwise (· < ·)) (above : ∀ l ∈ xs, x < 2 ^ l)
    (i : Nat) : (xs.foldl (fun x l => x + 2 ^ l) x).testBit i = (x.testBit i || decide (i ∈ xs)) := by
  induction xs generalizing x with
  | nil => simp
  | cons a xs ih =>
    obtain ⟨first, rest⟩ := List.pairwise_cons.1 rising
    have small : x < 2 ^ a := above a (by simp)
    have next : ∀ l ∈ xs, x + 2 ^ a < 2 ^ l := fun l hl =>
      calc x + 2 ^ a < 2 ^ (a + 1) := by omega
        _ ≤ 2 ^ l := Nat.pow_le_pow_right two_pos (first l hl)
    have bit : (x + 2 ^ a).testBit i = (x.testBit i || decide (i = a)) := by
      have disjoint := Nat.two_pow_add_eq_or_of_lt small 1
      rw [Nat.mul_one] at disjoint
      rw [Nat.add_comm, disjoint, Nat.testBit_or, Nat.testBit_two_pow, Bool.or_comm]
      simp only [eq_comm]
    rw [List.foldl_cons, ih rest next, bit, Bool.or_assoc, ← Bool.decide_or]
    simp only [List.mem_cons]

section
variable {votes : List Nat} (rising : votes.Pairwise (· < ·)) {i : Nat} (hi : i < 64)
include rising hi

theorem getLsbD_voteResult_lo (present : List Nat) :
    (voteResult .lo present votes).getLsbD i = decide (i ∈ votes) := by
  rw [voteResult, BitVec.getLsbD_ofNat, testBit_foldl_powers _ (rising.filter _) fun l _ => Nat.two_pow_pos l]
  simp [hi]

theorem getLsbD_voteResult_hi (present : List Nat) :
    (voteResult .hi present votes).getLsbD i = decide (64 + i ∈ votes) := by
  have moved : ((votes.filter fun l => decide (64 ≤ l)).map (· - 64)).Pairwise (· < ·) := by
    refine List.pairwise_map.2 ((rising.filter _).imp_of_mem fun ha hb lt => ?_)
    simp at ha hb
    omega
  have sum : (votes.filter fun l => decide (64 ≤ l)).foldl (fun x l => x + 2 ^ (l - 64)) 0 =
      ((votes.filter fun l => decide (64 ≤ l)).map (· - 64)).foldl (fun x l => x + 2 ^ l) 0 := by
    rw [List.foldl_map]
  rw [voteResult, sum, BitVec.getLsbD_ofNat, testBit_foldl_powers _ moved fun l _ => Nat.two_pow_pos l,
    decide_eq_true hi, Bool.true_and, Nat.zero_testBit, Bool.false_or, decide_eq_decide]
  simp only [List.mem_map, List.mem_filter, decide_eq_true_eq]
  constructor
  · rintro ⟨l, ⟨hl, high⟩, rfl⟩
    rwa [show 64 + (l - 64) = l by omega]
  · intro h
    exact ⟨64 + i, ⟨h, by omega⟩, by omega⟩

end

theorem voteResult_any (present votes : List Nat) :
    voteResult .any present votes = if votes = [] then 0 else 1 := by
  cases votes <;> rfl

/-- As many votes as present lanes are all of them. -/
theorem voteResult_all (present : List Nat) (p : Nat → Bool) :
    voteResult .all present (present.filter p) = if present.filter p = present then 1 else 0 := by
  have all : ((present.filter p).length == present.length) = decide (present.filter p = present) := by
    rw [beq_eq_decide, decide_eq_decide]
    exact ⟨List.filter_sublist.eq_of_length, congrArg List.length⟩
  rw [voteResult, all, bit64]
  simp only [decide_eq_true_eq]

/-- Settles O10: each word is the uniform form of a value that it forms from the lanes. -/
theorem laneToUniformResults : Obligations.LaneToUniformResults := by
  unfold Obligations.LaneToUniformResults
  intro s d a b wa wb n op ty lanes votes vote lane
  have rising : votes.Pairwise (· < ·) := (List.pairwise_lt_range.filter _).filter _
  have writes {mode : VoteMode} {x : W64} (h : voteResult mode lanes votes = x) : vote mode x :=
    uniWrites_of rfl (plain64_eq h)
  refine ⟨uniWrites_of rfl rfl, uniWrites_of rfl ?_, writes (voteResult_any lanes votes), writes (voteResult_all lanes _),
    writes rfl, fun mode half x bits => writes ?_, fun w e _ => decodeWords_vote⟩
  · rw [redWide]
    simp only [beq_iff_eq]
    rfl
  · refine BitVec.eq_of_getLsbD_eq fun i hi => ?_
    rw [bits i hi]
    obtain rfl | rfl := half
    · exact getLsbD_voteResult_lo rising hi lanes
    · exact getLsbD_voteResult_hi rising hi lanes

/-! ### rnd and samp (R110 to R113) -/

/-- A word that has written registers, and one more uniform register written. -/
theorem Wrote.setG {s t : State} {act : LaneSet} {vd : List (Nat × (Nat → W32))} {gd : List (Nat × W64)} {n : Nat}
    {fl : Flags} (h : Wrote s t act vd gd n fl) {r : Nat} (x : W64) (new : ∀ p ∈ gd, p.1 ≠ r) :
    Wrote s (t.modCur fun g => g.setG s.curS r x) act vd (gd ++ [(r, x)]) n fl := by
  obtain ⟨⟨g, rfl⟩, moved, lanes, otherLanes, uniform, otherUniform, mask, flags, emptyV, emptyG, poisonV, poisonG,
    marks, rest⟩ := h
  have state : (s.setGroup s.curG g).modCur (fun g => g.setG s.curS r x) =
      s.setGroup s.curG (g.setG s.curS r x) := by
    rw [State.modCur_eq, State.setGroup_curG, State.cur_setGroup, State.setGroup_setGroup]
  simp only [Moved, State.cur_setGroup, State.curPath, State.setGroup_curS] at moved lanes otherLanes uniform mask
  simp only [State.cur_setGroup] at otherUniform flags emptyV emptyG poisonV poisonG marks rest
  obtain ⟨live, pc, hlanes, fmt, rj, pd, other⟩ := moved
  obtain ⟨q, hq⟩ := Option.isSome_iff_exists.1 live
  rw [Group.path_of_slot hq] at pc hlanes fmt rj pd mask
  have slot := Group.slot_setG g s.curS r x hq
  have path : (g.setG s.curS r x).path s.curS = if 120 ≤ r ∧ r ≤ 122 then
      { q with mask := setMaskWord q.mask (r - 120) (x &&& maskWord q.lanes (r - 120)) } else q := by
    rw [Group.path, slot]
    split <;> simp [hq]
  rw [state]
  refine ⟨⟨_, rfl⟩, ⟨?_, ?_, ?_, ?_, ?_, ?_, ?_⟩, fun p hp l hl => ?_, fun k hk l => ?_, fun p hp => ?_,
    fun k hk b => ?_, fun unmasked => ?_, ?_, fun k hk => ?_, fun i hi => ?_, fun k hk => ?_, fun i hi => ?_, ?_, ?_⟩
  all_goals simp only [State.cur_setGroup, State.curPath, State.setGroup_curS, path, Group.vval_setG,
    Group.setG_fpst, Group.setG_emptyV, Group.setG_poisonV, Group.slot_setG_not, Group.rest_setG]
  · rw [slot]
    split <;> simp [hq]
  · split <;> exact pc
  · split <;> exact hlanes
  · split <;> exact fmt
  · split <;> exact rj
  · split <;> exact pd
  · exact other
  · exact lanes p hp l hl
  · exact otherLanes k hk l
  · obtain hp | hp := List.mem_append.1 hp
    · rw [Group.gval_setG_ne _ _ _ _ (new p hp), uniform p hp]
    · obtain rfl := List.mem_singleton.1 hp
      rw [Group.gval_setG_self _ _ _ _ hq, State.seen, hlanes]
      rfl
  · rw [Group.gval_setG_ne _ _ _ _ (hk (r, x) (by simp)).symm]
    exact otherUniform k (fun p hp => hk p (List.mem_append_left _ hp)) b
  · have plain := unmasked (r, x) (by simp)
    rw [isMask] at plain
    rw [if_neg plain]
    exact mask fun p hp => unmasked p (List.mem_append_left _ hp)
  · exact flags
  · exact emptyV k hk
  · rw [Group.setG_emptyG, bitOn_and_not_regSet _ _ _ hi, emptyG i hi, List.any_append]
    simp [beq_eq_decide, @eq_comm _ i, Bool.and_assoc]
  · exact poisonV k hk
  · rw [Group.setG_poisonG, bitOn_and_not_regSet _ _ _ hi, poisonG i hi, List.any_append]
    simp [beq_eq_decide, @eq_comm _ i, Bool.and_assoc]
  · rw [Group.setG_marks, marks, List.filter_filter]
    congr 1
    funext m
    cases m.lane <;> simp [bne, beq_eq_decide, @eq_comm _ m.d, Bool.and_comm, List.any_append]
  · exact rest

/-- A uniform register written before or after the move to the next word is the same. -/
theorem Group.next_setG (g : Group) (b : Bool) (r n : Nat) (x : W64) :
    (g.setG b r x).next b n = (g.next b n).setG b r x := by
  unfold Group.setG
  split
  · cases b <;> simp [Group.next, Group.modPath, Group.setSlot, Group.slot, Slot.next, Function.comp_def]
  · cases b <;> rfl

/-- A word of several uniform results, and one more before it moves on. -/
theorem Wrote.setG_next {s : State} {f : Group → Group} {act : LaneSet} {vd : List (Nat × (Nat → W32))}
    {gd : List (Nat × W64)} {n : Nat} {fl : Flags} (h : Wrote s ((s.modCur f).next n) act vd gd n fl) {r : Nat}
    (x : W64) (new : ∀ p ∈ gd, p.1 ≠ r) :
    Wrote s ((s.modCur fun g => (f g).setG s.curS r x).next n) act vd (gd ++ [(r, x)]) n fl := by
  have moved : (s.modCur fun g => (f g).setG s.curS r x).next n =
      ((s.modCur f).next n).modCur fun g => g.setG s.curS r x := by
    rw [State.next_modCur, State.next_modCur, Group.next_setG, State.modCur_eq, State.setGroup_curG, State.cur_setGroup,
      State.setGroup_setGroup]
  rw [moved]
  exact h.setG x new

/-- A word that writes nothing has moved on. -/
theorem State.next_wrote {s : State} (h : s.Live) (n : Nat) : Wrote s ((s.modCur fun g => g).next n) 0 [] [] n 0 := by
  obtain ⟨p, hp⟩ := Option.isSome_iff_exists.1 h
  rw [State.next_modCur]
  exact wrote_of (p := p) (q := p) s.cur hp hp rfl rfl rfl rfl rfl rfl (by simp) (by simp) (by simp) (by simp)
    (fun _ => rfl) (by simp) (by simp) (by simp) (by simp) (by simp) (by simp) rfl

/-- The running best of `samp` replaced where the best candidate is better (R113). -/
def Group.keepBest (g : Group) (b : Bool) (d : Nat) (old : Cand) : Option Cand → Group
  | some x => if better x old then (g.setG b d (x.1.setWidth 64)).setG b (d + 1) (x.2.setWidth 64) else g
  | none => g

theorem keepBest_wrote {s : State} (h : s.Live) (d n : Nat) (old : Cand) (best : Option Cand) :
    Wrote s ((s.modCur fun g => g.keepBest s.curS d old best).next n) 0 []
      (match best.filter fun x => better x old with
        | some x => [(d, x.1.setWidth 64), (d + 1, x.2.setWidth 64)]
        | none => []) n 0 := by
  have start := State.next_wrote h n
  cases best with
  | none => exact start
  | some x =>
    simp only [Option.filter, Group.keepBest]
    split
    · exact (start.setG_next (x.1.setWidth 64) (by simp)).setG_next (x.2.setWidth 64) (by simp)
    · exact start

/-- Settles O12: the numbers of `rnd` and then its counter; the running best of `samp` where a candidate is better, and
then its counter. -/
theorem randomAndSamplingResults : Obligations.RandomAndSamplingResults := by
  unfold Obligations.RandomAndSamplingResults
  intro s d a b c wa wb wc n
  refine ⟨fun _ h => ?_, fun fits h => ?_⟩
  · refine ⟨_, congrArg s.finish (State.gated_of_accepts h _), ?_⟩
    have numbers := State.laneResult_wrote h.live n d 4 fun l =>
      plain (rndF (s.cur.gval s.curS a.val) (s.cur.gval s.curS (a.val + 1) + BitVec.ofNat 64 l))
    have none := orFlags_none (lanesOf (s.lanesOn n))
    simp only [plain, none] at numbers
    exact numbers.setG (s.cur.gval s.curS (a.val + 1) + 96) (by simp)
  · obtain ⟨⟨hd, hc⟩, apart⟩ : (d.val % 2 = 0 ∧ c.val % 2 = 0) ∧ c.val ≠ d.val := by
      simpa [Instr.wf, Reg.aligned] using fits
    refine ⟨((s.modCur fun g => (g.keepBest s.curS d.val _ (tree bestOf _)).setG s.curS (c.val + 1) _).next 8),
      congrArg s.finish (State.gated_of_accepts h _), ?_⟩
    refine (keepBest_wrote h.live d.val 8 _ _).setG_next _ fun p hp => ?_
    split at hp
    · simp only [List.mem_cons, List.not_mem_nil, or_false] at hp
      obtain rfl | rfl := hp <;> dsimp only <;> omega
    · simp at hp

end Sys2Proof.Machine
end

section
/-! Correctly rounded functions (O5; R101): quotients and roots with their remainder, special operands and exact
points. -/

namespace Sys2Proof.Machine

/-! ### Operands of FP32 -/

theorem operand_fin {f : Fmt} {md : Mode} {x : Nat} {n : Bool} {m : Nat} {e : Int}
    (h : f.operand md x = .fin n m e) : ∃ k, f.decode x = .fin n k e ∧ m ≤ k := by
  rw [Fmt.operand] at h
  split at h
  · next n' k e' eq =>
    split at h <;> cases h
    · exact ⟨k, eq, Nat.zero_le k⟩
    · exact ⟨m, eq, le_rfl⟩
  · next other => exact absurd h (other n m e)

/-- A finite FP32 operand has a magnitude of at most 24 bits in a unit between 2^-149 and 2^104. -/
theorem operand_range {md : Mode} {x : Nat} {n : Bool} {m : Nat} {e : Int} (h : fmt32.operand md x = .fin n m e) :
    -149 ≤ e ∧ e ≤ 104 ∧ m < 2 ^ 24 := by
  obtain ⟨k, dec, le⟩ := operand_fin h
  obtain ⟨lo, hi, small⟩ := decode_fin_range rfl dec
  have sub : fmt32.qmin = -149 := by decide
  have all : fmt32.emask = 255 := by decide
  rw [sub] at lo hi
  rw [all] at hi
  exact ⟨lo, by omega, le.trans_lt small⟩

theorem operand_one (md : Mode) : fmt32.operand md 0x3F800000 = .fin false (2 ^ 23) (-23) := by
  have dec : fmt32.decode 0x3F800000 = .fin false (2 ^ 23) (-23) := by decide
  have normal : fmt32.subnormal (.fin false (2 ^ 23) (-23)) = false := by decide
  rw [Fmt.operand, dec]
  simp only [normal, Bool.and_false, Bool.false_eq_true, if_false]

/-! ### Quotients -/

section
variable {md : Mode} {a b : Nat} {n n' : Bool} {m m' : Nat} {e e' : Int}

theorem fDiv_nan (h : (fmt32.operand md a).isNan = true ∨ (fmt32.operand md b).isNan = true) :
    fDiv md a b = nanResult fmt32 ((fmt32.operand md a).isSnan || (fmt32.operand md b).isSnan) := by
  rw [fDiv]
  exact if_pos (Bool.or_eq_true_iff.2 h)

theorem fDiv_inf_inf (ha : fmt32.operand md a = .inf n) (hb : (fmt32.operand md b).isInf = true) :
    fDiv md a b = nanResult fmt32 true := by
  rw [fDiv, ha, eq_inf_of_isInf hb]
  rfl

theorem fDiv_inf_fin (ha : fmt32.operand md a = .inf n) (hb : fmt32.operand md b = .fin n' m' e') :
    fDiv md a b = (fmt32.enc (n != n') 0x7F800000, 0) := by
  rw [fDiv, ha, hb]
  rfl

theorem fDiv_fin_inf (ha : fmt32.operand md a = .fin n m e) (hb : fmt32.operand md b = .inf n') :
    fDiv md a b = (fmt32.enc (n != n') 0, 0) := by
  rw [fDiv, ha, hb]
  rfl

theorem fDiv_fin (ha : fmt32.operand md a = .fin n m e) (hb : fmt32.operand md b = .fin n' m' e') :
    fDiv md a b =
      if m' = 0 then
        if m = 0 then nanResult fmt32 true else (fmt32.enc (n != n') 0x7F800000, flagDZ)
      else if m = 0 then (fmt32.enc (n != n') 0, 0)
      else roundTo fmt32 md (n != n') (divMag m e m' e').1 (divMag m e m' e').2.1 (divMag m e m' e').2.2 := by
  rw [fDiv, ha, hb]
  simp only [FVal.isNan_fin, Bool.or_self, Bool.false_eq_true, if_false, FVal.neg_fin]

/-- A quotient is formed with more than 26 bits, and is inexact where a remainder is left. -/
theorem fDiv_rounds (ha : fmt32.operand md a = .fin n m e) (hb : fmt32.operand md b = .fin n' m' e') (hm : m ≠ 0)
    (hm' : m' ≠ 0) : ∃ k : Nat, 2 ^ 26 ≤ m * 2 ^ k / m' ∧
      RoundsTo fmt32 md (n != n') (m * 2 ^ k / m') (e - e' - k) (m * 2 ^ k % m' != 0) (fDiv md a b) := by
  have top : m' < 2 ^ (Nat.log2 m' + 1) := Nat.lt_log2_self
  have wide : 2 ^ 26 ≤ m * 2 ^ (64 + Nat.log2 m') / m' := by
    rw [Nat.le_div_iff_mul_le (Nat.pos_of_ne_zero hm')]
    calc 2 ^ 26 * m' ≤ 2 ^ 63 * 2 ^ (Nat.log2 m' + 1) := Nat.mul_le_mul (by decide) top.le
      _ = 2 ^ (64 + Nat.log2 m') := by rw [← Nat.pow_add]; congr 1; omega
      _ ≤ m * 2 ^ (64 + Nat.log2 m') := Nat.le_mul_of_pos_left _ (Nat.pos_of_ne_zero hm)
  refine ⟨64 + Nat.log2 m', wide, ?_⟩
  rw [fDiv_fin ha hb, if_neg hm', if_neg hm]
  exact roundTo_rounds sound_fmt32 (m := m * 2 ^ (64 + Nat.log2 m') / m') (by omega)

end

/-! ### Roots -/

theorem isqrtFrom_spec (k : Nat) {n r : Nat} (lo : r ^ 2 ≤ n) (hi : n < (r + 2 ^ (k + 1)) ^ 2) :
    isqrtFrom k n r ^ 2 ≤ n ∧ n < (isqrtFrom k n r + 1) ^ 2 := by
  induction k generalizing r with
  | zero =>
    rw [isqrtFrom]
    split
    · next up => exact ⟨by rwa [sq], hi⟩
    · next down => exact ⟨lo, by rw [sq]; exact not_le.1 down⟩
  | succ k ih =>
    rw [isqrtFrom]
    split
    · next up =>
      refine ih (by rwa [sq]) ?_
      rwa [Nat.add_assoc, ← Nat.two_mul, ← Nat.pow_succ']
    · next down => exact ih lo (by rw [sq]; exact not_le.1 down)

theorem isqrt_spec (n : Nat) : isqrt n ^ 2 ≤ n ∧ n < (isqrt n + 1) ^ 2 := by
  refine isqrtFrom_spec _ (Nat.zero_le _) (Nat.lt_log2_self.trans_le ?_)
  rw [Nat.zero_add, ← Nat.pow_mul]
  exact Nat.pow_le_pow_right two_pos (by omega)

theorem le_isqrt {n : Nat} (h : 2 ^ 52 ≤ n) : 2 ^ 26 ≤ isqrt n := by
  obtain ⟨-, above⟩ := isqrt_spec n
  by_contra small
  have := Nat.pow_le_pow_left (show isqrt n + 1 ≤ 2 ^ 26 by omega) 2
  omega

/-- A root is formed from 2m or m, whichever leaves an even exponent. -/
theorem even_exponent (e : Int) : ∃ b : Nat, (e - b) % 2 = 0 ∧ b ≤ 1 ∧ (if e % 2 == 1 then e - 1 else e) = e - b ∧
    ∀ m : Nat, (if e % 2 == 1 then 2 * m else m) = m * 2 ^ b := by
  obtain even | odd : e % 2 = 0 ∨ e % 2 = 1 := by omega
  · exact ⟨0, by omega, by omega, by simp [even], by simp [even]⟩
  · exact ⟨1, by omega, le_rfl, by simp [odd], by simp [odd, Nat.mul_comm]⟩

section
variable {md : Mode} {x : Nat} {m : Nat} {e : Int} (hx : fmt32.operand md x = .fin false m e) (hm : m ≠ 0)
include hx hm

theorem fSqrt_rounds : ∃ (z k : Nat) (u : Int), 2 ^ 26 ≤ z ∧ e - k = 2 * u ∧ z ^ 2 ≤ m * 2 ^ k ∧
    m * 2 ^ k < (z + 1) ^ 2 ∧ RoundsTo fmt32 md false z u (m * 2 ^ k != z ^ 2) (fSqrt md x) := by
  obtain ⟨b, even, -, exponent, magnitude⟩ := even_exponent e
  have value : fSqrt md x = roundTo fmt32 md false (isqrt (m * 2 ^ (128 + b))) ((e - b - 128) / 2)
      (m * 2 ^ (128 + b) != isqrt (m * 2 ^ (128 + b)) ^ 2) := by
    rw [fSqrt, hx]
    simp only [if_neg hm, Bool.false_eq_true, if_false, exponent, magnitude, Nat.mul_assoc, ← Nat.pow_add,
      Nat.add_comm b]
    rw [bne_comm, ← sq]
  have large : 2 ^ 52 ≤ m * 2 ^ (128 + b) :=
    (Nat.pow_le_pow_right two_pos (by omega)).trans (Nat.le_mul_of_pos_left _ (Nat.pos_of_ne_zero hm))
  have wide := le_isqrt large
  obtain ⟨below, above⟩ := isqrt_spec (m * 2 ^ (128 + b))
  refine ⟨_, 128 + b, (e - b - 128) / 2, wide, by omega, below, above, ?_⟩
  rw [value]
  exact roundTo_rounds sound_fmt32 (by omega)

theorem fRsq_rounds : ∃ (z k : Nat) (u : Int), 2 ^ 26 ≤ z ∧ -e - k = 2 * u ∧ m * z ^ 2 ≤ 2 ^ k ∧
    2 ^ k < m * (z + 1) ^ 2 ∧ RoundsTo fmt32 md false z u (m * z ^ 2 != 2 ^ k) (fRsq md x) := by
  obtain ⟨b, even, hb, exponent, magnitude⟩ := even_exponent e
  obtain ⟨-, -, small⟩ := operand_range hx
  have split : 2 ^ 256 = 2 ^ (256 - b) * 2 ^ b := by rw [← Nat.pow_add]; congr 1; omega
  have pos : 0 < m * 2 ^ b := Nat.mul_pos (Nat.pos_of_ne_zero hm) (Nat.two_pow_pos b)
  have large : 2 ^ 52 ≤ 2 ^ 256 / (m * 2 ^ b) := by
    rw [Nat.le_div_iff_mul_le pos]
    calc 2 ^ 52 * (m * 2 ^ b) ≤ 2 ^ 52 * (2 ^ 24 * 2 ^ 1) :=
          Nat.mul_le_mul_left _ (Nat.mul_le_mul small.le (Nat.pow_le_pow_right two_pos hb))
      _ ≤ 2 ^ 256 := by decide
  have wide := le_isqrt large
  obtain ⟨below, above⟩ := isqrt_spec (2 ^ 256 / (m * 2 ^ b))
  have value : fRsq md x = roundTo fmt32 md false (isqrt (2 ^ 256 / (m * 2 ^ b))) (-128 - (e - b) / 2)
      (isqrt (2 ^ 256 / (m * 2 ^ b)) * isqrt (2 ^ 256 / (m * 2 ^ b)) * (m * 2 ^ b) != 2 ^ 256) := by
    rw [fRsq, hx]
    simp only [if_neg hm, Bool.false_eq_true, if_false, exponent, magnitude]
  rw [value]
  generalize isqrt (2 ^ 256 / (m * 2 ^ b)) = z at wide below above ⊢
  have scaled (y : Nat) : y ^ 2 * (m * 2 ^ b) = m * y ^ 2 * 2 ^ b := by ring
  have le_iff (y : Nat) : m * y ^ 2 ≤ 2 ^ (256 - b) ↔ y ^ 2 ≤ 2 ^ 256 / (m * 2 ^ b) := by
    rw [Nat.le_div_iff_mul_le pos, scaled, split]
    exact (Nat.mul_le_mul_right_iff (Nat.two_pow_pos b)).symm
  have exact_iff : (z * z * (m * 2 ^ b) != 2 ^ 256) = (m * z ^ 2 != 2 ^ (256 - b)) := by
    rw [← sq, scaled, split, Bool.eq_iff_iff, bne_iff_ne, bne_iff_ne, ne_eq, ne_eq,
      Nat.mul_left_inj (Nat.two_pow_pos b).ne']
  refine ⟨z, 256 - b, -128 - (e - b) / 2, wide, by omega, (le_iff z).2 below, not_le.1 (mt (le_iff _).1 ?_), ?_⟩
  · exact not_le.2 above
  · rw [exact_iff]
    exact roundTo_rounds sound_fmt32 (by omega)

end

/-! ### Exact points -/

theorem fixOne_pos : 0 < fixOne := Nat.two_pow_pos fixP

/-- Every FP32 operand is a whole number in fixed point. -/
theorem toFix_eq (m : Nat) {e : Int} (low : -149 ≤ e) : toFix m e = m * 2 ^ (e + fixP).toNat := by
  have bits : fixP = 400 := rfl
  exact if_pos (by omega)

/-- 2^x at the integers between ±2^9. -/
theorem fExp2_integer {md : Mode} {x m : Nat} {e i : Int} (hi : i ≠ 0) (small : i.natAbs < 2 ^ 9)
    (hx : fmt32.operand md x = .fin (decide (i < 0)) m e) (he : e ≤ 0) (hm : m = i.natAbs * 2 ^ (-e).toNat) :
    ProductRounds fmt32 md false 1 i (fExp2 md x) := by
  obtain ⟨low, -, -⟩ := operand_range hx
  have bits : fixP = 400 := rfl
  have nonzero : m ≠ 0 := by
    rw [hm]
    exact Nat.mul_ne_zero (Int.natAbs_ne_zero.2 hi) (Nat.two_pow_pos _).ne'
  have top : Nat.log2 m < 9 + (-e).toNat := by
    rw [Nat.log2_lt nonzero, hm, Nat.pow_add]
    exact Nat.mul_lt_mul_of_pos_right small (Nat.two_pow_pos _)
  have fixed : toFix m e = i.natAbs * fixOne := by
    rw [toFix_eq m low, hm, Nat.mul_assoc, ← Nat.pow_add, fixOne]
    congr 2
    omega
  have value : signed (decide (i < 0)) (toFix m e) = i * fixOne := by
    have sign : signed (decide (i < 0)) i.natAbs = i := by
      rw [signed]
      split
      · next neg => rw [Int.ofNat_natAbs_of_nonpos (of_decide_eq_true neg).le, neg_neg]
      · next pos => exact Int.natAbs_of_nonneg (by simpa using pos)
    rw [fixed, signed_mul, sign]
  have pos : (fixOne : Int) ≠ 0 := Int.natCast_ne_zero.2 fixOne_pos.ne'
  rw [fExp2, hx]
  simp only [if_neg nonzero, value, Int.mul_ediv_cancel _ pos, Int.mul_emod_left, Int.toNat_zero, if_true,
    if_neg (show ¬9 ≤ e + (Nat.log2 m : Int) by omega)]
  exact roundTo_product sound_fmt32 md false 1 i

/-- log2 at the powers of two. -/
theorem fLog2_power {md : Mode} {x k : Nat} {e : Int} (hx : fmt32.operand md x = .fin false (2 ^ k) e) :
    (e + k = 0 → fLog2 md x = (0, 0)) ∧
    (e + k ≠ 0 → RoundsTo fmt32 md (decide (e + k < 0)) (e + k).natAbs 0 false (fLog2 md x)) := by
  have value : fLog2 md x =
      if e + k = 0 then (0, 0) else roundTo fmt32 md (decide (e + k < 0)) (e + k).natAbs 0 false := by
    rw [fLog2, hx]
    simp only [if_neg (Nat.two_pow_pos k).ne', Nat.log2_two_pow, if_true, Bool.false_eq_true, if_false]
  rw [value]
  refine ⟨fun zero => if_pos zero, fun nonzero => ?_⟩
  rw [if_neg nonzero]
  exact roundTo_rounds sound_fmt32 (Int.natAbs_ne_zero.2 nonzero)

section
variable {md : Mode} {x m : Nat} {n : Bool} {e : Int} (hx : fmt32.operand md x = .fin n m e) (hm : m ≠ 0)

theorem isInteger_of_pos (he : 0 ≤ e) : isInteger m e = true := by simp [isInteger, he]

theorem isInteger_iff (he : e ≤ 0) : isInteger m e = true ↔ 2 ^ (-e).toNat ∣ m := by
  rw [isInteger, Bool.or_eq_true, decide_eq_true_eq, beq_iff_eq, Nat.dvd_iff_mod_eq_zero]
  refine or_iff_right_of_imp fun pos => ?_
  rw [show (-e).toNat = 0 by omega, pow_zero, Nat.mod_one]

include hx

theorem fSinPi_integer (whole : isInteger m e = true) : fSinPi md x = (fmt32.enc n 0, 0) := by
  rw [fSinPi, hx]
  exact if_pos (.inr whole)

include hm

theorem fCosPi_integer (whole : isInteger m e = true) : fCosPi md x =
    (fmt32.enc (if 0 < e then false else m / 2 ^ (-e).toNat % 2 == 1) 0x3F800000, 0) := by
  rw [fCosPi, hx]
  simp only [if_neg hm, whole, if_true]

theorem fSinPi_half (notWhole : isInteger m e = false) (half : isInteger m (e + 1) = true) : fSinPi md x =
    (fmt32.enc ((m * 2 ^ (e + 1).toNat / 2 ^ (-(e + 1)).toNat / 2 % 2 == 1) != n) 0x3F800000, 0) := by
  rw [fSinPi, hx]
  simp only [hm, notWhole, half, Bool.false_eq_true, or_self, if_false, if_true]

theorem fCosPi_half (notWhole : isInteger m e = false) (half : isInteger m (e + 1) = true) :
    fCosPi md x = (0, 0) := by
  rw [fCosPi, hx]
  simp only [hm, notWhole, half, Bool.false_eq_true, if_false, if_true]

/-- sin(πx) and cos(πx) at odd multiples of 1/2. -/
theorem sinPi_cosPi_odd (he : e < 0) {i : Nat} (odd : 2 * m = (2 * i + 1) * 2 ^ (-e).toNat) :
    fSinPi md x = (fmt32.enc ((i % 2 == 1) != n) 0x3F800000, 0) ∧ fCosPi md x = (0, 0) := by
  obtain ⟨k, hk⟩ : ∃ k : Nat, -e = k + 1 := ⟨(-e - 1).toNat, by omega⟩
  have exponent : (-e).toNat = k + 1 := by omega
  have value : m = (2 * i + 1) * 2 ^ k := by
    rw [exponent, Nat.pow_succ] at odd
    generalize 2 ^ k = q at odd ⊢
    nlinarith
  have notWhole : isInteger m e = false := by
    rw [Bool.eq_false_iff, Ne, isInteger_iff he.le, exponent, value, Nat.pow_succ']
    intro div
    have := Nat.dvd_of_mul_dvd_mul_right (Nat.two_pow_pos k) div
    omega
  have half : isInteger m (e + 1) = true := by
    rw [isInteger_iff (by omega), show (-(e + 1)).toNat = k by omega, value]
    exact Nat.dvd_mul_left _ _
  refine ⟨?_, fCosPi_half hx hm notWhole half⟩
  rw [fSinPi_half hx hm notWhole half, show (-(e + 1)).toNat = k by omega, show (e + 1).toNat = 0 by omega, pow_zero,
    mul_one, value, Nat.mul_div_cancel _ (Nat.two_pow_pos k), show (2 * i + 1) / 2 = i by omega]

end

/-! ### Special operands (the table of R101) -/

section
variable {md : Mode} {x : Nat}

theorem functions_nan {sg : Bool} (h : fmt32.operand md x = .nan sg) :
    ∀ f ∈ [fRcp, fRsq, fSqrt, fExp2, fLog2, fSinPi, fCosPi, fTanh], f md x = nanResult fmt32 sg := by
  intro f hf
  simp only [List.mem_cons, List.not_mem_nil, or_false] at hf
  obtain rfl | rfl | rfl | rfl | rfl | rfl | rfl | rfl := hf
  · rw [fRcp, fDiv_nan (.inr (by rw [h]; rfl)), operand_one, h]
    rfl
  · rw [fRsq, h]
  · rw [fSqrt, h]
  · rw [fExp2, h]
  · rw [fLog2, h]
  · rw [fSinPi, h]
  · rw [fCosPi, h]
  · rw [fTanh, h]

theorem functions_inf {n : Bool} (h : fmt32.operand md x = .inf n) :
    fRsq md x = (if n then nanResult fmt32 true else (0, 0)) ∧
    fSqrt md x = (if n then nanResult fmt32 true else (0x7F800000, 0)) ∧
    fExp2 md x = (if n then 0 else 0x7F800000, 0) ∧
    fLog2 md x = (if n then nanResult fmt32 true else (0x7F800000, 0)) ∧ fSinPi md x = nanResult fmt32 true ∧
    fCosPi md x = nanResult fmt32 true ∧ fTanh md x = (fmt32.enc n 0x3F800000, 0) := by
  rw [fRsq, fSqrt, fExp2, fLog2, fSinPi, fCosPi, fTanh, h]
  cases n <;> exact ⟨rfl, rfl, rfl, rfl, rfl, rfl, rfl⟩

theorem functions_zero {n : Bool} {e : Int} (h : fmt32.operand md x = .fin n 0 e) :
    fRsq md x = (fmt32.enc n 0x7F800000, flagDZ) ∧ fSqrt md x = (fmt32.enc n 0, 0) ∧
    fExp2 md x = (0x3F800000, 0) ∧ fLog2 md x = (0xFF800000, flagDZ) ∧ fSinPi md x = (fmt32.enc n 0, 0) ∧
    fCosPi md x = (0x3F800000, 0) ∧ fTanh md x = (fmt32.enc n 0, 0) := by
  rw [fRsq, fSqrt, fExp2, fLog2, fSinPi, fCosPi, fTanh, h]
  simp only [if_true, true_or, and_self]

theorem functions_negative {m : Nat} {e : Int} (h : fmt32.operand md x = .fin true m e) (hm : m ≠ 0) :
    fRsq md x = nanResult fmt32 true ∧ fSqrt md x = nanResult fmt32 true ∧ fLog2 md x = nanResult fmt32 true := by
  rw [fRsq, fSqrt, fLog2, h]
  simp only [if_neg hm, if_true, and_self]

end

/-! ### The words and their values -/

/-- Settles O5: each word is its lane form; special operands by the table of R101, quotients and roots with their
remainder, and the exact points. -/
theorem laneFunctionResults : Obligations.LaneFunctionResults := by
  unfold Obligations.LaneFunctionResults
  refine ⟨fun s d a b wa wb n => ?_, fun md x y n n' sg m m' e e' => ?_⟩
  · intro one
    have unary {i : Instr} {f : Mode → Nat → Nat × Flags}
        (hi : exec i s = s.finish (s.lane1 d a wa n 4 fun x => asW (f s.curMode x.toNat))) : one i f :=
      lane1_of hi fun x => rfl
    exact ⟨unary rfl, unary rfl, unary rfl, unary rfl, unary rfl, unary rfl, unary rfl, unary rfl,
      lane2_of rfl fun x y => rfl⟩
  · intro v w nan signed0
    refine ⟨rfl, functions_nan, fDiv_nan, fun hv => ?_, functions_zero, functions_negative, fDiv_fin_inf,
      fun hv hw => ⟨fun zero zero' => ?_, fun nonzero zero' => ?_, fun zero nonzero' => ?_, fDiv_rounds hv hw⟩,
      fun hv hm => ⟨fSqrt_rounds hv hm, fRsq_rounds hv hm⟩, fun i hi small hv => fExp2_integer hi small hv, fLog2_power,
      fun hv hm => ⟨fun pos => ?_, fun low i hi => ?_, fun low i odd => sinPi_cosPi_odd hv hm low odd⟩⟩
    · obtain ⟨rsq, sqrt, exp2, log2, sinPi, cosPi, tanh⟩ := functions_inf hv
      exact ⟨rsq, sqrt, exp2, log2, sinPi, cosPi, tanh, fDiv_inf_inf hv, fDiv_inf_fin hv⟩
    · exact (fDiv_fin hv hw).trans (by rw [if_pos zero', if_pos zero]; rfl)
    · exact (fDiv_fin hv hw).trans (by rw [if_pos zero', if_neg nonzero]; rfl)
    · exact (fDiv_fin hv hw).trans (by rw [if_neg nonzero', if_pos zero]; rfl)
    · have whole := isInteger_of_pos (m := m) pos.le
      exact ⟨fSinPi_integer hv whole, (fCosPi_integer hv hm whole).trans (by rw [if_pos pos]; rfl)⟩
    · have whole := (isInteger_iff low).2 ⟨i, hi.trans (Nat.mul_comm _ _)⟩
      refine ⟨fSinPi_integer hv whole, (fCosPi_integer hv hm whole).trans ?_⟩
      rw [if_neg (not_lt.2 low), hi, Nat.mul_div_cancel _ (Nat.two_pow_pos _)]
      rfl

end Sys2Proof.Machine
end

section
/-! SUPPORT. Fixed point with 400 fraction bits as real numbers, and the error of each operation in units of its last
place (R101). -/

namespace Sys2Proof.Machine

/-! ### Values in fixed point -/

/-- One unit of the last place, 2^-400. -/
noncomputable def ulp : ℝ := (1 / 2) ^ fixP

/-- The value of a fixed-point number. -/
noncomputable def fixVal (x : Nat) : ℝ := x * ulp

theorem ulp_pos : 0 < ulp := by rw [ulp]; positivity

theorem fixOne_ulp : (fixOne : ℝ) * ulp = 1 := by
  rw [fixOne, ulp, Nat.cast_pow, ← mul_pow]
  norm_num

theorem half_pow_le_ulp {n : Nat} (h : 400 ≤ n) : (1 / 2 : ℝ) ^ n ≤ ulp :=
  pow_le_pow_of_le_one (by norm_num) (by norm_num) h

/-- A unit is far below what the bounds on the arguments of a series leave. -/
theorem ulp_le : ulp ≤ 1 / 2 ^ 60 := by
  have : (1 / 2 : ℝ) ^ fixP ≤ (1 / 2) ^ 60 := pow_le_pow_of_le_one (by norm_num) (by norm_num) (by decide)
  rw [ulp]
  linarith [show ((1 : ℝ) / 2) ^ 60 = 1 / 2 ^ 60 by norm_num]

theorem fixVal_nonneg (x : Nat) : 0 ≤ fixVal x := mul_nonneg (Nat.cast_nonneg x) ulp_pos.le

theorem fixVal_add (x y : Nat) : fixVal (x + y) = fixVal x + fixVal y := by
  rw [fixVal, Nat.cast_add, add_mul]
  rfl

theorem fixVal_mul (n x : Nat) : fixVal (n * x) = n * fixVal x := by
  rw [fixVal, Nat.cast_mul, mul_assoc]
  rfl

theorem fixVal_one : fixVal fixOne = 1 := fixOne_ulp

theorem fixVal_lt_one {x : Nat} (h : x < fixOne) : fixVal x < 1 := by
  rw [← fixVal_one]
  exact mul_lt_mul_of_pos_right (Nat.cast_lt.2 h) ulp_pos

/-! ### Errors of the operations -/

/-- A fixed-point number is a real number within k units of the last place. -/
def Approx (x : Nat) (a k : ℝ) : Prop := |fixVal x - a| ≤ k * ulp

theorem approx_self (x : Nat) : Approx x (fixVal x) 0 := by simp [Approx]

theorem Approx.mono {x : Nat} {a k l : ℝ} (h : Approx x a k) (le : k ≤ l) : Approx x a l :=
  h.trans (mul_le_mul_of_nonneg_right le ulp_pos.le)

theorem Approx.trans {x : Nat} {a b k l : ℝ} (h : Approx x a k) (near : |a - b| ≤ l * ulp) : Approx x b (k + l) := by
  rw [Approx, add_mul]
  exact (abs_sub_le _ a _).trans (add_le_add h near)

/-- A fixed-point number stays below a bound that leaves it more than 2^40 units. -/
theorem Approx.le {x : Nat} {a k b : ℝ} (h : Approx x a k) (hk : k ≤ 2 ^ 40) (ha : a + 1 / 2 ^ 20 ≤ b) :
    fixVal x ≤ b := by
  have bound := (abs_le.1 h).2
  have small : k * ulp ≤ 2 ^ 40 * (1 / 2 ^ 60) := mul_le_mul hk ulp_le ulp_pos.le (by positivity)
  norm_num at small ha ⊢
  linarith

theorem Approx.add {x y : Nat} {a b k l : ℝ} (hx : Approx x a k) (hy : Approx y b l) :
    Approx (x + y) (a + b) (k + l) := by
  rw [Approx, fixVal_add, add_mul, add_sub_add_comm]
  exact (abs_add_le _ _).trans (add_le_add hx hy)

theorem Approx.smul {x : Nat} {a k : ℝ} (n : Nat) (hx : Approx x a k) : Approx (n * x) (n * a) (n * k) := by
  rw [Approx, fixVal_mul, ← mul_sub, abs_mul, Nat.abs_cast, mul_assoc]
  exact mul_le_mul_of_nonneg_left hx (Nat.cast_nonneg n)

/-- A difference that is cut off at zero is no farther from a number that is not negative. -/
theorem approx_sub_of {x y : Nat} {c k : ℝ} (h : |fixVal x - fixVal y - c| ≤ k * ulp) (hc : 0 ≤ c) :
    Approx (x - y) c k := by
  rw [Approx]
  obtain le | lt := le_total y x
  · rwa [fixVal, Nat.cast_sub le, sub_mul]
  · have order : fixVal x ≤ fixVal y := mul_le_mul_of_nonneg_right (Nat.cast_le.2 lt) ulp_pos.le
    rw [Nat.sub_eq_zero_of_le lt, fixVal, Nat.cast_zero, zero_mul]
    rw [abs_le] at h ⊢
    constructor <;> linarith [h.1, h.2]

theorem Approx.sub {x y : Nat} {a b k l : ℝ} (hx : Approx x a k) (hy : Approx y b l) (hab : b ≤ a) :
    Approx (x - y) (a - b) (k + l) := by
  refine approx_sub_of ?_ (sub_nonneg.2 hab)
  rw [add_mul, show fixVal x - fixVal y - (a - b) = (fixVal x - a) - (fixVal y - b) by ring]
  exact (abs_sub _ _).trans (add_le_add hx hy)

/-- Cutting a quotient off costs less than a unit. -/
theorem div_floor (a : Nat) {b : Nat} (hb : 0 < b) : |((a / b : Nat) : ℝ) - a / b| ≤ 1 := by
  have pos : (0 : ℝ) < b := Nat.cast_pos.2 hb
  have below : ((a / b : Nat) : ℝ) ≤ a / b := Nat.cast_div_le
  have above : (a : ℝ) / b < (a / b : Nat) + 1 := by
    rw [div_lt_iff₀ pos]
    exact_mod_cast Nat.lt_mul_of_div_lt (Nat.lt_succ_self _) hb
  rw [abs_le]
  constructor <;> linarith

theorem fixVal_div (x : Nat) {n : Nat} (hn : 0 < n) : |fixVal (x / n) - fixVal x / n| ≤ ulp := by
  have split : fixVal (x / n) - fixVal x / n = (((x / n : Nat) : ℝ) - x / n) * ulp := by
    rw [fixVal, fixVal]
    ring
  rw [split, abs_mul, abs_of_pos ulp_pos]
  exact mul_le_of_le_one_left ulp_pos.le (div_floor x hn)

theorem Approx.div {x : Nat} {a k c : ℝ} (hx : Approx x a k) {n : Nat} (hc : 0 < c) (hn : c ≤ n) :
    Approx (x / n) (a / n) (k / c + 1) := by
  have posR : (0 : ℝ) < n := hc.trans_le hn
  have near : |fixVal x / n - a / n| ≤ k / c * ulp := by
    rw [← sub_div, abs_div, abs_of_pos posR, div_mul_eq_mul_div]
    exact div_le_div₀ ((abs_nonneg _).trans hx) hx hc hn
  rw [Approx, add_mul, one_mul, add_comm]
  exact (abs_sub_le _ (fixVal x / n) _).trans (add_le_add (fixVal_div x (Nat.cast_pos.1 posR)) near)

theorem approx_ratio (a : Nat) {b : Nat} (hb : 0 < b) : Approx (a * fixOne / b) (a / b : ℝ) 1 := by
  have value : fixVal (a * fixOne) / b = a / b := by rw [fixVal_mul, fixVal_one, mul_one]
  rw [Approx, one_mul, ← value]
  exact fixVal_div _ hb

/-- The product of two fixed-point numbers. -/
theorem Approx.mul {x y : Nat} {a b k l A B : ℝ} (hx : Approx x a k) (hy : Approx y b l) (hA : |a| ≤ A)
    (hB : fixVal y ≤ B) : Approx (x * y / fixOne) (a * b) (k * B + A * l + 1) := by
  have exact_ : fixVal (x * y) / fixOne = fixVal x * fixVal y := by
    have one := fixOne_ulp
    have ne : (fixOne : ℝ) ≠ 0 := Nat.cast_ne_zero.2 fixOne_pos.ne'
    rw [div_eq_iff ne, fixVal_mul]
    calc (x : ℝ) * fixVal y = x * (fixOne * ulp) * fixVal y := by rw [one, mul_one]
      _ = fixVal x * fixVal y * fixOne := by simp only [fixVal]; ring
  have cut := fixVal_div (x * y) fixOne_pos
  rw [exact_] at cut
  have split : fixVal x * fixVal y - a * b = (fixVal x - a) * fixVal y + a * (fixVal y - b) := by ring
  have first : |(fixVal x - a) * fixVal y| ≤ k * ulp * B := by
    rw [abs_mul, abs_of_nonneg (fixVal_nonneg y)]
    exact mul_le_mul hx hB (fixVal_nonneg y) ((abs_nonneg _).trans hx)
  have second : |a * (fixVal y - b)| ≤ A * (l * ulp) := by
    rw [abs_mul]
    exact mul_le_mul hA hy (abs_nonneg _) ((abs_nonneg a).trans hA)
  have near : |fixVal x * fixVal y - a * b| ≤ k * ulp * B + A * (l * ulp) := by
    rw [split]
    exact (abs_add_le _ _).trans (add_le_add first second)
  calc |fixVal (x * y / fixOne) - a * b| ≤ ulp + (k * ulp * B + A * (l * ulp)) :=
        (abs_sub_le _ (fixVal x * fixVal y) _).trans (add_le_add cut near)
    _ = (k * B + A * l + 1) * ulp := by ring

/-! ### Partial sums -/

theorem sum_from_succ (F : Nat → ℝ) (k n : Nat) :
    ∑ j ∈ Finset.range (n + 1), F (k + j) = F k + ∑ j ∈ Finset.range n, F (k + 1 + j) := by
  rw [Finset.sum_range_succ', add_comm]
  simp only [Nat.add_zero, Nat.add_assoc, Nat.add_comm 1]

/-- What a series has beyond its first n terms, where these fall off as fast as the powers of 1/2. -/
theorem hasSum_tail {F : Nat → ℝ} {s c : ℝ} (h : HasSum F s) (n : Nat) (small : ∀ j, |F (n + j)| ≤ c * (1 / 2) ^ j) :
    |∑ j ∈ Finset.range n, F j - s| ≤ 2 * c := by
  have rest : HasSum (fun j => F (j + n)) (s - ∑ j ∈ Finset.range n, F j) := (hasSum_nat_add_iff' n).2 h
  have bound : HasSum (fun j : Nat => c * (1 / 2) ^ j) (c * 2) := hasSum_geometric_two.mul_left c
  rw [abs_sub_comm, mul_comm 2]
  exact rest.norm_le_of_bounded bound fun j => by rw [Real.norm_eq_abs, Nat.add_comm]; exact small j

end Sys2Proof.Machine
end

section
/-! SUPPORT. The four series of R101 in fixed point: their sums within a fixed number of units of log 2, π, and the
logarithm, the exponential and the sine of what they are given. -/

namespace Sys2Proof.Machine

open Real

/-! ### Logarithms -/

/-- A term of the series of the inverse hyperbolic tangent, and without its sign of that of the arc tangent. -/
noncomputable def oddTerm (x : ℝ) (k : Nat) : ℝ := x ^ (2 * k + 1) / (2 * k + 1)

theorem oddTerm_tail {x : ℝ} (hx : 0 ≤ x) {n w : Nat} (square : x ^ 2 ≤ (1 / 2) ^ w) (far : 400 ≤ w * n) (hw : 1 ≤ w)
    (j : Nat) : |oddTerm x (n + j)| ≤ ulp * (1 / 2) ^ j := by
  have nonneg : 0 ≤ oddTerm x (n + j) := by rw [oddTerm]; positivity
  have one : x ≤ 1 := by
    have : (1 / 2 : ℝ) ^ w ≤ 1 := pow_le_one₀ (by norm_num) (by norm_num)
    nlinarith
  rw [abs_of_nonneg nonneg]
  calc oddTerm x (n + j) ≤ x ^ (2 * (n + j) + 1) :=
        div_le_self (by positivity) (by linarith [(Nat.cast_nonneg (n + j) : (0 : ℝ) ≤ (n + j : Nat))])
    _ ≤ (x ^ 2) ^ (n + j) := by rw [pow_succ, pow_mul]; exact mul_le_of_le_one_right (by positivity) one
    _ ≤ ((1 / 2) ^ w) ^ (n + j) := pow_le_pow_left₀ (by positivity) square _
    _ = (1 / 2) ^ (w * n) * (1 / 2) ^ (w * j) := by rw [← pow_mul, ← pow_add, Nat.mul_add]
    _ ≤ ulp * (1 / 2) ^ j := mul_le_mul (half_pow_le_ulp far)
        (pow_le_pow_of_le_one (by norm_num) (by norm_num) (Nat.le_mul_of_pos_left j hw)) (by positivity) ulp_pos.le

/-- A term divided by its index, as both loops divide it. -/
theorem oddTerm_approx {x c : ℝ} {t k : Nat} (ht : Approx t (x ^ (2 * k + 1)) c) :
    Approx (t / (2 * k + 1)) (oddTerm x k) (c + 1) := by
  have term := ht.div (n := 2 * k + 1) (c := 1) one_pos (by push_cast; linarith [(Nat.cast_nonneg k : (0 : ℝ) ≤ k)])
  rw [oddTerm]
  push_cast at term
  exact term.mono (by rw [div_one])

section
variable {z : ℝ} (hz : 0 ≤ z) (small : z ≤ 1 / 3)
include hz small

theorem odd_pow_le (k : Nat) : z ^ (2 * k + 1) ≤ 1 / 3 :=
  (pow_le_of_le_one hz (by linarith) (by omega)).trans small

theorem atanhSum_approx (n : Nat) {t zz k : Nat} (ht : Approx t (z ^ (2 * k + 1)) 4) (hzz : Approx zz (z ^ 2) 3) :
    Approx (atanhSum n t zz k) (∑ j ∈ Finset.range n, oddTerm z (k + j)) (n * 5) := by
  induction n generalizing t k with
  | zero => simp [atanhSum, Approx, fixVal]
  | succ n ih =>
    have square : fixVal zz ≤ 1 / 4 := hzz.le (by norm_num) (by nlinarith)
    have next : Approx (t * zz / fixOne) (z ^ (2 * (k + 1) + 1)) 4 := by
      have power : z ^ (2 * (k + 1) + 1) = z ^ (2 * k + 1) * z ^ 2 := by rw [← pow_add]; ring
      have nonneg : |z ^ (2 * k + 1)| ≤ 1 / 3 := by
        rw [abs_of_nonneg (pow_nonneg hz _)]
        exact odd_pow_le hz small k
      rw [power]
      exact (ht.mul hzz nonneg square).mono (by norm_num)
    rw [atanhSum, sum_from_succ]
    exact ((oddTerm_approx ht).add (ih next)).mono (by push_cast; linarith)

theorem hasSum_oddTerm : HasSum (oddTerm z) ((log (1 + z) - log (1 - z)) / 2) := by
  have series := (hasSum_log_sub_log_of_abs_lt_one (x := z) (by rw [abs_of_nonneg hz]; linarith)).div_const 2
  have terms : (fun k : Nat => 2 * (1 / (2 * (k : ℝ) + 1)) * z ^ (2 * k + 1) / 2) = oddTerm z := by
    funext k
    rw [oddTerm]
    ring
  rwa [terms] at series

end

/-- ln(p/q) for q ≤ p ≤ 2q. -/
theorem lnRatio_approx {p q : Nat} (hq : 0 < q) (le : q ≤ p) (le_two : p ≤ 2 * q) :
    Approx (lnRatio p q) (log (p / q)) (2 ^ 11) := by
  have posQ : (0 : ℝ) < q := Nat.cast_pos.2 hq
  have leR : (q : ℝ) ≤ p := Nat.cast_le.2 le
  have le_twoR : (p : ℝ) ≤ 2 * q := by exact_mod_cast le_two
  have posSum : (0 : ℝ) < p + q := by linarith
  have hz : (0 : ℝ) ≤ (p - q) / (p + q) := div_nonneg (by linarith) posSum.le
  have small : ((p : ℝ) - q) / (p + q) ≤ 1 / 3 := by
    rw [div_le_div_iff₀ posSum (by norm_num)]
    linarith
  have log_eq : log (1 + (p - q) / (p + q)) - log (1 - (p - q) / (p + q)) = log ((p : ℝ) / q) := by
    have up : 1 + ((p : ℝ) - q) / (p + q) = 2 * p / (p + q) := by field_simp; ring
    have down : 1 - ((p : ℝ) - q) / (p + q) = 2 * q / (p + q) := by field_simp; ring
    have posP : (0 : ℝ) < p := posQ.trans_le leR
    rw [up, down, ← log_div (by positivity) (by positivity)]
    congr 1
    field_simp
  have first : Approx ((p - q) * fixOne / (p + q)) (((p : ℝ) - q) / (p + q)) 1 := by
    have := approx_ratio (p - q) (b := p + q) (by omega)
    rwa [Nat.cast_sub le, Nat.cast_add] at this
  have square : Approx ((p - q) * fixOne / (p + q) * ((p - q) * fixOne / (p + q)) / fixOne)
      ((((p : ℝ) - q) / (p + q)) ^ 2) 3 := by
    rw [sq]
    exact (first.mul first (A := 1) (B := 1) (by rw [abs_of_nonneg hz]; linarith)
      (first.le (by norm_num) (by norm_num at small ⊢; linarith))).mono (by norm_num)
  have sum := atanhSum_approx hz small 140 (k := 0) (by simpa using first.mono (by norm_num)) square
  simp only [Nat.zero_add] at sum
  have tail := hasSum_tail (hasSum_oddTerm hz small) 140 (oddTerm_tail hz (w := 3) (by nlinarith) (by norm_num) (by norm_num))
  have half := (sum.trans tail).smul 2
  rw [log_eq] at half
  rw [lnRatio]
  convert half.mono (l := 2 ^ 11) (by norm_num) using 1
  push_cast
  ring

theorem fixLn2_approx : Approx fixLn2 (log 2) (2 ^ 11) := by
  have ratio := lnRatio_approx (p := 2) (q := 1) one_pos (by norm_num) (by norm_num)
  rw [Nat.cast_ofNat, Nat.cast_one, div_one] at ratio
  exact ratio

/-! ### Powers of two -/

/-- A term of the exponential series. -/
noncomputable def expTerm (x : ℝ) (k : Nat) : ℝ := x ^ k / k.factorial

theorem expSum_approx {x : ℝ} (hx : 0 ≤ x) (small : x ≤ 7 / 10) (n : Nat) {term t k : Nat} {d : ℝ} (hd : d ≤ 2 ^ 30)
    (hterm : Approx term (expTerm x k) (4 * d + 8)) (ht : Approx t x d) :
    Approx (expSum n term t k) (∑ j ∈ Finset.range n, expTerm x (k + j)) (n * (4 * d + 8)) := by
  induction n generalizing term k with
  | zero => simp [expSum, Approx, fixVal]
  | succ n ih =>
    have bound : fixVal t ≤ 3 / 4 := ht.le (by linarith) (by norm_num; linarith)
    have nonneg : 0 ≤ expTerm x k := by rw [expTerm]; positivity
    have one : |expTerm x k| ≤ 1 := by
      rw [abs_of_nonneg nonneg, expTerm, div_le_one (by positivity)]
      exact (pow_le_one₀ hx (by linarith)).trans (by exact_mod_cast k.factorial_pos)
    have next : Approx (term * t / fixOne / (k + 1)) (expTerm x (k + 1)) (4 * d + 8) := by
      have value : expTerm x (k + 1) = expTerm x k * x / ((k + 1 : Nat) : ℝ) := by
        rw [expTerm, expTerm, Nat.factorial_succ]
        push_cast
        field_simp
        ring
      rw [value]
      refine ((hterm.mul ht one bound).div (c := 1) one_pos ?_).mono (by linarith)
      push_cast
      linarith [(Nat.cast_nonneg k : (0 : ℝ) ≤ k)]
    rw [expSum, sum_from_succ]
    exact (hterm.add (ih next)).mono (by push_cast; linarith)

theorem factorial_large (j : Nat) : (2 : ℝ) ^ (440 + 5 * j) ≤ ((100 + j).factorial : ℝ) := by
  have base : 2 ^ 120 ≤ Nat.factorial 36 := by decide
  have grow : Nat.factorial 36 * 37 ^ (64 + j) ≤ (100 + j).factorial := by
    have := Nat.factorial_mul_pow_le_factorial (m := 36) (n := 64 + j)
    rwa [show 36 + (64 + j) = 100 + j by omega] at this
  have nat : 2 ^ (440 + 5 * j) ≤ (100 + j).factorial := by
    calc 2 ^ (440 + 5 * j) = 2 ^ 120 * 2 ^ (5 * (64 + j)) := by rw [← Nat.pow_add]; congr 1; omega
      _ = 2 ^ 120 * 32 ^ (64 + j) := by rw [Nat.pow_mul]
      _ ≤ Nat.factorial 36 * 37 ^ (64 + j) := Nat.mul_le_mul base (Nat.pow_le_pow_left (by norm_num) _)
      _ ≤ (100 + j).factorial := grow
  exact_mod_cast nat

theorem expTerm_tail {x : ℝ} (hx : 0 ≤ x) (small : x ≤ 7 / 10) (j : Nat) :
    |expTerm x (100 + j)| ≤ ulp * (1 / 2) ^ j := by
  have nonneg : 0 ≤ expTerm x (100 + j) := by rw [expTerm]; positivity
  rw [abs_of_nonneg nonneg, expTerm]
  calc x ^ (100 + j) / ((100 + j).factorial : ℝ) ≤ 1 / 2 ^ (440 + 5 * j) :=
        div_le_div₀ one_pos.le (pow_le_one₀ hx (by linarith)) (by positivity) (factorial_large j)
    _ ≤ 1 / 2 ^ (400 + j) :=
        one_div_le_one_div_of_le (by positivity) (pow_le_pow_right₀ one_le_two (by omega))
    _ = (1 / 2) ^ 400 * (1 / 2) ^ j := by rw [← pow_add, one_div_pow]
    _ ≤ ulp * (1 / 2) ^ j := mul_le_mul_of_nonneg_right (half_pow_le_ulp le_rfl) (by positivity)

theorem hasSum_expTerm (x : ℝ) : HasSum (expTerm x) (exp x) := by
  have series := NormedSpace.expSeries_div_hasSum_exp x
  rwa [← exp_eq_exp_ℝ] at series

/-- 2^f for a fixed-point number f below 1. -/
theorem fixExp2_approx {f : Nat} (hf : f < fixOne) : Approx (fixExp2 f) ((2 : ℝ) ^ fixVal f) (2 ^ 20) := by
  have below := fixVal_lt_one hf
  have nonneg := fixVal_nonneg f
  have logPos : 0 < log 2 := log_pos one_lt_two
  have logSmall : log 2 ≤ 7 / 10 := by linarith [log_two_lt_d9]
  have hx : 0 ≤ fixVal f * log 2 := mul_nonneg nonneg logPos.le
  have small : fixVal f * log 2 ≤ 7 / 10 := (mul_le_of_le_one_left logPos.le below.le).trans logSmall
  have exponent : Approx (f * fixLn2 / fixOne) (fixVal f * log 2) (2 ^ 11 + 1) :=
    ((approx_self f).mul fixLn2_approx (A := 1) (B := 1) (by rw [abs_of_nonneg nonneg]; exact below.le)
      (fixLn2_approx.le (by norm_num) (by norm_num; linarith))).mono (by norm_num)
  have one : Approx fixOne (expTerm (fixVal f * log 2) 0) (4 * (2 ^ 11 + 1) + 8) := by
    rw [Approx, fixVal_one, expTerm, pow_zero, Nat.factorial_zero, Nat.cast_one, div_one, sub_self, abs_zero]
    exact mul_nonneg (by norm_num) ulp_pos.le
  have sum := expSum_approx hx small 100 (by norm_num) one exponent
  simp only [Nat.zero_add] at sum
  have tail := hasSum_tail (hasSum_expTerm (fixVal f * log 2)) 100 (expTerm_tail hx small)
  rw [rpow_def_of_pos two_pos, mul_comm (log 2)]
  exact (sum.trans tail).mono (by norm_num)

/-! ### Alternating series: π and sines -/

/-- The terms of even index and those of odd index of an alternating sum, each added up, approximate it together. -/
def ApproxDiff (r : Nat × Nat) (a k : ℝ) : Prop := |fixVal r.1 - fixVal r.2 - a| ≤ k * ulp

/-- One more term in front of an alternating sum changes the parts. -/
theorem ApproxDiff.cons {x : Nat} {a k : ℝ} (hx : Approx x a k) {r : Nat × Nat} {b l : ℝ} (hr : ApproxDiff r b l) :
    ApproxDiff (x + r.2, r.1) (a - b) (k + l) := by
  rw [ApproxDiff, add_mul, fixVal_add,
    show fixVal x + fixVal r.2 - fixVal r.1 - (a - b) = (fixVal x - a) - (fixVal r.1 - fixVal r.2 - b) by ring]
  exact (abs_sub _ _).trans (add_le_add hx hr)

/-- An alternating partial sum from term k on. -/
noncomputable def altSum (F : Nat → ℝ) (k n : Nat) : ℝ := ∑ j ∈ Finset.range n, (-1) ^ j * F (k + j)

theorem altSum_succ (F : Nat → ℝ) (k n : Nat) : altSum F k (n + 1) = F k - altSum F (k + 1) n := by
  rw [altSum, altSum, Finset.sum_range_succ', add_comm, sub_eq_add_neg, ← Finset.sum_neg_distrib]
  congr 1
  · simp
  · refine Finset.sum_congr rfl fun j _ => ?_
    rw [show k + (j + 1) = k + 1 + j by omega, pow_succ]
    ring

/-- The parts of an alternating series that is not negative, taken from each other. -/
theorem ApproxDiff.sub {r : Nat × Nat} {F : Nat → ℝ} {n : Nat} {k s : ℝ} (h : ApproxDiff r (altSum F 0 n) k)
    (series : HasSum (fun j => (-1) ^ j * F j) s) (small : ∀ j, |F (n + j)| ≤ ulp * (1 / 2) ^ j) (hs : 0 ≤ s) :
    Approx (r.1 - r.2) s (k + 2) := by
  have tail := hasSum_tail series n (c := ulp) fun j => by
    rw [abs_mul, abs_pow, abs_neg, abs_one, one_pow, one_mul]
    exact small j
  refine approx_sub_of ?_ hs
  simp only [altSum, Nat.zero_add] at h
  rw [add_mul]
  exact (abs_sub_le _ _ _).trans (add_le_add h tail)

section
variable {x : ℝ} {d : Nat} (hx : 0 ≤ x) (square : x ^ 2 = 1 / d) (hd : 16 ≤ d)
include square hd

theorem atanInv_approx (n : Nat) {t k : Nat} (ht : Approx t (x ^ (2 * k + 1)) 2) :
    ApproxDiff (atanInv n t d k) (altSum (oddTerm x) k n) (n * 3) := by
  induction n generalizing t k with
  | zero => simp [atanInv, ApproxDiff, altSum]
  | succ n ih =>
    have next : Approx (t / d) (x ^ (2 * (k + 1) + 1)) 2 := by
      have power : x ^ (2 * (k + 1) + 1) = x ^ (2 * k + 1) / d := by
        rw [show 2 * (k + 1) + 1 = 2 * k + 1 + 2 by ring, pow_add, square]
        ring
      rw [power]
      exact (ht.div (c := 16) (by norm_num) (by exact_mod_cast hd)).mono (by norm_num)
    rw [altSum_succ]
    have both := ApproxDiff.cons (oddTerm_approx ht) (ih next)
    rw [ApproxDiff] at both ⊢
    refine both.trans (mul_le_mul_of_nonneg_right ?_ ulp_pos.le)
    push_cast
    linarith

include hx

/-- arctan x for x with an integer square of its inverse. -/
theorem atanInv_arctan {n w t : Nat} (ht : Approx t x 1) (far : 400 ≤ w * n) (hd' : 2 ^ w ≤ d) (hw : 1 ≤ w) :
    Approx ((atanInv n t d 0).1 - (atanInv n t d 0).2) (arctan x) (n * 3 + 2) := by
  have one : ‖x‖ < 1 := by
    have : (1 : ℝ) / d ≤ 1 / 16 := one_div_le_one_div_of_le (by norm_num) (by exact_mod_cast hd)
    rw [norm_of_nonneg hx]
    nlinarith
  have small : x ^ 2 ≤ (1 / 2) ^ w := by
    rw [square, one_div_pow]
    exact one_div_le_one_div_of_le (by positivity) (by exact_mod_cast hd')
  have series := hasSum_arctan one
  have terms : (fun k : Nat => (-1 : ℝ) ^ k * x ^ (2 * k + 1) / (2 * k + 1 : Nat)) =
      fun k => (-1) ^ k * oddTerm x k := by
    funext k
    rw [oddTerm]
    push_cast
    ring
  rw [terms] at series
  exact (atanInv_approx square hd n (k := 0) (by simpa using ht.mono (by norm_num))).sub series
    (oddTerm_tail hx small far hw) (arctan_nonneg.2 hx)

end

theorem fixPi_approx : Approx fixPi π (2 ^ 14) := by
  have inverse (n : Nat) (hn : 1 ≤ n) : Approx (fixOne / n) ((n : ℝ)⁻¹) 1 := by
    have cut := fixVal_div fixOne hn
    rwa [Approx, one_mul, ← one_div, ← fixVal_one]
  have a := atanInv_arctan (x := (5 : ℝ)⁻¹) (d := 25) (n := 180) (w := 4) (by norm_num) (by norm_num) (by norm_num)
    (inverse 5 (by norm_num)) (by norm_num) (by norm_num) (by norm_num)
  have b := atanInv_arctan (x := (239 : ℝ)⁻¹) (d := 57121) (n := 60) (w := 15) (by norm_num) (by norm_num) (by norm_num)
    (inverse 239 (by norm_num)) (by norm_num) (by norm_num) (by norm_num)
  have machin := four_mul_arctan_inv_5_sub_arctan_inv_239
  have order : ((4 : Nat) : ℝ) * arctan (239 : ℝ)⁻¹ ≤ ((16 : Nat) : ℝ) * arctan (5 : ℝ)⁻¹ := by
    have : arctan (239 : ℝ)⁻¹ ≤ arctan (5 : ℝ)⁻¹ := arctan_mono (by norm_num)
    have : 0 ≤ arctan (5 : ℝ)⁻¹ := arctan_nonneg.2 (by norm_num)
    push_cast
    linarith
  have both := ((a.smul 16).sub (b.smul 4) order).mono (l := 2 ^ 14) (by norm_num)
  have value : ((16 : Nat) : ℝ) * arctan (5 : ℝ)⁻¹ - ((4 : Nat) : ℝ) * arctan (239 : ℝ)⁻¹ = π := by
    push_cast
    linarith
  rw [value] at both
  exact both

/-! ### Sines -/

/-- A term of the series of the sine, without its sign. -/
noncomputable def sinTerm (x : ℝ) (k : Nat) : ℝ := x ^ (2 * k + 1) / (2 * k + 1).factorial

section
variable {x : ℝ} (hx : 0 ≤ x) (small : x ≤ 8 / 5)
include hx small

theorem sinTerm_le (k : Nat) : |sinTerm x k| ≤ 8 := by
  have nonneg : 0 ≤ sinTerm x k := by rw [sinTerm]; positivity
  rw [abs_of_nonneg nonneg]
  calc sinTerm x k ≤ exp x := pow_div_factorial_le_exp x hx _
    _ ≤ exp 2 := exp_le_exp.2 (by linarith)
    _ = exp 1 * exp 1 := by rw [← exp_add]; norm_num
    _ ≤ 8 := by nlinarith [exp_one_lt_d9, exp_pos 1]

theorem sinSum_approx (n : Nat) {term tt k : Nat} {d : ℝ} (hd : d ≤ 2 ^ 30) (hd' : 0 ≤ d)
    (hterm : Approx term (sinTerm x k) (3 * d + 3)) (htt : Approx tt (x ^ 2) d) :
    ApproxDiff (sinSum n term tt k) (altSum (sinTerm x) k n) (n * (3 * d + 3)) := by
  induction n generalizing term k with
  | zero => simp [sinSum, ApproxDiff, altSum]
  | succ n ih =>
    have bound : fixVal tt ≤ 3 := htt.le (by linarith) (by norm_num; nlinarith)
    have next : Approx (term * tt / fixOne / ((2 * k + 2) * (2 * k + 3))) (sinTerm x (k + 1)) (3 * d + 3) := by
      have value : sinTerm x (k + 1) = sinTerm x k * x ^ 2 / (((2 * k + 2) * (2 * k + 3) : Nat) : ℝ) := by
        rw [sinTerm, sinTerm, show 2 * (k + 1) + 1 = 2 * k + 1 + 1 + 1 by ring, Nat.factorial_succ, Nat.factorial_succ]
        push_cast
        field_simp
        ring
      have six : (6 : ℝ) ≤ (((2 * k + 2) * (2 * k + 3) : Nat) : ℝ) := by exact_mod_cast (by nlinarith : 6 ≤ (2 * k + 2) * (2 * k + 3))
      rw [value]
      exact ((hterm.mul htt (sinTerm_le hx small k) bound).div (by norm_num) six).mono (by linarith)
    rw [altSum_succ]
    have both := ApproxDiff.cons hterm (ih next)
    rw [ApproxDiff] at both ⊢
    refine both.trans (mul_le_mul_of_nonneg_right ?_ ulp_pos.le)
    push_cast
    linarith

theorem sinTerm_tail (j : Nat) : |sinTerm x (60 + j)| ≤ ulp * (1 / 2) ^ j := by
  have nonneg : 0 ≤ sinTerm x (60 + j) := by rw [sinTerm]; positivity
  have fact := factorial_large (21 + 2 * j)
  rw [show 100 + (21 + 2 * j) = 2 * (60 + j) + 1 by ring] at fact
  rw [abs_of_nonneg nonneg, sinTerm]
  calc x ^ (2 * (60 + j) + 1) / ((2 * (60 + j) + 1).factorial : ℝ)
      ≤ 2 ^ (2 * (60 + j) + 1) / 2 ^ (440 + 5 * (21 + 2 * j)) :=
        div_le_div₀ (by positivity) (pow_le_pow_left₀ hx (by linarith) _) (by positivity) fact
    _ ≤ (1 / 2) ^ (400 + j) := by
        rw [one_div_pow, div_le_div_iff₀ (by positivity) (by positivity), ← pow_add, one_mul]
        exact pow_le_pow_right₀ one_le_two (by omega)
    _ = (1 / 2) ^ 400 * (1 / 2) ^ j := by rw [pow_add]
    _ ≤ ulp * (1 / 2) ^ j := mul_le_mul_of_nonneg_right (half_pow_le_ulp le_rfl) (by positivity)

end

theorem hasSum_sinTerm (x : ℝ) : HasSum (fun k => (-1) ^ k * sinTerm x k) (sin x) := by
  have series := hasSum_sin x
  have terms : (fun k : Nat => (-1 : ℝ) ^ k * x ^ (2 * k + 1) / (2 * k + 1).factorial) =
      fun k => (-1) ^ k * sinTerm x k := by
    funext k
    rw [sinTerm, mul_div_assoc]
  rwa [terms] at series

/-- sin(πr) for a fixed-point number r up to 1/2. -/
theorem fixSinPi_approx {r : Nat} (hr : fixVal r ≤ 1 / 2) : Approx (fixSinPi r) (sin (π * fixVal r)) (2 ^ 25) := by
  have nonneg := fixVal_nonneg r
  have pi := pi_lt_d2
  have pi_pos := pi_pos
  have hx : 0 ≤ π * fixVal r := by positivity
  have small : π * fixVal r ≤ 8 / 5 := by nlinarith
  have angle : Approx (r * fixPi / fixOne) (π * fixVal r) (2 ^ 14 + 1) := by
    rw [mul_comm π]
    exact ((approx_self r).mul fixPi_approx (A := 1) (B := 4) (by rw [abs_of_nonneg nonneg]; linarith)
      (fixPi_approx.le (by norm_num) (by norm_num; linarith))).mono (by norm_num)
  have square : Approx (r * fixPi / fixOne * (r * fixPi / fixOne) / fixOne) ((π * fixVal r) ^ 2) (2 ^ 17) := by
    rw [sq]
    exact (angle.mul angle (A := 2) (B := 2) (by rw [abs_of_nonneg hx]; linarith)
      (angle.le (by norm_num) (by norm_num; linarith))).mono (by norm_num)
  have first : Approx (r * fixPi / fixOne) (sinTerm (π * fixVal r) 0) (3 * 2 ^ 17 + 3) := by
    rw [sinTerm]
    simpa using angle.mono (by norm_num)
  have sum := sinSum_approx hx small 60 (by norm_num) (by norm_num) first square
  have sine := sum.sub (hasSum_sinTerm _) (sinTerm_tail hx small)
    (sin_nonneg_of_nonneg_of_le_pi hx (by nlinarith))
  exact sine.mono (by norm_num)

end Sys2Proof.Machine
end

section
/-! SUPPORT. From a fixed-point number to a result that is rounded once, and the real value of an operand (R81, R101). -/

namespace Sys2Proof.Machine

open Real

/-! ### Rounding what approximates -/

theorem scaled_ulp_le {k : ℝ} (hk : k ≤ 2 ^ 40) : k * ulp ≤ 1 / 2 ^ 160 * (2 : ℝ) ^ (-200 : Int) := by
  have split : ulp = (1 / 2) ^ 200 * (1 / 2) ^ 200 := by rw [← pow_add, ulp]; rfl
  have half : (2 : ℝ) ^ (-200 : Int) = (1 / 2) ^ 200 := by
    rw [zpow_neg, one_div_pow, one_div]
    rfl
  have pos : (0 : ℝ) < (1 / 2) ^ 200 := by positivity
  rw [split, half, ← mul_assoc]
  refine mul_le_mul_of_nonneg_right ?_ pos.le
  calc k * (1 / 2) ^ 200 ≤ 2 ^ 40 * (1 / 2) ^ 200 := mul_le_mul_of_nonneg_right hk pos.le
    _ = 1 / 2 ^ 160 := by norm_num

section
variable {md : Mode} {a v k : ℝ} (one : 1 ≤ k) (hk : k ≤ 2 ^ 40)
include one hk

/-- A fixed-point number, scaled by a power of two, rounds as a number near what it approximates. -/
theorem roundsNear_of_approx {neg : Bool} {x : Nat} {p i : Int} (h : Approx x a k) (size : 1 / 2 ^ 160 ≤ a)
    (hp : p + fixP = i) (value : |v| = a * (2 : ℝ) ^ i) (sign : neg = true ↔ v < 0) :
    RoundsNear fmt32 md v (roundTo fmt32 md neg x p true) := by
  have unit : (2 : ℝ) ^ p = ulp * (2 : ℝ) ^ i := by
    rw [← hp, zpow_add₀ two_ne_zero, zpow_natCast, ulp, one_div_pow]
    field_simp
  have tiny := scaled_ulp_le hk
  have small : k * ulp ≤ a * (2 : ℝ) ^ (-200 : Int) :=
    tiny.trans (mul_le_mul_of_nonneg_right size (by positivity))
  have large : 2 ^ 26 ≤ x := by
    have far : a * (2 : ℝ) ^ (-200 : Int) ≤ a * (1 / 2 ^ 31) := by
      refine mul_le_mul_of_nonneg_left ?_ (le_trans (by positivity) size)
      rw [zpow_neg, one_div]
      exact inv_anti₀ (by positivity) (by norm_num)
    have below := (abs_le.1 h).1
    have value : (2 ^ 26 : ℝ) * ulp ≤ x * ulp := by
      rw [fixVal] at below
      nlinarith [ulp_pos]
    exact_mod_cast le_of_mul_le_mul_right value ulp_pos
  refine ⟨neg, x, p, sign, large, ?_, roundTo_rounds sound_fmt32 (by omega)⟩
  rw [Near, value, unit, ← mul_assoc, ← sub_mul, abs_mul, abs_of_pos (a := (2 : ℝ) ^ i) (by positivity), mul_right_comm]
  exact mul_le_mul_of_nonneg_right (le_trans h small) (by positivity)

/-- An integer in units of 2^-400 rounds with its sign. -/
theorem roundsNear_of_int {y : Int} (near : |(y : ℝ) * ulp - v| ≤ k * ulp) (size : 1 / 2 ^ 160 ≤ |v|) :
    RoundsNear fmt32 md v (roundTo fmt32 md (decide (y < 0)) y.natAbs (-fixP) true) := by
  have value : fixVal y.natAbs = |(y : ℝ) * ulp| := by
    rw [fixVal, abs_mul, abs_of_pos ulp_pos, Nat.cast_natAbs, Int.cast_abs]
  have small : k * ulp < |v| := by
    have far : (2 : ℝ) ^ (-200 : Int) < 1 := by
      rw [zpow_neg]
      exact inv_lt_one_of_one_lt₀ (by norm_num)
    have := scaled_ulp_le hk
    nlinarith
  have sign : y < 0 ↔ v < 0 := by
    have cast : (y : ℝ) * ulp < 0 ↔ y < 0 := by
      rw [← not_le, mul_nonneg_iff_of_pos_right ulp_pos, not_le, Int.cast_lt_zero]
    rw [← cast]
    obtain ⟨lo, hi⟩ := abs_le.1 near
    constructor <;> intro neg
    · by_contra pos
      rw [abs_of_nonneg (not_lt.1 pos)] at small
      linarith
    · rw [abs_of_neg neg] at small
      linarith
  refine roundsNear_of_approx one hk (a := |v|) (i := 0) ?_ size (neg_add_cancel _) (by rw [zpow_zero, mul_one])
    (decide_eq_true_iff.trans sign)
  rw [Approx, value]
  exact (abs_abs_sub_abs_le _ _).trans near

end

/-! ### The real value of an operand -/

/-- The value m × 2^e of a magnitude. -/
noncomputable def magVal (m : Nat) (e : Int) : ℝ := m * (2 : ℝ) ^ e

theorem magVal_pos {m : Nat} {e : Int} (hm : m ≠ 0) : 0 < magVal m e :=
  mul_pos (Nat.cast_pos.2 (Nat.pos_of_ne_zero hm)) (by positivity)

theorem signed_cast (n : Bool) (m : Nat) : (signed n m : ℝ) = (if n then -1 else 1) * m := by
  cases n <;> simp [signed]

theorem abs_signed (n : Bool) (m : Nat) (e : Int) : |(signed n m : ℝ) * (2 : ℝ) ^ e| = magVal m e := by
  have pos : (0 : ℝ) < (2 : ℝ) ^ e := by positivity
  rw [abs_mul, abs_of_pos pos, signed_cast]
  cases n <;> simp [magVal]

theorem signed_neg_iff {n : Bool} {m : Nat} {e : Int} (hm : m ≠ 0) :
    n = true ↔ (signed n m : ℝ) * (2 : ℝ) ^ e < 0 := by
  have pos := magVal_pos (e := e) hm
  rw [magVal] at pos
  rw [signed_cast]
  cases n
  · simpa using pos.le
  · simpa using pos

/-- The leading bit of a magnitude. -/
theorem magVal_bounds {m : Nat} {e : Int} (hm : m ≠ 0) :
    (2 : ℝ) ^ (e + Nat.log2 m) ≤ magVal m e ∧ magVal m e < (2 : ℝ) ^ (e + Nat.log2 m + 1) := by
  have lo : (2 : ℝ) ^ (Nat.log2 m : Int) ≤ m := by exact_mod_cast Nat.log2_self_le hm
  have hi : (m : ℝ) < (2 : ℝ) ^ (Nat.log2 m + 1 : Int) := by
    exact_mod_cast (Nat.lt_log2_self : m < 2 ^ (Nat.log2 m + 1))
  have pos : (0 : ℝ) < (2 : ℝ) ^ e := by positivity
  rw [magVal, add_assoc, zpow_add₀ two_ne_zero, zpow_add₀ two_ne_zero e, mul_comm (m : ℝ)]
  exact ⟨mul_le_mul_of_nonneg_left lo pos.le, mul_lt_mul_of_pos_left hi pos⟩

theorem magVal_lt_iff {m : Nat} {e k : Int} (hm : m ≠ 0) : magVal m e < (2 : ℝ) ^ k ↔ e + Nat.log2 m < k := by
  obtain ⟨lo, hi⟩ := magVal_bounds (e := e) hm
  constructor
  · intro below
    exact (zpow_lt_zpow_iff_right₀ one_lt_two).1 (lo.trans_lt below)
  · intro below
    exact hi.trans_le (zpow_le_zpow_right₀ one_le_two below)

/-- Every FP32 operand is exact in fixed point. -/
theorem fixVal_toFix (m : Nat) {e : Int} (low : -149 ≤ e) : fixVal (toFix m e) = magVal m e := by
  have bits : fixP = 400 := rfl
  have unit : (2 : ℝ) ^ (e + fixP).toNat * ulp = (2 : ℝ) ^ e := by
    rw [← zpow_natCast, Int.toNat_of_nonneg (by omega), zpow_add₀ two_ne_zero, zpow_natCast, ulp, one_div_pow]
    field_simp
  rw [toFix_eq m low, fixVal, magVal, Nat.cast_mul, Nat.cast_pow, Nat.cast_ofNat, mul_assoc, unit]

theorem signed_toFix (n : Bool) (m : Nat) {e : Int} (low : -149 ≤ e) :
    (signed n (toFix m e) : ℝ) * ulp = (signed n m : ℝ) * (2 : ℝ) ^ e := by
  have value := fixVal_toFix m low
  rw [fixVal, magVal] at value
  rw [signed_cast, signed_cast, mul_assoc, value, mul_assoc]

/-- A whole number of units of 1, as a real number. -/
theorem isInteger_magVal {m : Nat} {e : Int} (h : isInteger m e = true) : ∃ i : Nat, magVal m e = i := by
  obtain pos | neg := le_total 0 e
  · refine ⟨m * 2 ^ e.toNat, ?_⟩
    rw [magVal, Nat.cast_mul, Nat.cast_pow, Nat.cast_ofNat, ← zpow_natCast, Int.toNat_of_nonneg pos]
  · obtain ⟨i, rfl⟩ := (isInteger_iff neg).1 h
    refine ⟨i, ?_⟩
    rw [magVal, Nat.cast_mul, Nat.cast_pow, Nat.cast_ofNat, ← zpow_natCast, Int.toNat_of_nonneg (by omega),
      mul_right_comm, ← zpow_add₀ two_ne_zero, neg_add_cancel, zpow_zero, one_mul]

/-- Whole and fractional part of an integer in units of 2^-400. -/
theorem int_split (x : Int) :
    (x : ℝ) * ulp = (x / (fixOne : Int) : Int) + fixVal (x % (fixOne : Int)).toNat ∧
      (x % (fixOne : Int)).toNat < fixOne := by
  have pos : (0 : Int) < fixOne := Int.natCast_pos.2 fixOne_pos
  have nonneg := Int.emod_nonneg x pos.ne'
  have below := Int.emod_lt_of_pos x pos
  refine ⟨?_, by omega⟩
  have parts : (x : ℝ) = (x / (fixOne : Int) : Int) * fixOne + ((x % (fixOne : Int)).toNat : ℝ) := by
    have cast : (((x % (fixOne : Int)).toNat : Int) : ℝ) = ((x % (fixOne : Int) : Int) : ℝ) := by
      rw [Int.toNat_of_nonneg nonneg]
    rw [Int.cast_natCast] at cast
    rw [cast]
    exact_mod_cast (Int.ediv_mul_add_emod x fixOne).symm
  calc (x : ℝ) * ulp = (x / (fixOne : Int) : Int) * (fixOne * ulp) + ((x % (fixOne : Int)).toNat : ℝ) * ulp := by
        rw [parts]
        ring
    _ = _ := by rw [fixOne_ulp, mul_one, fixVal]

end Sys2Proof.Machine
end

section
/-! SUPPORT. 2^x, log2 x, sin(πx) and cos(πx) at operands with an inexact result (R101). -/

namespace Sys2Proof.Machine

open Real

/-! ### 2^x -/

section
variable {md : Mode} {x m : Nat} {n : Bool} {e : Int} (hx : fmt32.operand md x = .fin n m e) (hm : m ≠ 0)
include hx hm

theorem fExp2_near (small : magVal m e < 512) (frac : ∀ i : Int, (signed n m : ℝ) * (2 : ℝ) ^ e ≠ i) :
    RoundsNear fmt32 md ((2 : ℝ) ^ ((signed n m : ℝ) * (2 : ℝ) ^ e)) (fExp2 md x) := by
  obtain ⟨low, -, -⟩ := operand_range hx
  have exponent : e + Nat.log2 m < 9 := (magVal_lt_iff hm).1 (small.trans_eq (by norm_num))
  obtain ⟨parts, below⟩ := int_split (signed n (toFix m e))
  rw [signed_toFix n m low] at parts
  rw [fExp2, hx]
  simp only [if_neg hm, if_neg (show ¬9 ≤ e + (Nat.log2 m : Int) by omega)]
  generalize signed n (toFix m e) / (fixOne : Int) = i at parts ⊢
  generalize (signed n (toFix m e) % (fixOne : Int)).toNat = f at parts below ⊢
  have nonzero : f ≠ 0 := by
    rintro rfl
    exact frac i (by rw [parts, fixVal, Nat.cast_zero, zero_mul, add_zero])
  have pos : (0 : ℝ) < (2 : ℝ) ^ ((signed n m : ℝ) * (2 : ℝ) ^ e) := by positivity
  rw [if_neg nonzero]
  refine roundsNear_of_approx (by norm_num) (by norm_num) (fixExp2_approx below) ?_ (sub_add_cancel i _) ?_
    (iff_of_false Bool.false_ne_true pos.le.not_gt)
  · exact le_trans (b := (1 : ℝ)) (by norm_num) (one_le_rpow one_le_two (fixVal_nonneg f))
  · rw [abs_of_pos pos, parts, rpow_add two_pos, rpow_intCast, mul_comm]

theorem fExp2_large (large : 512 ≤ magVal m e) : fExp2 md x =
    if n then roundTo fmt32 md false 1 (-600) true else roundTo fmt32 md false 1 600 false := by
  have exponent : ¬e + Nat.log2 m < 9 := fun below => by
    have := (magVal_lt_iff hm).2 below
    norm_num at this
    linarith
  rw [fExp2, hx]
  simp only [if_neg hm, if_pos (not_lt.1 exponent)]

end

/-! ### Quotients in fixed point -/

theorem Approx.ratio {x y : Nat} {a b k l A c : ℝ} (hx : Approx x a k) (hy : Approx y b l) (hb : b ≠ 0)
    (hA : |a / b| ≤ A) (hc : 0 < c) (low : c ≤ fixVal y) : Approx (x * fixOne / y) (a / b) ((k + A * l) / c + 1) := by
  have posY : 0 < fixVal y := hc.trans_le low
  have natPos : 0 < y := by
    rw [fixVal, mul_pos_iff_of_pos_right ulp_pos] at posY
    exact Nat.cast_pos.1 posY
  have cut := fixVal_div (x * fixOne) natPos
  have value : fixVal (x * fixOne) / y = fixVal x / fixVal y := by
    rw [fixVal_mul, fixVal_one, mul_one, fixVal, fixVal, mul_div_mul_right _ _ ulp_pos.ne']
  have split : fixVal x / fixVal y - a / b = ((fixVal x - a) - a / b * (fixVal y - b)) / fixVal y := by
    field_simp
    ring
  have near : |fixVal x / fixVal y - a / b| ≤ (k + A * l) / c * ulp := by
    rw [split, abs_div, abs_of_pos posY, div_mul_eq_mul_div (k + A * l), add_mul, mul_assoc]
    refine div_le_div₀ ?_ ?_ hc low
    · have nonneg := (abs_nonneg _).trans hA
      exact add_nonneg ((abs_nonneg _).trans hx) (mul_nonneg nonneg ((abs_nonneg _).trans hy))
    · refine (abs_sub _ _).trans (add_le_add hx ?_)
      rw [abs_mul]
      exact mul_le_mul hA hy (abs_nonneg _) ((abs_nonneg _).trans hA)
  rw [value] at cut
  rw [Approx, add_mul, one_mul, add_comm]
  exact (abs_sub_le _ _ _).trans (add_le_add cut near)

/-- log2 x and tanh x both divide by ln 2. -/
theorem half_le_fixLn2 : 1 / 2 ≤ fixVal fixLn2 := by
  have near := (abs_le.1 fixLn2_approx).1
  have unit := ulp_le
  norm_num at unit
  linarith [log_two_gt_d9]

/-! ### Logarithms -/

/-- The logarithm of a ratio that is not 1 is not near 0. -/
theorem inv_le_log_ratio {p q : Nat} (hp : 0 < p) (lt : p < q) : 1 / (q : ℝ) ≤ log (q / p) := by
  have posP : (0 : ℝ) < p := Nat.cast_pos.2 hp
  have posQ : (0 : ℝ) < q := Nat.cast_pos.2 (hp.trans lt)
  have succ : (p : ℝ) + 1 ≤ q := by exact_mod_cast lt
  have bound := one_sub_inv_le_log_of_pos (div_pos posQ posP)
  refine le_trans ?_ bound
  rw [inv_div, div_le_iff₀ posQ, sub_mul, div_mul_cancel₀ _ posQ.ne', one_mul]
  linarith

theorem abs_log_ratio {p q b : Nat} (hp : 0 < p) (hq : 0 < q) (ne : p ≠ q) (hpb : p ≤ b) (hqb : q ≤ b) :
    1 / (b : ℝ) ≤ |log (p / q)| := by
  obtain lt | lt := lt_or_gt_of_ne ne
  · have low := inv_le_log_ratio hp lt
    rw [← inv_div (q : ℝ), log_inv, abs_neg]
    refine le_trans (one_div_le_one_div_of_le (Nat.cast_pos.2 hq) (Nat.cast_le.2 hqb)) (low.trans (le_abs_self _))
  · have low := inv_le_log_ratio hq lt
    exact le_trans (one_div_le_one_div_of_le (Nat.cast_pos.2 hp) (Nat.cast_le.2 hpb)) (low.trans (le_abs_self _))

section
variable {m : Nat} {e : Int} (hm : m ≠ 0) (lo : -149 ≤ e) (hi : e ≤ 104)
include hm lo hi

/-- The logarithm of a value of FP32 other than 1 is not near 0. -/
theorem abs_log_magVal (small : m < 2 ^ 25) (ne : magVal m e ≠ 1) : 1 / 2 ^ 150 ≤ |log (magVal m e)| := by
  have value : magVal m e = ((m * 2 ^ e.toNat : Nat) : ℝ) / ((2 ^ (-e).toNat : Nat) : ℝ) := by
    have split : e = (e.toNat : Int) - ((-e).toNat : Int) := by omega
    rw [magVal]
    conv_lhs => rw [split]
    rw [zpow_sub₀ two_ne_zero, zpow_natCast, zpow_natCast]
    push_cast
    ring
  have differ : m * 2 ^ e.toNat ≠ 2 ^ (-e).toNat := fun same => ne <| by
    rw [value, same, div_self]
    positivity
  have top : m * 2 ^ e.toNat ≤ 2 ^ 150 := by
    calc m * 2 ^ e.toNat ≤ 2 ^ 25 * 2 ^ 104 := Nat.mul_le_mul small.le (Nat.pow_le_pow_right two_pos (by omega))
      _ ≤ 2 ^ 150 := by norm_num
  have bound := abs_log_ratio (b := 2 ^ 150) (Nat.mul_pos (Nat.pos_of_ne_zero hm) (Nat.two_pow_pos _))
    (Nat.two_pow_pos (-e).toNat) differ top (Nat.pow_le_pow_right two_pos (by omega))
  rw [value]
  exact_mod_cast bound

omit lo hi in
/-- A value is a power of two times a number from 1 to 2. -/
theorem log_magVal : log (magVal m e) = (e + Nat.log2 m : Int) * log 2 + log (m / (2 ^ Nat.log2 m : Nat)) := by
  have pos : (0 : ℝ) < m := Nat.cast_pos.2 (Nat.pos_of_ne_zero hm)
  rw [magVal, log_mul pos.ne' (by positivity), log_div pos.ne' (by positivity), log_zpow, Nat.cast_pow, log_pow]
  push_cast
  ring

omit lo hi in
theorem lnRatio_log2 : Approx (lnRatio m (2 ^ Nat.log2 m)) (log (m / (2 ^ Nat.log2 m : Nat))) (2 ^ 11) :=
  lnRatio_approx (Nat.two_pow_pos _) (Nat.log2_self_le hm) (by rw [← Nat.pow_succ']; exact Nat.lt_log2_self.le)

theorem fixLn_approx (small : m < 2 ^ 25) : |(fixLn m e : ℝ) * ulp - log (magVal m e)| ≤ 2 ^ 20 * ulp := by
  have top : Nat.log2 m < 25 := (Nat.log2_lt hm).2 small
  have ratio := lnRatio_log2 hm
  have two := fixLn2_approx
  rw [Approx, fixVal] at ratio two
  have count : |((e + Nat.log2 m : Int) : ℝ)| ≤ 149 := by
    rw [← Int.cast_abs]
    exact_mod_cast abs_le.2 ⟨by omega, by omega⟩
  have whole : |((e + Nat.log2 m : Int) : ℝ) * (fixLn2 * ulp - log 2)| ≤ 149 * (2 ^ 11 * ulp) := by
    rw [abs_mul]
    exact mul_le_mul count two (abs_nonneg _) (by norm_num)
  have split : (fixLn m e : ℝ) * ulp - log (magVal m e) = ((e + Nat.log2 m : Int) : ℝ) * (fixLn2 * ulp - log 2) +
      (lnRatio m (2 ^ Nat.log2 m) * ulp - log (m / (2 ^ Nat.log2 m : Nat))) := by
    rw [log_magVal hm, fixLn]
    push_cast
    ring
  rw [split]
  exact (abs_add_le _ _).trans (by linarith [add_le_add whole ratio, ulp_pos])

end

theorem fLog2_near {md : Mode} {x m : Nat} {e : Int} (hx : fmt32.operand md x = .fin false m e) (hm : m ≠ 0)
    (ne : ∀ i : Int, magVal m e ≠ (2 : ℝ) ^ i) : RoundsNear fmt32 md (logb 2 (magVal m e)) (fLog2 md x) := by
  obtain ⟨lo, hi, small⟩ := operand_range hx
  have notPower : m ≠ 2 ^ Nat.log2 m := fun power => ne (Nat.log2 m + e) <| by
    rw [magVal, zpow_add₀ two_ne_zero, zpow_natCast]
    congr 1
    exact_mod_cast power
  have logPos : 0 < log 2 := log_pos one_lt_two
  have logHigh := log_two_lt_d9
  have ratio := lnRatio_log2 hm
  have ratioNonneg : 0 ≤ log ((m : ℝ) / (2 ^ Nat.log2 m : Nat)) := by
    refine log_nonneg ((one_le_div (by positivity)).2 ?_)
    exact_mod_cast Nat.log2_self_le hm
  have ratioLe : log ((m : ℝ) / (2 ^ Nat.log2 m : Nat)) ≤ log 2 := by
    refine log_le_log (div_pos (Nat.cast_pos.2 (Nat.pos_of_ne_zero hm)) (by positivity)) ?_
    rw [div_le_iff₀ (by positivity)]
    exact_mod_cast (by rw [← Nat.pow_succ']; exact Nat.lt_log2_self.le : m ≤ 2 * 2 ^ Nat.log2 m)
  have quotient := (ratio.ratio fixLn2_approx logPos.ne' (A := 1)
    (by rw [abs_of_nonneg (div_nonneg ratioNonneg logPos.le), div_le_one logPos]; exact ratioLe)
    (by norm_num) half_le_fixLn2).mono (l := 2 ^ 14) (by norm_num)
  have size : 1 / 2 ^ 160 ≤ |logb 2 (magVal m e)| := by
    have bound := abs_log_magVal hm lo hi (small.trans (by norm_num)) (by simpa using ne 0)
    rw [logb, abs_div, abs_of_pos logPos, le_div_iff₀ logPos]
    refine le_trans ?_ bound
    norm_num
    linarith
  rw [fLog2, hx]
  simp only [if_neg hm, Bool.false_eq_true, if_false, if_neg notPower]
  refine roundsNear_of_int (k := 2 ^ 14) (by norm_num) (by norm_num) ?_ size
  have value : logb 2 (magVal m e) = (e + Nat.log2 m : Int) + log (m / (2 ^ Nat.log2 m : Nat)) / log 2 := by
    rw [logb, log_magVal hm, add_div, mul_div_cancel_right₀ _ logPos.ne']
  have cast (i : Int) (q : Nat) : ((i * (fixOne : Int) + (q : Int) : Int) : ℝ) * ulp = i + fixVal q := by
    push_cast
    rw [add_mul, mul_assoc, fixOne_ulp, mul_one, fixVal]
  rw [value, cast, add_sub_add_left_eq_sub]
  exact quotient

end Sys2Proof.Machine
end

section
/-! SUPPORT. sin(πx) and cos(πx) at operands that are no multiples of 1/2 (R101). -/

namespace Sys2Proof.Machine

open Real

theorem fixOne_half : 2 * (fixOne / 2) = fixOne :=
  Nat.mul_div_cancel' (dvd_pow_self 2 (by decide))

theorem fixVal_half : fixVal (fixOne / 2) = 1 / 2 := by
  have double := fixVal_mul 2 (fixOne / 2)
  rw [fixOne_half, fixVal_one, Nat.cast_ofNat] at double
  linarith

theorem fixVal_sub {x y : Nat} (h : y ≤ x) : fixVal (x - y) = fixVal x - fixVal y := by
  rw [fixVal, Nat.cast_sub h, sub_mul]
  rfl

/-- The last bits of every FP32 operand are zero in fixed point. -/
theorem coarse_toFix (n : Bool) (m : Nat) {e : Int} (low : -149 ≤ e) :
    ((2 ^ 251 : Nat) : Int) ∣ signed n (toFix m e) := by
  have bits : fixP = 400 := rfl
  have div : 2 ^ 251 ∣ toFix m e := by
    rw [toFix_eq m low]
    exact (pow_dvd_pow 2 (by omega)).mul_left m
  cases n
  · exact Int.natCast_dvd_natCast.2 div
  · exact (Int.natCast_dvd_natCast.2 div).neg_right

theorem coarse_le {r : Nat} (pos : r ≠ 0) (div : 2 ^ 251 ∣ r) : 1 / 2 ^ 150 ≤ fixVal r := by
  have le : ((2 ^ 251 : Nat) : ℝ) ≤ r := Nat.cast_le.2 (Nat.le_of_dvd (Nat.pos_of_ne_zero pos) div)
  have unit : ((2 ^ 251 : Nat) : ℝ) * ulp = 1 / 2 ^ 149 := by
    rw [ulp, show fixP = 251 + 149 from rfl, pow_add, ← mul_assoc, Nat.cast_pow, Nat.cast_ofNat, ← mul_pow]
    norm_num
  calc (1 : ℝ) / 2 ^ 150 ≤ ((2 ^ 251 : Nat) : ℝ) * ulp := by rw [unit]; norm_num
    _ ≤ fixVal r := mul_le_mul_of_nonneg_right le ulp_pos.le

/-- sin(πr) for r from 0 to 1/2 in fixed point, away from 0. -/
theorem fixSinPi_spec {r : Nat} (pos : r ≠ 0) (div : 2 ^ 251 ∣ r) (half : fixVal r ≤ 1 / 2) :
    Approx (fixSinPi r) (sin (π * fixVal r)) (2 ^ 25) ∧ 1 / 2 ^ 160 ≤ sin (π * fixVal r) := by
  refine ⟨fixSinPi_approx half, ?_⟩
  have piPos := pi_pos
  have low := coarse_le pos div
  have jordan := mul_le_sin (x := π * fixVal r) (mul_nonneg piPos.le (fixVal_nonneg r)) (by nlinarith)
  rw [← mul_assoc, div_mul_cancel₀ _ piPos.ne'] at jordan
  norm_num at low ⊢
  linarith

/-- An angle of less than half a turn is folded to at most a quarter. -/
theorem fold_half_turn {r : Nat} (pos : r ≠ 0) (div : 2 ^ 251 ∣ r) (below : r < fixOne) :
    let folded := if fixOne / 2 < r then fixOne - r else r
    Approx (fixSinPi folded) (sin (π * fixVal r)) (2 ^ 25) ∧ 1 / 2 ^ 160 ≤ sin (π * fixVal r) := by
  intro folded
  obtain high | low := lt_or_ge (fixOne / 2) r
  · have mirrored : sin (π * fixVal r) = sin (π * fixVal (fixOne - r)) := by
      rw [fixVal_sub below.le, fixVal_one, mul_sub, mul_one, sin_pi_sub]
    have half : fixVal (fixOne - r) ≤ 1 / 2 := by
      rw [fixVal_sub below.le, fixVal_one]
      have : fixVal (fixOne / 2) ≤ fixVal r := mul_le_mul_of_nonneg_right (Nat.cast_le.2 high.le) ulp_pos.le
      rw [fixVal_half] at this
      linarith
    have whole : 2 ^ 251 ∣ fixOne := pow_dvd_pow 2 (by decide)
    rw [show folded = fixOne - r from if_pos high, mirrored]
    exact fixSinPi_spec (by omega) (Nat.dvd_sub whole div) half
  · rw [show folded = r from if_neg (not_lt.2 low)]
    refine fixSinPi_spec pos div ?_
    rw [← fixVal_half]
    exact mul_le_mul_of_nonneg_right (Nat.cast_le.2 low) ulp_pos.le

/-- A turn is taken off, and the second half of it has the sign of its own. -/
theorem sinPiFix_spec {x : Int} (div : ((2 ^ 251 : Nat) : Int) ∣ x) (frac : ¬(fixOne : Int) ∣ x) :
    Approx (sinPiFix x).2 |sin (π * (x * ulp))| (2 ^ 25) ∧ 1 / 2 ^ 160 ≤ |sin (π * (x * ulp))| ∧
      ((sinPiFix x).1 = true ↔ sin (π * (x * ulp)) < 0) := by
  have onePos := fixOne_pos
  have turn : (0 : Int) < 2 * fixOne := by omega
  obtain ⟨r, hr⟩ : ∃ r : Nat, x % (2 * fixOne : Int) = r := Int.eq_ofNat_of_zero_le (Int.emod_nonneg x turn.ne')
  have below : r < 2 * fixOne := by
    have := Int.emod_lt_of_pos x turn
    omega
  have split : x = x / (2 * fixOne : Int) * (2 * fixOne : Int) + r := by
    rw [← hr, Int.ediv_mul_add_emod]
  have angle : sin (π * (x * ulp)) = sin (π * fixVal r) := by
    have value : π * (x * ulp) = π * fixVal r + (x / (2 * fixOne : Int) : Int) * (2 * π) := by
      calc π * (x * ulp) = π * (r * ulp) + (x / (2 * fixOne : Int) : Int) * (2 * π * (fixOne * ulp)) := by
            conv_lhs => rw [split]
            push_cast
            ring
        _ = _ := by rw [fixOne_ulp, mul_one, fixVal]
    rw [value, sin_add_int_mul_two_pi]
  have wholeDiv : ((2 ^ 251 : Nat) : Int) ∣ (fixOne : Int) := Int.natCast_dvd_natCast.2 (pow_dvd_pow 2 (by decide))
  have divR : 2 ^ 251 ∣ r := by
    rw [← Int.natCast_dvd_natCast, ← hr, Int.emod_def]
    exact dvd_sub div ((wholeDiv.mul_left 2).mul_right _)
  have fracR : ¬fixOne ∣ r := fun whole => frac <| by
    rw [split]
    exact dvd_add (dvd_mul_of_dvd_right (dvd_mul_left _ _) _) (Int.natCast_dvd_natCast.2 whole)
  have value : sinPiFix x = (decide (fixOne ≤ r),
      fixSinPi (if fixOne / 2 < r % fixOne then fixOne - r % fixOne else r % fixOne)) := by
    rw [sinPiFix, hr]
    rfl
  have rest : r % fixOne ≠ 0 := fun zero => fracR (Nat.dvd_of_mod_eq_zero zero)
  have restDiv : 2 ^ 251 ∣ r % fixOne := (Nat.dvd_mod_iff (pow_dvd_pow 2 (by decide))).2 divR
  obtain ⟨near, size⟩ := fold_half_turn rest restDiv (Nat.mod_lt r onePos)
  have pos : 0 < sin (π * fixVal (r % fixOne)) := lt_of_lt_of_le (by positivity) size
  rw [value, angle]
  obtain first | second := lt_or_ge r fixOne
  · rw [Nat.mod_eq_of_lt first] at near size pos ⊢
    rw [abs_of_pos pos]
    exact ⟨near, size, iff_of_false (by simpa using first) pos.le.not_gt⟩
  · have rest_eq : r % fixOne = r - fixOne := by
      rw [Nat.mod_eq_sub_mod second, Nat.mod_eq_of_lt (by omega)]
    have shifted : sin (π * fixVal r) = -sin (π * fixVal (r % fixOne)) := by
      rw [rest_eq, fixVal_sub second, fixVal_one, mul_sub, mul_one, sin_sub_pi, neg_neg]
    rw [shifted, abs_neg, abs_of_pos pos]
    exact ⟨near, size, iff_of_true (by simpa using second) (neg_neg_of_pos pos)⟩

theorem sinPiFix_near {md : Mode} {x : Int} (div : ((2 ^ 251 : Nat) : Int) ∣ x) (frac : ¬(fixOne : Int) ∣ x) :
    RoundsNear fmt32 md (sin (π * (x * ulp))) (roundTo fmt32 md (sinPiFix x).1 (sinPiFix x).2 (-fixP) true) := by
  obtain ⟨near, size, sign⟩ := sinPiFix_spec div frac
  exact roundsNear_of_approx (by norm_num) (by norm_num) near size (neg_add_cancel _) (by rw [zpow_zero, mul_one]) sign

section
variable {md : Mode} {x m : Nat} {n : Bool} {e : Int} (hx : fmt32.operand md x = .fin n m e) (hm : m ≠ 0)
  (frac : ∀ i : Int, 2 * ((signed n m : ℝ) * (2 : ℝ) ^ e) ≠ i)

/-- A whole magnitude is a whole value. -/
theorem isInteger_signed {k : Int} (whole : isInteger m k = true) :
    ∃ i : Int, (signed n m : ℝ) * (2 : ℝ) ^ k = i := by
  obtain ⟨i, hi⟩ := isInteger_magVal whole
  rw [magVal] at hi
  refine ⟨signed n i, ?_⟩
  rw [signed_cast, signed_cast, mul_assoc, hi]

include frac

theorem isInteger_false : isInteger m e = false ∧ isInteger m (e + 1) = false := by
  constructor <;> rw [Bool.eq_false_iff] <;> intro whole
  · obtain ⟨i, hi⟩ := isInteger_signed (n := n) whole
    exact frac (2 * i) (by rw [hi]; push_cast; rfl)
  · obtain ⟨i, hi⟩ := isInteger_signed (n := n) whole
    refine frac i (hi ▸ ?_)
    rw [zpow_add₀ two_ne_zero, zpow_one]
    ring

include hx hm

theorem fSinPi_near : RoundsNear fmt32 md (sin (π * ((signed n m : ℝ) * (2 : ℝ) ^ e))) (fSinPi md x) := by
  obtain ⟨low, -, -⟩ := operand_range hx
  obtain ⟨notWhole, notHalf⟩ := isInteger_false frac
  rw [← signed_toFix n m low] at frac ⊢
  rw [fSinPi, hx]
  simp only [hm, notWhole, notHalf, Bool.false_eq_true, or_self, if_false]
  refine sinPiFix_near (coarse_toFix n m low) fun ⟨i, hi⟩ => frac (2 * i) ?_
  rw [hi, Int.cast_mul, Int.cast_natCast, mul_right_comm, fixOne_ulp, one_mul]
  push_cast
  rfl

theorem fCosPi_near : RoundsNear fmt32 md (cos (π * ((signed n m : ℝ) * (2 : ℝ) ^ e))) (fCosPi md x) := by
  obtain ⟨low, -, -⟩ := operand_range hx
  obtain ⟨notWhole, notHalf⟩ := isInteger_false frac
  have quarter : ((signed n (toFix m e) + (fixOne / 2 : Nat) : Int) : ℝ) * ulp =
      (signed n m : ℝ) * (2 : ℝ) ^ e + 1 / 2 := by
    have half := fixVal_half
    rw [fixVal] at half
    rw [Int.cast_add, add_mul, signed_toFix n m low, Int.cast_natCast, half]
  have value : cos (π * ((signed n m : ℝ) * (2 : ℝ) ^ e)) =
      sin (π * (((signed n (toFix m e) + (fixOne / 2 : Nat) : Int) : ℝ) * ulp)) := by
    rw [quarter, mul_add, mul_one_div, sin_add_pi_div_two]
  rw [value, fCosPi, hx]
  simp only [hm, notWhole, notHalf, Bool.false_eq_true, if_false]
  have halfDiv : 2 ^ 251 ∣ fixOne / 2 :=
    Nat.dvd_div_of_mul_dvd (by rw [← Nat.pow_succ']; exact pow_dvd_pow 2 (by decide))
  refine sinPiFix_near (dvd_add (coarse_toFix n m low) (Int.natCast_dvd_natCast.2 halfDiv)) fun ⟨i, hi⟩ =>
    frac (2 * i - 1) ?_
  rw [hi, Int.cast_mul, Int.cast_natCast, mul_right_comm, fixOne_ulp, one_mul] at quarter
  push_cast
  linarith

end

end Sys2Proof.Machine
end

section
/-! tanh x, and the elementary functions at general operands (O13; R101). -/

namespace Sys2Proof.Machine

open Real

/-! ### The hyperbolic tangent between exponentials -/

theorem tanh_eq_exp_two (x : ℝ) : tanh x = (exp (2 * x) - 1) / (exp (2 * x) + 1) := by
  have pos := exp_pos x
  have double : exp (2 * x) = exp x * exp x := by rw [← exp_add, two_mul]
  rw [tanh_eq, exp_neg, double]
  field_simp

/-- tanh x lies below x by less than half of x³. -/
theorem tanh_bounds {x : ℝ} (pos : 0 < x) (small : x ≤ 1 / 3) : x - x ^ 3 / 2 ≤ tanh x ∧ tanh x < x := by
  constructor
  · have coshPos := cosh_pos x
    have above : cosh x ≤ exp (x ^ 2 / 2) := cosh_le_exp_half_sq x
    have bound : 1 - x ^ 2 / 2 ≤ exp (-(x ^ 2 / 2)) := one_sub_le_exp_neg _
    have scaled : (1 - x ^ 2 / 2) * cosh x ≤ 1 := by
      calc (1 - x ^ 2 / 2) * cosh x ≤ exp (-(x ^ 2 / 2)) * exp (x ^ 2 / 2) :=
            mul_le_mul bound above coshPos.le (exp_pos _).le
        _ = 1 := by rw [← exp_add, neg_add_cancel, exp_zero]
    rw [tanh_eq_sinh_div_cosh, le_div_iff₀ coshPos]
    calc (x - x ^ 3 / 2) * cosh x = x * ((1 - x ^ 2 / 2) * cosh x) := by ring
      _ ≤ x := mul_le_of_le_one_right pos.le scaled
      _ ≤ sinh x := self_le_sinh_iff.2 pos.le
  · have series := hasSum_oddTerm pos.le small
    have two := sum_le_hasSum (Finset.range 2) (fun k _ => by rw [oddTerm]; positivity) series
    have terms : ∑ k ∈ Finset.range 2, oddTerm x k = x + x ^ 3 / 3 := by
      simp [Finset.sum_range_succ, oddTerm]
      norm_num
    have cube : 0 < x ^ 3 / 3 := by positivity
    have below : 0 < 1 - x := by linarith
    have ratio : exp (2 * x) < (1 + x) / (1 - x) := by
      rw [← lt_log_iff_exp_lt (by positivity), log_div (by positivity) below.ne']
      linarith
    rw [lt_div_iff₀ below] at ratio
    rw [tanh_eq_exp_two, div_lt_iff₀ (by positivity)]
    linarith

/-- tanh x keeps away from 0 as x does. -/
theorem tanh_size {x : ℝ} (low : 1 / 2 ^ 50 ≤ x) : 1 / 2 ^ 160 ≤ tanh x := by
  have pos : 0 < x := lt_of_lt_of_le (by positivity) low
  have line := add_one_le_exp (2 * x)
  rw [tanh_eq_exp_two, le_div_iff₀ (by positivity)]
  norm_num at low ⊢
  linarith

/-- tanh x for large x lies within 2^-64 of 1. -/
theorem tanh_large {x : ℝ} (large : 256 ≤ x) : 1 - 1 / 2 ^ 64 < tanh x ∧ tanh x < 1 := by
  refine ⟨?_, tanh_lt_one x⟩
  have wide : (2 : ℝ) ^ 70 ≤ exp (2 * x) := by
    calc (2 : ℝ) ^ 70 ≤ exp 1 ^ 70 := pow_le_pow_left₀ two_pos.le (by linarith [exp_one_gt_d9]) 70
      _ = exp 70 := by rw [← exp_nat_mul]; norm_num
      _ ≤ exp (2 * x) := exp_le_exp.2 (by linarith)
  rw [tanh_eq_exp_two, lt_div_iff₀ (by positivity)]
  norm_num at wide ⊢
  linarith

theorem abs_tanh (x : ℝ) : |tanh x| = tanh |x| := by
  obtain nonneg | neg := le_total 0 x
  · rw [abs_of_nonneg nonneg, abs_of_nonneg]
    rw [tanh_eq_sinh_div_cosh]
    exact div_nonneg (sinh_nonneg_iff.2 nonneg) (cosh_pos x).le
  · rw [abs_of_nonpos neg, tanh_neg, abs_of_nonpos]
    rw [tanh_eq_sinh_div_cosh]
    exact div_nonpos_of_nonpos_of_nonneg (sinh_nonpos_iff.2 neg) (cosh_pos x).le

theorem tanh_neg_iff {x : ℝ} : tanh x < 0 ↔ x < 0 := by
  rw [tanh_eq_sinh_div_cosh, div_lt_iff₀ (cosh_pos x), zero_mul, sinh_neg_iff]

/-- tanh x for small x lies in the last of 2^64 parts of a unit of x. -/
theorem tanh_magVal_small {m : Nat} {e : Int} (hm : m ≠ 0) (bits : m < 2 ^ 24)
    (near : magVal m e < (2 : ℝ) ^ (-50 : Int)) :
    ((m * 2 ^ 64 - 1 : Nat) : ℝ) * (2 : ℝ) ^ (e - 64) < tanh (magVal m e) ∧
      tanh (magVal m e) < (((m * 2 ^ 64 - 1 : Nat) : ℝ) + 1) * (2 : ℝ) ^ (e - 64) := by
  have pos := magVal_pos (e := e) hm
  have unitPos : (0 : ℝ) < (2 : ℝ) ^ e := by positivity
  have small : magVal m e < 1 / 2 ^ 50 := near.trans_eq (by rw [zpow_neg, one_div]; norm_num)
  obtain ⟨lower, upper⟩ := tanh_bounds pos (small.le.trans (by norm_num))
  have unit : (2 : ℝ) ^ (e - 64) = (2 : ℝ) ^ e / 2 ^ 64 := by
    rw [zpow_sub₀ two_ne_zero]
    norm_num
  have cast : ((m * 2 ^ 64 - 1 : Nat) : ℝ) + 1 = m * 2 ^ 64 := by
    exact_mod_cast Nat.sub_add_cancel (by omega : 1 ≤ m * 2 ^ 64)
  have product : ((m * 2 ^ 64 - 1 : Nat) : ℝ) * ((2 : ℝ) ^ e / 2 ^ 64) = magVal m e - (2 : ℝ) ^ e / 2 ^ 64 := by
    rw [eq_sub_of_add_eq cast, magVal]
    field_simp
  have cube : magVal m e ^ 3 ≤ 2 ^ 24 * (2 : ℝ) ^ e * (1 / 2 ^ 50) ^ 2 := by
    have below : magVal m e < 2 ^ 24 * (2 : ℝ) ^ e :=
      mul_lt_mul_of_pos_right (by exact_mod_cast bits) unitPos
    rw [pow_succ, mul_comm]
    exact mul_le_mul below.le (pow_le_pow_left₀ pos.le small.le 2) (by positivity) (by positivity)
  rw [unit, add_mul, one_mul, product, sub_add_cancel]
  refine ⟨?_, upper⟩
  norm_num at cube ⊢
  linarith

/-! ### Its fixed-point form -/

/-- Powers of two of any size, relative to their integer part. -/
theorem fixExp2_scaled {y : Nat} {Y : ℝ} (h : Approx y Y (2 ^ 24)) :
    Approx (2 ^ (y / fixOne) * fixExp2 (y % fixOne)) ((2 : ℝ) ^ Y) (2 ^ (y / fixOne) * 2 ^ 27) ∧
      2 ^ (y / fixOne) / 2 ≤ fixVal (2 ^ (y / fixOne) * fixExp2 (y % fixOne)) := by
  have frac := fixExp2_approx (Nat.mod_lt y fixOne_pos)
  have nonneg := fixVal_nonneg (y % fixOne)
  have below := fixVal_lt_one (Nat.mod_lt y fixOne_pos)
  have parts : fixVal y = (y / fixOne : Nat) + fixVal (y % fixOne) := by
    conv_lhs => rw [← Nat.div_add_mod y fixOne]
    rw [fixVal_add, mul_comm, fixVal_mul, fixVal_one, mul_one]
  have unit := ulp_le
  have unitPos := ulp_pos
  norm_num at unit
  have powLow : 1 ≤ (2 : ℝ) ^ fixVal (y % fixOne) := one_le_rpow one_le_two nonneg
  have powHigh : (2 : ℝ) ^ fixVal (y % fixOne) ≤ 2 := by
    simpa using rpow_le_rpow_of_exponent_le one_le_two below.le
  have value : (2 : ℝ) ^ Y = 2 ^ (y / fixOne) * ((2 : ℝ) ^ fixVal (y % fixOne) * (2 : ℝ) ^ (Y - fixVal y)) := by
    rw [← rpow_natCast, ← rpow_add two_pos, ← rpow_add two_pos]
    congr 1
    linarith
  have shift : |(2 : ℝ) ^ (Y - fixVal y) - 1| ≤ 2 ^ 25 * ulp := by
    have dist : |Y - fixVal y| ≤ 2 ^ 24 * ulp := by rw [abs_sub_comm]; exact h
    have logPos : 0 < log 2 := log_pos one_lt_two
    have exponent : |log 2 * (Y - fixVal y)| ≤ |Y - fixVal y| := by
      rw [abs_mul, abs_of_pos logPos]
      exact mul_le_of_le_one_left (abs_nonneg _) (by linarith [log_two_lt_d9])
    have bound := abs_exp_sub_one_le (exponent.trans (dist.trans (by linarith)))
    rw [rpow_def_of_pos two_pos]
    linarith
  have near : |(2 : ℝ) ^ fixVal (y % fixOne) - (2 : ℝ) ^ fixVal (y % fixOne) * (2 : ℝ) ^ (Y - fixVal y)| ≤
      2 ^ 26 * ulp := by
    rw [show ∀ p q : ℝ, p - p * q = p * (1 - q) from fun p q => by ring, abs_mul, abs_sub_comm,
      abs_of_pos (zero_lt_one.trans_le powLow)]
    calc _ ≤ 2 * (2 ^ 25 * ulp) := mul_le_mul powHigh shift (abs_nonneg _) two_pos.le
      _ = 2 ^ 26 * ulp := by ring
  constructor
  · have scaled := ((frac.trans near).mono (l := 2 ^ 27) (by norm_num)).smul (2 ^ (y / fixOne))
    rw [value]
    exact_mod_cast scaled
  · have low := (abs_le.1 frac).1
    rw [fixVal_mul, Nat.cast_pow, Nat.cast_ofNat, div_eq_mul_inv]
    refine mul_le_mul_of_nonneg_left ?_ (by positivity)
    linarith

/-- tanh X from twice X over the logarithm of 2. -/
theorem tanhFix_approx {x : Nat} (high : fixVal x ≤ 256) :
    let y := 2 * x * fixOne / fixLn2
    let w := fixExp2 (y % fixOne) * 2 ^ (y / fixOne)
    Approx ((w - fixOne) * fixOne / (w + fixOne)) (tanh (fixVal x)) (2 ^ 30) := by
  intro y w
  have nonneg := fixVal_nonneg x
  have logLow := log_two_gt_d9
  have logPos : 0 < log 2 := log_pos one_lt_two
  have twice : Approx (2 * x) (2 * fixVal x) 0 := by
    have self := approx_self (2 * x)
    rwa [fixVal_mul, Nat.cast_ofNat] at self
  have exponent : Approx y (2 * fixVal x / log 2) (2 ^ 24) :=
    (twice.ratio fixLn2_approx logPos.ne' (A := 2 ^ 10) (by
      rw [abs_of_nonneg (div_nonneg (by linarith) logPos.le), div_le_iff₀ logPos]
      linarith) (by norm_num) half_le_fixLn2).mono (by norm_num)
  obtain ⟨power, size⟩ := fixExp2_scaled exponent
  have value : (2 : ℝ) ^ (2 * fixVal x / log 2) = exp (2 * fixVal x) := by
    rw [rpow_def_of_pos two_pos, mul_div_cancel₀ _ logPos.ne']
  rw [value, mul_comm (2 ^ (y / fixOne)) (fixExp2 (y % fixOne))] at power
  rw [mul_comm (2 ^ (y / fixOne)) (fixExp2 (y % fixOne))] at size
  have one : Approx fixOne 1 0 := by rw [← fixVal_one]; exact approx_self _
  have expLow : 1 ≤ exp (2 * fixVal x) := one_le_exp (by linarith)
  have scale : (1 : ℝ) ≤ 2 ^ (y / fixOne) := one_le_pow₀ one_le_two
  have quotient := (power.sub one expLow).ratio (power.add one) (by positivity) (A := 1)
    (c := 2 ^ (y / fixOne) / 2) (by
      rw [abs_of_nonneg (div_nonneg (by linarith) (by positivity)), div_le_one (by positivity)]
      linarith) (by positivity) (size.trans (by
      rw [fixVal_add]
      linarith [fixVal_nonneg fixOne]))
  rw [tanh_eq_exp_two]
  refine quotient.mono ?_
  have : (2 : ℝ) ^ (y / fixOne) ≠ 0 := by positivity
  field_simp
  linarith

section
variable {md : Mode} {x m : Nat} {n : Bool} {e : Int} (hx : fmt32.operand md x = .fin n m e) (hm : m ≠ 0)
include hx hm

theorem fTanh_near (low : (2 : ℝ) ^ (-50 : Int) ≤ magVal m e) (high : magVal m e < 256) :
    RoundsNear fmt32 md (tanh ((signed n m : ℝ) * (2 : ℝ) ^ e)) (fTanh md x) := by
  obtain ⟨least, -, -⟩ := operand_range hx
  have notSmall : ¬e + (Nat.log2 m : Int) < -50 := mt (magVal_lt_iff hm).2 (not_lt.2 low)
  have notLarge : e + (Nat.log2 m : Int) < 8 := (magVal_lt_iff hm).1 (high.trans_eq (by norm_num))
  have value := fixVal_toFix m least
  have near := tanhFix_approx (x := toFix m e) (value.trans_le high.le)
  have abs := abs_signed n m e
  rw [fTanh, hx]
  simp only [if_neg hm, if_neg notSmall, if_neg (not_le.2 notLarge)]
  rw [value] at near
  refine roundsNear_of_approx (by norm_num) (by norm_num) near (tanh_size ?_) (neg_add_cancel _) ?_ ?_
  · rw [zpow_neg] at low
    norm_num at low ⊢
    exact low
  · rw [abs_tanh, abs, zpow_zero, mul_one]
  · rw [tanh_neg_iff]
    exact signed_neg_iff hm

theorem fTanh_large (large : 256 ≤ magVal m e) :
    RoundsTo fmt32 md n (2 ^ 64 - 1) (-64) true (fTanh md x) := by
  have exponent : ¬e + (Nat.log2 m : Int) < 8 := fun below => by
    have := (magVal_lt_iff hm).2 below
    norm_num at this
    linarith
  rw [fTanh, hx]
  simp only [if_neg hm, if_neg (show ¬e + (Nat.log2 m : Int) < -50 by omega), if_pos (not_lt.1 exponent)]
  exact roundTo_rounds sound_fmt32 (by norm_num)

theorem fTanh_small (near : magVal m e < (2 : ℝ) ^ (-50 : Int)) :
    RoundsTo fmt32 md n (m * 2 ^ 64 - 1) (e - 64) true (fTanh md x) := by
  have pos := Nat.pos_of_ne_zero hm
  rw [fTanh, hx]
  simp only [if_neg hm, if_pos ((magVal_lt_iff hm).1 near)]
  exact roundTo_rounds sound_fmt32 (by omega)

theorem fTanh_bracket (far : magVal m e < (2 : ℝ) ^ (-50 : Int) ∨ 256 ≤ magVal m e) :
    ∃ (z : Nat) (p : Int), 2 ^ 26 ≤ z ∧ (z : ℝ) * (2 : ℝ) ^ p < tanh (magVal m e) ∧
      tanh (magVal m e) < ((z : ℝ) + 1) * (2 : ℝ) ^ p ∧ RoundsTo fmt32 md n z p true (fTanh md x) := by
  obtain ⟨-, -, small⟩ := operand_range hx
  have pos := Nat.pos_of_ne_zero hm
  obtain near | large := far
  · obtain ⟨lower, upper⟩ := tanh_magVal_small hm small near
    exact ⟨m * 2 ^ 64 - 1, e - 64, by omega, lower, upper, fTanh_small hx hm near⟩
  · obtain ⟨lower, upper⟩ := tanh_large large
    have unit : (2 : ℝ) ^ (-64 : Int) = 1 / 2 ^ 64 := by rw [zpow_neg, one_div]; norm_num
    refine ⟨2 ^ 64 - 1, -64, by norm_num, ?_, ?_, fTanh_large hx hm large⟩
    · rw [unit]
      norm_num at lower ⊢
      exact lower
    · rw [unit]
      norm_num
      exact upper

end

/-! ### The statement -/

/-- Settles O13: each function is rounded from a fixed-point value within 2^30 units of 2^-400 of the exact one, and the
exact one is never nearer to 0 than 2^-160. -/
theorem elementaryFunctionsNearExact : Obligations.ElementaryFunctionsNearExact := by
  unfold Obligations.ElementaryFunctionsNearExact
  rintro md a v ⟨n, m, e, hx, rfl⟩ nonzero
  have hm : m ≠ 0 := by
    rintro rfl
    exact nonzero (by cases n <;> simp [signed])
  have abs := abs_signed n m e
  have sign := signed_neg_iff (n := n) (e := e) hm
  refine ⟨fun frac small => fExp2_near hx hm (abs ▸ small) frac, fun large => ?_, fun large => ?_, fun pos ne => ?_,
    fun frac => ⟨fSinPi_near hx hm frac, fCosPi_near hx hm frac⟩, fun low high => ?_, fun far => ?_⟩
  · have positive : n = false := Bool.eq_false_iff.2 fun neg => by linarith [sign.1 neg]
    rw [fExp2_large hx hm (abs ▸ large.trans (le_abs_self _)), positive]
    exact roundTo_rounds sound_fmt32 one_ne_zero
  · have negative : n = true := sign.2 (by linarith)
    rw [fExp2_large hx hm (by rw [← abs, abs_of_neg (sign.1 negative)]; linarith), negative]
    exact roundTo_rounds sound_fmt32 one_ne_zero
  · have positive : n = false := Bool.eq_false_iff.2 fun neg => by linarith [sign.1 neg]
    subst positive
    exact fLog2_near hx hm ne
  · rw [abs] at low high
    exact fTanh_near hx hm low high
  · rw [abs] at far ⊢
    rw [show decide ((signed n m : ℝ) * (2 : ℝ) ^ e < 0) = n from Bool.eq_iff_iff.2 (decide_eq_true_iff.trans sign.symm)]
    exact fTanh_bracket hx hm far

end Sys2Proof.Machine
end

section
/-! The generator function, the better candidate and the score of a candidate (O15; R110, R113). -/

namespace Sys2Proof.Machine

open Real

/-! ### The generator and the order of candidates -/

theorem rndF_eq (key c : W64) :
    rndF key c = (rndRound (rndRound (rndRound (rndRound (c ^^^ key))))).extractLsb' 32 32 := rfl

/-- A candidate is better by its score, a NaN being the worst, and by its index among equal scores. -/
theorem better_iff (a b : Cand) : better a b = true ↔ (fmt32.decode a.1.toNat).isNan = false ∧
    ((fmt32.decode b.1.toNat).isNan = true ∨ ((fmt32.decode b.1.toNat).isNan = false ∧
      ((fmt32.decode b.1.toNat).Below (fmt32.decode a.1.toNat) ∨
        (¬(fmt32.decode a.1.toNat).Below (fmt32.decode b.1.toNat) ∧
          ¬(fmt32.decode b.1.toNat).Below (fmt32.decode a.1.toNat) ∧ a.2.toNat < b.2.toNat)))) := by
  rw [better]
  generalize fmt32.decode a.1.toNat = x
  generalize fmt32.decode b.1.toNat = y
  cases hx : x.isNan
  · cases hy : y.isNan
    · simp [hx, hy, lt_iff_below, eqv_iff, BitVec.ult, and_assoc]
    · simp
  · simp

/-! ### The score where invT is zero -/

section
variable {md : Mode} {invT logit bits : W32} (zero : (fmt32.operand md invT.toNat).isZero = true)
include zero

theorem sampScore_zero_nan (h : (fmt32.operand md logit.toNat).isNan = true) :
    sampScore md invT logit bits = 0x7FC00000 := by
  rw [sampScore, if_pos zero]
  cases hv : fmt32.operand md logit.toNat with
  | nan s => rfl
  | inf n => rw [hv] at h; cases h
  | fin n m e => rw [hv] at h; cases h

theorem sampScore_zero (h : (fmt32.operand md logit.toNat).isNan = false) : sampScore md invT logit bits =
    if md.ftz ∧ logit.extractLsb' 23 8 = 0 then logit &&& 0x80000000 else logit := by
  have value : sampScore md invT logit bits = BitVec.ofNat 32 (flushed md logit.toNat) := by
    rw [sampScore, if_pos zero]
    cases hv : fmt32.operand md logit.toNat with
    | nan s => rw [hv] at h; cases h
    | inf n => rfl
    | fin n m e => rfl
  rw [value, flushed_word]
  split <;> rw [BitVec.ofNat_toNat, BitVec.setWidth_eq]

end

/-! ### Rounded logarithms -/

/-- A magnitude well inside the exponents of FP32 rounds to a finite number other than zero. -/
theorem decode_roundTo_normal {md : Mode} {neg : Bool} {z : Nat} {p : Int} {st : Bool} (hz : z ≠ 0)
    (low : -126 ≤ p + Nat.log2 z) (high : p + Nat.log2 z ≤ 126) :
    ∃ a k, fmt32.decode (roundTo fmt32 md neg z p st).1 = .fin neg a k ∧ a ≠ 0 := by
  have sub : fmt32.qmin = -149 := by decide
  have most : fmt32.maxEnc = 255 * 2 ^ 23 - 1 := by decide
  have bits : fmt32.pbits = 23 := rfl
  have unit : fmt32.unit z p = p + Nat.log2 z - 23 := by
    rw [Fmt.unit, sub, bits]
    exact max_eq_left (by omega)
  have lo := le_roundAt md.rm neg st (p := 23) hz unit
  have hi := roundAt_le md.rm neg z st (p := 23) unit.ge
  have least : 2 ^ 23 ≤ fmt32.placed md.rm neg z p st := lo.trans (Nat.le_add_left _ _)
  have within : fmt32.placed md.rm neg z p st ≤ fmt32.maxEnc := by
    rw [Fmt.placed, most, sub, bits]
    omega
  have kept : ¬(fmt32.isTiny md.rm neg z p st = true ∧ md.ftz = true) := by
    rintro ⟨tiny, -⟩
    have bias : fmt32.bias = 127 := rfl
    rw [Fmt.isTiny, decide_eq_true_eq, bias] at tiny
    split at tiny <;> omega
  rw [roundTo_of_within (.inl hz) kept within, Fmt.decode_finite sound_fmt32 neg within]
  refine ⟨_, _, rfl, ?_⟩
  rw [Fmt.signif, bits]
  split <;> omega

theorem magVal_eq_one_iff {m : Nat} {e : Int} (hm : m ≠ 0) :
    magVal m e = 1 ↔ m = 2 ^ Nat.log2 m ∧ e + Nat.log2 m = 0 := by
  constructor
  · intro one
    obtain ⟨lo, hi⟩ := magVal_bounds (e := e) hm
    rw [one, ← zpow_zero 2] at lo hi
    have top := (zpow_le_zpow_iff_right₀ one_lt_two).1 lo
    have bottom := (zpow_lt_zpow_iff_right₀ one_lt_two).1 hi
    have exponent : e = -(Nat.log2 m : Int) := by omega
    refine ⟨?_, by omega⟩
    rw [magVal, exponent, zpow_neg, zpow_natCast, ← div_eq_mul_inv, div_eq_one_iff_eq (by positivity)] at one
    exact_mod_cast one
  · rintro ⟨power, exponent⟩
    have value : (m : ℝ) = 2 ^ Nat.log2 m := by exact_mod_cast power
    rw [magVal, value, ← zpow_natCast, ← zpow_add₀ two_ne_zero, add_comm, exponent, zpow_zero]

section
variable {md : Mode} {m : Nat} {e : Int} (hm : m ≠ 0)
include hm

theorem rnLn_one (one : magVal m e = 1) : rnLn md m e = 0 := by
  rw [rnLn, if_pos ((magVal_eq_one_iff hm).1 one)]

theorem rnLn_eq (ne : magVal m e ≠ 1) : rnLn md m e =
    (roundTo fmt32 md (decide (fixLn m e < 0)) (fixLn m e).natAbs (-fixP) true).1 := by
  rw [rnLn, if_neg (mt (magVal_eq_one_iff hm).2 ne)]

/-- The logarithm is rounded from a number near it. -/
theorem rnLn_near (lo : -149 ≤ e) (hi : e ≤ 104) (small : m < 2 ^ 25) (ne : magVal m e ≠ 1) :
    ∃ f, RoundsNear fmt32 md (log (magVal m e)) (rnLn md m e, f) := by
  have size := abs_log_magVal hm lo hi small ne
  rw [rnLn_eq hm ne]
  exact ⟨_, roundsNear_of_int (by norm_num) (by norm_num) (fixLn_approx hm lo hi small) (le_trans (by norm_num) size)⟩

end

/-! ### The score -/

/-- The uniform number of a candidate: the middle of one of 2^24 parts of 0 to 1. -/
theorem magVal_middle (k : Nat) : magVal (2 * k + 1) (-25) = (k + 1 / 2) * (2 : ℝ) ^ (-24 : Int) := by
  rw [magVal, zpow_neg, zpow_neg]
  push_cast
  norm_num
  ring

theorem middle_lt_one {k : Nat} (hk : k < 2 ^ 24) : magVal (2 * k + 1) (-25) < 1 := by
  have whole : (k : ℝ) + 1 ≤ 2 ^ 24 := by exact_mod_cast hk
  rw [magVal_middle, zpow_neg, ← div_eq_mul_inv, div_lt_one (by positivity)]
  norm_num at whole ⊢
  linarith

/-- Its logarithm lies between −25 and −2^-25. -/
theorem log_middle_bounds {k : Nat} (hk : k < 2 ^ 24) :
    1 / 2 ^ 25 ≤ -log (magVal (2 * k + 1) (-25)) ∧ -log (magVal (2 * k + 1) (-25)) ≤ 25 := by
  have pos : 0 < magVal (2 * k + 1) (-25) := magVal_pos (by omega)
  constructor
  · have ratio : magVal (2 * k + 1) (-25) = ((2 * k + 1 : Nat) : ℝ) / (2 ^ 25 : Nat) := by
      rw [magVal, zpow_neg, ← div_eq_mul_inv]
      norm_num
    have bound := inv_le_log_ratio (p := 2 * k + 1) (q := 2 ^ 25) (by omega) (by omega)
    rw [← inv_div (((2 * k + 1 : Nat) : ℝ)), ← ratio, log_inv] at bound
    exact_mod_cast bound
  · have least : (2 : ℝ) ^ (-25 : Int) ≤ magVal (2 * k + 1) (-25) := by
      rw [magVal]
      exact le_mul_of_one_le_left (by positivity) (by exact_mod_cast Nat.le_add_left 1 (2 * k))
    have mono := log_le_log (by positivity) least
    rw [log_zpow] at mono
    push_cast at mono
    linarith [log_two_lt_d9]

/-- Its rounded logarithm is a finite number below zero. -/
theorem decode_rnLn_middle (md : Mode) {k : Nat} (hk : k < 2 ^ 24) :
    ∃ a e, fmt32.decode (rnLn md (2 * k + 1) (-25)) = .fin true a e ∧ a ≠ 0 := by
  have hm : 2 * k + 1 ≠ 0 := by omega
  obtain ⟨least, most⟩ := log_middle_bounds hk
  have unit := ulp_le
  norm_num at unit least
  obtain ⟨nearLow, nearHigh⟩ := abs_le.1 (fixLn_approx hm (e := -25) (by norm_num) (by norm_num) (by omega))
  rw [rnLn_eq hm (middle_lt_one hk).ne]
  generalize fixLn (2 * k + 1) (-25) = y at nearLow nearHigh ⊢
  have product : (y : ℝ) * ulp < 0 := by linarith
  have real : (y : ℝ) < 0 := by
    by_contra nonneg
    exact product.not_ge (mul_nonneg (not_lt.1 nonneg) ulp_pos.le)
  have negative : y < 0 := by exact_mod_cast real
  have value : magVal y.natAbs (-fixP) = -(y * ulp) := by
    rw [magVal, Nat.cast_natAbs, Int.cast_abs, abs_of_neg real, zpow_neg, zpow_natCast, ulp, one_div_pow]
    ring
  have nonzero : y.natAbs ≠ 0 := by omega
  rw [decide_eq_true negative]
  refine decode_roundTo_normal nonzero ?_ ?_
  · have far : (2 : ℝ) ^ (-126 : Int) ≤ 1 / 2 ^ 30 := by
      rw [zpow_neg, one_div]
      exact inv_anti₀ (by positivity) (by norm_num)
    rw [← not_lt, ← magVal_lt_iff nonzero, value, not_lt]
    refine far.trans ?_
    norm_num
    linarith
  · refine Int.lt_add_one_iff.1 ((magVal_lt_iff nonzero).1 ?_)
    rw [value]
    norm_num
    linarith

/-- The score of a scaled logit: the Gumbel noise taken off. -/
theorem sampScore_noise {md : Mode} {invT logit bits : W32} {a : Nat} {e : Int}
    (nonzero : (fmt32.operand md invT.toNat).isZero = false)
    (dec : fmt32.decode (rnLn md (2 * (bits.toNat / 2 ^ 8) + 1) (-25)) = .fin true a e) (ha : a ≠ 0) :
    sampScore md invT logit bits =
      BitVec.ofNat 32 (fSub fmt32 md (fMul fmt32 md logit.toNat invT.toNat).1 (rnLn md a e)).1 := by
  rw [sampScore, nonzero]
  simp only [Bool.false_eq_true, if_false, dec, if_neg ha]

/-- Settles O15: the noise is the logarithm of the negated logarithm of u, both rounded from near their values; the
first is never zero, so the second has an operand. -/
theorem samplingValues : Obligations.SamplingValues := by
  unfold Obligations.SamplingValues
  refine ⟨rndF_eq, fun a b => ⟨better_iff a b, rfl⟩, fun md invT logit bits => ?_⟩
  refine ⟨sampScore_zero_nan, sampScore_zero, fun nonzero => ?_⟩
  have hk : bits.toNat / 2 ^ 8 < 2 ^ 24 := by omega
  obtain ⟨a, e, dec, ha⟩ := decode_rnLn_middle md hk
  obtain ⟨lo, hi, small⟩ := decode_fin_range rfl dec
  have sub : fmt32.qmin = -149 := by decide
  have all : fmt32.emask = 255 := by decide
  rw [sub, all] at hi
  rw [sub] at lo
  obtain ⟨f1, first⟩ := rnLn_near (md := md) (m := 2 * (bits.toNat / 2 ^ 8) + 1) (e := -25) (by omega) (by norm_num)
    (by norm_num) (by omega) (middle_lt_one hk).ne
  rw [magVal_middle] at first
  have value : -((signed true a : ℝ) * (2 : ℝ) ^ e) = magVal a e := by
    rw [signed_cast, magVal]
    simp
  have pos := magVal_pos (e := e) ha
  by_cases one : magVal a e = 1
  · refine ⟨_, _, f1, 0, _, first, ⟨true, a, e, dec, rfl⟩, by linarith, fun _ => rnLn_one ha one, fun ne => ?_,
      sampScore_noise nonzero dec ha⟩
    exact absurd (by linarith) ne
  · obtain ⟨f2, second⟩ := rnLn_near (md := md) ha lo (by omega) (by exact small.trans (by decide)) one
    refine ⟨_, _, f1, f2, _, first, ⟨true, a, e, dec, rfl⟩, by linarith, fun minus => ?_, fun _ => ?_,
      sampScore_noise nonzero dec ha⟩
    · exact absurd (by linarith) one
    · rwa [value]

end Sys2Proof.Machine
end

section
/-! Matrix words: what enters a core's queue and a group's batches (O42; R119, R120, R126, R128 to R132, R136). -/

namespace Sys2Proof.Machine

/-! ### Runs of registers (R63) -/

theorem bitOn_regSet {n : Nat} (r k : Nat) {i : Nat} (hi : i < n) :
    bitOn (regSet n r k) i = (decide (r ≤ i) && decide (i < r + k)) := by
  rw [bitOn, regSet, BitVec.getLsbD_ofNat, Nat.testBit_mul_two_pow, Nat.testBit_two_pow_sub_one,
    decide_eq_true hi, Bool.true_and]
  by_cases low : r ≤ i
  · simp only [low, decide_true, Bool.true_and, decide_eq_decide]
    omega
  · simp [low]

/-! ### Conditions of a matrix word -/

/-- Fewer than sixteen operations of a core have not started (R128). -/
def State.MatRoom (s : State) (core : Nat) : Prop :=
  (s.mats.filter fun m => m.core == core && !m.started).length < 16

theorem matFull_iff (s : State) (core : Nat) : s.matFull core = true ↔ ¬s.MatRoom core := by
  rw [State.matFull, State.MatRoom, decide_eq_true_iff, not_lt]

theorem matFull_of_room {s : State} {core : Nat} (h : s.MatRoom core) : s.matFull core = false :=
  Bool.eq_false_iff.2 fun full => (matFull_iff s core).1 full h

theorem converged_iff (s : State) :
    s.converged = true ↔ s.curPath.mask = allLanes ∧ s.cur.top s.curPath = allLanes := by
  rw [State.converged, Bool.and_eq_true, beq_iff_eq, beq_iff_eq]

/-- The rows of R86: the integer one, and those with floating-point accumulators. -/
theorem fmtRow_iff (f : BitVec 14) : fmtRow f = true ↔
    (fmtAcc f = false ∧ fmtA f = 0 ∧ fmtB f = 0) ∨ (fmtAcc f = true ∧ floatRow f) := by
  unfold fmtRow
  cases fmtAcc f <;> simp [floatRow, or_assoc]

theorem check_true {c : Bool} (h : c = true) (r : Cause) (k : Res) : check c r k = k := by rw [check, if_pos h]

theorem check_false {c : Bool} (h : ¬c = true) (r : Cause) (k : Res) : check c r k = .trap r 0 := by
  rw [check, if_neg h]

/-! ### An operation in the queue -/

/-- The word has queued one operation on tile `t` in its group's open batch and has moved on. -/
def MatQueued (s u : State) (kind : MatKind) (t : Nat) (held : Nat → Bool) : Prop :=
  MovesOn s u 4 s.cur ∧ u.mem = s.mem ∧ u.teams = s.teams ∧ ∃ m, u.mats = s.mats ++ [m] ∧
    m.gid = s.curG ∧ m.core = s.coreOf s.curG ∧ m.batch = s.cur.matBatch ∧ m.kind = kind ∧ m.tile = t ∧
    m.ntiles = 1 ∧ m.fmt = s.curPath.fmt ∧ m.started = false ∧ ∀ r < 128, bitOn m.held r = held r

theorem cur_of_groups {s u : State} (groups : u.groups = s.groups) (hG : u.curG = s.curG) : u.cur = s.cur := by
  rw [State.cur, State.cur, State.group, State.group, groups, hG]

/-- The issuing slot moves on in a state whose groups are those of the word. -/
theorem movesOn_next {s u : State} (live : s.Live) (groups : u.groups = s.groups) (hG : u.curG = s.curG)
    (hS : u.curS = s.curS) (n : Nat) : MovesOn s (u.next n) n s.cur := by
  obtain ⟨p, hp⟩ := Option.isSome_iff_exists.1 live
  have cur : (u.next n).cur = s.cur.next s.curS n := by
    rw [State.next_eq, State.cur_setGroup, cur_of_groups groups hG, hS]
  have path : s.curPath = p := Group.path_of_slot hp
  rw [MovesOn, cur]
  refine ⟨?_, Group.slot_next_not _ _ _, ?_⟩
  · rw [Group.slot_path_next n hp, State.pathAt, path]
  · cases s.curS <;> rfl

theorem matQueued_next {s : State} (live : s.Live) (score : List ScoreEntry) (kind : MatKind) (t : Nat)
    {regs : BitVec 128} {held : Nat → Bool} (hheld : ∀ r < 128, bitOn regs r = held r) :
    MatQueued s ((({ s with score := score }).queueMat kind t 1 regs).next 4) kind t held :=
  ⟨movesOn_next live rfl rfl rfl 4, rfl, rfl, _, rfl, rfl, rfl, rfl, rfl, rfl, rfl, rfl, rfl, hheld⟩

/-! ### Tile moves (R130) -/

section
variable {s : State} {t a : Reg} {wa : Bool} (accepts : s.Accepts ⟨[sg a wa], [], false⟩)
  (tile : t.val < s.curLaunch.tiles) (space : spaceOf (s.cur.gval s.curS a.val) = 1)
  (zero : field (s.cur.gval s.curS a.val) 19 43 = 0) (align : field (s.cur.gval s.curS a.val) 0 19 % 32 = 0)
  (range : field (s.cur.gval s.curS a.val) 0 19 + 9216 ≤ s.curLaunch.spad) (room : s.MatRoom (s.coreOf s.curG))
  (entries : (s.score.filter fun x => x.core == s.coreOf s.curG).length < 96)
include accepts tile space zero align range room entries

/-- A tile move whose checks pass registers its image and is queued. -/
theorem moveTile_done (w : Bool) :
    let off := field (s.cur.gval s.curS a.val) 0 19
    let entry : ScoreEntry := ⟨s.coreOf s.curG, teamOf s.curG, off, off + 9216, w, s.nextId⟩
    s.moveTile t a wa w = .done ((({ s with score := s.score ++ [entry] }).queueMat
      (if w then .st off else .ld off) t.val 1 0).next 4) := by
  intro off entry
  have image : scoreEntry (s.coreOf s.curG) (teamOf s.curG) off 9216 w s.nextId = entry := by
    simp only [scoreEntry, entry, ScoreEntry.mk.injEq, true_and, and_true]
    omega
  have free : s.register [entry] = some { s with score := s.score ++ [entry] } := by
    have used : (s.score.filter fun x => [entry].any fun e => e.core == x.core) =
        s.score.filter fun x => x.core == s.coreOf s.curG :=
      List.filter_congr fun x _ => by simp [entry, beq_eq_decide, eq_comm]
    rw [State.register, used]
    exact if_pos (by simpa using entries)
  have handle : (spaceOf (s.cur.gval s.curS a.val) == 1 && field (s.cur.gval s.curS a.val) 19 43 == 0) = true := by
    rw [space, zero]
    rfl
  rw [State.moveTile, check_true (decide_eq_true tile), State.gated_of_accepts accepts, check_true handle,
    check_true (beq_iff_eq.2 align), check_true (decide_eq_true range), if_neg (by rw [matFull_of_room room]; decide),
    image, free]

theorem moveTile_queued (w : Bool) : ∃ u, s.finish (s.moveTile t a wa w) = .next u ∧
    let off := field (s.cur.gval s.curS a.val) 0 19
    MatQueued s u (if w then .st off else .ld off) t.val (fun _ => false) ∧
    ∃ m ∈ u.mats, u.score = s.score ++
      [⟨s.coreOf s.curG, teamOf s.curG, off, off + 9216, w, m.id⟩] := by
  rw [moveTile_done accepts tile space zero align range room entries w]
  refine ⟨_, rfl, matQueued_next accepts.live _ _ _ fun r _ => by simp [bitOn], ?_⟩
  exact ⟨_, List.mem_append_right _ List.mem_cons_self, rfl⟩

end

/-! ### Products (R119, R120, R123) -/

section
variable {s : State} {a b : Reg} {wa wb : Bool} {na nb : Nat}
  (accepts : s.Accepts ⟨[svs a na wa, svs b nb wb], [], true⟩) (ha : a.val + na ≤ 128) (hb : b.val + nb ≤ 128)
  {top : Nat} (tile : top < s.curLaunch.tiles)
include accepts ha hb tile

theorem productWord_of_accepts (k : Res) : s.productWord a b wa wb na nb top k =
    check s.converged .illegalConvergence (check (fmtRow s.curPath.fmt) .illegalOpcode k) := by
  have regs : (decide (a.val + na ≤ 128) && decide (b.val + nb ≤ 128)) = true := by
    rw [decide_eq_true ha, decide_eq_true hb]
    rfl
  rw [State.productWord, check_true regs, check_true (decide_eq_true tile), State.gated_of_accepts accepts]

theorem productWord_diverged (conv : ¬s.converged = true) (k : Res) :
    s.productWord a b wa wb na nb top k = .trap .illegalConvergence 0 := by
  rw [productWord_of_accepts accepts ha hb tile, check_false conv]

theorem productWord_no_row (conv : s.converged = true) (row : ¬fmtRow s.curPath.fmt = true) (k : Res) :
    s.productWord a b wa wb na nb top k = .trap .illegalOpcode 0 := by
  rw [productWord_of_accepts accepts ha hb tile, check_true conv, check_false row]

theorem productWord_passes (conv : s.converged = true) (row : fmtRow s.curPath.fmt = true) (k : Res) :
    s.productWord a b wa wb na nb top k = k := by
  rw [productWord_of_accepts accepts ha hb tile, check_true conv, check_true row]

end

/-! ### Arrivals (R136) -/

/-- The arrival of a word (R136). -/
def State.arrival (s : State) (t a b : Reg) (num : BitVec 16) : Arrival :=
  ⟨launchOfTeam (teamOf s.curG), s.gangOf s.curG, num.toNat, s.coreOf s.curG, s.curG, s.curS, t.val, s.curPath.fmt,
    a.val, b.val⟩

def State.withArrival (s : State) (x : Arrival) : State := { s with arrivals := s.arrivals ++ [x] }

/-- At a core without arrivals none is there under a key, and no number is taken. -/
theorem no_arrivals {s : State} {core : Nat} (alone : ∀ x ∈ s.arrivals, x.core ≠ core) :
    (∀ l g num, (s.arrivals.any fun x => x.is l g num core) = false) ∧ s.arrivalNums core = [] := by
  refine ⟨fun l g num => List.any_eq_false.2 fun x hx => ?_, ?_⟩
  · simp [Arrival.is, alone x hx]
  · have empty : (s.arrivals.filter fun x => x.core == core) = [] :=
      List.filter_eq_nil_iff.2 fun x hx => by simpa using alone x hx
    rw [State.arrivalNums, empty]
    rfl

/-- A held-back slot keeps its path. -/
theorem heldBack_holdBack {s u : State} (groups : u.groups = s.groups) (hG : u.curG = s.curG)
    (hS : u.curS = s.curS) : HeldBack s u.holdBack := by
  have slot : (u.holdBack.cur.slot s.curS) = { s.cur.slot s.curS with waiting := true } := by
    rw [State.holdBack, State.modCur_eq, State.cur_setGroup, cur_of_groups groups hG, hS, Group.slot_setSlot_self]
  rw [HeldBack, slot]
  exact ⟨rfl, rfl⟩

section
variable {s : State} {t a b : Reg} {wa wb : Bool} (num : BitVec 16)
  (accepts : s.Accepts ⟨[svs a (quarterRegs (fmtA s.curPath.fmt)) wa, svs b (quarterRegs (fmtB s.curPath.fmt)) wb],
    [], true⟩)
  (tile : t.val + 8 < s.curLaunch.tiles) (ha : a.val + quarterRegs (fmtA s.curPath.fmt) ≤ 128)
  (hb : b.val + quarterRegs (fmtB s.curPath.fmt) ≤ 128) (conv : s.converged = true)
  (row : fmtRow s.curPath.fmt = true) (new : ∀ x ∈ s.arrivals, ¬(x.gid = s.curG ∧ x.slot1 = s.curS))
include accepts tile ha hb conv row new

theorem execMmac_of_accepts :
    let core := s.coreOf s.curG
    let x := s.arrival t a b num
    execMmac t a b wa wb num s = s.finish (check s.gangHere .access
      (if s.matFull core || s.arrivals.any (fun y => y.is x.launch x.gang x.num core) ||
          (!(s.arrivalNums core).contains x.num && decide (4 ≤ (s.arrivalNums core).length)) then .wait s
        else .wait (s.withArrival x))) := by
  have first : (s.arrivals.any fun x => x.gid == s.curG && x.slot1 == s.curS) = false :=
    List.any_eq_false.2 fun x hx => by simpa using new x hx
  dsimp only [execMmac]
  rw [first, if_neg Bool.false_ne_true, productWord_passes accepts ha hb tile conv row]
  rfl

theorem mmac_without_gang (gang : s.gangHere = false) : Traps (.mmac t a b wa wb num) s .access 0 := by
  refine (execMmac_of_accepts num accepts tile ha hb conv row new).trans ?_
  rw [check_false (by rw [gang]; decide), State.finish_trap]

/-- The word enters its arrival and stays. -/
theorem mmac_arrives (gang : s.gangHere = true) (room : s.MatRoom (s.coreOf s.curG))
    (alone : ∀ x ∈ s.arrivals, x.core ≠ s.coreOf s.curG) :
    exec (.mmac t a b wa wb num) s = .next (s.withArrival (s.arrival t a b num)).holdBack := by
  obtain ⟨key, nums⟩ := no_arrivals alone
  refine (execMmac_of_accepts num accepts tile ha hb conv row new).trans ?_
  rw [check_true gang, matFull_of_room room, key, nums]
  rfl

end

/-! ### Batches (R131, R132) -/

theorem Group.raise_zero (g : Group) : g.raise 0 = g := by simp [Group.raise]

/-- A group with its open batch sealed: the next batch and those that are sealed. -/
def Group.sealBatch (g : Group) (next : Nat) (sealed : List Nat) : Group :=
  { g with matBatch := next, matSealed := sealed }

theorem Group.next_sealBatch (g : Group) (next : Nat) (sealed : List Nat) (b : Bool) (n : Nat) :
    (g.sealBatch next sealed).next b n = (g.next b n).sealBatch next sealed := by
  cases b <;> rfl

/-- The number of the sealed batch is the result of `mseal`; the batch joins those that are sealed. -/
theorem mseal_seals {s : State} {d : Reg} (accepts : s.Accepts ⟨[], [dg d], false⟩)
    (few : (s.matLeft s.curG).length < 128) : Gives (.mseal d) s fun u => ∃ s1,
      Wrote s s1 0 [] [(d.val, BitVec.ofNat 64 s.cur.matBatch)] 4 0 ∧
      u = s1.setGroup s.curG (s1.cur.sealBatch ((s.cur.matBatch + 1) % 65536)
        (s.matLeft s.curG ++ [s.cur.matBatch])) := by
  have exe : exec (.mseal d) s = .next ((s.modCur fun g => (g.setG s.curS d.val
      (BitVec.ofNat 64 s.cur.matBatch)).sealBatch ((s.cur.matBatch + 1) % 65536)
        (s.matLeft s.curG ++ [s.cur.matBatch])).next 4) := by
    refine Eq.trans (b := s.finish (s.gated ⟨[], [dg d], false⟩ _)) rfl ?_
    rw [State.gated_of_accepts accepts, if_neg (not_le.2 few)]
    rfl
  refine ⟨_, exe, _, State.uniResult_wrote accepts.live 0 d 4 (BitVec.ofNat 64 s.cur.matBatch, 0), ?_⟩
  rw [State.uniResult, State.next_modCur, State.next_modCur, State.cur_setGroup, State.setGroup_setGroup,
    Group.next_sealBatch, Group.raise_zero]

theorem mseal_waits {s : State} {d : Reg} (accepts : s.Accepts ⟨[], [dg d], false⟩)
    (many : 128 ≤ (s.matLeft s.curG).length) : Waits (.mseal d) s := by
  refine Eq.trans (b := s.finish (s.gated ⟨[], [dg d], false⟩ _)) rfl ?_
  rw [State.gated_of_accepts accepts, if_pos many, State.finish_wait]

/-! ### The words -/

theorem mzero_words (s : State) (t : Reg) (live : s.Live) :
    (t.val < s.curLaunch.tiles →
      (s.MatRoom (s.coreOf s.curG) → Gives (.mzero t) s fun u => MatQueued s u .zero t.val fun _ => false) ∧
      (¬s.MatRoom (s.coreOf s.curG) → Waits (.mzero t) s)) ∧
    (s.curLaunch.tiles ≤ t.val → Traps (.mzero t) s .access 0) := by
  have exe : exec (.mzero t) s = s.finish (check (decide (t.val < s.curLaunch.tiles)) .access
    (if s.matFull (s.coreOf s.curG) then .wait s else .done ((s.queueMat .zero t.val 1 0).next 4))) := rfl
  refine ⟨fun tile => ?_, fun beyond => ?_⟩
  · rw [check_true (decide_eq_true tile)] at exe
    refine ⟨fun room => ?_, fun full => ?_⟩
    · rw [matFull_of_room room] at exe
      exact ⟨_, exe, matQueued_next live s.score .zero t.val fun r _ => by simp [bitOn]⟩
    · rw [if_pos ((matFull_iff s _).2 full)] at exe
      exact exe
  · rw [check_false (by simpa using beyond)] at exe
    exact exe

theorem mma_words {s : State} {t a b : Reg} {wa wb : Bool} :
    let na := fragRegs (fmtA s.curPath.fmt)
    let nb := fragRegs (fmtB s.curPath.fmt)
    s.Accepts ⟨[svs a na wa, svs b nb wb], [], true⟩ → t.val < s.curLaunch.tiles → a.val + na ≤ 128 →
    b.val + nb ≤ 128 →
    (¬s.converged = true → Traps (.mma t a b wa wb) s .illegalConvergence 0) ∧
    (s.converged = true → ¬fmtRow s.curPath.fmt = true → Traps (.mma t a b wa wb) s .illegalOpcode 0) ∧
    (s.converged = true → fmtRow s.curPath.fmt = true → s.MatRoom (s.coreOf s.curG) →
      Gives (.mma t a b wa wb) s fun u => MatQueued s u (.mma (s.cur.run a.val na) (s.cur.run b.val nb)) t.val
        fun r => (decide (a.val ≤ r) && decide (r < a.val + na)) ||
          (decide (b.val ≤ r) && decide (r < b.val + nb))) := by
  intro na nb accepts tile ha hb
  have exe : exec (.mma t a b wa wb) s = s.finish (s.productWord a b wa wb na nb t.val
    (if s.matFull (s.coreOf s.curG) then .wait s
      else .done ((s.queueMat (.mma (s.cur.run a.val na) (s.cur.run b.val nb)) t.val 1
        (regSet 128 a.val na ||| regSet 128 b.val nb)).next 4))) := rfl
  refine ⟨fun conv => ?_, fun conv row => ?_, fun conv row room => ?_⟩
  · rw [Traps, exe, productWord_diverged accepts ha hb tile conv, State.finish_trap]
  · rw [Traps, exe, productWord_no_row accepts ha hb tile conv row, State.finish_trap]
  · rw [productWord_passes accepts ha hb tile conv row, matFull_of_room room] at exe
    refine ⟨_, exe, matQueued_next accepts.live s.score _ t.val fun r hr => ?_⟩
    rw [bitOn_or, bitOn_regSet _ _ hr, bitOn_regSet _ _ hr]

theorem mwait_words (s : State) (cnt : Reg) :
    ((s.matLeft s.curG).length ≤ cnt.val → exec (.mwait cnt) s = .next (s.next 4)) ∧
    (cnt.val < (s.matLeft s.curG).length → Waits (.mwait cnt) s) := by
  have exe : exec (.mwait cnt) s =
    s.finish (if (s.matLeft s.curG).length ≤ cnt.val then .done (s.next 4) else .wait s) := rfl
  refine ⟨fun few => ?_, fun many => ?_⟩
  · rw [exe, if_pos few, State.finish_done]
  · rw [Waits, exe, if_neg (not_le.2 many), State.finish_wait]

/-- Settles O42: each word by its checks in their order, then what it queues, enters or seals. -/
theorem matrixWords : Obligations.MatrixWords := by
  intro s t a b d cnt wa wb num live
  have row := fmtRow_iff s.curPath.fmt
  obtain ⟨mzeroIn, mzeroBeyond⟩ := mzero_words s t live
  obtain ⟨mwaitPasses, mwaitWaits⟩ := mwait_words s cnt
  refine ⟨mzeroIn, mzeroBeyond,
    fun acc tile space zero align range room entries =>
      moveTile_queued acc tile space zero align range room entries false,
    fun acc tile space zero align range room entries =>
      moveTile_queued acc tile space zero align range room entries true, ?_, ?_,
    fun acc => ⟨mseal_seals acc, mseal_waits acc⟩, mwaitPasses, mwaitWaits⟩
  · intro na nb acc tile ha hb
    obtain ⟨diverged, noRow, queued⟩ := mma_words acc tile ha hb
    exact ⟨fun conv => diverged ((converged_iff s).not.2 conv),
      fun conv legal => noRow ((converged_iff s).2 conv) (row.not.2 legal),
      fun conv legal => queued ((converged_iff s).2 conv) (row.2 legal)⟩
  · intro na nb l gang acc tile ha hb conv legal new
    have conv := (converged_iff s).2 conv
    have legal := row.2 legal
    exact ⟨mmac_without_gang num acc tile ha hb conv legal new, fun here room alone =>
      ⟨_, mmac_arrives num acc tile ha hb conv legal new here room alone, heldBack_holdBack rfl rfl rfl,
        rfl, rfl, rfl⟩⟩

end Sys2Proof.Machine
end

section
/-! SUPPORT. Tiles and tile images: what a matrix operation leaves in its team (R126, R129, R130, R137, R140). -/

namespace Sys2Proof.Machine

/-! ### Tiles next to one that is set -/

theorem aget_eq_none_of_keys {α : Type} {m : Assoc α} {q : Nat} (h : ∀ e ∈ m, e.1 ≠ q) : aget m q = none := by
  by_contra some
  obtain ⟨e, mem, eq⟩ := List.mem_map.1 (mem_akeys_iff.2 some)
  exact h e mem eq

theorem aget_filter_of_key {α : Type} (m : Assoc α) {p : Nat → Bool} {q : Nat} (h : p q = true) :
    aget (m.filter fun e => p e.1) q = aget m q := by
  induction m with
  | nil => rfl
  | cons e m ih =>
    by_cases eq : e.1 = q
    · rw [List.filter_cons_of_pos (by rw [eq, h]), aget, aget, if_pos eq, if_pos eq]
    · by_cases keep : p e.1 = true
      · rw [List.filter_cons_of_pos (p := fun e : Nat × α => p e.1) keep, aget, aget, if_neg eq, if_neg eq, ih]
      · rw [List.filter_cons_of_neg (p := fun e : Nat × α => p e.1) keep, ih, aget, if_neg eq]

theorem tileAt_setTile_ne (t : Team) {n k : Nat} (f : Nat → Nat → W32) (ne : k ≠ n) {r c : Nat} (hr : r < 48)
    (hc : c < 48) : (t.setTile n f).tileAt k r c = t.tileAt k r c := by
  have listed : aget (tilePlaces.filterMap fun p =>
      let x := f p.1 p.2
      if x = 0 then none else some (2304 * n + 48 * p.1 + p.2, x)) (2304 * k + 48 * r + c) = none := by
    refine aget_eq_none_of_keys fun e he eq => ?_
    obtain ⟨⟨r', c'⟩, mem, val⟩ := List.mem_filterMap.1 he
    have small := mem_tilePlaces.1 mem
    by_cases zero : f r' c' = 0
    · simp [zero] at val
    · simp only [zero, if_false, Option.some.injEq] at val
      subst val
      dsimp only at eq
      omega
  rw [Team.tileAt, Team.tileAt, Team.setTile, aget_append, aget_append, listed, Option.or_none]
  obtain below | above : k < n ∨ n < k := by omega
  · rw [aget_filter_of_key t.tiles (p := fun i => decide (i < 2304 * n)) (decide_eq_true (by omega)),
      aget_filter_none fun x => decide_eq_false (by dsimp only; omega), Option.or_none]
  · rw [aget_filter_of_key t.tiles (p := fun i => decide (2304 * (n + 1) ≤ i)) (decide_eq_true (by omega)),
      aget_filter_none fun x => decide_eq_false (by dsimp only; omega), Option.none_or]

/-- All tiles but those of `p` are as before. -/
def Team.OtherTiles (t u : Team) (p : Nat → Prop) : Prop :=
  ∀ n, ¬p n → ∀ r < 48, ∀ c < 48, u.tileAt n r c = t.tileAt n r c

theorem otherTiles_setTile (t : Team) (n : Nat) (f : Nat → Nat → W32) :
    t.OtherTiles (t.setTile n f) (fun k => k = n) :=
  fun _ ne _ hr _ hc => tileAt_setTile_ne t f ne hr hc

@[simp] theorem Team.setTile_spad (t : Team) (n : Nat) (f : Nat → Nat → W32) : (t.setTile n f).spad = t.spad := rfl
@[simp] theorem Team.markTile_spad (t : Team) (n : Nat) (p : Bool) : (t.markTile n p).spad = t.spad := rfl
@[simp] theorem tileAt_markTile (t : Team) (n : Nat) (p : Bool) (k r c : Nat) :
    (t.markTile n p).tileAt k r c = t.tileAt k r c := rfl

theorem otherTiles_markTile {t u : Team} {p : Nat → Prop} (h : t.OtherTiles u p) (n : Nat) (b : Bool) :
    t.OtherTiles (u.markTile n b) p :=
  fun k out r hr c hc => (tileAt_markTile u n b k r c).trans (h k out r hr c hc)

/-! ### The nine tiles of `mmac` -/

theorem quarterTile_congr {t u : Team} {n : Nat} (f : BitVec 14) (a b : List (List LaneVec)) (i j v w : Nat) {r c : Nat}
    (hr : r < 48) (hc : c < 48) (same : u.tileAt n r c = t.tileAt n r c) :
    (u.quarterTile n f a b i j v w).tileAt n r c = (t.quarterTile n f a b i j v w).tileAt n r c := by
  rw [Team.quarterTile, Team.quarterTile, tileAt_setTile u n _ hr hc, tileAt_setTile t n _ hr hc, same]

/-- The first `k` tiles of `mmac`. -/
def Team.quarters (t : Team) (n place : Nat) (f : BitVec 14) (a b : List (List LaneVec)) (k : Nat) : Team :=
  (List.range k).foldl (fun x y => x.quarterTile (n + y) f a b (place / 4) (place % 4) (y / 3) (y % 3)) t

theorem cooperative_eq (t : Team) (n place : Nat) (f : BitVec 14) (a b : List (List LaneVec)) :
    t.cooperative n place f a b = t.quarters n place f a b 9 := rfl

theorem quarters_succ (t : Team) (n place : Nat) (f : BitVec 14) (a b : List (List LaneVec)) (k : Nat) :
    t.quarters n place f a b (k + 1) =
      (t.quarters n place f a b k).quarterTile (n + k) f a b (place / 4) (place % 4) (k / 3) (k % 3) := by
  rw [Team.quarters, List.range_succ, List.foldl_append]
  rfl

section
variable (t : Team) (n place : Nat) (f : BitVec 14) (a b : List (List LaneVec))

theorem quarters_spad (k : Nat) : (t.quarters n place f a b k).spad = t.spad := by
  induction k with
  | zero => rfl
  | succ k ih => rw [quarters_succ]; exact ih

theorem quarters_otherTiles (k : Nat) :
    t.OtherTiles (t.quarters n place f a b k) (fun m => n ≤ m ∧ m < n + k) := by
  induction k with
  | zero => exact fun _ _ _ _ _ _ => rfl
  | succ k ih =>
    intro m out r hr c hc
    rw [quarters_succ, Team.quarterTile, tileAt_setTile_ne _ _ (by omega) hr hc]
    exact ih m (by omega) r hr c hc

/-- Each tile is that of its own step: no step before it and none after it changes it. -/
theorem quarters_tileAt (k : Nat) {y : Nat} (hy : y < k) {r c : Nat} (hr : r < 48) (hc : c < 48) :
    (t.quarters n place f a b k).tileAt (n + y) r c =
      (t.quarterTile (n + y) f a b (place / 4) (place % 4) (y / 3) (y % 3)).tileAt (n + y) r c := by
  induction k with
  | zero => exact absurd hy (Nat.not_lt_zero y)
  | succ k ih =>
    rw [quarters_succ]
    by_cases last : y = k
    · subst last
      exact quarterTile_congr f a b _ _ _ _ hr hc (quarters_otherTiles t n place f a b y _ (by omega) r hr c hc)
    · rw [Team.quarterTile, tileAt_setTile_ne _ _ (by omega) hr hc]
      exact ih (by omega)

end

/-! ### Tile images (R130) -/

theorem getElem?_flatMap_range {α : Type} {f : Nat → List α} {k : Nat} (len : ∀ i, (f i).length = k) {n i j : Nat}
    (hi : i < n) (hj : j < k) : ((List.range n).flatMap f)[k * i + j]? = (f i)[j]? := by
  have total (n : Nat) : ((List.range n).flatMap f).length = k * n := by
    simp [List.length_flatMap, len, Nat.mul_comm]
  induction n with
  | zero => exact absurd hi (Nat.not_lt_zero i)
  | succ n ih =>
    rw [List.range_succ, List.flatMap_append, List.flatMap_singleton]
    by_cases last : i = n
    · subst last
      rw [List.getElem?_append_right (by rw [total]; omega), total, Nat.add_sub_cancel_left]
    · have before : k * i + j < k * n :=
        calc k * i + j < k * i + k := by omega
          _ = k * (i + 1) := (Nat.mul_succ k i).symm
          _ ≤ k * n := Nat.mul_le_mul_left k (by omega)
      rw [List.getElem?_append_left (by rw [total]; exact before), ih (by omega)]

theorem tileBytes_rows (t : Team) (n : Nat) : t.tileBytes n =
    (List.range 48).flatMap fun r => (List.range 48).flatMap fun c => wBytes (t.tileAt n r c) := by
  simp only [Team.tileBytes, tilePlaces, List.flatMap_assoc, List.flatMap_map]

theorem length_wBytes (x : W32) : (wBytes x).length = 4 := Sys2Proof.Laws.leBytes_length 4 _

theorem length_tileRow (t : Team) (n r : Nat) :
    ((List.range 48).flatMap fun c => wBytes (t.tileAt n r c)).length = 192 := by
  simp [List.length_flatMap, length_wBytes]

theorem length_tileBytes (t : Team) (n : Nat) : (t.tileBytes n).length = 9216 := by
  rw [tileBytes_rows]
  simp [List.length_flatMap, length_wBytes]

theorem tileBytes_getElem? (t : Team) (n : Nat) {r c j : Nat} (hr : r < 48) (hc : c < 48) (hj : j < 4) :
    (t.tileBytes n)[4 * (48 * r + c) + j]? = (wBytes (t.tileAt n r c))[j]? := by
  rw [tileBytes_rows, show 4 * (48 * r + c) + j = 192 * r + (4 * c + j) by omega,
    getElem?_flatMap_range (length_tileRow t n) hr (by omega),
    getElem?_flatMap_range (fun _ => length_wBytes _) hc hj]

/-- The words of an image that is stored to a memory are read back. -/
theorem word_of_tileImage (t : Team) (n off : Nat) (m : List Host.Cell) {r c : Nat} (hr : r < 48) (hc : c < 48) :
    BitVec.ofNat 32 (leNat (bytesAt (setBytes m (runOf off (t.tileBytes n))) (off + 4 * (48 * r + c)) 4)) =
      t.tileAt n r c := by
  have bytes : bytesAt (setBytes m (runOf off (t.tileBytes n))) (off + 4 * (48 * r + c)) 4 =
      wBytes (t.tileAt n r c) := by
    refine List.ext_getElem (by rw [bytesAt_length, length_wBytes]) fun j h h' => ?_
    have hj : j < 4 := by rwa [bytesAt_length] at h
    have inside : 4 * (48 * r + c) + j < (t.tileBytes n).length := by rw [length_tileBytes]; omega
    have found := tileBytes_getElem? t n hr hc hj
    rw [List.getElem?_eq_getElem inside, List.getElem?_eq_getElem h', Option.some.injEq] at found
    simp only [bytesAt, List.getElem_map, List.getElem_range]
    rw [Nat.add_assoc, byteAt_setBytes_runOf m off _ inside, found]
  rw [bytes, wBytes, leNat_word (BitVec.isLt _), BitVec.ofNat_toNat, BitVec.setWidth_eq]

theorem map_markedFrom (off : Nat) (p : Bool) (bs : List Byte) :
    (markedFrom off (bs.map fun b => (b, p))).map (fun d => (d.1, d.2.1)) = runOf off bs := by
  induction bs generalizing off with
  | nil => rfl
  | cons b bs ih => exact congrArg _ (ih (off + 1))

theorem tileAt_putMarked (t : Team) (data : List (Nat × Byte × Bool)) (n r c : Nat) :
    (t.putMarked data).tileAt n r c = t.tileAt n r c := rfl

theorem putMarked_spad (t : Team) (off : Nat) (p : Bool) (bs : List Byte) :
    (t.putMarked (markedFrom off (bs.map fun b => (b, p)))).spad = setBytes t.spad (runOf off bs) := by
  rw [← map_markedFrom off p]
  rfl

end Sys2Proof.Machine
end

section
/-! Matrix operations under way and the rendezvous of `mmac` (O43; R124, R126, R128, R130, R136 to R138). -/

namespace Sys2Proof.Machine

/-! ### The start (R124, R128, R138) -/

theorem State.core_modCore (s : State) (c k : Nat) (f : CoreSt → CoreSt) :
    (s.modCore c f).core k = if k = c then f (s.core c) else s.core k := by
  unfold State.core State.modCore
  rw [aget_aput]
  split <;> rfl

theorem matrixNarrow_alarms {s : State} (alarm : s.host.alarm = true) (core : Nat) :
    Gives (.matrixNarrow core) s fun t => (t.core core).alarm = true ∧
      (t.core core).narrow = (s.core core).narrow ∧ ∀ c, c ≠ core → t.core c = s.core c := by
  have exe : exec (.matrixNarrow core) s = .next (s.modCore core fun c => { c with alarm := true }) :=
    congrArg Host.Outcome.next (if_pos alarm)
  refine ⟨_, exe, ?_, ?_, fun c ne => ?_⟩
  · rw [State.core_modCore, if_pos rfl]
  · rw [State.core_modCore, if_pos rfl]
  · rw [State.core_modCore, if_neg ne]

/-- An operation marked as started, its registers released. -/
def State.startMat (s : State) (id : Nat) : State :=
  { s with mats := s.mats.map fun x => if x.id = id then { x with started := true, held := 0 } else x }

section
variable {s : State} {id : Nat} {m : MatOp} (found : s.mats.find? (fun x => x.id == id) = some m)
include found

theorem exec_matrixOpStart : exec (.matrixOpStart id) s = if !s.matReady m then .next s
    else .next (if m.array then (s.startMat id).modCore m.core fun c => { c with narrow := c.alarm }
      else s.startMat id) := by
  change execMatrixOpStart id s = _
  rw [execMatrixOpStart, found]
  rfl

theorem id_of_found : m.id = id := by simpa using List.find?_some found

theorem mem_startMat : { m with started := true, held := 0 } ∈ (s.startMat id).mats :=
  List.mem_map.2 ⟨m, List.mem_of_find?_eq_some found, if_pos (id_of_found found)⟩

theorem matrixOpStart_ready (ready : s.matReady m = true) : Gives (.matrixOpStart id) s fun t =>
    (∃ x ∈ t.mats, x.id = id ∧ x.started = true ∧ x.held = 0 ∧ x.kind = m.kind ∧ x.tile = m.tile) ∧
    t.teams = s.teams ∧ (m.array = true → (t.core m.core).narrow = (s.core m.core).alarm) := by
  have exe := exec_matrixOpStart found
  rw [ready] at exe
  have mem := mem_startMat found
  have same := id_of_found found
  cases array : m.array <;> rw [array] at exe
  · exact ⟨_, exe, ⟨_, mem, same, rfl, rfl, rfl, rfl⟩, rfl, fun h => absurd h Bool.false_ne_true⟩
  · refine ⟨_, exe, ⟨_, mem, same, rfl, rfl, rfl, rfl⟩, rfl, fun _ => ?_⟩
    rw [if_pos rfl, State.core_modCore, if_pos rfl]
    rfl

/-- An operation before it on one of its tiles keeps an operation from starting. -/
theorem matrixOpStart_waits (earlier : ∃ x ∈ s.matsBefore m, x.meets m = true) :
    exec (.matrixOpStart id) s = .next s := by
  obtain ⟨x, mem, meets⟩ := earlier
  have blocked : (s.matsBefore m).all (fun x => !x.meets m && !(m.array && x.array)) = false :=
    List.all_eq_false.2 ⟨x, mem, by simp [meets]⟩
  have notReady : s.matReady m = false := by
    rw [State.matReady, blocked, Bool.and_false, Bool.false_and]
  rw [exec_matrixOpStart found, notReady, Bool.not_false, if_pos rfl]

end

/-! ### The completion (R130, R131) -/

/-- An operation has left the queue and the scoreboard; homes and groups are as before, and its team has its effect. -/
structure MatCompleted (s t : State) (id : Nat) (m : MatOp) : Prop where
  mats : t.mats = s.mats.filter fun x => x.id != id
  score : t.score = s.score.filter fun e => e.op != id
  mem : t.mem = s.mem
  groups : t.groups = s.groups
  team : t.team (teamOf m.gid) = m.effect (s.team (teamOf m.gid))

theorem settleExit_of_not_draining {s : State} {gid : Nat} (h : (s.group gid).status ≠ .draining) :
    s.settleExit gid = s := by
  rw [State.settleExit, beq_eq_false_iff_ne.2 h]
  rfl

theorem matrixOpComplete_gives {s : State} {id : Nat} {m : MatOp} (found : s.mats.find? (fun x => x.id == id) = some m)
    (started : m.started = true) (here : (s.group m.gid).status ≠ .draining)
    (free : (s.score.all fun e => e.op != id || scoreFree s.score e) = true) :
    Gives (.matrixOpComplete id) s fun t => MatCompleted s t id m := by
  have move : s.moveFree m = true := by rwa [State.moveFree, id_of_found found]
  let u : State := { s.modTeam (teamOf m.gid) m.effect with
    mats := s.mats.filter fun x => x.id != id, score := s.score.filter fun e => e.op != id }
  have exe : exec (.matrixOpComplete id) s = .next (u.settleExit m.gid) := by
    change execMatrixOpComplete id s = _
    rw [execMatrixOpComplete, found]
    exact if_neg (by simp [started, move])
  rw [settleExit_of_not_draining (show (u.group m.gid).status ≠ .draining from here)] at exe
  refine ⟨u, exe, rfl, rfl, rfl, rfl, ?_⟩
  simp [u, State.team, State.modTeam, State.setTeam]

/-! ### Effects on the team -/

section
variable {m : MatOp} (t : Team)

theorem effect_zero (kind : m.kind = .zero) :
    t.OtherTiles (m.effect t) (fun n => n = m.tile) ∧ (∀ r < 48, ∀ c < 48, (m.effect t).tileAt m.tile r c = 0) ∧
    m.tile ∉ (m.effect t).tilePoison ∧ (m.effect t).spad = t.spad := by
  simp only [MatOp.effect, kind]
  refine ⟨otherTiles_markTile (otherTiles_setTile t m.tile _) m.tile false, fun r hr c hc => ?_, ?_, ?_⟩
  · rw [tileAt_markTile, tileAt_setTile t m.tile _ hr hc]
  · simp [Team.markTile]
  · rw [Team.markTile_spad, Team.setTile_spad]

theorem effect_ld {off : Nat} (kind : m.kind = .ld off) :
    t.OtherTiles (m.effect t) (fun n => n = m.tile) ∧
    (∀ r < 48, ∀ c < 48, (m.effect t).tileAt m.tile r c =
      BitVec.ofNat 32 (leNat (bytesAt t.spad (off + 4 * (48 * r + c)) 4))) ∧
    (m.effect t).spad = t.spad := by
  simp only [MatOp.effect, kind]
  refine ⟨otherTiles_markTile (otherTiles_setTile t m.tile _) m.tile _, fun r hr c hc => ?_, ?_⟩
  · rw [tileAt_markTile, tileAt_setTile t m.tile _ hr hc, Team.spadBytes]
  · rw [Team.markTile_spad, Team.setTile_spad]

theorem effect_st {off : Nat} (kind : m.kind = .st off) :
    t.OtherTiles (m.effect t) (fun _ => False) ∧
    (∀ r < 48, ∀ c < 48, BitVec.ofNat 32 (leNat (bytesAt (m.effect t).spad (off + 4 * (48 * r + c)) 4)) =
      t.tileAt m.tile r c) ∧
    ∀ k, k < off ∨ off + 9216 ≤ k → byteAt (m.effect t).spad k = byteAt t.spad k := by
  have effect : m.effect t = t.putMarked
      (markedFrom off ((t.tileBytes m.tile).map fun b => (b, t.tilePoison.contains m.tile))) := by
    rw [MatOp.effect, kind]
  have spad : (m.effect t).spad = setBytes t.spad (runOf off (t.tileBytes m.tile)) := by
    rw [effect, putMarked_spad]
  refine ⟨fun n _ r _ c _ => ?_, fun r hr c hc => ?_, fun k out => ?_⟩
  · rw [effect, tileAt_putMarked]
  · rw [spad, word_of_tileImage t m.tile off t.spad hr hc]
  · rw [spad, byteAt_setBytes_runOf_of_outside _ _ _ (by rwa [length_tileBytes])]

theorem effect_mma {a b : List LaneVec} (kind : m.kind = .mma a b) :
    t.OtherTiles (m.effect t) (fun n => n = m.tile) ∧ (m.effect t).spad = t.spad ∧
    m.effect t = t.product m.tile m.fmt a b := by
  simp only [MatOp.effect, kind, Team.product]
  exact ⟨otherTiles_setTile t m.tile _, Team.setTile_spad t m.tile _, trivial⟩

theorem effect_mmac {a b : List (List LaneVec)} (kind : m.kind = .mmac a b) :
    t.OtherTiles (m.effect t) (fun n => m.tile ≤ n ∧ n < m.tile + 9) ∧ (m.effect t).spad = t.spad ∧
    ∀ y < 9, ∀ r < 48, ∀ c < 48, (m.effect t).tileAt (m.tile + y) r c =
      (t.quarterTile (m.tile + y) m.fmt a b (m.core % 16 / 4) (m.core % 4) (y / 3) (y % 3)).tileAt
        (m.tile + y) r c := by
  simp only [MatOp.effect, kind, cooperative_eq]
  refine ⟨quarters_otherTiles t _ _ _ a b 9, quarters_spad t _ _ _ a b 9, fun y hy r hr c hc => ?_⟩
  rw [quarters_tileAt t _ _ _ a b 9 hy hr hc, Nat.mod_mod_of_dvd m.core (by decide : 4 ∣ 16)]

end

/-! ### The rendezvous (R136, R137) -/

/-- An arrival issues: its operation is queued under the number of its group's open batch, and its path moves on. -/
def State.issueArrival (kind : MatKind) (t : State) (x : Arrival) : State :=
  ((t.asArrival x).queueMat kind x.tile 9 x.held).next 8

/-- An arrival has issued from a state. -/
structure ArrivalIssued (kind : MatKind) (s t : State) (x : Arrival) : Prop where
  gone : x ∉ t.arrivals
  group : t.group x.gid = (s.group x.gid).next x.slot1 8
  queued : ∃ q ∈ t.mats, q.gid = x.gid ∧ q.tile = x.tile ∧ q.ntiles = 9 ∧ q.held = x.held ∧
    q.batch = (s.group x.gid).matBatch ∧ q.started = false ∧ q.kind = kind

section
variable (kind : MatKind)

theorem issueArrival_issued (s : State) (x : Arrival) : ArrivalIssued kind s (s.issueArrival kind x) x where
  gone mem := by simpa using (List.mem_filter.1 mem).2
  group := State.group_setGroup_self _ _ _
  queued := ⟨_, List.mem_append_right _ List.mem_cons_self, rfl, rfl, rfl, rfl, rfl, rfl, rfl⟩

theorem group_issueArrival_ne (s : State) {x : Arrival} {gid : Nat} (ne : gid ≠ x.gid) :
    (s.issueArrival kind x).group gid = s.group gid :=
  State.group_setGroup_ne _ _ ne

/-- The issue of another group's arrival changes nothing of one that has issued. -/
theorem ArrivalIssued.issue_other {s t : State} {x y : Arrival} (h : ArrivalIssued kind s t x)
    (ne : x.gid ≠ y.gid) : ArrivalIssued kind s (t.issueArrival kind y) x where
  gone mem := h.gone (List.mem_filter.1 mem).1
  group := (group_issueArrival_ne kind t ne).trans h.group
  queued := h.queued.imp fun _ hq => ⟨List.mem_append_left _ hq.1, hq.2⟩

theorem ArrivalIssued.issue_others {s t : State} {x : Arrival} (h : ArrivalIssued kind s t x) {ys : List Arrival}
    (ne : ∀ y ∈ ys, x.gid ≠ y.gid) : ArrivalIssued kind s (ys.foldl (State.issueArrival kind) t) x := by
  induction ys generalizing t with
  | nil => exact h
  | cons y ys ih =>
    exact ih (h.issue_other kind (ne y List.mem_cons_self)) fun z hz => ne z (List.mem_cons_of_mem _ hz)

/-- Arrivals of distinct groups that issue one after the other have all issued. -/
theorem arrivals_issued {s : State} {xs : List Arrival} (distinct : (xs.map (·.gid)).Nodup) :
    ∀ x ∈ xs, ArrivalIssued kind s (xs.foldl (State.issueArrival kind) s) x := by
  induction xs generalizing s with
  | nil => simp
  | cons y ys ih =>
    obtain ⟨fresh, rest⟩ := List.nodup_cons.1 distinct
    have ne : ∀ z ∈ ys, z.gid ≠ y.gid := fun z hz eq => fresh (List.mem_map.2 ⟨z, hz, eq⟩)
    intro x hx
    rcases List.mem_cons.1 hx with rfl | hx
    · exact (issueArrival_issued kind s x).issue_others kind fun z hz => (ne z hz).symm
    · obtain ⟨gone, group, queued⟩ := ih (s := s.issueArrival kind y) rest x hx
      rw [group_issueArrival_ne kind s (ne x hx)] at group queued
      exact ⟨gone, group, queued⟩

end

/-- The latched formats of the arrivals agree with that of the first. -/
def sameFormats (xs : List Arrival) : Bool :=
  xs.all fun x => x.fmt.toNat % 2 ^ 9 == (xs.head?.map fun y => y.fmt.toNat % 2 ^ 9).getD 0

theorem sameFormats_iff (xs : List Arrival) :
    sameFormats xs = true ↔ ∀ x ∈ xs, ∀ y ∈ xs, x.fmt.toNat % 512 = y.fmt.toNat % 512 := by
  cases xs with
  | nil => simp [sameFormats]
  | cons z zs =>
    have first : sameFormats (z :: zs) = true ↔ ∀ x ∈ z :: zs, x.fmt.toNat % 512 = z.fmt.toNat % 512 := by
      rw [sameFormats, List.all_eq_true]
      exact forall₂_congr fun x _ => beq_iff_eq
    rw [first]
    exact ⟨fun h x hx y hy => (h x hx).trans (h y hy).symm, fun h x hx => h x hx z List.mem_cons_self⟩

/-- The products' kind once all have arrived: the quarters as they are read (R135). -/
def State.quartersOf (s : State) (xs : List Arrival) : MatKind :=
  .mmac (xs.map fun x => (s.group x.gid).run x.ra (quarterRegs (fmtA x.fmt)))
    (xs.map fun x => (s.group x.gid).run x.rb (quarterRegs (fmtB x.fmt)))

/-- The issuing slot is again that of another state. -/
def State.backTo (s t : State) : State := { t with curG := s.curG, curS := s.curS }

theorem exec_rendezvous {s : State} {launch gang num : Nat} {xs : List Arrival}
    (gathered : s.gathered launch gang num = some xs) (read : s.mats.any (s.unread launch gang) = false)
    (clean : ∀ x ∈ xs, (s.group x.gid).poisonV &&& x.held = 0)
    (full : ∀ x ∈ xs, (s.group x.gid).emptyV &&& x.held = 0)
    (room : ∀ x ∈ xs, s.MatRoom x.core) : exec (.mmacRendezvous launch gang num) s =
      if sameFormats xs then .next (s.backTo (xs.foldl (State.issueArrival (s.quartersOf xs)) s))
      else .next (s.backTo (xs.foldl (fun t x => (t.asArrival x).takeTrap .illegalConvergence 0) s)) := by
  have noPoison : (xs.find? fun x => (s.group x.gid).poisonV &&& x.held != 0) = none :=
    List.find?_eq_none.2 fun x hx => by simp [clean x hx]
  have noEmpty : (xs.any fun x => (s.group x.gid).emptyV &&& x.held != 0) = false :=
    List.any_eq_false.2 fun x hx => by simp [full x hx]
  have noFull : (xs.any fun x => s.matFull x.core) = false :=
    List.any_eq_false.2 fun x hx => by simp [matFull_of_room (room x hx)]
  change execMmacRendezvous launch gang num s = _
  rw [execMmacRendezvous, read, if_neg Bool.false_ne_true, gathered]
  dsimp only
  rw [noPoison, noEmpty, noFull]
  change (if !sameFormats xs then _ else _) = _
  cases sameFormats xs <;> rfl

/-- Settles O43: the start by what stands before the operation, the completion by the effect on the team, and the
rendezvous by the issue of the sixteen arrivals one after the other. -/
theorem matrixEvents : Obligations.MatrixEvents := by
  intro s id launch gang num core m xs tk back reads
  refine ⟨fun unread => if_pos unread, fun alarm => matrixNarrow_alarms alarm core, fun found =>
    ⟨matrixOpStart_ready found, matrixOpStart_waits found, fun started here free => ?_⟩,
    fun gathered read distinct ready => ?_⟩
  · intro done
    obtain ⟨t, exe, mats, score, mem, groups, team⟩ := matrixOpComplete_gives found started here free
    have completes (p : Nat → Prop) (others : (s.team tk).OtherTiles (m.effect (s.team tk)) p) : done t p :=
      ⟨mats, score, mem, groups, team ▸ others⟩
    refine ⟨fun kind => ⟨t, exe, ?_⟩, fun off kind => ⟨t, exe, ?_⟩, fun off kind => ⟨t, exe, ?_⟩,
      fun a b kind => ⟨t, exe, ?_⟩, fun a b kind => ⟨t, exe, ?_⟩⟩
    · obtain ⟨others, rest⟩ := effect_zero (s.team tk) kind
      exact ⟨completes _ others, team ▸ rest⟩
    · obtain ⟨others, rest⟩ := effect_ld (s.team tk) kind
      exact ⟨completes _ others, team ▸ rest⟩
    · obtain ⟨others, rest⟩ := effect_st (s.team tk) kind
      exact ⟨completes _ others, team ▸ rest⟩
    · obtain ⟨others, spad, product⟩ := effect_mma (s.team tk) kind
      refine ⟨completes _ others, team ▸ spad, fun r _ c _ => ?_⟩
      rw [team, product]
    · obtain ⟨others, rest⟩ := effect_mmac (s.team tk) kind
      exact ⟨completes _ others, team ▸ rest⟩
  · have exe := exec_rendezvous gathered read (fun x hx => (ready x hx).1) (fun x hx => (ready x hx).2.1)
      fun x hx => (ready x hx).2.2
    refine ⟨fun same => ?_, fun differ => ?_⟩
    · rw [if_pos ((sameFormats_iff xs).2 same)] at exe
      refine ⟨_, exe, rfl, rfl, fun x hx => ?_⟩
      obtain ⟨gone, group, queued⟩ := arrivals_issued (s.quartersOf xs) (s := s) distinct x hx
      refine ⟨gone, ?_, queued⟩
      change (((xs.foldl (State.issueArrival (s.quartersOf xs)) s).group x.gid).slot x.slot1).path = _
      rw [group, Group.slot_next_self]
      rfl
    · refine exe.trans (if_neg fun same => ?_)
      obtain ⟨x, hx, y, hy, ne⟩ := differ
      exact ne ((sameFormats_iff xs).1 same x hx y hy)

end Sys2Proof.Machine
end

section
/-! Fences, and the clean bytes that an acquire drops (O28; R148, R151, R163, R166, R194). -/

namespace Sys2Proof.Machine

/-! ### `fnc` (R151, R194) -/

section
variable {s : State} (plain : s.inRegion s.curG = false)
include plain

theorem fnc_acquire (obs : Obs) : exec (.fnc obs .acquire) s = .next (s.acquireReads.next 8) := by
  change s.finish (s.outside _) = _
  rw [State.outside, plain, if_neg Bool.false_ne_true, State.finish_done]

theorem fnc_release (obs : Obs) {ord : Order} (rel : ord = .release ∨ ord = .acqRel) :
    exec (.fnc obs ord) s = s.finish (s.release (obs.c || obs.x || obs.m || obs.p || obs.h) (.done (s.next 8))) := by
  rcases rel with rfl | rfl <;>
  · change s.finish (s.outside _) = _
    rw [State.outside, plain, if_neg Bool.false_ne_true]

end

/-- A release may be performed when the group's reads have bound, its counted writes are acknowledged and, with
observers beyond the team, its cluster has no write-back under way (R148, R163). -/
theorem State.released_iff (s : State) (wide : Bool) : s.released wide = true ↔
    s.readsBound = true ∧ s.cur.uwc = 0 ∧ (wide = true → s.evicting s.curCluster = false) := by
  cases wide <;> simp [State.released, and_assoc]

/-! ### Entries of a cluster copy -/

theorem ownerOfCopy_copyKey {c key : Nat} (h : key < 2 ^ 112) : ownerOfCopy (copyKey c key) = c := by
  rw [ownerOfCopy, copyKey]
  omega

theorem keyOfCopy_copyKey {c key : Nat} (h : key < 2 ^ 112) : keyOfCopy (copyKey c key) = key := by
  rw [keyOfCopy, copyKey]
  omega

theorem aget_of_mem {α : Type} {m : Assoc α} (hm : rising m = true) {e : Nat × α} (h : e ∈ m) :
    aget m e.1 = some e.2 := by
  rw [rising_iff] at hm
  induction m with
  | nil => cases h
  | cons f r ih =>
    obtain ⟨first, rest⟩ := List.pairwise_cons.1 hm
    rcases List.mem_cons.1 h with rfl | h
    · exact if_pos rfl
    · exact (if_neg (Nat.ne_of_lt (first e h))).trans (ih rest h)

/-! ### The bytes that an acquire drops (R166) -/

section
variable (s : State) (cl : Nat) (p : Nat → Bool)

theorem mem_dropSectors (e : Nat × L1Byte) : e ∈ (s.dropSectors cl p).mem.l1 ↔ e ∈ s.mem.l1 ∧
    ¬(ownerOfCopy e.1 = cl ∧ p (sectorOf (keyOfCopy e.1)) = true ∧ e.2.st = 0) := by
  simp only [State.dropSectors, State.modMem, List.mem_filter, Bool.not_eq_true', ← Bool.not_eq_true,
    Bool.and_eq_true, beq_iff_eq, and_assoc]

theorem homeByte_dropSectors (key : Nat) : (s.dropSectors cl p).homeByte cl key = s.homeByte cl key := rfl

variable {s cl p} {key : Nat} (small : key < 2 ^ 80) (chosen : p (sectorOf key) = true)
include small chosen

/-- No byte of a chosen sector stays valid where all that the copy holds of it is clean. -/
theorem copy_dropSectors (canon : rising s.mem.l1 = true)
    (clean : ∀ b, aget s.mem.l1 (copyKey cl key) = some b → b.st = 0) :
    aget (s.dropSectors cl p).mem.l1 (copyKey cl key) = none := by
  refine aget_eq_none_of_keys fun e he same => ?_
  obtain ⟨held, kept⟩ := (mem_dropSectors s cl p e).1 he
  have st : e.2.st = 0 := clean _ (same ▸ aget_of_mem canon held)
  refine kept ⟨?_, ?_, st⟩
  · rw [same, ownerOfCopy_copyKey (by omega)]
  · rw [same, keyOfCopy_copyKey (by omega), chosen]

theorem visitor_dropSectors : aget (s.dropSectors cl p).mem.vis (copyKey (dieOfCluster cl) key) = none := by
  have fits : key < 2 ^ 112 := by omega
  refine aget_filter_none fun x => ?_
  rw [ownerOfCopy_copyKey fits, keyOfCopy_copyKey fits, chosen, beq_self_eq_true]
  rfl

/-- A read of such a byte finds the home's. -/
theorem readByte_dropSectors (canon : rising s.mem.l1 = true)
    (clean : ∀ b, aget s.mem.l1 (copyKey cl key) = some b → b.st = 0) :
    (s.dropSectors cl p).readByte cl key = s.homeByte cl key := by
  rw [State.readByte, copy_dropSectors small chosen canon clean, visitor_dropSectors small chosen]
  exact homeByte_dropSectors s cl p key

end

theorem State.homeByte_of_idle {s : State} (regions : s.regions = []) (copies : s.copies = []) (cl key : Nat) :
    s.homeByte cl key = byteAt s.mem.home key := by
  have none_held : s.heldWrites = [] := by simp [State.heldWrites, regions, copies]
  simp [State.homeByte, none_held]

/-- Settles O28: a release by its three conditions, and a dropped byte by what the copy and the visitor lines still
hold of it. -/
theorem fencesAndAcquires : Obligations.FencesAndAcquires := by
  refine ⟨fun s obs ord _ plain => ⟨⟨_, fnc_acquire plain obs, rfl, rfl⟩, fun rel => ?_⟩, fun s cl p => ?_⟩
  · rw [fnc_release plain obs rel, State.release]
    refine ⟨fun bound counted sent => ?_, fun owed => ?_⟩
    · rw [if_pos ((s.released_iff _).2 ⟨bound, counted, sent⟩), State.finish_done]
    · rw [if_neg, State.finish_wait]
      rw [State.released_iff]
      rintro ⟨bound, counted, sent⟩
      rcases owed with unbound | count | ⟨wide, evicting⟩
      · exact Bool.false_ne_true (unbound.symm.trans bound)
      · exact count counted
      · exact Bool.false_ne_true ((sent wide).symm.trans evicting)
  · refine ⟨rfl, mem_dropSectors s cl p, fun key small chosen clean canon => ?_⟩
    have read := readByte_dropSectors small chosen canon clean
    exact ⟨read, fun regions copies => read.trans (State.homeByte_of_idle regions copies cl key)⟩

end Sys2Proof.Machine
end

section
/-! SUPPORT. Write requests on their way: what each operation of R147, R160 to R162, R167 leaves. -/

namespace Sys2Proof.Machine

/-! ### Byte writes and counts in a map -/

theorem dedup_eq_nil {l : List Nat} : dedup l = [] ↔ l = [] := by
  cases l <;> simp [dedup]

theorem nodup_dedup (l : List Nat) : (dedup l).Nodup := by
  induction l with
  | nil => exact List.nodup_nil
  | cons x r ih => exact List.nodup_cons.2 ⟨by simp, ih.filter _⟩

/-- Of byte writes to different bytes each one is read back. -/
theorem byteAt_setBytes_of_mem (m : List Host.Cell) {l : List (Nat × Byte)} (distinct : (l.map (·.1)).Nodup)
    {d : Nat × Byte} (h : d ∈ l) : byteAt (setBytes m l) d.1 = d.2 := by
  induction l generalizing m with
  | nil => cases h
  | cons e r ih =>
    obtain ⟨new, rest⟩ := List.nodup_cons.1 distinct
    rcases List.mem_cons.1 h with rfl | h
    · refine (byteAt_setBytes_of_not_mem _ r fun e he same => ?_).trans (byteAt_setByte_self m d.1 d.2)
      exact new (List.mem_map.2 ⟨e, he, same⟩)
    · exact ih _ rest h

/-- Row versions advanced by one for each row of a list (R30). -/
theorem aget_bump {rows : List Nat} (distinct : rows.Nodup) (v : Assoc W32) {row : Nat} (h : row ∈ rows) :
    (aget (rows.foldl (fun v r => aput v r ((aget v r).getD 0 + 1)) v) row).getD 0 = (aget v row).getD 0 + 1 := by
  have other {rows : List Nat} (v : Assoc W32) (out : row ∉ rows) :
      aget (rows.foldl (fun v r => aput v r ((aget v r).getD 0 + 1)) v) row = aget v row :=
    List.foldlRecOn rows _ (motive := fun u => aget u row = aget v row) rfl fun u hu r hr =>
      (aget_aput_ne u _ fun same : row = r => out (same ▸ hr)).trans hu
  induction rows generalizing v with
  | nil => cases h
  | cons r rows ih =>
    obtain ⟨new, rest⟩ := List.nodup_cons.1 distinct
    rw [List.foldl_cons]
    rcases List.mem_cons.1 h with rfl | h
    · rw [other _ new, aget_aput_self, Option.getD_some]
    · rw [ih rest _ h, aget_aput_ne _ _ fun same : row = r => new (same ▸ h)]

/-! ### Bytes that enter a cluster copy (R160, R161) -/

theorem copyKey_inj {c k k' : Nat} : copyKey c k = copyKey c k' ↔ k = k' := Nat.add_left_cancel_iff

section
variable (s : State) (cl st : Nat) {data : List (Nat × Byte)}

theorem aget_putL1_of_not_mem {q : Nat} (h : q ∉ data.map fun d => copyKey cl d.1) :
    aget (s.putL1 cl st data).mem.l1 q = aget s.mem.l1 q :=
  List.foldlRecOn data _ (motive := fun l => aget l q = aget s.mem.l1 q) rfl fun l hl d hd =>
    (aget_aput_ne l _ fun same => h (List.mem_map.2 ⟨d, hd, same.symm⟩)).trans hl

theorem aget_putL1_of_mem (distinct : (data.map (·.1)).Nodup) {d : Nat × Byte} (h : d ∈ data) :
    aget (s.putL1 cl st data).mem.l1 (copyKey cl d.1) = some ⟨d.2, st⟩ := by
  induction data generalizing s with
  | nil => cases h
  | cons e r ih =>
    obtain ⟨new, rest⟩ := List.nodup_cons.1 distinct
    have step : s.putL1 cl st (e :: r) = (s.putL1 cl st [e]).putL1 cl st r := rfl
    rw [step]
    rcases List.mem_cons.1 h with rfl | h
    · refine (aget_putL1_of_not_mem _ cl st ?_).trans (aget_aput_self _ _ _)
      simpa [copyKey_inj] using new
    · exact ih _ rest h

end

section
variable {s : State} {data : List (Nat × Byte)}

theorem keyFree_of_no_key (h : ∀ d ∈ data, s.isKeyByte d.1 = false) : s.keyFree data = data :=
  List.filter_eq_self.2 fun d hd => by rw [h d hd]; rfl

/-- Bytes that are not encrypted are stored as they are (R308). -/
theorem sealData_of_plain (rd : Nat → Byte) (whole : Bool) (h : ∀ d ∈ data, s.slotOfKey d.1 = none) :
    s.sealData rd whole data = (data, []) := by
  cases data with
  | nil => rfl
  | cons d r => rw [State.sealData, h d List.mem_cons_self]

theorem slotOfKey_head (plain : ∀ d ∈ data, s.slotOfKey d.1 = none) (written : data ≠ []) :
    s.slotOfKey ((data.map (·.1)).headD 0) = none := by
  obtain ⟨d, r, rfl⟩ := List.exists_cons_of_ne_nil written
  exact plain d List.mem_cons_self

/-- A plain write of bytes that are not encrypted lands dirty in the cluster copy, and nothing is fetched (R161). -/
theorem landL1_of_plain {cl : Nat} (plain : ∀ d ∈ data, s.slotOfKey d.1 = none)
    (free : ∀ d ∈ data, s.isKeyByte d.1 = false) (written : data ≠ []) : s.landL1 cl data = s.putL1 cl 1 data := by
  rw [State.landL1, keyFree_of_no_key free, slotOfKey_head plain written]
  simp only [Option.isNone_none, if_true, State.writeL1, State.sealL1, sealData_of_plain _ _ plain]
  rfl

end

/-! ### Places in a flow (R170, R171) -/

/-- Packet numbers and paths apart, two states are the same. -/
def Rerouted (s t : State) : Prop := ∃ fresh flows nextId, t = { s with fresh, flows, nextId }

theorem Rerouted.trans {s t u : State} (h : Rerouted s t) (h' : Rerouted t u) : Rerouted s u := by
  obtain ⟨_, _, _, rfl⟩ := h
  obtain ⟨fresh, flows, nextId, rfl⟩ := h'
  exact ⟨fresh, flows, nextId, rfl⟩

theorem rerouted_choosePath (s : State) (a b : Nat) : Rerouted s (s.choosePath a b).1 := by
  unfold State.choosePath
  split <;> exact ⟨_, _, _, rfl⟩

theorem rerouted_packet (s : State) (a b : Nat) : Rerouted s (s.packet a b).1 := by
  unfold State.packet
  split
  · exact ⟨_, _, _, rfl⟩
  · exact (rerouted_choosePath s a b).trans ⟨_, _, _, rfl⟩

theorem rerouted_route (s : State) (w : PWrite) : Rerouted s (s.route w).1 := by
  unfold State.route
  refine Rerouted.trans ?_ (rerouted_packet _ _ _)
  split <;> exact ⟨_, _, _, rfl⟩

/-! ### Sending and acknowledgement (R147) -/

theorem sendReady_of_gone {s : State} (gone : ∀ x ∈ s.writes, x.gone = true) : s.sendReady = s := by
  have none_left : (s.writes.filter fun w => !w.gone) = [] := by simpa using gone
  rw [State.sendReady, none_left]
  rfl

/-- A state without the requests of a number. -/
def State.withoutWrite (s : State) (id : Nat) : State := { s with writes := s.writes.filter fun x => x.id != id }

/-- A group that counts one request less (R147). -/
def State.uncount (s : State) (gid : Nat) : State :=
  { s with groups := aupd s.groups gid fun g => { g with uwc := g.uwc - 1 } }

theorem acked_eq (s : State) (w : PWrite) : s.acked w =
    (if w.counted then ((s.withoutWrite w.id).uncount w.gid).settleExit w.gid
      else s.withoutWrite w.id).sendReady := rfl

theorem group_uncount {s : State} {gid : Nat} (here : (aget s.groups gid).isSome = true) :
    (s.uncount gid).group gid = { s.group gid with uwc := (s.group gid).uwc - 1 } := group_aupd _ here

/-- A request is acknowledged: it is gone, and its group counts it no longer. -/
def Acked (s t : State) (w : PWrite) : Prop :=
  t.writes = s.writes.filter (fun x => x.id != w.id) ∧
    (t.group w.gid).uwc = (s.group w.gid).uwc - (if w.counted then 1 else 0)

/-- What an acknowledgement does where every request has left its core and the group is not on its way out. -/
theorem acked_gives {s : State} {w : PWrite} (gone : ∀ x ∈ s.writes, x.gone = true)
    (here : (aget s.groups w.gid).isSome = true) (active : (s.group w.gid).status ≠ .draining) :
    Acked s (s.acked w) w ∧ (s.acked w).mem = s.mem ∧ (s.acked w).teams = s.teams := by
  have left {t : State} (same : t.writes = (s.withoutWrite w.id).writes) : t.sendReady = t :=
    sendReady_of_gone fun x hx => gone x (List.mem_filter.1 (same ▸ hx)).1
  rw [acked_eq, Acked]
  cases w.counted with
  | false =>
    rw [if_neg Bool.false_ne_true, left rfl]
    exact ⟨⟨rfl, rfl⟩, rfl, rfl⟩
  | true =>
    have group : ((s.withoutWrite w.id).uncount w.gid).group w.gid = _ := group_uncount here
    rw [if_pos rfl, settleExit_of_not_draining (by rw [group]; exact active),
      left (t := (s.withoutWrite w.id).uncount w.gid) rfl, group]
    exact ⟨⟨rfl, rfl⟩, rfl, rfl⟩

/-- A strong write that leaves its core goes into the cluster copy on its way to the home (R161). -/
theorem sendWrite_home {s : State} {w : PWrite} (kind : w.kind = .home)
    (plain : ∀ d ∈ w.data, s.slotOfKey d.1 = none) (free : ∀ d ∈ w.data, s.isKeyByte d.1 = false) :
    (s.sendWrite w).mem.home = s.mem.home ∧ (s.sendWrite w).groups = s.groups ∧
      (∃ x ∈ (s.sendWrite w).writes, x.id = w.id ∧ x.gone = true ∧ x.kind = .home ∧ x.data = w.data) ∧
      (s.sendWrite w).mem.l1 =
        (s.putL1 w.cluster (w.id + 2) (w.data.filter fun d => !w.into.contains d.1)).mem.l1 := by
  let u := (s.putL1 w.cluster (w.id + 2) (w.data.filter fun d => !w.into.contains d.1)).passVisitor
    (dieOfCluster w.cluster) w.data
  have sent : s.sendWrite w = (u.route w).1.sentWrite { (u.route w).2 with data := w.data, ew := w.ew } := by
    simp only [State.sendWrite, kind, keyFree_of_no_key free, State.sealL1, sealData_of_plain _ _ plain, if_true]
    rfl
  obtain ⟨fresh, flows, nextId, routed⟩ := rerouted_route u w
  rw [sent, routed]
  exact ⟨rfl, rfl, ⟨_, List.mem_append_right _ (List.mem_singleton.2 rfl), rfl, rfl, kind, rfl⟩, rfl⟩

end Sys2Proof.Machine
end

section
/-! Writes on their way (O38): acknowledgement, evictions, and what is performed at the home. -/

namespace Sys2Proof.Machine

/-! ### `WRITE_ACK` (R142, R147, R161) -/

/-- The event names one element of a request of several: that element acts ahead of the rest (R142). -/
def PWrite.alone (w : PWrite) (part : Nat) : Bool :=
  decide (0 < part ∧ w.ew ≠ 0) && !(w.split (part - 1)).1.isEmpty && !(w.split (part - 1)).2.data.isEmpty

/-- Byte writes of a request stored in a team's scratchpad, where the team still is. -/
def State.storeAt (s : State) (tk : Nat) (data : List (Nat × Byte)) : State :=
  s.landSpad tk fun a => a.modTeam tk fun x => x.storeSpad data

theorem PWrite.alone_zero (w : PWrite) : w.alone 0 = false := by simp [PWrite.alone]

theorem PWrite.alone_of_more {w : PWrite} {k : Nat} (part : (w.split k).1 ≠ []) (more : w.ew < w.data.length) :
    w.alone (k + 1) = true := by
  have wide : w.ew ≠ 0 := fun none => part (by simp [PWrite.split, none])
  have rest : (w.split k).2.data ≠ [] := by
    intro none
    obtain ⟨before, after⟩ := List.append_eq_nil_iff.1 none
    have := List.drop_eq_nil_iff.1 after
    rcases List.take_eq_nil_iff.1 before with zero | empty
    · obtain rfl : k = 0 := (Nat.mul_eq_zero.1 zero).resolve_right wide
      omega
    · simp [empty] at more
  simp [PWrite.alone, wide, part, rest]

section
variable {s : State} {id : Nat} {w : PWrite} (found : s.writes.find? (fun x => x.id == id) = some w)
include found

theorem write_id_of_found : w.id = id := by simpa using List.find?_some found

theorem write_mem_of_found : w ∈ s.writes := List.mem_of_find?_eq_some found

/-- A request that takes the place of the one found is one of the requests. -/
theorem mem_setWrite_found {x : PWrite} (same : x.id = w.id) : x ∈ (s.setWrite x).writes :=
  List.mem_map.2 ⟨w, write_mem_of_found found, if_pos same.symm⟩

theorem exec_writeAck_home (kind : w.kind = .home) (part : Nat) : exec (.writeAck ⟨id, part⟩) s =
    .next (if w.gone then (if w.stage = 2 then s.acked w else s)
      else if !s.maySend w then s
      else if w.alone part && (s.slotOfKey (((w.split (part - 1)).1.map (·.1)).headD 0)).isNone
        then s.enterCopy w (w.split (part - 1)).1
      else s.sendWrite w) := by
  change execWriteAck ⟨id, part⟩ s = _
  rw [execWriteAck, found]
  simp only [kind]
  rfl

theorem exec_writeAck_atom {a : Atom} (kind : w.kind = .atom a) (part : Nat) : exec (.writeAck ⟨id, part⟩) s =
    .next (if w.stage = 2 then s.acked w else s) := by
  change execWriteAck ⟨id, part⟩ s = _
  rw [execWriteAck, found]
  simp only [kind]

theorem exec_writeAck_l1 (kind : w.kind = .l1) (part : Nat) : exec (.writeAck ⟨id, part⟩) s =
    .next (if !s.mayLand w then s
      else if w.alone part then (s.landL1 w.cluster (w.split (part - 1)).1).setWrite (w.split (part - 1)).2
      else (s.landL1 w.cluster w.data).acked w) := by
  change execWriteAck ⟨id, part⟩ s = _
  rw [execWriteAck, found]
  simp only [kind]
  rfl

theorem exec_writeAck_spad {tk : Nat} (kind : w.kind = .spad tk) (part : Nat) : exec (.writeAck ⟨id, part⟩) s =
    .next (if s.ownBefore w then s
      else if w.alone part then (s.storeAt tk (w.split (part - 1)).1).setWrite (w.split (part - 1)).2
      else (s.storeAt tk w.data).acked w) := by
  change execWriteAck ⟨id, part⟩ s = _
  rw [execWriteAck, found]
  simp only [kind]
  rfl

/-! ### A strong write in its core (R142, R161) -/

section
variable (kind : w.kind = .home)
include kind

theorem strongWrite_waits (inCore : w.gone = false) (held : s.maySend w = false) (part : Nat) :
    exec (.writeAck ⟨id, part⟩) s = .next s := by
  rw [exec_writeAck_home found kind, inCore, held]
  rfl

variable (inCore : w.gone = false) (may : s.maySend w = true) (distinct : (w.data.map (·.1)).Nodup)
  (plain : ∀ d ∈ w.data, s.slotOfKey d.1 = none) (free : ∀ d ∈ w.data, s.isKeyByte d.1 = false)
include inCore may distinct plain free

theorem strongWrite_leaves : Gives (.writeAck ⟨id, 0⟩) s fun t => t.mem.home = s.mem.home ∧ t.groups = s.groups ∧
    (∃ x ∈ t.writes, x.id = id ∧ x.gone = true ∧ x.kind = .home ∧ x.data = w.data) ∧
    ∀ p ∈ w.data, p.1 ∉ w.into → aget t.mem.l1 (copyKey w.cluster p.1) = some ⟨p.2, id + 2⟩ := by
  have exe : exec (.writeAck ⟨id, 0⟩) s = .next (s.sendWrite w) := by
    rw [exec_writeAck_home found kind, inCore, may, w.alone_zero]
    rfl
  obtain rfl := write_id_of_found found
  obtain ⟨home, groups, sent, l1⟩ := sendWrite_home kind plain free
  refine ⟨_, exe, home, groups, sent, fun p hp ahead => ?_⟩
  rw [l1]
  exact aget_putL1_of_mem s w.cluster _ (distinct.sublist (List.filter_sublist.map _))
    (List.mem_filter.2 ⟨hp, by simpa using ahead⟩)

theorem strongWrite_enters {k : Nat} (part : (w.split k).1 ≠ []) (more : w.ew < w.data.length) :
    Gives (.writeAck ⟨id, k + 1⟩) s fun t => t.mem.home = s.mem.home ∧ t.groups = s.groups ∧
      (∃ x ∈ t.writes, x.id = id ∧ x.gone = false ∧ x.data = w.data ∧
        x.into = w.into ++ (w.split k).1.map (·.1)) ∧
      (∀ p ∈ (w.split k).1, aget t.mem.l1 (copyKey w.cluster p.1) = some ⟨p.2, id + 2⟩) ∧
      ∀ q, q ∉ (w.split k).1.map (fun p => copyKey w.cluster p.1) → aget t.mem.l1 q = aget s.mem.l1 q := by
  have within : (w.split k).1.Sublist w.data := (List.take_sublist _ _).trans (List.drop_sublist _ _)
  have slot := slotOfKey_head (s := s) (fun d hd => plain d (within.subset hd)) part
  have keys : s.keyFree (w.split k).1 = (w.split k).1 := keyFree_of_no_key fun d hd => free d (within.subset hd)
  let u := (s.putL1 w.cluster (w.id + 2) (w.split k).1).setWrite { w with into := w.into ++ (w.split k).1.map (·.1) }
  have exe : exec (.writeAck ⟨id, k + 1⟩) s = .next u := by
    rw [exec_writeAck_home found kind, inCore, may, w.alone_of_more part more, Nat.add_sub_cancel, slot,
      State.enterCopy, keys]
    rfl
  obtain rfl := write_id_of_found found
  refine ⟨u, exe, rfl, rfl, ⟨_, mem_setWrite_found found rfl, rfl, inCore, rfl, rfl⟩,
    fun p hp => ?_, fun q hq => ?_⟩
  · exact aget_putL1_of_mem s w.cluster _ (distinct.sublist (within.map _)) hp
  · exact aget_putL1_of_not_mem s w.cluster _ hq

end

/-! ### Acknowledged requests (R147) -/

section
variable (gone : ∀ x ∈ s.writes, x.gone = true) (here : (aget s.groups w.gid).isSome = true)
  (active : (s.group w.gid).status ≠ .draining)
include gone here active

/-- A weak write lands in its cluster copy, dirty (R161). -/
theorem weakWrite_lands (kind : w.kind = .l1) (may : s.mayLand w = true) (distinct : (w.data.map (·.1)).Nodup)
    (written : w.data ≠ []) (plain : ∀ d ∈ w.data, s.slotOfKey d.1 = none)
    (free : ∀ d ∈ w.data, s.isKeyByte d.1 = false) :
    Gives (.writeAck ⟨id, 0⟩) s fun t => Acked s t w ∧ t.mem.home = s.mem.home ∧
      ∀ p ∈ w.data, aget t.mem.l1 (copyKey w.cluster p.1) = some ⟨p.2, 1⟩ := by
  have exe : exec (.writeAck ⟨id, 0⟩) s = .next ((s.putL1 w.cluster 1 w.data).acked w) := by
    rw [exec_writeAck_l1 found kind, may, w.alone_zero, landL1_of_plain plain free written]
    rfl
  obtain ⟨acked, mem, -⟩ := acked_gives (s := s.putL1 w.cluster 1 w.data) gone here active
  refine ⟨_, exe, acked, ?_, fun p hp => ?_⟩
  · rw [mem]
    rfl
  · rw [mem]
    exact aget_putL1_of_mem s w.cluster 1 distinct hp

/-- A write lands in another core's scratchpad: its bytes, and no others. -/
theorem spadWrite_lands {tk : Nat} (kind : w.kind = .spad tk) (first : s.ownBefore w = false)
    (resident : (s.team tk).resident = true) (distinct : (w.data.map (·.1)).Nodup) :
    Gives (.writeAck ⟨id, 0⟩) s fun t => Acked s t w ∧ t.mem = s.mem ∧
      (∀ p ∈ w.data, byteAt (t.team tk).spad p.1 = p.2) ∧
      ∀ k, k ∉ w.data.map (·.1) → byteAt (t.team tk).spad k = byteAt (s.team tk).spad k := by
  let u := s.modTeam tk fun x => x.storeSpad w.data
  have exe : exec (.writeAck ⟨id, 0⟩) s = .next (u.acked w) := by
    have lands : s.storeAt tk w.data = u := if_pos resident
    rw [exec_writeAck_spad found kind, first, w.alone_zero, lands]
    rfl
  obtain ⟨acked, mem, teams⟩ := acked_gives (s := u) gone here active
  have spad : ((u.acked w).team tk).spad = setBytes (s.team tk).spad w.data := by
    rw [State.team, teams]
    exact congrArg Team.spad (congrArg (Option.getD · Team.absent) (aget_aput_self s.teams tk _))
  refine ⟨_, exe, acked, mem, fun p hp => ?_, fun k hk => ?_⟩
  · rw [spad, byteAt_setBytes_of_mem _ distinct hp]
  · rw [spad, byteAt_setBytes_of_not_mem _ _ fun e he same => hk (List.mem_map.2 ⟨e, he, same⟩)]

/-- A write that its home has accepted is acknowledged. -/
theorem homeWrite_acks (home : w.kind = .home ∨ ∃ a, w.kind = .atom a) (accepted : w.stage = 2) :
    Gives (.writeAck ⟨id, 0⟩) s fun t => Acked s t w ∧ t.mem = s.mem := by
  have exe : exec (.writeAck ⟨id, 0⟩) s = .next (s.acked w) := by
    rcases home with kind | ⟨a, kind⟩
    · rw [exec_writeAck_home found kind, gone w (write_mem_of_found found), if_pos rfl, if_pos accepted]
    · rw [exec_writeAck_atom found kind, if_pos accepted]
  obtain ⟨acked, mem, -⟩ := acked_gives gone here active
  exact ⟨_, exe, acked, mem⟩

end

theorem homeWrite_waits (left : w.gone = true) (home : w.kind = .home ∨ ∃ a, w.kind = .atom a) (open_ : w.stage ≠ 2) :
    exec (.writeAck ⟨id, 0⟩) s = .next s := by
  rcases home with kind | ⟨a, kind⟩
  · rw [exec_writeAck_home found kind, left, if_pos rfl, if_neg open_]
  · rw [exec_writeAck_atom found kind, if_neg open_]

/-! ### `HOME_WRITE_APPLY` and what holds it (R162, R230) -/

theorem exec_homeWriteApply : exec (.homeWriteApply ⟨id, 0⟩) s =
    if w.kind == .home && s.mayPerform w then
      .next (if w.counted then s.performHome w else (s.performHome w).acked w)
    else .next s := by
  change execHomeWriteApply ⟨id, 0⟩ s = _
  rw [execHomeWriteApply, found]
  rfl

theorem exec_homeAtomicApply_atom {a : Atom} (kind : w.kind = .atom a) : exec (.homeAtomicApply id) s =
    if s.mayPerform w && !s.ownBefore w &&
        w.lines.all (fun l => !s.recallWaits (s.behindAtoms ++ s.heldWrites) fun x => x / 4 == l) then
      .next (s.performAtom w a)
    else .next s := by
  change execHomeAtomicApply id s = _
  rw [execHomeAtomicApply, found]
  simp only [kind]

theorem exec_homeAtomicApply_home (kind : w.kind = .home) : exec (.homeAtomicApply id) s = .next s := by
  change execHomeAtomicApply id s = _
  rw [execHomeAtomicApply, found]
  simp only [kind]

omit found in
/-- Nothing is performed at the home while a region holds its sector. -/
theorem mayPerform_held (held : ∃ x ∈ w.sectors, s.regionHolds x = true) : s.mayPerform w = false := by
  obtain ⟨x, hx, holds⟩ := held
  have blocked : (w.sectors.all fun x => !s.regionHolds x) = false := List.all_eq_false.2 ⟨x, hx, by simp [holds]⟩
  simp [State.mayPerform, blocked]

theorem apply_held (held : ∃ x ∈ w.sectors, s.regionHolds x = true) (home : w.kind = .home ∨ ∃ a, w.kind = .atom a) :
    exec (.homeWriteApply ⟨id, 0⟩) s = .next s ∧ exec (.homeAtomicApply id) s = .next s := by
  have may := mayPerform_held held
  refine ⟨?_, ?_⟩
  · rw [exec_homeWriteApply found, may, Bool.and_false, if_neg Bool.false_ne_true]
  · rcases home with kind | ⟨a, kind⟩
    · exact exec_homeAtomicApply_home found kind
    · rw [exec_homeAtomicApply_atom found kind, may]
      rfl

end

/-! ### What is performed at the home (R30, R162) -/

/-- The rows of some keys are one version on (R30). -/
def Bumped (s t : State) (keys : List Nat) : Prop :=
  ∀ row ∈ s.rowsOf keys, (aget t.mem.versions row).getD 0 = (aget s.mem.versions row).getD 0 + 1

/-- Row versions after a write to some keys. -/
def State.bumpedVersions (s : State) (keys : List Nat) : Assoc W32 :=
  (s.rowsOf keys).foldl (fun v r => aput v r ((aget v r).getD 0 + 1)) s.mem.versions

theorem bumped_of_versions {s t : State} {keys : List Nat} (same : t.mem.versions = s.bumpedVersions keys) :
    Bumped s t keys := by
  intro row h
  rw [same]
  exact aget_bump (nodup_dedup _) s.mem.versions h

section
variable (s : State) (w : PWrite)

theorem home_performHome : (s.performHome w).mem.home = setBytes s.mem.home w.data := by
  rw [State.performHome]
  split <;> rfl

theorem versions_performHome : (s.performHome w).mem.versions = s.bumpedVersions (w.data.map (·.1)) := by
  rw [State.performHome]
  split <;> rfl

theorem writes_performHome : (s.performHome w).writes =
    s.writes.map fun x => if x.id = w.id then { w with stage := 2 } else x := by
  rw [State.performHome]
  split <;> rfl

theorem groups_performHome : (s.performHome w).groups = s.groups := by
  rw [State.performHome, State.setWrite_groups, State.cleanSent, State.modMem_groups]
  split
  · rw [State.modMem_groups]
    rfl
  · rfl

end

section
variable {s : State} {id : Nat} {w : PWrite} (found : s.writes.find? (fun x => x.id == id) = some w)
include found

theorem homeWrite_applies (gone : ∀ x ∈ s.writes, x.gone = true) (here : (aget s.groups w.gid).isSome = true)
    (active : (s.group w.gid).status ≠ .draining) (distinct : (w.data.map (·.1)).Nodup) (kind : w.kind = .home)
    (may : s.mayPerform w = true) : Gives (.homeWriteApply ⟨id, 0⟩) s fun t =>
      (Bumped s t (w.data.map (·.1)) ∧
        if w.counted then ∃ x ∈ t.writes, x.id = id ∧ x.stage = 2 else ∀ x ∈ t.writes, x.id ≠ id) ∧
      (∀ p ∈ w.data, byteAt t.mem.home p.1 = p.2) ∧ HomeOutside s t fun k => k ∈ w.data.map (·.1) := by
  have bumped := bumped_of_versions (versions_performHome s w)
  have exe := exec_homeWriteApply found
  rw [kind, may, beq_self_eq_true, Bool.and_true, if_pos rfl] at exe
  obtain rfl := write_id_of_found found
  have bytes {t : State} (same : t.mem = (s.performHome w).mem) : (∀ p ∈ w.data, byteAt t.mem.home p.1 = p.2) ∧
      HomeOutside s t fun k => k ∈ w.data.map (·.1) := by
    rw [HomeOutside, same, home_performHome]
    exact ⟨fun p hp => byteAt_setBytes_of_mem _ distinct hp, fun k hk =>
      byteAt_setBytes_of_not_mem _ _ fun e he eq => hk (List.mem_map.2 ⟨e, he, eq⟩)⟩
  cases counted : w.counted with
  | true =>
    rw [counted, if_pos rfl] at exe
    refine ⟨_, exe, ⟨bumped, { w with stage := 2 }, ?_, rfl, rfl⟩, bytes rfl⟩
    rw [writes_performHome]
    exact mem_setWrite_found found rfl
  | false =>
    rw [counted, if_neg Bool.false_ne_true] at exe
    have left : ∀ x ∈ (s.performHome w).writes, x.gone = true := by
      intro x hx
      rw [writes_performHome] at hx
      obtain ⟨y, hy, rfl⟩ := List.mem_map.1 hx
      split
      · exact gone w (write_mem_of_found found)
      · exact gone y hy
    obtain ⟨⟨acked, -⟩, mem, -⟩ := acked_gives left (groups_performHome s w ▸ here)
      (by rw [State.group, groups_performHome]; exact active)
    refine ⟨_, exe, ⟨by rw [Bumped, mem]; exact bumped, fun x hx => ?_⟩, bytes mem⟩
    have kept := (List.mem_filter.1 (acked ▸ hx)).2
    exact bne_iff_ne.1 kept

end

end Sys2Proof.Machine
end

section
/-! Lines that leave a cluster copy or the visitor lines of a die (O38; R41, R160, R169). -/

namespace Sys2Proof.Machine

/-! ### Sectors of a line -/

theorem line_of_sector (key : Nat) : sectorOf key / 4 = lineOf key := by
  rw [sectorOf, lineOf, Nat.div_div_eq_div_mul]

theorem mem_sectorsOf {data : List (Nat × Byte)} {sec : Nat} :
    sec ∈ sectorsOf data ↔ ∃ d ∈ data, sectorOf d.1 = sec := by
  rw [sectorsOf, mem_dedup_iff, mem_squeeze, List.mem_map]

section
variable {s : State} {cl : Nat}

/-- A sector in which a cluster holds dirty bytes: it is one of those chosen, and its own dirty bytes are some. -/
theorem dirtyIn_of_mem {p : Nat → Bool} {sec : Nat} (h : sec ∈ s.dirtySectors cl p) :
    p sec = true ∧ s.dirtyIn cl (· == sec) ≠ [] := by
  obtain ⟨d, hd, rfl⟩ := mem_sectorsOf.1 h
  obtain ⟨e, he, rfl⟩ := List.mem_map.1 hd
  simp only [List.mem_filter, Bool.and_eq_true] at he
  obtain ⟨held, ⟨owner, chosen⟩, dirty⟩ := he
  refine ⟨chosen, List.ne_nil_of_mem (List.mem_map.2 ⟨e, List.mem_filter.2 ⟨held, ?_⟩, rfl⟩)⟩
  simp [owner, dirty]

/-! ### A write-back without a count (R160) -/

theorem writeBack_gives {gid sec : Nat} (dirty : s.dirtyIn cl (· == sec) ≠ []) :
    (s.writeBack gid cl sec false).mem.home = s.mem.home ∧
      (s.writeBack gid cl sec false).mem.l1 = (s.cleanDirty cl (· == sec)).mem.l1 ∧
      ∃ x : PWrite, (s.writeBack gid cl sec false).writes = s.writes ++ [x] ∧ x.gone = true ∧ x.kind = .home ∧
        x.cluster = cl ∧ x.counted = false ∧ x.data = s.dirtyIn cl (· == sec) := by
  let s1 := (s.cleanDirty cl (· == sec)).passVisitor (dieOfCluster cl) (s.dirtyIn cl (· == sec))
  let u : State := { s1 with nextId := s1.nextId + 1 }
  let w : PWrite := ⟨s1.nextId, gid, cl, .home, s.dirtyIn cl (· == sec), 0, 1, true, none, none, false, none, false,
    false, true, []⟩
  have sent : s.writeBack gid cl sec false =
      { (u.route w).1 with writes := (u.route w).1.writes ++ [(u.route w).2] } :=
    if_neg (by simpa using dirty)
  obtain ⟨fresh, flows, nextId, routed⟩ := rerouted_route u w
  rw [sent, routed]
  exact ⟨rfl, rfl, _, rfl, rfl, rfl, rfl, rfl, rfl⟩

/-! ### An evicted line (R160) -/

/-- A line has left a copy: the homes are as before, and of the copy only the line's bytes are gone. -/
def LineGone (s t : State) (cl line : Nat) : Prop := t.mem.home = s.mem.home ∧ ∀ e, e ∈ t.mem.l1 ↔ e ∈ s.mem.l1 ∧
  ¬(ownerOfCopy e.1 = cl ∧ lineOf (keyOfCopy e.1) = line)

theorem exec_lineEviction (s : State) {cl : Nat} (line : Nat) (small : cl < 40) : exec (.l1Eviction cl line) s =
    .next (s.evictLine cl line).sendReady := by
  change execL1Eviction cl line s = _
  rw [execL1Eviction, if_pos small]

theorem l1_evictLine (s : State) (cl line : Nat) : (s.evictLine cl line).mem.l1 =
    (s.evictSectors cl fun sec => sec / 4 == line).mem.l1.filter fun e =>
      !(ownerOfCopy e.1 == cl && lineOf (keyOfCopy e.1) == line) := rfl

theorem home_evictLine (s : State) (cl line : Nat) : (s.evictLine cl line).mem.home =
    (s.evictSectors cl fun sec => sec / 4 == line).mem.home := by
  rw [State.evictLine, State.modMem]

theorem writes_evictLine (s : State) (cl line : Nat) : (s.evictLine cl line).writes =
    (s.evictSectors cl fun sec => sec / 4 == line).writes := by
  rw [State.evictLine, State.modMem_writes]

theorem mem_outside_line {l : Assoc L1Byte} {line : Nat} {e : Nat × L1Byte} :
    e ∈ (l.filter fun e => !(ownerOfCopy e.1 == cl && lineOf (keyOfCopy e.1) == line)) ↔
      e ∈ l ∧ ¬(ownerOfCopy e.1 = cl ∧ lineOf (keyOfCopy e.1) = line) := by
  simp only [List.mem_filter, Bool.not_eq_true', ← Bool.not_eq_true, Bool.and_eq_true, beq_iff_eq]

/-- Bytes of a line that have been marked clean are bytes of the line. -/
theorem mem_cleanDirty_outside {sec : Nat} {e : Nat × L1Byte}
    (out : ¬(ownerOfCopy e.1 = cl ∧ lineOf (keyOfCopy e.1) = sec / 4)) :
    e ∈ (s.cleanDirty cl (· == sec)).mem.l1 ↔ e ∈ s.mem.l1 := by
  have kept {x : Nat × L1Byte} (same : x.1 = e.1) :
      ¬(ownerOfCopy x.1 = cl ∧ (sectorOf (keyOfCopy x.1) == sec) = true ∧ x.2.st = 1) := by
    rintro ⟨owner, sector, -⟩
    rw [same] at owner sector
    exact out ⟨owner, by rw [← line_of_sector, beq_iff_eq.1 sector]⟩
  constructor
  · intro h
    obtain ⟨x, hx, rfl⟩ := List.mem_map.1 h
    rwa [if_neg (kept (by split <;> rfl))]
  · exact fun h => List.mem_map.2 ⟨e, h, if_neg (kept rfl)⟩

variable {line : Nat} (small : cl < 40) (left : ∀ x ∈ s.writes, x.gone = true)
include small left

theorem eviction_clean (clean : s.dirtySectors cl (fun x => x / 4 == line) = []) :
    Gives (.l1Eviction cl line) s fun t => LineGone s t cl line ∧ t.writes = s.writes := by
  have none_sent : (s.evictSectors cl fun sec => sec / 4 == line) = s := by
    rw [State.evictSectors, clean]
    rfl
  have writes : (s.evictLine cl line).writes = s.writes := by rw [writes_evictLine, none_sent]
  have exe : exec (.l1Eviction cl line) s = .next (s.evictLine cl line) := by
    rw [exec_lineEviction s line small, sendReady_of_gone (by rw [writes]; exact left)]
  refine ⟨_, exe, ⟨by rw [home_evictLine, none_sent], fun e => ?_⟩, writes⟩
  rw [l1_evictLine, none_sent, mem_outside_line]

theorem eviction_dirty {sec : Nat} (dirty : s.dirtySectors cl (fun x => x / 4 == line) = [sec]) :
    Gives (.l1Eviction cl line) s fun t => LineGone s t cl line ∧ ∃ x : PWrite, t.writes = s.writes ++ [x] ∧
      x.kind = .home ∧ x.cluster = cl ∧ x.counted = false ∧ x.data = s.dirtyIn cl (fun y => y == sec) := by
  obtain ⟨ofLine, some⟩ := dirtyIn_of_mem (dirty ▸ List.mem_singleton.2 rfl)
  obtain rfl : sec / 4 = line := beq_iff_eq.1 ofLine
  have sent : (s.evictSectors cl fun x => x / 4 == sec / 4) = s.writeBack 0 cl sec false := by
    rw [State.evictSectors, dirty]
    rfl
  obtain ⟨home, l1, x, writes, gone, kind, cluster, counted, data⟩ := writeBack_gives (gid := 0) some
  have writes' : (s.evictLine cl (sec / 4)).writes = s.writes ++ [x] := by rw [writes_evictLine, sent, writes]
  have exe : exec (.l1Eviction cl (sec / 4)) s = .next (s.evictLine cl (sec / 4)) := by
    rw [exec_lineEviction s _ small, sendReady_of_gone]
    rw [writes']
    exact List.forall_mem_append.2 ⟨left, by simpa using gone⟩
  refine ⟨_, exe, ⟨by rw [home_evictLine, sent, home], fun e => ?_⟩, x, writes', kind, cluster, counted, data⟩
  rw [l1_evictLine, sent, l1, mem_outside_line]
  exact and_congr_left mem_cleanDirty_outside

end

/-! ### Visitor lines and pinned ranges (R41, R169) -/

section
variable {s : State}

theorem ownedLines_akeys (m : Assoc Byte) (die : Nat) : ownedLines (akeys m) die =
    dedup ((m.filter fun e => ownerOfCopy e.1 == die).map fun e => lineOf (keyOfCopy e.1)) := by
  rw [ownedLines, akeys, List.filter_map, List.map_map]
  rfl

/-- A visitor line stands in the ways of a pinned range: the range has it, and fewer of its lines than its ways hold lie
before it in the die. -/
theorem pinnedLine_iff (die line : Nat) : s.pinnedLine die line = true ↔
    ∃ p ∈ s.mem.pins, p.die = die ∧ p.lo / 256 ≤ line ∧ line ≤ (p.lo + p.len - 1) / 256 ∧
      ((dedup ((s.mem.vis.filter fun e => ownerOfCopy e.1 == die).map fun e => lineOf (keyOfCopy e.1))).filter
        fun x => decide (p.lo / 256 ≤ x) && decide (x < line)).length < 262144 * p.ways := by
  simp only [State.pinnedLine, List.any_eq_true, Pin.holds, Pin.room, ownedLines_akeys, Bool.and_eq_true, beq_iff_eq,
    decide_eq_true_eq, and_assoc]

theorem exec_visitorEviction {cl : Nat} (line : Nat) (die : 40 ≤ cl) : exec (.l1Eviction cl line) s =
    .next (if s.pinnedLine (cl - 40) line then s else s.evictVisitor (cl - 40) line) := by
  change execL1Eviction cl line s = _
  rw [execL1Eviction, if_neg (Nat.not_lt.2 die)]

theorem mem_evictVisitor (die line : Nat) (e : Nat × Byte) : e ∈ (s.evictVisitor die line).mem.vis ↔
    e ∈ s.mem.vis ∧ ¬(ownerOfCopy e.1 = die ∧ lineOf (keyOfCopy e.1) = line) := by
  simp only [State.evictVisitor, State.modMem, List.mem_filter, Bool.not_eq_true', ← Bool.not_eq_true,
    Bool.and_eq_true, beq_iff_eq]

end

end Sys2Proof.Machine
end

section
/-! An atomic at its home (O38; R24, R167, R192, R193). -/

namespace Sys2Proof.Machine

/-! ### The new element (R192) -/

theorem atomBytes_length (a : Atom) (old : List Byte) : (atomBytes a old).length = a.wid :=
  Laws.leBytes_length a.wid _

theorem toNat_minMax {n : Nat} (mx sg : Bool) (x y : BitVec n) : (minMax mx sg x y).toNat =
    if (if sg then x.slt y else x.ult y) = mx then y.toNat else x.toNat := by
  simp only [minMax, bne_iff_ne, ne_eq, ite_not, apply_ite BitVec.toNat]

/-- The value that an element takes is that of the claim, in the element's width. -/
theorem atomApply_mod (op : AtomOp) (wid old : Nat) (b0 b1 : W64) :
    atomApply op wid old b0.toNat b1.toNat % 2 ^ (8 * wid) = elementAfter op wid old b0 b1 := by
  have word (n : Nat) (b : W64) : BitVec.ofNat n b.toNat = b.setWidth n := (BitVec.ofNat_toNat n b)
  have fits (x : BitVec (8 * wid)) : x.toNat % 2 ^ (8 * wid) = x.toNat := Nat.mod_eq_of_lt x.isLt
  cases op <;> simp only [atomApply, elementAfter, word]
  case add | and | or | xor | exch => exact fits _
  case minI =>
    rw [fits, toNat_minMax]
    cases (BitVec.ofNat (8 * wid) old).slt (b0.setWidth (8 * wid)) <;> rfl
  case maxI =>
    rw [fits, toNat_minMax]
    rfl
  case minN | maxN =>
    rw [fits, toNat_minMax]
    simp only [BitVec.ult, Bool.false_eq_true, if_false, decide_eq_false_iff_not, decide_eq_true_eq]
    split <;> omega
  case cas =>
    split
    · rw [Nat.mod_mod, BitVec.toNat_setWidth]
    · exact fits _

theorem leNat_atomBytes (a : Atom) (old : List Byte) :
    leNat (atomBytes a old) = elementAfter a.op a.wid (leNat old) a.b0 a.b1 := by
  rw [atomBytes, leNat_leBytes, ← atomApply_mod, Nat.pow_mul]

/-! ### A line that no cluster has at hand (R167) -/

section
variable {s : State} {line : Nat} (quiet : s.presence (fun x => x == line) = [])
include quiet

theorem unsent_of_quiet : s.unsentClusters (fun sec => sec / 4 == line) = [] := by
  rw [State.presence, dedup_eq_nil, List.append_eq_nil_iff, State.dirtyClusters, dedup_eq_nil,
    List.map_eq_nil_iff] at quiet
  rw [State.unsentClusters, dedup_eq_nil, List.map_eq_nil_iff, List.filter_eq_nil_iff]
  intro e he unsent
  refine List.filter_eq_nil_iff.1 quiet.1 e he ?_
  simp only [Bool.and_eq_true, beq_iff_eq] at unsent
  simp [unsent.1, unsent.2]

/-- No write-back under way has a byte of the line. -/
theorem back_of_quiet {w : PWrite} (hw : w ∈ s.writes) (back : w.back = true) (open_ : w.open_ = true)
    {d : Nat × Byte} (hd : d ∈ w.data) : lineOf d.1 ≠ line := by
  rw [State.presence, dedup_eq_nil, List.append_eq_nil_iff, List.map_eq_nil_iff, List.filter_eq_nil_iff] at quiet
  rintro rfl
  refine quiet.2 w hw ?_
  have has : lineOf d.1 ∈ w.lines := mem_dedup_iff.2 (List.mem_map.2 ⟨d, hd, rfl⟩)
  simp [back, open_, has]

theorem recallWaits_of_quiet (free : List Nat) : s.recallWaits free (fun sec => sec / 4 == line) = false := by
  have still : ((s.writes.filter fun w => w.atHome && w.kind == .home && !free.contains w.id).any fun w =>
      w.back && w.sectors.any fun sec => sec / 4 == line) = false := by
    rw [List.any_eq_false]
    intro w hw
    obtain ⟨held, home⟩ := List.mem_filter.1 hw
    simp only [Bool.and_eq_true, PWrite.atHome, List.any_eq_true, beq_iff_eq] at home ⊢
    rintro ⟨back, sec, hsec, rfl⟩
    obtain ⟨d, hd, rfl⟩ := List.mem_map.1 (mem_dedup_iff.1 hsec)
    exact back_of_quiet quiet held back home.1.1.2 hd (line_of_sector d.1).symm
  simp only [State.recallWaits, still, unsent_of_quiet quiet, List.any_nil, Bool.or_false, Bool.and_false]

theorem recall_of_quiet : s.recall (fun x => x == line) = s := by
  rw [State.recall, State.recallSectors, unsent_of_quiet quiet]
  rfl

end

section
variable {s : State} {key : Nat} (plain : s.slotOfKey key = none)
include plain

/-- Bytes written together with one of a line are of the line. -/
theorem line_of_grain {k : Nat} (same : s.grain k = s.grain key) : lineOf k = lineOf key := by
  simp only [State.grain, plain, Option.isSome_none, Bool.false_eq_true, if_false, unitOf] at same
  rw [lineOf, lineOf]
  split at same <;> omega

theorem takeBacks_of_quiet (quiet : s.presence (fun x => x == lineOf key) = []) :
    s.takeBacks key = s := by
  refine List.foldlRecOn s.writes _ (motive := (· = s)) rfl ?_
  rintro u same w hw
  rw [same]
  split
  · next taken =>
    simp only [Bool.and_eq_true, PWrite.atHome] at taken
    obtain ⟨⟨back, ⟨-, -⟩, open_⟩, -⟩ := taken
    have none_hit : (w.data.any fun d => s.grain d.1 == s.grain key) = false := by
      rw [List.any_eq_false]
      exact fun d hd hit => back_of_quiet quiet hw back open_ hd (line_of_grain plain (beq_iff_eq.1 hit))
    rw [State.performBytes, none_hit]
    rfl
  · rfl

end

/-! ### An element of a table at its home -/

/-- Keys of one table are encrypted under one slot, or none of them is (R305). -/
theorem slotOfKey_congr {s : State} {k k' : Nat} (small : k < 2 ^ 62) (small' : k' < 2 ^ 62)
    (same : k / 2 ^ 42 = k' / 2 ^ 42) : s.slotOfKey k = s.slotOfKey k' := by
  have flat {k : Nat} (h : k < 2 ^ 62) : flatKey k = k := Nat.mod_eq_of_lt (by rw [sideBase]; omega)
  have table {k : Nat} (h : k < 2 ^ 62) : isPriv k = false := by
    rw [isPriv, flat h, privBase, decide_eq_false_iff_not]
    omega
  have tid : tidOfKey k = tidOfKey k' := by rw [tidOfKey, tidOfKey, flat small, flat small', same]
  rw [State.slotOfKey, State.slotOfKey, table small, table small', tid, if_neg Bool.false_ne_true,
    if_neg Bool.false_ne_true]

/-- The keys of an element. -/
def elementKeys (key n : Nat) : List Nat := (List.range n).map (key + ·)

section
variable {s : State} {key n : Nat} (wide : n = 4 ∨ n = 8) (aligned : key % n = 0) (small : key < 2 ^ 62)
include wide aligned small

theorem unitOf_element {k : Nat} (hk : k ∈ elementKeys key n) : unitOf k = unitOf key ∧ lineOf k = lineOf key ∧
    k < 2 ^ 62 := by
  obtain ⟨i, hi, rfl⟩ := List.mem_map.1 hk
  rw [List.mem_range] at hi
  simp only [unitOf, lineOf, flatKey, sideBase]
  rcases wide with rfl | rfl <;> omega

omit aligned small in
theorem head_element : (elementKeys key n).headD 0 = key := by
  rcases wide with rfl | rfl <;> rfl

variable (plain : s.slotOfKey key = none) (sound : s.unitPoisoned key = false)
include plain sound

/-- An element that is neither encrypted nor poisoned is seen as it stands. -/
theorem homeSeen_element : (s.homeSeen (elementKeys key n)).bytes = bytesAt s.mem.home key n ∧
    (s.homeSeen (elementKeys key n)).bad = false := by
  constructor
  · rw [State.homeSeen, State.see_bytes, bytesAt, elementKeys, List.map_map]
    refine List.map_congr_left fun i hi => ?_
    obtain ⟨unit, -, lt⟩ := unitOf_element wide aligned small (List.mem_map.2 ⟨i, hi, rfl⟩)
    refine State.openUnit_plain (lt.trans (by decide)) ?_
    rw [unit, ← plain]
    refine slotOfKey_congr ?_ small ?_ <;> simp only [unitOf, flatKey, sideBase] <;> omega
  · rw [← Bool.not_eq_true, State.homeSeen, State.see_bad]
    rintro ⟨k, hk, poisoned⟩
    rw [(unitOf_element wide aligned small hk).1] at poisoned
    rw [State.unitPoisoned, Bool.or_eq_false_iff] at sound
    rcases poisoned with tag | unit
    · exact Bool.false_ne_true (sound.2.symm.trans tag)
    · exact Bool.false_ne_true (sound.1.symm.trans unit)

end

/-! ### The atomic performed (R24, R167) -/

theorem keys_runOf (key : Nat) (bs : List Byte) : (runOf key bs).map (·.1) = elementKeys key bs.length := by
  induction bs generalizing key with
  | nil => rfl
  | cons b r ih =>
    rw [runOf, List.map_cons, ih, elementKeys, elementKeys, List.length_cons, List.range_succ_eq_map, List.map_cons,
      List.map_map, Nat.add_zero]
    exact congrArg _ (List.map_congr_left fun i _ => Nat.succ_add_eq_add_succ key i)

/-- A producer that waits for the old value of an atomic, once it has it. -/
def Atom.bindFill (a : Atom) (v : List Byte × Bool) (f : Fill) : Fill :=
  match a.fill with
  | some (id, lane) => if f.id = id then f.bindLane lane v else f
  | none => f

theorem bindFill_of_waits {a : Atom} {f : Fill} {lane : Nat} (waits : a.fill = some (f.id, lane))
    (v : List Byte × Bool) : a.bindFill v f = f.bindLane lane v := by
  rw [Atom.bindFill, waits]
  exact if_pos rfl

theorem got_of_mem_bindLane {f : Fill} {lane : Nat} {v : List Byte × Bool} {i : Item}
    (hi : i ∈ (f.bindLane lane v).items) (same : i.lane = lane) : i.got = some v := by
  obtain ⟨j, -, rfl⟩ := List.mem_map.1 hi
  split at same
  · next here => rw [if_pos here]
  · next other => exact absurd same other

/-- An atomic performed on an element: its new bytes at the home, the cluster's clean copy dropped, and the old bytes
with the producer that waits for them. -/
def State.atomDone (s : State) (w : PWrite) (a : Atom) (key : Nat) (old : List Byte) : State :=
  { ((s.applyStores (runOf key (atomBytes a old))).dropSectors w.cluster (· == sectorOf key)).setWrite
      { w with stage := 2 } with
    fills := s.fills.map (a.bindFill (old, false)) }

section
variable (s : State) (w : PWrite) (a : Atom) (key : Nat) (old : List Byte)

theorem home_atomDone : (s.atomDone w a key old).mem.home = setBytes s.mem.home (runOf key (atomBytes a old)) := rfl

theorem versions_atomDone : (s.atomDone w a key old).mem.versions = s.bumpedVersions (elementKeys key a.wid) := by
  rw [← atomBytes_length a old, ← keys_runOf]
  rfl

theorem writes_atomDone : (s.atomDone w a key old).writes =
    s.writes.map fun x => if x.id = w.id then { w with stage := 2 } else x := rfl

theorem fills_atomDone : (s.atomDone w a key old).fills = s.fills.map (a.bindFill (old, false)) := rfl

end

section
variable {s : State} {w : PWrite} {a : Atom} {key : Nat} (wide : a.wid = 4 ∨ a.wid = 8) (aligned : key % a.wid = 0)
  (small : key < 2 ^ 62) (keys : w.data.map (·.1) = elementKeys key a.wid)
include wide aligned small keys

theorem lines_element {l : Nat} (h : l ∈ w.lines) : l = lineOf key := by
  obtain ⟨d, hd, rfl⟩ := List.mem_map.1 (mem_dedup_iff.1 h)
  exact (unitOf_element wide aligned small (keys ▸ List.mem_map.2 ⟨d, hd, rfl⟩)).2.1

variable (quiet : s.presence (fun x => x == lineOf key) = []) (sound : s.unitPoisoned key = false)
  (plain : s.slotOfKey key = none) (free : ∀ i < a.wid, s.isKeyByte (key + i) = false)
include quiet sound plain free

theorem performAtom_element : s.performAtom w a = s.atomDone w a key (bytesAt s.mem.home key a.wid) := by
  obtain ⟨bytes, bad⟩ := homeSeen_element wide aligned small plain sound
  have unkeyed : (elementKeys key a.wid).any s.isKeyByte = false := by
    rw [List.any_eq_false]
    rintro k hk
    obtain ⟨i, hi, rfl⟩ := List.mem_map.1 hk
    simp [free i (List.mem_range.1 hi)]
  simp only [State.performAtom, keys, head_element wide, takeBacks_of_quiet plain quiet, recall_of_quiet quiet,
    bytes, bad, unkeyed, Bool.or_false, Bool.false_eq_true, if_false]
  rfl

theorem homeAtomic_applies {id : Nat} (found : s.writes.find? (fun x => x.id == id) = some w) (kind : w.kind = .atom a)
    (counted : w.counted = true) (may : s.mayPerform w = true) (first : s.ownBefore w = false) :
    Gives (.homeAtomicApply id) s fun t =>
      (Bumped s t (w.data.map (·.1)) ∧
        if w.counted then ∃ x ∈ t.writes, x.id = id ∧ x.stage = 2 else ∀ x ∈ t.writes, x.id ≠ id) ∧
      t.homeVal key a.wid = elementAfter a.op a.wid (s.homeVal key a.wid) a.b0 a.b1 ∧
      HomeOutside s t (fun k => key ≤ k ∧ k < key + a.wid) ∧
      ∀ f ∈ s.fills, ∀ ln, a.fill = some (f.id, ln) → ∃ f' ∈ t.fills, f'.id = f.id ∧
        ∀ i ∈ f'.items, i.lane = ln → i.got = some (bytesAt s.mem.home key a.wid, false) := by
  have recalled : (w.lines.all fun l => !s.recallWaits (s.behindAtoms ++ s.heldWrites) fun x => x / 4 == l) = true := by
    rw [List.all_eq_true]
    intro l hl
    rw [lines_element wide aligned small keys hl, recallWaits_of_quiet quiet]
    rfl
  have exe : exec (.homeAtomicApply id) s = .next (s.performAtom w a) := by
    rw [exec_homeAtomicApply_atom found kind, may, first, recalled]
    rfl
  rw [performAtom_element wide aligned small keys quiet sound plain free] at exe
  obtain rfl := write_id_of_found found
  refine ⟨_, exe, ⟨bumped_of_versions ?_, ?_⟩, ?_, fun k out => ?_, fun f hf ln waits => ?_⟩
  · rw [versions_atomDone, keys]
  · rw [counted, if_pos rfl, writes_atomDone]
    exact ⟨{ w with stage := 2 }, mem_setWrite_found found rfl, rfl, rfl⟩
  · have read := bytesAt_setBytes_runOf s.mem.home key (atomBytes a (bytesAt s.mem.home key a.wid))
    rw [atomBytes_length] at read
    rw [State.homeVal, home_atomDone, read, leNat_atomBytes, State.homeVal]
  · rw [home_atomDone]
    refine byteAt_setBytes_runOf_of_outside s.mem.home key _ ?_
    rw [atomBytes_length]
    omega
  · rw [fills_atomDone]
    refine ⟨_, List.mem_map_of_mem hf, ?_⟩
    rw [bindFill_of_waits waits]
    exact ⟨rfl, fun i hi same => got_of_mem_bindLane hi same⟩

end

/-- Settles O38: one lemma per event and kind of request; an atomic has nothing to recall where no cluster has its
line at hand. -/
theorem writesOnTheirWay : Obligations.WritesOnTheirWay := by
  refine ⟨fun s id k w found kind inCore => ⟨fun held => strongWrite_waits found kind inCore held k,
    fun may _ distinct bytes => ?_⟩, fun s id cl line w left => ⟨fun small clean => eviction_clean small left clean,
    fun sec small dirty => eviction_dirty small left dirty, fun die => ?_,
    fun found here active distinct written => ?_⟩⟩
  · have plain (d) (hd : d ∈ w.data) := (bytes d hd).2.1
    have free (d) (hd : d ∈ w.data) := (bytes d hd).2.2
    exact ⟨strongWrite_leaves found kind inCore may distinct plain free,
      fun part more => strongWrite_enters found kind inCore may distinct plain free part more⟩
  · rw [exec_visitorEviction line die, ← pinnedLine_iff]
    refine ⟨fun pinned => by rw [if_pos pinned], fun loose => ⟨_, exec_visitorEviction line die, ?_⟩⟩
    rw [if_neg loose]
    exact ⟨rfl, rfl, mem_evictVisitor _ _⟩
  · obtain rfl := write_id_of_found found
    have gone := left w (write_mem_of_found found)
    refine ⟨fun kind may bytes => ?_, fun tk kind first resident =>
      spadWrite_lands found left here active kind first resident distinct, fun home => ⟨fun accepted =>
      homeWrite_acks found left here active home accepted, homeWrite_waits found gone home, fun held =>
      apply_held found held home⟩, fun kind may => homeWrite_applies found left here active distinct kind may,
      fun a key kind wide counted may aligned small keys first quiet sound plain free =>
        homeAtomic_applies wide aligned small keys quiet sound plain free found kind counted may first⟩
    exact weakWrite_lands found left here active kind may distinct written (fun d hd => (bytes d hd).1)
      fun d hd => (bytes d hd).2

end Sys2Proof.Machine
end

section
/-! Packets, flush markers, handle walks and row moves (O39; R12, R37, R170, R171, R247). -/

namespace Sys2Proof.Machine

/-! ### Flows (R170, R171) -/

theorem flow_ends (s : State) (a b : Nat) : (s.flow a b).src = a ∧ (s.flow a b).dst = b := by
  rw [State.flow]
  cases found : s.flows.find? fun f => f.src == a && f.dst == b with
  | none => exact ⟨rfl, rfl⟩
  | some f => simpa using List.find?_some found

theorem flow_setFlow {s : State} {a b : Nat} {f : Flow} (ends : f.src = a ∧ f.dst = b) :
    (s.setFlow f).flow a b = f := by
  simp [State.flow, State.setFlow, ends]

section
variable {s : State} {a b seq : Nat}

theorem packetArrival_found {w : PWrite} {k : Packet}
    (found : s.writes.find? (·.isPacket a b seq) = some w) (packet : w.flow = some k) :
    exec (.packetArrival a b seq) s =
      .next (if s.pathLive a b k.path && !s.pathBefore a b k.path k.sent then s.setWrite { w with stage := 1 }
        else s) := by
  change execPacketArrival a b seq s = _
  simp only [execPacketArrival, found, packet]

/-- A second arrival of a number is discarded. -/
theorem packetArrival_again (none_left : s.writes.any (·.isPacket a b seq) = false)
    (copy : BitVec.ofNat 32 seq ∈ (s.flow a b).copies) : exec (.packetArrival a b seq) s =
      .next (s.setFlow { s.flow a b with copies := (s.flow a b).copies.erase (BitVec.ofNat 32 seq) }) := by
  have missing : s.writes.find? (·.isPacket a b seq) = none := by simpa using none_left
  change execPacketArrival a b seq s = _
  simp only [execPacketArrival, missing]
  rw [if_pos (List.contains_iff_mem.2 copy)]

theorem exec_linkRetransmit (number : (BitVec.ofNat 32 seq).toNat = seq)
    (other : BitVec.ofNat 32 seq ≠ (s.flow a b).next)
    (before : ((s.flow a b).next - BitVec.ofNat 32 seq).toNat < 2 ^ 31) : exec (.linkRetransmit a b seq) s =
      .next (s.setFlow { s.flow a b with copies := BitVec.ofNat 32 seq :: (s.flow a b).copies }) := by
  have earlier : seqBefore (BitVec.ofNat 32 seq) (s.flow a b).next = true := by
    rw [seqBefore, bne_iff_ne.2 other, decide_eq_true before]
    rfl
  change execLinkRetransmit a b seq s = _
  rw [execLinkRetransmit, earlier, number, beq_self_eq_true]
  rfl

theorem exec_flushMarkerArrival {path : Nat} {c : MarkerCopy}
    (found : (s.flow a b).sent.find? (fun x => x.num == BitVec.ofNat 32 seq && x.forPath == path) = some c)
    (alive : s.pathLive a b c.path = true) (turn : s.pathBefore a b c.path c.sent = false) :
    exec (.flushMarkerArrival a b seq path) s = .next (s.setFlow { s.flow a b with
      sent := (s.flow a b).sent.erase c
      markers := (s.flow a b).markers ++ [(BitVec.ofNat 32 seq, path)] }) := by
  have number : c.num = BitVec.ofNat 32 seq := by
    have := List.find?_some found
    simp_all
  change execFlushMarkerArrival a b seq path s = _
  simp only [execFlushMarkerArrival, found, alive, turn, number]
  rfl

end

/-! ### Handle walks (R12) -/

/-- Apart from the cluster copies, the visitor lines and the poisoned units, memory is the same. -/
def OnlyCopies (s t : State) : Prop := ∃ l1 vis poison, t.mem = { s.mem with l1, vis, poison }

theorem OnlyCopies.refl (s : State) : OnlyCopies s s := ⟨_, _, _, rfl⟩

theorem OnlyCopies.trans {s t u : State} (h : OnlyCopies s t) (h' : OnlyCopies t u) : OnlyCopies s u := by
  obtain ⟨_, _, _, mem⟩ := h
  obtain ⟨l1, vis, poison, mem'⟩ := h'
  exact ⟨l1, vis, poison, by rw [mem', mem]⟩

theorem Rerouted.onlyCopies {s t : State} (h : Rerouted s t) : OnlyCopies s t := by
  obtain ⟨_, _, _, rfl⟩ := h
  exact .refl s

theorem onlyCopies_failTags (s : State) (us : List Nat) : OnlyCopies s (s.failTags us) := by
  unfold State.failTags State.logTags State.poisonUnits
  split <;> exact ⟨_, _, _, rfl⟩

theorem onlyCopies_sendWrite (s : State) (w : PWrite) : OnlyCopies s (s.sendWrite w) := by
  have routed (u : State) (x : PWrite) (more : List PWrite) :
      OnlyCopies u { (u.route x).1 with writes := more } := (rerouted_route u x).onlyCopies.trans (.refl _)
  unfold State.sendWrite
  split
  · exact routed s w _
  · have put (data : List (Nat × Byte)) : OnlyCopies s (s.putL1 w.cluster (w.id + 2) data) := ⟨_, _, _, rfl⟩
    have passed (u : State) (data : List (Nat × Byte)) : OnlyCopies u (u.passVisitor (dieOfCluster w.cluster) data) :=
      ⟨_, _, _, rfl⟩
    exact (((put _).trans (onlyCopies_failTags _ _)).trans (passed _ _)).trans (routed _ w _)
  · exact .refl s

/-- What leaves its core changes cluster copies and visitor lines alone. -/
theorem onlyCopies_sendReady (s : State) : OnlyCopies s s.sendReady :=
  List.foldlRecOn _ _ (motive := OnlyCopies s) (.refl s) fun u hu w _ => by
    split
    · exact hu.trans (onlyCopies_sendWrite u w)
    · exact hu

theorem holdPage_mem (s : State) (core page : Nat) : ∃ tlb, (s.holdPage core page).mem = { s.mem with tlb } := by
  unfold State.holdPage
  dsimp only
  split
  · exact ⟨_, rfl⟩
  · split <;> exact ⟨_, rfl⟩

theorem mem_holdPage (s : State) (core page : Nat) : (core, page) ∈ (s.holdPage core page).mem.tlb := by
  unfold State.holdPage
  dsimp only
  split
  · next held => exact (List.mem_filter.1 (List.contains_iff_mem.1 held)).1
  · split <;> exact List.mem_cons_self

/-- A page entered takes the place of another page of the same core. -/
theorem holdPage_keeps {s : State} {c page : Nat} (core : Nat) (held : (c, page) ∈ s.mem.tlb) :
    (c, page) ∈ (s.holdPage core page).mem.tlb := by
  by_cases same : c = core
  · exact same ▸ mem_holdPage s c page
  · unfold State.holdPage
    dsimp only
    split
    · exact held
    · split
      · exact List.mem_cons_of_mem _ held
      · refine List.mem_cons_of_mem _ (List.mem_filter.2 ⟨held, bne_iff_ne.2 fun out => same ?_⟩)
        rw [List.getD_eq_getElem?_getD] at out
        cases given : (s.mem.tlb.filter fun p => p.1 == core)[
            Config.tlbVictim s.fresh % (s.mem.tlb.filter fun p => p.1 == core).length]? with
        | none => exact congrArg Prod.fst (out.trans (by rw [given]))
        | some e =>
          have ofCore := (List.mem_filter.1 (List.mem_of_getElem? given)).2
          rw [given] at out
          exact (congrArg Prod.fst out).trans (beq_iff_eq.1 ofCore)

/-- Every core that waited for a walk holds its page, and nothing but handle TLBs has changed. -/
theorem holdPages (s : State) (page : Nat) (cores : List Nat) :
    let t := cores.foldl (fun a c => a.holdPage c page) s
    (∀ c ∈ cores, (c, page) ∈ t.mem.tlb) ∧ ∃ tlb, t.mem = { s.mem with tlb } := by
  induction cores using List.reverseRecOn with
  | nil => exact ⟨nofun, _, rfl⟩
  | append_singleton r core ih =>
    obtain ⟨held, tlb, mem⟩ := ih
    rw [List.foldl_concat]
    refine ⟨fun c hc => ?_, ?_⟩
    · rcases List.mem_append.1 hc with hc | hc
      · exact holdPage_keeps core (held c hc)
      · rw [List.mem_singleton.1 hc]
        exact mem_holdPage _ core page
    · obtain ⟨tlb, last⟩ := holdPage_mem (r.foldl (fun a c => a.holdPage c page) s) core page
      exact ⟨tlb, by rw [last, mem]⟩

/-- A state without a walk. -/
def State.withoutWalk (s : State) (w : Walk) : State :=
  s.modMem fun m => { m with walks := m.walks.filter (· != w) }

theorem handleWalk_ends {s : State} {die page : Nat} {w : Walk}
    (found : ((s.mem.walks.filter fun w => w.die == die).take 64).find? (fun w => w.page == page) = some w) :
    Gives (.handleWalkComplete die page) s fun t => (∀ c ∈ w.cores, (c, page) ∈ t.mem.tlb) ∧
      w ∉ t.mem.walks ∧ t.mem.home = s.mem.home := by
  have exe : exec (.handleWalkComplete die page) s =
      .next (w.cores.foldl (fun a c => a.holdPage c page) (s.withoutWalk w)).sendReady := by
    change execHandleWalkComplete die page s = _
    simp only [execHandleWalkComplete, found]
    rfl
  obtain ⟨held, tlb, mem⟩ := holdPages (s.withoutWalk w) page w.cores
  obtain ⟨l1, vis, poison, sent⟩ :=
    onlyCopies_sendReady (w.cores.foldl (fun a c => a.holdPage c page) (s.withoutWalk w))
  refine ⟨_, exe, ?_⟩
  dsimp only
  rw [sent]
  refine ⟨held, ?_, ?_⟩ <;> rw [mem]
  · simp [State.withoutWalk, State.modMem]
  · rfl

/-! ### Row moves (R37, R247) -/

section
variable {s : State} {tid slot stack : Nat}

/-- A state in which a row's move to a stack is under way. -/
def State.startMove (s : State) (row stack : Nat) : State :=
  s.modMem fun m => { m with moving := aput m.moving row stack }

/-- A state in which a row's move has ended with its redirect entry. -/
def State.endMove (s : State) (row stack : Nat) : State :=
  s.modMem fun m => { m with moving := adel m.moving row, reloc := aput m.reloc row stack }

theorem exec_relocationStart (usable : (s.table tid).usable tid = true) (live : (s.table tid).live slot = true)
    (home : (s.table tid).home = 0) (small : stack < 12) (alive : s.stackLive stack = true)
    (elsewhere : s.channelOf tid (slot * (s.table tid).rowSize) / 64 ≠ stack)
    (still : aget s.mem.moving (tid * 2 ^ 42 + slot) = none) (quiet : s.callOn (tid * 2 ^ 42 + slot) = false)
    (free : ∀ x ∈ slotSectors (s.table tid) tid slot, s.regionHolds x = false)
    (room : s.redirects (s.firstStack tid slot) (tid * 2 ^ 42 + slot) < 16384) :
    exec (.relocationStart tid slot stack) s = .next (s.startMove (tid * 2 ^ 42 + slot) stack) := by
  change execRelocationStart tid slot stack s = _
  simp only [execRelocationStart, usable, live, home, alive, still, quiet, Option.isNone_none, Bool.true_and]
  rw [if_pos]
  · rfl
  · simpa [small, elsewhere] using ⟨free, room⟩

theorem exec_relocationFlip (moving : aget s.mem.moving (tid * 2 ^ 42 + slot) = some stack) :
    exec (.relocationFlip tid slot) s =
      .next (if s.redirects (s.firstStack tid slot) (tid * 2 ^ 42 + slot) < 16384 ∧
          !s.callOn (tid * 2 ^ 42 + slot) then s.endMove (tid * 2 ^ 42 + slot) stack else s) := by
  change execRelocationFlip tid slot s = _
  simp only [execRelocationFlip, moving]
  rfl

/-- The bytes of a moved row are homed on the stack of its redirect entry. -/
theorem channelOf_endMove {pos : Nat} (ofRow : pos / (s.table tid).rowSize = slot) :
    (s.endMove (tid * 2 ^ 42 + slot) stack).channelOf tid pos = s.chanEntry stack (pos / 2 ^ 16) := by
  have entry : aget (s.endMove (tid * 2 ^ 42 + slot) stack).mem.reloc
      (tid * 2 ^ 42 + pos / (s.table tid).rowSize) = some stack := by
    rw [ofRow]
    exact aget_aput_self _ _ _
  have table : (s.endMove (tid * 2 ^ 42 + slot) stack).table tid = s.table tid := rfl
  rw [State.channelOf, table, entry]
  rfl

end

/-- Settles O39: one lemma per event; what the end of a walk sends out changes neither walks nor homes. -/
theorem packetsWalksAndMoves : Obligations.PacketsWalksAndMoves := by
  intro s a b seq path die page tid slot stack
  have ends := flow_ends s a b
  refine ⟨fun w k found packet => ⟨fun ⟨alive, turn⟩ => ⟨_, packetArrival_found found packet, ?_⟩, fun held => ?_⟩,
    fun left copy => ⟨_, packetArrival_again left copy, rfl, rfl, ?_⟩,
    fun number other before => ⟨_, exec_linkRetransmit number other before, rfl, rfl, ?_⟩,
    fun c found alive turn => ⟨_, exec_flushMarkerArrival found alive turn, rfl, rfl, ?_⟩,
    fun w found => handleWalk_ends found,
    fun usable live home small alive elsewhere still quiet free room =>
      ⟨_, exec_relocationStart usable live home small alive elsewhere still quiet free room, aget_aput_self _ _ _,
        rfl, rfl⟩,
    fun moving call => ?_, fun moving quiet room => ⟨_, exec_relocationFlip moving, ?_⟩⟩
  · rw [alive, turn]
    exact ⟨rfl, rfl⟩
  · rw [packetArrival_found found packet, if_neg]
    rwa [Bool.and_eq_true, Bool.not_eq_true']
  · rw [flow_setFlow]
    exact ends
  · rw [flow_setFlow]
    exacts [⟨rfl, rfl⟩, ends]
  · rw [flow_setFlow]
    exacts [⟨rfl, rfl⟩, ends]
  · rw [exec_relocationFlip moving, call, if_neg (by simp)]
  · rw [quiet, if_pos ⟨room, rfl⟩]
    exact ⟨aget_adel_self _ _, rfl, fun pos ofRow => channelOf_endMove ofRow⟩

end Sys2Proof.Machine
end

section
/-! SUPPORT. Dirty bytes of chosen sectors sent to their homes as counted requests (R147, R160, R166). -/

namespace Sys2Proof.Machine

/-! ### Entries of a cluster copy marked clean (R160) -/

theorem aget_map_value {α : Type} (f : Nat → α → α) (m : Assoc α) (q : Nat) :
    aget (m.map fun e => (e.1, f e.1 e.2)) q = (aget m q).map (f q) := by
  induction m with
  | nil => rfl
  | cons e r ih =>
    obtain ⟨k, v⟩ := e
    by_cases same : k = q
    · simp [aget, same]
    · simpa [aget, same] using ih

/-- A byte of a copy, marked clean where it is a dirty one of the cluster in a chosen sector. -/
def cleaned (cl : Nat) (p : Nat → Bool) (k : Nat) (b : L1Byte) : L1Byte :=
  if ownerOfCopy k = cl ∧ b.st = 1 ∧ p (sectorOf (keyOfCopy k)) = true then ⟨b.val, 0⟩ else b

/-- The copy of one state is that of another with dirty bytes marked clean. -/
def CleanedL1 (s t : State) (cl : Nat) (p : Nat → Bool) : Prop :=
  t.mem.l1 = s.mem.l1.map fun e => (e.1, cleaned cl p e.1 e.2)

section
variable {cl k : Nat} {p q : Nat → Bool} {b : L1Byte}

theorem cleaned_val : (cleaned cl p k b).val = b.val := by
  unfold cleaned
  split <;> rfl

theorem cleaned_of_other (other : p (sectorOf (keyOfCopy k)) = false) : cleaned cl p k b = b :=
  if_neg fun h => Bool.false_ne_true (other.symm.trans h.2.2)

/-- Marked clean twice: a byte of either choice is clean. -/
theorem cleaned_cleaned : cleaned cl q k (cleaned cl p k b) = cleaned cl (fun x => p x || q x) k b := by
  by_cases first : ownerOfCopy k = cl ∧ b.st = 1 ∧ p (sectorOf (keyOfCopy k)) = true
  · have both : ownerOfCopy k = cl ∧ b.st = 1 ∧ (p (sectorOf (keyOfCopy k)) || q (sectorOf (keyOfCopy k))) = true :=
      ⟨first.1, first.2.1, by rw [first.2.2, Bool.true_or]⟩
    rw [cleaned, cleaned, if_pos first, cleaned, if_pos both]
    exact if_neg fun h => Nat.zero_ne_one h.2.1
  · rw [cleaned.eq_def cl p, if_neg first, cleaned, cleaned]
    refine if_congr ?_ rfl rfl
    rw [Bool.or_eq_true]
    tauto

end

section
variable {s t u : State} {cl : Nat} {p q : Nat → Bool}

theorem cleanedL1_cleanDirty (s : State) (cl : Nat) (p : Nat → Bool) : CleanedL1 s (s.cleanDirty cl p) cl p := by
  refine List.map_congr_left fun e _ => ?_
  by_cases dirty : ownerOfCopy e.1 = cl ∧ p (sectorOf (keyOfCopy e.1)) = true ∧ e.2.st = 1
  · rw [if_pos dirty, cleaned, if_pos (dirty.imp_right And.symm)]
  · rw [if_neg dirty, cleaned, if_neg fun h => dirty (h.imp_right And.symm)]

theorem CleanedL1.trans (h : CleanedL1 s t cl p) (h' : CleanedL1 t u cl q) :
    CleanedL1 s u cl fun x => p x || q x := by
  rw [CleanedL1, h', h, List.map_map]
  exact List.map_congr_left fun e _ => congrArg (Prod.mk e.1) cleaned_cleaned

theorem CleanedL1.aget (h : CleanedL1 s t cl p) (k : Nat) :
    aget t.mem.l1 k = (aget s.mem.l1 k).map (cleaned cl p k) := by
  rw [h, aget_map_value (cleaned cl p)]

/-- The dirty bytes of sectors that were not chosen are as before. -/
theorem CleanedL1.dirtyIn (h : CleanedL1 s t cl p) (apart : ∀ sec, q sec = true → p sec = false) :
    t.dirtyIn cl q = s.dirtyIn cl q := by
  rw [State.dirtyIn, h, List.filter_map, List.map_map, State.dirtyIn]
  have same : s.mem.l1.filter ((fun e => ownerOfCopy e.1 == cl && q (sectorOf (keyOfCopy e.1)) && e.2.st == 1) ∘
      fun e => (e.1, cleaned cl p e.1 e.2)) =
      s.mem.l1.filter fun e => ownerOfCopy e.1 == cl && q (sectorOf (keyOfCopy e.1)) && e.2.st == 1 := by
    refine List.filter_congr fun e _ => ?_
    rw [Function.comp_apply]
    cases chosen : q (sectorOf (keyOfCopy e.1)) with
    | false => rw [Bool.and_false, Bool.false_and, Bool.false_and]
    | true => rw [cleaned_of_other (apart _ chosen)]
  rw [same]
  exact List.map_congr_left fun e _ => congrArg (Prod.mk _) cleaned_val

end

/-! ### Write-backs with a count (R147) -/

theorem nextId_le_packet (s : State) (a b : Nat) : s.nextId ≤ (s.packet a b).1.nextId := by
  have chosen : (s.choosePath a b).1.nextId = s.nextId := by
    unfold State.choosePath
    split <;> rfl
  unfold State.packet
  split
  · exact Nat.le_refl _
  · exact chosen ▸ Nat.le_succ _

theorem nextId_le_route (s : State) (w : PWrite) : s.nextId ≤ (s.route w).1.nextId := by
  unfold State.route
  refine Nat.le_trans ?_ (nextId_le_packet _ _ _)
  split
  · exact Nat.le_succ _
  · exact Nat.le_refl _

/-- The counted request that sends a sector's dirty bytes. -/
structure CountedBack (s : State) (gid cl sec : Nat) (w : PWrite) : Prop where
  id : s.nextId ≤ w.id
  kind : w.kind = .home
  gone : w.gone = true
  counted : w.counted = true
  gid : w.gid = gid
  cluster : w.cluster = cl
  data : w.data = s.dirtyIn cl (· == sec)

/-- The dirty bytes that a cluster holds in some sectors have been sent, a counted request of a group for each. -/
structure SentBack (s t : State) (gid cl : Nat) (secs : List Nat) : Prop where
  group : t.group gid = { s.group gid with uwc := (s.group gid).uwc + secs.length }
  curG : t.curG = s.curG
  curS : t.curS = s.curS
  clean : CleanedL1 s t cl secs.contains
  home : t.mem.home = s.mem.home
  nextId : s.nextId ≤ t.nextId
  kept : ∀ w ∈ s.writes, w ∈ t.writes
  sent : ∀ sec ∈ secs, ∃ w ∈ t.writes, CountedBack s gid cl sec w
  only : ∀ w ∈ t.writes, w ∈ s.writes ∨ ∃ sec ∈ secs, w.data = s.dirtyIn cl (· == sec)

section
variable {s t u : State} {gid cl : Nat}

theorem SentBack.none (s : State) (gid cl : Nat) : SentBack s s gid cl [] where
  group := rfl
  curG := rfl
  curS := rfl
  clean := by
    refine (List.map_id _).symm.trans (List.map_congr_left fun e _ => congrArg (Prod.mk e.1) ?_)
    exact (cleaned_of_other rfl).symm
  home := rfl
  nextId := Nat.le_refl _
  kept := fun _ h => h
  sent := nofun
  only := fun _ h => .inl h

theorem sentBack_one {sec : Nat} (dirty : s.dirtyIn cl (· == sec) ≠ []) :
    SentBack s (s.sendBack gid cl sec) gid cl [sec] := by
  let s1 := (s.cleanDirty cl (· == sec)).passVisitor (dieOfCluster cl) (s.dirtyIn cl (· == sec))
  let u : State := { s1 with nextId := s1.nextId + 1 }
  let w : PWrite := ⟨s1.nextId, gid, cl, .home, s.dirtyIn cl (· == sec), 0, 1, true, none, none, false, none, true,
    false, true, []⟩
  have sent : s.sendBack gid cl sec =
      ({ (u.route w).1 with writes := (u.route w).1.writes ++ [(u.route w).2] } : State).modGroup gid
        fun g => { g with uwc := g.uwc + 1 } :=
    if_neg (by simpa using dirty)
  have later : s.nextId ≤ (u.route w).1.nextId := Nat.le_trans (Nat.le_succ _) (nextId_le_route u w)
  obtain ⟨fresh, flows, nextId, routed⟩ := rerouted_route u w
  rw [routed] at later
  rw [sent, routed]
  have own : (s.cleanDirty cl (· == sec)).mem.l1 = s.mem.l1.map fun e => (e.1, cleaned cl [sec].contains e.1 e.2) := by
    rw [cleanedL1_cleanDirty]
    have same : [sec].contains = fun x => x == sec := by
      funext x
      simp [Bool.beq_eq_decide_eq]
    rw [same]
  exact {
    group := State.group_setGroup_self _ _ _
    curG := rfl
    curS := rfl
    clean := own
    home := rfl
    nextId := later
    kept := fun _ h => List.mem_append_left _ h
    sent := fun x hx => by
      obtain rfl := List.mem_singleton.1 hx
      exact ⟨_, List.mem_append_right _ (List.mem_singleton.2 rfl), Nat.le_refl _, rfl, rfl, rfl, rfl, rfl, rfl⟩
    only := fun x hx => (List.mem_append.1 hx).imp_right fun h =>
      ⟨sec, List.mem_singleton.2 rfl, congrArg PWrite.data (List.mem_singleton.1 h)⟩ }

/-- Sectors sent after others hold the dirty bytes that they held before. -/
theorem SentBack.dirtyIn {secs : List Nat} (h : SentBack s t gid cl secs) {sec : Nat} (new : sec ∉ secs) :
    t.dirtyIn cl (· == sec) = s.dirtyIn cl (· == sec) := by
  refine h.clean.dirtyIn fun x same => ?_
  rw [beq_iff_eq.1 same]
  simpa using new

theorem SentBack.trans {l l' : List Nat} (h : SentBack s t gid cl l) (h' : SentBack t u gid cl l')
    (apart : ∀ sec ∈ l', sec ∉ l) : SentBack s u gid cl (l ++ l') where
  group := by rw [h'.group, h.group, List.length_append, Nat.add_assoc]
  curG := h'.curG.trans h.curG
  curS := h'.curS.trans h.curS
  clean := by
    have either : (l ++ l').contains = fun x => l.contains x || l'.contains x := by
      funext x
      simp
    rw [either]
    exact h.clean.trans h'.clean
  home := h'.home.trans h.home
  nextId := Nat.le_trans h.nextId h'.nextId
  kept := fun w hw => h'.kept w (h.kept w hw)
  sent := fun sec hs => by
    rcases List.mem_append.1 hs with hs | hs
    · obtain ⟨w, hw, back⟩ := h.sent sec hs
      exact ⟨w, h'.kept w hw, back⟩
    · obtain ⟨w, hw, back⟩ := h'.sent sec hs
      exact ⟨w, hw, { back with
        id := Nat.le_trans h.nextId back.id
        data := back.data.trans (h.dirtyIn (apart sec hs)) }⟩
  only := fun w hw => by
    rcases h'.only w hw with old | ⟨sec, hs, data⟩
    · exact (h.only w old).imp_right fun ⟨sec, hs, data⟩ => ⟨sec, List.mem_append_left _ hs, data⟩
    · exact .inr ⟨sec, List.mem_append_right _ hs, data.trans (h.dirtyIn (apart sec hs))⟩

/-- One sector more, while the count has room (R147). -/
def sendNext (gid cl : Nat) (a : State × Bool) (sec : Nat) : State × Bool :=
  if (a.1.group gid).uwc < 65535 then (a.1.sendBack gid cl sec, a.2) else (a.1, false)

theorem sendBacks_eq (s : State) (gid cl : Nat) (p : Nat → Bool) :
    s.sendBacks gid cl p = (s.dirtySectors cl p).foldl (sendNext gid cl) (s, true) := rfl

/-- Sectors with dirty bytes are sent one after the other, all of them where the count has room. -/
theorem sendNext_all {secs : List Nat} (distinct : secs.Nodup) (dirty : ∀ sec ∈ secs, s.dirtyIn cl (· == sec) ≠ [])
    (room : (s.group gid).uwc + secs.length ≤ 65535) :
    ∃ t, secs.foldl (sendNext gid cl) (s, true) = (t, true) ∧ SentBack s t gid cl secs := by
  induction secs using List.reverseRecOn with
  | nil => exact ⟨s, rfl, .none s gid cl⟩
  | append_singleton r sec ih =>
    obtain ⟨before, -, apart⟩ := List.nodup_append.1 distinct
    rw [List.length_append, List.length_singleton] at room
    obtain ⟨t, sent, back⟩ := ih before (fun x hx => dirty x (List.mem_append_left _ hx)) (by omega)
    have new : sec ∉ r := fun h => apart sec h sec (List.mem_singleton.2 rfl) rfl
    have some : t.dirtyIn cl (· == sec) ≠ [] := by
      rw [back.dirtyIn new]
      exact dirty sec (List.mem_append_right _ (List.mem_singleton.2 rfl))
    have count : (t.group gid).uwc < 65535 := by
      rw [back.group]
      exact Nat.lt_of_succ_le room
    refine ⟨t.sendBack gid cl sec, ?_, back.trans (sentBack_one some) fun x hx => List.mem_singleton.1 hx ▸ new⟩
    rw [List.foldl_concat, sent]
    exact if_pos count

theorem sendBacks_all {p : Nat → Bool} (room : (s.group gid).uwc + (s.dirtySectors cl p).length ≤ 65535) :
    ∃ t, s.sendBacks gid cl p = (t, true) ∧ SentBack s t gid cl (s.dirtySectors cl p) :=
  sendNext_all (nodup_dedup _) (fun _ h => (dirtyIn_of_mem h).2) room

theorem mem_dirtySectors {p : Nat → Bool} {e : Nat × L1Byte} (held : e ∈ s.mem.l1) (owner : ownerOfCopy e.1 = cl)
    (dirty : e.2.st = 1) (chosen : p (sectorOf (keyOfCopy e.1)) = true) :
    sectorOf (keyOfCopy e.1) ∈ s.dirtySectors cl p := by
  refine mem_sectorsOf.2 ⟨_, List.mem_map.2 ⟨e, List.mem_filter.2 ⟨held, ?_⟩, rfl⟩, rfl⟩
  rw [owner, dirty, chosen]
  simp

/-- The bytes marked clean are the dirty bytes of the sectors chosen. -/
theorem SentBack.aget {p : Nat → Bool} (h : SentBack s t gid cl (s.dirtySectors cl p)) (k : Nat) :
    aget t.mem.l1 k = (aget s.mem.l1 k).map (cleaned cl p k) := by
  rw [h.clean.aget]
  cases entry : Machine.aget s.mem.l1 k with
  | none => rfl
  | some b =>
    refine congrArg some (if_congr (and_congr_right fun owner => and_congr_right fun dirty => ?_) rfl rfl)
    rw [List.contains_iff_mem]
    exact ⟨fun h => (dirtyIn_of_mem h).1, mem_dirtySectors (mem_of_aget entry) owner dirty⟩

/-- What the sending leaves, in any state with the same requests, memory and count. -/
theorem SentBack.sendsBack {p : Nat → Bool}
    (h : SentBack s t s.curG s.curCluster (s.dirtySectors s.curCluster p)) (mem : u.mem = t.mem)
    (writes : u.writes = t.writes) (count : u.cur.uwc = t.cur.uwc) : SendsBack s u p where
  count := by
    rw [count, State.cur, h.curG, h.group]
    rfl
  clean := fun k => by
    rw [mem, h.aget]
    rfl
  home := mem ▸ h.home
  kept := fun w hw => writes ▸ h.kept w hw
  sent := fun sec hs => by
    obtain ⟨w, hw, back⟩ := h.sent sec hs
    exact ⟨w, writes ▸ hw, back.id, back.kind, back.gone, back.counted, back.gid, back.cluster, back.data⟩
  only := fun w hw => h.only w (writes ▸ hw)

end

end Sys2Proof.Machine
end

section
/-! Synchronisation objects (O29; R148, R164 to R166, R214, R215). -/

namespace Sys2Proof.Machine

theorem need_true {α : Type} {c : Bool} (h : c = true) (r : Cause) (k : Except Cause α) : need c r k = k := by
  rw [need, if_pos h]

theorem need_false {α : Type} {c : Bool} (h : ¬c = true) (r : Cause) (k : Except Cause α) :
    need c r k = .error r := by rw [need, if_neg h]

/-! ### The checks of a descriptor (R164) -/

/-- The table of a guarded range: one of the two that the descriptor names. -/
def guardTable (dw : List W64) (i : Nat) : Nat :=
  if flag (dwAt dw 1) (43 + i) then field (dwAt dw 1) 20 20 else field (dwAt dw 1) 0 20

/-- A guarded range of a descriptor. -/
def guardAt (dw : List W64) (i : Nat) : Guard :=
  ⟨guardTable dw i, field (dwAt dw (2 + i)) 28 36, field (dwAt dw (2 + i)) 0 28⟩

theorem guards_eq (dw : List W64) : guards dw = (List.range (field (dwAt dw 1) 40 3)).map (guardAt dw) := rfl

/-- The fields of a descriptor fit: at most six ranges, nothing beyond them, and each one not empty and within the
sectors of a table. -/
def FieldsFit (dw : List W64) : Prop :=
  field (dwAt dw 1) 40 3 ≤ 6 ∧ field (dwAt dw 1) 49 15 = 0 ∧
    (∀ i < 6, field (dwAt dw 1) 40 3 ≤ i → dwAt dw (2 + i) = 0) ∧
    ∀ i < field (dwAt dw 1) 40 3, 1 ≤ (guardAt dw i).count ∧ (guardAt dw i).first + (guardAt dw i).count ≤ 2 ^ 36

theorem objectFields_iff (dw : List W64) : objectFields dw = true ↔ FieldsFit dw := by
  simp only [objectFields, FieldsFit, guards_eq, Bool.and_eq_true, decide_eq_true_eq, beq_iff_eq, List.all_eq_true,
    List.mem_range, List.forall_mem_map, Bool.or_eq_true, and_assoc]
  refine and_congr_right fun _ => and_congr_right fun _ => and_congr_left fun _ => ?_
  refine forall₂_congr fun i _ => ?_
  rw [or_iff_not_imp_left, Nat.not_lt]

/-- A descriptor names a table: as the first of its two, or for a range. -/
def NamesTable (dw : List W64) (k : Nat) : Prop :=
  k = field (dwAt dw 1) 0 20 ∨ ∃ i < field (dwAt dw 1) 40 3, k = guardTable dw i

theorem namesTable_of_mem {dw : List W64} {r : Guard} (h : r ∈ guards dw) : NamesTable dw r.tid := by
  rw [guards_eq] at h
  obtain ⟨i, hi, rfl⟩ := List.mem_map.1 h
  exact .inr ⟨i, List.mem_range.1 hi, rfl⟩

theorem forall_guards {dw : List W64} {p : Nat → Prop} :
    (∀ r ∈ guards dw, p r.tid) ↔ ∀ i < field (dwAt dw 1) 40 3, p (guardTable dw i) := by
  rw [guards_eq, List.forall_mem_map]
  simp only [List.mem_range]
  rfl

theorem namedOk_of_sound {s : State} {k : Nat} (sound : (s.table k).poisonDesc = false) :
    s.namedOk k = if (s.table k).usable k then .ok () else .error .tableAbsent := by
  rw [State.namedOk, sound]
  rfl

section
variable {s : State} {h : W64} {dw : List W64} {right : Nat → Bool}

theorem checkObject_unfit (unfit : ¬((s.table (tidOf h)).managed = false ∧ FieldsFit dw)) :
    s.checkObject h dw right = .error .handleFault := by
  refine need_false (fun fit => unfit ?_) _ _
  rw [Bool.and_eq_true, Bool.not_eq_true'] at fit
  exact fit.imp_right (objectFields_iff dw).1

/-- The tables that a descriptor names are usable. -/
theorem named_usable_iff : (((s.table (field (dwAt dw 1) 0 20)).usable (field (dwAt dw 1) 0 20) &&
    (guards dw).all fun r => (s.table r.tid).usable r.tid) = true) ↔
      ∀ k, NamesTable dw k → (s.table k).usable k = true := by
  rw [Bool.and_eq_true, List.all_eq_true]
  constructor
  · rintro ⟨first, ranges⟩ k (rfl | ⟨i, hi, rfl⟩)
    · exact first
    · exact forall_guards (p := fun k => (s.table k).usable k = true) |>.1 ranges i hi
  · exact fun usable => ⟨usable _ (.inl rfl), fun r hr => usable _ (namesTable_of_mem hr)⟩

variable (fit : (s.table (tidOf h)).managed = false ∧ FieldsFit dw)
  (sound : ∀ k, NamesTable dw k → (s.table k).poisonDesc = false)
include fit sound

/-- Of a descriptor that fits, the two tables are checked and then the rights. -/
theorem checkObject_of_fit : s.checkObject h dw right =
    if (s.table (field (dwAt dw 1) 0 20)).usable (field (dwAt dw 1) 0 20) &&
        (guards dw).all fun r => (s.table r.tid).usable r.tid
    then need ((guards dw).all fun r => right r.tid) .access (.ok (guards dw)) else .error .tableAbsent := by
  have passes : (!(s.table (tidOf h)).managed && objectFields dw) = true := by
    rw [fit.1, (objectFields_iff dw).2 fit.2]
    rfl
  rw [State.checkObject, need_true passes, namedOk_of_sound (sound _ (.inl rfl))]
  cases first : (s.table (field (dwAt dw 1) 0 20)).usable (field (dwAt dw 1) 0 20) with
  | false => rfl
  | true =>
    rw [if_pos rfl, Bool.true_and]
    dsimp only
    cases found : (guards dw).find? fun r => !(s.table r.tid).usable r.tid || (s.table r.tid).poisonDesc with
    | none =>
      rw [List.find?_eq_none] at found
      rw [if_pos (List.all_eq_true.2 fun r hr => ?_)]
      exact (by simpa using found r hr : _ ∧ _).1
    | some r =>
      have mem := List.mem_of_find?_eq_some found
      have poison := sound _ (namesTable_of_mem mem)
      have absent := List.find?_some found
      rw [poison, Bool.or_false, Bool.not_eq_true'] at absent
      rw [if_neg fun all => Bool.false_ne_true (absent.symm.trans (List.all_eq_true.1 all r mem))]
      dsimp only
      rw [poison, if_neg Bool.false_ne_true]

theorem checkObject_absent (absent : ¬∀ k, NamesTable dw k → (s.table k).usable k = true) :
    s.checkObject h dw right = .error .tableAbsent := by
  rw [checkObject_of_fit fit sound, if_neg fun all => absent (named_usable_iff.1 all)]

theorem checkObject_of_usable (usable : ∀ k, NamesTable dw k → (s.table k).usable k = true) :
    s.checkObject h dw right = need ((guards dw).all fun r => right r.tid) .access (.ok (guards dw)) := by
  rw [checkObject_of_fit fit sound, if_pos (named_usable_iff.2 usable)]

end

/-! ### The ranges of an object at its home (R166, R215) -/

section
variable {s : State} {h : W64} {wr : Bool}

/-- The descriptor of an object, as read at the home, checked with the rights of the word. -/
def State.checkSeen (s : State) (h : W64) (wr : Bool) : Except Cause (List Guard) :=
  s.checkObject h ((List.range 8).map (dwOf (s.objectSeen h).bytes))
    (if wr then s.curLaunch.writesTo else s.curLaunch.reads)

theorem guarded_bad (bad : (s.objectSeen h).bad = true) : s.guarded h wr = .error .poison :=
  need_false (by rw [bad]; decide) _ _

theorem guarded_refused {e : Cause} (seen : (s.objectSeen h).bad = false) (fails : s.checkSeen h wr = .error e) :
    s.guarded h wr = .error e := by
  rw [State.checkSeen] at fails
  rw [State.guarded, need_true (by rw [seen]; rfl), fails]

theorem guarded_ranges {gs : List Guard} (seen : (s.objectSeen h).bad = false) (passes : s.checkSeen h wr = .ok gs) :
    s.guarded h wr = .ok (gs.filter fun r => !(s.table r.tid).managed) := by
  rw [State.checkSeen] at passes
  rw [State.guarded, need_true (by rw [seen]; rfl), passes]

end

/-! ### A word on an object (R164, R215) -/

theorem touchRange_of_held {s : State} {core key n : Nat} (held : s.rangeHeld core key n = true) :
    s.touchRange core key n = s :=
  List.foldlRecOn _ _ (motive := fun u => u = s) rfl fun u hu k hk => by
    rw [hu, State.touchPage, if_pos (List.all_eq_true.1 held k hk)]

/-- A word whose range is translated goes on at once (R12). -/
theorem paged_of_translated {s : State} {key n : Nat} (h : s.Translated key n) (k : State → Res) :
    s.paged [(key, n)] k = k s := by
  obtain ⟨held, still⟩ := h
  have touched : s.touchAll (s.coreOf s.curG) [(key, n)] = s := touchRange_of_held held
  have walks : s.walkingAny (s.coreOf s.curG) [(key, n)] = false := (Bool.or_false _).trans still
  rw [State.paged, touched, if_neg (by rw [walks]; decide)]

section
variable {s : State} {h : W64} {wr : Bool} {i : Instr} {k : State → List Guard → Res}
  (exe : exec i s = s.finish (s.onObject h wr k))
include exe

theorem object_misaligned (place : spaceOf h ≠ 0 ∨ posOf h % 64 ≠ 0) : Traps i s .align 0 := by
  have handle : s.checkObjectHandle h = .error .align := need_false (by
    rw [Bool.and_eq_true, beq_iff_eq, beq_iff_eq]
    tauto) _ _
  rw [Traps, exe, State.onObject, handle, checked, State.finish_trap]

variable (space : spaceOf h = 0) (align : posOf h % 64 = 0) (sound : (s.table (tidOf h)).poisonDesc = false)
include space align sound

omit exe in
theorem checkObjectHandle_of_aligned : s.checkObjectHandle h =
    if (s.table (tidOf h)).usable (tidOf h) then .ok () else .error .tableAbsent := by
  rw [State.checkObjectHandle, need_true (by rw [space, align]; rfl), namedOk_of_sound sound]

theorem object_absent (absent : (s.table (tidOf h)).usable (tidOf h) = false) : Traps i s .tableAbsent 0 := by
  rw [Traps, exe, State.onObject, checkObjectHandle_of_aligned space align sound, absent, if_neg Bool.false_ne_true,
    checked, State.finish_trap]

variable (usable : (s.table (tidOf h)).usable (tidOf h) = true)
include usable

theorem object_outside (outside : s.objectInside h = false) : Traps i s .handleFault 0 := by
  rw [Traps, exe, State.onObject, checkObjectHandle_of_aligned space align sound, usable, if_pos rfl, checked,
    check_false (by rw [outside]; decide), State.finish_trap]

variable (inside : s.objectInside h = true) (translated : s.Translated h.toNat 64) (ready : s.acquiring = false)
  (free : s.objectBusy h = false)
include inside translated ready free

/-- A word on an object whose descriptor can be read goes by the descriptor. -/
theorem object_read : exec i s =
    s.finish (checked (s.guarded h wr) fun gs => k (s.logTags (s.objectSeen h).tags) gs) := by
  rw [exe, State.onObject, checkObjectHandle_of_aligned space align sound, usable, if_pos rfl, checked,
    check_true inside, paged_of_translated translated, ready, free, if_neg (by decide)]

end

/-- What a word on an object does, by the checks in their order, with `P` for the ranges that it maintains. -/
def ObjectWord (s : State) (h : W64) (wr : Bool) (i : Instr) (P : List Guard → Prop) : Prop :=
  (spaceOf h ≠ 0 ∨ posOf h % 64 ≠ 0 → Traps i s .align 0) ∧
  (spaceOf h = 0 → posOf h % 64 = 0 → (s.table (tidOf h)).poisonDesc = false →
    ((s.table (tidOf h)).usable (tidOf h) = false → Traps i s .tableAbsent 0) ∧
    ((s.table (tidOf h)).usable (tidOf h) = true → s.objectInside h = false → Traps i s .handleFault 0) ∧
    ((s.table (tidOf h)).usable (tidOf h) = true → s.objectInside h = true → s.Translated h.toNat 64 →
      s.objectBusy h = false → (∀ e, s.guarded h wr = .error e → Traps i s e 0) ∧
        ((s.objectSeen h).tags = [] → ∀ gs, s.guarded h wr = .ok gs → P gs)))

/-- A word on an object traps by the first check that fails; where none does it goes on with its ranges. -/
theorem objectWord_of {s : State} {h : W64} {wr : Bool} {i : Instr} {k : State → List Guard → Res}
    {P : List Guard → Prop} (ready : s.acquiring = false) (exe : exec i s = s.finish (s.onObject h wr k))
    (goes : ∀ gs, exec i s = s.finish (k s gs) → P gs) : ObjectWord s h wr i P := by
  refine ⟨object_misaligned exe, fun space align sound => ⟨object_absent exe space align sound,
    object_outside exe space align sound, fun usable inside translated free => ?_⟩⟩
  have read := object_read exe space align sound usable inside translated ready free
  refine ⟨fun e fails => ?_, fun untagged gs passes => goes gs ?_⟩
  · rw [Traps, read, fails, checked, State.finish_trap]
  · rw [read, passes, checked, untagged]
    rfl

/-! ### `sacq` and `srel` (R148, R166, R215) -/

theorem State.cur_modCur (s : State) (f : Group → Group) : (s.modCur f).cur = f s.cur := by
  rw [State.modCur_eq, State.cur_setGroup]

section
variable {s : State} {a : Reg} {wa : Bool} (plain : s.inRegion s.curG = false)

section
variable (accepts : s.Accepts ⟨[sg a wa], [], false⟩)
include plain accepts

theorem exec_sacq : exec (.sacq a wa) s = s.finish (s.onObject (s.cur.gval s.curS a.val) false fun s gs =>
    .done ((s.dropSectors s.curCluster (inGuards gs)).next 4)) := by
  change s.finish (s.gated _ (s.outside _)) = _
  rw [State.gated_of_accepts accepts, State.outside, plain, if_neg Bool.false_ne_true]

theorem exec_srel (start : (s.cur.slot s.curS).stage = 0) : exec (.srel a wa) s =
    s.finish (s.onObject (s.cur.gval s.curS a.val) true fun s gs =>
      s.writeBackRelease (inGuards gs) fun s => .done (s.next 4)) := by
  change execSrel a wa s = _
  rw [execSrel, if_neg (by rw [start]; decide), State.gated_of_accepts accepts, State.outside, plain,
    if_neg Bool.false_ne_true]

end

/-- With every write-back sent, `srel` is a release. -/
theorem exec_srel_sent (sent : (s.cur.slot s.curS).stage = 2) :
    exec (.srel a wa) s = s.finish (s.release true (.done (s.next 4))) := by
  change execSrel a wa s = _
  rw [execSrel, if_pos sent]

end

/-- The issuing slot stays in its release, with every write-back sent. -/
def State.awaitSent (s : State) : State := (s.setStage 2).releasing.holdBack

theorem awaitSent_cur (s : State) : s.awaitSent.cur.uwc = s.cur.uwc ∧
    (s.awaitSent.cur.slot s.curS).waiting = true ∧ (s.awaitSent.cur.slot s.curS).stage = 2 ∧
    (s.awaitSent.cur.slot s.curS).path = (s.cur.slot s.curS).path := by
  have held : s.awaitSent.cur = (s.setStage 2).releasing.cur.setSlot s.curS
      { (s.setStage 2).releasing.cur.slot s.curS with waiting := true } := State.cur_modCur _ _
  have released : (s.setStage 2).releasing.cur = (s.setStage 2).cur.setSlot s.curS
      { (s.setStage 2).cur.slot s.curS with
        releasing := some (((s.setStage 2).cur.slot s.curS).releasing.getD s.nextId) } := State.cur_modCur _ _
  have staged : (s.setStage 2).cur = s.cur.setSlot s.curS { s.cur.slot s.curS with stage := 2 } :=
    State.cur_modCur _ _
  simp only [held, released, staged, Group.slot_setSlot_self, Group.setSlot_uwc, and_self]

section
variable {s : State} {p : Nat → Bool} (may : s.countHeld = false) (soft : s.softPending s.curG p = false)
  (k : State → Res)
include may soft

theorem writeBackRelease_clean (clean : s.dirtySectors s.curCluster p = []) (released : s.released true = true) :
    s.writeBackRelease p k = k s := by
  rw [State.writeBackRelease, may, soft, if_neg (by decide), sendBacks_eq, clean]
  exact if_pos released

/-- Write-backs that find room in the count leave the group with counted requests, so that its release waits. -/
theorem writeBackRelease_dirty (dirty : s.dirtySectors s.curCluster p ≠ [])
    (room : s.cur.uwc + (s.dirtySectors s.curCluster p).length ≤ 65535) :
    ∃ t, s.writeBackRelease p k = .wait ((t.setStage 2).releasing) ∧
      SentBack s t s.curG s.curCluster (s.dirtySectors s.curCluster p) := by
  obtain ⟨t, sent, back⟩ := sendBacks_all (gid := s.curG) room
  refine ⟨t, ?_, back⟩
  have owed : ¬t.released true = true := by
    rw [t.released_iff]
    rintro ⟨-, none_owed, -⟩
    rw [State.cur, back.curG, back.group] at none_owed
    exact dirty (List.eq_nil_of_length_eq_zero (Nat.eq_zero_of_add_eq_zero_left none_owed))
  rw [State.writeBackRelease, may, soft, if_neg (by decide), sent]
  exact if_neg owed

end

/-- A slot that stays in its release after write-backs. -/
theorem SentBack.awaits {s t : State} {p : Nat → Bool}
    (back : SentBack s t s.curG s.curCluster (s.dirtySectors s.curCluster p)) :
    SendsBack s t.awaitSent p ∧ HeldBack s t.awaitSent ∧ (t.awaitSent.cur.slot s.curS).stage = 2 := by
  obtain ⟨count, waiting, stage, path⟩ := awaitSent_cur t
  have before : (t.cur.slot s.curS).path = (s.cur.slot s.curS).path := by
    rw [State.cur, back.curG, back.group]
    cases s.curS <;> rfl
  rw [back.curS] at waiting stage path
  exact ⟨back.sendsBack rfl rfl count, ⟨waiting, path.trans before⟩, stage⟩

end Sys2Proof.Machine
end

section
/-! `sdef`, and what the three words on synchronisation objects do (O29; R147, R161, R164 to R166, R190, R214, R215). -/

namespace Sys2Proof.Machine

/-! ### The byte writes of one sector -/

section
variable {data : List (Nat × Byte)}

theorem sectorsOf_of_one {x : Nat} (written : data ≠ []) (one : ∀ d ∈ data, sectorOf d.1 = x) :
    sectorsOf data = [x] := by
  refine List.perm_singleton.1 ((List.perm_ext_iff_of_nodup (nodup_dedup _) (List.nodup_singleton x)).2 fun sec => ?_)
  rw [← sectorsOf, mem_sectorsOf, List.mem_singleton]
  constructor
  · rintro ⟨d, hd, rfl⟩
    exact one d hd
  · rintro rfl
    obtain ⟨d, hd⟩ := List.exists_mem_of_ne_nil data written
    exact ⟨d, hd, one d hd⟩

theorem inSector_of_one {x : Nat} (one : ∀ d ∈ data, sectorOf d.1 = x) : inSector x data = data :=
  List.filter_eq_self.2 fun d hd => beq_iff_eq.2 (one d hd)

theorem dedup_of_nodup {l : List Nat} (distinct : l.Nodup) : dedup l = l := by
  induction l with
  | nil => rfl
  | cons x r ih =>
    obtain ⟨new, rest⟩ := List.nodup_cons.1 distinct
    rw [dedup, ih rest, List.filter_eq_self.2 fun y hy =>
      bne_iff_ne.2 fun (same : y = x) => new (same ▸ hy)]

/-- The last write of a byte that is written once. -/
theorem last_of_mem (distinct : (data.map (·.1)).Nodup) {d : Nat × Byte} (h : d ∈ data) (b : Byte) :
    data.foldl (fun b e => if e.1 = d.1 then e.2 else b) b = d.2 := by
  induction data generalizing b with
  | nil => cases h
  | cons e r ih =>
    obtain ⟨new, rest⟩ := List.nodup_cons.1 distinct
    rw [List.foldl_cons]
    rcases List.mem_cons.1 h with rfl | h
    · rw [if_pos rfl]
      exact List.foldlRecOn r _ (motive := fun x => x = d.2) rfl fun x hx e he =>
        (if_neg fun same => new (List.mem_map.2 ⟨e, he, same⟩)).trans hx
    · exact ih rest h _

theorem lastWrites_of_nodup (distinct : (data.map (·.1)).Nodup) : lastWrites data = data := by
  rw [lastWrites, dedup_of_nodup distinct, List.map_map]
  exact (List.map_congr_left fun d hd => congrArg (Prod.mk d.1) (last_of_mem distinct hd 0)).trans (List.map_id _)

end

theorem mem_runOf_of_lt (k : Nat) (bs : List Byte) {i : Nat} (hi : i < bs.length) :
    (k + i, bs.getD i 0) ∈ runOf k bs := by
  induction bs generalizing k i with
  | nil => exact absurd hi (Nat.not_lt_zero i)
  | cons b r ih =>
    cases i with
    | zero => exact List.mem_cons_self
    | succ j =>
      have rest := ih (k + 1) (Nat.lt_of_succ_lt_succ hi)
      rw [Nat.add_right_comm, Nat.add_assoc] at rest
      exact List.mem_cons_of_mem _ rest

theorem nodup_runOf (k : Nat) (bs : List Byte) : ((runOf k bs).map (·.1)).Nodup := by
  rw [keys_runOf, elementKeys]
  exact List.Nodup.map (fun _ _ => Nat.add_left_cancel) List.nodup_range

/-! ### A strong write that leaves its core at once (R147, R161) -/

/-- A strong write of the issuing group, of one access, as it leaves the word. -/
def State.strongWrite (s : State) (data : List (Nat × Byte)) : PWrite :=
  ⟨s.nextId, s.curG, s.curCluster, .home, data, 0, 1, false, none, none, false, none, true, false, false, []⟩

/-- The only request of a state is a strong write under way, which its group counts and its cluster copy has taken. -/
structure StrongSent (s t : State) (data : List (Nat × Byte)) : Prop where
  home : t.mem.home = s.mem.home
  teams : t.teams = s.teams
  count : t.cur.uwc = s.cur.uwc + 1
  sent : ∃ flow stage, t.writes = [{ s.strongWrite data with gone := true, flow, stage }]
  copy : ∀ d ∈ data, aget t.mem.l1 (copyKey s.curCluster d.1) = some ⟨d.2, s.nextId + 2⟩

/-- A state with a strong write that has not left its core. -/
def State.entered (s : State) (data : List (Nat × Byte)) : State :=
  { s with writes := s.writes ++ [s.strongWrite data], nextId := s.nextId + 1 }

theorem request_strongWrite (s : State) (data : List (Nat × Byte)) :
    s.request s.curG s.curCluster .home data 0 none false true =
      (if (s.entered data).maySend (s.strongWrite data) then (s.entered data).sendWrite (s.strongWrite data)
        else s.entered data).modGroup s.curG fun g => { g with uwc := g.uwc + 1 } := by
  rw [← Bool.and_true ((s.entered data).maySend _)]
  rfl

/-- Byte writes of one sector, each byte once, are one request of a held page (R147). -/
theorem requests_one_sector {s : State} {data : List (Nat × Byte)} {x : Nat} (written : data ≠ [])
    (one : ∀ d ∈ data, sectorOf d.1 = x) (distinct : (data.map (·.1)).Nodup)
    (held : s.pageHeld (s.coreOf s.curG) (64 * x) = true) :
    s.requests .home data 0 false = s.request s.curG s.curCluster .home data 0 none false true := by
  rw [State.requests, sectorsOf_of_one written one, List.foldl_cons, List.foldl_nil, inSector_of_one one,
    lastWrites_of_nodup distinct]
  dsimp only
  rw [State.touchPage, if_pos held, State.pageFor, if_pos held]

section
variable {s : State} {data : List (Nat × Byte)} (alone : s.writes = []) (plain : ∀ d ∈ data, s.slotOfKey d.1 = none)
include alone plain

/-- A strong write of unencrypted bytes whose lines find room may leave at once. -/
theorem maySend_strongWrite (written : data ≠ [])
    (room : ∀ d ∈ data, s.lineRoom s.curCluster (lineOf d.1) = true) :
    (s.entered data).maySend (s.strongWrite data) = true := by
  have unsent : (s.entered data).unsentBefore (s.strongWrite data) = false := by
    simp [State.unsentBefore, State.entered, alone]
  have atoms : (s.entered data).atomBefore (s.strongWrite data) = false := by
    simp [State.atomBefore, State.entered, alone, State.strongWrite, PWrite.isAtom]
  have units : (s.entered data).unitWaits (s.strongWrite data) = false := by
    have slot : (s.entered data).slotOfKey (((s.strongWrite data).data.map (·.1)).headD 0) = none :=
      slotOfKey_head (s := s.entered data) plain written
    rw [State.unitWaits, slot]
    rfl
  have lines : ((s.strongWrite data).lines.all fun l => (s.entered data).lineRoom s.curCluster l) = true := by
    rw [List.all_eq_true]
    intro l hl
    obtain ⟨d, hd, rfl⟩ := List.mem_map.1 (mem_dedup_iff.1 hl)
    exact room d hd
  have cluster : (s.strongWrite data).cluster = s.curCluster := rfl
  rw [State.maySend, unsent, units, atoms, cluster, lines]
  rfl

/-- A strong write that leaves at once is under way in its flow, and the cluster copy has taken its bytes (R161). -/
theorem strongSent_sendWrite (free : ∀ d ∈ data, s.isKeyByte d.1 = false) (distinct : (data.map (·.1)).Nodup) :
    StrongSent s (((s.entered data).sendWrite (s.strongWrite data)).modGroup s.curG
      fun g => { g with uwc := g.uwc + 1 }) data := by
  let u := ((s.entered data).putL1 s.curCluster (s.nextId + 2) data).passVisitor (dieOfCluster s.curCluster) data
  let w := s.strongWrite data
  have keys : (s.entered data).keyFree data = data := keyFree_of_no_key free
  have sealed : (s.entered data).sealL1 s.curCluster false data = (data, []) := sealData_of_plain _ _ plain
  have whole : (data.filter fun d => !([] : List Nat).contains d.1) = data := by simp
  have sent : (s.entered data).sendWrite w = (u.route w).1.sentWrite (u.route w).2 := by
    simp only [State.sendWrite, w, State.strongWrite, keys, sealed, whole, if_true]
    rfl
  have first : ((s.writes ++ [w]).filter fun x => x.id != w.id) = [] := by simp [alone]
  obtain ⟨fresh, flows, nextId, routed⟩ := rerouted_route u w
  rw [sent, State.sentWrite, routed]
  exact {
    home := rfl
    teams := rfl
    count := congrArg Group.uwc (State.group_setGroup_self _ _ _)
    sent := ⟨(u.route w).2.flow, (u.route w).2.stage, congrArg (· ++ [(u.route w).2]) first⟩
    copy := fun d hd => aget_putL1_of_mem s s.curCluster _ distinct hd }

theorem strongSent_request (written : data ≠ []) (free : ∀ d ∈ data, s.isKeyByte d.1 = false)
    (distinct : (data.map (·.1)).Nodup) (room : ∀ d ∈ data, s.lineRoom s.curCluster (lineOf d.1) = true) :
    StrongSent s (s.request s.curG s.curCluster .home data 0 none false true) data := by
  rw [request_strongWrite, if_pos (maySend_strongWrite alone plain written room)]
  exact strongSent_sendWrite alone plain free distinct

end

/-! ### The bytes of an object (R24, R27) -/

section
variable {s : State} {h : W64}

/-- An object that passes its first check lies in one sector of table space. -/
theorem place_of_checkObjectHandle (handle : s.checkObjectHandle h = .ok ()) :
    h.toNat < 2 ^ 62 ∧ h.toNat % 64 = 0 := by
  have place : (spaceOf h == 0 && posOf h % 64 == 0) = true := by
    by_contra fails
    rw [State.checkObjectHandle, need_false fails] at handle
    cases handle
  rw [Bool.and_eq_true, beq_iff_eq, beq_iff_eq, spaceOf, posOf, field, field] at place
  have := h.isLt
  omega

variable {k : Nat} (small : h.toNat < 2 ^ 62) (aligned : h.toNat % 64 = 0) (lo : h.toNat ≤ k) (hi : k < h.toNat + 64)
include small aligned lo hi

theorem objectByte : sectorOf k = h.toNat / 64 ∧ lineOf k = h.toNat / 256 ∧ tidOfKey k = tidOf h ∧
    isPriv k = false := by
  have flat : flatKey k = k := Nat.mod_eq_of_lt (by rw [sideBase]; omega)
  rw [sectorOf, lineOf, tidOfKey, isPriv, flat, tidOf, field, privBase, decide_eq_false_iff_not]
  omega

theorem objectByte_plain (plain : (s.table (tidOf h)).ownw = false) : s.slotOfKey k = none := by
  obtain ⟨-, -, table, space⟩ := objectByte small aligned lo hi
  rw [State.slotOfKey, space, if_neg Bool.false_ne_true, table]
  dsimp only
  rw [plain, if_neg Bool.false_ne_true]

omit small aligned in
theorem objectByte_free (free : s.objectHitsKey h = false) : s.isKeyByte k = false := by
  have key : k ∈ objectKeys h := List.mem_map.2 ⟨k - h.toNat, List.mem_range.2 (by omega), by omega⟩
  have misses := List.any_eq_false.1 free k key
  rw [← Bool.not_eq_true]
  simp only [State.hitsKey, State.isKeyByte, Bool.and_eq_true] at misses ⊢
  rintro ⟨⟨⟨-, keyed⟩, live⟩, within⟩
  exact misses ⟨⟨⟨keyed, live⟩, within⟩, rfl⟩

end

/-! ### The word (R214) -/

/-- Requests from a number on clear the poison of the units that they cover whole (R190). -/
def State.clearing (s : State) (id : Nat) : State :=
  { s with writes := s.writes.map fun w => if id ≤ w.id then { w with clears := true } else w }

/-- The image of an object: 64 bytes of the team's scratchpad. -/
def State.image (s : State) (off : Nat) : List Byte := bytesAt s.curTeam.spad off 64

section
variable {s : State} {a b : Reg} {wa wb : Bool} {off : Nat}
  (accepts : s.Accepts ⟨[sg a wa, sg b wb], [], false⟩) (plain : s.inRegion s.curG = false)
  (ready : s.acquiring = false)
  (image : s.checkImage s.curG (s.cur.gval s.curS b.val) 64 8 = .ok (.spad (teamOf s.curG) off))
  (quiet : (s.imageBusy (.spad (teamOf s.curG) off) 64 || s.imageScored (.spad (teamOf s.curG) off) 64) = false)
  (sound : (s.readLoc s.curCluster false (.spad (teamOf s.curG) off) 64).2.2 = false)
  (handle : s.checkObjectHandle (s.cur.gval s.curS a.val) = .ok ()) {gs : List Guard}
  (fields : s.checkObject (s.cur.gval s.curS a.val) ((List.range 8).map (dwOf (s.image off))) (fun _ => true) = .ok gs)
  (right : s.curLaunch.writesTo (tidOf (s.cur.gval s.curS a.val)) = true)
  (inside : s.objectInside (s.cur.gval s.curS a.val) = true)
  (free : s.objectHitsKey (s.cur.gval s.curS a.val) = false) (count : s.countOk 1 = true)
  (turn : s.strongBehind s.curG (objectKeys (s.cur.gval s.curS a.val)) = false)
include accepts plain ready image quiet sound handle fields right inside free count turn

theorem exec_sdef : exec (.sdef a b wa wb) s = .next (((s.requests .home
    (runOf (s.cur.gval s.curS a.val).toNat (s.image off)) 0 false).clearing s.nextId).next 4) := by
  change s.finish (s.gated _ (s.outside _)) = _
  rw [State.gated_of_accepts accepts, State.outside, plain, if_neg Bool.false_ne_true, image, checked]
  have none_asked (k : State → Res) : s.paged (imagePages (.spad (teamOf s.curG) off) 64) k = k s := rfl
  have read : s.readImage (.spad (teamOf s.curG) off) 64 = (s, s.image off, false) :=
    congrArg (fun x => (s, s.image off, x)) sound
  dsimp only
  rw [none_asked, ready, Bool.false_or, quiet, if_neg Bool.false_ne_true, read, if_neg Bool.false_ne_true, handle,
    checked, fields, checked, check_true right, check_true inside, free, check_true (by decide), count, turn,
    if_neg (by decide), State.finish_done]
  rfl

end

/-! ### What `sdef` leaves (R147, R161, R190) -/

/-- `sdef` has sent the bytes of an object as one counted request that clears poison, and its cluster sees them. -/
def ObjectSent (s t : State) (h : W64) (img : List Byte) : Prop :=
  t.mem.home = s.mem.home ∧ t.teams = s.teams ∧ t.cur.uwc = s.cur.uwc + 1 ∧
    (∃ w, t.writes = [w] ∧ w.data = runOf h.toNat img ∧ w.kind = .home ∧ w.counted = true ∧ w.clears = true ∧
      w.gid = s.curG ∧ w.cluster = s.curCluster) ∧
    ∀ i < img.length, t.strongByte s.curCluster (h.toNat + i) = img.getD i 0

theorem objectSent_next {s u : State} {h : W64} {img : List Byte} (sent : StrongSent s u (runOf h.toNat img))
    (n : Nat) : ObjectSent s ((u.clearing s.nextId).next n) h img := by
  obtain ⟨flow, stage, writes⟩ := sent.sent
  have count : ((u.clearing s.nextId).next n).cur.uwc = u.cur.uwc := by
    rw [State.next_eq, State.cur_setGroup, Group.next_uwc]
    rfl
  have cleared : ((u.clearing s.nextId).next n).writes =
      [{ s.strongWrite (runOf h.toNat img) with gone := true, flow, stage, clears := true }] := by
    change u.writes.map _ = _
    rw [writes]
    exact congrArg (fun w => [w]) (if_pos (Nat.le_refl s.nextId))
  refine ⟨sent.home, sent.teams, count.trans sent.count, ⟨_, cleared, rfl, rfl, rfl, rfl, rfl, rfl⟩, fun i hi => ?_⟩
  have held : aget ((u.clearing s.nextId).next n).mem.l1 (copyKey s.curCluster (h.toNat + i)) =
      some ⟨img.getD i 0, s.nextId + 2⟩ := sent.copy _ (mem_runOf_of_lt h.toNat img hi)
  rw [State.strongByte, held]
  exact if_neg (Nat.succ_ne_zero _)

/-- The bytes of an object leave as one request (R147, R214). -/
theorem strongSent_object {s : State} {h : W64} {off : Nat} (handle : s.checkObjectHandle h = .ok ())
    (free : s.objectHitsKey h = false) (plain : (s.table (tidOf h)).ownw = false) (alone : s.writes = [])
    (held : s.pageHeld (s.coreOf s.curG) h.toNat = true)
    (room : s.lineRoom s.curCluster (h.toNat / 256) = true) :
    StrongSent s (s.requests .home (runOf h.toNat (s.image off)) 0 false) (runOf h.toNat (s.image off)) := by
  obtain ⟨small, aligned⟩ := place_of_checkObjectHandle handle
  have length : (s.image off).length = 64 := bytesAt_length _ _ _
  have within {d : Nat × Byte} (hd : d ∈ runOf h.toNat (s.image off)) : h.toNat ≤ d.1 ∧ d.1 < h.toNat + 64 :=
    (mem_runOf hd).imp_right fun lt => lt.trans_eq (congrArg (h.toNat + ·) length)
  have written : runOf h.toNat (s.image off) ≠ [] :=
    List.ne_nil_of_mem (mem_runOf_of_lt h.toNat (s.image off) (i := 0) (by rw [length]; decide))
  have place {d : Nat × Byte} (hd : d ∈ runOf h.toNat (s.image off)) :=
    objectByte small aligned (within hd).1 (within hd).2
  have start : 64 * (h.toNat / 64) = h.toNat := Nat.mul_div_cancel' (Nat.dvd_of_mod_eq_zero aligned)
  rw [requests_one_sector written (fun d hd => (place hd).1) (nodup_runOf _ _) (by rw [start]; exact held)]
  exact strongSent_request alone (fun d hd => objectByte_plain small aligned (within hd).1 (within hd).2 plain) written
    (fun d hd => objectByte_free (within hd).1 (within hd).2 free) (nodup_runOf _ _)
    fun d hd => by rw [(place hd).2.1]; exact room

/-- Settles O29: `sdef` by its checks and its one request, the checks of a descriptor in their order, and the two words
on an object by its ranges. -/
theorem synchronisationObjectWords : Obligations.SynchronisationObjectWords := by
  intro s a b wa wb _ plain ready
  refine ⟨fun accepts off image quiet sound handle ⟨gs, fields⟩ right inside free count turn clear alone held room =>
    ⟨_, exec_sdef accepts plain ready image quiet sound handle fields right inside free count turn, ?_⟩,
    fun dw right => ⟨checkObject_unfit, fun fit named => ⟨checkObject_absent fit named, fun usable refused => ?_,
      fun usable may => ?_⟩⟩, fun wr => ⟨guarded_bad, fun _ => guarded_refused, fun _ => guarded_ranges⟩,
    fun accepts => objectWord_of ready (exec_sacq plain accepts) fun gs exe => exe,
    fun start accepts => objectWord_of ready (exec_srel plain accepts start) fun gs exe may soft => ?_,
    fun sent => ⟨fun released => ?_, fun waits => ?_⟩⟩
  · obtain ⟨home, teams, uwc, sent, bytes⟩ :=
      objectSent_next (strongSent_object (off := off) handle free clear alone held room) 4
    rw [State.image, bytesAt_length] at bytes
    exact ⟨home, teams, uwc, sent, bytes⟩
  · rw [checkObject_of_usable fit named usable, need_false]
    rw [List.all_eq_true]
    exact fun may => refused (forall_guards (p := fun k => right k = true) |>.1 may)
  · rw [checkObject_of_usable fit named usable, need_true]
    · rfl
    · rw [List.all_eq_true]
      exact forall_guards (p := fun k => right k = true) |>.2 may
  · refine ⟨fun clean released => ?_, fun dirty room => ?_⟩
    · rw [exe, writeBackRelease_clean may soft _ clean released, State.finish_done]
    · obtain ⟨t, waits, back⟩ := writeBackRelease_dirty may soft (fun s => .done (s.next 4)) dirty room
      exact ⟨t.awaitSent, by rw [exe, waits, State.finish_wait]; rfl, back.awaits⟩
  · rw [exec_srel_sent sent, State.release, if_pos released, State.finish_done]
  · rw [exec_srel_sent sent, State.release, if_neg (by rw [waits]; decide), State.finish_wait]

end Sys2Proof.Machine
end

section
/-! SUPPORT. Runs of bytes that an engine writes to a scratchpad or to the host (R212, R314). -/

namespace Sys2Proof.Machine

/-! ### Runs written -/

/-- Of a memory only a run of bytes has changed, to the bytes of `data`. -/
def Landed (m m' : List Host.Cell) (lo : Nat) (data : List (Byte × Bool)) : Prop :=
  (∀ i < data.length, byteAt m' (lo + i) = (data.getD i (0, false)).1) ∧
    ∀ k, k < lo ∨ lo + data.length ≤ k → byteAt m' k = byteAt m k

theorem landed_setBytes (m : List Host.Cell) (lo : Nat) (data : List (Byte × Bool)) :
    Landed m (setBytes m (runOf lo (data.map (·.1)))) lo data := by
  refine ⟨fun i hi => ?_, fun k hk => byteAt_setBytes_runOf_of_outside m lo _ (by rwa [List.length_map])⟩
  rw [byteAt_setBytes_runOf m lo _ (by rwa [List.length_map]), List.getElem_map, List.getD_eq_getElem _ _ hi]

/-- A part of some data written, byte by byte. -/
theorem landed_part {m m' : List Host.Cell} {lo k n : Nat} {data : List (Byte × Bool)}
    (landed : Landed m m' lo ((data.drop k).take n)) (inside : n ≤ data.length - k) :
    (∀ i < n, byteAt m' (lo + i) = (data.getD (k + i) (0, false)).1) ∧
      ∀ a, a < lo ∨ lo + n ≤ a → byteAt m' a = byteAt m a := by
  have length : ((data.drop k).take n).length = n := by rw [List.length_take, List.length_drop, Nat.min_eq_left inside]
  rw [Landed, length] at landed
  refine landed.imp_left fun bytes i hi => ?_
  rw [bytes i hi, List.getD_eq_getElem?_getD, List.getElem?_take_of_lt hi, List.getElem?_drop,
    ← List.getD_eq_getElem?_getD]

theorem bytes_markedFrom (lo : Nat) (data : List (Byte × Bool)) :
    (markedFrom lo data).map (fun d => (d.1, d.2.1)) = runOf lo (data.map (·.1)) := by
  induction data generalizing lo with
  | nil => rfl
  | cons b r ih => exact congrArg _ (ih (lo + 1))

theorem markedFrom_eq (lo : Nat) (data : List (Byte × Bool)) :
    markedFrom lo data = (List.range data.length).map fun i => (lo + i, data.getD i (0, false)) := by
  induction data generalizing lo with
  | nil => rfl
  | cons b r ih =>
    obtain ⟨x, p⟩ := b
    rw [markedFrom, ih, List.length_cons, List.range_succ_eq_map, List.map_cons, List.map_map]
    refine congrArg _ (List.map_congr_left fun i _ => ?_)
    rw [Nat.add_right_comm, Nat.add_assoc]
    rfl

theorem mem_markedFrom {lo : Nat} {data : List (Byte × Bool)} {d : Nat × Byte × Bool} :
    d ∈ markedFrom lo data ↔ ∃ i < data.length, (lo + i, data.getD i (0, false)) = d := by
  simp only [markedFrom_eq, List.mem_map, List.mem_range]

theorem keys_markedFrom_nodup (lo : Nat) (data : List (Byte × Bool)) : ((markedFrom lo data).map (·.1)).Nodup := by
  rw [markedFrom_eq, List.map_map]
  exact List.Nodup.map (fun _ _ => Nat.add_left_cancel) List.nodup_range

@[simp] theorem State.team_modTeam_self (s : State) (k : Nat) (f : Team → Team) :
    (s.modTeam k f).team k = f (s.team k) := by
  simp [State.team, State.modTeam, State.setTeam]

theorem landed_putMarked (s : State) (k lo : Nat) (data : List (Byte × Bool)) :
    Landed (s.team k).spad ((s.modTeam k fun x => x.putMarked (markedFrom lo data)).team k).spad lo data := by
  rw [State.team_modTeam_self]
  change Landed _ (setBytes _ ((markedFrom lo data).map fun d => (d.1, d.2.1))) _ _
  rw [bytes_markedFrom]
  exact landed_setBytes _ lo data

end Sys2Proof.Machine
end

section
/-! Translations withdrawn from the cache (O46; R314). -/

namespace Sys2Proof.Machine

/-! ### `ATS_INVALIDATION` (R314 steps 1 to 5) -/

/-- A range of a function's addresses meets an invalidated one. -/
def atsHit (fn lo hi f a b : Nat) : Bool := f == fn && decide (a < hi) && decide (lo < b)

theorem atsHit_iff {fn lo hi f a b : Nat} : atsHit fn lo hi f a b = true ↔ f = fn ∧ a < hi ∧ lo < b := by
  simp [atsHit, and_assoc]

/-- The transfers of a copy that have issued through an invalidated range and are not complete, if there are any: the
copy and how many of them have to be. -/
def CopyOp.awaited (c : CopyOp) (fn lo hi : Nat) : Option (Nat × Nat) :=
  match c.host with
  | some x =>
    if atsHit fn lo hi x.fn (x.addr + 256 * x.back) x.next && decide (x.back < x.sent.length) then
      some (c.id, x.sent.length)
    else none
  | none => none

/-- A copy with its next transfer held where it would use an invalidated range. -/
def CopyOp.barred (c : CopyOp) (fn lo hi : Nat) : CopyOp :=
  match c.host with
  | some x =>
    if atsHit fn lo hi x.fn x.next (x.next + x.size x.sent.length) then { c with host := some { x with held := true } }
    else c
  | none => c

/-- What an invalidation waits for. -/
def State.awaited (s : State) (fn lo hi : Nat) : List (Nat × Nat) := s.copies.filterMap (·.awaited fn lo hi)

theorem exec_atsInvalidation (s : State) (fn lo hi : Nat) : exec (.atsInvalidation fn lo hi) s =
    .next { s with
      host := { s.host with
        ats := s.host.ats.filter fun e => !atsHit fn lo hi e.fn e.lo e.hi
        invals := if (s.awaited fn lo hi).isEmpty then s.host.invals
          else s.host.invals ++ [⟨fn, lo, hi, s.awaited fn lo hi⟩]
        invalDone := if (s.awaited fn lo hi).isEmpty then s.host.invalDone ++ [(fn, lo, hi)]
          else s.host.invalDone }
      copies := s.copies.map (·.barred fn lo hi) } := rfl

/-- A copy has transfers that have issued through an invalidated range and are not complete. -/
def CopyOp.Waits (x : CopyOp) (h : HostXfer) (fn lo hi : Nat) : Prop :=
  x.host = some h ∧ h.back < h.sent.length ∧ h.fn = fn ∧ h.addr + 256 * h.back < hi ∧ lo < h.addr + 256 * h.sent.length

section
variable {s : State} {x : CopyOp} {h : HostXfer} {fn lo hi : Nat}

theorem awaited_of_waits (waits : x.Waits h fn lo hi) : x.awaited fn lo hi = some (x.id, h.sent.length) := by
  obtain ⟨host, under, range⟩ := waits
  rw [CopyOp.awaited, host]
  exact if_pos (by rw [Bool.and_eq_true, decide_eq_true_eq]; exact ⟨atsHit_iff.2 range, under⟩)

theorem waits_of_awaited {w : Nat × Nat} (awaited : x.awaited fn lo hi = some w) : ∃ h, x.Waits h fn lo hi := by
  unfold CopyOp.awaited at awaited
  split at awaited
  · next h host =>
    split at awaited
    · next both =>
      rw [Bool.and_eq_true, decide_eq_true_eq] at both
      exact ⟨h, host, both.2, atsHit_iff.1 both.1⟩
    · cases awaited
  · cases awaited

theorem mem_awaited_of_waits (mem : x ∈ s.copies) (waits : x.Waits h fn lo hi) :
    (x.id, h.sent.length) ∈ s.awaited fn lo hi := List.mem_filterMap.2 ⟨x, mem, awaited_of_waits waits⟩

theorem awaited_eq_nil (idle : ∀ x ∈ s.copies, ∀ h, ¬x.Waits h fn lo hi) : s.awaited fn lo hi = [] := by
  rw [List.eq_nil_iff_forall_not_mem]
  intro w hw
  obtain ⟨x, mem, awaited⟩ := List.mem_filterMap.1 hw
  obtain ⟨h, waits⟩ := waits_of_awaited awaited
  exact idle x mem h waits

theorem barred_id : (x.barred fn lo hi).id = x.id := by
  unfold CopyOp.barred
  split
  · split <;> rfl
  · rfl

/-- No copy that an invalidation leaves can issue its next transfer through the range. -/
theorem held_of_barred (host : (x.barred fn lo hi).host = some h)
    (range : h.fn = fn ∧ h.next < hi ∧ lo < h.next + h.size h.sent.length) : h.held = true := by
  unfold CopyOp.barred at host
  split at host
  · next y found =>
    split at host
    · exact Option.some.inj host ▸ rfl
    · next free =>
      obtain rfl : y = h := Option.some.inj (found.symm.trans host)
      exact absurd (atsHit_iff.2 range) free
  · next found => cases found.symm.trans host

end

theorem atsInvalidation_gives (s : State) (fn lo hi : Nat) : Gives (.atsInvalidation fn lo hi) s fun t =>
    t.host.ats = s.host.ats.filter (fun e => !(e.fn == fn && decide (e.lo < hi) && decide (lo < e.hi))) ∧
    t.mem = s.mem ∧ t.copies.map (·.id) = s.copies.map (·.id) ∧
    (∀ x ∈ t.copies, ∀ h, x.host = some h →
      h.fn = fn ∧ h.next < hi ∧ lo < h.next + h.size h.sent.length → h.held = true) ∧
    ((∀ x ∈ s.copies, ∀ h, ¬x.Waits h fn lo hi) → t.host.invals = s.host.invals ∧
      t.host.invalDone = s.host.invalDone ++ [(fn, lo, hi)]) ∧
    ∀ x ∈ s.copies, ∀ h, x.Waits h fn lo hi → t.host.invalDone = s.host.invalDone ∧
      ∃ v, t.host.invals = s.host.invals ++ [v] ∧ v.fn = fn ∧ v.lo = lo ∧ v.hi = hi ∧
        (x.id, h.sent.length) ∈ v.waits := by
  refine ⟨_, exec_atsInvalidation s fn lo hi, rfl, rfl, ?_, ?_, fun idle => ?_, fun x mem h waits => ?_⟩
  · rw [List.map_map]
    exact List.map_congr_left fun x _ => barred_id
  · intro x mem h host range
    obtain ⟨y, -, rfl⟩ := List.mem_map.1 mem
    exact held_of_barred host range
  · have empty := awaited_eq_nil idle
    exact ⟨if_pos (List.isEmpty_iff.2 empty), if_pos (List.isEmpty_iff.2 empty)⟩
  · have awaited := mem_awaited_of_waits mem waits
    have some_left : ¬(s.awaited fn lo hi).isEmpty = true := by
      rw [List.isEmpty_iff]
      exact List.ne_nil_of_mem awaited
    exact ⟨if_neg some_left, _, if_neg some_left, rfl, rfl, rfl, awaited⟩

end Sys2Proof.Machine
end

section
/-! SUPPORT. Lookups of a table and rows seen at their home (R23, R31, R199). -/

namespace Sys2Proof.Machine

/-! ### Lookups (R23, R199) -/

section
variable {s : State} {l slot : Nat} {t : Table} {k : Int}

theorem findKey_of_finds (finds : s.Finds l t k slot) : s.findKey l t k = some slot := by
  unfold State.Finds at finds
  unfold State.findKey
  split at finds
  · next dense =>
    obtain ⟨low, high, rfl⟩ := finds
    rw [if_pos dense, if_pos ⟨low, high⟩]
  · next keyed =>
    obtain ⟨distinct, r, mem, key, sees, rfl⟩ := finds
    rw [if_neg keyed]
    cases found : t.rows.find? fun r => r.key == k && s.sees l r with
    | none => exact absurd (List.find?_eq_none.1 found r mem) (by simp [key, sees])
    | some y =>
      have chosen := List.find?_some found
      rw [Bool.and_eq_true, beq_iff_eq] at chosen
      rw [List.inj_on_of_nodup_map distinct (List.mem_of_find?_eq_some found) mem (chosen.1.trans key.symm)]
      rfl

theorem findKey_of_misses (misses : s.Misses l t k) : s.findKey l t k = none := by
  unfold State.Misses at misses
  unfold State.findKey
  split at misses
  · next dense => rw [if_pos dense, if_neg (by omega)]
  · next keyed =>
    rw [if_neg keyed, List.find?_eq_none.2]
    · rfl
    · intro r mem
      rw [Bool.and_eq_true, beq_iff_eq]
      rintro ⟨key, sees⟩
      exact Bool.false_ne_true ((misses r mem key).symm.trans sees)

end

theorem toNat_slotHandle {t : Table} {tid slot : Nat} (small : tid < 2 ^ 20) (usable : t.usable tid = true)
    (inside : slot < t.slots) : (slotHandle t tid slot).toNat = tid * 2 ^ 42 + slot * t.rowSize ∧
      slot * t.rowSize + t.rowSize ≤ 2 ^ 42 := by
  have slots : t.slots * t.rowSize ≤ 2 ^ 42 := by
    simp only [Table.usable, Bool.and_eq_true, decide_eq_true_eq] at usable
    exact usable.2
  have row : 0 < t.rowSize := Nat.two_pow_pos _
  have last : slot * t.rowSize + t.rowSize ≤ 2 ^ 42 :=
    (Nat.succ_mul slot _).symm.trans_le ((Nat.mul_le_mul_right _ inside).trans slots)
  refine ⟨?_, last⟩
  rw [slotHandle, handle, BitVec.toNat_ofNat, Nat.mod_eq_of_lt]
  omega

/-! ### Rows at their home (R31) -/

section
variable {s : State} {keys : List Nat}

/-- Bytes that are not encrypted are seen as they are stored. -/
theorem homeSeen_plain (plain : ∀ k ∈ keys, k < sideBase ∧ s.slotOfKey (32 * unitOf k) = none) :
    (s.homeSeen keys).bytes = keys.map (byteAt s.mem.home) := by
  rw [State.homeSeen, State.see_bytes]
  exact List.map_congr_left fun k hk => State.openUnit_plain (plain k hk).1 (plain k hk).2

theorem homeSeen_sound (sound : ∀ k ∈ keys, s.unitPoisoned k = false) : (s.homeSeen keys).bad = false := by
  rw [← Bool.not_eq_true, State.homeSeen, State.see_bad]
  rintro ⟨k, hk, bad⟩
  have fine := sound k hk
  rw [State.unitPoisoned, Bool.or_eq_false_iff] at fine
  exact bad.elim (fun tag => Bool.false_ne_true (fine.2.symm.trans tag))
    fun unit => Bool.false_ne_true (fine.1.symm.trans unit)

end

/-- A row that is neither encrypted nor poisoned is seen as it stands. -/
theorem homeSeen_row {s : State} {tid pos n : Nat} (small : tid < 2 ^ 20) (within : pos + n ≤ 2 ^ 42)
    (plain : (s.table tid).ownw = false) (sound : ∀ i < n, s.unitPoisoned (tid * 2 ^ 42 + pos + i) = false) :
    (s.homeSeen (elementKeys (tid * 2 ^ 42 + pos) n)).bytes = bytesAt s.mem.home (tid * 2 ^ 42 + pos) n ∧
    (s.homeSeen (elementKeys (tid * 2 ^ 42 + pos) n)).bad = false := by
  constructor
  · rw [homeSeen_plain, elementKeys, List.map_map, bytesAt]
    · exact List.map_congr_left fun _ _ => rfl
    · intro k hk
      obtain ⟨i, hi, rfl⟩ := List.mem_map.1 hk
      rw [List.mem_range] at hi
      rw [Nat.add_assoc, sideBase]
      exact ⟨by omega, State.slotOfKey_unit small (by omega) plain⟩
  · refine homeSeen_sound fun k hk => ?_
    obtain ⟨i, hi, rfl⟩ := List.mem_map.1 hk
    exact sound i (List.mem_range.1 hi)

end Sys2Proof.Machine
end

section
/-! Gathers (O46; R174, R207). -/

namespace Sys2Proof.Machine

/-! ### The key list (R174, R207) -/

section
variable {s : State} {g : Gather} {tk off : Nat}

/-- Bytes of a scratchpad that are not poisoned read as they stand. -/
theorem readLoc_spad {n : Nat} (cl : Nat) (sound : ∀ i < n, (off + i) / 32 ∉ (s.team tk).spadPoison) :
    s.readLoc cl false (.spad tk off) n = (s, bytesAt (s.team tk).spad off n, false) := by
  have clean : ((dedup (((Loc.spad tk off).keys n).map (· / 32))).any (s.team tk).spadPoison.contains) = false := by
    rw [List.any_eq_false]
    intro u hu
    rw [mem_dedup_iff] at hu
    obtain ⟨k, hk, rfl⟩ := List.mem_map.1 hu
    obtain ⟨i, hi, rfl⟩ := List.mem_map.1 hk
    rw [List.contains_iff_mem]
    exact sound i (List.mem_range.1 hi)
  exact congrArg (fun b => (s, bytesAt (s.team tk).spad off n, b)) clean

/-- Key `j` of a gather whose list is in a scratchpad. -/
def State.listKey (s : State) (tk off ty j : Nat) : Nat := leNat (bytesAt (s.team tk).spad (off + j * ty) ty)

theorem gatherKeys_spad (list : g.list = .spad tk off)
    (sound : ∀ i < g.n * g.ty, (off + i) / 32 ∉ (s.team tk).spadPoison) :
    s.gatherKeys g = (s, (List.range g.n).map fun j => (s.listKey tk off g.ty j, false)) := by
  unfold State.gatherKeys
  have upTo (m : Nat) (hm : m ≤ g.n) : (List.range m).foldl (fun a i =>
      let r := a.1.readLoc (a.1.clusterOf g.gid) false (g.keyLoc i) g.ty
      (r.1, a.2 ++ [(leNat r.2.1, r.2.2)])) (s, []) =
      (s, (List.range m).map fun j => (s.listKey tk off g.ty j, false)) := by
    induction m with
    | zero => rfl
    | succ m ih =>
      have place : g.keyLoc m = .spad tk (off + m * g.ty) := by rw [Gather.keyLoc, list]; rfl
      have last : m * g.ty + g.ty ≤ g.n * g.ty := (Nat.succ_mul m _).symm.trans_le (Nat.mul_le_mul_right _ hm)
      rw [List.range_succ, List.foldl_concat, ih (by omega), place,
        readLoc_spad _ fun i hi => Nat.add_assoc off _ i ▸ sound (m * g.ty + i) (by omega), List.map_append]
      rfl
  exact upTo g.n le_rfl

/-- A state in which a gather has read its keys and its R entry has retired. -/
def State.listed (s : State) (g : Gather) (ks : List (Nat × Bool)) : State :=
  { s.retireScore g.id false with
    gathers := s.gathers.map fun x => if x.id = g.id then { x with keys := some ks } else x }

theorem gatherListed_spad (list : g.list = .spad tk off) (unread : g.keys = none)
    (sound : ∀ i < g.n * g.ty, (off + i) / 32 ∉ (s.team tk).spadPoison)
    (free : ∀ w e, s.scoreOf g.id w = some e → scoreFree s.score e = true) :
    s.gatherListed g = some (s.listed g ((List.range g.n).map fun j => (s.listKey tk off g.ty j, false)),
      (List.range g.n).map fun j => (s.listKey tk off g.ty j, false)) := by
  have ready : s.gatherListHeld g = false := by
    rw [State.gatherListHeld, list]
    dsimp only
    split
    · next e entry => rw [free false e entry]; rfl
    · rfl
  simp only [State.gatherListed, unread, ready, gatherKeys_spad list sound]
  rfl

end

/-! ### The rows (R31, R207) -/

section
variable {s : State} {g : Gather} {tk off j : Nat}

theorem length_gatherRow (key : Nat × Bool) : (s.gatherRow g key).1.length = (s.tableAs g.tid g.desc).rowSize := by
  unfold State.gatherRow
  dsimp only
  split
  · simp [State.homeSeen, State.see]
  · simp

variable (desc : g.desc = (s.table g.tid).dw)
include desc

theorem tableAs_desc : s.tableAs g.tid g.desc = s.table g.tid := by rw [State.tableAs, desc]

variable (soundDesc : (s.table g.tid).poisonDesc = false) (soundIndex : (s.table g.tid).poisonIndex = false) {key : Nat}
include soundDesc soundIndex

theorem gatherLookup_sound : s.gatherLookup g (key, false) =
    s.lookup (launchOfTeam (teamOf g.gid)) (s.table g.tid) g.tid g.dft (some key) := by
  unfold State.gatherLookup
  dsimp only
  rw [soundDesc, soundIndex, tableAs_desc desc]
  rfl

/-- A row that a key finds, whole and with status 0. -/
theorem gatherRow_found {slot : Nat} (small : g.tid < 2 ^ 20) (plain : (s.table g.tid).ownw = false)
    (finds : s.Finds (launchOfTeam (teamOf g.gid)) (s.table g.tid) (keyInt (s.table g.tid).keyt key) slot)
    (usable : (s.table g.tid).usable g.tid = true) (inside : slot < (s.table g.tid).slots)
    (sound : ∀ i < (s.table g.tid).rowSize,
      s.unitPoisoned (g.tid * 2 ^ 42 + slot * (s.table g.tid).rowSize + i) = false) :
    (s.gatherRow g (key, false)).1.map (·.1) =
      bytesAt s.mem.home (g.tid * 2 ^ 42 + slot * (s.table g.tid).rowSize) (s.table g.tid).rowSize ∧
    (s.gatherRow g (key, false)).2.1 = stOk := by
  obtain ⟨place, within⟩ := toNat_slotHandle small usable inside
  obtain ⟨bytes, fine⟩ := homeSeen_row small within plain sound
  have looked : s.gatherLookup g (key, false) = (slotHandle (s.table g.tid) g.tid slot, stOk) := by
    rw [gatherLookup_sound desc soundDesc soundIndex, State.lookup, findKey_of_finds finds]
  unfold State.gatherRow
  rw [looked, tableAs_desc desc]
  dsimp only
  rw [if_pos (by decide), place, show (List.range (s.table g.tid).rowSize).map
    (g.tid * 2 ^ 42 + slot * (s.table g.tid).rowSize + ·) = elementKeys _ _ from rfl, fine, bytes]
  refine ⟨?_, rfl⟩
  rw [List.map_map]
  exact List.map_snd_zip (by simp [elementKeys])

/-- A key without a row: zeros and status 2. -/
theorem gatherRow_missed
    (misses : s.Misses (launchOfTeam (teamOf g.gid)) (s.table g.tid) (keyInt (s.table g.tid).keyt key))
    (noDefault : g.dft = false) : s.gatherRow g (key, false) =
      (List.replicate (s.table g.tid).rowSize (0, false), stAbsent, []) := by
  have looked : s.gatherLookup g (key, false) = (0, stAbsent) := by
    rw [gatherLookup_sound desc soundDesc soundIndex, State.lookup, findKey_of_misses misses, noDefault]
    rfl
  unfold State.gatherRow
  rw [looked, tableAs_desc desc]
  exact if_neg (by decide)

end

/-! ### Rows and statuses laid out one after the other (R207) -/

section
variable {α : Type} (f : Nat → List α × Nat × List Nat) (status : Nat → α) (n : Nat)

/-- The rows of a gather and then their statuses. -/
def layOut : List α :=
  ((List.range n).map f).flatMap (·.1) ++ ((List.range n).map f).map fun x => status x.2.1

variable {f status n} {k : Nat} (len : ∀ j, (f j).1.length = k)
include len

theorem length_rows : (((List.range n).map f).flatMap (·.1)).length = n * k := by
  simp [List.length_flatMap, Function.comp_def, len]

theorem length_layOut : (layOut f status n).length = n * k + n := by
  rw [layOut, List.length_append, length_rows len]
  simp

variable {j : Nat} (hj : j < n)
include hj

theorem layOut_row {i : Nat} (hi : i < k) : (layOut f status n)[j * k + i]? = (f j).1[i]? := by
  have before : j * k + i < n * k :=
    calc j * k + i < j * k + k := Nat.add_lt_add_left hi _
      _ = (j + 1) * k := (Nat.succ_mul j k).symm
      _ ≤ n * k := Nat.mul_le_mul_right k hj
  rw [layOut, List.getElem?_append_left (by rwa [length_rows len]), List.flatMap_map, Nat.mul_comm j k]
  exact getElem?_flatMap_range len hj hi

theorem layOut_status : (layOut f status n)[n * k + j]? = some (status (f j).2.1) := by
  rw [layOut, List.getElem?_append_right (by rw [length_rows len]; omega), length_rows len, Nat.add_sub_cancel_left]
  simp [hj]

end

/-! ### The landing (R207) -/

theorem logTags_eq (s : State) (us : List Nat) : ∃ stag, s.logTags us = { s with stag } := by
  unfold State.logTags
  split
  · exact ⟨s.stag, rfl⟩
  · exact ⟨_, rfl⟩

/-- The bytes that a gather lands for its keys. -/
def State.gatherData (s : State) (g : Gather) (key : Nat → Nat) : List (Byte × Bool) :=
  layOut (fun j => s.gatherRow g (key j, false)) (fun st => (BitVec.ofNat 8 st, false)) g.n

/-- A gather has left with its scoreboard entries, and its bytes stand in its scratchpad. -/
structure GatherLanded (s t : State) (g : Gather) (key : Nat → Nat) : Prop where
  gathers : t.gathers.map (·.id) = (s.gathers.map (·.id)).filter (· != g.id)
  score : t.score = s.score.filter fun e => e.op != g.id
  mem : t.mem = s.mem
  spad : Landed (s.team (teamOf g.gid)).spad (t.team (teamOf g.gid)).spad g.off (s.gatherData g key)

/-- The rows of a gather and their statuses landed, its place and its scoreboard entries given up. -/
def State.landGather (s : State) (id : Nat) (g : Gather) (rows : List (List (Byte × Bool) × Nat × List Nat)) : State :=
  let u := (s.modTeam (teamOf g.gid) fun x => x.putMarked (markedFrom g.off
    (rows.flatMap (·.1) ++ rows.map fun x => (BitVec.ofNat 8 x.2.1, false)))).logTags (rows.flatMap (·.2.2))
  { u with gathers := u.gathers.filter fun x => x.id != id, score := u.score.filter fun e => e.op != id }

theorem landGather_leaves (s : State) (id : Nat) (g : Gather) (rows : List (List (Byte × Bool) × Nat × List Nat)) :
    let t := s.landGather id g rows
    t.groups = s.groups ∧ t.mem = s.mem ∧ t.gathers = s.gathers.filter (fun x => x.id != id) ∧
    t.score = s.score.filter (fun e => e.op != id) ∧
    Landed (s.team (teamOf g.gid)).spad (t.team (teamOf g.gid)).spad g.off
      (rows.flatMap (·.1) ++ rows.map fun x => (BitVec.ofNat 8 x.2.1, false)) := by
  unfold State.landGather
  dsimp only
  obtain ⟨stag, logged⟩ := logTags_eq (s.modTeam (teamOf g.gid) fun x => x.putMarked (markedFrom g.off
    (rows.flatMap (·.1) ++ rows.map fun x => (BitVec.ofNat 8 x.2.1, false)))) (rows.flatMap (·.2.2))
  rw [logged]
  exact ⟨rfl, rfl, rfl, rfl, landed_putMarked s (teamOf g.gid) g.off _⟩

theorem gathers_filter_listed (s : State) (g : Gather) (ks : List (Nat × Bool)) (id : Nat) :
    ((s.listed g ks).gathers.filter fun x => x.id != id).map (·.id) = (s.gathers.map (·.id)).filter (· != id) := by
  have ids : (s.listed g ks).gathers.map (·.id) = s.gathers.map (·.id) := by
    refine List.map_map.trans (List.map_congr_left fun x _ => ?_)
    dsimp only [Function.comp_apply]
    split <;> rfl
  rw [← ids, List.filter_map]
  rfl

section
variable {s : State} {id core : Nat} {g : Gather}

/-- What a gather lands is found under the state it has read its keys in: lookups and rows are the same. -/
theorem gatherRow_listed (ks : List (Nat × Bool)) (key : Nat × Bool) :
    (s.listed g ks).gatherRow g key = s.gatherRow g key := rfl

theorem gatherShut_of_open (open_ : ∀ k, s.channelShut k = false) (key : Nat × Bool) : s.gatherShut g key = false := by
  simp [State.gatherShut, open_]

theorem gather_id_of_found (found : s.gathers.find? (fun x => x.id == id) = some g) : g.id = id := by
  simpa using List.find?_some found

/-- Nothing that was registered before the W entry of a gather is left in its way (R174). -/
def State.gatherTurn (s : State) (id : Nat) : Bool :=
  match s.scoreOf id true with
  | some e => scoreFree s.score e
  | none => true

theorem exec_gatherComplete (found : s.gathers.find? (fun x => x.id == id) = some g) : exec (.gatherComplete id) s =
    if s.walking (s.coreOf g.gid) (g.tid * 2 ^ 42) || s.orderHeld g.tid || !s.gatherTurn id then .next s
    else match s.gatherListed g with
      | none => .next s
      | some (t, ks) =>
        if ks.any (t.gatherShut g) then .next t
        else .next ((t.landGather id g (ks.map (t.gatherRow g))).settleExit g.gid) := by
  change execGatherComplete id s = _
  rw [execGatherComplete, found]
  rfl

variable (free : (s.score.all fun e => e.op != id || scoreFree s.score e) = true)
include free

theorem scoreFree_of_scoreOf {w : Bool} {e : ScoreEntry} (entry : s.scoreOf id w = some e) :
    scoreFree s.score e = true := by
  have own := List.find?_some entry
  have ok := List.all_eq_true.1 free e (List.mem_of_find?_eq_some entry)
  simp_all

theorem gatherTurn_of_free : s.gatherTurn id = true := by
  unfold State.gatherTurn
  split
  · next e entry => exact scoreFree_of_scoreOf free entry
  · rfl

variable (found : s.gathers.find? (fun x => x.id == id) = some g) {tk off : Nat} (list : g.list = .spad tk off)
  (unread : g.keys = none) (sound : ∀ i < g.n * g.ty, (off + i) / 32 ∉ (s.team tk).spadPoison)
include found list unread sound

theorem gather_listed : s.gatherListed g =
    some (s.listed g ((List.range g.n).map fun j => (s.listKey tk off g.ty j, false)),
      (List.range g.n).map fun j => (s.listKey tk off g.ty j, false)) :=
  gatherListed_spad list unread sound fun _ _ entry =>
    scoreFree_of_scoreOf free (gather_id_of_found found ▸ entry)

/-- The R entry of a gather retires with its keys read (R174). -/
theorem exec_retire_gather {e : ScoreEntry} (entry : s.scoreOf id false = some e) (here : e.core = core)
    (noCopy : ∀ x ∈ s.copies, x.id ≠ id) : exec (.scoreboardEntryRetire core id false) s =
      .next (s.listed g ((List.range g.n).map fun j => (s.listKey tk off g.ty j, false))) := by
  have missing : s.copies.find? (fun c => c.id == id) = none := by simpa using noCopy
  change execScoreboardEntryRetire core id false s = _
  simp only [execScoreboardEntryRetire, entry, here, scoreFree_of_scoreOf free entry, missing, found,
    gather_listed free found list unread sound]
  simp

variable (order : s.orderHeld g.tid = false) (walk : s.walking (s.coreOf g.gid) (g.tid * 2 ^ 42) = false)
  (open_ : ∀ k, s.channelShut k = false) (active : (s.group g.gid).status ≠ .draining)
include order walk open_ active

theorem gatherComplete_lands : Gives (.gatherComplete id) s fun t => GatherLanded s t g (s.listKey tk off g.ty) := by
  let ks := (List.range g.n).map fun j => (s.listKey tk off g.ty j, false)
  have ready : (s.walking (s.coreOf g.gid) (g.tid * 2 ^ 42) || s.orderHeld g.tid || !s.gatherTurn id) = false := by
    rw [walk, order, gatherTurn_of_free free]
    rfl
  have shut : ks.any ((s.listed g ks).gatherShut g) = false :=
    List.any_eq_false.2 fun key _ => Bool.eq_false_iff.1 (gatherShut_of_open (s := s.listed g ks) open_ key)
  have exe := exec_gatherComplete found
  rw [if_neg (Bool.eq_false_iff.1 ready), gather_listed free found list unread sound] at exe
  dsimp only at exe
  rw [if_neg (Bool.eq_false_iff.1 shut)] at exe
  obtain ⟨groups, mem, gathers, score, spad⟩ :=
    landGather_leaves (s.listed g ks) id g (ks.map ((s.listed g ks).gatherRow g))
  have rows : ks.map ((s.listed g ks).gatherRow g) =
      (List.range g.n).map fun j => s.gatherRow g (s.listKey tk off g.ty j, false) :=
    List.map_map.trans (List.map_congr_left fun _ _ => gatherRow_listed ks _)
  rw [settleExit_of_not_draining (by rw [State.group, groups]; exact active)] at exe
  obtain rfl := gather_id_of_found found
  refine ⟨_, exe, ?_, ?_, mem, ?_⟩
  · rw [gathers]
    exact gathers_filter_listed s g ks g.id
  · refine score.trans (List.filter_filter.trans (List.filter_congr fun e _ => ?_))
    cases own : e.op == g.id <;> simp [bne, own]
  · rw [State.gatherData, layOut, ← rows]
    exact spad

end

/-! ### What stands in the scratchpad -/

section
variable {s t : State} {g : Gather} {key : Nat → Nat} (landed : GatherLanded s t g key)
  (desc : g.desc = (s.table g.tid).dw)
include landed desc

theorem GatherLanded.outside {k : Nat}
    (out : k < g.off ∨ g.off + g.n * (s.table g.tid).rowSize + g.n ≤ k) :
    byteAt (t.team (teamOf g.gid)).spad k = byteAt (s.team (teamOf g.gid)).spad k := by
  refine landed.spad.2 k ?_
  rwa [State.gatherData, length_layOut fun j => length_gatherRow _, tableAs_desc desc, ← Nat.add_assoc]

variable {j : Nat} (hj : j < g.n)
include hj

theorem GatherLanded.row : bytesAt (t.team (teamOf g.gid)).spad (g.off + j * (s.table g.tid).rowSize)
    (s.table g.tid).rowSize = (s.gatherRow g (key j, false)).1.map (·.1) := by
  have len (j : Nat) : (s.gatherRow g (key j, false)).1.length = (s.table g.tid).rowSize := by
    rw [length_gatherRow, tableAs_desc desc]
  refine List.ext_getElem (by rw [bytesAt_length, List.length_map, len]) fun i hi hi' => ?_
  rw [bytesAt_length] at hi
  have found := layOut_row (status := fun st => (BitVec.ofNat 8 st, false)) len hj hi
  have inside := (List.getElem?_eq_some_iff.1 (found.trans (List.getElem?_eq_getElem (by rwa [len])))).1
  simp only [bytesAt, List.getElem_map, List.getElem_range]
  rw [Nat.add_assoc, landed.spad.1 _ inside, State.gatherData, List.getD_eq_getElem?_getD, found,
    List.getElem?_eq_getElem (by rwa [len]), Option.getD_some]

theorem GatherLanded.status : byteAt (t.team (teamOf g.gid)).spad (g.off + g.n * (s.table g.tid).rowSize + j) =
    BitVec.ofNat 8 (s.gatherRow g (key j, false)).2.1 := by
  have len (j : Nat) : (s.gatherRow g (key j, false)).1.length = (s.table g.tid).rowSize := by
    rw [length_gatherRow, tableAs_desc desc]
  have found := layOut_status (status := fun st => (BitVec.ofNat 8 st, false)) len hj
  have inside := (List.getElem?_eq_some_iff.1 found).1
  rw [Nat.add_assoc, landed.spad.1 _ inside, State.gatherData, List.getD_eq_getElem?_getD, found, Option.getD_some]

variable (soundDesc : (s.table g.tid).poisonDesc = false) (soundIndex : (s.table g.tid).poisonIndex = false)
include soundDesc soundIndex

/-- A key that is found: its row as it stands at its home, and status 0. -/
theorem GatherLanded.found {slot : Nat} (small : g.tid < 2 ^ 20) (plain : (s.table g.tid).ownw = false)
    (finds : s.Finds (launchOfTeam (teamOf g.gid)) (s.table g.tid) (keyInt (s.table g.tid).keyt (key j)) slot)
    (usable : (s.table g.tid).usable g.tid = true) (inside : slot < (s.table g.tid).slots)
    (sound : ∀ i < (s.table g.tid).rowSize,
      s.unitPoisoned (g.tid * 2 ^ 42 + slot * (s.table g.tid).rowSize + i) = false) :
    bytesAt (t.team (teamOf g.gid)).spad (g.off + j * (s.table g.tid).rowSize) (s.table g.tid).rowSize =
      bytesAt s.mem.home (g.tid * 2 ^ 42 + slot * (s.table g.tid).rowSize) (s.table g.tid).rowSize ∧
    (byteAt (t.team (teamOf g.gid)).spad (g.off + g.n * (s.table g.tid).rowSize + j)).toNat = 0 := by
  obtain ⟨bytes, status⟩ := gatherRow_found desc soundDesc soundIndex small plain finds usable inside sound
  rw [landed.row desc hj, landed.status desc hj, bytes, status]
  exact ⟨rfl, rfl⟩

/-- A key that misses without a default row: zeros, and status 2. -/
theorem GatherLanded.missed
    (misses : s.Misses (launchOfTeam (teamOf g.gid)) (s.table g.tid) (keyInt (s.table g.tid).keyt (key j)))
    (noDefault : g.dft = false) :
    (∀ i < (s.table g.tid).rowSize,
      byteAt (t.team (teamOf g.gid)).spad (g.off + j * (s.table g.tid).rowSize + i) = 0) ∧
    (byteAt (t.team (teamOf g.gid)).spad (g.off + g.n * (s.table g.tid).rowSize + j)).toNat = 2 := by
  have missed := gatherRow_missed desc soundDesc soundIndex misses noDefault
  have row := landed.row desc hj
  rw [missed, List.map_replicate] at row
  refine ⟨fun i hi => ?_, by rw [landed.status desc hj, missed]; rfl⟩
  have byte := List.getElem_of_eq row (by rwa [bytesAt_length])
  simpa [bytesAt] using byte

end

end Sys2Proof.Machine
end

section
/-! SUPPORT. Copies in work: the copy that an event names, and the bytes of a plain copy (R209, R211). -/

namespace Sys2Proof.Machine

/-! ### The copy that an event names -/

section
variable {s : State} {id : Nat} {c : CopyOp} (found : s.copies.find? (fun x => x.id == id) = some c)
include found

theorem copy_id_of_found : c.id = id := by simpa using List.find?_some found

theorem mem_modCopy (f : CopyOp → CopyOp) : f c ∈ (s.modCopy id f).copies :=
  List.mem_map.2 ⟨c, List.mem_of_find?_eq_some found, if_pos (copy_id_of_found found)⟩

end

/-! ### Plain copies (R211) -/

section
variable {c : CopyOp} {e : List W64}

/-- A plain copy moves its bytes as they are, with their poison. -/
theorem ceMove_copy (plain : ceOp e = 0) (src : List (Byte × Bool)) : ceMove e src = src := by
  have from_ (j : Nat) : ceFrom e j = [j] := by rw [ceFrom, plain]; rfl
  unfold ceMove
  simp only [plain, from_]
  refine List.ext_getElem (by simp) fun i hi hi' => ?_
  simp [List.getD_eq_getElem?_getD, hi']

theorem ceSrcOffs_copy (plain : ceOp e = 0) : ceSrcOffs e = List.range (ceLen e) := by
  rw [ceSrcOffs, if_neg (by omega), ceSrcLen, plain]
  rfl

/-- Of a range, the numbers below a bound come first. -/
theorem takeWhile_range {p : Nat → Bool} {m n : Nat} (le : m ≤ n) (below : ∀ j < n, p j = decide (j < m)) :
    (List.range n).takeWhile p = List.range m := by
  obtain ⟨k, rfl⟩ := Nat.exists_eq_add_of_le le
  rw [List.range_add, List.takeWhile_append_of_pos fun j hj => ?_]
  · cases k with
    | zero => simp
    | succ k =>
      have fails : p m = false := by simp [below m (by omega)]
      simp [List.range_succ_eq_map, fails]
  · rw [List.mem_range] at hj
    simp [below j (by omega), hj]

/-- What a plain copy can write once the first bytes of its source have been read: those. -/
theorem readOut_copy (plain : ceOp c.entry = 0) {got : List Byte} (short : got.length ≤ ceLen c.entry) :
    c.readOut got = got.map fun y => (y, false) := by
  unfold CopyOp.readOut
  simp only [ceMove_copy plain, ceSrcOffs_copy plain, List.length_map, List.length_range]
  rw [takeWhile_range short fun j hj => ?_]
  · refine List.ext_getElem (by simpa using short) fun i hi hi' => ?_
    rw [List.length_map] at hi'
    simp [List.getD_eq_getElem?_getD, hi']
  · rw [ceFrom, plain]
    simp [List.getD_eq_getElem?_getD, hj]

end

end Sys2Proof.Machine
end

section
/-! The host transfers of a copy (O46; R314). -/

namespace Sys2Proof.Machine

/-- A copy that moves a host page has no source for the engine itself to read. -/
theorem sourced_of_host {s : State} {c : CopyOp} {h : HostXfer} (host : c.host = some h) (working : c.done = false) :
    s.sourced c = c.data.map fun _ => (s, c) := by
  rw [State.sourced, if_neg (by simp [working])]
  cases c.data with
  | some data => rfl
  | none => simp [host]

/-- Nothing but a missing translation keeps the next transfer of a copy from issuing. -/
theorem hostIssue_may {c : CopyOp} {h : HostXfer} (free : h.held = false)
    (more : h.sent.length < (h.len + 255) / 256) (ready : h.write = true → c.data.isSome = true) :
    (h.held || decide (h.count ≤ h.sent.length) || (h.write && c.data.isNone)) = false := by
  rw [free, decide_eq_false (show ¬h.count ≤ h.sent.length from Nat.not_le.2 more)]
  cases write : h.write with
  | false => rfl
  | true =>
    obtain ⟨data, some_data⟩ := Option.isSome_iff_exists.1 (ready write)
    rw [some_data]
    rfl

/-- A copy of a state stands with some host transfers. -/
def State.HasXfer (t : State) (id : Nat) (h : HostXfer) : Prop := ∃ x ∈ t.copies, x.id = id ∧ x.host = some h

section
variable {s : State} {id base : Nat} {c : CopyOp} {h : HostXfer}
  (found : s.copies.find? (fun x => x.id == id) = some c) (host : c.host = some h)

include found

theorem hasXfer_setXfer (h : HostXfer) : (s.modCopy id fun c => { c with host := some h }).HasXfer id h :=
  have same := copy_id_of_found found
  ⟨_, mem_modCopy found fun c => { c with host := some h }, same, rfl⟩

include host

/-! ### `ATS_TRANSLATION_RESPONSE` (R314 step 6) -/

section
variable (held : h.held = true)
include held

theorem atsTranslation_granted : Gives (.atsTranslationResponse id (some base)) s fun t =>
    t.host.ats.head? = some ⟨h.fn, h.next, h.addr + h.len, base⟩ ∧ t.HasXfer id { h with held := false } := by
  have exe : exec (.atsTranslationResponse id (some base)) s =
      .next { s.modCopy id fun c => { c with host := some { h with held := false } } with
        host := { s.host with ats := (⟨h.fn, h.next, h.addr + h.len, base⟩ :: s.host.ats).take 8192 } } := by
    change execAtsTranslationResponse id (some base) s = _
    simp only [execAtsTranslationResponse, found, host, held]
    rfl
  exact ⟨_, exe, rfl, hasXfer_setXfer found _⟩

theorem exec_atsTranslation_refused : exec (.atsTranslationResponse id none) s =
    .next (if h.write ∨ h.sent = [] then
        { s.modCopy id fun c => c.refused h with score := s.score.filter fun e => e.op != id }
      else s.modCopy id fun c => c.refused h) := by
  change execAtsTranslationResponse id none s = _
  simp only [execAtsTranslationResponse, found, host, held]
  rfl

/-- A refused write, and a read of which nothing has issued, end their entry. -/
theorem atsTranslation_ends (last : h.write = true ∨ h.sent = []) : Gives (.atsTranslationResponse id none) s fun t =>
    t.score = s.score.filter (fun e => e.op != id) ∧
    ∃ x ∈ t.copies, x.id = id ∧ x.done = true ∧ x.status = max c.status 14 ∧ x.lines = [] ∧ x.targets = [] := by
  have exe := exec_atsTranslation_refused found host held
  rw [if_pos last] at exe
  have ended : c.refused h = { c with status := max c.status 14, lines := [], targets := [], done := true } :=
    if_pos last
  refine ⟨_, exe, rfl, c.refused h, mem_modCopy found fun c => c.refused h, ?_⟩
  have same := copy_id_of_found found
  rw [ended]
  exact ⟨same, rfl, rfl, rfl, rfl⟩

/-- A refused read of which some transfers have issued goes on with what they read. -/
theorem atsTranslation_goesOn (read : h.write = false) (begun : h.sent ≠ []) :
    Gives (.atsTranslationResponse id none) s fun t => t.score = s.score ∧ t.mem = s.mem ∧ t.teams = s.teams ∧
      ∃ x ∈ t.copies, x.id = id ∧ x.done = c.done ∧ x.status = max c.status 14 ∧ x.lines = c.lines ∧
        x.targets = c.targets ∧ x.host = some { h with len := 256 * h.sent.length, held := false } ∧
        (h.back = h.sent.length → ceOp c.entry = 0 → c.got.length ≤ ceLen c.entry →
          x.data = some (c.got.map fun y => (y, false))) ∧
        (h.back ≠ h.sent.length → x.data = c.data) := by
  have goesOn : ¬(h.write = true ∨ h.sent = []) := by simp [read, begun]
  have exe := exec_atsTranslation_refused found host held
  rw [if_neg goesOn] at exe
  have left : c.refused h = { c with
      status := max c.status 14
      host := some { h with len := 256 * h.sent.length, held := false }
      data := if h.back = h.sent.length then some (c.readOut c.got) else c.data } := if_neg goesOn
  refine ⟨_, exe, rfl, rfl, rfl, c.refused h, mem_modCopy found fun c => c.refused h, ?_⟩
  have same := copy_id_of_found found
  rw [left]
  refine ⟨same, rfl, rfl, rfl, rfl, rfl, fun all plain short => ?_, fun some_left => if_neg some_left⟩
  exact (if_pos all).trans (congrArg some (readOut_copy plain short))

end

/-! ### Transfers issue and complete (R314 steps 2 to 5) -/

section
variable (working : c.done = false)
include working

theorem exec_hostIssue : exec (.engineLineApply ⟨id, 1⟩) s = .next (s.hostIssue c h) := by
  change execEngineLineApply ⟨id, 1⟩ s = _
  simp only [execEngineLineApply, found, host, sourced_of_host host working]
  cases c.data <;> rfl

variable (free : h.held = false) (more : h.sent.length < (h.len + 255) / 256)
  (ready : h.write = true → c.data.isSome = true)
include free more ready

/-- A transfer issues through the cache (R314 step 2). -/
theorem hostIssue_translated {a : Nat} (served : s.host.translate h.fn h.next (h.size h.sent.length) = some a) :
    Gives (.engineLineApply ⟨id, 1⟩) s fun t => t.teams = s.teams ∧ t.mem = s.mem ∧
      t.HasXfer id { h with sent := h.sent ++ [a] } := by
  have exe := exec_hostIssue found host working
  rw [State.hostIssue, hostIssue_may free more ready, if_neg Bool.false_ne_true, served,
    copy_id_of_found found] at exe
  exact ⟨_, exe, rfl, rfl, hasXfer_setXfer found _⟩

/-- A transfer without a translation is held (R314 step 3). -/
theorem hostIssue_untranslated (missing : s.host.translate h.fn h.next (h.size h.sent.length) = none) :
    Gives (.engineLineApply ⟨id, 1⟩) s fun t => t.teams = s.teams ∧ t.mem = s.mem ∧
      t.HasXfer id { h with held := true } := by
  have exe := exec_hostIssue found host working
  rw [State.hostIssue, hostIssue_may free more ready, if_neg Bool.false_ne_true, missing,
    copy_id_of_found found] at exe
  exact ⟨_, exe, rfl, rfl, hasXfer_setXfer found _⟩

end

theorem exec_hostBack : exec (.engineLineApply ⟨id, 2⟩) s = .next (s.hostBack c h) := by
  change execEngineLineApply ⟨id, 2⟩ s = _
  simp only [execEngineLineApply, found, host]

variable {a : Nat} (issued : h.sent[h.back]? = some a)
include issued

/-- The oldest transfer of a read arrives: its bytes follow those that have been read. -/
theorem hostBack_read (read : h.write = false) : Gives (.engineLineApply ⟨id, 2⟩) s fun t =>
    t.host.mem = s.host.mem ∧ t.mem = s.mem ∧ t.teams = s.teams ∧ ∃ x ∈ t.copies, x.id = id ∧
      x.host = some { h with back := h.back + 1 } ∧ x.got = c.got ++ bytesAt s.host.mem a (h.size h.back) := by
  obtain ⟨fn, w, addr, len, sent, back, held⟩ := h
  obtain rfl : w = false := read
  have same := copy_id_of_found found
  have exe := exec_hostBack found host
  rw [State.hostBack, issued] at exe
  dsimp only at exe
  rw [same] at exe
  exact ⟨_, exe, rfl, rfl, rfl, _, mem_modCopy found _, same, rfl, rfl⟩

/-- The oldest transfer of a write is posted: its part of the data stands in the host's memory. -/
theorem hostBack_write (write : h.write = true) {data : List (Byte × Bool)} (some_data : c.data = some data) :
    Gives (.engineLineApply ⟨id, 2⟩) s fun t => t.mem = s.mem ∧ t.teams = s.teams ∧
      t.HasXfer id { h with back := h.back + 1 } ∧
      Landed s.host.mem t.host.mem a ((data.drop (256 * h.back)).take (h.size h.back)) := by
  obtain ⟨fn, w, addr, len, sent, back, held⟩ := h
  obtain rfl : w = true := write
  have same := copy_id_of_found found
  have exe := exec_hostBack found host
  rw [State.hostBack, issued] at exe
  dsimp only at exe
  rw [same, some_data] at exe
  refine ⟨_, exe, rfl, rfl, ⟨_, mem_modCopy (s := { s with host := _ }) found _, same, rfl⟩, ?_⟩
  exact landed_setBytes s.host.mem a ((data.drop (256 * back)).take _)

end

end Sys2Proof.Machine
end

section
/-! The sides, lines and deliveries of a copy, and its end (O46; R173, R174, R179, R180, R212). -/

namespace Sys2Proof.Machine

section
variable {s : State} {id core : Nat} {c : CopyOp} (found : s.copies.find? (fun x => x.id == id) = some c)
include found

/-! ### Sides in a scratchpad (R173, R174) -/

theorem exec_retire_copy {w : Bool} {e : ScoreEntry} (entry : s.scoreOf id w = some e) (here : e.core = core)
    (free : scoreFree s.score e = true) : exec (.scoreboardEntryRetire core id w) s = .next (s.retireCopy c w) := by
  change execScoreboardEntryRetire core id w s = _
  simp only [execScoreboardEntryRetire, entry, here, free, found]
  simp

section
variable (working : c.done = false)
include working

/-- The R entry of a plain copy retires with the bytes of the scratchpad read, each with its poison. -/
theorem retire_reads {e : ScoreEntry} (entry : s.scoreOf id false = some e) (here : e.core = core)
    (free : scoreFree s.score e = true) (space : spaceOf (ceSrc c.entry) = 1) (plain : ceOp c.entry = 0) :
    Gives (.scoreboardEntryRetire core id false) s fun t => t.teams = s.teams ∧ t.mem = s.mem ∧
      t.score = s.score.filter (fun x => !(x.op == id && x.w == false)) ∧
      ∃ x ∈ t.copies, x.id = id ∧ x.data = some ((List.range (ceLen c.entry)).map fun i =>
        (byteAt (s.team (teamOf c.gid)).spad (ceOff (ceSrc c.entry) + i),
          (s.team (teamOf c.gid)).spadPoison.contains ((ceOff (ceSrc c.entry) + i) / 32))) := by
  have same := copy_id_of_found found
  have exe := exec_retire_copy found entry here free
  have table : ¬spaceOf (ceSrc c.entry) = 0 := by omega
  rw [State.retireCopy, working, if_neg Bool.false_ne_true, Bool.not_false, if_pos rfl, State.copyRead] at exe
  simp only [if_neg table, ceMove_copy plain, ceSrcOffs_copy plain, same] at exe
  exact ⟨_, exe, rfl, rfl, rfl, _, mem_modCopy found _, same, rfl⟩

variable {data : List (Byte × Bool)} (some_data : c.data = some data)
include some_data

omit found in
theorem sourced_of_data : s.sourced c = some (s, c) := by
  rw [State.sourced, if_neg (by simp [working]), some_data]

/-- The W entry of a copy retires with its bytes written. -/
theorem retire_writes {e : ScoreEntry} (entry : s.scoreOf id true = some e) (here : e.core = core)
    (free : scoreFree s.score e = true) :
    Gives (.scoreboardEntryRetire core id true) s fun t => t.mem = s.mem ∧
      t.score = s.score.filter (fun x => !(x.op == id && x.w == true)) ∧
      Landed (s.team (teamOf c.gid)).spad (t.team (teamOf c.gid)).spad (ceOff (ceDst c.entry)) data := by
  have exe := exec_retire_copy found entry here free
  rw [State.retireCopy, working, if_neg Bool.false_ne_true, sourced_of_data working some_data] at exe
  dsimp only at exe
  rw [copy_id_of_found found, some_data] at exe
  exact ⟨_, exe, rfl, rfl, landed_putMarked s (teamOf c.gid) _ data⟩

end

end

/-! ### Lines (R179) -/

/-- A copy without a line that it has written. -/
def CopyOp.withoutLine (c : CopyOp) (line : Nat) : CopyOp := { c with lines := c.lines.filter (· != line) }

theorem mem_lineData {c : CopyOp} {data : List (Byte × Bool)} (some_data : c.data = some data) {line : Nat}
    {d : Nat × Byte × Bool} :
    d ∈ c.lineData line ↔ d ∈ markedFrom (ceDst c.entry).toNat data ∧ d.1 / 256 = line := by
  rw [CopyOp.lineData, some_data, Option.getD_some, List.mem_filter, beq_iff_eq]

theorem poisonUnits_leaves (s : State) (us : List Nat) :
    (s.poisonUnits us).mem.home = s.mem.home ∧ (s.poisonUnits us).copies = s.copies := by
  unfold State.poisonUnits
  split <;> exact ⟨rfl, rfl⟩

/-- Bytes that are not encrypted stand at their homes as an engine wrote them. -/
theorem applyHome_plain {s : State} {data : List (Nat × Byte)} (plain : ∀ d ∈ data, s.slotOfKey d.1 = none) :
    (s.applyHome data).mem.home = setBytes s.mem.home data ∧ (s.applyHome data).copies = s.copies := by
  rw [State.applyHome, State.putHome, sealData_of_plain _ _ plain]
  exact ⟨rfl, rfl⟩

theorem applyLine_plain {s : State} {c : CopyOp} {line : Nat} (plain : ∀ d ∈ c.lineData line, s.slotOfKey d.1 = none) :
    (s.applyLine c line).mem.home = setBytes s.mem.home ((c.lineData line).map fun d => (d.1, d.2.1)) ∧
    (s.applyLine c line).copies = s.copies.map fun x => if x.id = c.id then x.withoutLine line else x := by
  obtain ⟨home, copies⟩ := applyHome_plain (data := (c.lineData line).map fun d => (d.1, d.2.1))
    (List.forall_mem_map.2 plain)
  obtain ⟨home', copies'⟩ := poisonUnits_leaves (s.applyHome ((c.lineData line).map fun d => (d.1, d.2.1)))
    (poisonedUnits (c.lineData line))
  exact ⟨home'.trans home, congrArg (List.map _) (copies'.trans copies)⟩

/-- The bytes of a copy in a line, put at their homes. -/
theorem home_lineData {c : CopyOp} {data : List (Byte × Bool)} (some_data : c.data = some data) (line : Nat)
    (m : List Host.Cell) :
    let m' := setBytes m ((c.lineData line).map fun d => (d.1, d.2.1))
    let dst := (ceDst c.entry).toNat
    (∀ i < data.length, (dst + i) / 256 = line → byteAt m' (dst + i) = (data.getD i (0, false)).1) ∧
    ∀ k, ¬(k / 256 = line ∧ dst ≤ k ∧ k < dst + data.length) → byteAt m' k = byteAt m k := by
  refine ⟨fun i hi inLine => ?_, fun k out => byteAt_setBytes_of_not_mem _ _ fun e he same => out ?_⟩
  · have distinct : (((c.lineData line).map fun d => (d.1, d.2.1)).map (·.1)).Nodup := by
      rw [List.map_map, CopyOp.lineData, some_data]
      exact (keys_markedFrom_nodup _ data).sublist (List.filter_sublist.map _)
    exact byteAt_setBytes_of_mem m distinct (List.mem_map.2
      ⟨_, (mem_lineData some_data).2 ⟨mem_markedFrom.2 ⟨i, hi, rfl⟩, inLine⟩, rfl⟩)
  · obtain ⟨d, hd, rfl⟩ := List.mem_map.1 he
    obtain ⟨marked, inLine⟩ := (mem_lineData some_data).1 hd
    obtain ⟨i, hi, rfl⟩ := mem_markedFrom.1 marked
    exact same ▸ ⟨inLine, Nat.le_add_right _ _, Nat.add_lt_add_left hi _⟩

section
variable {s : State} {id core : Nat} {c : CopyOp} (found : s.copies.find? (fun x => x.id == id) = some c)
  (working : c.done = false) {data : List (Byte × Bool)} (some_data : c.data = some data)
include found working some_data

theorem exec_lineApply {line : Nat} (first : c.lines.head? = some line) (free : s.lineFree c line = true) :
    exec (.engineLineApply ⟨id, 0⟩) s = .next (s.applyLine c line) := by
  have chosen : c.lines.find? (s.lineFree c) = some line := by
    obtain ⟨rest, lines⟩ := List.head?_eq_some_iff.1 first
    rw [lines, List.find?_cons_of_pos free]
  change execEngineLineApply ⟨id, 0⟩ s = _
  simp only [execEngineLineApply, found, chosen, sourced_of_data working some_data]

omit working some_data in
theorem lineFree_of {line : Nat} (owned : ∀ x ∈ s.copies, x.id < id → line ∉ x.lines)
    (open_ : s.channelShut (256 * line) = false) (walk : s.walkingAny (s.coreOf c.gid) (cePages c.entry) = false)
    (loose : ∀ i < 4, s.regionHolds (4 * line + i) = false) : s.lineFree c line = true := by
  have first : (s.copies.all fun x => decide (c.id ≤ x.id) || !x.lines.contains line) = true := by
    rw [List.all_eq_true]
    intro x mem
    by_cases later : c.id ≤ x.id
    · rw [decide_eq_true later, Bool.true_or]
    · have none_ := owned x mem (copy_id_of_found found ▸ Nat.not_le.1 later)
      simp [none_]
  have regions : ((List.range 4).all fun i => !s.regionHolds (4 * line + i)) = true := by
    rw [List.all_eq_true]
    intro i hi
    rw [loose i (List.mem_range.1 hi)]
    rfl
  rw [State.lineFree, first, regions, open_, walk]
  rfl

/-- A line of the destination is written whole at its home, and given up. -/
theorem lineApply_gives {line : Nat} (first : c.lines.head? = some line) (free : s.lineFree c line = true)
    (plain : ∀ i < data.length, s.slotOfKey ((ceDst c.entry).toNat + i) = none) :
    Gives (.engineLineApply ⟨id, 0⟩) s fun t =>
      (∀ i < data.length, ((ceDst c.entry).toNat + i) / 256 = line →
        byteAt t.mem.home ((ceDst c.entry).toNat + i) = (data.getD i (0, false)).1) ∧
      HomeOutside s t (fun k => k / 256 = line ∧ (ceDst c.entry).toNat ≤ k ∧
        k < (ceDst c.entry).toNat + data.length) ∧
      ∃ x ∈ t.copies, x.id = id ∧ line ∉ x.lines := by
  have bytes (d) (hd : d ∈ c.lineData line) : s.slotOfKey d.1 = none := by
    obtain ⟨i, hi, rfl⟩ := mem_markedFrom.1 ((mem_lineData some_data).1 hd).1
    exact plain i hi
  obtain ⟨inside, outside⟩ := home_lineData some_data line s.mem.home
  obtain ⟨home, copies⟩ := applyLine_plain bytes
  rw [← home] at inside outside
  have same := copy_id_of_found found
  refine ⟨_, exec_lineApply found working some_data first free, inside, outside, c.withoutLine line, ?_,
    same, by simp [CopyOp.withoutLine]⟩
  rw [copies]
  exact List.mem_map.2 ⟨c, List.mem_of_find?_eq_some found, if_pos rfl⟩

/-! ### Deliveries (R180) -/

variable {gen : BitVec 16} (target : c.targets.find? (fun t => t.1 == core) = some (core, gen))
include target

theorem exec_delivery : exec (.spadDeliveryArrival id core) s = .next (match s.deliverTo c core gen with
    | .error st => s.modCopy id fun x =>
      { x with targets := x.targets.filter (· != (core, gen)), status := max x.status st }
    | .ok team => (s.modTeam team fun y => y.putMarked (markedFrom (ceOff (ceDst c.entry)) data)).modCopy id fun x =>
      { x with targets := x.targets.filter (· != (core, gen)) }) := by
  change execSpadDeliveryArrival id core s = _
  simp only [execSpadDeliveryArrival, found, target, sourced_of_data working some_data, some_data, Option.getD_some]
  cases s.deliverTo c core gen <;> rfl

/-- A delivery whose generation no longer stands is discarded. -/
theorem delivery_discarded (gone : s.residentGen core gen = none) : Gives (.spadDeliveryArrival id core) s fun t =>
    t.teams = s.teams ∧ t.mem = s.mem ∧
    ∃ x ∈ t.copies, x.id = id ∧ x.status = max c.status 7 ∧ (core, gen) ∉ x.targets := by
  have exe := exec_delivery found working some_data target
  rw [State.deliverTo, gone] at exe
  have same := copy_id_of_found found
  exact ⟨_, exe, rfl, rfl, _, mem_modCopy found _, same, rfl, by simp⟩

theorem delivery_lands {tg : Nat} (resident : s.residentGen core gen = some tg)
    (own : launchOfTeam tg = launchOfTeam (teamOf c.gid))
    (inside : ceOff (ceDst c.entry) + data.length ≤ (s.launch (launchOfTeam tg)).spad) :
    Gives (.spadDeliveryArrival id core) s fun t =>
      Landed (s.team tg).spad (t.team tg).spad (ceOff (ceDst c.entry)) data ∧
      ∃ x ∈ t.copies, x.id = id ∧ x.status = c.status ∧ (core, gen) ∉ x.targets := by
  have lands : s.deliverTo c core gen = .ok tg := by
    rw [State.deliverTo, resident]
    dsimp only
    rw [some_data, own, bne_self_eq_false, if_neg Bool.false_ne_true, if_neg]
    rw [← own]
    exact Nat.not_lt.2 inside
  have exe := exec_delivery found working some_data target
  rw [lands] at exe
  have same := copy_id_of_found found
  exact ⟨_, exe, landed_putMarked s tg _ data, _, mem_modCopy (s := s.modTeam _ _) found _, same, rfl, by simp⟩

end

/-! ### The end of a copy (R212) -/

theorem statusWord_leaves (s : State) (c : CopyOp) : (s.statusWord c).groups = s.groups ∧
    (s.statusWord c).copies = s.copies ∧ (s.statusWord c).mem = s.mem := by
  unfold State.statusWord
  split <;> exact ⟨rfl, rfl, rfl⟩

/-- A status word can be written for an entry. -/
theorem statusWord_may {s : State} {c : CopyOp} : (ceSts c.entry && ceSoffOk (s.launchOf c.gid) c.entry) = true ↔
    ceSts c.entry = true ∧ ceSoff c.entry % 4 = 0 ∧ ceSoff c.entry + 4 ≤ (s.launchOf c.gid).spad := by
  rw [ceSoffOk, Bool.and_eq_true, Bool.and_eq_true, beq_iff_eq, decide_eq_true_eq]

theorem statusWord_spad {s : State} {c : CopyOp}
    (may : (ceSts c.entry && ceSoffOk (s.launchOf c.gid) c.entry) = true) :
    let m := ((s.statusWord c).team (teamOf c.gid)).spad
    leNat (bytesAt m (ceSoff c.entry) 4) = (c.batch % 65536 * 65536 + c.status) % 2 ^ 32 ∧
    ∀ k, k < ceSoff c.entry ∨ ceSoff c.entry + 4 ≤ k → byteAt m k = byteAt (s.team (teamOf c.gid)).spad k := by
  let word := leBytes 4 (c.batch % 2 ^ 16 * 2 ^ 16 + c.status)
  have length : word.length = 4 := Sys2Proof.Laws.leBytes_length 4 _
  have spad : ((s.statusWord c).team (teamOf c.gid)).spad =
      setBytes (s.team (teamOf c.gid)).spad (runOf (ceSoff c.entry) word) := by
    rw [State.statusWord, if_pos may, State.team_modTeam_self]
    rfl
  have back := bytesAt_setBytes_runOf (s.team (teamOf c.gid)).spad (ceSoff c.entry) word
  rw [length] at back
  rw [spad]
  refine ⟨?_, fun k out => byteAt_setBytes_runOf_of_outside _ _ _ (by rwa [length])⟩
  rw [back, leNat_leBytes]
  rfl

section
variable {s : State} {id : Nat} {c : CopyOp} (found : s.copies.find? (fun x => x.id == id) = some c)
  (xfers : ∀ h, c.host = some h → h.back = h.sent.length ∧ (c.done = true ∨ h.back = (h.len + 255) / 256))
  (written : c.done = true ∨ (c.lines = [] ∧ c.targets = [] ∧ ∀ e ∈ s.score, e.op ≠ id))
include found xfers written

theorem copyOver_of : s.copyOver c = true := by
  have host : c.hostOver = true := by
    unfold CopyOp.hostOver
    split
    · next h some_host =>
      obtain ⟨back, all⟩ := xfers h some_host
      rw [beq_iff_eq.2 back, Bool.true_and, Bool.or_eq_true, beq_iff_eq]
      exact all
    · rfl
  rw [State.copyOver, host, Bool.true_and, Bool.or_eq_true, copy_id_of_found found]
  refine written.imp_right fun ⟨lines, targets, score⟩ => ?_
  rw [lines, targets]
  simpa using score

variable (active : (s.group c.gid).status ≠ .draining)
include active

theorem exec_copyEntryComplete : exec (.copyEntryComplete id) s =
    .next { s.statusWord c with copies := (s.statusWord c).copies.filter fun x => x.id != id } := by
  have done : s.copyOver c = true := copyOver_of found xfers written
  change execCopyEntryComplete id s = _
  simp only [execCopyEntryComplete, found, done, Bool.not_true, if_neg Bool.false_ne_true]
  refine congrArg Host.Outcome.next (settleExit_of_not_draining ?_)
  rw [State.group, (statusWord_leaves s c).1]
  exact active

/-- A copy that is over leaves, with its status word where it asks for one. -/
theorem copyEntryComplete_gives : Gives (.copyEntryComplete id) s fun t =>
    t.copies = s.copies.filter (fun x => x.id != id) ∧ t.mem = s.mem ∧
    let o := ceSoff c.entry
    if ceSts c.entry = true ∧ o % 4 = 0 ∧ o + 4 ≤ (s.launchOf c.gid).spad then
      leNat (bytesAt (t.team (teamOf c.gid)).spad o 4) = (c.batch % 65536 * 65536 + c.status) % 2 ^ 32 ∧
      ∀ k, k < o ∨ o + 4 ≤ k → byteAt (t.team (teamOf c.gid)).spad k = byteAt (s.team (teamOf c.gid)).spad k
    else t.teams = s.teams := by
  obtain ⟨-, copies, mem⟩ := statusWord_leaves s c
  refine ⟨_, exec_copyEntryComplete found xfers written active, congrArg (List.filter _) copies, mem, ?_⟩
  dsimp only
  split
  · next asked => exact statusWord_spad (statusWord_may.2 asked)
  · next silent =>
    rw [State.statusWord, if_neg (mt statusWord_may.1 silent)]

end

/-- Settles O46: an invalidation by what it bars and awaits; a gather by its keys and the bytes it lands; a copy by its
host transfers, its sides, lines and deliveries, and its status word. -/
theorem engineEvents : Obligations.EngineEvents := by
  intro s id core line lo hi fn base c
  refine ⟨atsInvalidation_gives s fn lo hi, ?_, ?_⟩
  · intro g found _ free order walk unread desc small open_ plain active soundDesc soundIndex off list _ sound
    have same := gather_id_of_found found
    refine ⟨fun e entry here noCopy => ?_, ?_⟩
    · refine ⟨_, exec_retire_gather free found list unread sound entry here noCopy, rfl, rfl, same ▸ rfl, ?_⟩
      exact ⟨_, List.mem_map.2 ⟨g, List.mem_of_find?_eq_some found, if_pos rfl⟩, same, rfl⟩
    · obtain ⟨t, exe, landed⟩ := gatherComplete_lands free found list unread sound order walk open_ active
      refine ⟨t, exe, same ▸ landed.gathers, same ▸ landed.score, landed.mem, fun k => landed.outside desc, ?_⟩
      exact fun j hj => ⟨fun slot => landed.found desc hj soundDesc soundIndex small plain,
        landed.missed desc hj soundDesc soundIndex⟩
  · intro found _
    refine ⟨fun h host => ⟨fun held => ?_, fun free more working ready => ?_, fun a issued => ?_⟩,
      fun working _ => ⟨fun e => retire_reads found working, fun data some_data => ⟨?_, ?_, fun gen target => ?_⟩⟩,
      copyEntryComplete_gives found⟩
    · exact ⟨atsTranslation_granted found host held, atsTranslation_ends found host held,
        atsTranslation_goesOn found host held⟩
    · exact ⟨fun a => hostIssue_translated found host working free more ready,
        hostIssue_untranslated found host working free more ready⟩
    · refine ⟨hostBack_read found host issued, fun write data some_data whole => ?_⟩
      obtain ⟨t, exe, mem, teams, now, landed⟩ := hostBack_write found host issued write some_data
      exact ⟨t, exe, mem, teams, now, landed_part landed (by rw [whole]; exact Nat.min_le_right _ _)⟩
    · exact fun e => retire_writes found working some_data
    · exact fun _ first owned open_ walk plain loose =>
        lineApply_gives found working some_data first (lineFree_of found owned open_ walk loose) plain
    · refine ⟨delivery_discarded found working some_data target, fun tg resident own inside => ?_⟩
      obtain ⟨t, exe, landed, left⟩ := delivery_lands found working some_data target resident own inside
      exact ⟨t, exe, landed.1, landed.2, left⟩

end Sys2Proof.Machine
end

section
/-! Range maintenance and pinned ranges (O30; R41, R147, R166, R216, R217). -/

namespace Sys2Proof.Machine

/-! ### The issuing slot moves on -/

/-- The issuing slot moves on where the issuing group's slots are those of the word. -/
theorem movesOn_of_slots {s u : State} (live : s.Live) {g : Group} (cur : u.cur = g)
    (slots : ∀ b, g.slot b = s.cur.slot b) (hS : u.curS = s.curS) (n : Nat) :
    MovesOn s (u.next n) n g := by
  obtain ⟨p, hp⟩ := Option.isSome_iff_exists.1 live
  have next : (u.next n).cur = g.next s.curS n := by rw [State.next_eq, State.cur_setGroup, cur, hS]
  have path : s.curPath = p := Group.path_of_slot hp
  rw [MovesOn, next]
  refine ⟨?_, ?_, ?_⟩
  · rw [Group.slot_path_next n ((congrArg _ (slots _)).trans hp), State.pathAt, path]
  · rw [Group.slot_next_not, slots]
  · cases s.curS <;> rfl

/-! ### The checks of a range (R216) -/

section
variable {s : State} {h : W64} {n : Nat} {wr : Bool}

theorem checkRange_elsewhere (space : spaceOf h ≠ 0) : s.checkRange h n wr = .error .handleFault :=
  need_false (by rwa [beq_iff_eq]) _ _

/-- The launch has the right that a word needs: to write or to read. -/
def State.mayUse (s : State) (wr : Bool) (tid : Nat) : Bool :=
  if wr then s.curLaunch.writesTo tid else s.curLaunch.reads tid

/-- The checks after the space of the handle: the table, the right, the end of the range. -/
theorem checkRange_of_table (space : spaceOf h = 0) (sound : (s.table (tidOf h)).poisonDesc = false) :
    s.checkRange h n wr =
      if (s.table (tidOf h)).usable (tidOf h) then
        need (s.mayUse wr (tidOf h)) .access (need (decide (posOf h + n ≤ 2 ^ 42)) .handleFault (.ok ()))
      else .error .tableAbsent := by
  rw [State.checkRange, need_true (by rw [space]; rfl), namedOk_of_sound sound]
  cases (s.table (tidOf h)).usable (tidOf h) <;> rfl

variable {i : Instr} {k : Res} (exe : exec i s = s.finish (checked (s.checkRange h n wr) fun _ => k))
include exe

theorem traps_of_checkRange {c : Cause} (fails : s.checkRange h n wr = .error c) : Traps i s c 0 := by
  rw [Traps, exe, fails, checked, State.finish_trap]

/-- A word that maintains a range traps by the first check that fails. -/
theorem range_checks : (spaceOf h ≠ 0 → Traps i s .handleFault 0) ∧
    (spaceOf h = 0 → (s.table (tidOf h)).poisonDesc = false →
      ((s.table (tidOf h)).usable (tidOf h) = false → Traps i s .tableAbsent 0) ∧
      ((s.table (tidOf h)).usable (tidOf h) = true → s.mayUse wr (tidOf h) = false → Traps i s .access 0) ∧
      ((s.table (tidOf h)).usable (tidOf h) = true → s.mayUse wr (tidOf h) = true →
        (2 ^ 42 < posOf h + n → Traps i s .handleFault 0) ∧
        (posOf h + n ≤ 2 ^ 42 → s.checkRange h n wr = .ok ()))) := by
  refine ⟨fun space => traps_of_checkRange exe (checkRange_elsewhere space), fun space sound => ?_⟩
  have checks := checkRange_of_table (n := n) (wr := wr) space sound
  refine ⟨fun absent => ?_, fun usable no => ?_, fun usable may => ⟨fun beyond => ?_, fun within => ?_⟩⟩
  · exact traps_of_checkRange exe (by rw [checks, absent, if_neg Bool.false_ne_true])
  · exact traps_of_checkRange exe (by rw [checks, if_pos usable, need_false (by rw [no]; decide)])
  · exact traps_of_checkRange exe (by
      rw [checks, if_pos usable, need_true may, need_false (by rw [decide_eq_true_iff]; omega)])
  · rw [checks, if_pos usable, need_true may, need_true (decide_eq_true within)]

end

/-- A range whose first page is translated is maintained at once (R12). -/
theorem paged_rangePages {s : State} {h : W64} {n : Nat} (translated : n ≠ 0 → s.Translated h.toNat 1)
    (k : State → Res) : s.paged (rangePages h n) k = k s := by
  rw [rangePages]
  split
  · rfl
  · next some => exact paged_of_translated (translated some) k

/-! ### `cinv` and `cwb` (R147, R166, R216) -/

/-- What `cwb` does once its range is checked and translated. -/
def State.writeBackRange (s : State) (p : Nat → Bool) : Res :=
  if s.acquiring || s.countHeld || s.softPending s.curG p then .wait s
  else if (s.sendBacks s.curG s.curCluster p).2 then .done ((s.sendBacks s.curG s.curCluster p).1.next 4)
  else .wait (s.sendBacks s.curG s.curCluster p).1

section
variable {s : State} {a b : Reg} {wa wb : Bool} (plain : s.inRegion s.curG = false)
  (accepts : s.Accepts ⟨[sg a wa, sg b wb], [], false⟩)
include plain accepts

theorem exec_cwb {h : W64} {n : Nat} (addr : s.cur.gval s.curS a.val = h)
    (len : (s.cur.gval s.curS b.val).toNat = n) : exec (.cwb a b wa wb) s =
    s.finish (checked (s.checkRange h n true) fun _ =>
      s.paged (rangePages h n) fun s => s.writeBackRange (inRange h n)) := by
  subst addr len
  change s.finish (s.gated _ (s.outside _)) = _
  rw [State.gated_of_accepts accepts, State.outside, plain, if_neg Bool.false_ne_true]
  rfl

theorem exec_cinv {h : W64} {n : Nat} (addr : s.cur.gval s.curS a.val = h)
    (len : (s.cur.gval s.curS b.val).toNat = n) : exec (.cinv a b wa wb) s =
    s.finish (checked (s.checkRange h n false) fun _ => s.paged (rangePages h n) fun s =>
      s.ordered (.done ((s.dropSectors s.curCluster (inRange h n)).next 4))) := by
  subst addr len
  change s.finish (s.gated _ (s.outside _)) = _
  rw [State.gated_of_accepts accepts, State.outside, plain, if_neg Bool.false_ne_true]

variable {h : W64} {n : Nat} (addr : s.cur.gval s.curS a.val = h) (len : (s.cur.gval s.curS b.val).toNat = n)
  (ready : s.acquiring = false) (translated : n ≠ 0 → s.Translated h.toNat 1)
include addr len ready translated

/-- `cinv` drops the clean bytes of its range. -/
theorem cinv_drops (checks : s.checkRange h n false = .ok ()) :
    exec (.cinv a b wa wb) s = .next ((s.dropSectors s.curCluster (inRange h n)).next 4) := by
  rw [exec_cinv plain accepts addr len, checks, checked, paged_rangePages translated, State.ordered, ready,
    if_neg Bool.false_ne_true, State.finish_done]

theorem cwb_goes (checks : s.checkRange h n true = .ok ()) (may : s.countHeld = false)
    (soft : s.softPending s.curG (inRange h n) = false) : exec (.cwb a b wa wb) s =
      s.finish (if (s.sendBacks s.curG s.curCluster (inRange h n)).2
        then .done ((s.sendBacks s.curG s.curCluster (inRange h n)).1.next 4)
        else .wait (s.sendBacks s.curG s.curCluster (inRange h n)).1) := by
  rw [exec_cwb plain accepts addr len, checks, checked, paged_rangePages translated, State.writeBackRange, ready, may,
    soft, if_neg (by decide)]

end

section
variable {s : State} {gid cl : Nat}

/-- With the count full no sector is sent. -/
theorem sendNext_none (secs : List Nat) {ok : Bool} (full : 65535 ≤ (s.group gid).uwc) (some : secs ≠ []) :
    secs.foldl (sendNext gid cl) (s, ok) = (s, false) := by
  induction secs generalizing ok with
  | nil => exact absurd rfl some
  | cons sec r ih =>
    have stays : sendNext gid cl (s, ok) sec = (s, false) := if_neg (Nat.not_lt.2 full)
    rw [List.foldl_cons, stays]
    cases r with
    | nil => rfl
    | cons x r => exact ih (List.cons_ne_nil _ _)

/-- Where the count does not have room for all the sectors, as many are sent as fill it (R147). -/
theorem sendBacks_full {p : Nat → Bool} (below : (s.group gid).uwc ≤ 65535)
    (more : 65535 < (s.group gid).uwc + (s.dirtySectors cl p).length) :
    ∃ t secs, s.sendBacks gid cl p = (t, false) ∧ SentBack s t gid cl secs ∧ (t.group gid).uwc = 65535 := by
  have distinct : (s.dirtySectors cl p).Nodup := nodup_dedup _
  have dirty : ∀ sec ∈ s.dirtySectors cl p, s.dirtyIn cl (· == sec) ≠ [] := fun sec h => (dirtyIn_of_mem h).2
  rw [sendBacks_eq, ← List.take_append_drop (65535 - (s.group gid).uwc) (s.dirtySectors cl p), List.foldl_append]
  have taken : ((s.dirtySectors cl p).take (65535 - (s.group gid).uwc)).length = 65535 - (s.group gid).uwc :=
    List.length_take_of_le (by omega)
  obtain ⟨t, sent, back⟩ := sendNext_all (gid := gid) (distinct.sublist (List.take_sublist _ _))
    (fun sec h => dirty sec (List.mem_of_mem_take h)) (Nat.le_of_eq (by rw [taken]; omega))
  have full : (t.group gid).uwc = 65535 := by
    rw [back.group]
    change (s.group gid).uwc + _ = _
    rw [taken]
    omega
  refine ⟨t, _, ?_, back, full⟩
  rw [sent]
  refine sendNext_none _ full.ge fun none => ?_
  have left := congrArg List.length none
  rw [List.length_drop, List.length_nil] at left
  omega

end

theorem SentBack.cur {s t : State} {cl : Nat} {secs : List Nat} (back : SentBack s t s.curG cl secs) :
    t.cur = { s.cur with uwc := s.cur.uwc + secs.length } := by
  rw [State.cur, back.curG, back.group]
  rfl

section
variable {s : State} {a b : Reg} {wa wb : Bool} (live : s.Live) {p : Nat → Bool}
  (goes : exec (.cwb a b wa wb) s = s.finish (if (s.sendBacks s.curG s.curCluster p).2
    then .done ((s.sendBacks s.curG s.curCluster p).1.next 4) else .wait (s.sendBacks s.curG s.curCluster p).1))
include live goes

omit live in
theorem cwb_clean (clean : s.dirtySectors s.curCluster p = []) : exec (.cwb a b wa wb) s = .next (s.next 4) := by
  rw [goes, sendBacks_eq, clean]
  rfl

/-- `cwb` sends a counted request for each sector and does not wait for them. -/
theorem cwb_sends (room : s.cur.uwc + (s.dirtySectors s.curCluster p).length ≤ 65535) :
    Gives (.cwb a b wa wb) s fun t => SendsBack s t p ∧
      MovesOn s t 4 { s.cur with uwc := s.cur.uwc + (s.dirtySectors s.curCluster p).length } := by
  obtain ⟨t, sent, back⟩ := sendBacks_all (gid := s.curG) room
  refine ⟨t.next 4, by rw [goes, sent]; rfl, back.sendsBack rfl rfl ?_, ?_⟩
  · rw [State.next_eq, State.cur_setGroup, Group.next_uwc]
  · exact movesOn_of_slots live back.cur (fun b => by cases b <;> rfl) back.curS 4

omit live in
/-- `cwb` stays at its word where the count has no room for every sector (R147). -/
theorem cwb_held (below : s.cur.uwc ≤ 65535)
    (more : 65535 < s.cur.uwc + (s.dirtySectors s.curCluster p).length) :
    Gives (.cwb a b wa wb) s fun t => HeldBack s t ∧ t.cur.uwc = 65535 := by
  obtain ⟨t, secs, sent, back, full⟩ := sendBacks_full (gid := s.curG) below more
  have held : t.holdBack.cur = t.cur.setSlot t.curS { t.cur.slot t.curS with waiting := true } :=
    State.cur_modCur _ _
  refine ⟨t.holdBack, by rw [goes, sent]; rfl, ⟨?_, ?_⟩, ?_⟩
  · rw [held, back.curS, Group.slot_setSlot_self]
  · rw [held, back.curS, Group.slot_setSlot_self, back.cur]
    cases s.curS <;> rfl
  · rw [held, Group.setSlot_uwc, State.cur, back.curG, full]

end

/-! ### Pinned ranges (R41, R217) -/

/-- The pins of a die cannot take another range of some ways. -/
abbrev pinsFull (held : List Pin) (ways : Nat) : Prop := 4 ≤ held.length ∨ 8 < (held.map (·.ways)).sum + ways

theorem foldl_ways (l : List Pin) (n : Nat) : l.foldl (fun x p => x + p.ways) n = (l.map (·.ways)).sum + n := by
  induction l generalizing n with
  | nil => exact (Nat.zero_add n).symm
  | cons p r ih => rw [List.foldl_cons, ih, List.map_cons, List.sum_cons]; omega

section
variable {s : State} {d a b : Reg} {wa wb : Bool} {ways : Nat} (plain : s.inRegion s.curG = false)
  (accepts : s.Accepts ⟨[sg a wa, sg b wb], [dg d], false⟩)

/-- The pins of the issuing die. -/
def State.diePins (s : State) : List Pin := s.mem.pins.filter fun p => p.die == s.dieOf s.curG

/-- The pin of a range for the issuing launch. -/
def State.newPin (s : State) (h : W64) (n ways : Nat) : Pin :=
  ⟨s.dieOf s.curG, launchOfTeam (teamOf s.curG), h.toNat, n, ways⟩

/-- What `cret` does once its range is checked. -/
def State.pinRange (s : State) (d : Reg) (h : W64) (n ways : Nat) : Res :=
  let full := decide (4 ≤ s.diePins.length) || decide (8 < s.diePins.foldl (fun x p => x + p.ways) ways)
  let s1 := if full then s else s.modMem fun m => { m with pins := m.pins ++ [s.newPin h n ways] }
  .done (s1.uniResult d 8 (plain64 (BitVec.ofNat 64 (if full then stFull else stOk))))

include plain accepts

theorem exec_cret {h : W64} {n : Nat} (addr : s.cur.gval s.curS a.val = h)
    (len : (s.cur.gval s.curS b.val).toNat = n) : exec (.cret d a b wa wb ways) s =
    s.finish (checked (s.checkRange h n false) fun _ =>
      check (decide (0 < n)) .handleFault (s.pinRange d h n ways)) := by
  subst addr len
  change s.finish (s.gated _ (s.outside _)) = _
  rw [State.gated_of_accepts accepts, State.outside, plain, if_neg Bool.false_ne_true]
  dsimp only
  cases s.checkRange (s.cur.gval s.curS a.val) (s.cur.gval s.curS b.val).toNat false <;> rfl

end

/-- `cret` enters its range among the pins, or does not where they are full, and says which in D. -/
theorem pinRange_gives {s : State} (live : s.Live) (d : Reg) (h : W64) (n ways : Nat) : ∃ t, s.pinRange d h n ways = .done t ∧ ∃ s1,
      Wrote s s1 0 [] [(d.val, if pinsFull s.diePins ways then 5 else 0)] 8 0 ∧
      t = { s1 with mem := { s1.mem with pins := if pinsFull s.diePins ways then s.mem.pins
        else s.mem.pins ++ [s.newPin h n ways] } } := by
  have full_iff : (decide (4 ≤ s.diePins.length) ||
      decide (8 < s.diePins.foldl (fun x p => x + p.ways) ways)) = decide (pinsFull s.diePins ways) := by
    rw [foldl_ways, ← Bool.decide_or]
  refine ⟨_, rfl, s.uniResult d 8 (if pinsFull s.diePins ways then 5 else 0, 0),
    State.uniResult_wrote live 0 d 8 _, ?_⟩
  rw [full_iff]
  by_cases full : pinsFull s.diePins ways <;> simp only [full, decide_true, decide_false, if_true] <;> rfl

/-! ### The end of a pinned range (R217) -/

theorem dropFirst_append {α : Type} {p : α → Bool} {l1 l2 : List α} {x : α} (none : ∀ y ∈ l1, ¬p y = true)
    (first : p x = true) : dropFirst p (l1 ++ x :: l2) = l1 ++ l2 := by
  induction l1 with
  | nil => exact if_pos first
  | cons y r ih =>
    have rest := ih fun z hz => none z (List.mem_cons_of_mem _ hz)
    exact (if_neg (none y List.mem_cons_self)).trans (congrArg (y :: ·) rest)

/-- A pin is one of the issuing launch on the issuing die that starts at a handle. -/
def State.isPinAt (s : State) (h : W64) (p : Pin) : Bool :=
  p.die == s.dieOf s.curG && p.launch == launchOfTeam (teamOf s.curG) && p.lo == h.toNat

theorem isPinAt_iff {s : State} {h : W64} {p : Pin} : s.isPinAt h p = true ↔
    p.die = s.dieOf s.curG ∧ p.launch = launchOfTeam (teamOf s.curG) ∧ p.lo = h.toNat := by
  simp only [State.isPinAt, Bool.and_eq_true, beq_iff_eq, and_assoc]

theorem exec_cunp {s : State} {a : Reg} {wa : Bool} (plain : s.inRegion s.curG = false)
    (accepts : s.Accepts ⟨[sg a wa], [], false⟩) {h : W64} (addr : s.cur.gval s.curS a.val = h) :
    exec (.cunp a wa) s = s.finish (check (spaceOf h == 0) .handleFault
      (.done ((s.modMem fun m => { m with pins := dropFirst (s.isPinAt h) m.pins }).next 4))) := by
  subst addr
  change s.finish (s.gated _ (s.outside _)) = _
  rw [State.gated_of_accepts accepts, State.outside, plain, if_neg Bool.false_ne_true]
  rfl

/-- Settles O30, word by word: the checks of a range, then what each word does. -/
theorem rangeMaintenanceWords : Obligations.RangeMaintenanceWords := by
  intro s d a b wa wb ways live plain ready h n die launch held full tid range
  refine ⟨fun accepts => ⟨range_checks (exec_cwb plain accepts rfl rfl), range_checks (exec_cinv plain accepts rfl rfl)⟩,
    fun accepts => ⟨range_checks (exec_cret plain accepts rfl rfl), fun checks none => ?_⟩,
    fun accepts translated => ⟨cinv_drops plain accepts rfl rfl ready translated, fun checks may soft => ?_⟩,
    fun accepts checks some => ?_, fun accepts => ⟨fun space => ?_, fun space l1 p l2 pins hdie hlaunch hlo first => ?_⟩⟩
  · rw [Traps, exec_cret plain accepts rfl rfl, checks, checked, check_false (mt of_decide_eq_true (Nat.not_lt.2 none.le)),
      State.finish_trap]
  · have goes := cwb_goes plain accepts rfl rfl ready translated checks may soft
    exact ⟨fun clean => cwb_clean goes (List.eq_nil_of_length_eq_zero clean), cwb_sends live goes,
      cwb_held goes⟩
  · obtain ⟨t, done, wrote⟩ := pinRange_gives live d h n ways
    exact ⟨t, by rw [exec_cret plain accepts rfl rfl, checks, checked, check_true (decide_eq_true some), done,
      State.finish_done], wrote⟩
  · rw [Traps, exec_cunp plain accepts rfl, check_false (by rwa [beq_iff_eq]), State.finish_trap]
  · rw [exec_cunp plain accepts rfl, check_true (beq_iff_eq.2 space), State.finish_done, State.modMem, pins,
      dropFirst_append (fun q hq => mt isPinAt_iff.1 (first q hq)) (isPinAt_iff.2 ⟨hdie, hlaunch, hlo⟩)]

end Sys2Proof.Machine
end

section
/-! SUPPORT. Values loaded as the registers that they fill, and what a word of several register results writes (R54, R60,
R190). -/

namespace Sys2Proof.Machine

/-! ### Little-endian values in parts -/

theorem leNat_lt (b : List Byte) : leNat b < 256 ^ b.length := by
  induction b with
  | nil => exact Nat.one_pos
  | cons x r ih =>
    have := x.isLt
    rw [leNat, List.length_cons, Nat.pow_succ]
    omega

theorem leNat_drop (b : List Byte) (n : Nat) : leNat (b.drop n) = leNat b / 256 ^ n := by
  induction n generalizing b with
  | zero => exact (Nat.div_one _).symm
  | succ n ih =>
    cases b with
    | nil => exact (Nat.zero_div _).symm
    | cons x r =>
      have := x.isLt
      rw [List.drop_succ_cons, ih, leNat, Nat.pow_succ', ← Nat.div_div_eq_div_mul]
      congr 1
      omega

theorem leNat_take (b : List Byte) (n : Nat) : leNat (b.take n) = leNat b % 256 ^ n := by
  induction n generalizing b with
  | zero => exact (Nat.mod_one _).symm
  | succ n ih =>
    cases b with
    | nil => exact (Nat.zero_mod _).symm
    | cons x r =>
      have := x.isLt
      rw [List.take_succ_cons, leNat, ih, leNat, Nat.pow_succ', Nat.mod_mul]
      congr 1
      · omega
      · congr 2
        omega

theorem dwOf_eq (b : List Byte) (i : Nat) : dwOf b i = BitVec.ofNat 64 (leNat b / 2 ^ (64 * i)) := by
  rw [dwOf, leNat_take, leNat_drop]
  apply BitVec.eq_of_toNat_eq
  rw [BitVec.toNat_ofNat, BitVec.toNat_ofNat, show (256 : Nat) = 2 ^ 8 from rfl, ← Nat.pow_mul, ← Nat.pow_mul,
    show 8 * (8 * i) = 64 * i by omega]
  exact Nat.mod_mod _ _

theorem dwAt_wordsOf (b : List Byte) (i : Nat) : dwAt (wordsOf b) i = BitVec.ofNat 64 (leNat b / 2 ^ (64 * i)) := by
  by_cases inside : i < (b.length + 7) / 8
  · rw [dwAt, wordsOf, List.getD_eq_getElem _ _ (by simpa using inside), List.getElem_map, List.getElem_range, dwOf_eq]
  · rw [dwAt, wordsOf, List.getD_eq_default _ _ (by simpa using inside), Nat.div_eq_of_lt]
    · rfl
    · refine (leNat_lt b).trans_le ?_
      rw [show (256 : Nat) = 2 ^ 8 from rfl, ← Nat.pow_mul]
      exact Nat.pow_le_pow_right (by omega) (by omega)

/-- A loaded value of a width, as one doubleword or as the doublewords that hold it (R190). -/
def uniValue (w : Width) (sx : Bool) (x j : Nat) : W64 :=
  if w.bytes ≤ 4 ∧ sx = true then (BitVec.ofNat (8 * w.bytes) x).signExtend 64 else BitVec.ofNat 64 (x / 2 ^ (64 * j))

/-- A loaded value of a width as the words of a lane (R190). -/
def laneValue (w : Width) (sx : Bool) (x j : Nat) : W32 :=
  if w.bytes ≤ 2 ∧ sx = true then (BitVec.ofNat (8 * w.bytes) x).signExtend 32 else BitVec.ofNat 32 (x / 2 ^ (32 * j))

theorem ofNat_mod_of_le {n m : Nat} (h : n ≤ m) (x : Nat) : BitVec.ofNat n (x % 2 ^ m) = BitVec.ofNat n x := by
  apply BitVec.eq_of_toNat_eq
  rw [BitVec.toNat_ofNat, BitVec.toNat_ofNat, Nat.mod_mod_of_dvd _ (Nat.pow_dvd_pow 2 h)]

/-- A value of 1, 2 or 4 bytes extended to a doubleword. -/
theorem extend_ofNat {wid : Nat} (sx : Bool) (x : Nat) (small : wid ≤ 8) (fits : x < 2 ^ (8 * wid)) :
    extend wid sx (BitVec.ofNat 64 x) =
      if sx then (BitVec.ofNat (8 * wid) x).signExtend 64 else BitVec.ofNat 64 x := by
  rw [extend, BitVec.toNat_ofNat, ofNat_mod_of_le (by omega)]
  cases sx with
  | true => rfl
  | false =>
    apply BitVec.eq_of_toNat_eq
    rw [if_neg Bool.false_ne_true, if_neg Bool.false_ne_true, BitVec.toNat_setWidth, BitVec.toNat_ofNat,
      BitVec.toNat_ofNat, Nat.mod_eq_of_lt fits]

theorem setWidth_signExtend_word {n : Nat} (x : BitVec n) :
    (x.signExtend 64).setWidth 32 = x.signExtend 32 := by
  ext i hi
  simp only [BitVec.getElem_setWidth, BitVec.getLsbD_signExtend, BitVec.getElem_signExtend]
  by_cases low : i < n
  · simp [low, show i < 64 by omega]
  · simp [low, show i < 64 by omega]

theorem hi32_ofNat (x : Nat) : hi32 (BitVec.ofNat 64 x) = BitVec.ofNat 32 (x / 2 ^ 32) := by
  apply BitVec.eq_of_toNat_eq
  simp only [hi32, BitVec.extractLsb'_toNat, BitVec.toNat_ofNat, Nat.shiftRight_eq_div_pow]
  omega

theorem lo32_ofNat (x : Nat) : lo32 (BitVec.ofNat 64 x) = BitVec.ofNat 32 x := by
  rw [lo32_eq_setWidth]
  apply BitVec.eq_of_toNat_eq
  simp only [BitVec.toNat_setWidth, BitVec.toNat_ofNat]
  omega

section
variable {w : Width} {b : List Byte} (len : b.length = w.bytes)
include len

theorem leNat_lt_width : leNat b < 2 ^ (8 * w.bytes) := by
  have := leNat_lt b
  rwa [len, show (256 : Nat) = 2 ^ 8 from rfl, ← Nat.pow_mul] at this

/-- Bytes loaded as uniform registers. -/
theorem uniWords_wordsOf (sx : Bool) :
    uniWords w.bytes sx (wordsOf b) = (List.range w.uniRegs).map (uniValue w sx (leNat b)) := by
  have fits := leNat_lt_width len
  have first : dwAt (wordsOf b) 0 = BitVec.ofNat 64 (leNat b) := by rw [dwAt_wordsOf, Nat.mul_zero, Nat.pow_zero, Nat.div_one]
  cases w
  case w8 => simp [uniWords, uniValue, Width.bytes, Width.uniRegs, first]
  case w16 =>
    simp only [uniWords, Width.bytes, Width.uniRegs, dwAt_wordsOf]
    rfl
  all_goals
    rw [uniWords, first, if_pos (by decide), extend_ofNat sx _ (by decide) fits]
    cases sx <;> simp [uniValue, Width.bytes, Width.uniRegs]

/-- Bytes loaded as the registers of a lane. -/
theorem laneWords_wordsOf (sx : Bool) :
    laneWords w.bytes sx (wordsOf b) = (List.range w.laneRegs).map (laneValue w sx (leNat b)) := by
  have fits := leNat_lt_width len
  have first : dwAt (wordsOf b) 0 = BitVec.ofNat 64 (leNat b) := by rw [dwAt_wordsOf, Nat.mul_zero, Nat.pow_zero, Nat.div_one]
  have word (i : Nat) : (if i % 2 = 0 then lo32 (dwAt (wordsOf b) (i / 2)) else hi32 (dwAt (wordsOf b) (i / 2))) =
      BitVec.ofNat 32 (leNat b / 2 ^ (32 * i)) := by
    rw [dwAt_wordsOf]
    split
    · rw [lo32_ofNat, show 64 * (i / 2) = 32 * i by omega]
    · rw [hi32_ofNat, Nat.div_div_eq_div_mul, ← Nat.pow_add, show 64 * (i / 2) + 32 = 32 * i by omega]
  cases w
  case w1 | w2 =>
    rw [laneWords, first, if_pos (by decide), extend_ofNat sx _ (by decide) fits]
    cases sx
    · simp [laneValue, Width.bytes, Width.laneRegs]
    · rw [if_pos rfl, lo32_eq_setWidth, setWidth_signExtend_word]
      rfl
  all_goals
    rw [laneWords, if_neg (by decide)]
    simp only [word]
    rfl

end

/-! ### Registers with their values -/

theorem numbered_map {α : Type} (d n : Nat) (f : Nat → α) :
    numbered d ((List.range n).map f) = (List.range n).map fun j => (d + j, f j) := by
  induction n generalizing d f with
  | zero => rfl
  | succ n ih =>
    simp only [List.range_succ_eq_map, List.map_cons, List.map_map, numbered]
    refine congrArg ((d, f 0) :: ·) ((ih (d + 1) _).trans (List.map_congr_left fun j _ => ?_))
    exact congrArg (·, f (j + 1)) (by omega)

theorem nodup_numbered (d n : Nat) {α : Type} (f : Nat → α) :
    (((List.range n).map fun j => (d + j, f j)).map (·.1)).Nodup := by
  rw [List.map_map]
  exact List.Nodup.map (fun x y h => Nat.add_left_cancel h) List.nodup_range

theorem aget_numbered {α : Type} (d n : Nat) (f : Nat → α) {j : Nat} (h : j < n) :
    aget ((List.range n).map fun j => (d + j, f j)) (d + j) = some (f j) := by
  have shifted := aget_map_of_mem (fun r => f (r - d)) (us := (List.range n).map (d + ·)) (u := d + j)
    (List.mem_map.2 ⟨j, List.mem_range.2 h, rfl⟩)
  rw [List.map_map, Nat.add_sub_cancel_left] at shifted
  rw [← shifted]
  exact congrArg (aget · (d + j)) (List.map_congr_left fun i _ => by simp)

/-! ### Lanes -/

theorem nodup_lanesOf (m : LaneSet) : (lanesOf m).Nodup := List.nodup_range.filter _

theorem lanesOf_eq_nil {m : LaneSet} : lanesOf m = [] ↔ m = 0 := by
  constructor
  · intro none
    apply BitVec.eq_of_getLsbD_eq
    intro l hl
    refine (Bool.eq_false_iff.2 ?_).trans BitVec.getLsbD_zero.symm
    intro on
    have := mem_lanesOf.2 ⟨hl, on⟩
    rw [none] at this
    exact absurd this List.not_mem_nil
  · rintro rfl
    simp [lanesOf]

/-! ### A word of several lane results -/

theorem Group.setV_congr (g : Group) (m : LaneSet) (r : Nat) {f f' : Nat → W32}
    (same : ∀ l < 96, m.getLsbD l = true → f l = f' l) : g.setV m r f = g.setV m r f' := by
  have row : (mkLanes fun l => if m.getLsbD l then f l else g.vval r l) =
      mkLanes fun l => if m.getLsbD l then f' l else g.vval r l := by
    refine List.map_congr_left fun l hl => ?_
    split
    · next on => exact same l (List.mem_range.1 hl) on
    · rfl
  rw [Group.setV, row, Group.setV]

theorem Group.next_setV (g : Group) (b : Bool) (m : LaneSet) (r n : Nat) (f : Nat → W32) :
    (g.setV m r f).next b n = (g.next b n).setV m r f := by cases b <;> rfl

/-- Several lane registers written in the same lanes. -/
def Group.setVs (g : Group) (act : LaneSet) (vd : List (Nat × (Nat → W32))) : Group :=
  vd.foldl (fun a x => a.setV act x.1 x.2) g

/-- A word has written one more lane register. -/
theorem Wrote.setV {s t : State} {act : LaneSet} {vd : List (Nat × (Nat → W32))} {gd : List (Nat × W64)} {n : Nat}
    {fl : Flags} (h : Wrote s t act vd gd n fl) {r : Nat} (f : Nat → W32) (new : ∀ p ∈ vd, p.1 ≠ r) :
    Wrote s (t.modCur fun g => g.setV act r f) act (vd ++ [(r, f)]) gd n fl := by
  obtain ⟨⟨g, rfl⟩, moved, lanes, otherLanes, uniform, otherUniform, mask, flags, emptyV, emptyG, poisonV, poisonG,
    marks, rest⟩ := h
  rw [State.curPath, State.cur_setGroup, State.setGroup_curS] at mask
  rw [Moved, State.curPath, State.cur_setGroup, State.setGroup_curS] at moved
  simp only [State.cur_setGroup] at lanes otherLanes uniform otherUniform flags emptyV emptyG poisonV poisonG marks rest
  have state : (s.setGroup s.curG g).modCur (fun g => g.setV act r f) = s.setGroup s.curG (g.setV act r f) := by
    rw [State.modCur_eq, State.setGroup_curG, State.cur_setGroup, State.setGroup_setGroup]
  rw [state]
  refine ⟨⟨_, rfl⟩, ?_, fun p hp l hl => ?_, fun k hk l => ?_, fun p hp => ?_,
    fun k hk b => ?_, fun unmasked => ?_, ?_, fun k hk => ?_, fun i hi => ?_, fun k hk => ?_, fun i hi => ?_, ?_, ?_⟩
  all_goals simp only [Moved, State.cur_setGroup, State.curPath, State.setGroup_curS, Group.path_setV, Group.gval_setV,
    Group.setV_fpst, Group.setV_emptyG, Group.setV_poisonG, Group.slot_setV, Group.rest_setV]
  · exact moved
  · obtain hp | hp := List.mem_append.1 hp
    · rw [Group.vval_setV_ne _ _ _ _ (new p hp), lanes p hp l hl]
    · obtain rfl := List.mem_singleton.1 hp
      rw [Group.vval_setV_self _ _ _ _ _ hl]
      split
      · rfl
      · exact otherLanes r new l
  · rw [Group.vval_setV_ne _ _ _ _ (hk (r, f) (by simp)).symm]
    exact otherLanes k (fun p hp => hk p (List.mem_append_left _ hp)) l
  · exact uniform p hp
  · exact otherUniform k hk b
  · exact mask unmasked
  · exact flags
  · rw [Group.setV_emptyV, bitOn_and_not_regSet _ _ _ hk, emptyV k hk, List.any_append]
    simp [beq_eq_decide, @eq_comm _ k, Bool.and_assoc]
  · exact emptyG i hi
  · rw [Group.setV_poisonV]
    by_cases all : act = allLanes
    · rw [if_pos all, bitOn_and_not_regSet _ _ _ hk, poisonV k hk, List.any_append]
      simp [all, beq_eq_decide, @eq_comm _ k, Bool.and_assoc]
    · rw [if_neg all, poisonV k hk]
      simp [beq_eq_false_iff_ne.2 all]
  · exact poisonG i hi
  · rw [Group.setV_marks, marks, List.filter_filter]
    congr 1
    funext m
    cases m.lane <;> simp [bne, beq_eq_decide, @eq_comm _ m.d, Bool.and_comm, List.any_append]
  · exact rest

/-- A word that writes nothing has moved on, whatever lanes are active. -/
theorem next_wrote_act {s : State} (live : s.Live) (act : LaneSet) (n : Nat) :
    Wrote s ((s.modCur fun g => g).next n) act [] [] n 0 :=
  { State.next_wrote live n with
    lanes := by simp
    poisonV := fun r hr => by simpa using (State.next_wrote live n).poisonV r hr }

theorem setVs_wrote {s : State} (live : s.Live) (act : LaneSet) (n : Nat) {vd : List (Nat × (Nat → W32))}
    (distinct : (vd.map (·.1)).Nodup) :
    Wrote s ((s.modCur fun g => g.setVs act vd).next n) act vd [] n 0 := by
  induction vd using List.reverseRecOn with
  | nil => exact next_wrote_act live act n
  | append_singleton r x ih =>
    rw [List.map_append] at distinct
    obtain ⟨before, -, apart⟩ := List.nodup_append.1 distinct
    have last : (s.modCur fun g => g.setVs act (r ++ [x])).next n =
        ((s.modCur fun g => g.setVs act r).next n).modCur fun g => g.setV act x.1 x.2 := by
      rw [State.next_modCur, State.next_modCur, State.modCur_eq, State.setGroup_curG, State.cur_setGroup,
        State.setGroup_setGroup, ← Group.next_setV, Group.setVs, List.foldl_append]
      rfl
    rw [last]
    exact (ih before).setV x.2 fun p hp same => apart p.1 (List.mem_map_of_mem hp) x.1 (by simp) same

/-- A word of several uniform results. -/
theorem putUni_wrote {s : State} (live : s.Live) (act : LaneSet) (n : Nat) {gd : List (Nat × W64)}
    (distinct : (gd.map (·.1)).Nodup) :
    Wrote s ((s.modCur fun g => g.putUni s.curS gd).next n) act [] gd n 0 := by
  induction gd using List.reverseRecOn with
  | nil => exact next_wrote_act live act n
  | append_singleton r x ih =>
    rw [List.map_append] at distinct
    obtain ⟨before, -, apart⟩ := List.nodup_append.1 distinct
    have last : (s.modCur fun g => g.putUni s.curS (r ++ [x])) =
        s.modCur fun g => (g.putUni s.curS r).setG s.curS x.1 x.2 := by
      simp only [Group.putUni, List.foldl_append, List.foldl_cons, List.foldl_nil]
    rw [last]
    exact (ih before).setG_next x.2 fun p hp same => apart p.1 (List.mem_map_of_mem hp) x.1 (by simp) same

/-! ### Registers filled from the bytes of each lane (R60) -/

theorem laneSet_aget {act : LaneSet} {β : Type} (f : Nat → β) :
    (laneSet fun l => (aget ((lanesOf act).map fun l => (l, f l)) l).isSome) = act := by
  apply BitVec.eq_of_getLsbD_eq
  intro l hl
  rw [getLsbD_laneSet _ _ hl]
  by_cases on : act.getLsbD l = true
  · rw [aget_map_of_mem f (mem_lanesOf.2 ⟨hl, on⟩), on]
    rfl
  · rw [Bool.eq_false_iff.2 on]
    cases found : aget ((lanesOf act).map fun l => (l, f l)) l with
    | none => rfl
    | some x =>
      have : l ∈ akeys ((lanesOf act).map fun l => (l, f l)) := mem_akeys_iff.2 (by rw [found]; exact Option.some_ne_none x)
      rw [akeys, List.map_map, List.mem_map] at this
      obtain ⟨l', hl', rfl⟩ := this
      exact absurd (mem_lanesOf.1 hl').2 on

/-- Lanes filled with the same registers, each with its own values. -/
theorem putLanes_eq_setVs (g : Group) {act : LaneSet} (some : act ≠ 0) (d n : Nat) (val : Nat → Nat → W32) :
    g.putLanes ((lanesOf act).map fun l => (l, (List.range n).map fun j => (d + j, val j l))) =
      g.setVs act ((List.range n).map fun j => (d + j, val j)) := by
  have chosen := laneSet_aget (act := act) fun l => (List.range n).map fun j => (d + j, val j l)
  have found {l : Nat} (on : l ∈ lanesOf act) {j : Nat} (hj : j < n) :
      (aget ((aget ((lanesOf act).map fun l => (l, (List.range n).map fun j => (d + j, val j l))) l).getD [])
        (d + j)).getD 0 = val j l := by
    rw [aget_map_of_mem (fun l => (List.range n).map fun j => (d + j, val j l)) on, Option.getD_some,
      aget_numbered d n _ hj]
    rfl
  generalize rows : ((lanesOf act).map fun l => (l, (List.range n).map fun j => (d + j, val j l))) = table at chosen found
  obtain ⟨l0, ls, split⟩ := List.exists_cons_of_ne_nil (mt lanesOf_eq_nil.1 some)
  rw [split, List.map_cons] at rows
  subst rows
  rw [Group.putLanes, chosen, Group.setVs, List.foldl_map, List.foldl_map]
  refine List.foldl_ext _ _ g fun a j hj => Group.setV_congr _ _ _ fun l hl on => ?_
  exact found (mem_lanesOf.2 ⟨hl, on⟩) (List.mem_range.1 hj)

section
variable {ls : List Nat} {it : Nat → Item} {bytes : Nat → List Byte} (distinct : ls.Nodup)
  (lane : ∀ l ∈ ls, (it l).lane = l) (got : ∀ l ∈ ls, (it l).got = some (bytes l, false))
include lane

theorem map_item_lane : (ls.map it).map (·.lane) = ls := by
  rw [List.map_map]
  exact (List.map_congr_left lane).trans (List.map_id _)

include distinct got

theorem gotBytes_of_one {l : Nat} (hl : l ∈ ls) : gotBytes (ls.map it) l = bytes l := by
  have one : (ls.map it).filter (fun i => i.lane == l) = [it l] := by
    rw [List.filter_map, List.filter_congr (q := (· == l)) fun x hx => by
      rw [Function.comp, lane x hx]]
    rw [List.filter_beq, List.count_eq_one_of_mem distinct hl]
    rfl
  rw [gotBytes, one, List.flatMap_singleton, got l hl]
  rfl

omit distinct lane in
theorem sound_of_got : (ls.map it).any Item.bad = false := by
  rw [List.any_map, List.any_eq_false]
  intro l hl
  rw [Function.comp, Item.bad, got l hl]
  exact Bool.false_ne_true

end

/-- Lanes filled from one item each. -/
theorem fillFrom_lanes (g : Group) (b : Bool) {act : LaneSet} (on : act ≠ 0) {it : Nat → Item}
    {bytes : Nat → List Byte} (lane : ∀ l ∈ lanesOf act, (it l).lane = l)
    (got : ∀ l ∈ lanesOf act, (it l).got = some (bytes l, false)) {w : Width}
    (len : ∀ l ∈ lanesOf act, (bytes l).length = w.bytes) (v : BitVec 128) (u : BitVec 136) (d : Nat) (sx : Bool) :
    g.fillFrom b true ((lanesOf act).map it) v u (loadRows true d w.bytes sx) =
      g.setVs act ((List.range w.laneRegs).map fun j => (d + j, fun l => laneValue w sx (leNat (bytes l)) j)) := by
  have rows : ((itemLanes ((lanesOf act).map it)).map fun l =>
      (l, (loadRows true d w.bytes sx (gotBytes ((lanesOf act).map it) l)).1)) =
      (lanesOf act).map fun l => (l, (List.range w.laneRegs).map fun j => (d + j, laneValue w sx (leNat (bytes l)) j)) := by
    rw [itemLanes, map_item_lane lane, dedup_of_nodup (nodup_lanesOf act)]
    refine List.map_congr_left fun l hl => ?_
    rw [gotBytes_of_one (nodup_lanesOf act) lane got hl, loadRows, if_pos rfl, laneWords_wordsOf (len l hl), numbered_map]
  rw [Group.fillFrom, if_pos rfl, sound_of_got got, if_neg Bool.false_ne_true, List.map_map]
  exact (congrArg g.putLanes rows).trans (putLanes_eq_setVs g on d _ fun j l => laneValue w sx (leNat (bytes l)) j)

/-- Uniform registers filled from one item. -/
theorem fillFrom_uni (g : Group) (b : Bool) {it : Item} {bytes : List Byte} (got : it.got = some (bytes, false))
    {w : Width} (len : bytes.length = w.bytes) (v : BitVec 128) (u : BitVec 136) (d : Nat) (sx : Bool) :
    g.fillFrom b false [it] v u (loadRows false d w.bytes sx) =
      g.putUni b ((List.range w.uniRegs).map fun j => (d + j, uniValue w sx (leNat bytes) j)) := by
  have one : gotBytes [it] it.lane = bytes := by simp [gotBytes, got]
  have sound : [it].any Item.bad = false := by simp [Item.bad, got]
  rw [Group.fillFrom, sound, if_neg Bool.false_ne_true, if_neg Bool.false_ne_true]
  change g.putUni b (loadRows false d w.bytes sx (gotBytes [it] it.lane)).2 = _
  rw [one, loadRows, if_neg Bool.false_ne_true, uniWords_wordsOf len, numbered_map]

end Sys2Proof.Machine
end

section
/-! SUPPORT. Checked accesses of a memory word, the hints and pages that it asks for, and the producer that it becomes (R12,
R26, R27, R41, R60, R185 to R187). -/

namespace Sys2Proof.Machine

/-! ### Table keys (R26) -/

/-- A table handle as the key of its byte. -/
theorem tableHandle_key {e : W64} (space : spaceOf e = 0) : tidOf e = tidOfKey e.toNat ∧ posOf e = posOfKey e.toNat ∧
    tidOf e * 2 ^ 42 + posOf e = e.toNat ∧ e.toNat < 2 ^ 62 := by
  have bound := e.isLt
  simp only [spaceOf, tidOf, posOf, tidOfKey, posOfKey, flatKey, sideBase, field] at *
  omega

/-! ### Checked handles (R27) -/

section
variable {s : State} {h e : W64} {off : BitVec 16} {n lane : Nat} {rd wr : Bool}

theorem checkTable_of_right {l : Launch} {need : Need} (sound : (s.table (tidOf e)).poisonDesc = false)
    (usable : (s.table (tidOf e)).usable (tidOf e) = true) (mayRead : need.rd = true → l.reads (tidOf e) = true)
    (mayWrite : need.wr = true → l.writesTo (tidOf e) = true) :
    s.checkTable l e need = Machine.need (posOf e / (s.table (tidOf e)).rowSize < (s.table (tidOf e)).slots) .handleFault
      (Machine.need (posOf e % need.wid == 0) .align (.ok (.tab (tidOf e * 2 ^ 42 + posOf e)))) := by
  have right : ((!need.rd || l.reads (tidOf e)) && (!need.wr || l.writesTo (tidOf e))) = true := by
    rw [Bool.and_eq_true, Bool.or_eq_true, Bool.or_eq_true, Bool.not_eq_true', Bool.not_eq_true']
    exact ⟨(Bool.eq_false_or_eq_true _).symm.imp_right mayRead, (Bool.eq_false_or_eq_true _).symm.imp_right mayWrite⟩
  rw [State.checkTable, need_true (by rw [sound]; rfl), need_true usable, need_true right]

theorem checkHandle_ownSpad (own : s.OwnSpad h off n lane) (l : Nat) : ∃ e, effective h off = .ok e ∧ spaceOf e = 1 ∧
    s.checkHandle s.curG l e ⟨n, rd, wr⟩ = .ok (.spad (teamOf s.curG) lane) := by
  obtain ⟨⟨e, eff, space, zero, rfl⟩, inside, aligned⟩ := own
  refine ⟨e, eff, space, ?_⟩
  simp only [State.checkHandle, space]
  rw [need_true (beq_iff_eq.2 zero)]
  exact (need_true (decide_eq_true inside) _ _).trans (need_true (beq_iff_eq.2 aligned) _ _)

theorem checkTable_inTable {k : Nat} (at_ : s.InTable h off n k rd wr) : ∃ e, effective h off = .ok e ∧ spaceOf e = 0 ∧
    e.toNat = k ∧ s.checkTable s.curLaunch e ⟨n, rd, wr⟩ = .ok (.tab k) := by
  obtain ⟨⟨e, eff, space, rfl⟩, sound, usable, mayRead, mayWrite, inSlots, aligned⟩ := at_
  obtain ⟨tid, pos, key, -⟩ := tableHandle_key space
  rw [← tid] at sound usable mayRead mayWrite inSlots
  rw [← pos] at inSlots aligned
  refine ⟨e, eff, space, rfl, ?_⟩
  rw [checkTable_of_right sound usable mayRead mayWrite, need_true (decide_eq_true inSlots),
    need_true (beq_iff_eq.2 aligned), key]

theorem checkHandle_reaches {loc : Loc} (at_ : s.Reaches lane h off n rd wr loc) : ∃ e, effective h off = .ok e ∧
    spaceOf e ≠ 1 ∧ s.checkHandle s.curG lane e ⟨n, rd, wr⟩ = .ok loc := by
  cases loc with
  | tab k =>
    obtain ⟨e, eff, space, -, passes⟩ := checkTable_inTable at_
    exact ⟨e, eff, by rw [space]; decide, by rw [State.checkHandle, space]; exact passes⟩
  | priv base l o =>
    obtain ⟨rfl, rfl, ⟨e, eff, space, zero, rfl⟩, aligned⟩ := at_
    refine ⟨e, eff, by rw [space]; decide, ?_⟩
    simp only [State.checkHandle, space]
    rw [need_true (beq_iff_eq.2 zero), need_true (beq_iff_eq.2 aligned)]
    rfl
  | spad t o =>
    obtain ⟨⟨e, eff, space, zero, half, rfl, resident⟩, same, inside, aligned⟩ := at_
    refine ⟨e, eff, by rw [space]; decide, ?_⟩
    simp only [State.checkHandle, space]
    rw [need_true (by rw [zero, half]; rfl)]
    change (match s.residentGen (s.curCluster * 16 + field e 36 4) (BitVec.ofNat 16 (field e 20 16)) with
      | none => _
      | some t => _) = _
    rw [resident]
    dsimp only
    rw [need_true (beq_iff_eq.2 same)]
    exact (need_true (decide_eq_true inside) _ _).trans (need_true (beq_iff_eq.2 aligned) _ _)

/-- An access to the own scratchpad passes where the word's own check does. -/
theorem accOf_ownSpad {o : Nat} {check : Acc → Option Fail} (own : s.OwnSpad h off n o)
    (passes : check ⟨lane, true, .spad (teamOf s.curG) o⟩ = none) :
    s.accOf s.curG lane h off ⟨n, rd, wr⟩ check = .ok ⟨lane, true, .spad (teamOf s.curG) o⟩ := by
  obtain ⟨e, eff, space, loc⟩ := checkHandle_ownSpad (rd := rd) (wr := wr) own lane
  simp only [State.accOf, eff, loc, space, beq_self_eq_true, passes]

/-- An access outside the own scratchpad passes where the word's own check does. -/
theorem accOf_reaches {loc : Loc} {check : Acc → Option Fail} (at_ : s.Reaches lane h off n rd wr loc)
    (passes : check ⟨lane, false, loc⟩ = none) :
    s.accOf s.curG lane h off ⟨n, rd, wr⟩ check = .ok ⟨lane, false, loc⟩ := by
  obtain ⟨e, eff, space, loc⟩ := checkHandle_reaches at_
  simp only [State.accOf, eff, loc, beq_eq_false_iff_ne.2 space, passes]

theorem accOf_refused {loc : Loc} {check : Acc → Option Fail} {f : Fail} (at_ : s.Reaches lane h off n rd wr loc)
    (fails : check ⟨lane, false, loc⟩ = some f) : s.accOf s.curG lane h off ⟨n, rd, wr⟩ check = .error f := by
  obtain ⟨e, eff, space, loc⟩ := checkHandle_reaches at_
  simp only [State.accOf, eff, loc, beq_eq_false_iff_ne.2 space, fails]

end

/-- Lanes that all pass give their accesses in order (R187). -/
theorem allLanesOk_map {α : Type} {f : Nat → Except Fail α} {g : Nat → α} {ls : List Nat}
    (passes : ∀ l ∈ ls, f l = .ok (g l)) : allLanesOk f ls = .ok (ls.map g) := by
  induction ls with
  | nil => rfl
  | cons l r ih =>
    rw [allLanesOk, passes l List.mem_cons_self, ih fun x hx => passes x (List.mem_cons_of_mem _ hx)]
    rfl

theorem allLanesOk_first {α : Type} {f : Nat → Except Fail α} {l : Nat} {r : List Nat} {e : Fail}
    (fails : f l = .error e) : allLanesOk f (l :: r) = .error e := by rw [allLanesOk, fails]

/-! ### Hints and pages (R12, R41) -/

/-- Only the hints of lines and the walks of pages may have changed. -/
def OnlyHints (s t : State) : Prop := ∃ early walks, t = { s with mem := { s.mem with early, walks } }

theorem OnlyHints.refl (s : State) : OnlyHints s s := ⟨_, _, rfl⟩

theorem OnlyHints.trans {s t u : State} (h : OnlyHints s t) (h' : OnlyHints t u) : OnlyHints s u := by
  obtain ⟨_, _, rfl⟩ := h
  obtain ⟨_, _, rfl⟩ := h'
  exact ⟨_, _, rfl⟩

theorem OnlyHints.foldl {α : Type} {f : State → α → State} (step : ∀ s a, OnlyHints s (f s a)) (l : List α) (s : State) :
    OnlyHints s (l.foldl f s) :=
  List.foldlRecOn l f (.refl s) fun _ h a _ => h.trans (step _ a)

theorem onlyHints_hintLine (s : State) (cl key hint : Nat) : OnlyHints s (s.hintLine cl key hint) := by
  unfold State.hintLine
  generalize (if hint = 0 ∧ !isPriv key then (s.table (tidOfKey key)).retc else hint) = h
  dsimp only
  split
  · exact ⟨_, _, rfl⟩
  · split
    · exact ⟨_, _, rfl⟩
    · exact .refl s

theorem onlyHints_hintLines (s : State) (hint : Nat) (accs : List Acc) : OnlyHints s (s.hintLines hint accs) :=
  OnlyHints.foldl (fun a x => by
    split
    · exact .refl a
    · exact onlyHints_hintLine a _ _ _) accs s

theorem onlyHints_touchPage (s : State) (core key : Nat) : OnlyHints s (s.touchPage core key) := by
  unfold State.touchPage
  dsimp only
  split
  · exact .refl s
  · split <;> exact ⟨_, _, rfl⟩

theorem onlyHints_touchRange (s : State) (core key n : Nat) : OnlyHints s (s.touchRange core key n) :=
  OnlyHints.foldl (fun a k => onlyHints_touchPage a core k) _ s

theorem onlyHints_touchItems (s : State) (items : List Item) : OnlyHints s (s.touchItems items) :=
  OnlyHints.foldl (fun a i => by
    split
    · exact onlyHints_touchRange a _ _ _
    · exact .refl a) items s

theorem hintLines_of_spads (s : State) (hint : Nat) {accs : List Acc} (spads : ∀ x ∈ accs, x.loc.isSpad = true) :
    s.hintLines hint accs = s :=
  List.foldlRecOn accs _ (motive := fun u => u = s) rfl fun u hu x hx => by rw [hu, if_pos (spads x hx)]

/-! ### Producers (R60) -/

/-- The sets of registers of destination groups. -/
theorem bitOn_allSets_lane (b : Bool) (ds : List (Nat × Nat)) {r : Nat} (hr : r < 128) :
    bitOn (allSets true b ds).1 r = ds.any fun d => decide (d.1 ≤ r) && decide (r < d.1 + d.2) := by
  induction ds using List.reverseRecOn with
  | nil => simp [allSets, bitOn]
  | append_singleton l d ih =>
    rw [allSets, List.foldl_append, List.any_append, ← ih]
    change bitOn ((allSets true b l).1 ||| regSet 128 d.1 d.2) r = _
    rw [bitOn_or, bitOn_regSet _ _ hr, List.any_cons, List.any_nil, Bool.or_false]

theorem allSets_lane_uni (b : Bool) (ds : List (Nat × Nat)) : (allSets true b ds).2 = 0 := by
  induction ds using List.reverseRecOn with
  | nil => rfl
  | append_singleton l d ih =>
    rw [allSets, List.foldl_append]
    change (allSets true b l).2 ||| 0 = 0
    rw [ih]
    rfl

theorem bitOn_gSets (b : Bool) (d n : Nat) {i : Nat} (hi : i < 136) :
    bitOn (dstSets false b d n).2 i = (List.range n).any fun j => gBit b (d + j) == i := by
  change bitOn ((List.range n).foldl (fun m i => m ||| regSet 136 (gBit b (d + i)) 1) 0) i = _
  induction n with
  | zero => simp [bitOn]
  | succ n ih =>
    rw [List.range_succ, List.foldl_append, List.any_append, ← ih, List.foldl_cons, List.foldl_nil, bitOn_or,
      bitOn_regSet_one _ _ hi, List.any_cons, List.any_nil, Bool.or_false]
    simp [beq_eq_decide, @eq_comm _ i]

theorem bitOn_allSets_uni (b : Bool) (ds : List (Nat × Nat)) {i : Nat} (hi : i < 136) :
    bitOn (allSets false b ds).2 i = ds.any fun d => (List.range d.2).any fun j => gBit b (d.1 + j) == i := by
  induction ds using List.reverseRecOn with
  | nil => simp [allSets, bitOn]
  | append_singleton l d ih =>
    rw [allSets, List.foldl_append, List.any_append, ← ih]
    change bitOn ((allSets false b l).2 ||| (dstSets false b d.1 d.2).2) i = _
    rw [bitOn_or, bitOn_gSets _ _ _ hi, List.any_cons, List.any_nil, Bool.or_false]

theorem allSets_uni_lane (b : Bool) (ds : List (Nat × Nat)) : (allSets false b ds).1 = 0 := by
  induction ds using List.reverseRecOn with
  | nil => rfl
  | append_singleton l d ih =>
    rw [allSets, List.foldl_append]
    change (allSets false b l).1 ||| 0 = 0
    rw [ih]
    rfl

/-- The issuing group once a word's destinations are empty and its counted requests are counted. -/
def Group.awaiting (g : Group) (lane b : Bool) (ds : List (Nat × Nat)) (uwc : Nat) : Group :=
  { g.emptyRegs (allSets lane b ds).1 (allSets lane b ds).2 with uwc := uwc }

section
variable (g : Group) (lane b : Bool) (ds : List (Nat × Nat)) (uwc : Nat)

theorem slot_awaiting (c : Bool) : (g.awaiting lane b ds uwc).slot c = g.slot c := by cases c <;> rfl

theorem bitOn_emptyV_awaiting {r : Nat} (hr : r < 128) : bitOn (g.awaiting lane b ds uwc).emptyV r =
    (bitOn g.emptyV r || (lane && ds.any fun d => decide (d.1 ≤ r) && decide (r < d.1 + d.2))) := by
  change bitOn (g.emptyV ||| (allSets lane b ds).1) r = _
  rw [bitOn_or]
  cases lane
  · rw [allSets_uni_lane]
    simp [bitOn]
  · rw [bitOn_allSets_lane b ds hr, Bool.true_and]

theorem bitOn_emptyG_awaiting {i : Nat} (hi : i < 136) : bitOn (g.awaiting lane b ds uwc).emptyG i =
    (bitOn g.emptyG i || (!lane && ds.any fun d => (List.range d.2).any fun j => gBit b (d.1 + j) == i)) := by
  change bitOn (g.emptyG ||| (allSets lane b ds).2) i = _
  rw [bitOn_or]
  cases lane
  · rw [bitOn_allSets_uni b ds hi, Bool.not_false, Bool.true_and]
  · rw [allSets_lane_uni]
    simp [bitOn]

end

/-- Moving on keeps a path's lanes, FMT, rejoin word and depth. -/
theorem moved_of_slots {s u : State} (live : s.Live) {g : Group} (cur : u.cur = g)
    (slots : ∀ b, g.slot b = s.cur.slot b) (hS : u.curS = s.curS) (n : Nat) : Moved s (u.next n) n := by
  obtain ⟨p, hp⟩ := Option.isSome_iff_exists.1 live
  have next : (u.next n).cur = g.next s.curS n := by rw [State.next_eq, State.cur_setGroup, cur, hS]
  have before : s.curPath = p := Group.path_of_slot hp
  have slot := Group.slot_path_next n ((congrArg _ (slots s.curS)).trans hp)
  have after : (u.next n).curPath = { p with pc := p.pc + BitVec.ofNat 64 n } := by
    rw [State.curPath, next, State.next_curS, hS, Group.path_of_slot slot]
  rw [Moved, next, after, before, Group.slot_next_not, slots, slot]
  exact ⟨rfl, rfl, rfl, rfl, rfl, rfl, rfl⟩

/-- A state that has one producer more than that of the word, whose group awaits its fills, and which agrees with it in
memory and in the other groups. -/
structure Awaits (s u : State) (lane : Bool) (kind : FillKind) (items : List Item) (ds : List (Nat × Nat))
    (acq : Bool) (uwc : Nat) : Prop where
  curG : u.curG = s.curG
  curS : u.curS = s.curS
  cur : u.cur = s.cur.awaiting lane s.curS ds uwc
  others : ∀ gid, gid ≠ s.curG → u.group gid = s.group gid
  fill : ∃ f, u.fills = s.fills ++ [f] ∧ f.kind = kind ∧ f.items = items ∧ f.lane = lane ∧
    f.gid = s.curG ∧ f.slot1 = s.curS ∧ f.acq = acq
  memory : u.mem.home = s.mem.home ∧ u.mem.l1 = s.mem.l1 ∧ u.teams = s.teams ∧ u.writes = s.writes

section
variable {s u : State} {lane acq : Bool} {kind : FillKind} {items : List Item} {ds : List (Nat × Nat)} {uwc : Nat}

theorem Awaits.group_next (h : Awaits s u lane kind items ds acq uwc) (n : Nat) {gid : Nat} (other : gid ≠ s.curG) :
    (u.next n).group gid = s.group gid := by
  rw [State.next_eq, h.curG, State.group_setGroup_ne _ _ other, h.others gid other]

/-- A producer's word has moved on with its destinations empty. -/
theorem Awaits.produced (h : Awaits s u lane kind items ds acq uwc) (live : s.Live) (n : Nat) :
    Produced s (u.next n) lane kind items ds acq n := by
  have next : (u.next n).cur = (s.cur.awaiting lane s.curS ds uwc).next s.curS n := by
    rw [State.next_eq, State.cur_setGroup, h.cur, h.curS]
  refine ⟨h.fill, moved_of_slots live h.cur (slot_awaiting _ _ _ _ _) h.curS n, fun r hr => ?_, fun i hi => ?_, ?_,
    h.memory, fun gid other => h.group_next n other⟩
  · rw [next, Group.next_emptyV, bitOn_emptyV_awaiting _ _ _ _ _ hr]
  · rw [next, Group.next_emptyG, bitOn_emptyG_awaiting _ _ _ _ _ hi]
  · simp only [next, Group.next_v, Group.next_g, Group.next_poisonV, Group.next_poisonG, Group.next_stack,
      Group.next_preds, Group.next_fpst]
    exact ⟨rfl, rfl, rfl, rfl, rfl, rfl, rfl⟩

end

theorem OnlyHints.group {s t : State} (h : OnlyHints s t) (gid : Nat) : t.group gid = s.group gid := by
  obtain ⟨_, _, rfl⟩ := h
  rfl

theorem OnlyHints.takeId {s t : State} (h : OnlyHints s t) : OnlyHints s.takeId t.takeId := by
  obtain ⟨_, _, rfl⟩ := h
  exact ⟨_, _, rfl⟩

/-- A word becomes a producer where only hints and walks have changed before. -/
theorem awaits_produceAs {s t : State} (h : OnlyHints s.takeId t) (id : Nat) (lane : Bool) (kind : FillKind)
    (items : List Item) (ds : List (Nat × Nat)) (acq : Bool) :
    Awaits s (t.produceAs id lane kind items ds acq) lane kind items ds acq s.cur.uwc := by
  obtain ⟨early, walks, asked⟩ := onlyHints_touchItems t items
  obtain ⟨_, _, rfl⟩ := h
  rw [State.produceAs, asked]
  exact ⟨rfl, rfl, State.cur_modCur _ _, fun gid other => State.group_setGroup_ne _ _ other,
    ⟨_, rfl, rfl, rfl, rfl, rfl, rfl, rfl⟩, rfl, rfl, rfl, rfl⟩

end Sys2Proof.Machine
end

section
/-! Loads and consistent reads (O34; R27, R60, R142, R185 to R187, R190, R195, R244). -/

namespace Sys2Proof.Machine

/-! ### A load whose lanes have been checked -/

theorem outside_of_plain {s : State} (plain : s.inRegion s.curG = false) (k : Res) : s.outside k = k := by
  rw [State.outside, plain, if_neg Bool.false_ne_true]

/-- A word with an order other than relaxed goes on outside every region (R221). -/
theorem relaxedOnly_of_plain {s : State} {ord : Order} (plain : ord = .relaxed ∨ s.inRegion s.curG = false) (k : Res) :
    s.relaxedOnly (ord != .relaxed) k = k := by
  rcases plain with rfl | plain
  · rfl
  · rw [State.relaxedOnly]
    split
    · exact outside_of_plain plain k
    · rfl

/-- The access of a lane of a load. -/
def State.loadAcc (s : State) (lane : Bool) (a : Nat) (m : MemExt) (l : Nat) : Except Fail Acc :=
  s.accOf s.curG l (s.cur.handleOf s.curS lane a l) m.off ⟨m.wid.bytes, true, false⟩ fun _ => none

/-- No byte of an element in a scratchpad is poisoned. -/
theorem spad_sound {poison : List Nat} {t o n : Nat} (sound : ∀ i < n, (o + i) / 32 ∉ poison) :
    (dedup (((Loc.spad t o).keys n).map (· / 32))).any poison.contains = false := by
  rw [List.any_eq_false]
  intro u hu
  rw [mem_dedup_iff, List.mem_map] at hu
  obtain ⟨k, hk, rfl⟩ := hu
  obtain ⟨i, hi, rfl⟩ := List.mem_map.1 hk
  rw [List.contains_iff_mem]
  exact sound i (List.mem_range.1 hi)

/-- An access of a load in the own scratchpad, with the bytes that it finds there. -/
def State.ownItem (s : State) (wid o l : Nat) : Item :=
  ⟨l, .spad (teamOf s.curG) o, wid, [], some (bytesAt s.curTeam.spad o wid, false)⟩

theorem loadItems_own {s : State} {wid o : Nat} (l : Nat) (sound : ∀ i < wid, (o + i) / 32 ∉ s.curTeam.spadPoison) :
    s.loadItems ⟨l, true, .spad (teamOf s.curG) o⟩ wid = [s.ownItem wid o l] := by
  have clean := spad_sound (t := teamOf s.curG) sound
  change [(⟨l, _, wid, [], some (bytesAt s.curTeam.spad o wid, (dedup _).any s.curTeam.spadPoison.contains)⟩ : Item)] = _
  rw [clean, State.ownItem]

theorem loadItems_away (s : State) (l wid : Nat) (loc : Loc) :
    s.loadItems ⟨l, false, loc⟩ wid = waitingItems l wid loc := by
  cases loc <;> rfl

/-- A load waits for its first element outside the own scratchpad. -/
theorem waitingItems_waits (l : Nat) (w : Width) (loc : Loc) :
    ∃ i ∈ waitingItems l w.bytes loc, i.got.isSome = false := by
  have some : 0 < w.bytes / min w.bytes (if loc.isPrivate then 4 else 8) := by cases w <;> cases loc.isPrivate <;> decide
  exact ⟨_, List.mem_map.2 ⟨0, List.mem_range.2 some, rfl⟩, rfl⟩

section
variable {s : State} {lane nf sx : Bool} {d a : Nat} {m : MemExt} {u : Uses} (accepts : s.Accepts u)
  (plain : m.ord = .relaxed ∨ s.inRegion s.curG = false)
include accepts plain

theorem load_refused {c : Cause} {e : W32} (fails : allLanesOk (s.loadAcc lane a m) (s.memLanes lane nf) = .error (c, e)) :
    s.load lane nf d a sx m u = .trap c e := by
  rw [State.load, State.gated_of_accepts accepts, relaxedOnly_of_plain plain]
  exact congrArg (passing · _) fails

theorem load_none (none : s.memLanes lane nf = []) : s.load lane nf d a sx m u =
    .done ((s.produceNone [(d, if lane then m.wid.laneRegs else m.wid.uniRegs)]).next 8) := by
  rw [State.load, State.gated_of_accepts accepts, relaxedOnly_of_plain plain, none]
  rfl

variable (ready : s.acquiring = false) (calm : s.regionWaits s.curG = false) (some : s.memLanes lane nf ≠ [])
include ready calm some

/-- A load of the own scratchpad fills its registers at once (R154). -/
theorem load_own {o : Nat → Nat} (own : ∀ l ∈ s.memLanes lane nf,
      s.OwnSpad (s.cur.handleOf s.curS lane a l) m.off m.wid.bytes (o l) ∧
      s.scored (teamOf s.curG) (o l) (o l + m.wid.bytes) false = false ∧
      ∀ i < m.wid.bytes, (o l + i) / 32 ∉ s.curTeam.spadPoison) :
    ∃ v g, s.load lane nf d a sx m u = .done ((s.modCur fun x => x.fillFrom s.curS lane
      ((s.memLanes lane nf).map fun l => s.ownItem m.wid.bytes (o l) l) v g (loadRows lane d m.wid.bytes sx)).next 8) := by
  have checks : allLanesOk (s.loadAcc lane a m) (s.memLanes lane nf) =
      .ok ((s.memLanes lane nf).map fun l => ⟨l, true, .spad (teamOf s.curG) (o l)⟩) :=
    allLanesOk_map fun l hl => accOf_ownSpad (own l hl).1 rfl
  have free : ∀ x ∈ (s.memLanes lane nf).map fun l => (⟨l, true, .spad (teamOf s.curG) (o l)⟩ : Acc),
      s.accScored x m.wid.bytes false = false := by
    intro x hx
    obtain ⟨l, hl, rfl⟩ := List.mem_map.1 hx
    exact (Bool.true_and _).trans (own l hl).2.1
  have found : ((s.memLanes lane nf).map fun l => (⟨l, true, .spad (teamOf s.curG) (o l)⟩ : Acc)).flatMap
      (fun x => s.loadItems x m.wid.bytes) = (s.memLanes lane nf).map fun l => s.ownItem m.wid.bytes (o l) l := by
    rw [List.flatMap_map, List.flatMap_congr fun l hl => loadItems_own l (own l hl).2.2, ← List.map_eq_flatMap]
  have busy (accs : List Acc) : s.regionBusy accs = false := by rw [State.regionBusy, calm, Bool.false_and]
  have hints := hintLines_of_spads s m.hint.code
    (accs := (s.memLanes lane nf).map fun l => ⟨l, true, .spad (teamOf s.curG) (o l)⟩) fun x hx => by
      obtain ⟨l, -, rfl⟩ := List.mem_map.1 hx
      rfl
  have bound : (((s.memLanes lane nf).map fun l => s.ownItem m.wid.bytes (o l) l).all fun i => i.got.isSome) = true := by
    simp [State.ownItem]
  let regs := dstSets lane s.curS d (if lane then m.wid.laneRegs else m.wid.uniRegs)
  refine ⟨regs.1, regs.2, ?_⟩
  rw [State.load, State.gated_of_accepts accepts, relaxedOnly_of_plain plain]
  refine (congrArg (passing · _) checks).trans ?_
  rw [passing]
  dsimp only
  rw [if_neg (by simpa using some), ready, busy, List.any_eq_false.2 fun x hx => Bool.not_eq_true _ ▸ free x hx, if_neg (by decide), found, hints, if_pos bound]

/-- A load outside the own scratchpad becomes a producer, outside every region (R60). -/
theorem load_away (outside : s.inRegion s.curG = false) {loc : Nat → Loc} (away : ∀ l ∈ s.memLanes lane nf,
      s.Reaches l (s.cur.handleOf s.curS lane a l) m.off m.wid.bytes true false (loc l)) :
    ∃ t, s.load lane nf d a sx m u = .done t ∧ Produced s t lane (.load d m.wid.bytes sx (isStrong m))
      ((s.memLanes lane nf).flatMap fun l => waitingItems l m.wid.bytes (loc l))
      [(d, if lane then m.wid.laneRegs else m.wid.uniRegs)] (m.ord == .acquire) 8 := by
  have checks : allLanesOk (s.loadAcc lane a m) (s.memLanes lane nf) =
      .ok ((s.memLanes lane nf).map fun l => ⟨l, false, loc l⟩) :=
    allLanesOk_map fun l hl => accOf_reaches (away l hl) rfl
  have free : ((s.memLanes lane nf).map fun l => (⟨l, false, loc l⟩ : Acc)).any
      (fun x => s.accScored x m.wid.bytes false) = false := by simp [State.accScored]
  have busy (accs : List Acc) : s.regionBusy accs = false := by rw [State.regionBusy, calm, Bool.false_and]
  have found : ((s.memLanes lane nf).map fun l => (⟨l, false, loc l⟩ : Acc)).flatMap
      (fun x => s.loadItems x m.wid.bytes) = (s.memLanes lane nf).flatMap fun l => waitingItems l m.wid.bytes (loc l) := by
    rw [List.flatMap_map]
    exact List.flatMap_congr fun l _ => loadItems_away s l _ _
  have unbound : ¬(((s.memLanes lane nf).flatMap fun l => waitingItems l m.wid.bytes (loc l)).all
      fun i => i.got.isSome) = true := by
    obtain ⟨l, r, first⟩ := List.exists_cons_of_ne_nil some
    obtain ⟨i, hi, waits⟩ := waitingItems_waits l m.wid (loc l)
    intro all
    rw [List.all_eq_true.1 all i (List.mem_flatMap.2 ⟨l, first ▸ List.mem_cons_self, hi⟩)] at waits
    exact absurd waits (by decide)
  have asked := onlyHints_hintLines s m.hint.code ((s.memLanes lane nf).map fun l => ⟨l, false, loc l⟩)
  refine ⟨_, ?_, (awaits_produceAs asked.takeId
    (s.hintLines m.hint.code ((s.memLanes lane nf).map fun l => ⟨l, false, loc l⟩)).nextId lane
      (.load d m.wid.bytes sx (isStrong m)) _ _ (m.ord == .acquire)).produced accepts.live 8⟩
  rw [State.load, State.gated_of_accepts accepts, relaxedOnly_of_plain plain]
  refine (congrArg (passing · _) checks).trans ?_
  rw [passing]
  dsimp only
  rw [if_neg (by simpa using some), ready, busy, free, if_neg (by decide), found, if_neg unbound, outside,
    if_neg Bool.false_ne_true]
  rfl

end

/-! ### A word without an active lane (R244) -/

theorem Group.unmark_lane (g : Group) (b : Bool) (d n : Nat) :
    g.unmark (allSets true b [(d, n)]).1 (allSets true b [(d, n)]).2 = g.unmarked d n := by
  have same (m : Mark) : (if m.lane then !bitOn (allSets true b [(d, n)]).1 m.d
      else !bitOn (allSets true b [(d, n)]).2 m.d) =
      !(m.lane && decide (d ≤ m.d) && decide (m.d < d + n) && decide (m.d < 128)) := by
    cases m.lane with
    | false => simp [allSets_lane_uni, bitOn]
    | true =>
      by_cases inFile : m.d < 128
      · simp [bitOn_allSets_lane b _ inFile, inFile]
      · simp [bitOn, BitVec.getLsbD_of_ge _ m.d (Nat.not_lt.1 inFile), inFile]
  rw [Group.unmark, Group.unmarked, funext same]

theorem produceNone_next {s : State} (live : s.Live) (d n k : Nat) :
    OnlyGroup s ((s.produceNone [(d, n)]).next k) ∧ MovesOn s ((s.produceNone [(d, n)]).next k) k (s.cur.unmarked d n) :=
  ⟨⟨_, State.next_modCur _ _ _⟩, movesOn_of_slots live
    ((State.cur_modCur _ _).trans (Group.unmark_lane _ _ _ _)) (fun b => by cases b <;> rfl) rfl k⟩

/-! ### The words -/

section
variable {s : State} {d a : Reg} {wa sx : Bool} {m : MemExt}

/-- Filled registers are a word's results. -/
theorem filled_wrote {f : Group → Group} {v : List (Nat × (Nat → W32))} {act : LaneSet} (live : s.Live)
    (distinct : (v.map (·.1)).Nodup) (fills : f s.cur = s.cur.setVs act v) (n : Nat) :
    Wrote s ((s.modCur f).next n) act v [] n 0 := by
  have := setVs_wrote live act n distinct
  rwa [State.next_modCur, ← fills, ← State.next_modCur] at this

theorem filled_wrote_uni {f : Group → Group} {v : List (Nat × W64)} (live : s.Live)
    (distinct : (v.map (·.1)).Nodup) (fills : f s.cur = s.cur.putUni s.curS v) (n : Nat) :
    Wrote s ((s.modCur f).next n) 0 [] v n 0 := by
  have := putUni_wrote live 0 n distinct
  rwa [State.next_modCur, ← fills, ← State.next_modCur] at this

theorem gld_traps {c : Cause} (accepts : s.Accepts ⟨[sg a wa], [dgs d m.wid.uniRegs], false⟩)
    (plain : m.ord = .relaxed ∨ s.inRegion s.curG = false)
    (fails : s.loadAcc false a.val m 0 = .error (c, 0)) : Traps (.gld d a wa sx m) s c 0 :=
  congrArg s.finish (load_refused (lane := false) (nf := true) accepts plain (allLanesOk_first fails))

end

/-! ### Handles outside their space's bounds (R27) -/

section
variable {s : State} {a : Nat} {m : MemExt} {e : W64}

theorem loadAcc_of_effective {c : Cause} (fails : effective (s.cur.gval s.curS a) m.off = .error c) :
    s.loadAcc false a m 0 = .error (c, 0) := by
  rw [State.loadAcc, Group.handleOf, if_neg Bool.false_ne_true, State.accOf, fails]

variable (eff : effective (s.cur.gval s.curS a) m.off = .ok e)
include eff

theorem loadAcc_of_check {c : Cause} (fails : s.checkHandle s.curG 0 e ⟨m.wid.bytes, true, false⟩ = .error c) :
    s.loadAcc false a m 0 = .error (c, 0) := by
  rw [State.loadAcc, Group.handleOf, if_neg Bool.false_ne_true, State.accOf, eff]
  dsimp only
  rw [fails]

end

section
variable {s : State} {e : W64} {need : Need} {g lane : Nat}

theorem checkHandle_spad (space : spaceOf e = 1) : s.checkHandle g lane e need =
    Machine.need (field e 19 43 == 0) .handleFault (Machine.need (field e 0 19 + need.wid ≤ (s.launchOf g).spad) .spadRange
      (Machine.need (field e 0 19 % need.wid == 0) .align (.ok (.spad (teamOf g) (field e 0 19))))) := by
  simp only [State.checkHandle, space]

theorem checkHandle_table (space : spaceOf e = 0) : s.checkHandle g lane e need =
    s.checkTable (s.launchOf g) e need := by
  simp only [State.checkHandle, space]

theorem checkTable_absent {l : Launch} (sound : (s.table (tidOf e)).poisonDesc = false)
    (absent : (s.table (tidOf e)).usable (tidOf e) = false) : s.checkTable l e need = .error .tableAbsent := by
  rw [State.checkTable, need_true (by rw [sound]; rfl), need_false (Bool.not_eq_true _ ▸ absent)]

theorem checkTable_no_right {l : Launch} {n : Nat} (sound : (s.table (tidOf e)).poisonDesc = false)
    (usable : (s.table (tidOf e)).usable (tidOf e) = true) (no : l.reads (tidOf e) = false) :
    s.checkTable l e ⟨n, true, false⟩ = .error .access := by
  rw [State.checkTable, need_true (by rw [sound]; rfl), need_true usable, need_false (by simp [no])]

end

/-- The checks of `gld` on a handle of the own scratchpad or of a table, in the order of R27. -/
theorem gld_stops {s : State} {d a : Reg} {wa sx : Bool} {m : MemExt} {e : W64}
    (accepts : s.Accepts ⟨[sg a wa], [dgs d m.wid.uniRegs], false⟩)
    (plain : m.ord = .relaxed ∨ s.inRegion s.curG = false)
    (eff : effective (s.cur.gval s.curS a.val) m.off = .ok e) :
    let i := Instr.gld d a wa sx m
    let wid := m.wid.bytes
    let tid := tidOf e
    (spaceOf e = 1 →
      (field e 19 43 ≠ 0 → Traps i s .handleFault 0) ∧
      (field e 19 43 = 0 → s.curLaunch.spad < field e 0 19 + wid → Traps i s .spadRange 0) ∧
      (field e 19 43 = 0 → field e 0 19 + wid ≤ s.curLaunch.spad → field e 0 19 % wid ≠ 0 →
        Traps i s .align 0)) ∧
    (spaceOf e = 0 → (s.table tid).poisonDesc = false →
      ((s.table tid).usable tid = false → Traps i s .tableAbsent 0) ∧
      ((s.table tid).usable tid = true → s.curLaunch.reads tid = false → Traps i s .access 0) ∧
      ((s.table tid).usable tid = true → s.curLaunch.reads tid = true →
        ((s.table tid).slots ≤ posOf e / (s.table tid).rowSize → Traps i s .handleFault 0) ∧
        (posOf e / (s.table tid).rowSize < (s.table tid).slots → posOf e % wid ≠ 0 →
          Traps i s .align 0))) := by
  have stops {c : Cause} (fails : s.checkHandle s.curG 0 e ⟨m.wid.bytes, true, false⟩ = .error c) :
      Traps (.gld d a wa sx m) s c 0 := gld_traps accepts plain (loadAcc_of_check eff fails)
  refine ⟨fun space => ⟨fun high => stops ?_, fun low beyond => stops ?_, fun low inside odd => stops ?_⟩,
    fun space sound => ⟨fun absent => stops ?_, fun usable no => stops ?_, fun usable reads =>
      ⟨fun beyond => stops ?_, fun inside odd => stops ?_⟩⟩⟩
  · rw [checkHandle_spad space, need_false (mt beq_iff_eq.1 high)]
  · rw [checkHandle_spad space, need_true (beq_iff_eq.2 low)]
    exact need_false (mt of_decide_eq_true (Nat.not_le.2 beyond)) _ _
  · rw [checkHandle_spad space, need_true (beq_iff_eq.2 low)]
    exact (need_true (decide_eq_true inside) _ _).trans (need_false (mt beq_iff_eq.1 odd) _ _)
  · rw [checkHandle_table space, checkTable_absent sound absent]
  · rw [checkHandle_table space]
    exact checkTable_no_right sound usable no
  · rw [checkHandle_table space]
    exact (checkTable_of_right sound usable (fun _ => reads) (absurd · Bool.false_ne_true)).trans
      (need_false (mt of_decide_eq_true (Nat.not_lt.2 beyond)) _ _)
  · rw [checkHandle_table space]
    exact ((checkTable_of_right sound usable (fun _ => reads) (absurd · Bool.false_ne_true)).trans
      (need_true (decide_eq_true inside) _ _)).trans (need_false (mt beq_iff_eq.1 odd) _ _)

/-! ### Consistent reads (R195) -/

theorem withField_field (x : W64) (n : Nat) : withField x 0 n (field x 0 n) = x := by
  apply BitVec.eq_of_toNat_eq
  have part := Nat.mod_le x.toNat (2 ^ n)
  simp only [withField, field, BitVec.toNat_ofNat, Nat.pow_zero, Nat.div_one, Nat.mul_one, Nat.mod_mod]
  rw [Nat.sub_add_cancel part, Nat.mod_eq_of_lt x.isLt]

/-- No offset leaves the handle as it is (R185). -/
theorem effective_zero {h e : W64} (eff : effective h 0 = .ok e) : h = e := by
  unfold effective at eff
  extract_lets lo x at eff
  have same : x.toNat = field h 0 lo := by simp [x]
  split at eff
  · exact absurd eff nofun
  · rw [← Except.ok.inj eff, same, withField_field]

section
variable {s : State}

theorem trdAcc_inTable {h : W64} {len l k : Nat} (at_ : s.InTable h 0 4 k true false)
    (inRow : posOfKey k % (s.table (tidOfKey k)).rowSize + len ≤ (s.table (tidOfKey k)).rowSize) :
    s.trdAcc len l h = .ok ⟨l, false, .tab k⟩ := by
  obtain ⟨⟨e, eff, space, rfl⟩, sound, usable, mayRead, -, inSlots, aligned⟩ := at_
  obtain rfl := effective_zero eff
  obtain ⟨tid, pos, key, -⟩ := tableHandle_key space
  rw [← tid] at sound usable mayRead inSlots inRow
  rw [← pos] at inSlots aligned inRow
  have passes : s.checkTable s.curLaunch h ⟨1, true, false⟩ = .ok (.tab h.toNat) := by
    rw [checkTable_of_right sound usable mayRead (absurd · Bool.false_ne_true), need_true (decide_eq_true inSlots),
      need_true (beq_iff_eq.2 (Nat.mod_one _)), key]
  rw [State.trdAcc, if_neg (not_not.2 space), passes]
  dsimp only
  rw [if_neg (Nat.not_lt.2 inRow), if_neg (not_not.2 aligned)]

variable {d a : Reg} {wa n acq : Bool} {len : Nat} (accepts : s.Accepts ⟨[svs a 2 wa], [dvs d (len / 4)], true⟩)
  (outside : s.inRegion s.curG = false)
include accepts outside

theorem trd_none (none : s.lanesOn n = 0) : exec (.trd d a wa n acq len) s =
    .next ((s.produceNone [(d.val, len / 4)]).next 8) := by
  have lanes : s.memLanes true n = [] := lanesOf_eq_nil.2 none
  refine congrArg s.finish (a₂ := .done _) ?_
  rw [State.gated_of_accepts accepts, State.relaxedOnly, outside_of_plain outside, ite_self, lanes]
  rfl

theorem trd_reads (ready : s.acquiring = false) (some : s.lanesOn n ≠ 0) {k : Nat → Nat}
    (at_ : ∀ l < 96, (s.lanesOn n).getLsbD l = true → s.InTable (s.cur.vpair a.val l) 0 4 (k l) true false ∧
      posOfKey (k l) % (s.table (tidOfKey (k l))).rowSize + len ≤ (s.table (tidOfKey (k l))).rowSize) :
    Gives (.trd d a wa n acq len) s fun t => Produced s t true (.trd d.val len)
      ((lanesOf (s.lanesOn n)).map fun l => ⟨l, .tab (k l), len, [], none⟩) [(d.val, len / 4)] acq 8 := by
  have checks : allLanesOk (fun l => s.trdAcc len l (s.cur.vpair a.val l)) (s.memLanes true n) =
      .ok ((lanesOf (s.lanesOn n)).map fun l => ⟨l, false, .tab (k l)⟩) := allLanesOk_map fun l hl => by
    obtain ⟨small, on⟩ := mem_lanesOf.1 hl
    exact trdAcc_inTable (at_ l small on).1 (at_ l small on).2
  have calm : s.regionWaits s.curG = false := by rw [State.regionWaits, outside, Bool.false_and]
  have produced := (awaits_produceAs (OnlyHints.refl s.takeId) s.nextId true (.trd d.val len)
    ((lanesOf (s.lanesOn n)).map fun l => ⟨l, .tab (k l), len, [], none⟩) [(d.val, len / 4)] acq).produced accepts.live 8
  refine ⟨_, ?_, produced⟩
  refine congrArg s.finish (a₂ := .done _) ?_
  rw [State.gated_of_accepts accepts, State.relaxedOnly, outside_of_plain outside, ite_self, checks, passing]
  dsimp only
  rw [if_neg (by simpa using mt lanesOf_eq_nil.1 some), ready, calm, if_neg (by decide), if_neg (by rw [outside]; decide),
    List.map_map]
  rfl

end

/-! ### The obligation -/

section
variable {s : State} {d a : Reg} {wa n sx : Bool} {m : MemExt}

theorem gld_own (accepts : s.Accepts ⟨[sg a wa], [dgs d m.wid.uniRegs], false⟩)
    (plain : m.ord = .relaxed ∨ s.inRegion s.curG = false) (ready : s.acquiring = false)
    (calm : s.regionWaits s.curG = false) {o : Nat} (own : s.OwnSpad (s.cur.gval s.curS a.val) m.off m.wid.bytes o)
    (clear : s.scored (teamOf s.curG) o (o + m.wid.bytes) false = false ∧
      ∀ i < m.wid.bytes, (o + i) / 32 ∉ s.curTeam.spadPoison) :
    Gives (.gld d a wa sx m) s fun t => Wrote s t 0 [] ((List.range m.wid.uniRegs).map fun j =>
      (d.val + j, uniValue m.wid sx (leNat (bytesAt s.curTeam.spad o m.wid.bytes)) j)) 8 0 := by
  obtain ⟨v, g, loads⟩ := load_own (lane := false) (nf := true) (d := d.val) (a := a.val) (sx := sx) accepts plain ready
    calm (List.cons_ne_nil _ _) (o := fun _ => o) fun l _ => ⟨own, clear⟩
  refine ⟨_, congrArg s.finish loads, filled_wrote_uni accepts.live (nodup_numbered _ _ _) ?_ 8⟩
  exact fillFrom_uni s.cur s.curS rfl (bytesAt_length _ _ _) v g d.val sx

theorem ld_own (accepts : s.Accepts ⟨[svs a 2 wa], [dvs d m.wid.laneRegs], true⟩)
    (plain : m.ord = .relaxed ∨ s.inRegion s.curG = false) (ready : s.acquiring = false)
    (calm : s.regionWaits s.curG = false) (some : s.lanesOn n ≠ 0) {o : Nat → Nat}
    (own : ∀ l < 96, (s.lanesOn n).getLsbD l = true → s.OwnSpad (s.cur.vpair a.val l) m.off m.wid.bytes (o l) ∧
      s.scored (teamOf s.curG) (o l) (o l + m.wid.bytes) false = false ∧
        ∀ i < m.wid.bytes, (o l + i) / 32 ∉ s.curTeam.spadPoison) :
    Gives (.ld d a wa n sx m) s fun t => Wrote s t (s.lanesOn n) ((List.range m.wid.laneRegs).map fun j =>
      (d.val + j, fun l => laneValue m.wid sx (leNat (bytesAt s.curTeam.spad (o l) m.wid.bytes)) j)) [] 8 0 := by
  obtain ⟨v, g, loads⟩ := load_own (lane := true) (nf := n) (d := d.val) (a := a.val) (sx := sx) accepts plain ready calm
    (mt lanesOf_eq_nil.1 some) (o := o) fun l hl => own l (mem_lanesOf.1 hl).1 (mem_lanesOf.1 hl).2
  refine ⟨_, congrArg s.finish loads, filled_wrote accepts.live (nodup_numbered _ _ _) ?_ 8⟩
  exact fillFrom_lanes s.cur s.curS some (fun _ _ => rfl) (fun _ _ => rfl) (fun _ _ => bytesAt_length _ _ _) v g d.val sx

end

/-- Settles O34: every lane's access passes its checks, and the word fills its registers from the own scratchpad or becomes a
producer. -/
theorem loadWords : Obligations.LoadWords := by
  unfold Obligations.LoadWords
  intro s d a wa n sx acq m len ready calm
  refine ⟨fun plain accepts => ⟨fun o own clear => gld_own accepts plain ready calm own clear, fun loc away outside => ?_,
    fun fails => gld_traps accepts plain (loadAcc_of_effective fails), fun e eff => gld_stops accepts plain eff⟩,
    fun plain accepts => ⟨fun none => ?_, fun some o own => ld_own accepts plain ready calm some own,
      fun some outside loc away => ?_⟩,
    fun outside accepts => ⟨fun none => ?_, fun some k at_ => trd_reads accepts outside ready some at_⟩⟩
  · obtain ⟨t, loads, produced⟩ := load_away (lane := false) (nf := true) (d := d.val) (a := a.val) (sx := sx) accepts plain
      ready calm (List.cons_ne_nil _ _) outside (loc := fun _ => loc)
      fun l hl => by rwa [List.mem_singleton.1 hl]
    refine ⟨t, congrArg s.finish loads, ?_⟩
    rwa [State.memLanes, if_neg Bool.false_ne_true, List.flatMap_singleton] at produced
  · refine ⟨_, congrArg s.finish (load_none (lane := true) accepts plain (lanesOf_eq_nil.2 none)), ?_⟩
    exact produceNone_next accepts.live _ _ _
  · obtain ⟨t, loads, produced⟩ := load_away (lane := true) (nf := n) (d := d.val) (a := a.val) (sx := sx) accepts plain
      ready calm (mt lanesOf_eq_nil.1 some) outside (loc := loc)
      fun l hl => away l (mem_lanesOf.1 hl).1 (mem_lanesOf.1 hl).2
    exact ⟨t, congrArg s.finish loads, produced⟩
  · exact ⟨_, trd_none accepts outside none, produceNone_next accepts.live _ _ _⟩

end Sys2Proof.Machine
end

section
/-! SUPPORT. The bytes that a word stores, one of each key, and the counted requests that carry them (R24, R144, R147,
R161, R190). -/

namespace Sys2Proof.Machine

/-! ### The bytes of an operand (R54) -/

theorem leBytes_getElem? {n i : Nat} (h : i < n) (x : Nat) : (leBytes n x)[i]? = some (BitVec.ofNat 8 (x / 256 ^ i)) := by
  induction n generalizing i x with
  | zero => exact absurd h (Nat.not_lt_zero i)
  | succ n ih =>
    cases i with
    | zero => rw [Nat.pow_zero, Nat.div_one, leBytes, List.getElem?_cons_zero]
    | succ i => rw [leBytes, List.getElem?_cons_succ, ih (Nat.lt_of_succ_lt_succ h), Nat.pow_succ', Nat.div_div_eq_div_mul]

/-- A byte of a value. -/
theorem leBytes_byte {n i w : Nat} (h : i < n) (x : BitVec w) :
    (leBytes n x.toNat)[i]? = some (x.extractLsb' (8 * i) 8) := by
  rw [leBytes_getElem? h, show (256 : Nat) = 2 ^ 8 from rfl, ← Nat.pow_mul]
  refine congrArg some (BitVec.eq_of_toNat_eq ?_)
  rw [BitVec.extractLsb'_toNat, Nat.shiftRight_eq_div_pow, BitVec.toNat_ofNat]

section
variable (g : Group) (b : Bool) (r l : Nat) {wid i : Nat} (h : i < wid)
include h

theorem laneBytes_getElem? :
    (g.laneBytes r l wid)[i]? = some ((g.vval (r + i / 4) l).extractLsb' (8 * (i % 4)) 8) := by
  have parted := getElem?_flatMap_range (f := fun j => wBytes (g.vval (r + j) l)) (fun _ => length_wBytes _)
    (n := (wid + 3) / 4) (i := i / 4) (j := i % 4) (by omega) (by omega)
  rw [Nat.div_add_mod] at parted
  rw [Group.laneBytes, List.getElem?_take_of_lt h, List.flatMap_map, parted, wBytes, leBytes_byte (by omega)]

theorem uniBytes_getElem? : (g.uniBytes b r wid)[i]? = some (byteOf (fun j => g.gval b (r + j)) i) := by
  have parted := getElem?_flatMap_range (f := fun j => dwBytes (g.gval b (r + j)))
    (fun _ => Sys2Proof.Laws.leBytes_length 8 _) (n := (wid + 7) / 8) (i := i / 8) (j := i % 8) (by omega) (by omega)
  rw [Nat.div_add_mod] at parted
  rw [Group.uniBytes, List.getElem?_take_of_lt h, List.flatMap_map, parted, dwBytes, leBytes_byte (by omega)]
  rfl

end

theorem bytesFrom_length (g : Group) (b lane : Bool) (r l wid : Nat) : (g.bytesFrom b lane r l wid).length = wid := by
  have words (n : Nat) (f : Nat → W32) : (((List.range n).map f).flatMap wBytes).length = 4 * n := by
    simp [List.length_flatMap, length_wBytes, Function.comp_def, Nat.mul_comm]
  rw [Group.bytesFrom]
  cases lane
  · rw [if_neg Bool.false_ne_true, Group.uniBytes, List.length_take, length_flatMap_dwBytes]
    simp only [List.length_map, List.length_range]
    omega
  · rw [if_pos rfl, Group.laneBytes, List.length_take, words]
    omega

/-- Bytes with the keys that they go to. -/
theorem zip_keys {loc : Loc} {bytes : List Byte} {n : Nat} (len : bytes.length = n) :
    (loc.keys bytes.length).zip bytes = (List.range n).map fun i => (loc.key i, bytes.getD i 0) := by
  subst len
  refine List.ext_getElem (by simp [Loc.keys]) fun i h h' => ?_
  simp only [Loc.keys, List.getElem_zip, List.getElem_map, List.getElem_range, Prod.mk.injEq, true_and]
  rw [List.getD_eq_getElem]

theorem Loc.key_inj {loc : Loc} {i j : Nat} (same : loc.key i = loc.key j) : i = j := by
  cases loc <;> simp only [Loc.key] at same <;> omega

/-! ### The last write of a key (R144) -/

section
variable {data : List (Nat × Byte)}

theorem mem_of_mem_lastWrites {p : Nat × Byte} (h : p ∈ lastWrites data) : p ∈ data := by
  obtain ⟨k, hk, rfl⟩ := List.mem_map.1 h
  obtain ⟨d, hd, rfl⟩ := List.mem_map.1 (mem_dedup_iff.1 hk)
  suffices chosen : ∀ (l : List (Nat × Byte)) (b : Byte), (d.1, l.foldl (fun b e => if e.1 = d.1 then e.2 else b) b) ∈ l ∨
      (l.foldl (fun b e => if e.1 = d.1 then e.2 else b) b = b ∧ ∀ e ∈ l, e.1 ≠ d.1) from
    (chosen data 0).resolve_right fun none => none.2 d hd rfl
  intro l
  induction l with
  | nil => exact fun b => .inr ⟨rfl, nofun⟩
  | cons e r ih =>
    intro b
    rw [List.foldl_cons]
    by_cases same : e.1 = d.1
    · rw [if_pos same]
      refine .inl ((ih e.2).elim (List.mem_cons_of_mem e) fun last => ?_)
      rw [last.1, ← same]
      exact List.mem_cons_self
    · rw [if_neg same]
      exact (ih b).imp (List.mem_cons_of_mem e) fun last => ⟨last.1, List.forall_mem_cons.2 ⟨same, last.2⟩⟩

theorem mem_lastWrites {before after : List (Nat × Byte)} {d : Nat × Byte} (last : ∀ e ∈ after, e.1 ≠ d.1) :
    d ∈ lastWrites (before ++ d :: after) := by
  refine List.mem_map.2 ⟨d.1, mem_dedup_iff.2 (by simp), Prod.ext rfl ?_⟩
  rw [List.foldl_append, List.foldl_cons, if_pos rfl]
  exact List.foldlRecOn after _ (motive := fun x => x = d.2) rfl fun x hx e he => (if_neg (last e he)).trans hx

theorem mem_lastWrites_inSector {before after : List (Nat × Byte)} {d : Nat × Byte} {sec : Nat}
    (here : sectorOf d.1 = sec) (last : ∀ e ∈ after, e.1 ≠ d.1) :
    d ∈ lastWrites (inSector sec (before ++ d :: after)) := by
  rw [inSector, List.filter_append, List.filter_cons_of_pos (p := fun e : Nat × Byte => sectorOf e.1 == sec) (beq_iff_eq.2 here)]
  exact mem_lastWrites fun e he => last e (List.mem_filter.1 he).1

end

/-- The byte writes of lanes, in lane order. -/
def laneWrites (ls : List Nat) (loc : Nat → Loc) (wid : Nat) (byte : Nat → Nat → Byte) : List (Nat × Byte) :=
  ls.flatMap fun l => (List.range wid).map fun i => ((loc l).key i, byte l i)

section
variable {ls : List Nat} {loc : Nat → Loc} {wid : Nat} {byte : Nat → Nat → Byte}

theorem mem_laneWrites {p : Nat × Byte} : p ∈ laneWrites ls loc wid byte ↔
    ∃ l ∈ ls, ∃ i < wid, p = ((loc l).key i, byte l i) := by
  simp [laneWrites, @eq_comm _ p]

/-- A lane's byte that no higher lane writes stands behind every other write of its key (R144). -/
theorem laneWrites_split (rising : ls.Pairwise (· < ·)) {l i : Nat} (hl : l ∈ ls) (hi : i < wid)
    (top : ∀ l' ∈ ls, l < l' → ∀ j < wid, (loc l').key j ≠ (loc l).key i) :
    ∃ before after, laneWrites ls loc wid byte = before ++ ((loc l).key i, byte l i) :: after ∧
      ∀ e ∈ after, e.1 ≠ (loc l).key i := by
  obtain ⟨low, high, rfl⟩ := List.append_of_mem hl
  obtain ⟨-, above, -⟩ := List.pairwise_append.1 rising
  rw [List.pairwise_cons] at above
  have lane : List.range wid = List.range i ++ i :: (List.range (wid - (i + 1))).map (i + 1 + ·) := by
    rw [show wid = i + 1 + (wid - (i + 1)) by omega, List.range_add, List.range_succ, List.append_assoc]
    simp
  refine ⟨laneWrites low loc wid byte ++ (List.range i).map fun j => ((loc l).key j, byte l j),
    ((List.range (wid - (i + 1))).map (i + 1 + ·)).map (fun j => ((loc l).key j, byte l j)) ++
      laneWrites high loc wid byte, ?_, fun e he same => ?_⟩
  · have split := congrArg (List.map fun j => ((loc l).key j, byte l j)) lane
    rw [List.map_append, List.map_cons] at split
    rw [laneWrites, List.flatMap_append, List.flatMap_cons, split]
    simp [laneWrites]
  · rcases List.mem_append.1 he with he | he
    · obtain ⟨j, hj, rfl⟩ := List.mem_map.1 he
      obtain ⟨x, -, rfl⟩ := List.mem_map.1 hj
      have := Loc.key_inj same
      omega
    · obtain ⟨l', hl', j, hj, rfl⟩ := mem_laneWrites.1 he
      exact top l' (by simp [hl']) (above.1 l' hl') j hj same

end

end Sys2Proof.Machine
end

section
/-! SUPPORT. Counted requests: what a word's requests add to the writes under way and what they leave alone (R147, R161). -/

namespace Sys2Proof.Machine

/-! ### A request that leaves its core -/

/-- A request of a state has left its core, or stays at it: its place and flow apart it is the same, and so are the other
requests, the homes, and all but the cluster copies of strong writes. -/
structure Left (s t : State) (w x : PWrite) : Prop where
  same : x.id = w.id ∧ x.gid = w.gid ∧ x.cluster = w.cluster ∧ x.kind = w.kind ∧ x.data = w.data ∧
    x.counted = w.counted ∧ x.clears = w.clears
  there : x ∈ t.writes
  others : ∀ y : PWrite, y.id ≠ w.id → (y ∈ t.writes ↔ y ∈ s.writes)
  home : t.mem.home = s.mem.home
  l1 : w.kind ≠ .home → t.mem.l1 = s.mem.l1
  nextId : s.nextId ≤ t.nextId
  rest : ∃ mem fresh flows nextId writes, t = { s with mem, fresh, flows, nextId, writes }

theorem mem_sentWrite {s : State} {x y : PWrite} (other : y.id ≠ x.id) :
    y ∈ (s.sentWrite x).writes ↔ y ∈ s.writes := by
  have apart : y ≠ x := fun same => other (congrArg PWrite.id same)
  simp [State.sentWrite, apart, other]

theorem mem_setWrite {s : State} {x y : PWrite} (other : y.id ≠ x.id) :
    y ∈ (s.setWrite x).writes ↔ y ∈ s.writes := by
  rw [State.setWrite, List.mem_map]
  constructor
  · rintro ⟨z, hz, changed⟩
    split at changed
    · exact absurd (congrArg PWrite.id changed.symm) other
    · exact changed ▸ hz
  · exact fun hy => ⟨y, hy, if_neg other⟩

theorem self_mem_setWrite {s : State} {x w : PWrite} (there : w ∈ s.writes) (same : x.id = w.id) :
    x ∈ (s.setWrite x).writes := List.mem_map.2 ⟨w, there, if_pos same.symm⟩

section
variable {s : State} {w : PWrite}

/-- A request with its place in a flow stands behind those sent before it. -/
theorem left_routed {u : State} {x : PWrite} (same : x.id = w.id ∧ x.gid = w.gid ∧ x.cluster = w.cluster ∧
      x.kind = w.kind ∧ x.data = w.data ∧ x.counted = w.counted ∧ x.clears = w.clears)
    (before : ∃ mem, u = { s with mem }) (home : u.mem.home = s.mem.home) (l1 : w.kind ≠ .home → u.mem.l1 = s.mem.l1)
    (r : PWrite) : Left s ((u.route r).1.sentWrite x) w x := by
  obtain ⟨mem, rfl⟩ := before
  have later := nextId_le_route { s with mem } r
  obtain ⟨fresh, flows, nextId, routed⟩ := rerouted_route { s with mem } r
  rw [routed] at later ⊢
  exact {
    same
    there := List.mem_append_right _ (List.mem_singleton.2 rfl)
    others := fun y other => mem_sentWrite (same.1 ▸ other)
    home
    l1
    nextId := later
    rest := ⟨_, _, _, _, _, rfl⟩ }

theorem left_sendWrite (there : w ∈ s.writes) (strong : w.kind = .home →
      (∀ d ∈ w.data, s.slotOfKey d.1 = none) ∧ ∀ d ∈ w.data, s.isKeyByte d.1 = false) :
    ∃ x, Left s (s.sendWrite w) w x := by
  cases kind : w.kind with
  | atom a =>
    have sent : s.sendWrite w = (s.route w).1.sentWrite (s.route w).2 := by simp only [State.sendWrite, kind]
    have routed : Left s ((s.route w).1.sentWrite (s.route w).2) w (s.route w).2 :=
      left_routed (s := s) (u := s) (w := w) (x := (s.route w).2) ⟨rfl, rfl, rfl, rfl, rfl, rfl, rfl⟩ ⟨_, rfl⟩ rfl (fun _ => rfl) w
    exact ⟨_, sent ▸ routed⟩
  | home =>
    obtain ⟨plain, free⟩ := strong kind
    let u := (s.putL1 w.cluster (w.id + 2) (w.data.filter fun d => !w.into.contains d.1)).passVisitor
      (dieOfCluster w.cluster) w.data
    let x : PWrite := { (u.route w).2 with data := w.data, ew := w.ew }
    have sent : s.sendWrite w = (u.route w).1.sentWrite x := by
      simp only [State.sendWrite, kind, keyFree_of_no_key free, State.sealL1, sealData_of_plain _ _ plain, if_true]
      rfl
    have routed : Left s ((u.route w).1.sentWrite x) w x :=
      left_routed (s := s) (u := u) (w := w) (x := x) ⟨rfl, rfl, rfl, rfl, rfl, rfl, rfl⟩ ⟨u.mem, rfl⟩ rfl (absurd kind) w
    exact ⟨_, sent ▸ routed⟩
  | l1 | spad t | spadAtom t a =>
    have sent : s.sendWrite w = s.setWrite { w with gone := true } := by simp only [State.sendWrite, kind]
    exact ⟨{ w with gone := true }, sent ▸ {
      same := ⟨rfl, rfl, rfl, rfl, rfl, rfl, rfl⟩
      there := self_mem_setWrite there rfl
      others := fun y other => mem_setWrite other
      home := rfl
      l1 := fun _ => rfl
      nextId := Nat.le_refl _
      rest := ⟨_, _, _, _, _, rfl⟩ }⟩

theorem left_refl (there : w ∈ s.writes) : Left s s w w where
  same := ⟨rfl, rfl, rfl, rfl, rfl, rfl, rfl⟩
  there
  others := fun _ _ => Iff.rfl
  home := rfl
  l1 := fun _ => rfl
  nextId := Nat.le_refl _
  rest := ⟨_, _, _, _, _, rfl⟩

end

/-! ### The requests of a word -/

/-- A word has made the counted requests `ws`. -/
structure Requests (s t : State) (ws : List PWrite) : Prop where
  home : t.mem.home = s.mem.home
  l1 : (∀ w ∈ ws, w.kind ≠ .home) → t.mem.l1 = s.mem.l1
  cur : t.cur = { s.cur with uwc := s.cur.uwc + ws.length }
  others : ∀ gid, gid ≠ s.curG → t.group gid = s.group gid
  nextId : s.nextId ≤ t.nextId
  old : ∀ x : PWrite, x.id < s.nextId → (x ∈ t.writes ↔ x ∈ s.writes)
  new : ∀ w ∈ ws, w ∈ t.writes ∧ s.nextId ≤ w.id ∧ w.id < t.nextId ∧ w.gid = s.curG ∧ w.cluster = s.curCluster ∧
    w.counted = true ∧ w.clears = false
  rest : ∃ mem fresh flows nextId writes groups, t = { s with mem, fresh, flows, nextId, writes, groups }

section
variable {s t u : State} {ws vs : List PWrite}

theorem Requests.teams (h : Requests s t ws) : t.teams = s.teams := by
  obtain ⟨_, _, _, _, _, _, rfl⟩ := h.rest
  rfl

theorem Requests.curG (h : Requests s t ws) : t.curG = s.curG := by
  obtain ⟨_, _, _, _, _, _, rfl⟩ := h.rest
  rfl

theorem Requests.curS (h : Requests s t ws) : t.curS = s.curS := by
  obtain ⟨_, _, _, _, _, _, rfl⟩ := h.rest
  rfl

theorem Requests.fills (h : Requests s t ws) : t.fills = s.fills := by
  obtain ⟨_, _, _, _, _, _, rfl⟩ := h.rest
  rfl

theorem Requests.curCluster (h : Requests s t ws) : t.curCluster = s.curCluster := by
  obtain ⟨_, _, _, _, _, _, rfl⟩ := h.rest
  rfl

theorem Requests.slotOfKey (h : Requests s t ws) (k : Nat) : t.slotOfKey k = s.slotOfKey k := by
  obtain ⟨_, _, _, _, _, _, rfl⟩ := h.rest
  rfl

theorem Requests.isKeyByte (h : Requests s t ws) (k : Nat) : t.isKeyByte k = s.isKeyByte k := by
  obtain ⟨_, _, _, _, _, _, rfl⟩ := h.rest
  rfl

theorem Requests.refl (s : State) : Requests s s [] where
  home := rfl
  l1 := fun _ => rfl
  cur := by rw [List.length_nil, Nat.add_zero]
  others := fun _ _ => rfl
  nextId := Nat.le_refl _
  old := fun _ _ => Iff.rfl
  new := fun _ hw => absurd hw List.not_mem_nil
  rest := ⟨_, _, _, _, _, _, rfl⟩

theorem Requests.trans (h : Requests s t ws) (h' : Requests t u vs) : Requests s u (ws ++ vs) where
  home := h'.home.trans h.home
  l1 := fun weak => (h'.l1 fun w hw => weak w (List.mem_append_right _ hw)).trans
    (h.l1 fun w hw => weak w (List.mem_append_left _ hw))
  cur := by rw [h'.cur, h.cur, List.length_append, Nat.add_assoc]
  others := fun gid other => (h'.others gid (h.curG ▸ other)).trans (h.others gid other)
  nextId := h.nextId.trans h'.nextId
  old := fun x before => (h'.old x (before.trans_le h.nextId)).trans (h.old x before)
  new := fun w hw => by
    rcases List.mem_append.1 hw with hw | hw
    · obtain ⟨there, after, before, gid, cluster, counted, clears⟩ := h.new w hw
      exact ⟨(h'.old w before).2 there, after, before.trans_le h'.nextId, gid, cluster, counted, clears⟩
    · obtain ⟨there, after, before, gid, cluster, counted, clears⟩ := h'.new w hw
      exact ⟨there, h.nextId.trans after, before, gid.trans h.curG, cluster.trans h.curCluster, counted, clears⟩
  rest := by
    obtain ⟨_, _, _, _, _, _, rfl⟩ := h.rest
    obtain ⟨_, _, _, _, _, _, rfl⟩ := h'.rest
    exact ⟨_, _, _, _, _, _, rfl⟩

/-- Hints and walks before a word's requests make no difference to them. -/
theorem OnlyHints.requests (h : OnlyHints s t) (h' : Requests t u ws) : Requests s u ws := by
  obtain ⟨_, _, rfl⟩ := h
  obtain ⟨mem, fresh, flows, nextId, writes, groups, same⟩ := h'.rest
  exact { h' with rest := ⟨mem, fresh, flows, nextId, writes, groups, same⟩ }

end

/-- One counted request of the issuing group (R147). -/
theorem requests_request (s : State) (kind : WKind) (data : List (Nat × Byte)) (ew : Nat) (page : Option (Nat × Nat))
    (rel : Bool) (strong : kind = .home →
      (∀ d ∈ data, s.slotOfKey d.1 = none) ∧ ∀ d ∈ data, s.isKeyByte d.1 = false) :
    ∃ w, Requests s (s.request s.curG s.curCluster kind data ew page rel true) [w] ∧ w.kind = kind ∧ w.data = data := by
  let w : PWrite := ⟨s.nextId, s.curG, s.curCluster, kind, data, ew, 1, false, page, none, rel, none, true, false, false, []⟩
  let e : State := { s with writes := s.writes ++ [w], nextId := s.nextId + 1 }
  have there : w ∈ e.writes := List.mem_append_right _ (List.mem_singleton.2 rfl)
  obtain ⟨x, left⟩ : ∃ x, Left e (if e.maySend w && !w.apart then e.sendWrite w else e) w x := by
    split
    · exact left_sendWrite there strong
    · exact ⟨w, left_refl there⟩
  have sent : s.request s.curG s.curCluster kind data ew page rel true =
    (if e.maySend w && !w.apart then e.sendWrite w else e).modGroup s.curG fun g => { g with uwc := g.uwc + 1 } := rfl
  rw [sent]
  generalize (if e.maySend w && !w.apart then e.sendWrite w else e) = t at left
  obtain ⟨⟨id, gid, cluster, kindEq, dataEq, counted, clears⟩, thereX, others, home, l1, nextId, rest⟩ := left
  obtain ⟨mem, fresh, flows, next, writes, rfl⟩ := rest
  refine ⟨x, ?_, kindEq, dataEq⟩
  exact {
    home
    l1 := fun weak => l1 (kindEq ▸ weak x (List.mem_singleton.2 rfl))
    cur := State.group_setGroup_self _ _ _
    others := fun gid other => State.group_setGroup_ne _ _ other
    nextId := (Nat.le_succ _).trans nextId
    old := fun y before => (others y (Nat.ne_of_lt before)).trans (by
      have apart : y ≠ w := fun same => Nat.lt_irrefl _ (same ▸ before)
      simp [e, apart])
    new := fun y hy => by
      obtain rfl := List.mem_singleton.1 hy
      exact ⟨thereX, id.ge, id.trans_lt nextId, gid, cluster, counted, clears⟩
    rest := ⟨_, _, _, _, _, _, rfl⟩ }

/-! ### One request for each sector (R147) -/

/-- Requests that carry the byte writes of some sectors, one for each. -/
structure PerSector (kind : WKind) (data : List (Nat × Byte)) (secs : List Nat) (ws : List PWrite) : Prop where
  kinds : ∀ w ∈ ws, w.kind = kind
  some : ∀ w ∈ ws, ∃ sec ∈ secs, w.data = lastWrites (inSector sec data)
  all : ∀ sec ∈ secs, ∃ w ∈ ws, w.data = lastWrites (inSector sec data)
  once : ∀ w ∈ ws, ∀ x ∈ ws, ∀ p ∈ w.data, ∀ q ∈ x.data, sectorOf p.1 = sectorOf q.1 → w.id = x.id
  length : ws.length = secs.length

theorem mem_inSector {sec : Nat} {data : List (Nat × Byte)} {d : Nat × Byte} :
    d ∈ inSector sec data ↔ d ∈ data ∧ sectorOf d.1 = sec := by rw [inSector, List.mem_filter, beq_iff_eq]

theorem PerSector.cons {kind : WKind} {data : List (Nat × Byte)} {x : Nat} {secs : List Nat} {ws : List PWrite} {w : PWrite}
    (rest : PerSector kind data secs ws) (new : x ∉ secs) (kindEq : w.kind = kind)
    (dataEq : w.data = lastWrites (inSector x data)) : PerSector kind data (x :: secs) (w :: ws) := by
  have sector {v : PWrite} {sec : Nat} (carries : v.data = lastWrites (inSector sec data)) {p : Nat × Byte}
      (hp : p ∈ v.data) : sectorOf p.1 = sec := (mem_inSector.1 (mem_of_mem_lastWrites (carries ▸ hp))).2
  have apart {v : PWrite} (hv : v ∈ ws) {p q : Nat × Byte} (hp : p ∈ w.data) (hq : q ∈ v.data) :
      sectorOf p.1 ≠ sectorOf q.1 := by
    obtain ⟨sec, hsec, carries⟩ := rest.some v hv
    rw [sector dataEq hp, sector carries hq]
    exact fun same => new (same ▸ hsec)
  refine ⟨List.forall_mem_cons.2 ⟨kindEq, rest.kinds⟩, List.forall_mem_cons.2 ⟨⟨x, List.mem_cons_self, dataEq⟩, fun v hv => ?_⟩,
    List.forall_mem_cons.2 ⟨⟨w, List.mem_cons_self, dataEq⟩, fun sec hsec => ?_⟩, fun v hv y hy p hp q hq same => ?_,
    congrArg (· + 1) rest.length⟩
  · obtain ⟨sec, hsec, carries⟩ := rest.some v hv
    exact ⟨sec, List.mem_cons_of_mem _ hsec, carries⟩
  · obtain ⟨v, hv, carries⟩ := rest.all sec hsec
    exact ⟨v, List.mem_cons_of_mem _ hv, carries⟩
  · rcases List.mem_cons.1 hv with rfl | hv <;> rcases List.mem_cons.1 hy with rfl | hy
    · rfl
    · exact absurd same (apart hy hp hq)
    · exact absurd same.symm (apart ‹_› hq hp)
    · exact rest.once v hv y hy p hp q hq same

/-- The body of `State.requests`: the request of one sector. -/
def State.requestSector (s : State) (kind : WKind) (data : List (Nat × Byte)) (ew : Nat) (rel : Bool) (x : Nat) : State :=
  let d := lastWrites (inSector x data)
  match kind with
  | .l1 | .home =>
    let a1 := s.touchPage (s.coreOf s.curG) (64 * x)
    a1.request a1.curG a1.curCluster kind d ew (a1.pageFor (64 * x)) rel true
  | _ => s.request s.curG s.curCluster kind d ew none rel true

theorem requests_eq (s : State) (kind : WKind) (data : List (Nat × Byte)) (ew : Nat) (rel : Bool) :
    s.requests kind data ew rel = (sectorsOf data).foldl (fun a x => a.requestSector kind data ew rel x) s := by
  cases kind <;> rfl

/-- Strong writes of these bytes enter the cluster copy as they are. -/
def State.Unsealed (s : State) (kind : WKind) (data : List (Nat × Byte)) : Prop :=
  kind = .home → (∀ d ∈ data, s.slotOfKey d.1 = none) ∧ ∀ d ∈ data, s.isKeyByte d.1 = false

section
variable {kind : WKind} {data : List (Nat × Byte)}

theorem State.Unsealed.sector {s : State} (open_ : s.Unsealed kind data) (x : Nat) :
    s.Unsealed kind (lastWrites (inSector x data)) := fun strong =>
  ⟨fun d hd => (open_ strong).1 d (mem_inSector.1 (mem_of_mem_lastWrites hd)).1,
    fun d hd => (open_ strong).2 d (mem_inSector.1 (mem_of_mem_lastWrites hd)).1⟩

theorem OnlyHints.unsealed {s t : State} (h : OnlyHints s t) (open_ : s.Unsealed kind data) : t.Unsealed kind data := by
  obtain ⟨_, _, rfl⟩ := h
  exact open_

theorem Requests.unsealed {s t : State} {ws : List PWrite} (h : Requests s t ws) (open_ : s.Unsealed kind data) :
    t.Unsealed kind data := fun strong =>
  ⟨fun d hd => (h.slotOfKey d.1).trans ((open_ strong).1 d hd), fun d hd => (h.isKeyByte d.1).trans ((open_ strong).2 d hd)⟩

theorem requests_requestSector {s : State} (open_ : s.Unsealed kind data) (ew : Nat) (rel : Bool) (x : Nat) :
    ∃ w, Requests s (s.requestSector kind data ew rel x) [w] ∧ w.kind = kind ∧ w.data = lastWrites (inSector x data) := by
  have touched : ∃ w, Requests s (let a1 := s.touchPage (s.coreOf s.curG) (64 * x)
      a1.request a1.curG a1.curCluster kind (lastWrites (inSector x data)) ew (a1.pageFor (64 * x)) rel true) [w] ∧
      w.kind = kind ∧ w.data = lastWrites (inSector x data) := by
    have asked := onlyHints_touchPage s (s.coreOf s.curG) (64 * x)
    obtain ⟨w, made, carries⟩ := requests_request (s.touchPage (s.coreOf s.curG) (64 * x)) kind
      (lastWrites (inSector x data)) ew ((s.touchPage (s.coreOf s.curG) (64 * x)).pageFor (64 * x)) rel
      (asked.unsealed (open_.sector x))
    exact ⟨w, asked.requests made, carries⟩
  have plain := requests_request s kind (lastWrites (inSector x data)) ew none rel (open_.sector x)
  cases kind with
  | l1 => exact touched
  | home => exact touched
  | spad t => exact plain
  | atom a => exact plain
  | spadAtom t a => exact plain

theorem requests_sectors {secs : List Nat} (distinct : secs.Nodup) {s : State} (open_ : s.Unsealed kind data) (ew : Nat)
    (rel : Bool) : ∃ ws, Requests s (secs.foldl (fun a x => a.requestSector kind data ew rel x) s) ws ∧
      PerSector kind data secs ws := by
  induction secs generalizing s with
  | nil => exact ⟨[], .refl s, fun _ h => absurd h List.not_mem_nil, fun _ h => absurd h List.not_mem_nil,
      fun _ h => absurd h List.not_mem_nil, fun _ h => absurd h List.not_mem_nil, rfl⟩
  | cons x secs ih =>
    obtain ⟨new, rest⟩ := List.nodup_cons.1 distinct
    obtain ⟨w, made, kindEq, dataEq⟩ := requests_requestSector open_ ew rel x
    obtain ⟨ws, more, each⟩ := ih rest (made.unsealed open_)
    rw [List.foldl_cons]
    exact ⟨[w] ++ ws, made.trans more, each.cons new kindEq dataEq⟩

/-- The counted requests of some byte writes. -/
theorem requests_requests {s : State} (open_ : s.Unsealed kind data) (ew : Nat) (rel : Bool) :
    ∃ ws, Requests s (s.requests kind data ew rel) ws ∧ PerSector kind data (sectorsOf data) ws := by
  rw [requests_eq]
  exact requests_sectors (nodup_dedup _) open_ ew rel

end

end Sys2Proof.Machine
end

section
/-! Stores (O35; R24, R29, R144, R147, R161, R190). -/

namespace Sys2Proof.Machine

/-! ### A store whose lanes have been checked -/

/-- The access of a lane of a store that is no release. -/
def State.storeAcc (s : State) (lane : Bool) (a : Nat) (m : MemExt) (l : Nat) : Except Fail Acc :=
  s.accOf s.curG l (s.cur.handleOf s.curS lane a l) m.off ⟨m.wid.bytes, false, true⟩ (s.storeCheck m.wid.bytes false)

/-- The stores of lanes whose accesses are checked. -/
def State.puts (s : State) (lane : Bool) (b wid : Nat) (accs : List Acc) : List Put :=
  accs.map fun x => (x, s.cur.bytesFrom s.curS lane b x.lane wid)

theorem not_publication (s : State) (x : Acc) (wid : Nat) : s.isPublication x wid false = false := by
  rw [State.isPublication, Bool.and_false, Bool.false_and, Bool.false_and]

theorem storeCheck_free {s : State} {x : Acc} {wid : Nat} (key : s.hitsKey x.loc wid = false)
    (notify : s.hitsNotify x.loc wid = false) : s.storeCheck wid false x = none := by
  rw [State.storeCheck, key, notify, Bool.false_and, if_neg Bool.false_ne_true, if_neg Bool.false_ne_true, ite_self]

theorem storeCheck_key {s : State} {x : Acc} {wid : Nat} (key : s.hitsKey x.loc wid = true) :
    s.storeCheck wid false x = some (.access, 0) := by rw [State.storeCheck, if_pos key]

/-- Every store that is not a publication is performed at its word. -/
theorem storeNow_stores (s : State) (ps : List Put) (wid : Nat) (strong : Bool) :
    s.storeNow ps wid strong false false [] = .done ((s.storeAll ps wid strong false).next 8) := by
  have all : (ps.filter fun p => !s.isPublication p.1 wid false) = ps :=
    List.filter_eq_self.2 fun p _ => by rw [not_publication]; rfl
  rw [State.storeNow, all]
  rfl

section
variable {s : State} {lane nf : Bool} {a b : Nat} {m : MemExt} {u : Uses} (accepts : s.Accepts u)
  (relaxed : m.ord = .relaxed) (quiet : (s.cur.slot s.curS).pend = [])
include accepts relaxed quiet

theorem store_refused {c : Cause} {e : W32} (fails : allLanesOk (s.storeAcc lane a m) (s.memLanes lane nf) = .error (c, e)) :
    s.store lane nf a b m u = .trap c e := by
  have rel : (m.ord == .release) = false := by rw [relaxed]; rfl
  rw [State.store, quiet, if_neg (by decide), State.gated_of_accepts accepts, relaxedOnly_of_plain (.inl relaxed), rel]
  exact congrArg (passing · _) fails

theorem store_stores {accs : List Acc} (checks : allLanesOk (s.storeAcc lane a m) (s.memLanes lane nf) = .ok accs)
    (ready : s.acquiring = false) (calm : s.regionWaits s.curG = false)
    (unwatched : ∀ x ∈ accs, s.hitsNotify x.loc m.wid.bytes = false)
    (outside : ∀ x ∈ accs, s.isRegional x.loc = false)
    (pages : s.storePages (s.puts lane b m.wid.bytes accs) = (s, true))
    (free : ∀ x ∈ accs, s.accScored x m.wid.bytes true = false)
    (count : s.countOk ((s.puts lane b m.wid.bytes accs).foldl (fun n p => n + p.1.counts m.wid.bytes) 0) = true)
    (turn : isStrong m = true → s.strongBehind s.curG
      ((dataOf Loc.isTab (s.puts lane b m.wid.bytes accs)).map (·.1)) = false) :
    s.store lane nf a b m u = .done (((s.hintLines m.hint.code accs).storeAll (s.puts lane b m.wid.bytes accs)
      m.wid.bytes (isStrong m) false).next 8) := by
  have rel : (m.ord == .release) = false := by rw [relaxed]; rfl
  have silent : s.regionNotify m.wid.bytes accs = false := by
    rw [State.regionNotify, List.any_eq_false.2 fun x hx => Bool.not_eq_true _ ▸ unwatched x hx, Bool.and_false]
  have scored : accs.any (fun x => s.accScored x m.wid.bytes true) = false :=
    List.any_eq_false.2 fun x hx => Bool.not_eq_true _ ▸ free x hx
  have busy : s.regionBusy accs = false := by rw [State.regionBusy, calm, Bool.false_and]
  have behind : (isStrong m && s.strongBehind s.curG
      ((dataOf Loc.isTab (s.puts lane b m.wid.bytes accs)).map (·.1))) = false :=
    Bool.eq_false_iff.2 fun both => by
      obtain ⟨strong, waits⟩ := Bool.and_eq_true_iff.1 both
      rw [turn strong] at waits
      cases waits
  have regional {p : Put} (hp : p ∈ s.puts lane b m.wid.bytes accs) : s.isRegional p.1.loc = false := by
    obtain ⟨x, hx, rfl⟩ := List.mem_map.1 hp
    exact outside x hx
  have out : ((s.puts lane b m.wid.bytes accs).filter fun p => !s.isRegional p.1.loc) = s.puts lane b m.wid.bytes accs :=
    List.filter_eq_self.2 fun p hp => by rw [regional hp]; rfl
  have mine : ((s.puts lane b m.wid.bytes accs).filter fun p => s.isRegional p.1.loc) = [] :=
    List.filter_eq_nil_iff.2 fun p hp => by rw [regional hp]; decide
  have vals : s.published m.wid.bytes false (s.puts lane b m.wid.bytes accs) = [] := by
    rw [State.published, List.filter_eq_nil_iff.2 fun p _ => by rw [not_publication]; decide]
    rfl
  rw [State.store, quiet, if_neg (by decide), State.gated_of_accepts accepts, relaxedOnly_of_plain (.inl relaxed), rel]
  refine (congrArg (passing · _) checks).trans ?_
  rw [passing]
  dsimp only
  have named : (accs.map fun x => ((x, s.cur.bytesFrom s.curS lane b x.lane m.wid.bytes) : Put)) =
    s.puts lane b m.wid.bytes accs := rfl
  rw [silent, if_neg Bool.false_ne_true, named, pages, out, mine, vals, ready, busy, scored, count, behind]
  dsimp only
  rw [if_neg (by decide), if_neg Bool.false_ne_true, storeNow_stores]
  refine (if_neg Bool.false_ne_true).trans ?_
  split
  · rfl
  · rfl

end

/-! ### Stores to the own scratchpad (R144) -/

theorem byteAt_setBytes_last (m : List Host.Cell) {before after : List (Nat × Byte)} {d : Nat × Byte}
    (last : ∀ e ∈ after, e.1 ≠ d.1) : byteAt (setBytes m (before ++ d :: after)) d.1 = d.2 := by
  induction before generalizing m with
  | nil => exact (byteAt_setBytes_of_not_mem _ after last).trans (byteAt_setByte_self m d.1 d.2)
  | cons e r ih => exact ih _

theorem width_pos (w : Width) : 0 < w.bytes := by cases w <;> decide

theorem requests_nil (s : State) (kind : WKind) (ew : Nat) (rel : Bool) : s.requests kind [] ew rel = s := rfl

/-- The stores of lanes to the own scratchpad are one change of it. -/
theorem storeAll_own (s : State) {ps : List Put} (own : ∀ p ∈ ps, p.1.own = true) (wid : Nat) (strong rel : Bool) :
    s.storeAll ps wid strong rel = if (ps.flatMap putData).isEmpty then s
      else s.modTeam (teamOf s.curG) fun t => t.storeSpad (ps.flatMap putData) := by
  have none (f : Loc → Bool) : dataOf f ps = [] := by
    rw [dataOf, List.filter_eq_nil_iff.2 fun p hp => by rw [own p hp]; exact Bool.false_ne_true]
    rfl
  have teams : spadTeams ps = [] := dedup_eq_nil.2 (List.filterMap_eq_nil_iff.2 fun p hp => by rw [own p hp])
  rw [State.storeAll, List.filter_eq_self.2 own, none, none, teams]
  rfl

/-- The stored bytes of lanes in the own scratchpad. -/
theorem puts_own (s : State) (lane : Bool) (b wid : Nat) (ls : List Nat) (o : Nat → Nat) :
    (s.puts lane b wid (ls.map fun l => ⟨l, true, .spad (teamOf s.curG) (o l)⟩)).flatMap putData =
      laneWrites ls (fun l => .spad (teamOf s.curG) (o l)) wid
        fun l i => (s.cur.bytesFrom s.curS lane b l wid).getD i 0 := by
  rw [State.puts, List.map_map, List.flatMap_map, laneWrites]
  exact List.flatMap_congr fun l _ => zip_keys (loc := .spad (teamOf s.curG) (o l)) (bytesFrom_length _ _ _ _ _ _)

/-- What a change of bytes of the own scratchpad by a word leaves alone. -/
theorem storeSpad_next {s : State} (live : s.Live) (data : List (Nat × Byte)) :
    let t := (s.modTeam (teamOf s.curG) fun x => x.storeSpad data).next 8
    OnlyOwn s t ∧ MovesOn s t 8 s.cur ∧ t.curTeam = s.curTeam.storeSpad data :=
  ⟨⟨s.cur.next s.curS 8, s.curTeam.storeSpad data, rfl⟩, movesOn_of_slots live rfl (fun _ => rfl) rfl 8,
    State.team_modTeam_self s (teamOf s.curG) fun x => x.storeSpad data⟩

section
variable {s : State} {lane nf : Bool} {a b : Nat} {m : MemExt} {u : Uses} (accepts : s.Accepts u)
  (relaxed : m.ord = .relaxed) (quiet : (s.cur.slot s.curS).pend = [])
  (ready : s.acquiring = false) (calm : s.regionWaits s.curG = false)
include accepts relaxed quiet ready calm

theorem store_none (none : s.memLanes lane nf = []) : s.store lane nf a b m u = .done (s.next 8) := by
  have checks : allLanesOk (s.storeAcc lane a m) (s.memLanes lane nf) = .ok [] := by rw [none]; rfl
  have turn : s.strongBehind s.curG [] = false := by
    simp [State.strongBehind, PWrite.hits]
  exact store_stores accepts relaxed quiet checks ready calm nofun nofun rfl nofun rfl fun _ => turn

theorem store_own (some : s.memLanes lane nf ≠ []) {o : Nat → Nat} (own : ∀ l ∈ s.memLanes lane nf,
      s.OwnSpad (s.cur.handleOf s.curS lane a l) m.off m.wid.bytes (o l) ∧
      s.scored (teamOf s.curG) (o l) (o l + m.wid.bytes) true = false ∧
      s.hitsNotify (.spad (teamOf s.curG) (o l)) m.wid.bytes = false) :
    s.store lane nf a b m u = .done ((s.modTeam (teamOf s.curG) fun x => x.storeSpad
      (laneWrites (s.memLanes lane nf) (fun l => .spad (teamOf s.curG) (o l)) m.wid.bytes
        fun l i => (s.cur.bytesFrom s.curS lane b l m.wid.bytes).getD i 0)).next 8) := by
  let accs : List Acc := (s.memLanes lane nf).map fun l => ⟨l, true, .spad (teamOf s.curG) (o l)⟩
  have checks : allLanesOk (s.storeAcc lane a m) (s.memLanes lane nf) = .ok accs :=
    allLanesOk_map fun l hl => accOf_ownSpad (own l hl).1 (storeCheck_free rfl (own l hl).2.2)
  have each {p : Acc → Prop} (holds : ∀ l ∈ s.memLanes lane nf, p ⟨l, true, .spad (teamOf s.curG) (o l)⟩) :
      ∀ x ∈ accs, p x := fun x hx => by
    obtain ⟨l, hl, rfl⟩ := List.mem_map.1 hx
    exact holds l hl
  have eachPut {p : Put → Prop} (holds : ∀ l ∈ s.memLanes lane nf, ∀ bytes,
      p (⟨l, true, .spad (teamOf s.curG) (o l)⟩, bytes)) : ∀ x ∈ s.puts lane b m.wid.bytes accs, p x := fun x hx => by
    obtain ⟨y, hy, rfl⟩ := List.mem_map.1 hx
    obtain ⟨l, hl, rfl⟩ := List.mem_map.1 hy
    exact holds l hl _
  have pages : s.storePages (s.puts lane b m.wid.bytes accs) = (s, true) := by
    rw [State.storePages, List.filter_eq_nil_iff.2 (eachPut fun l _ _ => Bool.false_ne_true)]
    rfl
  have counts : (s.puts lane b m.wid.bytes accs).foldl (fun n p => n + p.1.counts m.wid.bytes) 0 = 0 :=
    List.foldlRecOn _ _ (motive := fun n => n = 0) rfl fun n hn p hp => by
      rw [hn]
      exact eachPut (p := fun p => 0 + p.1.counts m.wid.bytes = 0) (fun _ _ _ => rfl) p hp
  have data : dataOf Loc.isTab (s.puts lane b m.wid.bytes accs) = [] := by
    rw [dataOf, List.filter_eq_nil_iff.2 (eachPut fun l _ _ => Bool.false_ne_true)]
    rfl
  have turn : s.strongBehind s.curG [] = false := by simp [State.strongBehind, PWrite.hits]
  have written : ¬((laneWrites (s.memLanes lane nf) (fun l => .spad (teamOf s.curG) (o l)) m.wid.bytes
      fun l i => (s.cur.bytesFrom s.curS lane b l m.wid.bytes).getD i 0).isEmpty) = true := by
    obtain ⟨l, hl⟩ := List.exists_mem_of_ne_nil _ some
    rw [List.isEmpty_iff]
    exact List.ne_nil_of_mem (mem_laneWrites.2 ⟨l, hl, 0, width_pos m.wid, rfl⟩)
  rw [store_stores accepts relaxed quiet checks ready calm (each fun l hl => (own l hl).2.2)
    (each fun l _ => Bool.and_false _) pages (each fun l hl => (Bool.true_and _).trans (own l hl).2.1) (by rw [counts]; rfl)
    (fun _ => by rw [data]; exact turn), hintLines_of_spads s _ (each fun _ _ => rfl),
    storeAll_own s (eachPut fun _ _ _ => rfl), puts_own, if_neg written]

end

/-- A team after writes of lanes to its scratchpad (R144, R190). -/
theorem storeSpad_lanes {s t : State} {ls : List Nat} {o : Nat → Nat} {wid : Nat} {byte : Nat → Nat → Byte}
    (team : t.curTeam = s.curTeam.storeSpad (laneWrites ls (fun l => .spad (teamOf s.curG) (o l)) wid byte))
    (rising : ls.Pairwise (· < ·)) :
    SpadOutside s t (fun k => ∃ l ∈ ls, o l ≤ k ∧ k < o l + wid) ∧
    ∀ l ∈ ls, ∀ i < wid, (∀ l' ∈ ls, l < l' → ¬(o l' ≤ o l + i ∧ o l + i < o l' + wid)) →
      byteAt t.curTeam.spad (o l + i) = byte l i := by
  rw [SpadOutside, team]
  refine ⟨⟨rfl, fun k out => byteAt_setBytes_of_not_mem _ _ fun e he same => ?_⟩, fun l hl i hi top => ?_⟩
  · obtain ⟨l, hl, i, hi, rfl⟩ := mem_laneWrites.1 he
    exact out ⟨l, hl, same ▸ Nat.le_add_right _ _, same ▸ Nat.add_lt_add_left hi _⟩
  · obtain ⟨before, after, split, last⟩ := laneWrites_split (loc := fun l => .spad (teamOf s.curG) (o l)) (byte := byte)
      rising hl hi fun l' hl' above j hj same => top l' hl' above (by
        have meet : o l' + j = o l + i := same
        omega)
    rw [split]
    exact byteAt_setBytes_last (d := ((Loc.spad (teamOf s.curG) (o l)).key i, byte l i)) _ last

/-! ### Elements of a table (R26, R142, R186) -/

theorem width_dvd (w : Width) : w.bytes ∣ 16 := by cases w <;> decide

/-- The bytes of an aligned element of a table lie in one row and in one sector. -/
theorem elementByte {k wid i : Nat} (small : k < 2 ^ 62) (aligned : posOfKey k % wid = 0) (width : wid ∣ 16) (hi : i < wid) :
    sectorOf (k + i) = k / 64 ∧ lineOf (k + i) = k / 256 ∧ tidOfKey (k + i) = tidOfKey k ∧
      posOfKey (k + i) = posOfKey k + i ∧ isPriv (k + i) = false ∧ posOfKey k % 16 + i < 16 := by
  have flat : flatKey k = k := Nat.mod_eq_of_lt (by rw [sideBase]; omega)
  rw [posOfKey, flat] at aligned
  have divides : wid ∣ k := by
    rw [← Nat.div_add_mod k (2 ^ 42)]
    exact Nat.dvd_add (Dvd.dvd.mul_right (width.trans (by decide)) _) (Nat.dvd_of_mod_eq_zero aligned)
  have inUnit : k % 16 + i < 16 := by
    obtain ⟨c, hc⟩ := width
    have rest : wid ∣ k % 16 := (Nat.dvd_mod_iff ⟨c, hc⟩).2 divides
    obtain ⟨d, hd⟩ := rest
    have below : wid * d < wid * c := by rw [← hd, ← hc]; exact Nat.mod_lt _ (by decide)
    have := Nat.mul_le_mul_left wid (Nat.succ_le_of_lt (Nat.lt_of_mul_lt_mul_left below))
    rw [Nat.mul_succ] at this
    omega
  have flat' : flatKey (k + i) = k + i := Nat.mod_eq_of_lt (by rw [sideBase]; omega)
  rw [sectorOf, lineOf, tidOfKey, tidOfKey, posOfKey, posOfKey, isPriv, flat, flat', privBase, decide_eq_false_iff_not]
  omega

section
variable {s : State} {k wid i : Nat} (small : k < 2 ^ 62) (aligned : posOfKey k % wid = 0) (width : wid ∣ 16) (hi : i < wid)
include small aligned width hi

theorem element_unsealed (plain : (s.table (tidOfKey k)).ownw = false) : s.slotOfKey (k + i) = none := by
  obtain ⟨-, -, table, -, space, -⟩ := elementByte small aligned width hi
  rw [State.slotOfKey, space, if_neg Bool.false_ne_true, table]
  dsimp only
  rw [plain, if_neg Bool.false_ne_true]

/-- An element that does not start in a live row's key has no byte of it (R24). -/
theorem element_free (free : s.hitsKey (.tab k) wid = false) : s.isKeyByte (k + i) = false := by
  obtain ⟨-, -, table, pos, space, inUnit⟩ := elementByte small aligned width hi
  obtain ⟨e, he⟩ : ∃ e, (s.table (tidOfKey k)).rowSize = 16 * e :=
    ⟨2 ^ field ((s.table (tidOfKey k)).d 0) 52 4, by rw [Table.rowSize, Table.k, Nat.pow_add, Nat.mul_comm]⟩
  have rows : (posOfKey k + i) / (s.table (tidOfKey k)).rowSize = posOfKey k / (s.table (tidOfKey k)).rowSize ∧
      (posOfKey k + i) % (s.table (tidOfKey k)).rowSize = posOfKey k % (s.table (tidOfKey k)).rowSize + i := by
    have parts := Nat.div_add_mod (posOfKey k) 16
    rw [he, ← Nat.div_div_eq_div_mul, ← Nat.div_div_eq_div_mul, show (posOfKey k + i) / 16 = posOfKey k / 16 by omega,
      Nat.mod_mul, Nat.mod_mul, show (posOfKey k + i) / 16 = posOfKey k / 16 by omega]
    omega
  rw [← Bool.not_eq_true] at free ⊢
  rw [State.isKeyByte, table, pos, rows.1, rows.2, space]
  simp only [State.hitsKey, Bool.and_eq_true, decide_eq_true_eq] at free ⊢
  rintro ⟨⟨⟨-, keyed⟩, live⟩, within⟩
  exact free ⟨⟨⟨keyed, live⟩, by omega⟩, by omega⟩

end

theorem inTable_small {s : State} {h : W64} {off : BitVec 16} {n k : Nat} {rd wr : Bool} (at_ : s.InTable h off n k rd wr) :
    k < 2 ^ 62 := by
  obtain ⟨e, -, space, rfl⟩ := at_.named
  exact (tableHandle_key space).2.2.2

/-! ### Stores outside the own scratchpad (R147) -/

/-- The kind of the requests of a store to a location: strong ones to tables go to the home (R161). -/
inductive SentAs (strong : Bool) (kind : WKind) : Bool → Loc → Prop
  | tab (k : Nat) (h : kind = if strong then .home else .l1) : SentAs strong kind false (.tab k)
  | priv (base lane off : Nat) (h : kind = .l1) : SentAs strong kind true (.priv base lane off)
  | spad (t off : Nat) (h : kind = .spad t) : SentAs strong kind false (.spad t off)

section
variable {strong : Bool} {kind : WKind} {loc : Loc}

theorem SentAs.private_ (h : SentAs strong kind true loc) : kind = .l1 ∧ loc.isPrivate = true ∧ loc.isTab = false ∧
    loc.isSpad = false := by
  cases h with
  | priv _ _ _ kindEq => exact ⟨kindEq, rfl, rfl, rfl⟩

theorem SentAs.table (h : SentAs strong (if strong then .home else .l1) false loc) :
    loc.isTab = true ∧ loc.isPrivate = false ∧ loc.isSpad = false := by
  cases h with
  | tab k _ => exact ⟨rfl, rfl, rfl⟩
  | spad t o kindEq => cases strong <;> cases kindEq

theorem SentAs.scratchpad {t : Nat} (h : SentAs strong (.spad t) false loc) :
    loc.spadOf = some t ∧ loc.isTab = false ∧ loc.isPrivate = false := by
  cases h with
  | tab k kindEq => cases strong <;> cases kindEq
  | spad t o kindEq =>
    cases kindEq
    exact ⟨rfl, rfl, rfl⟩

end

section
variable {ps : List Put} (away : ∀ p ∈ ps, p.1.own = false) {f : Loc → Bool}

theorem dataOf_none (out : ∀ p ∈ ps, f p.1.loc = false) : dataOf f ps = [] := by
  rw [dataOf, List.filter_eq_nil_iff.2 fun p hp => by rw [out p hp, Bool.and_false]; exact Bool.false_ne_true]
  rfl

include away

theorem dataOf_all (chosen : ∀ p ∈ ps, f p.1.loc = true) : dataOf f ps = ps.flatMap putData := by
  rw [dataOf, List.filter_eq_self.2 fun p hp => by rw [away p hp, chosen p hp]; rfl]

theorem spadTeams_none (out : ∀ p ∈ ps, p.1.loc.isSpad = false) : spadTeams ps = [] :=
  dedup_eq_nil.2 (List.filterMap_eq_nil_iff.2 fun p hp => by
    have := out p hp
    rw [away p hp]
    cases at_ : p.1.loc with
    | spad t o => rw [at_] at this; cases this
    | tab k => rfl
    | priv b l o => rfl)

theorem spadTeams_one {t : Nat} (some : ps ≠ []) (all : ∀ p ∈ ps, p.1.loc.spadOf = Option.some t) : spadTeams ps = [t] := by
  refine List.perm_singleton.1 ((List.perm_ext_iff_of_nodup (nodup_dedup _) (List.nodup_singleton t)).2 fun x => ?_)
  rw [mem_dedup_iff, List.mem_filterMap, List.mem_singleton]
  constructor
  · rintro ⟨p, hp, found⟩
    have := all p hp
    rw [away p hp] at found
    cases at_ : p.1.loc with
    | spad t' o =>
      rw [at_] at this found
      exact Option.some.inj (found.symm.trans this)
    | tab k => rw [at_] at this; cases this
    | priv b l o => rw [at_] at this; cases this
  · rintro rfl
    obtain ⟨p, hp⟩ := List.exists_mem_of_ne_nil _ some
    refine ⟨p, hp, ?_⟩
    have := all p hp
    rw [away p hp]
    cases at_ : p.1.loc with
    | spad t' o => rw [at_] at this; exact this
    | tab k => rw [at_] at this; cases this
    | priv b l o => rw [at_] at this; cases this

/-- Where all lanes go to one space, one kind of requests is made. -/
theorem storeAll_away {strong : Bool} {kind : WKind} {priv : Bool} (some : ps ≠ [])
    (goes : ∀ p ∈ ps, SentAs strong kind priv p.1.loc) (wid : Nat) :
    ∃ ew, (kind = .home → ew = min wid 8) ∧
      ∀ s : State, s.storeAll ps wid strong false = s.requests kind (ps.flatMap putData) ew false := by
  have own : (ps.filter fun p => p.1.own) = [] :=
    List.filter_eq_nil_iff.2 fun p hp => by rw [away p hp]; exact Bool.false_ne_true
  obtain ⟨p, hp⟩ := List.exists_mem_of_ne_nil _ some
  have first := goes p hp
  cases priv with
  | true =>
    obtain rfl := first.private_.1
    refine ⟨min wid 4, nofun, fun s => ?_⟩
    rw [State.storeAll, own, dataOf_all away fun q hq => (goes q hq).private_.2.1,
      dataOf_none fun q hq => (goes q hq).private_.2.2.1, spadTeams_none away fun q hq => (goes q hq).private_.2.2.2]
    rfl
  | false =>
    cases at_ : p.1.loc with
    | priv b l o => rw [at_] at first; cases first
    | tab k =>
      obtain rfl : kind = if strong then .home else .l1 := by
        rw [at_] at first
        cases first with
        | tab _ kindEq => exact kindEq
      refine ⟨min wid 8, fun _ => rfl, fun s => ?_⟩
      rw [State.storeAll, own, dataOf_all (f := Loc.isTab) away fun q hq => (goes q hq).table.1,
        dataOf_none (f := Loc.isPrivate) fun q hq => (goes q hq).table.2.1,
        spadTeams_none away fun q hq => (goes q hq).table.2.2]
      rfl
    | spad t o =>
      obtain rfl : kind = .spad t := by
        rw [at_] at first
        cases first with
        | spad _ _ kindEq => exact kindEq
      refine ⟨min wid 8, nofun, fun s => ?_⟩
      rw [State.storeAll, own, dataOf_none (f := Loc.isTab) fun q hq => (goes q hq).scratchpad.2.1,
        dataOf_none (f := Loc.isPrivate) fun q hq => (goes q hq).scratchpad.2.2,
        spadTeams_one away some fun q hq => (goes q hq).scratchpad.1]
      rw [List.foldl_cons, List.foldl_nil,
        dataOf_all away fun q hq => by rw [(goes q hq).scratchpad.1]; exact beq_self_eq_true _]
      rfl

end

/-- Bytes whose pages all exist ask for no new page (R29). -/
theorem allocPages_held {s : State} {ten : Nat} {keys : List Nat}
    (held : ∀ k ∈ keys, s.mem.privPages.contains (ten, pageOf k) = true) : s.allocPages ten keys = (s, true) := by
  rw [State.allocPages]
  refine List.foldlRecOn _ _ (motive := fun a => a = (s, true)) rfl fun a ha p hp => ?_
  obtain ⟨k, hk, rfl⟩ := List.mem_map.1 (mem_dedup_iff.1 hp)
  have page : pageOf (pageOf k * 2 ^ 21) = pageOf k := Nat.mul_div_cancel _ (by decide)
  rw [ha, State.allocPage, page, if_pos (held k hk)]
  rfl

section
variable {s : State} {lane : Bool} {b wid : Nat} {ls : List Nat} {loc : Nat → Loc}

/-- The stores of lanes to places outside the own scratchpad. -/
def State.putsAway (s : State) (lane : Bool) (b wid : Nat) (ls : List Nat) (loc : Nat → Loc) : List Put :=
  s.puts lane b wid (ls.map fun l => ⟨l, false, loc l⟩)

theorem putsAway_eq : s.putsAway lane b wid ls loc = ls.map fun l => (⟨l, false, loc l⟩, s.cur.bytesFrom s.curS lane b l wid) := by
  rw [State.putsAway, State.puts, List.map_map]
  rfl

theorem forall_putsAway {p : Put → Prop} (holds : ∀ l ∈ ls, p (⟨l, false, loc l⟩, s.cur.bytesFrom s.curS lane b l wid)) :
    ∀ x ∈ s.putsAway lane b wid ls loc, p x := by
  rw [putsAway_eq]
  intro x hx
  obtain ⟨l, hl, rfl⟩ := List.mem_map.1 hx
  exact holds l hl

theorem data_putsAway : (s.putsAway lane b wid ls loc).flatMap putData =
    laneWrites ls loc wid fun l i => (s.cur.bytesFrom s.curS lane b l wid).getD i 0 := by
  rw [putsAway_eq, List.flatMap_map, laneWrites]
  exact List.flatMap_congr fun l _ => zip_keys (loc := loc l) (bytesFrom_length _ _ _ _ _ _)

theorem tableKeys_putsAway : (dataOf Loc.isTab (s.putsAway lane b wid ls loc)).map (·.1) =
    (ls.filter fun l => (loc l).isTab).flatMap fun l => (loc l).keys wid := by
  have keys (l : Nat) : (putData (⟨l, false, loc l⟩, s.cur.bytesFrom s.curS lane b l wid)).map (·.1) = (loc l).keys wid := by
    rw [putData, zip_keys (loc := loc l) (bytesFrom_length _ _ _ _ _ _), List.map_map]
    rfl
  rw [putsAway_eq, dataOf, List.filter_map, List.flatMap_map, List.map_flatMap]
  exact List.flatMap_congr fun l _ => keys l

theorem counts_putsAway {strong : Bool} {kind : WKind} {priv : Bool} (goes : ∀ l ∈ ls, SentAs strong kind priv (loc l)) :
    (s.putsAway lane b wid ls loc).foldl (fun n p => n + p.1.counts wid) 0 =
      ls.length * (if priv then max 1 (wid / 4) else 1) := by
  have each (l : Nat) (hl : l ∈ ls) : (⟨l, false, loc l⟩ : Acc).counts wid = if priv then max 1 (wid / 4) else 1 := by
    cases at_ : loc l with
    | tab k =>
      have := goes l hl
      rw [at_] at this
      cases this
      rfl
    | priv _ _ _ =>
      have := goes l hl
      rw [at_] at this
      cases this
      rfl
    | spad _ _ =>
      have := goes l hl
      rw [at_] at this
      cases this
      rfl
  have sum (start : Nat) (l : List Nat) (sub : ∀ x ∈ l, x ∈ ls) :
      l.foldl (fun n x => n + (⟨x, false, loc x⟩ : Acc).counts wid) start =
        start + l.length * (if priv then max 1 (wid / 4) else 1) := by
    induction l generalizing start with
    | nil => simp
    | cons x r ih =>
      rw [List.foldl_cons, ih _ fun y hy => sub y (List.mem_cons_of_mem _ hy), each x (sub x List.mem_cons_self),
        List.length_cons, Nat.succ_mul]
      omega
  rw [putsAway_eq, List.foldl_map]
  exact (sum 0 ls fun _ h => h).trans (Nat.zero_add _)

theorem storePages_putsAway {strong : Bool} {kind : WKind} {priv : Bool} (goes : ∀ l ∈ ls, SentAs strong kind priv (loc l))
    (held : priv = true → ∀ l ∈ ls, ∀ i < wid, s.mem.privPages.contains (s.curLaunch.ten, pageOf ((loc l).key i)) = true) :
    s.storePages (s.putsAway lane b wid ls loc) = (s, true) := by
  cases priv with
  | false =>
    have none : ((s.putsAway lane b wid ls loc).filter fun p => p.1.loc.isPrivate) = [] :=
      List.filter_eq_nil_iff.2 (forall_putsAway fun l hl => by
        cases at_ : loc l with
        | priv _ _ _ =>
          have := goes l hl
          rw [at_] at this
          cases this
        | tab k => exact Bool.false_ne_true
        | spad t o => exact Bool.false_ne_true)
    rw [State.storePages, none]
    rfl
  | true =>
    rw [State.storePages]
    split
    · rfl
    · refine allocPages_held fun k hk => ?_
      obtain ⟨p, hp, inKeys⟩ := List.mem_flatMap.1 hk
      revert inKeys
      refine forall_putsAway (p := fun p => k ∈ p.1.loc.keys p.2.length → _) (fun l hl inKeys => ?_) p (List.mem_filter.1 hp).1
      obtain ⟨i, hi, rfl⟩ := List.mem_map.1 inKeys
      rw [List.mem_range, bytesFrom_length] at hi
      exact held rfl l hl i hi

end

section
variable {s : State} {lane nf : Bool} {a b : Nat} {m : MemExt} {u : Uses} (accepts : s.Accepts u)
  (relaxed : m.ord = .relaxed) (quiet : (s.cur.slot s.curS).pend = [])
  (ready : s.acquiring = false) (calm : s.regionWaits s.curG = false)
include accepts relaxed quiet ready calm

/-- A store outside the own scratchpad makes counted requests, one for each sector (R147). -/
theorem store_away (some : s.memLanes lane nf ≠ []) (outside : s.inRegion s.curG = false) {loc : Nat → Loc} {kind : WKind}
    {priv : Bool} (each : ∀ l ∈ s.memLanes lane nf,
      s.Reaches l (s.cur.handleOf s.curS lane a l) m.off m.wid.bytes false true (loc l) ∧
      s.hitsKey (loc l) m.wid.bytes = false ∧ s.hitsNotify (loc l) m.wid.bytes = false)
    (goes : ∀ l ∈ s.memLanes lane nf, SentAs (isStrong m) kind priv (loc l))
    (held : priv = true → ∀ l ∈ s.memLanes lane nf, ∀ i < m.wid.bytes,
      s.mem.privPages.contains (s.curLaunch.ten, pageOf ((loc l).key i)) = true)
    (turn : isStrong m = true → s.strongBehind s.curG
      (((s.memLanes lane nf).filter fun l => (loc l).isTab).flatMap fun l => (loc l).keys m.wid.bytes) = false)
    (count : s.countOk ((s.memLanes lane nf).length * (if priv then max 1 (m.wid.bytes / 4) else 1)) = true) :
    ∃ v ew, OnlyHints s v ∧ (kind = .home → ew = min m.wid.bytes 8) ∧ s.store lane nf a b m u =
      .done ((v.requests kind (laneWrites (s.memLanes lane nf) loc m.wid.bytes
        fun l i => (s.cur.bytesFrom s.curS lane b l m.wid.bytes).getD i 0) ew false).next 8) := by
  have checks : allLanesOk (s.storeAcc lane a m) (s.memLanes lane nf) =
      .ok ((s.memLanes lane nf).map fun l => ⟨l, false, loc l⟩) :=
    allLanesOk_map fun l hl => accOf_reaches (each l hl).1 (storeCheck_free (each l hl).2.1 (each l hl).2.2)
  have all {p : Acc → Prop} (holds : ∀ l ∈ s.memLanes lane nf, p ⟨l, false, loc l⟩) :
      ∀ x ∈ (s.memLanes lane nf).map fun l => (⟨l, false, loc l⟩ : Acc), p x := fun x hx => by
    obtain ⟨l, hl, rfl⟩ := List.mem_map.1 hx
    exact holds l hl
  obtain ⟨ew, whole, stored⟩ := storeAll_away (ps := s.putsAway lane b m.wid.bytes (s.memLanes lane nf) loc)
    (forall_putsAway fun _ _ => rfl) (by rw [putsAway_eq]; exact mt List.map_eq_nil_iff.1 some)
    (forall_putsAway goes) m.wid.bytes
  refine ⟨_, ew, onlyHints_hintLines s m.hint.code ((s.memLanes lane nf).map fun l => ⟨l, false, loc l⟩), whole, ?_⟩
  rw [store_stores accepts relaxed quiet checks ready calm (all fun l hl => (each l hl).2.2)
    (fun x _ => by rw [State.isRegional, outside, Bool.false_and]) (storePages_putsAway goes held)
    (all fun _ _ => rfl) ((congrArg s.countOk (counts_putsAway goes)).trans count)
    (fun strong => (congrArg (s.strongBehind s.curG) tableKeys_putsAway).trans (turn strong))]
  exact congrArg (fun t => Res.done (t.next 8)) ((stored _).trans (by rw [data_putsAway]))

end

/-- Requests that carry the byte writes of lanes, one for each sector, as a word leaves them. -/
theorem sends_of_requests {s v : State} (live : s.Live) (hints : OnlyHints s v) {kind : WKind} {ls : List Nat}
    {loc : Nat → Loc} {wid ew : Nat} {byte : Nat → Nat → Byte} (rising : ls.Pairwise (· < ·))
    (open_ : s.Unsealed kind (laneWrites ls loc wid byte)) :
    Sends s ((v.requests kind (laneWrites ls loc wid byte) ew false).next 8) kind ls loc wid byte ∧
      (kind ≠ .home → ((v.requests kind (laneWrites ls loc wid byte) ew false).next 8).mem.l1 = s.mem.l1) := by
  obtain ⟨ws, made, each⟩ := requests_requests (hints.unsealed open_) ew false
  replace made := hints.requests made
  refine ⟨⟨made.home, made.teams, fun gid other => ?_, made.old, ws,
    movesOn_of_slots live made.cur (fun b => by cases b <;> rfl) made.curS 8, fun w hw => ?_, each.once,
    fun l hl i hi top => ?_⟩, fun weak => made.l1 fun w hw => each.kinds w hw ▸ weak⟩
  · rw [State.next_eq, made.curG, State.group_setGroup_ne _ _ other, made.others gid other]
  · obtain ⟨there, after, -, gid, cluster, counted, clears⟩ := made.new w hw
    obtain ⟨sec, -, carries⟩ := each.some w hw
    have from_ {p : Nat × Byte} (hp : p ∈ w.data) : p ∈ laneWrites ls loc wid byte ∧ sectorOf p.1 = sec :=
      mem_inSector.1 (mem_of_mem_lastWrites (carries ▸ hp))
    exact ⟨there, after, each.kinds w hw, gid, cluster, counted, clears, ⟨sec, fun p hp => (from_ hp).2⟩,
      fun p hp => mem_laneWrites.1 (from_ hp).1⟩
  · obtain ⟨before, after, split, last⟩ := laneWrites_split (byte := byte) rising hl hi top
    obtain ⟨w, hw, carries⟩ := each.all (sectorOf ((loc l).key i))
      (mem_sectorsOf.2 ⟨_, mem_laneWrites.2 ⟨l, hl, i, hi, rfl⟩, rfl⟩)
    refine ⟨w, hw, ?_⟩
    rw [carries, split]
    exact mem_lastWrites_inSector rfl last

/-! ### A strong element that leaves its core at once (R142, R161) -/

section
variable {s : State} {data : List (Nat × Byte)} {ew : Nat}

/-- A strong write of one element that meets no other write stands in the cluster copy at once. -/
theorem request_copy (alone : s.writes = []) (plain : ∀ d ∈ data, s.slotOfKey d.1 = none)
    (free : ∀ d ∈ data, s.isKeyByte d.1 = false) (written : data ≠ []) (whole : data.length ≤ ew)
    (room : ∀ d ∈ data, s.lineRoom s.curCluster (lineOf d.1) = true) (distinct : (data.map (·.1)).Nodup) {d : Nat × Byte}
    (hd : d ∈ data) : aget (s.request s.curG s.curCluster .home data ew none false true).mem.l1
      (copyKey s.curCluster d.1) = some ⟨d.2, s.nextId + 2⟩ := by
  let w : PWrite := ⟨s.nextId, s.curG, s.curCluster, .home, data, ew, 1, false, none, none, false, none, true, false, false, []⟩
  let e : State := { s with writes := s.writes ++ [w], nextId := s.nextId + 1 }
  have unsent : e.unsentBefore w = false := by simp [State.unsentBefore, e, alone]
  have atoms : e.atomBefore w = false := by simp [State.atomBefore, e, w, alone, PWrite.isAtom]
  have units : e.unitWaits w = false := by
    have slot : e.slotOfKey ((w.data.map (·.1)).headD 0) = none := slotOfKey_head (s := e) plain written
    rw [State.unitWaits, slot]
    rfl
  have lines : (w.lines.all fun l => e.lineRoom w.cluster l) = true := by
    rw [List.all_eq_true]
    intro l hl
    obtain ⟨x, hx, rfl⟩ := List.mem_map.1 (mem_dedup_iff.1 hl)
    exact room x hx
  have may : (e.maySend w && !w.apart) = true := by
    have one : w.apart = false := by
      rw [PWrite.apart, decide_eq_false (Nat.not_lt.2 whole), Bool.and_false]
    rw [State.maySend, unsent, units, atoms, lines, one]
    rfl
  have sent : s.request s.curG s.curCluster .home data ew none false true =
    (if e.maySend w && !w.apart then e.sendWrite w else e).modGroup s.curG fun g => { g with uwc := g.uwc + 1 } := rfl
  have kept : (data.filter fun d => !([] : List Nat).contains d.1) = data := by simp
  obtain ⟨-, -, -, l1⟩ := sendWrite_home (s := e) (w := w) rfl plain free
  rw [sent, if_pos may]
  exact (congrArg (aget · _) (l1.trans (by rw [kept]))).trans (aget_putL1_of_mem e s.curCluster (s.nextId + 2) distinct hd)

end

/-- The bytes of one element are one request where its page is held (R147). -/
theorem requests_element {s : State} {data : List (Nat × Byte)} {x : Nat} (written : data ≠ [])
    (one : ∀ d ∈ data, sectorOf d.1 = x) (distinct : (data.map (·.1)).Nodup)
    (held : s.pageHeld (s.coreOf s.curG) (64 * x) = true) (ew : Nat) :
    s.requests .home data ew false = s.request s.curG s.curCluster .home data ew none false true := by
  rw [State.requests, sectorsOf_of_one written one, List.foldl_cons, List.foldl_nil, inSector_of_one one,
    lastWrites_of_nodup distinct]
  dsimp only
  rw [State.touchPage, if_pos held, State.pageFor, if_pos held]

section
variable {s : State} {k wid : Nat} {byte : Nat → Nat → Byte}

/-- A strong element stands in the cluster copy (R161). -/
theorem strong_element (alone : s.writes = []) (small : k < 2 ^ 62)
    (aligned : posOfKey k % wid = 0) (width : wid ∣ 16) (plain : (s.table (tidOfKey k)).ownw = false)
    (free : s.hitsKey (.tab k) wid = false) (held : s.pageHeld (s.coreOf s.curG) (64 * (k / 64)) = true)
    (room : s.lineRoom s.curCluster (k / 256) = true) {i : Nat} (hi : i < wid) :
    aget (s.requests .home (laneWrites [0] (fun _ => .tab k) wid byte) wid false).mem.l1 (copyKey s.curCluster (k + i)) =
      some ⟨byte 0 i, s.nextId + 2⟩ := by
  have run : laneWrites [0] (fun _ => .tab k) wid byte = (List.range wid).map fun j => (k + j, byte 0 j) := by
    rw [laneWrites, List.flatMap_singleton]
    rfl
  have each {p : Nat × Byte → Prop} (holds : ∀ j < wid, p (k + j, byte 0 j)) :
      ∀ d ∈ (List.range wid).map fun j => (k + j, byte 0 j), p d := fun d hd => by
    obtain ⟨j, hj, rfl⟩ := List.mem_map.1 hd
    exact holds j (List.mem_range.1 hj)
  have there : (k + i, byte 0 i) ∈ (List.range wid).map fun j => (k + j, byte 0 j) :=
    List.mem_map.2 ⟨i, List.mem_range.2 hi, rfl⟩
  have distinct : (((List.range wid).map fun j => (k + j, byte 0 j)).map (·.1)).Nodup := nodup_numbered k wid (byte 0)
  rw [run, requests_element (List.ne_nil_of_mem there) (each fun j hj => (elementByte small aligned width hj).1) distinct held]
  exact request_copy (d := (k + i, byte 0 i)) alone (each fun j hj => element_unsealed small aligned width hj plain)
    (each fun j hj => element_free small aligned width hj free) (List.ne_nil_of_mem there) (by simp)
    (each fun j hj => by rw [(elementByte small aligned width hj).2.1]; exact room) distinct there

end

/-! ### The obligation -/

theorem bytesFrom_lane (g : Group) (c : Bool) (b l : Nat) {wid i : Nat} (hi : i < wid) :
    (g.bytesFrom c true b l wid).getD i 0 = (g.vval (b + i / 4) l).extractLsb' (8 * (i % 4)) 8 := by
  rw [Group.bytesFrom, if_pos rfl, List.getD_eq_getElem?_getD, laneBytes_getElem? g b l hi, Option.getD_some]

theorem bytesFrom_uni (g : Group) (c : Bool) (b l : Nat) {wid i : Nat} (hi : i < wid) :
    (g.bytesFrom c false b l wid).getD i 0 = byteOf (fun j => g.gval c (b + j)) i := by
  rw [Group.bytesFrom, if_neg Bool.false_ne_true, List.getD_eq_getElem?_getD, uniBytes_getElem? g c b hi, Option.getD_some]

theorem laneWrites_congr {ls : List Nat} {loc : Nat → Loc} {wid : Nat} {byte byte' : Nat → Nat → Byte}
    (same : ∀ l i, i < wid → byte l i = byte' l i) : laneWrites ls loc wid byte = laneWrites ls loc wid byte' :=
  List.flatMap_congr fun l _ => List.map_congr_left fun i hi => by rw [same l i (List.mem_range.1 hi)]

/-- The lanes of a memory word stand in increasing order. -/
theorem rising_memLanes (s : State) (lane nf : Bool) : (s.memLanes lane nf).Pairwise (· < ·) := by
  cases lane
  · exact List.pairwise_singleton _ _
  · exact List.pairwise_lt_range.filter _

/-- An element of one lane that hints and walks come before. -/
theorem strong_element_hinted {s v : State} {k wid : Nat} {byte : Nat → Nat → Byte} (hints : OnlyHints s v)
    (alone : s.writes = []) (small : k < 2 ^ 62)
    (aligned : posOfKey k % wid = 0) (width : wid ∣ 16) (plain : (s.table (tidOfKey k)).ownw = false)
    (free : s.hitsKey (.tab k) wid = false) (held : s.pageHeld (s.coreOf s.curG) (64 * (k / 64)) = true)
    (room : s.lineRoom s.curCluster (k / 256) = true) {i : Nat} (hi : i < wid) :
    let t := (v.requests .home (laneWrites [0] (fun _ => .tab k) wid byte) wid false).next 8
    t.strongByte s.curCluster (k + i) = byte 0 i ∧ t.readByte s.curCluster (k + i) = byte 0 i := by
  obtain ⟨early, walks, rfl⟩ := hints
  have stands := strong_element (s := { s with mem := { s.mem with early, walks } }) (byte := byte) alone small aligned width
    plain free held room hi
  replace stands : aget (({ s with mem := { s.mem with early, walks } } : State).requests .home
    (laneWrites [0] (fun _ => .tab k) wid byte) wid false).mem.l1 (copyKey s.curCluster (k + i)) = _ := stands
  simp only [State.strongByte, State.readByte, State.next_mem, stands]
  exact ⟨if_neg (Nat.succ_ne_zero _), trivial⟩

section
variable {s : State} {a b : Reg} {wa wb n : Bool} {m : MemExt} (relaxed : m.ord = .relaxed)
  (quiet : (s.cur.slot s.curS).pend = []) (ready : s.acquiring = false) (calm : s.regionWaits s.curG = false)
include relaxed quiet ready calm

/-- A store of any form outside the own scratchpad (R147, R161). -/
theorem store_sends {lane nf : Bool} {u : Uses} (accepts : s.Accepts u) {byte : Nat → Nat → Byte}
    (bytes : ∀ l i, i < m.wid.bytes → (s.cur.bytesFrom s.curS lane b.val l m.wid.bytes).getD i 0 = byte l i)
    {loc : Nat → Loc} {kind : WKind} {priv : Bool} (some : s.memLanes lane nf ≠ []) (outside : s.inRegion s.curG = false)
    (each : ∀ l ∈ s.memLanes lane nf, s.Reaches l (s.cur.handleOf s.curS lane a.val l) m.off m.wid.bytes false true (loc l) ∧
      s.hitsKey (loc l) m.wid.bytes = false ∧ s.hitsNotify (loc l) m.wid.bytes = false ∧ (loc l).isPrivate = priv ∧
      match loc l with
      | .tab k => kind = (if isStrong m then .home else .l1) ∧
          (isStrong m = true → (s.table (tidOfKey k)).ownw = false)
      | .priv .. => kind = .l1 ∧ ∀ i < m.wid.bytes,
          s.mem.privPages.contains (s.curLaunch.ten, pageOf ((loc l).key i)) = true
      | .spad t _ => kind = .spad t)
    (turn : isStrong m = true → s.strongBehind s.curG
      (((s.memLanes lane nf).filter fun l => (loc l).isTab).flatMap fun l => (loc l).keys m.wid.bytes) = false)
    (count : s.countOk ((s.memLanes lane nf).length * (if priv then max 1 (m.wid.bytes / 4) else 1)) = true) :
    ∃ t, s.store lane nf a.val b.val m u = .done t ∧ Sends s t kind (s.memLanes lane nf) loc m.wid.bytes byte ∧
      (kind ≠ .home → t.mem.l1 = s.mem.l1) := by
  have goes (l : Nat) (hl : l ∈ s.memLanes lane nf) : SentAs (isStrong m) kind priv (loc l) := by
    obtain ⟨-, -, -, rfl, asks⟩ := each l hl
    cases at_ : loc l with
    | tab k =>
      rw [at_] at asks
      exact .tab k asks.1
    | priv base lane o =>
      rw [at_] at asks
      exact .priv base lane o asks.1
    | spad t o =>
      rw [at_] at asks
      exact .spad t o asks
  have held (isPrivate : priv = true) (l : Nat) (hl : l ∈ s.memLanes lane nf) (i : Nat) (hi : i < m.wid.bytes) :
      s.mem.privPages.contains (s.curLaunch.ten, pageOf ((loc l).key i)) = true := by
    obtain ⟨-, -, -, space, asks⟩ := each l hl
    cases at_ : loc l with
    | priv base lane o =>
      rw [at_] at asks
      exact asks.2 i hi
    | tab k => rw [at_, isPrivate] at space; cases space
    | spad t o => rw [at_, isPrivate] at space; cases space
  have open_ : s.Unsealed kind (laneWrites (s.memLanes lane nf) loc m.wid.bytes byte) := by
    rintro rfl
    have element (l : Nat) (hl : l ∈ s.memLanes lane nf) : ∃ k, loc l = .tab k ∧ k < 2 ^ 62 ∧
        posOfKey k % m.wid.bytes = 0 ∧ (s.table (tidOfKey k)).ownw = false ∧ s.hitsKey (.tab k) m.wid.bytes = false := by
      obtain ⟨reaches, free, -, -, asks⟩ := each l hl
      cases at_ : loc l with
      | tab k =>
        rw [at_] at asks reaches free
        refine ⟨k, rfl, inTable_small reaches, reaches.aligned, asks.2 ?_, free⟩
        by_contra weak
        rw [if_neg weak] at asks
        cases asks.1
      | priv base lane o => rw [at_] at asks; cases asks.1
      | spad t o => rw [at_] at asks; cases asks
    refine ⟨fun d hd => ?_, fun d hd => ?_⟩
    all_goals
      obtain ⟨l, hl, i, hi, rfl⟩ := mem_laneWrites.1 hd
      obtain ⟨k, at_, small, aligned, plain, free⟩ := element l hl
      rw [at_]
    · exact element_unsealed small aligned (width_dvd _) hi plain
    · exact element_free small aligned (width_dvd _) hi free
  obtain ⟨v, ew, hints, -, stored⟩ := store_away (b := b.val) accepts relaxed quiet ready calm some outside
    (fun l hl => ⟨(each l hl).1, (each l hl).2.1, (each l hl).2.2.1⟩) goes held turn count
  rw [laneWrites_congr bytes] at stored
  exact ⟨_, stored, sends_of_requests accepts.live hints (rising_memLanes s lane nf) open_⟩

end

/-- Settles O35: a store is one change of the own scratchpad, or one counted request for each sector of its bytes, the last
lane's byte of each key. -/
theorem storeWords : Obligations.StoreWords := by
  unfold Obligations.StoreWords
  intro s a b wa wb n m ready calm relaxed quiet
  refine ⟨fun accepts => ⟨fun o own clear => ?_, fun loc kind priv some outside each turn count => ?_,
    fun k at_ outside => ⟨fun key => ?_, fun free count strong narrow alone turn plain held room => ?_⟩⟩,
    fun accepts loc kind priv some outside each turn count => ?_, fun accepts none => ?_, fun accepts some o own => ?_⟩
  · have stored := store_own (lane := false) (nf := true) (a := a.val) (b := b.val) accepts relaxed quiet ready calm
      (List.cons_ne_nil _ _) (o := fun _ => o) fun l _ => ⟨own, clear⟩
    rw [laneWrites_congr fun l i hi => bytesFrom_uni s.cur s.curS b.val l hi] at stored
    obtain ⟨onlyOwn, moves, team⟩ := storeSpad_next accepts.live
      (laneWrites (s.memLanes false true) (fun _ => .spad (teamOf s.curG) o) m.wid.bytes
        fun _ i => byteOf (fun j => s.cur.gval s.curS (b.val + j)) i)
    obtain ⟨apart, there⟩ := storeSpad_lanes (o := fun _ => o) team (rising_memLanes s false true)
    refine ⟨_, congrArg s.finish stored, onlyOwn, moves, ⟨apart.1, fun k out => apart.2 k ?_⟩, fun i hi => ?_⟩
    · rintro ⟨l, -, inside⟩
      exact out inside
    · refine there 0 List.mem_cons_self i hi fun l hl above => ?_
      rw [List.mem_singleton.1 hl] at above
      exact absurd above (Nat.lt_irrefl 0)
  · obtain ⟨t, stored, sends⟩ := store_sends (a := a) (b := b) (lane := false) (nf := true) relaxed quiet ready calm accepts
      (fun l i hi => bytesFrom_uni s.cur s.curS b.val l hi) some outside each turn count
    exact ⟨t, congrArg s.finish stored, sends⟩
  · refine congrArg s.finish (store_refused (lane := false) (nf := true) accepts relaxed quiet (allLanesOk_first ?_))
    exact accOf_refused (loc := .tab k) at_ (storeCheck_key key)
  · obtain ⟨v, ew, hints, whole, stored⟩ := store_away (lane := false) (nf := true) (a := a.val) (b := b.val) accepts relaxed
      quiet ready calm (List.cons_ne_nil _ _) outside (loc := fun _ => .tab k) (kind := .home) (priv := false)
      (fun l hl => by
        rw [List.mem_singleton.1 hl]
        exact ⟨at_, free, rfl⟩) (fun l _ => .tab k (by rw [show isStrong m = true from strong]; rfl)) nofun
      (fun _ => (congrArg (s.strongBehind s.curG) (List.append_nil _)).trans turn) count
    rw [laneWrites_congr fun l i hi => bytesFrom_uni s.cur s.curS b.val l hi, whole rfl, Nat.min_eq_left narrow] at stored
    exact ⟨_, congrArg s.finish stored, fun i hi => strong_element_hinted hints alone (inTable_small at_) at_.aligned
      (width_dvd _) plain free held room hi⟩
  · obtain ⟨t, stored, sends⟩ := store_sends (a := a) (b := b) (lane := true) (nf := n) relaxed quiet ready calm accepts
      (fun l i hi => bytesFrom_lane s.cur s.curS b.val l hi) some outside each turn count
    exact ⟨t, congrArg s.finish stored, sends⟩
  · exact congrArg s.finish (store_none (lane := true) accepts relaxed quiet ready calm (lanesOf_eq_nil.2 none))
  · have lanes : lanesOf (s.lanesOn n) ≠ [] := mt lanesOf_eq_nil.1 some
    have stored := store_own (lane := true) (nf := n) (a := a.val) (b := b.val) accepts relaxed quiet ready calm lanes
      (o := o) fun l hl => own l (mem_lanesOf.1 hl).1 (mem_lanesOf.1 hl).2
    rw [laneWrites_congr fun l i hi => bytesFrom_lane s.cur s.curS b.val l hi] at stored
    obtain ⟨onlyOwn, moves, team⟩ := storeSpad_next accepts.live
      (laneWrites (s.memLanes true n) (fun l => .spad (teamOf s.curG) (o l)) m.wid.bytes
        fun l i => (s.cur.vval (b.val + i / 4) l).extractLsb' (8 * (i % 4)) 8)
    obtain ⟨apart, there⟩ := storeSpad_lanes (o := o) team (rising_memLanes s true n)
    refine ⟨_, congrArg s.finish stored, onlyOwn, moves, ⟨apart.1, fun k out => apart.2 k ?_⟩,
      fun l small on i hi top => there l (mem_lanesOf.2 ⟨small, on⟩) i hi fun l' hl' =>
        top l' (mem_lanesOf.1 hl').1 (mem_lanesOf.1 hl').2⟩
    rintro ⟨l, hl, inside⟩
    exact out ⟨l, (mem_lanesOf.1 hl).1, (mem_lanesOf.1 hl).2, inside⟩

end Sys2Proof.Machine
end

section
/-! Atomics and reductions (O36; R191 to R193): a reduction on the own scratchpad takes a number for a pending object. -/

namespace Sys2Proof.Machine

/-! ### A group with a handle of its scratchpad -/

/-- Group 0, whose g5 names the first byte of its team's scratchpad of 1,024 bytes. -/
def reducing : State :=
  { State.reset with
    groups := [(0, (Group.start 0).setG false 5 (BitVec.ofNat 64 (2 ^ 62)))]
    launches := [(0, { Launch.absent with record := [0, 0, 1] })] }

/-- A relaxed access of 8 bytes without an observer. -/
def relaxedWord : MemExt := ⟨0, ⟨false, false, false, false, false⟩, .relaxed, .w8, .normal⟩

theorem reducing_accepts : reducing.Accepts ⟨[sg 5 false, sg 6 false], [], false⟩ :=
  State.accepts_of_gate rfl (by decide)

theorem reducing_ownSpad : reducing.OwnSpad (reducing.cur.gval reducing.curS 5) relaxedWord.off 8 0 :=
  ⟨⟨BitVec.ofNat 64 (2 ^ 62), by decide⟩, by decide, by decide⟩

/-- The reduction is performed at its word, and the next pending object has another number. -/
theorem reducing_numbered : ∃ t, exec (.gred 5 6 false false .add relaxedWord) reducing = .next t ∧
    t.nextId = reducing.nextId + 1 := ⟨_, rfl, rfl⟩

theorem OnlyOwn.nextId {s t : State} (h : OnlyOwn s t) : t.nextId = s.nextId := by
  obtain ⟨g, x, rfl⟩ := h
  rfl

end Sys2Proof.Machine

namespace Sys2Proof
open Machine

/-- Refutes O36: a reduction on the own scratchpad is performed at its word, but it takes a number for a pending object
as every atomic does, so more than the issuing group and its team is changed: `gred` of 8 bytes at the first byte of the
scratchpad advances the number of the next pending object. -/
theorem not_atomicWords : ¬ Obligations.AtomicWords := by
  unfold Obligations.AtomicWords
  intro h
  obtain ⟨-, reduces, -⟩ := h reducing 0 5 6 false false false .add relaxedWord rfl (by decide) rfl (.inr rfl)
  obtain ⟨own, -, -⟩ := reduces (by decide) reducing_accepts
  obtain ⟨t, exe, -, onlyOwn, -⟩ := own 0 reducing_ownSpad (by decide)
  obtain ⟨u, exe', numbered⟩ := reducing_numbered
  obtain rfl : t = u := by simpa [exe] using exe'
  rw [onlyOwn.nextId] at numbered
  exact absurd numbered (Nat.lt_succ_self _).ne

end Sys2Proof
end

section
/-! SUPPORT. The table operand of a word, and the words of lane keys (R54, R197). -/

namespace Sys2Proof.Machine

/-! ### Table operands (R197) -/

/-- A base handle names a table whole (R26). -/
theorem baseHandle {h : W64} {tid : Nat} (named : h.toNat = tid * 2 ^ 42) (small : tid < 2 ^ 20) :
    spaceOf h = 0 ∧ posOf h = 0 ∧ tidOf h = tid := by
  rw [spaceOf, posOf, tidOf, field, field, field, named]
  omega

section
variable {s : State} {h : W64} {tid : Nat} {rd wr : Bool} {kinds : List Nat} {width : Option Nat}

theorem checkBase_misplaced (off : spaceOf h ≠ 0 ∨ posOf h ≠ 0) :
    s.checkBase s.curG h rd wr kinds width = .error .handleFault := by
  unfold State.checkBase
  rw [need_false]
  rw [Bool.and_eq_true, beq_iff_eq, beq_iff_eq]
  exact fun both => off.elim (· both.1) (· both.2)

section
variable (named : h.toNat = tid * 2 ^ 42) (small : tid < 2 ^ 20) (sound : (s.table tid).poisonDesc = false)
include named small sound

/-- The checks of a base handle after its place and its descriptor's poison. -/
theorem checkBase_named : s.checkBase s.curG h rd wr kinds width =
    need ((s.table tid).usable tid) .tableAbsent
      (need ((!rd || s.curLaunch.reads tid) && (!wr || s.curLaunch.writesTo tid)) .access
        (need (kinds.contains (s.table tid).kind && width.all (· == (s.table tid).keyBytes)) .keyType
          (need (!(s.table tid).poisonIndex) .poison (.ok tid)))) := by
  obtain ⟨space, pos, id⟩ := baseHandle named small
  unfold State.checkBase
  rw [space, pos, id]
  dsimp only
  rw [need_true (show ((0 : Nat) == 0 && (0 : Nat) == 0) = true from rfl), need_true (by rw [sound]; rfl)]
  cases width <;> rfl

theorem checkBase_absent (absent : (s.table tid).usable tid = false) :
    s.checkBase s.curG h rd wr kinds width = .error .tableAbsent := by
  rw [checkBase_named named small sound, need_false (Bool.not_eq_true _ ▸ absent)]

variable (usable : (s.table tid).usable tid = true)
include usable

theorem checkBase_noRight (no : rd = true ∧ s.curLaunch.reads tid = false ∨ wr = true ∧ s.curLaunch.writesTo tid = false) :
    s.checkBase s.curG h rd wr kinds width = .error .access := by
  rw [checkBase_named named small sound, need_true usable, need_false]
  obtain ⟨rfl, no⟩ | ⟨rfl, no⟩ := no <;> simp [no]

theorem checkBase_rights (mayRead : rd = true → s.curLaunch.reads tid = true)
    (mayWrite : wr = true → s.curLaunch.writesTo tid = true) : s.checkBase s.curG h rd wr kinds width =
      need (kinds.contains (s.table tid).kind && width.all (· == (s.table tid).keyBytes)) .keyType
        (need (!(s.table tid).poisonIndex) .poison (.ok tid)) := by
  rw [checkBase_named named small sound, need_true usable, need_true]
  rw [Bool.and_eq_true, Bool.or_eq_true, Bool.or_eq_true, Bool.not_eq_true', Bool.not_eq_true']
  exact ⟨(Bool.eq_false_or_eq_true _).symm.imp_right mayRead, (Bool.eq_false_or_eq_true _).symm.imp_right mayWrite⟩

end

theorem checkBase_onTable (on : s.OnTable h tid rd wr kinds width) :
    s.checkBase s.curG h rd wr kinds width = .ok tid := by
  rw [checkBase_rights on.named on.small on.sound.1 on.usable on.mayRead on.mayWrite, need_true, need_true]
  · rw [on.sound.2]
    rfl
  · rw [Bool.and_eq_true, List.contains_iff_mem, Option.all_eq_true]
    exact ⟨on.kind, fun w hw => beq_iff_eq.2 (on.width w hw)⟩

theorem onTable_of {a : Reg} {k : Nat → Res}
    (on : s.OnTable (s.cur.gval s.curS a.val) tid rd wr kinds width) : s.onTable a rd wr kinds width k = k tid := by
  rw [State.onTable, checkBase_onTable on]

theorem onTable_refused {a : Reg} {k : Nat → Res} {c : Cause}
    (fails : s.checkBase s.curG (s.cur.gval s.curS a.val) rd wr kinds width = .error c) :
    s.onTable a rd wr kinds width k = .trap c 0 := by
  rw [State.onTable, fails]

end

/-! ### Keys in lane registers (R54) -/

theorem vpair_toNat (g : Group) (r l : Nat) : (g.vpair r l).toNat = (g.vval r l).toNat + (g.vval (r + 1) l).toNat * 2 ^ 32 := by
  rw [Group.vpair, join64, BitVec.toNat_append, ← Nat.shiftLeft_add_eq_or_of_lt (BitVec.isLt _), Nat.shiftLeft_eq,
    Nat.add_comm]

theorem wordsNat_one (x : W64) : wordsNat [x] = x.toNat := by simp [wordsNat, dwAt]

theorem wordsNat_two (x y : W64) : wordsNat [x, y] = x.toNat + y.toNat * 2 ^ 64 := rfl

/-- The registers of a lane key as a number, low one first. -/
def Group.keyNat (g : Group) (r l kr : Nat) : Nat :=
  (List.range kr).foldl (fun y j => y + (g.vval (r + j) l).toNat * 2 ^ (32 * j)) 0

theorem Group.keyNat_succ (g : Group) (r l kr : Nat) :
    g.keyNat r l (kr + 1) = g.keyNat r l kr + (g.vval (r + kr) l).toNat * 2 ^ (32 * kr) := by
  rw [Group.keyNat, List.range_succ, List.foldl_append]
  rfl

theorem wordsNat_laneKey (g : Group) (r l : Nat) (ty : Ty) :
    wordsNat (g.laneKey r l ty.keyRegs) = g.keyNat r l ty.keyRegs := by
  have none : g.keyNat r l 0 = 0 := rfl
  have one : wordsNat (g.laneKey r l 1) = g.keyNat r l 1 := by
    have small := (g.vval r l).isLt
    rw [Group.laneKey, if_pos rfl, wordsNat_one, BitVec.toNat_setWidth, Nat.mod_eq_of_lt (small.trans (by decide)),
      Group.keyNat_succ, none, Nat.add_zero]
    omega
  have two : wordsNat (g.laneKey r l 2) = g.keyNat r l 2 := by
    rw [Group.keyNat_succ, Group.keyNat_succ, none, Nat.add_zero]
    refine (wordsNat_one (g.vpair r l)).trans ?_
    rw [vpair_toNat]
    omega
  have four : wordsNat (g.laneKey r l 4) = g.keyNat r l 4 := by
    rw [Group.keyNat_succ, Group.keyNat_succ, Group.keyNat_succ, Group.keyNat_succ, none, Nat.add_zero]
    refine (wordsNat_two (g.vpair r l) (g.vpair (r + 2) l)).trans ?_
    rw [vpair_toNat, vpair_toNat, show r + 2 + 1 = r + 3 from rfl]
    omega
  cases ty
  case k128 => exact four
  case i64 | n64 => exact two
  all_goals exact one

end Sys2Proof.Machine
end

section
/-! The table words that read: `thdl`, `tinfo`, `tget`, `tscn`, `tstp` and `tgath` (O40; R196, R197, R199, R204 to R207). -/

namespace Sys2Proof.Machine

/-! ### Reply marks of several destination groups (R244) -/

theorem Group.unmark_allSets (g : Group) (b : Bool) (ds : List (Nat × Nat)) :
    g.unmark (allSets true b ds).1 (allSets true b ds).2 = ds.foldl (fun g d => g.unmarked d.1 d.2) g := by
  induction ds using List.reverseRecOn with
  | nil =>
    have all : (g.marks.filter fun m => if m.lane then !bitOn (0 : BitVec 128) m.d else !bitOn (0 : BitVec 136) m.d) = g.marks :=
      List.filter_eq_self.2 fun m _ => by simp [bitOn]
    exact congrArg (fun marks => { g with marks }) all
  | append_singleton l x ih =>
    have sets : allSets true b (l ++ [x]) =
        ((allSets true b l).1 ||| regSet 128 x.1 x.2, (allSets true b l).2 ||| 0) := by
      rw [allSets, List.foldl_append]
      rfl
    have one (m : Mark) : (if m.lane then !bitOn ((allSets true b l).1 ||| regSet 128 x.1 x.2) m.d
        else !bitOn ((allSets true b l).2 ||| 0) m.d) =
        ((if m.lane then !bitOn (allSets true b l).1 m.d else !bitOn (allSets true b l).2 m.d) &&
          !(m.lane && decide (x.1 ≤ m.d) && decide (m.d < x.1 + x.2) && decide (m.d < 128))) := by
      cases m.lane with
      | false => simp
      | true =>
        rw [if_pos rfl, if_pos rfl, bitOn_or]
        by_cases inFile : m.d < 128
        · rw [bitOn_regSet _ _ inFile, Bool.not_or]
          simp [inFile]
        · simp [bitOn, BitVec.getLsbD_of_ge _ m.d (Nat.not_lt.1 inFile), inFile]
    rw [List.foldl_append, ← ih, sets, List.foldl_cons, List.foldl_nil, Group.unmark, Group.unmarked, Group.unmark,
      List.filter_filter]
    exact congrArg (fun p => { g with marks := g.marks.filter p }) (funext fun m => (one m).trans (Bool.and_comm _ _))

theorem producesNone_next {s : State} (live : s.Live) (ds : List (Nat × Nat)) (k : Nat) :
    OnlyGroup s ((s.produceNone ds).next k) ∧
      MovesOn s ((s.produceNone ds).next k) k (ds.foldl (fun g d => g.unmarked d.1 d.2) s.cur) := by
  have slots (b : Bool) (g : Group) : (ds.foldl (fun g d => g.unmarked d.1 d.2) g).slot b = g.slot b :=
    List.foldlRecOn ds _ (motive := fun u : Group => u.slot b = g.slot b) rfl fun u hu d _ => by
      rw [← hu]
      cases b <;> rfl
  exact ⟨⟨_, State.next_modCur _ _ _⟩, movesOn_of_slots live
    ((State.cur_modCur _ _).trans (Group.unmark_allSets _ _ _)) (fun b => slots b s.cur) rfl k⟩

/-! ### Lookups (R199) -/

section
variable {s : State} {lane n : Bool} {d a b c : Reg} {ty : Ty} {dft acq : Bool} {u : Uses} {tid : Nat}
  (accepts : s.Accepts u) (outside : s.inRegion s.curG = false)
include accepts outside

theorem lookupWord_eq : s.lookupWord lane n d a b c ty dft acq u =
    s.onTable a true false [0, 1, 2, 3] (some (tyWidth ty)) fun tid =>
      if (s.memLanes lane n).isEmpty then .done ((s.produceNone [(d.val, if lane then 2 else 1), (c.val, 1)]).next 8)
      else if s.acquiring then .wait s
      else .done ((s.produce lane (.tget d.val c.val tid dft (s.table tid).dw) ((s.memLanes lane n).map fun l =>
        (⟨l, .tab (tid * 2 ^ 42), 0, if lane then s.cur.laneKey b.val l ty.keyRegs
          else s.cur.uniKey s.curS b.val ty.keyUni, none⟩ : Item))
        [(d.val, if lane then 2 else 1), (c.val, 1)] acq).next 8) := by
  rw [State.lookupWord, State.gated_of_accepts accepts, State.relaxedOnly, outside_of_plain outside, ite_self]

theorem lookupWord_refused {e : Cause}
    (fails : s.checkBase s.curG (s.cur.gval s.curS a.val) true false [0, 1, 2, 3] (some (tyWidth ty)) = .error e) :
    s.lookupWord lane n d a b c ty dft acq u = .trap e 0 := by
  rw [lookupWord_eq accepts outside, onTable_refused fails]

variable (on : s.OnTable (s.cur.gval s.curS a.val) tid true false [0, 1, 2, 3] (some (tyWidth ty)))
include on

theorem lookupWord_none (none : s.memLanes lane n = []) : s.lookupWord lane n d a b c ty dft acq u =
    .done ((s.produceNone [(d.val, if lane then 2 else 1), (c.val, 1)]).next 8) := by
  rw [lookupWord_eq accepts outside, onTable_of on, none]
  rfl

theorem lookupWord_asks (ready : s.acquiring = false) (some : s.memLanes lane n ≠ []) :
    ∃ t, s.lookupWord lane n d a b c ty dft acq u = .done t ∧ Produced s t lane
      (.tget d.val c.val tid dft (s.table tid).dw) ((s.memLanes lane n).map fun l =>
        ⟨l, .tab (tid * 2 ^ 42), 0, if lane then s.cur.laneKey b.val l ty.keyRegs
          else s.cur.uniKey s.curS b.val ty.keyUni, none⟩) [(d.val, if lane then 2 else 1), (c.val, 1)] acq 8 := by
  have produced := (awaits_produceAs (OnlyHints.refl s.takeId) s.nextId lane (.tget d.val c.val tid dft (s.table tid).dw)
    ((s.memLanes lane n).map fun l => ⟨l, .tab (tid * 2 ^ 42), 0, if lane then s.cur.laneKey b.val l ty.keyRegs
      else s.cur.uniKey s.curS b.val ty.keyUni, none⟩) [(d.val, if lane then 2 else 1), (c.val, 1)] acq).produced
        accepts.live 8
  refine ⟨_, ?_, produced⟩
  rw [lookupWord_eq accepts outside, onTable_of on, if_neg (by simpa using some), ready, if_neg Bool.false_ne_true]
  rfl

end

/-! ### Handles and properties (R196, R204) -/

section
variable {s : State} {d a : Reg} {wa : Bool} (accepts : s.Accepts ⟨[sg a wa], [dg d], false⟩)
include accepts

theorem exec_thdl (mode : ThdlMode) (core : Fin 16) : exec (.thdl d a wa mode core) s =
    s.finish (match s.formHandle (s.cur.gval s.curS a.val) mode core.val with
      | .error r => .trap r 0
      | .ok h => .done (s.uniResult d 8 (plain64 h))) := by
  exact congrArg s.finish (State.gated_of_accepts accepts _)

theorem thdl_traps {mode : ThdlMode} {core : Fin 16} {c : Cause}
    (fails : s.formHandle (s.cur.gval s.curS a.val) mode core.val = .error c) : Traps (.thdl d a wa mode core) s c 0 := by
  rw [Traps, exec_thdl accepts, fails]
  rfl

theorem thdl_gives {mode : ThdlMode} {core : Fin 16} {x : W64}
    (forms : s.formHandle (s.cur.gval s.curS a.val) mode core.val = .ok x) :
    Gives (.thdl d a wa mode core) s fun t => Wrote s t 0 [] [(d.val, x)] 8 0 := by
  refine ⟨s.uniResult d 8 (plain64 x), ?_, State.uniResult_wrote accepts.live 0 d 8 (plain64 x)⟩
  rw [exec_thdl accepts, forms]
  rfl

end

/-- A property of a table (R204). -/
def State.property (s : State) (tid sel : Nat) : W64 :=
  if sel ≤ 5 then dwAt (s.table tid).dw sel
  else if sel ≤ 7 then 0
  else if sel = 8 then BitVec.ofNat 64 (s.indexStack tid)
  else if sel = 9 then BitVec.ofNat 64 (2 ^ (field (dwAt (s.table tid).dw 0) 52 4 + 4))
  else BitVec.ofNat 64 ((if s.curLaunch.reads tid then 1 else 0) + if s.curLaunch.writesTo tid then 2 else 0)

theorem tinfo_gives {s : State} {d a : Reg} {wa : Bool} (accepts : s.Accepts ⟨[sg a wa], [dg d], false⟩) {sel : Fin 11}
    {tid : Nat} (named : (s.cur.gval s.curS a.val).toNat = tid * 2 ^ 42) (small : tid < 2 ^ 20)
    (sound : (s.table tid).poisonDesc = false) (may : sel.val ≤ 7 ∨ sel.val = 10 ∨ (s.table tid).usable tid = true) :
    Gives (.tinfo d a wa sel) s fun t => Wrote s t 0 [] [(d.val, s.property tid sel.val)] 8 0 := by
  obtain ⟨space, pos, id⟩ := baseHandle named small
  refine ⟨s.uniResult d 8 (plain64 (s.property tid sel.val)), ?_, State.uniResult_wrote accepts.live 0 d 8 _⟩
  refine congrArg s.finish (a₂ := .done (s.uniResult d 8 (plain64 (s.property tid sel.val)))) ?_
  rw [State.gated_of_accepts accepts]
  dsimp only
  rw [space, pos, id, sound, check_true (show ((0 : Nat) == 0 && (0 : Nat) == 0) = true from rfl),
    check_true (show (!false || _) = true from rfl), check_true (by simpa [Bool.or_assoc] using may)]
  congr 3
  match sel with
  | 0 | 1 | 2 | 3 | 4 | 5 | 6 | 7 | 8 | 9 => rfl
  | 10 =>
    rw [State.property]
    cases s.curLaunch.reads tid <;> cases s.curLaunch.writesTo tid <;> rfl

/-! ### Fresh cursors (R205) -/

theorem keyNat_lt (g : Group) (r l kr : Nat) : g.keyNat r l kr < 2 ^ (32 * kr) := by
  induction kr with
  | zero => exact Nat.one_pos
  | succ k ih =>
    have word := (g.vval (r + k) l).isLt
    rw [Group.keyNat_succ, Nat.mul_succ, Nat.pow_add, Nat.mul_comm (2 ^ (32 * k))]
    calc _ < 2 ^ (32 * k) + (g.vval (r + k) l).toNat * 2 ^ (32 * k) := Nat.add_lt_add_right ih _
      _ = ((g.vval (r + k) l).toNat + 1) * 2 ^ (32 * k) := by rw [Nat.add_mul, Nat.one_mul, Nat.add_comm]
      _ ≤ 2 ^ 32 * 2 ^ (32 * k) := Nat.mul_le_mul_right _ word

/-- A register of a lane key is a word of its number. -/
theorem keyNat_word (g : Group) (r l kr : Nat) {i : Nat} (hi : i < kr) :
    BitVec.ofNat 32 (g.keyNat r l kr / 2 ^ (32 * i)) = g.vval (r + i) l := by
  apply BitVec.eq_of_toNat_eq
  rw [BitVec.toNat_ofNat]
  induction kr with
  | zero => exact absurd hi (Nat.not_lt_zero i)
  | succ k ih =>
    rw [Group.keyNat_succ]
    rcases Nat.lt_succ_iff_lt_or_eq.1 hi with low | rfl
    · have parts : 2 ^ (32 * k) = 2 ^ (32 * i) * (2 ^ 32 * 2 ^ (32 * (k - i - 1))) := by
        rw [← Nat.pow_add, ← Nat.pow_add]
        congr 1
        omega
      rw [parts, Nat.mul_left_comm, Nat.add_mul_div_left _ _ (Nat.two_pow_pos _), Nat.mul_left_comm, Nat.add_mul_mod_self_left]
      exact ih low
    · rw [Nat.add_mul_div_right _ _ (Nat.two_pow_pos _), Nat.div_eq_of_lt (keyNat_lt g r l i), Nat.zero_add,
        Nat.mod_eq_of_lt (BitVec.isLt _)]

/-- The words of a cursor of four elements, from its first register on. -/
theorem cursorWords_four (ty : Ty) (w x y z : Nat) : cursorWords ty.keyRegs [w, x, y, z] =
    (List.range (4 * ty.keyRegs)).map fun j =>
      BitVec.ofNat 32 ((if j / ty.keyRegs = 0 then w else if j / ty.keyRegs = 1 then x
        else if j / ty.keyRegs = 2 then y else z) / 2 ^ (32 * (j % ty.keyRegs))) := by
  cases ty
  case k128 => rfl
  case i64 | n64 => rfl
  all_goals rfl

/-- Word `j` of a fresh cursor between the keys from registers `first` and `last` on. -/
def Group.scanWord (g : Group) (kr e0 first last l j : Nat) : W32 :=
  if j / kr = 0 then BitVec.ofNat 32 (e0 / 2 ^ (32 * (j % kr)))
  else if j / kr = 1 then g.vval (first + j % kr) l
  else if j / kr = 2 then g.vval (last + j % kr) l
  else 0

theorem cursorWords_scan (g : Group) (ty : Ty) (e0 first last l : Nat) :
    cursorWords ty.keyRegs [e0, g.keyNat first l ty.keyRegs, g.keyNat last l ty.keyRegs, 0] =
      (List.range (4 * ty.keyRegs)).map (g.scanWord ty.keyRegs e0 first last l) := by
  have some : 0 < ty.keyRegs := by cases ty <;> decide
  rw [cursorWords_four]
  refine List.map_congr_left fun j _ => ?_
  have inKey := Nat.mod_lt j some
  rw [Group.scanWord]
  split
  · rfl
  · split
    · exact keyNat_word g first l _ inKey
    · split
      · exact keyNat_word g last l _ inKey
      · rw [Nat.zero_div]
        rfl

theorem Group.setV_unmark (g : Group) (v : BitVec 128) (act : LaneSet) (r : Nat) (f : Nat → W32) :
    (g.unmark v 0).setV act r f = (g.setV act r f).unmark v 0 := by
  have marks : (g.unmark v 0).marks.filter (fun m => !m.lane || m.d != r) =
      ((g.marks.filter fun m => !m.lane || m.d != r).filter fun m =>
        if m.lane then !bitOn v m.d else !bitOn (0 : BitVec 136) m.d) := by
    rw [Group.unmark, List.filter_filter, List.filter_filter]
    exact List.filter_congr fun m _ => Bool.and_comm _ _
  exact congrArg (fun marks => { g.setV act r f with marks }) marks

theorem Group.setVs_unmark (g : Group) (v : BitVec 128) (act : LaneSet) (vd : List (Nat × (Nat → W32))) :
    (g.unmark v 0).setVs act vd = (g.setVs act vd).unmark v 0 := by
  induction vd generalizing g with
  | nil => rfl
  | cons x r ih =>
    have step := ih (g.setV act x.1 x.2)
    rw [← Group.setV_unmark] at step
    exact step

theorem Group.setVs_marks (g : Group) (act : LaneSet) (vd : List (Nat × (Nat → W32))) {m : Mark}
    (h : m ∈ (g.setVs act vd).marks) (lane : m.lane = true) : ∀ x ∈ vd, x.1 ≠ m.d := by
  induction vd using List.reverseRecOn with
  | nil => exact nofun
  | append_singleton r x ih =>
    rw [Group.setVs, List.foldl_append] at h
    obtain ⟨before, kept⟩ := List.mem_filter.1 h
    intro y hy
    rcases List.mem_append.1 hy with hy | hy
    · exact ih before y hy
    · obtain rfl := List.mem_singleton.1 hy
      rw [lane] at kept
      exact fun same => by simp [same] at kept

/-- The marks of registers that are written go with the write (R244). -/
theorem Group.unmark_setVs (g : Group) (act : LaneSet) (d n : Nat) (f : Nat → Nat → W32) :
    (g.unmark (regSet 128 d n) 0).setVs act ((List.range n).map fun j => (d + j, f j)) =
      g.setVs act ((List.range n).map fun j => (d + j, f j)) := by
  rw [Group.setVs_unmark, Group.unmark]
  have all : ((g.setVs act ((List.range n).map fun j => (d + j, f j))).marks.filter fun m =>
      if m.lane then !bitOn (regSet 128 d n) m.d else !bitOn (0 : BitVec 136) m.d) =
      (g.setVs act ((List.range n).map fun j => (d + j, f j))).marks := by
    refine List.filter_eq_self.2 fun m hm => ?_
    cases lane : m.lane with
    | false => simp [bitOn]
    | true =>
      have apart := Group.setVs_marks g act _ hm lane
      rw [if_pos rfl, Bool.not_eq_true']
      by_cases inFile : m.d < 128
      · rw [bitOn_regSet _ _ inFile]
        by_contra inside
        simp only [Bool.not_eq_false, Bool.and_eq_true, decide_eq_true_eq] at inside
        exact apart (d + (m.d - d), f (m.d - d)) (List.mem_map.2 ⟨m.d - d, List.mem_range.2 (by omega), rfl⟩) (by omega)
      · exact BitVec.getLsbD_of_ge _ m.d (Nat.not_lt.1 inFile)
  exact congrArg (fun marks => { g.setVs act ((List.range n).map fun j => (d + j, f j)) with marks }) all

/-- A fresh cursor in each active lane (R205). -/
theorem tscn_gives {s : State} {d a b c : Reg} {wa wb wc n dsc : Bool} {ty : Ty} {tid : Nat}
    (on : s.OnTable (s.cur.gval s.curS a.val) tid true false [0, 1, 3] (some (tyWidth ty))) (some : s.lanesOn n ≠ 0)
    (accepts : s.Accepts ⟨[sg a wa, svs b ty.keyRegs wb, svs c ty.keyRegs wc], [dvs d (4 * ty.keyRegs)], true⟩) :
    Gives (.tscn d a b c wa wb wc n ty dsc) s fun t => Wrote s t (s.lanesOn n)
      ((List.range (4 * ty.keyRegs)).map fun j => (d.val + j, fun l =>
        s.cur.scanWord ty.keyRegs (tid + if dsc then 2 ^ 20 else 0) (if dsc then c.val else b.val)
          (if dsc then b.val else c.val) l j)) [] 8 0 := by
  have direction : bnat dsc * 2 ^ 20 = if dsc then 2 ^ 20 else 0 := by cases dsc <;> rfl
  let rows := (s.memLanes true n).map fun l =>
    (l, numbered d.val (cursorWords ty.keyRegs
      [tid + bnat dsc * 2 ^ 20, if dsc then wordsNat (s.cur.laneKey c.val l ty.keyRegs) else wordsNat (s.cur.laneKey b.val l ty.keyRegs),
        if dsc then wordsNat (s.cur.laneKey b.val l ty.keyRegs) else wordsNat (s.cur.laneKey c.val l ty.keyRegs), 0]))
  have written : rows = (lanesOf (s.lanesOn n)).map fun l => (l, (List.range (4 * ty.keyRegs)).map fun j => (d.val + j,
      s.cur.scanWord ty.keyRegs (tid + if dsc then 2 ^ 20 else 0) (if dsc then c.val else b.val)
        (if dsc then b.val else c.val) l j)) := by
    refine List.map_congr_left fun l _ => ?_
    have keys : (if dsc then wordsNat (s.cur.laneKey c.val l ty.keyRegs) else wordsNat (s.cur.laneKey b.val l ty.keyRegs)) =
        s.cur.keyNat (if dsc then c.val else b.val) l ty.keyRegs ∧
        (if dsc then wordsNat (s.cur.laneKey b.val l ty.keyRegs) else wordsNat (s.cur.laneKey c.val l ty.keyRegs)) =
        s.cur.keyNat (if dsc then b.val else c.val) l ty.keyRegs := by
      cases dsc <;> exact ⟨wordsNat_laneKey _ _ _ _, wordsNat_laneKey _ _ _ _⟩
    rw [keys.1, keys.2, direction, cursorWords_scan, numbered_map]
  refine ⟨(s.modCur fun g => (g.unmark (regSet 128 d.val (4 * ty.keyRegs)) 0).putLanes rows).next 8, ?_,
    filled_wrote accepts.live (nodup_numbered _ _ _) ?_ 8⟩
  · refine congrArg s.finish (a₂ := .done _) ?_
    rw [State.gated_of_accepts accepts, onTable_of on]
    rfl
  · rw [written, putLanes_eq_setVs _ some d.val _ fun j l => s.cur.scanWord ty.keyRegs (tid + if dsc then 2 ^ 20 else 0)
      (if dsc then c.val else b.val) (if dsc then b.val else c.val) l j]
    exact Group.unmark_setVs _ _ _ _ _

/-! ### Cursor steps (R206) -/

section
variable {s : State} {a c d : Reg} {wa n acq : Bool} {ty : Ty}

/-- A lane's cursor that passes its checks. -/
theorem checkCursor_passes {r l : Nat} (fits : s.cur.cursorElem r l ty.keyRegs 0 < 2 ^ 23 ∧
      s.cur.cursorElem r l ty.keyRegs 3 < 2 ^ 32)
    {tid : Nat} (id : s.cur.cursorElem r l ty.keyRegs 0 % 2 ^ 20 = tid) (sound : (s.table tid).poisonDesc = false)
    (usable : (s.table tid).usable tid = true) (reads : s.curLaunch.reads tid = true) (ordered : (s.table tid).kind ≠ 2)
    (width : tyWidth ty = (s.table tid).keyBytes) (index : (s.table tid).poisonIndex = false) :
    s.checkCursor r ty.keyRegs ty l = .ok (l, (List.range 4).map (s.cur.cursorElem r l ty.keyRegs)) := by
  subst id
  have elements (i : Nat) (hi : i < 4) : ((List.range 4).map (s.cur.cursorElem r l ty.keyRegs)).getD i 0 =
      s.cur.cursorElem r l ty.keyRegs i := by
    rw [List.getD_eq_getElem _ _ (by simpa using hi), List.getElem_map, List.getElem_range]
  rw [State.checkCursor]
  dsimp only
  rw [elements 0 (by decide), elements 3 (by decide), decide_eq_false (Nat.not_le.2 fits.1),
    decide_eq_false (Nat.not_le.2 fits.2), sound, usable, reads, beq_eq_false_iff_ne.2 ordered, width, bne_self_eq_false, index]
  rfl

variable (accepts : s.Accepts ⟨[svs a (4 * ty.keyRegs) wa], [dvs d 2, dv c, dvs a (4 * ty.keyRegs)], true⟩)
  (outside : s.inRegion s.curG = false)
include accepts outside

theorem tstp_none (none : s.lanesOn n = 0) : exec (.tstp d a c wa n ty acq) s =
    .next ((s.produceNone [(d.val, 2), (c.val, 1), (a.val, 4 * ty.keyRegs)]).next 8) := by
  have lanes : s.memLanes true n = [] := lanesOf_eq_nil.2 none
  refine congrArg s.finish (a₂ := .done _) ?_
  rw [State.gated_of_accepts accepts, State.relaxedOnly, outside_of_plain outside, ite_self, lanes]
  rfl

theorem tstp_asks (ready : s.acquiring = false) (some : s.lanesOn n ≠ 0)
    (passes : ∀ l ∈ s.memLanes true n, s.checkCursor a.val ty.keyRegs ty l =
      .ok (l, (List.range 4).map (s.cur.cursorElem a.val l ty.keyRegs))) :
    Gives (.tstp d a c wa n ty acq) s fun t => ∃ items, Produced s t true (.tstp d.val a.val c.val ty.keyRegs) items
      [(d.val, 2), (c.val, 1), (a.val, 4 * ty.keyRegs)] acq 8 ∧ items.map (·.lane) = lanesOf (s.lanesOn n) := by
  let cs := (s.memLanes true n).map fun l => (l, (List.range 4).map (s.cur.cursorElem a.val l ty.keyRegs))
  let items : List Item := cs.map fun x => ⟨x.1, .tab (x.2.getD 0 0 % 2 ^ 20 * 2 ^ 42), 0,
    (x.2.flatMap fun e => [BitVec.ofNat 64 e, BitVec.ofNat 64 (e / 2 ^ 64)]) ++ (s.table (x.2.getD 0 0 % 2 ^ 20)).dw, none⟩
  have lanesSome : s.memLanes true n ≠ [] := mt lanesOf_eq_nil.1 some
  have lanes : items.map (·.lane) = lanesOf (s.lanesOn n) := by
    rw [List.map_map, List.map_map]
    exact List.map_id _
  have produced := (awaits_produceAs (OnlyHints.refl s.takeId) s.nextId true (.tstp d.val a.val c.val ty.keyRegs)
    items [(d.val, 2), (c.val, 1), (a.val, 4 * ty.keyRegs)] acq).produced accepts.live 8
  refine ⟨_, ?_, items, produced, lanes⟩
  refine congrArg s.finish (a₂ := .done _) ?_
  rw [State.gated_of_accepts accepts, State.relaxedOnly, outside_of_plain outside, ite_self, allLanesOk_map passes, passing]
  dsimp only
  rw [if_neg (by simpa using lanesSome), ready, if_neg Bool.false_ne_true]
  rfl

end

/-! ### Gathers (R207) -/

theorem onlyHints_touchAll (s : State) (core : Nat) (rs : List (Nat × Nat)) : OnlyHints s (s.touchAll core rs) := by
  have step (a : State) (r : Nat × Nat) : OnlyHints a (a.touchRange core r.1 r.2) := onlyHints_touchRange a core r.1 r.2
  rw [State.touchAll]
  exact OnlyHints.foldl (fun a r => step a r) rs s

theorem checkImage_spad {s : State} {h : W64} {n al : Nat} (space : spaceOf h = 1) (high : field h 19 43 = 0)
    (inside : field h 0 19 + n ≤ s.curLaunch.spad) (aligned : field h 0 19 % al = 0) :
    s.checkImage s.curG h n al = .ok (.spad (teamOf s.curG) (field h 0 19)) := by
  unfold State.checkImage
  rw [space]
  dsimp only
  rw [need_true (beq_iff_eq.2 high)]
  exact (need_true (decide_eq_true inside) _ _).trans (need_true (beq_iff_eq.2 aligned) _ _)

/-- The intervals of a gather with its keys in the scratchpad (R174, R207). -/
def State.gatherScore (s : State) (list off w rowSize n : Nat) : List ScoreEntry :=
  [scoreEntry (s.coreOf s.curG) (teamOf s.curG) list (n * w) false s.nextId,
    scoreEntry (s.coreOf s.curG) (teamOf s.curG) off (n * rowSize + n) true s.nextId]

theorem register_gather {s u : State} (hints : OnlyHints s u) (list off w rowSize n : Nat) :
    u.register (s.gatherScore list off w rowSize n) =
      if (s.score.filter fun x => x.core == s.coreOf s.curG).length + 2 ≤ 96
      then some { u with score := s.score ++ s.gatherScore list off w rowSize n } else none := by
  obtain ⟨_, _, rfl⟩ := hints
  have mine (x : ScoreEntry) : ((s.gatherScore list off w rowSize n).any fun e => e.core == x.core) =
      (x.core == s.coreOf s.curG) := by
    simp [State.gatherScore, scoreEntry, beq_eq_decide, eq_comm]
  rw [State.register, funext mine]
  rfl

section
variable {s : State} {a b c : Reg} {wa wb dft : Bool} {ty : Ty} {cnt : Fin 512} {tid : Nat}
  (outside : s.inRegion s.curG = false)
  (on : s.OnTable (s.cur.gval s.curS a.val) tid true false [0, 1, 2, 3] (some (tyWidth ty)))
  (accepts : s.Accepts ⟨[sg a wa, sg b wb, sg c false], [], false⟩)
  (list : s.checkImage s.curG (s.cur.gval s.curS b.val) ((cnt.val + 1) * tyWidth ty) (tyWidth ty) =
    .ok (.spad (teamOf s.curG) (field (s.cur.gval s.curS b.val) 0 19)))
  (place : spaceOf (s.cur.gval s.curS c.val) = 1 ∧ field (s.cur.gval s.curS c.val) 19 43 = 0 ∧
    field (s.cur.gval s.curS c.val) 0 19 % 32 = 0 ∧ field (s.cur.gval s.curS c.val) 0 19 +
      ((cnt.val + 1) * (s.table tid).rowSize + (cnt.val + 1)) ≤ s.curLaunch.spad)
include outside on accepts list place

/-- A gather as its word enters it. -/
def State.gathers0 (s : State) (tid list off w n : Nat) (dft : Bool) : Gather :=
  ⟨s.nextId, s.curG, s.cur.copyBatch, tid, (s.table tid).dw, .spad (teamOf s.curG) list, off, w, n, dft, none⟩

theorem exec_tgath : ∃ u, OnlyHints s u ∧ exec (.tgath a b c wa wb ty cnt dft) s =
    if (s.score.filter fun x => x.core == s.coreOf s.curG).length + 2 ≤ 96
    then .next (({ u with
      score := s.score ++ s.gatherScore (field (s.cur.gval s.curS b.val) 0 19) (field (s.cur.gval s.curS c.val) 0 19)
        (tyWidth ty) (s.table tid).rowSize (cnt.val + 1)
      nextId := s.nextId + 1
      gathers := s.gathers ++ [s.gathers0 tid (field (s.cur.gval s.curS b.val) 0 19)
        (field (s.cur.gval s.curS c.val) 0 19) (tyWidth ty) (cnt.val + 1) dft] } : State).next 8)
    else .next s.holdBack := by
  obtain ⟨space, high, aligned, inside⟩ := place
  let u := s.touchAll (s.coreOf s.curG) (basePage tid ++ imagePages
    (.spad (teamOf s.curG) (field (s.cur.gval s.curS b.val) 0 19)) ((cnt.val + 1) * tyWidth ty))
  have hints : OnlyHints s u := onlyHints_touchAll _ _ _
  have registers := register_gather hints (field (s.cur.gval s.curS b.val) 0 19) (field (s.cur.gval s.curS c.val) 0 19)
    (tyWidth ty) (s.table tid).rowSize (cnt.val + 1)
  refine ⟨u, hints, ?_⟩
  change execTgath a b c wa wb ty cnt dft s = _
  rw [execTgath, State.gated_of_accepts accepts, outside_of_plain outside, onTable_of on]
  dsimp only
  generalize s.checkImage s.curG (s.cur.gval s.curS b.val) ((cnt.val + 1) * tyWidth ty) (tyWidth ty) = x at list ⊢
  subst list
  refine (congrArg s.finish ((check_true (by rw [space, high]; rfl) _ _).trans ((check_true (beq_iff_eq.2 aligned) _ _).trans
    (check_true (decide_eq_true inside) _ _)))).trans ?_
  generalize entered : State.register _ _ = r
  obtain rfl := entered.symm.trans registers
  by_cases room : (s.score.filter fun x => x.core == s.coreOf s.curG).length + 2 ≤ 96
  · obtain ⟨_, _, same⟩ := hints
    rw [if_pos room, if_pos room, same]
    rfl
  · rw [if_neg room, if_neg room]
    rfl

end

/-- What a gather that is entered leaves alone. -/
theorem gather_next {s u : State} (live : s.Live) (hints : OnlyHints s u) (score : List ScoreEntry) (g : Gather) :
    let t := (({ u with score := score, nextId := s.nextId + 1, gathers := s.gathers ++ [g] } : State).next 8)
    MovesOn s t 8 s.cur ∧ t.gathers = s.gathers ++ [g] ∧ t.score = score ∧
      t.mem.home = s.mem.home ∧ t.mem.l1 = s.mem.l1 ∧ t.writes = s.writes ∧ t.teams = s.teams := by
  obtain ⟨early, walks, rfl⟩ := hints
  exact ⟨movesOn_of_slots live (u := { s with
    mem := { s.mem with early, walks }, score := score, nextId := s.nextId + 1, gathers := s.gathers ++ [g] }) rfl
      (fun _ => rfl) rfl 8, rfl, rfl, rfl, rfl, rfl, rfl⟩

/-! ### The obligation -/

section
variable {s : State} {d a : Reg} {wa : Bool} {core : Fin 16} {tid : Nat}
  (accepts : s.Accepts ⟨[sg a wa], [dg d], false⟩)
include accepts

/-- `thdl` of a table id (R196). -/
theorem thdl_table (named : (s.cur.gval s.curS a.val).toNat = tid) (small : tid < 2 ^ 20)
    (sound : (s.table tid).poisonDesc = false) :
    ((s.table tid).usable tid = false → Traps (.thdl d a wa .tab core) s .tableAbsent 0) ∧
    ((s.table tid).usable tid = true → s.curLaunch.reads tid = false → s.curLaunch.writesTo tid = false →
      Traps (.thdl d a wa .tab core) s .access 0) ∧
    ((s.table tid).usable tid = true → s.curLaunch.reads tid = true ∨ s.curLaunch.writesTo tid = true →
      Gives (.thdl d a wa .tab core) s fun t => Wrote s t 0 [] [(d.val, BitVec.ofNat 64 (tid * 2 ^ 42))] 8 0) := by
  have forms : s.formHandle (s.cur.gval s.curS a.val) .tab core.val =
      need ((s.table tid).usable tid) .tableAbsent
        (need (s.curLaunch.reads tid || s.curLaunch.writesTo tid) .access (.ok (handle tid 0))) := by
    rw [State.formHandle, named, need_true (decide_eq_true small), need_true (by rw [sound]; rfl)]
  refine ⟨fun absent => thdl_traps accepts ?_, fun usable noRead noWrite => thdl_traps accepts ?_,
    fun usable right => thdl_gives accepts ?_⟩
  · rw [forms, need_false (Bool.not_eq_true _ ▸ absent)]
  · rw [forms, need_true usable, noRead, noWrite, need_false (by decide)]
  · rw [forms, need_true usable, need_true (Bool.or_eq_true _ _ ▸ right), handle, Nat.add_zero]

/-- `thdl` of a scratchpad (R26, R196). -/
theorem thdl_spad {mode : ThdlMode} {team : Option Nat} (forms : s.formHandle (s.cur.gval s.curS a.val) mode core.val =
      s.peerHandle (s.cur.gval s.curS a.val) team) (space : spaceOf (s.cur.gval s.curS a.val) = 1)
    (high : field (s.cur.gval s.curS a.val) 19 43 = 0) (inside : field (s.cur.gval s.curS a.val) 0 19 < s.curLaunch.spad) :
    (∀ t, team = some t → Gives (.thdl d a wa mode core) s fun u => Wrote s u 0 [] [(d.val, BitVec.ofNat 64
      (2 * 2 ^ 62 + (s.team t).core % 16 * 2 ^ 36 + (s.team t).gen.toNat * 2 ^ 20 +
        field (s.cur.gval s.curS a.val) 0 19))] 8 0) ∧
    (team = none → Traps (.thdl d a wa mode core) s .spadStale 0) := by
  unfold State.peerHandle at forms
  rw [need_true (by rw [space, high]; rfl)] at forms
  refine ⟨fun t ht => thdl_gives accepts ?_, fun none => thdl_traps accepts ?_⟩
  · subst ht
    exact forms.trans (need_true (decide_eq_true inside) _ _)
  · subst none
    exact forms

end

/-- Settles O40: handles and properties by their checks, lookups and cursor steps as producers, a fresh cursor word by
word, and a gather with its two intervals. -/
theorem tableReadingWords : Obligations.TableReadingWords := by
  unfold Obligations.TableReadingWords
  intro s d a b c wa wb wc n dft acq dsc ty sel core cnt tid ready outside
  refine ⟨fun accepts => ⟨fun beyond => ?_, thdl_table accepts, fun space high inside => ?_,
      fun named small sound may => tinfo_gives accepts named small sound may⟩,
    fun accepts => ⟨fun on => ?_, fun off => ?_, fun named small sound => ?_⟩, fun on accepts => ⟨fun none => ?_, fun some => ?_⟩,
    fun on some accepts => tscn_gives on some accepts, fun some accepts cursors => ?_, fun none accepts => ?_,
    fun on accepts space high inside aligned space' high' aligned' inside' => ⟨fun room => ?_, fun full => ?_⟩⟩
  · refine thdl_traps accepts ?_
    rw [State.formHandle, need_false (mt of_decide_eq_true (Nat.not_lt.2 beyond))]
  · have peer := thdl_spad (mode := .peer) (core := core)
      (team := s.teamOn (launchOfTeam (teamOf s.curG)) (s.curCluster * 16 + core.val)) accepts rfl space high inside
    exact ⟨(thdl_spad (mode := .self) (core := core) accepts rfl space high inside).1 _ rfl, peer⟩
  · obtain ⟨t, done, produced⟩ := lookupWord_asks (lane := false) (n := true) (d := d) (b := b) (c := c) (dft := dft) (acq := acq)
      accepts outside on ready (List.cons_ne_nil _ _)
    exact ⟨t, congrArg s.finish done, produced⟩
  · exact congrArg s.finish (lookupWord_refused (lane := false) (n := true) accepts outside (checkBase_misplaced off))
  · have stops {e : Cause} (fails : s.checkBase s.curG (s.cur.gval s.curS a.val) true false [0, 1, 2, 3]
        (some (tyWidth ty)) = .error e) : Traps (.tgetU d a b c wa wb ty dft acq) s e 0 :=
      congrArg s.finish (lookupWord_refused (lane := false) (n := true) accepts outside fails)
    refine ⟨fun absent => stops (checkBase_absent named small sound absent), fun usable noRead =>
      stops (checkBase_noRight named small sound usable (.inl ⟨rfl, noRead⟩)), fun usable reads width => stops ?_⟩
    rw [checkBase_rights named small sound usable (fun _ => reads) (absurd · Bool.false_ne_true), need_false]
    rw [Option.all_some, beq_eq_false_iff_ne.2 width, Bool.and_false]
    exact Bool.false_ne_true
  · exact ⟨_, congrArg s.finish (lookupWord_none (lane := true) accepts outside on (lanesOf_eq_nil.2 none)),
      producesNone_next accepts.live _ 8⟩
  · obtain ⟨t, done, produced⟩ := lookupWord_asks (lane := true) (n := n) (d := d) (b := b) (c := c) (dft := dft) (acq := acq)
      accepts outside on ready (mt lanesOf_eq_nil.1 some)
    refine ⟨t, congrArg s.finish done, _, produced, ?_, fun x hx => ?_⟩
    · rw [List.map_map]
      exact List.map_id _
    · obtain ⟨l, -, rfl⟩ := List.mem_map.1 hx
      exact ⟨rfl, wordsNat_laneKey s.cur b.val l ty⟩
  · refine tstp_asks accepts outside ready some fun l hl => ?_
    obtain ⟨small, on⟩ := mem_lanesOf.1 hl
    obtain ⟨first, last, sound, usable, reads, ordered, width, index⟩ := cursors l small on
    exact checkCursor_passes ⟨first, last⟩ rfl sound usable reads ordered width index
  · exact ⟨_, tstp_none accepts outside none, producesNone_next accepts.live _ 8⟩
  · obtain ⟨u, hints, exe⟩ := exec_tgath (dft := dft) outside on accepts (checkImage_spad space high inside aligned)
      ⟨space', high', aligned', inside'⟩
    rw [if_pos room] at exe
    obtain ⟨moves, gathers, score, home, l1, writes, teams⟩ := gather_next accepts.live hints
      (s.score ++ s.gatherScore (field (s.cur.gval s.curS b.val) 0 19) (field (s.cur.gval s.curS c.val) 0 19)
        (tyWidth ty) (s.table tid).rowSize (cnt.val + 1)) (s.gathers0 tid (field (s.cur.gval s.curS b.val) 0 19)
        (field (s.cur.gval s.curS c.val) 0 19) (tyWidth ty) (cnt.val + 1) dft)
    exact ⟨_, exe, moves, ⟨_, gathers, rfl, rfl, rfl, rfl, rfl, rfl, rfl, rfl, rfl, rfl, score⟩, home, l1, writes, teams⟩
  · obtain ⟨u, -, exe⟩ := exec_tgath (dft := dft) outside on accepts (checkImage_spad space high inside aligned)
      ⟨space', high', aligned', inside'⟩
    rw [if_neg (Nat.not_le.2 full)] at exe
    exact exe

end Sys2Proof.Machine
end

section
/-! Changes of tables (O41; R200 to R203): the end of a `tcom` or `trbk` in a slot that holds no path. -/

namespace Sys2Proof.Machine

/-! ### A `tcom` under way in a free slot -/

/-- Table 1, usable and keyed by 64-bit keys, with no rows; slot 0 of group 0 commits the drafts of tag 0 up to key 0. -/
def committedTable : Table :=
  { Table.absent with
    dw := [BitVec.ofNat 64 (2 ^ 60 + 2 ^ 56 + 2 ^ 40 + 2 ^ 20), 0, 16]
    held := some ⟨0, true, 0, 0⟩ }

/-- Slot 0 of group 0 stands in the `tcom` of `committedTable`, but holds no path; the page of handle 0 is translated. -/
def pathless : State :=
  { State.reset with
    groups := [(0, { Group.absent with s0 := { Slot.free with stage := 1 } })]
    tables := [(1, committedTable)]
    mem := { State.reset.mem with tlb := [(0, 0)] } }

/-- The commit ends at its word, and the slot still holds no path. -/
theorem pathless_ends : ∃ t, exec (.tcom 0 0 0 false false .i64 0) pathless = .next t ∧
    (t.cur.slot pathless.curS).path = none := ⟨_, rfl, by decide⟩

/-- A word that has reported leaves a path in its slot, which has moved on. -/
theorem Reports.path {s t : State} {act : LaneSet} {vd : List (Nat × (Nat → W32))} {gd : List (Nat × W64)} {n : Nat}
    (reports : Reports s t act vd gd n) : (t.cur.slot s.curS).path.isSome = true := by
  obtain ⟨u, wrote, eq⟩ := reports
  rw [eq]
  exact wrote.moved.1

end Sys2Proof.Machine

namespace Sys2Proof
open Machine

/-- Refutes O41: its last clause, on a `tcom` or `trbk` under way, asks for no path in the issuing slot, as every other
clause does by `State.Accepts`. In a slot that holds no path the commit of a table without drafts ends and moves on no
path, where the clause has a word that has moved on. -/
theorem not_tableChangeWords : ¬ Obligations.TableChangeWords := by
  unfold Obligations.TableChangeWords
  intro h
  obtain ⟨-, -, -, -, underWay⟩ := h pathless 0 0 0 false false false false 0 .i64 1 0 (by decide) (by decide)
    (by decide) (by decide) ⟨by decide, by decide⟩
  obtain ⟨ends, -⟩ := underWay ⟨0, true, 0, 0⟩ 0 rfl rfl (by decide) (by decide) rfl (by decide)
  obtain ⟨t, exe, reports, -⟩ := ends fun r mem => absurd mem List.not_mem_nil
  obtain ⟨u, exe', free⟩ := pathless_ends
  obtain rfl : t = u := Host.Outcome.next.inj (exe.symm.trans exe')
  simpa [free] using reports.path

end Sys2Proof
end

section
/-! SUPPORT. Rings, copy batches, and the entries of a ring accepted in order (R176, R208, R210, R213). -/

namespace Sys2Proof.Machine

/-! ### Rings (R208) -/

/-- What a change of its team by a word leaves alone. -/
theorem modTeam_next {s : State} (live : s.Live) (f : Team → Team) :
    let t := (s.modTeam (teamOf s.curG) f).next 8
    OnlyOwn s t ∧ MovesOn s t 8 s.cur ∧ t.curTeam = f s.curTeam :=
  ⟨⟨s.cur.next s.curS 8, f s.curTeam, rfl⟩, movesOn_of_slots live rfl (fun _ => rfl) rfl 8,
    State.team_modTeam_self s (teamOf s.curG) f⟩

/-- A team with a ring, or without one. -/
def Team.withRing (t : Team) (r : Option Ring) : Team := { t with ring := r }

section
variable {s : State} {a b : Reg} {wa wb : Bool} {count : Nat} (plain : s.inRegion s.curG = false)
  (accepts : s.Accepts ⟨[sg a wa, sg b wb], [], false⟩)
include plain accepts

/-- The ring of a team is removed, unless a publication is under way. -/
theorem xring_removes :
    (s.publishing (teamOf s.curG) = false → exec (.xring a b wa wb 0) s =
      .next ((s.modTeam (teamOf s.curG) fun t => t.withRing none).next 8)) ∧
    (s.publishing (teamOf s.curG) = true → Waits (.xring a b wa wb 0) s) := by
  have exe : exec (.xring a b wa wb 0) s = s.finish (if s.publishing (teamOf s.curG) then .wait s
      else .done ((s.modTeam (teamOf s.curG) fun t => t.withRing none).next 8)) := by
    change execXring a b wa wb 0 s = _
    rw [execXring, State.gated_of_accepts accepts, outside_of_plain plain, if_pos rfl]
    rfl
  refine ⟨fun still => ?_, fun busy => ?_⟩
  · rw [exe, still, if_neg Bool.false_ne_true, State.finish_done]
  · rw [Waits, exe, busy, if_pos rfl, State.finish_wait]

/-- A ring whose handles and places pass is registered where its notify word lies outside it. -/
theorem xring_checked (some : 0 < count) {x y : W64} (hx : s.cur.gval s.curS a.val = x) (hy : s.cur.gval s.curS b.val = y)
    (handles : spaceOf x = 1 ∧ field x 19 43 = 0 ∧ spaceOf y = 1 ∧ field y 19 43 = 0)
    (aligned : field x 0 19 % 32 = 0 ∧ field y 0 19 % 8 = 0)
    (inside : field x 0 19 + 32 * count ≤ s.curLaunch.spad ∧ field y 0 19 + 8 ≤ s.curLaunch.spad) :
    exec (.xring a b wa wb count) s = s.finish
      (if field y 0 19 < field x 0 19 + 32 * count ∧ field x 0 19 < field y 0 19 + 8 then .trap .queueFault 0xFFFF
      else if s.scored (teamOf s.curG) (field y 0 19) (field y 0 19 + 8) false || s.publishing (teamOf s.curG) then .wait s
      else .done ((s.modTeam (teamOf s.curG) fun t => t.withRing (Option.some ⟨field x 0 19, count, field y 0 19,
        dwOf (s.curTeam.spadBytes (field y 0 19) 8) 0⟩)).next 8)) := by
  obtain ⟨hx1, hx2, hy1, hy2⟩ := handles
  change execXring a b wa wb count s = _
  rw [execXring, State.gated_of_accepts accepts, outside_of_plain plain, if_neg (Nat.ne_of_gt some), hx, hy]
  dsimp only
  rw [check_true (by simp [hx1, hx2, hy1, hy2]), check_true (by simp [aligned]), check_true (by simp [inside])]
  rfl

end

/-! ### Batches (R213) -/

/-- A group with its open copy batch sealed: the next batch and those that are sealed. -/
def Group.sealCopies (g : Group) (next : Nat) (sealed : List Nat) : Group :=
  { g with copyBatch := next, copySealed := sealed }

theorem Group.next_sealCopies (g : Group) (next : Nat) (sealed : List Nat) (b : Bool) (n : Nat) :
    (g.sealCopies next sealed).next b n = (g.next b n).sealCopies next sealed := by
  cases b <;> rfl

/-- The number of the sealed batch is the result of `xseal`; the batch joins those that are sealed. -/
theorem xseal_seals {s : State} {d : Reg} (accepts : s.Accepts ⟨[], [dg d], false⟩)
    (few : (s.copyLeft s.curG).length < 128) : Gives (.xseal d) s fun u => ∃ s1,
      Wrote s s1 0 [] [(d.val, BitVec.ofNat 64 s.cur.copyBatch)] 4 0 ∧
      u = s1.setGroup s.curG (s1.cur.sealCopies ((s.cur.copyBatch + 1) % 65536)
        (s.copyLeft s.curG ++ [s.cur.copyBatch])) := by
  have exe : exec (.xseal d) s = .next ((s.modCur fun g => (g.setG s.curS d.val
      (BitVec.ofNat 64 s.cur.copyBatch)).sealCopies ((s.cur.copyBatch + 1) % 65536)
        (s.copyLeft s.curG ++ [s.cur.copyBatch])).next 4) := by
    refine Eq.trans (b := s.finish (s.gated ⟨[], [dg d], false⟩ _)) rfl ?_
    rw [State.gated_of_accepts accepts, if_neg (not_le.2 few)]
    rfl
  refine ⟨_, exe, _, State.uniResult_wrote accepts.live 0 d 4 (BitVec.ofNat 64 s.cur.copyBatch, 0), ?_⟩
  rw [State.uniResult, State.next_modCur, State.next_modCur, State.cur_setGroup, State.setGroup_setGroup,
    Group.next_sealCopies, Group.raise_zero]

theorem xseal_waits {s : State} {d : Reg} (accepts : s.Accepts ⟨[], [dg d], false⟩)
    (many : 128 ≤ (s.copyLeft s.curG).length) : Waits (.xseal d) s := by
  refine Eq.trans (b := s.finish (s.gated ⟨[], [dg d], false⟩ _)) rfl ?_
  rw [State.gated_of_accepts accepts, if_pos many, State.finish_wait]

theorem xwait_words (s : State) (cnt : Reg) :
    ((s.copyLeft s.curG).length ≤ cnt.val → exec (.xwait cnt) s = .next (s.next 4)) ∧
    (cnt.val < (s.copyLeft s.curG).length → Waits (.xwait cnt) s) := by
  have exe : exec (.xwait cnt) s =
    s.finish (if (s.copyLeft s.curG).length ≤ cnt.val then .done (s.next 4) else .wait s) := rfl
  refine ⟨fun few => ?_, fun many => ?_⟩
  · rw [exe, if_pos few, State.finish_done]
  · rw [Waits, exe, if_neg (not_le.2 many), State.finish_wait]

/-! ### An entry of a ring (R176, R210) -/

/-- The entry of a ring at an index, as it lies in the scratchpad of the issuing team. -/
def State.ringEntry (s : State) (r : Ring) (i : W64) : List W64 := (List.range 4).map fun j =>
  BitVec.ofNat 64 (leNat (bytesAt s.curTeam.spad (r.base + 32 * (i.toNat % r.count) + 8 * j) 8))

theorem bytesAt_part (m : List Host.Cell) (k n i w : Nat) (fits : i + w ≤ n) :
    ((bytesAt m k n).drop i).take w = bytesAt m (k + i) w := by
  refine List.ext_getElem (by simp; omega) fun j h _ => ?_
  simp [bytesAt, Nat.add_assoc]

theorem ringEntry_read (s : State) (r : Ring) (i : W64) :
    (List.range 4).map (dwOf (s.curTeam.spadBytes (r.base + 32 * (i.toNat % r.count)) 32)) = s.ringEntry r i :=
  List.map_congr_left fun j hj => by
    have := List.mem_range.1 hj
    rw [dwOf, Team.spadBytes, bytesAt_part _ _ _ _ _ (by omega)]

/-- The status of an entry is that of its bytes, its launch and the tables. -/
theorem ceStatus_congr {s t : State} (tables : t.tables = s.tables) (l : Launch) (e : List W64) :
    t.ceStatus l e = s.ceStatus l e := by
  have table (k : Nat) : t.table k = s.table k := by rw [State.table, State.table, tables]
  have side (h : W64) (n : Nat) (wr : Bool) : t.ceSide l h n wr = s.ceSide l h n wr := by
    simp only [State.ceSide, table]
  rw [State.ceStatus, State.ceStatus, side, side]

/-! ### Entries that fail their checks -/

/-- Beside a team, which may be put in its place, only copies and the number of the next pending object have changed. -/
def OnlyQueued (s t : State) (k : Nat) : Prop :=
  ∀ x, t.setTeam k x = { s.setTeam k x with copies := t.copies, nextId := t.nextId }

theorem OnlyQueued.refl (s : State) (k : Nat) : OnlyQueued s s k := fun _ => rfl

theorem setTeam_setTeam (s : State) (k : Nat) (x y : Team) : (s.setTeam k x).setTeam k y = s.setTeam k y := by
  rw [State.setTeam, State.setTeam, State.setTeam]
  dsimp only
  rw [aput_aput]

/-- The operation of an entry that fails its checks. -/
def State.failedCopy (s : State) (e : List W64) : CopyOp :=
  ⟨s.nextId, s.curG, s.cur.copyBatch, e, s.ceStatus s.curLaunch e, none, [], [], true, none, []⟩

theorem acceptCopy_failed {s : State} {e : List W64} (fails : s.ceStatus s.curLaunch e ≠ 0) :
    s.acceptCopy s.curG e = some { s with nextId := s.nextId + 1, copies := s.copies ++ [s.failedCopy e] } := if_pos fails

section
variable {s : State} {r : Ring} (n : Nat) (ring : s.curTeam.ring = some r)
include ring

theorem acceptRun_succ : s.acceptRun s.curG (n + 1) =
    (s.acceptCopy s.curG (s.ringEntry r r.cons)).elim (s, false) fun s1 =>
      (s1.modTeam (teamOf s.curG) fun t => t.withRing (some { r with cons := r.cons + 1 })).acceptRun s.curG n := by
  have ring' : (s.team (teamOf s.curG)).ring = some r := ring
  have read : (List.range 4).map (dwOf ((s.team (teamOf s.curG)).spadBytes (r.base + 32 * (r.cons.toNat % r.count)) 32)) =
    s.ringEntry r r.cons := ringEntry_read s r r.cons
  rw [State.acceptRun, ring']
  dsimp only
  rw [read]
  cases s.acceptCopy s.curG (s.ringEntry r r.cons) <;> rfl

theorem acceptRun_step {s1 : State} (takes : s.acceptCopy s.curG (s.ringEntry r r.cons) = some s1) :
    s.acceptRun s.curG (n + 1) =
      (s1.modTeam (teamOf s.curG) fun t => t.withRing (some { r with cons := r.cons + 1 })).acceptRun s.curG n :=
  (acceptRun_succ n ring).trans (by rw [takes, Option.elim_some])

theorem acceptRun_blocked (full : s.acceptCopy s.curG (s.ringEntry r r.cons) = none) :
    s.acceptRun s.curG (n + 1) = (s, false) := (acceptRun_succ n ring).trans (by rw [full, Option.elim_none])

end

/-- The first entry of a ring, which fails its checks, accepted. -/
def State.passFailed (s : State) (r : Ring) : State :=
  ({ s with
    nextId := s.nextId + 1
    copies := s.copies ++ [s.failedCopy (s.ringEntry r r.cons)] } : State).modTeam (teamOf s.curG)
      fun t => t.withRing (some { r with cons := r.cons + 1 })

/-- Entries that all fail their checks are accepted in order with their status (R210). -/
theorem acceptRun_failed (n : Nat) : ∀ {s : State} {r : Ring}, s.curTeam.ring = some r →
    (∀ j < n, s.ceStatus s.curLaunch (s.ringEntry r (r.cons + BitVec.ofNat 64 j)) ≠ 0) →
    ∃ t new, s.acceptRun s.curG n = (t, true) ∧ OnlyQueued s t (teamOf s.curG) ∧
      t.curTeam = s.curTeam.withRing (some { r with cons := r.cons + BitVec.ofNat 64 n }) ∧
      t.copies = s.copies ++ new ∧ new.map (fun z => (z.gid, z.batch, z.entry, z.status, z.done)) =
        (List.range n).map fun j => (s.curG, s.cur.copyBatch, s.ringEntry r (r.cons + BitVec.ofNat 64 j),
          s.ceStatus s.curLaunch (s.ringEntry r (r.cons + BitVec.ofNat 64 j)), true) := by
  induction n with
  | zero =>
    intro s r ring _
    refine ⟨s, [], rfl, .refl s _, ?_, (List.append_nil _).symm, rfl⟩
    rw [show r.cons + BitVec.ofNat 64 0 = r.cons from BitVec.add_zero _]
    exact (congrArg s.curTeam.withRing ring :)
  | succ n ih =>
    intro s r ring fails
    have first : r.cons + BitVec.ofNat 64 0 = r.cons := BitVec.add_zero _
    have later (j : Nat) : r.cons + BitVec.ofNat 64 (j + 1) = r.cons + 1 + BitVec.ofNat 64 j := by
      rw [BitVec.add_assoc, Nat.add_comm j 1, BitVec.ofNat_add]
      rfl
    have head := fails 0 (Nat.zero_lt_succ n)
    rw [first] at head
    let u : State := s.passFailed r
    have team : u.curTeam = s.curTeam.withRing (some { r with cons := r.cons + 1 }) := State.team_modTeam_self _ _ _
    have entry (i : W64) : u.ringEntry { r with cons := r.cons + 1 } i = s.ringEntry r i := by
      rw [State.ringEntry, team]
      rfl
    have status (e : List W64) : u.ceStatus u.curLaunch e = s.ceStatus s.curLaunch e := ceStatus_congr rfl _ _
    obtain ⟨t, new, run, queued, team', copies, list⟩ := ih (s := u) (r := { r with cons := r.cons + 1 })
      (congrArg Team.ring team) fun j hj => by
        rw [entry, status, ← later]
        exact fails (j + 1) (Nat.succ_lt_succ hj)
    refine ⟨t, s.failedCopy (s.ringEntry r r.cons) :: new, (acceptRun_step n ring (acceptCopy_failed head)).trans run,
      fun x => ?_, ?_, ?_, ?_⟩
    · exact (queued x).trans (congrArg (fun v : State => { v with copies := t.copies, nextId := t.nextId })
        (setTeam_setTeam _ _ _ x))
    · rw [team', team, later]
      rfl
    · rw [copies]
      exact List.append_assoc _ _ _
    · rw [List.map_cons, list, List.range_succ_eq_map, List.map_cons, List.map_map, first]
      refine congrArg _ (List.map_congr_left fun j _ => ?_)
      rw [entry, status, Function.comp_apply, later]
      rfl

end Sys2Proof.Machine
end

section
/-! SUPPORT. The store of a producer index to the notify word, and the entry that it publishes (R176). -/

namespace Sys2Proof.Machine

/-! ### The store to the notify word (R176) -/

theorem uniBytes_word (g : Group) (c : Bool) (b : Nat) : g.uniBytes c b 8 = leBytes 8 (g.gval c b).toNat := by
  have one : ((List.range ((8 + 7) / 8)).map fun i => g.gval c (b + i)) = [g.gval c b] := rfl
  rw [Group.uniBytes, one, List.flatMap_singleton, dwBytes]
  exact List.take_of_length_le (Nat.le_of_eq (Sys2Proof.Laws.leBytes_length 8 _))

theorem dwOf_leBytes (y : W64) : dwOf (leBytes 8 y.toNat) 0 = y := by
  have whole : ((leBytes 8 y.toNat).drop (8 * 0)).take 8 = leBytes 8 y.toNat := rfl
  rw [dwOf, whole, leNat_leBytes, Nat.mod_eq_of_lt (lt_of_lt_of_eq y.isLt (by decide)), BitVec.ofNat_toNat, BitVec.setWidth_eq]

/-- The access of the only lane of a uniform word to the notify word of its team. -/
def State.notifyAcc (s : State) (r : Ring) : Acc := ⟨0, true, .spad (teamOf s.curG) r.notify⟩

section
variable {s : State} {r : Ring} (ring : s.curTeam.ring = some r)
include ring

theorem isPublication_notify : s.isPublication (s.notifyAcc r) 8 true = true := by
  have notify : s.notifyOf (s.notifyAcc r).loc = some r.notify := congrArg (Option.map Ring.notify) ring
  rw [State.isPublication, notify]
  exact beq_self_eq_true r.notify

theorem storeCheck_notify : s.storeCheck 8 true (s.notifyAcc r) = none := by
  rw [State.storeCheck, isPublication_notify ring, Bool.not_true, Bool.and_false, if_neg Bool.false_ne_true, ite_self]
  exact if_neg Bool.false_ne_true

theorem storeNow_publishes (bytes : List Byte) (strong mark : Bool) (y : W64) :
    s.storeNow [(s.notifyAcc r, bytes)] 8 strong true mark [y] =
      if (y - r.cons).toNat ≤ r.count then s.publishOn [y] else .trap .queueFault 0xFFFF := by
  have others : ([((s.notifyAcc r, bytes) : Put)].filter fun p => !s.isPublication p.1 8 true) = [] := by
    rw [List.filter_singleton, isPublication_notify ring]
    rfl
  have nothing : s.storeAll [] 8 strong mark = s := storeAll_own s (fun _ h => absurd h List.not_mem_nil) 8 strong mark
  rw [State.storeNow, others, nothing, ring, Option.getD_some, ringOk, ringOk, Bool.and_true]
  by_cases fits : (y - r.cons).toNat ≤ r.count
  · rw [if_pos fits, decide_eq_true fits, if_neg (by decide)]
  · rw [if_neg fits, decide_eq_false fits, if_pos (by decide)]

end

/-- A release of an access at the own core. -/
theorem releaseFor_here (s : State) (far host : Bool) (released : s.released far = true) :
    s.releaseFor [s.dieOf s.curG] far host = some false := by
  have one : dedup [s.dieOf s.curG] = [s.dieOf s.curG] := rfl
  rw [State.releaseFor, one]
  dsimp only
  rw [if_neg (fun away => away.1 rfl), released, if_pos rfl]

/-- A release store of 8 bytes to the notify word publishes the producer index, where it lies within the ring. -/
theorem store_publishes {s : State} {a b : Nat} {m : MemExt} {u : Uses} {r : Ring} (accepts : s.Accepts u)
    (plain : s.inRegion s.curG = false) (release : m.ord = .release) (word : m.wid = .w8)
    (quiet : (s.cur.slot s.curS).pend = []) (ready : s.acquiring = false) (still : s.publishing (teamOf s.curG) = false)
    (released : s.released (isStrong m) = true) (ring : s.curTeam.ring = some r)
    (own : s.OwnSpad (s.cur.gval s.curS a) m.off 8 r.notify)
    (free : s.scored (teamOf s.curG) r.notify (r.notify + 8) true = false) :
    s.store false true a b m u = if (s.cur.gval s.curS b - r.cons).toNat ≤ r.count
      then s.publishOn [s.cur.gval s.curS b] else .trap .queueFault 0xFFFF := by
  have rel : (m.ord == .release) = true := by rw [release]; rfl
  have width : Width.w8.bytes = 8 := rfl
  have checks : allLanesOk (fun l => s.accOf s.curG l (s.cur.handleOf s.curS false a l) m.off ⟨8, false, true⟩
      (s.storeCheck 8 true)) (s.memLanes false true) = .ok [s.notifyAcc r] :=
    allLanesOk_map (g := fun _ => s.notifyAcc r) fun l hl => by
      rw [List.mem_singleton.1 hl]
      exact accOf_ownSpad own (storeCheck_notify ring)
  rw [State.store, quiet, if_neg (by decide), State.gated_of_accepts accepts, relaxedOnly_of_plain (.inr plain), rel, word,
    width]
  refine (congrArg (passing · _) checks).trans ?_
  rw [passing]
  dsimp only
  have unwatched : s.regionNotify 8 [s.notifyAcc r] = false := by rw [State.regionNotify, plain, Bool.false_and]
  have puts : [s.notifyAcc r].map (fun x => ((x, s.cur.bytesFrom s.curS false b x.lane 8) : Put)) =
    [(s.notifyAcc r, leBytes 8 (s.cur.gval s.curS b).toNat)] := by rw [← uniBytes_word]; rfl
  have pages (bytes : List Byte) : s.storePages [(s.notifyAcc r, bytes)] = (s, true) := rfl
  have vals : s.published 8 true [(s.notifyAcc r, leBytes 8 (s.cur.gval s.curS b).toNat)] = [s.cur.gval s.curS b] := by
    rw [State.published, List.filter_singleton, isPublication_notify ring]
    exact congrArg (fun x => [x]) (dwOf_leBytes _)
  have out (bytes : List Byte) : ([((s.notifyAcc r, bytes) : Put)].filter fun p => !s.isRegional p.1.loc) =
      [(s.notifyAcc r, bytes)] := by
    rw [List.filter_singleton, State.isRegional, plain]
    rfl
  have calm : s.regionBusy [s.notifyAcc r] = false := by rw [State.regionBusy, State.regionWaits, plain, Bool.false_and, Bool.false_and]
  have scored : [s.notifyAcc r].any (fun x => s.accScored x 8 true) = false :=
    (Bool.or_false _).trans ((Bool.true_and _).trans free)
  have behind (bytes : List Byte) : (isStrong m && s.strongBehind s.curG
      ((dataOf Loc.isTab [((s.notifyAcc r, bytes) : Put)]).map (·.1))) = false := by
    have turn : s.strongBehind s.curG [] = false := by simp [State.strongBehind, PWrite.hits]
    exact (congrArg _ turn).trans (Bool.and_false _)
  have hints : s.hintLines m.hint.code [s.notifyAcc r] = s := rfl
  have count (bytes : List Byte) : s.countOk ([((s.notifyAcc r, bytes) : Put)].foldl (fun n p => n + p.1.counts 8) 0) = true := rfl
  have die : [s.notifyAcc r].map (fun x => s.accDie x.loc) = [s.dieOf s.curG] := rfl
  rw [unwatched, if_neg Bool.false_ne_true, puts, pages, out, vals, ready, calm, scored, still, count, behind]
  dsimp only
  rw [if_neg (by decide), if_neg (by rw [List.isEmpty_cons]; decide), hints, plain, if_neg Bool.false_ne_true, if_pos rfl, die,
    releaseFor_here s _ _ released]
  exact storeNow_publishes ring _ _ _ _

end Sys2Proof.Machine
end

section
/-! SUPPORT. Entries that are accepted, and what a publication leaves (R172, R173, R176, R179). -/

namespace Sys2Proof.Machine

/-! ### Recalls and copies (R167) -/

theorem copies_packet (s : State) (a b : Nat) : (s.packet a b).1.copies = s.copies := by
  have choose : (s.choosePath a b).1.copies = s.copies := by
    unfold State.choosePath
    split <;> rfl
  unfold State.packet
  split
  · rfl
  · exact choose

theorem copies_route (s : State) (w : PWrite) : (s.route w).1.copies = s.copies := by
  unfold State.route
  refine (copies_packet _ _ _).trans ?_
  split <;> rfl

theorem copies_writeBack (s : State) (gid cl sec : Nat) (count : Bool) :
    (s.writeBack gid cl sec count).copies = s.copies := by
  unfold State.writeBack
  dsimp only
  split
  · rfl
  · split <;> exact copies_route _ _

theorem copies_flushBytes (s : State) (cl : Nat) (data : List (Nat × Byte)) : (s.flushBytes cl data).copies = s.copies := by
  unfold State.flushBytes
  split <;> rfl

theorem copies_recallSectors (s : State) (p : Nat → Bool) : (s.recallSectors p).copies = s.copies :=
  List.foldlRecOn _ _ (motive := fun u => u.copies = s.copies) rfl fun u hu c _ =>
    List.foldlRecOn _ _ (motive := fun v => v.copies = s.copies) ((copies_flushBytes u c _).trans hu) fun v hv sec _ =>
      (copies_writeBack v 0 c sec false).trans hv

/-- A recall of no line changes nothing. -/
theorem recall_nothing (s : State) : s.recall [].contains = s := by
  have none : s.unsentClusters (fun sec => [].contains (sec / 4)) = [] := by
    rw [State.unsentClusters, dedup_eq_nil, List.map_eq_nil_iff, List.filter_eq_nil_iff]
    intro e _
    rw [List.contains_nil, Bool.and_false]
    exact Bool.false_ne_true
  rw [State.recall, State.recallSectors, none]
  rfl

/-! ### The scoreboard (R172, R173) -/

/-- The intervals of an entry in the scratchpad of the issuing team. -/
def State.ceIntervals (s : State) (e : List W64) : List ScoreEntry :=
  (if spaceOf (ceSrc e) = 1 then
    [scoreEntry (s.coreOf s.curG) (teamOf s.curG) (ceOff (ceSrc e)) (ceSrcLen e) false s.nextId] else []) ++
  (if spaceOf (ceDst e) = 1 then
    [scoreEntry (s.coreOf s.curG) (teamOf s.curG) (ceOff (ceDst e)) (ceDstLen e) true s.nextId] else [])

theorem ceIntervals_core {s : State} {e : List W64} {x : ScoreEntry} (hx : x ∈ s.ceIntervals e) :
    x.core = s.coreOf s.curG := by
  obtain hx | hx := List.mem_append.1 hx
  all_goals
    split at hx
    · rw [List.mem_singleton.1 hx]
      rfl
    · exact absurd hx List.not_mem_nil

theorem length_ceIntervals (s : State) (e : List W64) : (s.ceIntervals e).length ≤ 2 := by
  rw [State.ceIntervals, List.length_append]
  split <;> split <;> simp only [List.length_cons, List.length_nil, Nat.reduceAdd, Nat.reduceLeDiff]

/-- The scoreboard entries of the issuing core. -/
def State.coreScore (s : State) : List ScoreEntry := s.score.filter fun z => z.core == s.coreOf s.curG

theorem register_room {s : State} {e : List W64} (room : s.coreScore.length + 2 ≤ 96) :
    s.takeId.register (s.ceIntervals e) = some { s.takeId with score := s.score ++ s.ceIntervals e } := by
  have fewer : (s.score.filter fun x => (s.ceIntervals e).any fun y => y.core == x.core).length ≤ s.coreScore.length := by
    rw [State.coreScore, ← List.countP_eq_length_filter, ← List.countP_eq_length_filter]
    refine List.countP_mono_left fun x _ some => ?_
    obtain ⟨y, hy, same⟩ := List.any_eq_true.1 some
    rw [← ceIntervals_core hy, beq_iff_eq, beq_iff_eq.1 same]
  exact if_pos ((Nat.add_le_add fewer (length_ceIntervals s e)).trans room)

theorem register_full {s : State} {e : List W64} (dst : spaceOf (ceDst e) = 1) (full : 96 ≤ s.coreScore.length) :
    s.takeId.register (s.ceIntervals e) = none := by
  obtain ⟨y, hy⟩ : ∃ y, y ∈ s.ceIntervals e := ⟨_, List.mem_append_right _ (by rw [if_pos dst]; exact List.mem_cons_self)⟩
  have all : s.coreScore.length ≤ (s.score.filter fun x => (s.ceIntervals e).any fun y => y.core == x.core).length := by
    rw [State.coreScore, ← List.countP_eq_length_filter, ← List.countP_eq_length_filter]
    refine List.countP_mono_left fun x _ same => List.any_eq_true.2 ⟨y, hy, ?_⟩
    rw [ceIntervals_core hy, beq_iff_eq, beq_iff_eq.1 same]
  exact if_neg (Nat.not_le.2 ((Nat.lt_succ_of_le full).trans_le (Nat.add_le_add all (List.length_pos_of_mem hy))))

/-! ### An entry that passes its checks (R176 step 3, R179) -/

/-- The destination lines of an entry. -/
def ceLines (e : List W64) : List Nat := if spaceOf (ceDst e) = 0 then linesFrom (ceDst e).toNat (ceDstLen e) else []

/-- The operation of an entry that passes its checks. -/
def State.soundCopy (s : State) (e : List W64) : CopyOp :=
  ⟨s.nextId, s.curG, s.cur.copyBatch, e, if (s.ceTargets s.curG e).2 then stDiscarded else stOk, none, ceLines e,
    (s.ceTargets s.curG e).1, false, none, []⟩

section
variable {s : State} {e : List W64} (sound : s.ceStatus s.curLaunch e = 0)
  (free : ∀ z ∈ ceLines e, s.lineBusy z = false)
include sound free

theorem acceptCopy_eq : s.acceptCopy s.curG e = (s.takeId.register (s.ceIntervals e)).map fun s1 =>
      let s2 := (s1.recall (ceLines e).contains).touchAll (s.coreOf s.curG) (cePages e)
      { s2 with copies := s2.copies ++ [s.soundCopy e] } := by
  have still : ¬((ceLines e).any s.lineBusy) = true := by
    rw [List.any_eq_true]
    rintro ⟨z, hz, busy⟩
    rw [free z hz] at busy
    cases busy
  refine (if_neg (not_not.2 sound)).trans ((if_neg still).trans ?_)
  rfl

theorem acceptCopy_full (dst : spaceOf (ceDst e) = 1) (full : 96 ≤ s.coreScore.length) : s.acceptCopy s.curG e = none := by
  rw [acceptCopy_eq sound free, register_full dst full]
  rfl

/-- With room on the scoreboard the entry is accepted: its intervals are registered and its lines recalled. -/
theorem acceptCopy_taken (room : s.coreScore.length + 2 ≤ 96) : ∃ u,
    OnlyHints ({ s.takeId with score := s.score ++ s.ceIntervals e }.recall (ceLines e).contains) u ∧
    s.acceptCopy s.curG e = some { u with copies := u.copies ++ [s.soundCopy e] } := by
  rw [acceptCopy_eq sound free, register_room room]
  exact ⟨_, onlyHints_touchAll _ _ _, rfl⟩

end

end Sys2Proof.Machine
end

section
/-! Rings, copy batches and publications (O45; R173, R176, R208, R210, R213). -/

namespace Sys2Proof.Machine

/-! ### What a publication leaves (R176) -/

/-- A team whose ring and notify word hold a consumer index. -/
def Team.announce (t : Team) (r : Ring) (y : W64) : Team :=
  (t.withRing (some { r with cons := y })).putSpad (runOf r.notify (leBytes 8 y.toNat))

/-- Of the issuing team only the ring's consumer index and the notify word are changed: both hold the index. -/
def Announced (s t : State) (r : Ring) (y : W64) : Prop :=
  { t.curTeam with spad := [] } = { s.curTeam with spad := [], ring := some { r with cons := y } } ∧
  leNat (bytesAt t.curTeam.spad r.notify 8) = y.toNat ∧
  ∀ i, i < r.notify ∨ r.notify + 8 ≤ i → byteAt t.curTeam.spad i = byteAt s.curTeam.spad i

/-- Eight bytes cover no unit whole. -/
theorem wholeUnits_word (o : Nat) (y : W64) : wholeUnits ((runOf o (leBytes 8 y.toNat)).map (·.1)) = [] := by
  rw [wholeUnits, List.filter_eq_nil_iff]
  intro u _ whole
  have near (i : Nat) (hi : i < 32) : o ≤ 32 * u + i ∧ 32 * u + i < o + 8 := by
    have has := List.all_eq_true.1 whole i (List.mem_range.2 hi)
    obtain ⟨d, hd, same⟩ := List.mem_map.1 (List.contains_iff_mem.1 has)
    have inRun := mem_runOf hd
    rw [Sys2Proof.Laws.leBytes_length, same] at inRun
    exact inRun
  have low := (near 0 (by decide)).1
  have high := (near 31 (by decide)).2
  omega

theorem announced {s t : State} {r : Ring} {y : W64} (team : t.curTeam = s.curTeam.announce r y) : Announced s t r y := by
  have length : (leBytes 8 y.toNat).length = 8 := Sys2Proof.Laws.leBytes_length 8 _
  have spad : t.curTeam.spad = setBytes s.curTeam.spad (runOf r.notify (leBytes 8 y.toNat)) := by rw [team]; rfl
  refine ⟨?_, ?_, fun i out => ?_⟩
  · have sound : (s.curTeam.spadPoison.filter fun u => !(wholeUnits ((runOf r.notify (leBytes 8 y.toNat)).map (·.1))).contains u) =
        s.curTeam.spadPoison := List.filter_eq_self.2 fun u _ => by rw [wholeUnits_word]; rfl
    rw [team, Team.announce, Team.putSpad]
    dsimp only [Team.withRing]
    rw [sound]
  · have read := bytesAt_setBytes_runOf s.curTeam.spad r.notify (leBytes 8 y.toNat)
    rw [length] at read
    rw [spad, read, leNat_leBytes, Nat.mod_eq_of_lt (lt_of_lt_of_eq y.isLt (by decide))]
  · rw [spad, byteAt_setBytes_runOf_of_outside _ _ _ (by rwa [length])]

/-! ### Publications of one index (R176) -/

/-- What the announcement by a word leaves, whatever the acceptance has changed beside groups and teams. -/
theorem announce_next {s s1 : State} (live : s.Live) (r : Ring) (y : W64) (groups : s1.groups = s.groups)
    (teams : s1.teams = s.teams) (hG : s1.curG = s.curG) (hS : s1.curS = s.curS) :
    let t := (s1.setTeam (teamOf s.curG) ((s1.team (teamOf s.curG)).announce r y)).next 8
    Announced s t r y ∧ MovesOn s t 8 s.cur := by
  have team : s1.team (teamOf s.curG) = s.curTeam := by rw [State.team, teams]; rfl
  refine ⟨announced ?_, movesOn_next live groups hG hS 8⟩
  rw [team, ← hG]
  exact State.team_modTeam_self s1 (teamOf s1.curG) fun _ => s.curTeam.announce r y

section
variable {s : State} {r : Ring} {y : W64} (ring : s.curTeam.ring = some r)
include ring

/-- The publication ends once every entry up to the index is accepted. -/
theorem publishOn_done {t : State} (run : s.acceptRun s.curG (y - r.cons).toNat = (t, true)) : s.publishOn [y] =
    .done ((t.modTeam (teamOf s.curG) fun x => x.putSpad (runOf r.notify (leBytes 8 y.toNat))).next 8) := by
  have ring' : (s.team (teamOf s.curG)).ring = some r := ring
  rw [State.publishOn, State.publishAll, State.publish, ring']
  dsimp only
  rw [run, if_pos rfl]
  rfl

/-- A publication whose first entry has to wait keeps its index. -/
theorem publishOn_waits (run : s.acceptRun s.curG (y - r.cons).toNat = (s, false)) : s.publishOn [y] =
    .wait ((s.setStage 1).modCur fun g => g.setSlot s.curS { g.slot s.curS with pend := [y] }) := by
  have ring' : (s.team (teamOf s.curG)).ring = some r := ring
  rw [State.publishOn, State.publishAll, State.publish, ring']
  dsimp only
  rw [run, if_neg Bool.false_ne_true]

/-- Entries that all fail their checks leave copies with their status, and the index is announced. -/
theorem publishOn_failed (live : s.Live) (fails : ∀ j < (y - r.cons).toNat,
      s.ceStatus s.curLaunch (s.ringEntry r (r.cons + BitVec.ofNat 64 j)) ≠ 0) : ∃ t, s.publishOn [y] = .done t ∧
    Announced s t r y ∧ OnlyOwn s { t with copies := s.copies, nextId := s.nextId } ∧ MovesOn s t 8 s.cur ∧
    ∃ new : List CopyOp, t.copies = s.copies ++ new ∧ new.map (fun z => (z.gid, z.batch, z.entry, z.status, z.done)) =
      (List.range (y - r.cons).toNat).map fun j => (s.curG, s.cur.copyBatch, s.ringEntry r (r.cons + BitVec.ofNat 64 j),
        s.ceStatus s.curLaunch (s.ringEntry r (r.cons + BitVec.ofNat 64 j)), true) := by
  obtain ⟨t, new, run, queued, team, copies, list⟩ := acceptRun_failed _ ring fails
  have index : r.cons + BitVec.ofNat 64 (y - r.cons).toNat = y := by
    rw [BitVec.ofNat_toNat, BitVec.setWidth_eq, BitVec.add_comm, BitVec.sub_add_cancel]
  rw [index] at team
  have here : t.curG = s.curG := congrArg State.curG (queued Team.absent) |>.trans rfl
  have own : t.team (teamOf s.curG) = s.curTeam.withRing (some { r with cons := y }) := by rw [← here]; exact team
  have after : (t.modTeam (teamOf s.curG) fun x => x.putSpad (runOf r.notify (leBytes 8 y.toNat))) =
      { s.setTeam (teamOf s.curG) (s.curTeam.announce r y) with copies := t.copies, nextId := t.nextId } := by
    rw [← queued, State.modTeam, own]
    rfl
  refine ⟨_, publishOn_done ring run, ?_⟩
  rw [after]
  refine ⟨announced (State.team_modTeam_self s (teamOf s.curG) fun x => x.announce r y), ⟨s.cur.next s.curS 8,
    s.curTeam.announce r y, rfl⟩, movesOn_of_slots live rfl (fun _ => rfl) rfl 8, new, copies, list⟩

/-- One entry is accepted, and the index is announced. -/
theorem publishOn_one {s1 : State} (one : (y - r.cons).toNat = 1)
    (takes : s.acceptCopy s.curG (s.ringEntry r r.cons) = some s1) : s.publishOn [y] =
      .done ((s1.setTeam (teamOf s.curG) ((s1.team (teamOf s.curG)).announce r y)).next 8) := by
  have index : r.cons + 1 = y := by
    have step : y - r.cons = 1 := BitVec.eq_of_toNat_eq one
    rw [← step, BitVec.add_comm, BitVec.sub_add_cancel]
  have run := acceptRun_step 0 ring takes
  rw [index, Nat.zero_add, ← one] at run
  refine (publishOn_done ring run).trans ?_
  rw [State.modTeam, State.team_modTeam_self, State.modTeam, setTeam_setTeam]
  rfl

section
variable {e : List W64} (one : (y - r.cons).toNat = 1) (entry : s.ringEntry r r.cons = e)
  (sound : s.ceStatus s.curLaunch e = 0)
include one entry sound

/-- An entry that writes no table is accepted: its intervals are registered, and the index is announced. -/
theorem publishOn_takes (live : s.Live) (room : s.coreScore.length + 2 ≤ 96) (away : spaceOf (ceDst e) ≠ 0) :
    ∃ t, s.publishOn [y] = .done t ∧ Announced s t r y ∧ MovesOn s t 8 s.cur ∧ t.mem.home = s.mem.home ∧
      t.score = s.score ++ s.ceIntervals e ∧ t.copies = s.copies ++ [s.soundCopy e] := by
  have lines : ceLines e = [] := if_neg away
  obtain ⟨u, hints, takes⟩ := acceptCopy_taken sound (by rw [lines]; exact fun _ h => absurd h List.not_mem_nil) room
  rw [lines, recall_nothing] at hints
  have kept : u.groups = s.groups ∧ u.teams = s.teams ∧ u.curG = s.curG ∧ u.curS = s.curS ∧ u.mem.home = s.mem.home ∧
      u.score = s.score ++ s.ceIntervals e ∧ u.copies = s.copies := by
    obtain ⟨early, walks, rfl⟩ := hints
    exact ⟨rfl, rfl, rfl, rfl, rfl, rfl, rfl⟩
  obtain ⟨groups, teams, hG, hS, home, score, copies⟩ := kept
  obtain ⟨there, moves⟩ := announce_next (s1 := { u with copies := u.copies ++ [s.soundCopy e] }) live r y groups teams hG hS
  exact ⟨_, publishOn_one ring one (by rw [entry]; exact takes), there, moves, home, score,
    congrArg (· ++ [s.soundCopy e]) copies⟩

/-- An entry that writes a table is accepted where none of its lines is busy. -/
theorem publishOn_recalls (room : s.coreScore.length + 2 ≤ 96) (free : ∀ z ∈ ceLines e, s.lineBusy z = false) :
    ∃ t, s.publishOn [y] = .done t ∧ t.copies = s.copies ++ [s.soundCopy e] := by
  obtain ⟨u, hints, takes⟩ := acceptCopy_taken sound free room
  have copies : u.copies = s.copies := by
    obtain ⟨early, walks, rfl⟩ := hints
    exact copies_recallSectors _ _
  exact ⟨_, publishOn_one (s1 := { u with copies := u.copies ++ [s.soundCopy e] }) ring one (by rw [entry]; exact takes),
    congrArg (· ++ [s.soundCopy e]) copies⟩

/-- While the scoreboard is full the store stays at its word, and its slot keeps the index (R173). -/
theorem publishOn_full (dst : spaceOf (ceDst e) = 1) (full : 96 ≤ s.coreScore.length) : s.publishOn [y] =
    .wait ((s.setStage 1).modCur fun g => g.setSlot s.curS { g.slot s.curS with pend := [y] }) := by
  have lines : ceLines e = [] := if_neg fun table => absurd (table.symm.trans dst) (by decide)
  have none := acceptCopy_full sound (by rw [lines]; exact fun _ h => absurd h List.not_mem_nil) dst full
  refine publishOn_waits ring ?_
  rw [one]
  exact acceptRun_blocked 0 ring (by rw [entry]; exact none)

end

end

/-- A slot whose publication waits holds its index at the first stage. -/
theorem slot_publishing (s : State) (vals : List W64) :
    let t := ((s.setStage 1).modCur fun g => g.setSlot s.curS { g.slot s.curS with pend := vals }).holdBack
    t.cur.slot s.curS = { s.cur.slot s.curS with stage := 1, pend := vals, waiting := true } := by
  simp only [State.holdBack, State.setStage, State.modCur_eq, State.cur_setGroup, Group.slot_setSlot_self,
    State.setGroup_curG, State.setGroup_curS, State.setGroup_setGroup]

/-! ### The operation of an entry (R172, R179, R212) -/

section
variable (s : State) {e : List W64}

theorem soundCopy_scratchpad (dst : spaceOf (ceDst e) = 1) :
    s.soundCopy e = ⟨s.nextId, s.curG, s.cur.copyBatch, e, 0, none, [], [], false, none, []⟩ := by
  have targets : s.ceTargets s.curG e = ([], false) := if_pos (by rw [dst]; decide)
  have lines : ceLines e = [] := if_neg (by rw [dst]; decide)
  rw [State.soundCopy, targets, lines]
  rfl

theorem soundCopy_core (dst : spaceOf (ceDst e) = 2) (single : ceMc e = false) :
    s.soundCopy e = ⟨s.nextId, s.curG, s.cur.copyBatch, e, 0, none, [],
      [(s.curCluster * 16 + field (ceDst e) 36 4, BitVec.ofNat 16 (field (ceDst e) 20 16))], false, none, []⟩ := by
  have targets : s.ceTargets s.curG e =
      ([(s.curCluster * 16 + field (ceDst e) 36 4, BitVec.ofNat 16 (field (ceDst e) 20 16))], false) :=
    (if_neg (not_not.2 dst)).trans (if_pos (by rw [single]; rfl))
  have lines : ceLines e = [] := if_neg (by rw [dst]; decide)
  rw [State.soundCopy, targets, lines]
  rfl

theorem soundCopy_table (dst : spaceOf (ceDst e) = 0) : s.soundCopy e =
    ⟨s.nextId, s.curG, s.cur.copyBatch, e, 0, none, linesFrom (ceDst e).toNat (ceDstLen e), [], false, none, []⟩ := by
  have targets : s.ceTargets s.curG e = ([], false) := if_pos (by rw [dst]; decide)
  have lines : ceLines e = linesFrom (ceDst e).toNat (ceDstLen e) := if_pos dst
  rw [State.soundCopy, targets, lines]
  rfl

/-- The interval of `n` bytes at a scratchpad handle. -/
def State.interval (h : W64) (n : Nat) (w : Bool) : ScoreEntry :=
  ⟨s.coreOf s.curG, teamOf s.curG, field h 0 19 / 32 * 32, (field h 0 19 + n + 31) / 32 * 32, w, s.nextId⟩

theorem interval_eq {h : W64} (space : spaceOf h = 1) (n : Nat) (w : Bool) :
    scoreEntry (s.coreOf s.curG) (teamOf s.curG) (ceOff h) n w s.nextId = s.interval h n w := by
  rw [scoreEntry, ceOff, if_neg (by rw [space]; decide), State.interval]

theorem ceIntervals_scratchpad (dst : spaceOf (ceDst e) = 1) : s.ceIntervals e =
    (if spaceOf (ceSrc e) = 1 then [s.interval (ceSrc e) (ceSrcLen e) false] else []) ++
      [s.interval (ceDst e) (ceDstLen e) true] := by
  rw [State.ceIntervals, if_pos dst, interval_eq s dst]
  split
  · next src => rw [interval_eq s src]
  · rfl

end

/-! ### The obligation -/

/-- Settles O45: the rings and batches by the words' checks, the publication by the store to the notify word and what
the acceptance of its entries does. -/
theorem copyWords : Obligations.CopyWords := by
  unfold Obligations.CopyWords
  intro s a b d cnt wa wb count plain
  refine ⟨fun accepts => ⟨?_, fun some hx1 hx2 hy1 hy2 base8 ntf8 ringIn ntfIn => ⟨fun overlap => ?_,
      fun apart unscored still => ?_⟩⟩,
    fun accepts => ⟨xseal_seals accepts, xseal_waits accepts⟩, (xwait_words s cnt).1, (xwait_words s cnt).2,
    fun m r release word ready accepts quiet still released ring own free => ?_⟩
  · rintro rfl
    obtain ⟨removes, waits⟩ := xring_removes plain accepts
    exact ⟨fun still => ⟨_, removes still, modTeam_next accepts.live _⟩, waits⟩
  · rw [Traps, xring_checked plain accepts some rfl rfl ⟨hx1, hx2, hy1, hy2⟩ ⟨base8, ntf8⟩ ⟨ringIn, ntfIn⟩, if_pos overlap,
      State.finish_trap]
  · have exe := xring_checked plain accepts some rfl rfl ⟨hx1, hx2, hy1, hy2⟩ ⟨base8, ntf8⟩ ⟨ringIn, ntfIn⟩
    rw [if_neg (by omega), unscored, still, if_neg (by decide), State.finish_done] at exe
    exact ⟨_, exe, modTeam_next accepts.live _⟩
  have accepts' : s.Accepts ⟨[sg a wa, sgs b m.wid.uniRegs wb], [], false⟩ := by
    rw [word]
    exact accepts
  have store := store_publishes (b := b.val) accepts' plain release word quiet ready still released ring own free
  have exe : exec (.gst a b wa wb m) s = s.finish (s.store false true a.val b.val m
    ⟨[sg a wa, sgs b m.wid.uniRegs wb], [], false⟩) := rfl
  rw [store] at exe
  have passes (fits : (s.cur.gval s.curS b.val - r.cons).toNat ≤ r.count) :
      exec (.gst a b wa wb m) s = s.finish (s.publishOn [s.cur.gval s.curS b.val]) := by rw [exe, if_pos fits]
  have first : s.ringEntry r r.cons = s.ringEntry r (r.cons + BitVec.ofNat 64 0) :=
    congrArg (s.ringEntry r) (BitVec.add_zero _).symm
  refine ⟨fun beyond => ?_, fun fits fails => ?_, fun one fits sound room => ⟨fun dst => ?_, fun dst single => ?_,
    fun dst free => ?_⟩, fun one fits sound dst full => ?_⟩
  · rw [Traps, exe, if_neg (Nat.not_le.2 beyond), State.finish_trap]
  · obtain ⟨t, done, there, only, moves, queued⟩ := publishOn_failed ring accepts.live fails
    exact ⟨t, (passes fits).trans (congrArg s.finish done), there, only, moves, queued⟩
  · have away : spaceOf (ceDst (s.ringEntry r (r.cons + BitVec.ofNat 64 0))) ≠ 0 := ne_of_eq_of_ne dst (by decide)
    obtain ⟨t, done, there, moves, home, score, copies⟩ := publishOn_takes ring one first sound accepts.live room away
    exact ⟨t, (passes (one ▸ fits)).trans (congrArg s.finish done), there, moves, home,
      score.trans ((congrArg (s.score ++ ·) (ceIntervals_scratchpad s dst)).trans (List.append_assoc _ _ _).symm),
      copies.trans (congrArg (s.copies ++ [·]) (soundCopy_scratchpad s dst))⟩
  · have away : spaceOf (ceDst (s.ringEntry r (r.cons + BitVec.ofNat 64 0))) ≠ 0 := ne_of_eq_of_ne dst (by decide)
    obtain ⟨t, done, there, moves, -, -, copies⟩ := publishOn_takes ring one first sound accepts.live room away
    exact ⟨t, (passes (one ▸ fits)).trans (congrArg s.finish done), there, moves,
      copies.trans (congrArg (s.copies ++ [·]) (soundCopy_core s dst single))⟩
  · have lines : ceLines (s.ringEntry r (r.cons + BitVec.ofNat 64 0)) = linesFrom _ _ := if_pos dst
    obtain ⟨t, done, copies⟩ := publishOn_recalls ring one first sound room (by rw [lines]; exact free)
    exact ⟨t, (passes (one ▸ fits)).trans (congrArg s.finish done),
      copies.trans (congrArg (s.copies ++ [·]) (soundCopy_table s dst))⟩
  · have waits := (passes (one ▸ fits)).trans (congrArg s.finish (publishOn_full ring one first sound dst full))
    have slot := slot_publishing s [s.cur.gval s.curS b.val]
    have path := congrArg Slot.path slot
    exact ⟨_, waits, ⟨congrArg Slot.waiting slot, path⟩, rfl, rfl, rfl, congrArg Slot.pend slot,
      congrArg Slot.stage slot⟩

end Sys2Proof.Machine
end
